-- ==== Sys2Proof/Word.lean ====
section
/-! DEFINITION. The words, bytes and sparse tables of the TX-40 model. -/

namespace Sys2Proof

/-- One byte. -/
abbrev Byte := BitVec 8

/-- One 64-bit scalar word of a core. -/
abbrev Word := BitVec 64

/-- A string of bytes, lowest address first. -/
abbrev Bytes := List (BitVec 8)

/-- A table from numbers to values, keys strictly rising, with no entry equal to what an unlisted key reads as. -/
abbrev NMap (α : Type) := List (Nat × α)

end Sys2Proof
end

