-- ==== Sys2Proof/Syntax.lean ====
section
/-! DEFINITION. The commands of the block: one constructor of `Instr` for each row of spec/opcode_table.json, and the
operand forms they carry. A core instruction names the core that issues it and carries every field of Table 2.5 and of its
class in Table 2.6, the reserved ones too; a packet command names the outstanding command it carries out; an event names
the unit it happens to. -/

namespace Sys2Proof

/-- The guard fields of Table 2.5: GP at [59:57], GS at [56] (02 R57, R64). -/
structure Guard where
  gp : BitVec 3
  gs : Bool
deriving DecidableEq, Repr

/-- Scalar class fields of Table 2.6. `rsv` is [33:32]. -/
structure ScalarF where
  g : Guard
  sd : BitVec 5
  sa : BitVec 5
  i : Bool
  sb : BitVec 5
  rsv : BitVec 2
  imm : BitVec 32
deriving DecidableEq, Repr

/-- Branch class fields of Table 2.6. `rsv` is [44:16]. -/
structure BranchF where
  g : Guard
  sa : BitVec 5
  rsv : BitVec 29
  off : BitVec 16
deriving DecidableEq, Repr

/-- Load/store class fields of Table 2.6. `rsv` is [36:24]. -/
structure LdStF where
  g : Guard
  rd : BitVec 5
  sa : BitVec 5
  pm : BitVec 3
  rsv : BitVec 13
  off : BitVec 24
deriving DecidableEq, Repr

/-- Tile-move class fields of Table 2.6. `rsv` is [18:0]. -/
structure TileF where
  g : Guard
  td : BitVec 4
  tk : BitVec 6
  sa : BitVec 5
  cnt : BitVec 16
  rsv : BitVec 19
deriving DecidableEq, Repr

/-- Matrix class fields of Table 2.6. `rsv` is [5:0]. -/
structure MatrixF where
  g : Guard
  ta : BitVec 4
  tk : BitVec 6
  tb : BitVec 4
  tc : BitVec 4
  bank : Bool
  fa : BitVec 4
  fb : BitVec 4
  acc : Bool
  len : BitVec 16
  rsv : BitVec 6
deriving DecidableEq, Repr

/-- Vector register fields of Table 2.6. W codes the lane width: 8, 16, 32 or 64 bits. -/
structure VecF where
  g : Guard
  vd : BitVec 4
  va : BitVec 4
  vb : BitVec 4
  pm : BitVec 3
  w : BitVec 2
  sx : BitVec 5
  aux : BitVec 28
deriving DecidableEq, Repr

/-- Vector stream fields of Table 2.6. -/
structure StreamF where
  g : Guard
  ta : BitVec 4
  tk : BitVec 6
  tb : BitVec 4
  va : BitVec 4
  cl : BitVec 8
  aux : BitVec 24
deriving DecidableEq, Repr

/-- Select class fields of Table 2.6. `rsv` is [18:0]. -/
structure SelF where
  g : Guard
  ta : BitVec 4
  tk : BitVec 6
  tb : BitVec 4
  dir : Bool
  vt : BitVec 3
  k : BitVec 13
  rsv : BitVec 19
deriving DecidableEq, Repr

/-- Sync class fields of Table 2.6. `rsv` is [20:0]. -/
structure SyncF where
  g : Guard
  tk : BitVec 6
  n : BitVec 16
  ci : BitVec 3
  b : BitVec 4
  rsv : BitVec 21
deriving DecidableEq, Repr

/-- System class fields of Table 2.6. `rsv` is [44:16]. -/
structure SysF where
  g : Guard
  sa : BitVec 5
  rsv : BitVec 29
  code : BitVec 16
deriving DecidableEq, Repr

/-- An outstanding command: its partition, queue pair and tag (11 R446). -/
structure CmdRef where
  part : Nat
  qp : Nat
  tag : Nat
deriving DecidableEq, Repr

/-- Who makes a register access (17 R668, R682): the Surveyor firmware, the scheduler, or the logical device of a partition. -/
inductive Agent where
  | surveyor
  | scheduler
  | ld (p : Nat)
deriving DecidableEq, Repr

/-- How the retry path ended for a page read (12 R509): at step 1, at step 2 after `n` retries, at step 3, at step 4, or at no step. -/
inductive ReadOutcome where
  | direct
  | retried (n : Nat)
  | deep
  | rebuilt
  | unreadable
deriving DecidableEq, Repr

/-- A requester connection of SPDM (15 R609): the DOE mailbox of a logical device, that of the FM-owned logical device, or the sideband. -/
inductive Conn where
  | doe (p : Nat)
  | fm
  | sideband
deriving DecidableEq, Repr

/-- An MCTP control message (14 R599, R600): assignment of the endpoint ID by the bus owner, or a query of what is supported. -/
inductive MctpMsg where
  | setEid (eid : BitVec 8)
  | getEid
  | getTypes
deriving DecidableEq, Repr

/-- A PLDM Type 2 operation (14 R600): a numeric sensor, a state sensor, a numeric effecter or a state effecter. -/
inductive PldmOp where
  | readTemp (sensor : Nat)
  | readVolt
  | readCurrent
  | readPower
  | readCap
  | readPowerState
  | readWarnings
  | readEvent
  | setCap (watts : BitVec 32)
  | setBrake (watts : BitVec 32)
  | requestFreeze
  | setDataEn (on : Bool)
deriving DecidableEq, Repr

/-- What a KEY_EXCHANGE request brings: the requester's exchange data and, when the session is mutually authenticated, the
public key its certificate chain is rooted in (15 R609, R612). -/
structure KeyExch where
  data : Bytes
  mutualRoot : Option Bytes
deriving DecidableEq, Repr

/-- The algorithms a NEGOTIATE_ALGORITHMS request offers among those of 15 R609. -/
structure AlgSet where
  ecdsaP384 : Bool
  sha384 : Bool
  secp384r1 : Bool
  aes256Gcm : Bool
deriving DecidableEq, Repr

/-- An IDE_KM message (15 R619): program a key set of a stream, make a key set active, or stop a stream. Stream 0 is the CXL.io
stream and stream 1 the CXL.cachemem stream. -/
inductive IdeKm where
  | keyProg (stream : Bool) (set : Bool) (key : Bytes)
  | kSetGo (stream : Bool) (set : Bool)
  | kSetStop (stream : Bool)
deriving DecidableEq, Repr

/-- The commands of the block, one constructor for each row of spec/opcode_table.json, in the table's order. -/
inductive Instr where
  /-- ADD (R69): Scalar add: sd = sa + b, 64-bit two's complement, wrapping. -/
  | add (c : Nat) (f : ScalarF)
  /-- SUB (R69): Scalar subtract: sd = sa - b, wrapping. -/
  | sub (c : Nat) (f : ScalarF)
  /-- AND (R69): Scalar bitwise AND of sa and b into sd. -/
  | and (c : Nat) (f : ScalarF)
  /-- OR (R69): Scalar bitwise OR of sa and b into sd. -/
  | or (c : Nat) (f : ScalarF)
  /-- XOR (R69): Scalar bitwise XOR of sa and b into sd. -/
  | xor (c : Nat) (f : ScalarF)
  /-- SHL (R69): Shift sa left by the low 6 bits of b. -/
  | shl (c : Nat) (f : ScalarF)
  /-- SHR (R69): Logical right shift of sa by the low 6 bits of b. -/
  | shr (c : Nat) (f : ScalarF)
  /-- SAR (R69): Arithmetic right shift of sa by the low 6 bits of b. -/
  | sar (c : Nat) (f : ScalarF)
  /-- MUL (R69): Low 64 bits of the product of sa and b. -/
  | mul (c : Nat) (f : ScalarF)
  /-- MULHU (R69): High 64 bits of the unsigned product of sa and b. -/
  | mulhu (c : Nat) (f : ScalarF)
  /-- MULHS (R69): High 64 bits of the signed product of sa and b. -/
  | mulhs (c : Nat) (f : ScalarF)
  /-- MIN (R69): Signed minimum of sa and b. -/
  | min (c : Nat) (f : ScalarF)
  /-- MAX (R69): Signed maximum of sa and b. -/
  | max (c : Nat) (f : ScalarF)
  /-- MINU (R69): Unsigned minimum of sa and b. -/
  | minu (c : Nat) (f : ScalarF)
  /-- MAXU (R69): Unsigned maximum of sa and b. -/
  | maxu (c : Nat) (f : ScalarF)
  /-- MOVHI (R69): Writes IMM into sd[63:32]; requires I = 1. -/
  | movhi (c : Nat) (f : ScalarF)
  /-- POPC (R69): Ones count of sa into sd. -/
  | popc (c : Nat) (f : ScalarF)
  /-- CLZ (R69): Leading-zero count of sa into sd. -/
  | clz (c : Nat) (f : ScalarF)
  /-- CMPEQ (R69): Writes all ones or zero to predicate SD[2:0] for sa = b. -/
  | cmpeq (c : Nat) (f : ScalarF)
  /-- CMPNE (R69): Writes all ones or zero to predicate SD[2:0] for sa != b. -/
  | cmpne (c : Nat) (f : ScalarF)
  /-- CMPLT (R69): Predicate result of signed sa < b. -/
  | cmplt (c : Nat) (f : ScalarF)
  /-- CMPLTU (R69): Predicate result of unsigned sa < b. -/
  | cmpltu (c : Nat) (f : ScalarF)
  /-- CMPLE (R69): Predicate result of signed sa <= b. -/
  | cmple (c : Nat) (f : ScalarF)
  /-- CMPLEU (R69): Predicate result of unsigned sa <= b. -/
  | cmpleu (c : Nat) (f : ScalarF)
  /-- PAND (R706): Predicate AND of two predicate registers. -/
  | pand (c : Nat) (f : ScalarF)
  /-- POR (R706): Predicate OR of two predicate registers. -/
  | por (c : Nat) (f : ScalarF)
  /-- PNOT (R706): Predicate NOT of a predicate register. -/
  | pnot (c : Nat) (f : ScalarF)
  /-- PFROMS (R706): Copies scalar sa into a predicate register. -/
  | pfroms (c : Nat) (f : ScalarF)
  /-- PTOS (R706): Copies a predicate register into scalar sd. -/
  | ptos (c : Nat) (f : ScalarF)
  /-- BR (R70): Branches to PC + OFF, or faults if the target is out of range. -/
  | br (c : Nat) (f : BranchF)
  /-- BRZ (R70): Branches if sa = 0. -/
  | brz (c : Nat) (f : BranchF)
  /-- BRNZ (R70): Branches if sa != 0. -/
  | brnz (c : Nat) (f : BranchF)
  /-- CALL (R70): Writes PC + 1 to s31 and branches. -/
  | call (c : Nat) (f : BranchF)
  /-- JR (R70): Jumps to sa[13:0]. -/
  | jr (c : Nat) (f : BranchF)
  /-- LOOP (R70): Decrements sa and branches if the result is nonzero. -/
  | loop (c : Nat) (f : BranchF)
  /-- LD8U (R72): Zero-extending 8-bit scalar load. -/
  | ld8u (c : Nat) (f : LdStF)
  /-- LD16U (R72): Zero-extending 16-bit scalar load. -/
  | ld16u (c : Nat) (f : LdStF)
  /-- LD32U (R72): Zero-extending 32-bit scalar load. -/
  | ld32u (c : Nat) (f : LdStF)
  /-- LD64 (R72): 64-bit scalar load. -/
  | ld64 (c : Nat) (f : LdStF)
  /-- LD8S (R72): Sign-extending 8-bit scalar load. -/
  | ld8s (c : Nat) (f : LdStF)
  /-- LD16S (R72): Sign-extending 16-bit scalar load. -/
  | ld16s (c : Nat) (f : LdStF)
  /-- LD32S (R72): Sign-extending 32-bit scalar load. -/
  | ld32s (c : Nat) (f : LdStF)
  /-- ST8 (R76): 8-bit scalar store, including bit-set and bit-clear alias updates. -/
  | st8 (c : Nat) (f : LdStF)
  /-- ST16 (R76): 16-bit scalar store, including alias updates. -/
  | st16 (c : Nat) (f : LdStF)
  /-- ST32 (R76): 32-bit scalar store, including alias updates. -/
  | st32 (c : Nat) (f : LdStF)
  /-- ST64 (R76): 64-bit scalar store, including alias updates. -/
  | st64 (c : Nat) (f : LdStF)
  /-- VLD (R75): 64-byte aligned vector load. -/
  | vld (c : Nat) (f : LdStF)
  /-- VST (R75): 64-byte aligned vector store. -/
  | vst (c : Nat) (f : LdStF)
  /-- VSTP (R75): Vector store of the lanes that PM enables. -/
  | vstp (c : Nat) (f : LdStF)
  /-- PLD (R75): 8-byte predicate load. -/
  | pld (c : Nat) (f : LdStF)
  /-- PST (R75): 8-byte predicate store. -/
  | pst (c : Nat) (f : LdStF)
  /-- TMOV (R71): Issues a tile copy of ROWS rows from SRC to DST on the TME. -/
  | tmov (c : Nat) (f : TileF)
  /-- TGATH (R714): Issues a gather of rows by a 32-bit index list on the TME. -/
  | tgath (c : Nat) (f : TileF)
  /-- TSCAT (R714): Issues a scatter of rows by a 32-bit index list on the TME. -/
  | tscat (c : Nat) (f : TileF)
  /-- TFILL (R715): Issues a fill of destination rows with the 64-bit value in sa. -/
  | tfill (c : Nat) (f : TileF)
  /-- TDSET (R714): Loads a tile descriptor from 32 bytes of scratchpad. -/
  | tdset (c : Nat) (f : TileF)
  /-- TDGET (R714): Stores a tile descriptor to 32 bytes of scratchpad. -/
  | tdget (c : Nat) (f : TileF)
  /-- MOP (R104): Issues an outer-product pass into an accumulator bank. -/
  | mop (c : Nat) (f : MatrixF)
  /-- MSLD (R111): Loads a stationary operand into the idle set and marks it pending. -/
  | msld (c : Nat) (f : MatrixF)
  /-- MWS (R112): Issues a weight-stationary pass of activation vectors. -/
  | mws (c : Nat) (f : MatrixF)
  /-- MRD (R119): Converts an accumulator bank, applying epilogues, and writes it out. -/
  | mrd (c : Nat) (f : MatrixF)
  /-- MCLR (R109): Clears an accumulator bank and makes it empty. -/
  | mclr (c : Nat) (f : MatrixF)
  /-- MXE_OPERATION_COMPLETE (R52): An MXE operation completes and adds 1 to its token. -/
  | mxeOperationComplete (c : Nat)
  /-- VADD (R60): Lane-wise vector add under predicate. -/
  | vadd (c : Nat) (f : VecF)
  /-- VSUB (R60): Lane-wise vector subtract. -/
  | vsub (c : Nat) (f : VecF)
  /-- VMUL (R60): Lane-wise vector multiply. -/
  | vmul (c : Nat) (f : VecF)
  /-- VMIN (R60): Lane-wise signed minimum. -/
  | vmin (c : Nat) (f : VecF)
  /-- VMAX (R60): Lane-wise signed maximum. -/
  | vmax (c : Nat) (f : VecF)
  /-- VMINU (R60): Lane-wise unsigned minimum. -/
  | vminu (c : Nat) (f : VecF)
  /-- VMAXU (R60): Lane-wise unsigned maximum. -/
  | vmaxu (c : Nat) (f : VecF)
  /-- VAND (R60): Lane-wise bitwise AND. -/
  | vand (c : Nat) (f : VecF)
  /-- VOR (R60): Lane-wise bitwise OR. -/
  | vor (c : Nat) (f : VecF)
  /-- VXOR (R60): Lane-wise bitwise XOR. -/
  | vxor (c : Nat) (f : VecF)
  /-- VSHL (R707): Shifts each lane of va left by the low log2 W bits of vb. -/
  | vshl (c : Nat) (f : VecF)
  /-- VSHR (R707): Logical right shift of each lane. -/
  | vshr (c : Nat) (f : VecF)
  /-- VSAR (R707): Arithmetic right shift of each lane. -/
  | vsar (c : Nat) (f : VecF)
  /-- VADDS (R60): Lane-wise saturating signed add. -/
  | vadds (c : Nat) (f : VecF)
  /-- VCMPEQ (R707): Vector equality compare into predicate bits. -/
  | vcmpeq (c : Nat) (f : VecF)
  /-- VCMPLT (R707): Vector signed less-than compare into predicate bits. -/
  | vcmplt (c : Nat) (f : VecF)
  /-- VCMPLTU (R707): Vector unsigned less-than compare into predicate bits. -/
  | vcmpltu (c : Nat) (f : VecF)
  /-- VSEL (R60): Selects va or vb per lane under PM, writing all lanes. -/
  | vsel (c : Nat) (f : VecF)
  /-- VBCAST (R60): Broadcasts scalar s[SX] to every lane. -/
  | vbcast (c : Nat) (f : VecF)
  /-- VRSUM (R708): Sums the enabled lanes into s[SX]. -/
  | vrsum (c : Nat) (f : VecF)
  /-- VRMIN (R708): Smallest enabled lane into s[SX]. -/
  | vrmin (c : Nat) (f : VecF)
  /-- VRMAX (R708): Largest enabled lane into s[SX]. -/
  | vrmax (c : Nat) (f : VecF)
  /-- VXPOP (R60): vd = popcount(va XOR vb) per lane. -/
  | vxpop (c : Nat) (f : VecF)
  /-- VXPOPA (R60): vd += popcount(va XOR vb) per lane. -/
  | vxpopa (c : Nat) (f : VecF)
  /-- VPOPC (R60): vd = popcount(va) per lane. -/
  | vpopc (c : Nat) (f : VecF)
  /-- VLUT (R710): Looks up each lane's low byte in a function table. -/
  | vlut (c : Nat) (f : VecF)
  /-- VCVT (R709): Converts packed elements between two non-MX formats. -/
  | vcvt (c : Nat) (f : VecF)
  /-- VQNT (R149): Quantises 16 FP32 lanes through a tensor slot and updates its statistics. -/
  | vqnt (c : Nat) (f : VecF)
  /-- VFADD (R133): FP32 lane-wise add with one rounding. -/
  | vfadd (c : Nat) (f : VecF)
  /-- VFMUL (R133): FP32 lane-wise multiply with one rounding. -/
  | vfmul (c : Nat) (f : VecF)
  /-- VFMA (R711): FP32 fused multiply-add into vd. -/
  | vfma (c : Nat) (f : VecF)
  /-- VSXP (R712): Issues a stream of Hamming distances from the query to each entry of TA. -/
  | vsxp (c : Nat) (f : StreamF)
  /-- VSTLK (R199): Issues a stream of table distances over the entries of TA. -/
  | vstlk (c : Nat) (f : StreamF)
  /-- VSQNT_QUANTISE (R142): Issues a quantising stream from TA into TB through a tensor slot. -/
  | vsqntQuantise (c : Nat) (f : StreamF)
  /-- VSQNT_LOAD (R141): Loads a tensor slot from 1 KiB at TA. -/
  | vsqntLoad (c : Nat) (f : StreamF)
  /-- VSQNT_STORE (R141): Stores a tensor slot to TB. -/
  | vsqntStore (c : Nat) (f : StreamF)
  /-- VSQNT_CLOSE (R151): Closes a round of a tensor slot, computing PROPOSED and, in hardware mode, the new scale. -/
  | vsqntClose (c : Nat) (f : StreamF)
  /-- VXE_STREAM_COMPLETE (R148): A VXE stream operation completes, merges its statistics and posts its token. -/
  | vxeStreamComplete (c : Nat)
  /-- SCLR (R164): Reads a list control block and configures an empty list. -/
  | sclr (c : Nat) (f : SelF)
  /-- STOPK (R168): Offers a row of elements to the list. -/
  | stopk (c : Nat) (f : SelF)
  /-- SSORT (R181): Sorts a row into a result record. -/
  | ssort (c : Nat) (f : SelF)
  /-- SMERGE (R182): Merges a result record into the list with deduplication. -/
  | smerge (c : Nat) (f : SelF)
  /-- SEMIT (R177): Writes the list as a result record. -/
  | semit (c : Nat) (f : SelF)
  /-- SCMRG (R184): Arrives the core's list in a cluster merge slot round. -/
  | scmrg (c : Nat) (f : SelF)
  /-- SLE_OPERATION_COMPLETE (R52): An SLE operation completes and posts its token. -/
  | sleOperationComplete (c : Nat)
  /-- MERGE_ROUND_COMPLETE (R185): The merge network writes a round's record and posts every participant's token. -/
  | mergeRoundComplete (k : Nat) (slot : Nat)
  /-- TME_OPERATION_COMPLETE (R52): A TME transfer completes and posts its token. -/
  | tmeOperationComplete (c : Nat)
  /-- WAIT (R53): Stalls until a token reaches N and then subtracts N indivisibly. -/
  | wait (c : Nat) (f : SyncF)
  /-- POST (R53): Adds N to an own token. -/
  | post (c : Nat) (f : SyncF)
  /-- POSTC (R82): Adds N to a token of another core of the cluster. -/
  | postc (c : Nat) (f : SyncF)
  /-- BAR (R89): Arrives at a cluster barrier and waits for release. -/
  | bar (c : Nat) (f : SyncF)
  /-- FENCE (R82): Waits until every earlier store, alias update and POSTC has taken effect. -/
  | fence (c : Nat) (f : SyncF)
  /-- HALT (R403): Waits for engine operations and ends the core's program with a status. -/
  | halt (c : Nat) (f : SysF)
  /-- EVT (R656): Raises a program event or a route mark. -/
  | evt (c : Nat) (f : SysF)
  /-- TRAP (R100): Raises a trap fault with CODE. -/
  | trap (c : Nat) (f : SysF)
  /-- RDSTEP (R40): Reads CORE_STEP_CNT into sa. -/
  | rdstep (c : Nat) (f : SysF)
  /-- RDCORE (R66): Reads the core number into sa. -/
  | rdcore (c : Nat) (f : SysF)
  /-- RDCTX (R66): Reads the context number into sa. -/
  | rdctx (c : Nat) (f : SysF)
  /-- HOLD (R93): CORE_CTL.HOLD stops issue at the next instruction boundary for diagnostics. -/
  | hold (c : Nat) (on : Bool)
  /-- PREEMPT (R93): CORE_CTL.PREEMPT starts the save of the core's context. -/
  | preempt (c : Nat)
  /-- CONTEXT_SAVED (R93): The context image is written; STATE becomes saved and the scheduler is notified. -/
  | contextSaved (c : Nat)
  /-- RESTORE (R97): CORE_CTL.RESTORE starts writing the image back from CORE_SAVE_BASE. -/
  | restore (c : Nat)
  /-- RESTORE_DONE (R97): Restore ends; engines resume and issue resumes at the resume PC. -/
  | restoreDone (c : Nat)
  /-- SCRUB (R103): CORE_CTL.SCRUB sets the core to the zero state. -/
  | scrub (c : Nat)
  /-- CLU_BAR_MASK_WRITE (R91): Writing a barrier mask discards the barrier's arrivals. -/
  | cluBarMaskWrite (k : Nat) (b : Nat) (v : BitVec 32)
  /-- PAGE_READ_REQUEST (R210): The channel controller issues a page read request when PROD passes its number. -/
  | pageReadRequest (c : Nat)
  /-- PAGE_READ_COMPLETE (R211): The controller writes the page and STATUS, advances CONS and posts the token. -/
  | pageReadComplete (c : Nat) (m : Nat) (o : ReadOutcome)
  /-- FCH_REQ_RING_EN (R212): Writing EN 0 then 1 re-arms the ring and sets CONS to PROD. -/
  | fchReqRingEn (die : Nat) (j : Nat) (v : BitVec 32)
  /-- GZ_CREATE (R202): Creates an empty Gazetteer index at epoch 0. -/
  | gzCreate (r : CmdRef)
  /-- GZ_SET_CENTROIDS (R219): Replaces centroid codes, committing at one epoch. -/
  | gzSetCentroids (r : CmdRef)
  /-- GZ_INSERT (R221): Places insert records in lists and commits them at one epoch. -/
  | gzInsert (r : CmdRef)
  /-- GZ_DELETE (R223): Removes every visible copy of the named IDs at one epoch. -/
  | gzDelete (r : CmdRef)
  /-- GZ_QUERY (R207): Answers a batch of queries at its snapshot. -/
  | gzQuery (r : CmdRef)
  /-- GZ_SAMPLE (R234): Answers a batch with exact and approximate records over a sample of lists. -/
  | gzSample (r : CmdRef)
  /-- GZ_COMPACT (R225): Starts compaction of the named lists at once. -/
  | gzCompact (r : CmdRef)
  /-- GZ_STAT (R191): Returns an index's counters and version figures. -/
  | gzStat (r : CmdRef)
  /-- GZ_DROP (R191): Removes the index once earlier commands complete. -/
  | gzDrop (r : CmdRef)
  /-- SCAN_REQUEST (R209): A scanning core takes a 64-byte scan request and scans a list segment for its queries. -/
  | scanRequest (p : Nat) (c : Nat) (req : Bytes)
  /-- COMPACTION_START (R228): In hardware mode, compaction starts by itself for a list past TAIL_PCT or TOMB_PCT. -/
  | compactionStart (p : Nat) (ix : Nat) (list : Nat)
  /-- LIST_VERSION_SWITCH (R225): A compacted list version switches at a new epoch, with a hardware centroid update. -/
  | listVersionSwitch (p : Nat) (ix : Nat) (list : Nat)
  /-- TOMBSTONE_APPLY (R224): A pending delete becomes a tombstone bit once no query has an older snapshot. -/
  | tombstoneApply (p : Nat) (ix : Nat)
  /-- LIST_VERSION_FREE (R226): A list version and its cache copy are freed once no admitted query is bound to it. -/
  | listVersionFree (p : Nat) (ix : Nat) (list : Nat) (ver : Nat)
  /-- FL_LOAD (R237): Stores a filter image and returns a handle. -/
  | flLoad (r : CmdRef)
  /-- FL_UNLOAD (R236): Removes a filter image once earlier runs complete. -/
  | flUnload (r : CmdRef)
  /-- FL_RUN (R240): Runs a filter over every page of the named streams. -/
  | flRun (r : CmdRef)
  /-- FILTER_INVOCATION (R242): The framework calls the filter program for one page on a flash-side core. -/
  | filterInvocation (r : CmdRef) (page : Nat) (c : Nat)
  /-- FILTER_OVERRUN (R245): An invocation not returned within FCH_FLT_LIMIT steps is stopped. -/
  | filterOverrun (c : Nat)
  /-- QUANTUM_START (R256): A flash-side core starts its next quantum by weighted round robin. -/
  | quantumStart (c : Nat)
  /-- EMBED_ENCODE_DONE (R261): The encode output is binarised, inserted and the embedding write commits. -/
  | embedEncodeDone (r : CmdRef) (v : Bytes)
  /-- AT_CREATE (R273): Creates an Atlas table as version 1. -/
  | atCreate (r : CmdRef)
  /-- AT_DROP (R271): Removes a table once earlier commands complete. -/
  | atDrop (r : CmdRef)
  /-- AT_SCATTER (R282): Writes, adds to or marks missing named rows. -/
  | atScatter (r : CmdRef)
  /-- AT_GATHER (R289): Reads, pools and returns rows of a gather batch. -/
  | atGather (r : CmdRef)
  /-- AT_PREFETCH (R297): Brings flash-backed rows into DRAM. -/
  | atPrefetch (r : CmdRef)
  /-- AT_SYNC (R281): Writes every dirty row of a flash-backed table to flash. -/
  | atSync (r : CmdRef)
  /-- AT_VBEGIN (R302): Starts a building version beside the current one. -/
  | atVbegin (r : CmdRef)
  /-- AT_VSEAL (R304): Seals the building version, switching at once in hardware mode. -/
  | atVseal (r : CmdRef)
  /-- AT_VSWITCH (R305): Switches to the sealed version in host-assisted mode. -/
  | atVswitch (r : CmdRef)
  /-- AT_MIGRATE (R310): Moves rows or adds and removes replicas. -/
  | atMigrate (r : CmdRef)
  /-- AT_STAT (R271): Returns a table's counters and most gathered rows. -/
  | atStat (r : CmdRef)
  /-- ROW_FLASH_FILL (R279): A flash read of a missed row completes and the row is installed. -/
  | rowFlashFill (p : Nat) (tab : Nat) (row : Nat) (o : ReadOutcome)
  /-- HOT_ROW_EVALUATION (R309): Every 2^20 routed indices the tier manager adds or removes replicas. -/
  | hotRowEvaluation (p : Nat) (tab : Nat)
  /-- MIGRATION_COPY_DONE (R311): A row copy ends; RVER is compared and the destination comes into effect or is copied again. -/
  | migrationCopyDone (p : Nat) (tab : Nat) (row : Nat)
  /-- TABLE_VERSION_FREE (R306): A retained table version is freed once nothing is bound to it. -/
  | tableVersionFree (p : Nat) (tab : Nat) (ver : Nat)
  /-- COPY_SLOT_FREE (R314): An old or removed copy slot is freed once no earlier batch remains. -/
  | copySlotFree (p : Nat) (tab : Nat) (row : Nat) (chan : Nat)
  /-- UP_SETOPT (R321): Sets a table's optimiser and resets its state. -/
  | upSetopt (r : CmdRef)
  /-- UP_FREEZE (R340): Freezes or thaws ranges of rows. -/
  | upFreeze (r : CmdRef)
  /-- UP_BEGIN (R326): Opens an update step and returns a handle. -/
  | upBegin (r : CmdRef)
  /-- UP_GRAD (R332): Carries gradient records into an open step. -/
  | upGrad (r : CmdRef)
  /-- UP_END (R336): Ends a step, running pass 2 in a clipped step, and publishes the step report. -/
  | upEnd (r : CmdRef)
  /-- GRADIENT_RECORD (R323): An update unit reads a gradient record and applies or stages it. -/
  | gradientRecord (r : CmdRef)
  /-- UPDATE_UNIT_FAIL (R348): A failed update unit's rows pass to the next unit in service. -/
  | updateUnitFail (u : Nat)
  /-- MD_LOAD (R354): Makes a model package resident. -/
  | mdLoad (r : CmdRef)
  /-- MD_UNLOAD (R355): Starts the end of model residence. -/
  | mdUnload (r : CmdRef)
  /-- UNLOAD_FINISH (R355): After the last earlier request completes, all model DRAM is freed and STATE becomes none. -/
  | unloadFinish
  /-- MD_GRANT (R357): Lets another partition call named entry points. -/
  | mdGrant (r : CmdRef)
  /-- MD_REVOKE (R357): Withdraws a partition's grant. -/
  | mdRevoke (r : CmdRef)
  /-- MD_GEN (R374): Submits a generate request. -/
  | mdGen (r : CmdRef)
  /-- MD_ENCODE (R450): Returns one output vector per item. -/
  | mdEncode (r : CmdRef)
  /-- MD_RANK (R450): Returns one score per candidate. -/
  | mdRank (r : CmdRef)
  /-- MD_DROPKV (R381): Frees retained KV under a handle. -/
  | mdDropkv (r : CmdRef)
  /-- MD_STAT (R353): Returns residence, pool and tier counters. -/
  | mdStat (r : CmdRef)
  /-- SEQUENCE_ENTRY (R374): A waiting generate request enters a batch slot when a slot and KV room are free. -/
  | sequenceEntry (e : Nat)
  /-- GEN_STEP_START (R378): The tier manager forms a step, writes the step area and posts STEP_TK. -/
  | genStepStart (e : Nat)
  /-- BEGIN (R370): Route mark: a traversal entered a leg; stream legs ahead are prefetched. -/
  | begin (c : Nat) (leg : Nat)
  /-- DEMAND (R370): Route mark: fetch a demand leg now. -/
  | demand (c : Nat) (leg : Nat)
  /-- RELEASE (R372): Route mark: a core has finished with its entries of a leg. -/
  | release (c : Nat) (leg : Nat)
  /-- STEP_DONE (R378): Route mark: the step's results are complete and the step ends. -/
  | stepDone (c : Nat)
  /-- RUN_FETCH_DONE (R371): A pinned run is resident; its address is written and the ready token posted. -/
  | runFetchDone (e : Nat) (leg : Nat) (i : Nat)
  /-- KV_REBUILD (R384): A sequence's KV is rebuilt by running prefill again. -/
  | kvRebuild (e : Nat) (slot : Nat)
  /-- CX_RUN (R397): Creates and admits a job context. -/
  | cxRun (r : CmdRef)
  /-- CX_POST (R402): Adds N to a token of a job context core, or holds it if saved. -/
  | cxPost (r : CmdRef)
  /-- ST_CLUSTER (R418): Drains and self-tests one cluster. -/
  | stCluster (r : CmdRef)
  /-- CONTEXT_PLACE (R406): A waiting runnable context is made resident once its cores are free. -/
  | contextPlace (x : Nat)
  /-- BLOCKED_SAVE (R407): After SCH_BLOCK.MIN of blocking, blocked contexts are saved for a waiting one. -/
  | blockedSave (p : Nat)
  /-- SLICE_PREEMPT (R408): After SLICE of waiting, resident contexts holding needed cores are pre-empted. -/
  | slicePreempt (x : Nat)
  /-- JOB_RESTART (R415): After a failed part a job context is restarted from its start. -/
  | jobRestart (x : Nat) (cause : Nat)
  /-- STALL_DETECT (R425): A completion or transfer-ready waiting over 1 s sets SCH_STALL. -/
  | stallDetect (p : Nat)
  /-- HOSTED_NUMBER_SWITCH (R571): A host core saves one hosted number and restores the next. -/
  | hostedNumberSwitch (c : Nat)
  /-- TRANSPARENT_TEST (R568): A 256-byte SRAM region is shadowed, march-tested and written back. -/
  | transparentTest (c : Nat) (region : Nat)
  /-- COMMAND_PACKET (R445): The module reads and checks a submission packet. -/
  | commandPacket (p : Nat) (q : Nat)
  /-- ADMISSION (R458): A command is admitted once its answer blocks are reserved. -/
  | admission (r : CmdRef)
  /-- TRANSFER_READY (R456): A staging slot is allocated and a transfer-ready entry written. -/
  | transferReady (r : CmdRef)
  /-- DATA_DONE (R457): Host signals its staged data is in place for a command. -/
  | dataDone (r : CmdRef) (token : BitVec 16)
  /-- COMPLETION_ENTRY_WRITE (R454): A completion entry is written once ring space is free. -/
  | completionEntryWrite (r : CmdRef)
  /-- ANSWER_PUBLISH (R463): Once all work completes, the answer is written and its completion posted. -/
  | answerPublish (r : CmdRef)
  /-- UNIT_RERUN (R468): A failed unit is withdrawn and its part runs again on another unit. -/
  | unitRerun (r : CmdRef)
  /-- SQ_TAIL (R441): Doorbell write of SQ_TAIL announces submission slots. -/
  | sqTail (p : Nat) (q : Nat) (v : BitVec 16)
  /-- CQ_HEAD (R441): Doorbell write of CQ_HEAD consumes completion entries. -/
  | cqHead (p : Nat) (q : Nat) (v : BitVec 16)
  /-- ANSWER_RELEASE (R465): Doorbell write of REL_FIRST and REL_COUNT frees an answer. -/
  | answerRelease (p : Nat) (q : Nat) (first : BitVec 32) (count : BitVec 32)
  /-- SHARE_READ (R434): A CXL.mem read of a window share. -/
  | shareRead (p : Nat) (off : Nat) (len : Nat)
  /-- SHARE_WRITE (R433): A CXL.mem write of a window share, stored in two copies. -/
  | shareWrite (p : Nat) (off : Nat) (data : Bytes)
  /-- QP_CREATE (R438): Sets up a queue pair from a descriptor. -/
  | qpCreate (r : CmdRef)
  /-- QP_DELETE (R440): Aborts a queue pair's commands and frees it. -/
  | qpDelete (r : CmdRef)
  /-- NQP_QP0_CTL_EN (R437): Writing EN sets up or removes queue pair 0. -/
  | nqpQp0CtlEn (p : Nat) (v : BitVec 32)
  /-- PWR_SET (R481): Requests entry to a power state. -/
  | pwrSet (r : CmdRef)
  /-- POWER_STATE_ENTERED (R481): Entry ends once commands complete and the state's condition holds. -/
  | powerStateEntered
  /-- ENTRY_LIMIT (R481): After ENTRY_LIMIT ms the module stops acting on SQ_TAIL writes until entry ends. -/
  | entryLimit
  /-- IDENTIFY (R449): Returns the partition's identity figures. -/
  | identify (r : CmdRef)
  /-- ABORT (R476): Stops a named command if it can and reports the outcome. -/
  | abort (r : CmdRef)
  /-- HOST_TIME (R661): Records a host time mark. -/
  | hostTime (r : CmdRef)
  /-- FB_READ (R659): Returns Field Book records from an area. -/
  | fbRead (r : CmdRef)
  /-- RD (R469): Reads bytes of a namespace. -/
  | rd (r : CmdRef)
  /-- WR (R470): Writes bytes of a namespace into the write buffer. -/
  | wr (r : CmdRef)
  /-- FLUSH (R472): Completes once earlier writes to a namespace are programmed. -/
  | flush (r : CmdRef)
  /-- TRIM (R472): Makes a range read as zeros. -/
  | trim (r : CmdRef)
  /-- FUNCTION_LEVEL_RESET (R483): An FLR or CXL reset clears one logical device's queues and commands. -/
  | functionLevelReset (p : Nat)
  /-- LINK_RESET (R484): Loss of link, hot reset or PERST_N low (`perst`) resets every logical device. -/
  | linkReset (perst : Bool)
  /-- LINK_READY (R690): The link becomes ready for configuration 100 ms after the later of PERST_N rise and step 6. -/
  | linkReady
  /-- HOLDUP_MEASURE (R473): The hold-up energy is measured, entering or leaving write-through. -/
  | holdupMeasure (joules : Nat)
  /-- GET_PARTITION_MAP (R430): FM vendor command returning the partition map. -/
  | getPartitionMap
  /-- SET_PARTITION_MAP (R390): FM vendor command writing the partition map. -/
  | setPartitionMap (map : List (Option Nat))
  /-- SET_POWER_OWNER (R430): FM vendor command naming the power owner partition. -/
  | setPowerOwner (p : Nat)
  /-- SET_LD_ALLOCATIONS (R431): FM command setting each logical device's window share. -/
  | setLdAllocations (shares : List Nat)
  /-- GR_NS_CREATE (R490): Creates a namespace and reserves its capacity. -/
  | grNsCreate (r : CmdRef)
  /-- GR_NS_DELETE (R494): Trims and deletes a namespace. -/
  | grNsDelete (r : CmdRef)
  /-- GR_NS_SET (R494): Sets a namespace's READ_ONLY flag. -/
  | grNsSet (r : CmdRef)
  /-- GR_NS_LIST (R493): Lists the partition's namespaces. -/
  | grNsList (r : CmdRef)
  /-- GR_HEALTH (R531): Returns the health answer. -/
  | grHealth (r : CmdRef)
  /-- GR_PH_OPEN (R536): Opens a placement handle on a namespace. -/
  | grPhOpen (r : CmdRef)
  /-- GR_PH_CLOSE (R539): Ends writes under a placement handle. -/
  | grPhClose (r : CmdRef)
  /-- GR_PH_STAT (R538): Returns a handle's superblocks. -/
  | grPhStat (r : CmdRef)
  /-- GR_WL (R522): Relocates a named superblock for wear levelling. -/
  | grWl (r : CmdRef)
  /-- DESTAGE (R501): Buffered units are programmed to QLC or the SLC cache. -/
  | destage (p : Nat) (ns : Nat) (unit : Nat) (slc : Bool)
  /-- JOURNAL_PROGRAM (R497): A journal page is programmed to the system blocks. -/
  | journalProgram
  /-- CHECKPOINT (R498): A 4 MiB map piece is written to the system blocks. -/
  | checkpoint
  /-- SUPERBLOCK_VERIFY (R505): A closed superblock is read back and its full parity released. -/
  | superblockVerify (sb : Nat) (bad : List Nat)
  /-- PROGRAM_FAIL (R506): A failed program's pages are rebuilt and the block retired. -/
  | programFail (sb : Nat) (pos : Nat)
  /-- DIE_RETIRE (R507): A failed or unreachable NAND die is retired and rebuilt elsewhere. -/
  | dieRetire (die : Nat)
  /-- GARBAGE_COLLECTION (R514): While free space is below START, a victim superblock is collected. -/
  | garbageCollection
  /-- READ_DISTURB_RELOCATE (R513): A block read more than READ_LIMIT times is relocated. -/
  | readDisturbRelocate (die : Nat) (blk : Nat)
  /-- ERASE_DONE (R519): A block erase ends and its erase-done record is journaled. -/
  | eraseDone (die : Nat) (blk : Nat) (ok : Bool)
  /-- WEAR_LEVELLING (R521): While the spread exceeds WL_SPREAD, cold data moves to worn blocks. -/
  | wearLevelling
  /-- HEAT_AGE_TICK (R523): Each second every package's heat-age clock advances by AF(T). -/
  | heatAgeTick
  /-- MEDIA_READY (R529): Mount ends and waiting commands proceed. -/
  | mediaReady
  /-- RESURVEY_VISIT (R549): Resurvey reads a DRAM line and writes back a correction. -/
  | resurveyVisit (g : Nat)
  /-- FRAME_RETIRE (R559): A DRAM frame is copied to a donor frame and remapped. -/
  | frameRetire (g : Nat) (fr : Nat)
  /-- BANK_RETIRE (R560): A DRAM bank's slices are moved to donor frames. -/
  | bankRetire (g : Nat) (bank : Nat)
  /-- CHANNEL_WITHDRAW (R561): A DRAM channel is withdrawn and its core hosted. -/
  | channelWithdraw (g : Nat)
  /-- ECC_RET_CMD_GO (R562): Starts a host-assisted frame or bank retirement. -/
  | eccRetCmdGo (w : Agent) (v : BitVec 32)
  /-- ECC_FLIP_CTL_ARMED (R552): Arms the flip mask on the next write of the named line. -/
  | eccFlipCtlArmed (w : Agent) (v : BitVec 32)
  /-- ECC_FLIP_ADDR_WRITE (R553): Writing the flip address while armed disarms the mask. -/
  | eccFlipAddrWrite (w : Agent) (hi : Bool) (v : BitVec 32)
  /-- ECC_FLIP_MASK_WRITE (R553): Writing a flip mask word while armed disarms the mask. -/
  | eccFlipMaskWrite (w : Agent) (i : Nat) (v : BitVec 32)
  /-- RAW_WRITE (R554): ECC_DIAG_CMD OP 10 writes 72 bytes to a line without encoding. -/
  | rawWrite (w : Agent)
  /-- RAW_READ (R554): ECC_DIAG_CMD OP 01 reads a line's 72 stored bytes. -/
  | rawRead (w : Agent)
  /-- CORE_FAIL (R570): A failed core is replaced by a spare or withdrawn. -/
  | coreFail (c : Nat)
  /-- STACK_OUT_OF_SERVICE (R574): A failed stack die takes its stack out of service. -/
  | stackOutOfService (n : Nat)
  /-- CHANNEL_DIE_FAIL (R573): A failed channel die makes its flash channels unreachable. -/
  | channelDieFail (n : Nat)
  /-- HUB_FAIL (R33): A hub or hub link fails and traffic passes through the other hub. -/
  | hubFail (hub : Nat) (die : Option Nat)
  /-- LOCKSTEP_MISMATCH (R575): A lockstep mismatch resets the Surveyor pair and restarts the firmware. -/
  | lockstepMismatch
  /-- WATCHDOG_EXPIRY (R576): Watchdog expiry resets the Surveyor as a mismatch does. -/
  | watchdogExpiry
  /-- TIME_IN_BIN_TICK (R579): Every minute a time-in-bin counter advances for each class. -/
  | timeInBinTick
  /-- DROOP_TRIP (R580): A droop detector trip halves every clocked domain and core issue. -/
  | droopTrip
  /-- DROOP_RELEASE (R581): After 1 µs within 3 %, the droop response is released. -/
  | droopRelease (ns : Nat)
  /-- PWRBRK_N_ASSERT (R588): PWRBRK_N low for 1 µs sets G and the brake limit. -/
  | pwrbrkNAssert
  /-- PWRBRK_N_RELEASE (R588): PWRBRK_N high for 1 µs lifts the brake limit. -/
  | pwrbrkNRelease
  /-- PWR_CAP_W_WRITE (R589): Writing PWR_CAP_W changes the effective cap. -/
  | pwrCapWWrite (w : Agent) (v : BitVec 32)
  /-- THERMAL_GOVERNOR_TICK (R590): The thermal cap falls every 10 ms or rises every 100 ms. -/
  | thermalGovernorTick
  /-- THERMAL_TRIP (R591): A sensor at its trip point drops the link and stops the module. -/
  | thermalTrip (sensor : Nat)
  /-- THERMAL_TRIP_RELEASE (R591): Once cooled 15 °C below the trip, the power-up sequence begins. -/
  | thermalTripRelease
  /-- FREEZE_N_ASSERT (R593): FREEZE_N low for 20 ns freezes the module. -/
  | freezeNAssert
  /-- FRZ_CTL_FREEZE (R593): Writing FRZ_CTL.FREEZE freezes the module. -/
  | frzCtlFreeze (w : Agent)
  /-- PERST_FREEZE_EXIT (R597): PERST_N held low 1 ms during a freeze starts a freeze exit. -/
  | perstFreezeExit
  /-- BYPASS (R595): Test-port BYPASS instruction. -/
  | bypass (bits : List Bool)
  /-- SAMPLE (R595): Test-port SAMPLE instruction. -/
  | sample
  /-- PRELOAD (R595): Test-port PRELOAD instruction. -/
  | preload (bits : List Bool)
  /-- EXTEST (R595): Test-port EXTEST instruction. -/
  | extest (bits : List Bool)
  /-- SELECT (R595): Selects a die unit for the vendor instructions during a freeze. -/
  | select (v : BitVec 16)
  /-- STAGE_SCAN (R595): Reads a unit's handshake-stage latches and sequencer record. -/
  | stageScan
  /-- REG_READ (R595): Reads a BAR0 register during a freeze. -/
  | regRead (off : BitVec 32)
  /-- MEM_READ (R596): Reads stored memory bytes during a freeze. -/
  | memRead (addr : BitVec 64) (len : BitVec 32)
  /-- FRZ_STATUS (R595): Reads FRZ_STS through the test port. -/
  | frzStatus
  /-- EXIT (R597): Starts a freeze exit and the power-up sequence. -/
  | exit
  /-- TEST_PORT_RESET (R694): TRST_N low or five TCK cycles with TMS high reset the test port. -/
  | testPortReset
  /-- POWER_LOSS (R598): Input below 45 V for 10 µs starts the hold-up flush. -/
  | powerLoss
  /-- POWER_ON (R689): After 54 V stands for 1 ms the power-up sequence runs. -/
  | powerOn
  /-- I3C_DYNAMIC_ADDRESS (R599): An I3C controller assigns a dynamic address and the module becomes an I3C target. -/
  | i3cDynamicAddress (addr : BitVec 7)
  /-- MCTP_CONTROL (R600): An MCTP control message on the sideband. -/
  | mctpControl (m : MctpMsg)
  /-- PLDM_PLATFORM (R600): A PLDM Type 2 sensor read or effecter write. -/
  | pldmPlatform (m : PldmOp)
  /-- REQUEST_UPDATE (R635): PLDM Type 5 RequestUpdate begins staging as FIRST. -/
  | requestUpdate
  /-- APPLY_COMPLETE (R635): PLDM Type 5 ApplyComplete checks the staged image as LAST. -/
  | applyComplete
  /-- ACTIVATE_FIRMWARE (R636): PLDM ActivateFirmware activates the staged slot. -/
  | activateFirmware
  /-- FW_STAGE (R635): Stages a chunk of a firmware image. -/
  | fwStage (r : CmdRef)
  /-- FW_ACTIVATE (R636): Activates the staged image, or raises the rollback floor with OBJECT 1. -/
  | fwActivate (r : CmdRef)
  /-- IMAGE_CONFIRM (R639): An activated image that runs 60 s without restart is confirmed. -/
  | imageConfirm
  /-- GET_CERTIFICATE (R606): SPDM certificate chain request. -/
  | getCertificate (k : Conn) (slot : Nat)
  /-- CHALLENGE (R610): SPDM challenge answered with dual signatures. -/
  | challenge (k : Conn) (slot : Nat) (nonce : Bytes)
  /-- GET_MEASUREMENTS (R611): SPDM measurements request, the identity statement. -/
  | getMeasurements (k : Conn) (idx : Nat) (sign : Bool) (nonce : Bytes)
  /-- KEY_EXCHANGE (R609): SPDM key exchange opening a secured session. -/
  | keyExchange (k : Conn) (m : KeyExch)
  /-- HEARTBEAT (R609): SPDM session heartbeat. -/
  | heartbeat (k : Conn)
  /-- KEY_UPDATE (R609): SPDM session key update. -/
  | keyUpdate (k : Conn)
  /-- HSS_COMPANION_REQUEST (R607): Vendor request returning the HSS companions. -/
  | hssCompanionRequest (k : Conn) (level : Nat)
  /-- HSS_SIGNATURE_REQUEST (R610): Vendor request returning the HSS signature of a signed response. -/
  | hssSignatureRequest (k : Conn) (n : Nat)
  /-- STORE_OWNER (R612): Vendor request storing or replacing the owner key. -/
  | storeOwner (k : Conn) (key : Bytes)
  /-- CRYPTO_ERASE (R623): Owner request destroying a partition's media key. -/
  | cryptoErase (k : Conn) (p : Nat)
  /-- CLEAR_NONCE (R663): Vendor request returning a clear nonce. -/
  | clearNonce (k : Conn)
  /-- CLEAR (R665): Owner request clearing rolling-area records up to UPTO. -/
  | clear (k : Conn) (nonce : Bytes) (token : Bytes) (upto : BitVec 64)
  /-- IDE_KM (R619): IDE key management message in a secured session. -/
  | ideKm (k : Conn) (m : IdeKm)
  /-- IDE_INTEGRITY_FAILURE (R620): An IDE integrity failure drops the link. -/
  | ideIntegrityFailure (stream : Nat)
  /-- BFL_KEY (R625): An unlock key write of the boot flash command sequence. -/
  | bflKey (w : Agent) (ns : Nat) (v : BitVec 32)
  /-- BFL_PROGRAM (R628): Programs a boot flash word on the final data write. -/
  | bflProgram (w : Agent) (ns : Nat) (v : BitVec 32)
  /-- BFL_ERASE (R630): Erases a boot flash sector on the final data write. -/
  | bflErase (w : Agent) (ns : Nat) (v : BitVec 32)
  /-- BFL_SUSPEND (R629): Suspends a running erase. -/
  | bflSuspend (w : Agent)
  /-- BFL_RESUME (R629): Resumes a suspended erase. -/
  | bflResume (w : Agent)
  /-- BFL_READ (R626): Reads a stored boot flash word into BFL_RDATA. -/
  | bflRead (w : Agent)
  /-- BFL_OPERATION_COMPLETE (R627): A boot flash program or erase ends. -/
  | bflOperationComplete
  /-- FIELD_BOOK_PAGE_PROGRAM (R648): A rolling-area page is programmed when full or 10 ms after its first record. -/
  | fieldBookPageProgram (page : Nat)
  /-- EVT_FORCE (R678): Writing EVT_FORCE sets EVT_STS bits and signals vector 64. -/
  | evtForce (w : Agent) (page : Nat) (v : BitVec 32)
  /-- SRST (R680): BLK_CTL.SRST returns a page's registers to reset values. -/
  | srst (w : Agent) (page : Nat)
  /-- MODE_WRITE (R682): A write of BLK_CTL.MODE selects hardware or host-assisted mode. -/
  | modeWrite (w : Agent) (page : Nat) (v : BitVec 32)
  /-- REGISTER_LO_READ (R670): Reading a LO register latches its HI half. -/
  | registerLoRead (w : Agent) (off : Nat)
  /-- REGISTER_WRITE (R11): A write to a register with no row of its own, per its access code. -/
  | registerWrite (w : Agent) (off : Nat) (v : BitVec 32)
  /-- SURVEYOR_RESTART_END (R577): The Surveyor firmware restart ends; RESTART clears, the cause record is written, and retirements, history and the sideband resume. -/
  | surveyorRestartEnd
  /-- ERASE_BEGIN (R519): A queued block erase begins once its last valid unit is released and earlier reads have completed, with an erase-begin record journaled. -/
  | eraseBegin (die : Nat) (blk : Nat)
  /-- SLC_CACHE_FOLD (R501): Units held in the SLC cache are folded into QLC by relocation. -/
  | slcCacheFold (p : Nat) (ns : Nat) (unit : Nat)
  /-- NEGOTIATE_ALGORITHMS (R609): An SPDM NEGOTIATE_ALGORITHMS request fixes the signature, hash, key-exchange and session algorithms. -/
  | negotiateAlgorithms (k : Conn) (m : AlgSet)
  /-- PLDM_FIRMWARE_DATA (R635): A chunk of image bytes arrives over PLDM Type 5 and is staged into the inactive slot. -/
  | pldmFirmwareData (data : Bytes)
  /-- CONFIGURATION_REQUEST (R690): A CXL.io configuration request arrives and is answered with configuration-retry until the link is ready for configuration. -/
  | configurationRequest (p : Nat)
  /-- SENSOR_UPDATE (R578): A temperature sensor takes a new reading, updating its peak and, for a DRAM stack crossing 85 °C, the refresh rate. -/
  | sensorUpdate (sensor : Nat) (temp : BitVec 16)
  /-- HOT_LIST_CACHE_UPDATE (R217): In hardware mode the tier manager chooses lists by probe count and copies or drops list versions in the hot-list cache. -/
  | hotListCacheUpdate (p : Nat) (ix : Nat)
  /-- BOTTOM_LEVEL_TREE_BUILT (R618): The security engine finishes building the next HSS bottom-level tree, releasing a signature that waits for it. -/
  | bottomLevelTreeBuilt
  /-- WINDOW_SELF_REFRESH_ENTRY (R592): In PS3 or PS4 a window channel re-enters self-refresh after 100 µs without an access. -/
  | windowSelfRefreshEntry (g : Nat)
  /-- PERST_N_RELEASE (R690): PERST_N rises, ending the link reset, and the port starts link training. -/
  | perstNRelease
deriving DecidableEq, Repr

end Sys2Proof
end

