-- ==== Sys2Proof/WellFormed.lean ====
section
/-! DEFINITION. Well-formed commands: every unit a command names exists (01 R17 to R29, 02 R89, 04 R183, 10 R388, R393, 11 R437), and the
reserved bits of a core instruction are 0 (02 R65). The machine faults by name on a unit that does not exist, and takes the illegal
instruction fault of the spec on a reserved bit; a VSQNT holds in AUX the SUBOP of its row (03 R141), which is what the machine obeys; nothing else is
asked of a command. -/

namespace Sys2Proof

/-- Core numbers (01 R19, R20). -/
def coreOk (c : Nat) : Bool := c < 768
/-- Cluster numbers (01 R21). -/
def clusterOk (k : Nat) : Bool := k < 96
/-- Partitions (10 R388). -/
def partOk (p : Nat) : Bool := p < 16
/-- Queue pairs (11 R437). -/
def qpOk (q : Nat) : Bool := q < 64
/-- DRAM channels (01 R23). -/
def chanOk (g : Nat) : Bool := g < 640
/-- Barriers (02 R89). -/
def barOk (b : Nat) : Bool := b < 16
/-- Merge slots (04 R183). -/
def mslotOk (s : Nat) : Bool := s < 4
/-- Update units (08 R316). -/
def unitOk (u : Nat) : Bool := u < 8
/-- Contexts (10 R393). -/
def ctxOk (x : Nat) : Bool := x < 1024
/-- Model entries (09 R349). -/
def entryOk (e : Nat) : Bool := e < 16
/-- Atlas tables have 8-bit numbers (07 Table 7.1), Gazetteer indexes 16-bit ones (05 Table 5.5). -/
def tableOk (t : Nat) : Bool := t < 256
def indexOk (ix : Nat) : Bool := ix < 65536
/-- Hubs (01 Table 1.1). -/
def hubOk (h : Nat) : Bool := h < 2
/-- Sensors (14 R578). -/
def sensorOk (x : Nat) : Bool := x < 92
/-- DRAM banks and frames of a channel (13 R556). -/
def bankOk (b : Nat) : Bool := b < 64
def frameOk (f : Nat) : Bool := f < 32768
/-- Channel dies, by die index (01 Table 1.1). -/
def chanDieOk (d : Nat) : Bool := 20 ≤ d && d < 36
/-- NAND dies (01 R29), and the blocks of one (12 Table 12.1). -/
def nandDieOk (d : Nat) : Bool := d < 512
def blockOk (b : Nat) : Bool := b < 12500
/-- Stacks and channel dies, by their own number (01 Table 1.1). -/
def stackOk (n : Nat) : Bool := n < 20
def cdNoOk (n : Nat) : Bool := n < 16
/-- Page request rings of a channel die (05 R210). -/
def ringOk (j : Nat) : Bool := j < 8
/-- Outstanding commands: partition, queue pair and 16-bit tag (11 R446). -/
def refOk (r : CmdRef) : Bool := partOk r.part && qpOk r.qp && decide (r.tag < 65536)
/-- A logical device as the maker of a register access. -/
def agentOk (w : Agent) : Bool :=
  match w with
  | .surveyor => true
  | .scheduler => true
  | .ld p => partOk p
/-- A requester connection. -/
def connOk (k : Conn) : Bool :=
  match k with
  | .doe p => partOk p
  | .fm => true
  | .sideband => true

/-- Well-formedness of a command. -/
def Instr.wf (i : Instr) : Bool :=
  match i with
  | .add c f => coreOk c && f.rsv == 0
  | .sub c f => coreOk c && f.rsv == 0
  | .and c f => coreOk c && f.rsv == 0
  | .or c f => coreOk c && f.rsv == 0
  | .xor c f => coreOk c && f.rsv == 0
  | .shl c f => coreOk c && f.rsv == 0
  | .shr c f => coreOk c && f.rsv == 0
  | .sar c f => coreOk c && f.rsv == 0
  | .mul c f => coreOk c && f.rsv == 0
  | .mulhu c f => coreOk c && f.rsv == 0
  | .mulhs c f => coreOk c && f.rsv == 0
  | .min c f => coreOk c && f.rsv == 0
  | .max c f => coreOk c && f.rsv == 0
  | .minu c f => coreOk c && f.rsv == 0
  | .maxu c f => coreOk c && f.rsv == 0
  | .movhi c f => coreOk c && f.rsv == 0
  | .popc c f => coreOk c && f.rsv == 0
  | .clz c f => coreOk c && f.rsv == 0
  | .cmpeq c f => coreOk c && f.rsv == 0
  | .cmpne c f => coreOk c && f.rsv == 0
  | .cmplt c f => coreOk c && f.rsv == 0
  | .cmpltu c f => coreOk c && f.rsv == 0
  | .cmple c f => coreOk c && f.rsv == 0
  | .cmpleu c f => coreOk c && f.rsv == 0
  | .pand c f => coreOk c && f.rsv == 0
  | .por c f => coreOk c && f.rsv == 0
  | .pnot c f => coreOk c && f.rsv == 0
  | .pfroms c f => coreOk c && f.rsv == 0
  | .ptos c f => coreOk c && f.rsv == 0
  | .br c f => coreOk c && f.rsv == 0
  | .brz c f => coreOk c && f.rsv == 0
  | .brnz c f => coreOk c && f.rsv == 0
  | .call c f => coreOk c && f.rsv == 0
  | .jr c f => coreOk c && f.rsv == 0
  | .loop c f => coreOk c && f.rsv == 0
  | .ld8u c f => coreOk c && f.rsv == 0
  | .ld16u c f => coreOk c && f.rsv == 0
  | .ld32u c f => coreOk c && f.rsv == 0
  | .ld64 c f => coreOk c && f.rsv == 0
  | .ld8s c f => coreOk c && f.rsv == 0
  | .ld16s c f => coreOk c && f.rsv == 0
  | .ld32s c f => coreOk c && f.rsv == 0
  | .st8 c f => coreOk c && f.rsv == 0
  | .st16 c f => coreOk c && f.rsv == 0
  | .st32 c f => coreOk c && f.rsv == 0
  | .st64 c f => coreOk c && f.rsv == 0
  | .vld c f => coreOk c && f.rsv == 0
  | .vst c f => coreOk c && f.rsv == 0
  | .vstp c f => coreOk c && f.rsv == 0
  | .pld c f => coreOk c && f.rsv == 0
  | .pst c f => coreOk c && f.rsv == 0
  | .tmov c f => coreOk c && f.rsv == 0
  | .tgath c f => coreOk c && f.rsv == 0
  | .tscat c f => coreOk c && f.rsv == 0
  | .tfill c f => coreOk c && f.rsv == 0
  | .tdset c f => coreOk c && f.rsv == 0
  | .tdget c f => coreOk c && f.rsv == 0
  | .mop c f => coreOk c && f.rsv == 0
  | .msld c f => coreOk c && f.rsv == 0
  | .mws c f => coreOk c && f.rsv == 0
  | .mrd c f => coreOk c && f.rsv == 0
  | .mclr c f => coreOk c && f.rsv == 0
  | .mxeOperationComplete c => coreOk c
  | .vadd c _ => coreOk c
  | .vsub c _ => coreOk c
  | .vmul c _ => coreOk c
  | .vmin c _ => coreOk c
  | .vmax c _ => coreOk c
  | .vminu c _ => coreOk c
  | .vmaxu c _ => coreOk c
  | .vand c _ => coreOk c
  | .vor c _ => coreOk c
  | .vxor c _ => coreOk c
  | .vshl c _ => coreOk c
  | .vshr c _ => coreOk c
  | .vsar c _ => coreOk c
  | .vadds c _ => coreOk c
  | .vcmpeq c _ => coreOk c
  | .vcmplt c _ => coreOk c
  | .vcmpltu c _ => coreOk c
  | .vsel c _ => coreOk c
  | .vbcast c _ => coreOk c
  | .vrsum c _ => coreOk c
  | .vrmin c _ => coreOk c
  | .vrmax c _ => coreOk c
  | .vxpop c _ => coreOk c
  | .vxpopa c _ => coreOk c
  | .vpopc c _ => coreOk c
  | .vlut c _ => coreOk c
  | .vcvt c _ => coreOk c
  | .vqnt c _ => coreOk c
  | .vfadd c _ => coreOk c
  | .vfmul c _ => coreOk c
  | .vfma c _ => coreOk c
  | .vsxp c _ => coreOk c
  | .vstlk c _ => coreOk c
  | .vsqntQuantise c f => coreOk c && f.aux.extractLsb' 4 2 == 0#2
  | .vsqntLoad c f => coreOk c && f.aux.extractLsb' 4 2 == 1#2
  | .vsqntStore c f => coreOk c && f.aux.extractLsb' 4 2 == 2#2
  | .vsqntClose c f => coreOk c && f.aux.extractLsb' 4 2 == 3#2
  | .vxeStreamComplete c => coreOk c
  | .sclr c f => coreOk c && f.rsv == 0
  | .stopk c f => coreOk c && f.rsv == 0
  | .ssort c f => coreOk c && f.rsv == 0
  | .smerge c f => coreOk c && f.rsv == 0
  | .semit c f => coreOk c && f.rsv == 0
  | .scmrg c f => coreOk c && f.rsv == 0
  | .sleOperationComplete c => coreOk c
  | .mergeRoundComplete k slot => clusterOk k && mslotOk slot
  | .tmeOperationComplete c => coreOk c
  | .wait c f => coreOk c && f.rsv == 0
  | .post c f => coreOk c && f.rsv == 0
  | .postc c f => coreOk c && f.rsv == 0
  | .bar c f => coreOk c && f.rsv == 0
  | .fence c f => coreOk c && f.rsv == 0
  | .halt c f => coreOk c && f.rsv == 0
  | .evt c f => coreOk c && f.rsv == 0
  | .trap c f => coreOk c && f.rsv == 0
  | .rdstep c f => coreOk c && f.rsv == 0
  | .rdcore c f => coreOk c && f.rsv == 0
  | .rdctx c f => coreOk c && f.rsv == 0
  | .hold c _ => coreOk c
  | .preempt c => coreOk c
  | .contextSaved c => coreOk c
  | .restore c => coreOk c
  | .restoreDone c => coreOk c
  | .scrub c => coreOk c
  | .cluBarMaskWrite k b _ => clusterOk k && barOk b
  | .pageReadRequest c => coreOk c
  | .pageReadComplete c _ _ => coreOk c
  | .fchReqRingEn die j _ => chanDieOk die && ringOk j
  | .gzCreate r => refOk r
  | .gzSetCentroids r => refOk r
  | .gzInsert r => refOk r
  | .gzDelete r => refOk r
  | .gzQuery r => refOk r
  | .gzSample r => refOk r
  | .gzCompact r => refOk r
  | .gzStat r => refOk r
  | .gzDrop r => refOk r
  | .scanRequest p c _ => partOk p && coreOk c
  | .compactionStart p ix _ => partOk p && indexOk ix
  | .listVersionSwitch p ix _ => partOk p && indexOk ix
  | .tombstoneApply p ix => partOk p && indexOk ix
  | .listVersionFree p ix _ _ => partOk p && indexOk ix
  | .flLoad r => refOk r
  | .flUnload r => refOk r
  | .flRun r => refOk r
  | .filterInvocation r _ c => refOk r && coreOk c
  | .filterOverrun c => coreOk c
  | .quantumStart c => coreOk c
  | .embedEncodeDone r _ => refOk r
  | .atCreate r => refOk r
  | .atDrop r => refOk r
  | .atScatter r => refOk r
  | .atGather r => refOk r
  | .atPrefetch r => refOk r
  | .atSync r => refOk r
  | .atVbegin r => refOk r
  | .atVseal r => refOk r
  | .atVswitch r => refOk r
  | .atMigrate r => refOk r
  | .atStat r => refOk r
  | .rowFlashFill p tab _ _ => partOk p && tableOk tab
  | .hotRowEvaluation p tab => partOk p && tableOk tab
  | .migrationCopyDone p tab _ => partOk p && tableOk tab
  | .tableVersionFree p tab _ => partOk p && tableOk tab
  | .copySlotFree p tab _ _ => partOk p && tableOk tab
  | .upSetopt r => refOk r
  | .upFreeze r => refOk r
  | .upBegin r => refOk r
  | .upGrad r => refOk r
  | .upEnd r => refOk r
  | .gradientRecord r => refOk r
  | .updateUnitFail u => unitOk u
  | .mdLoad r => refOk r
  | .mdUnload r => refOk r
  | .unloadFinish => true
  | .mdGrant r => refOk r
  | .mdRevoke r => refOk r
  | .mdGen r => refOk r
  | .mdEncode r => refOk r
  | .mdRank r => refOk r
  | .mdDropkv r => refOk r
  | .mdStat r => refOk r
  | .sequenceEntry e => entryOk e
  | .genStepStart e => entryOk e
  | .begin c _ => coreOk c
  | .demand c _ => coreOk c
  | .release c _ => coreOk c
  | .stepDone c => coreOk c
  | .runFetchDone e _ _ => entryOk e
  | .kvRebuild e _ => entryOk e
  | .cxRun r => refOk r
  | .cxPost r => refOk r
  | .stCluster r => refOk r
  | .contextPlace x => ctxOk x
  | .blockedSave p => partOk p
  | .slicePreempt x => ctxOk x
  | .jobRestart x _ => ctxOk x
  | .stallDetect p => partOk p
  | .hostedNumberSwitch c => coreOk c
  | .transparentTest c _ => coreOk c
  | .commandPacket p q => partOk p && qpOk q
  | .admission r => refOk r
  | .transferReady r => refOk r
  | .dataDone r _ => refOk r
  | .completionEntryWrite r => refOk r
  | .answerPublish r => refOk r
  | .unitRerun r => refOk r
  | .sqTail p q _ => partOk p && qpOk q
  | .cqHead p q _ => partOk p && qpOk q
  | .answerRelease p q _ _ => partOk p && qpOk q
  | .shareRead p _ _ => partOk p
  | .shareWrite p _ _ => partOk p
  | .qpCreate r => refOk r
  | .qpDelete r => refOk r
  | .nqpQp0CtlEn p _ => partOk p
  | .pwrSet r => refOk r
  | .powerStateEntered => true
  | .entryLimit => true
  | .identify r => refOk r
  | .abort r => refOk r
  | .hostTime r => refOk r
  | .fbRead r => refOk r
  | .rd r => refOk r
  | .wr r => refOk r
  | .flush r => refOk r
  | .trim r => refOk r
  | .functionLevelReset p => partOk p
  | .linkReset _ => true
  | .linkReady => true
  | .holdupMeasure _ => true
  | .getPartitionMap => true
  | .setPartitionMap _ => true
  | .setPowerOwner p => partOk p
  | .setLdAllocations _ => true
  | .grNsCreate r => refOk r
  | .grNsDelete r => refOk r
  | .grNsSet r => refOk r
  | .grNsList r => refOk r
  | .grHealth r => refOk r
  | .grPhOpen r => refOk r
  | .grPhClose r => refOk r
  | .grPhStat r => refOk r
  | .grWl r => refOk r
  | .destage p _ _ _ => partOk p
  | .journalProgram => true
  | .checkpoint => true
  | .superblockVerify _ _ => true
  | .programFail _ _ => true
  | .dieRetire die => nandDieOk die
  | .garbageCollection => true
  | .readDisturbRelocate die b => nandDieOk die && blockOk b
  | .eraseDone die b _ => nandDieOk die && blockOk b
  | .wearLevelling => true
  | .heatAgeTick => true
  | .mediaReady => true
  | .resurveyVisit g => chanOk g
  | .frameRetire g fr => chanOk g && frameOk fr
  | .bankRetire g bank => chanOk g && bankOk bank
  | .channelWithdraw g => chanOk g
  | .eccRetCmdGo w _ => agentOk w
  | .eccFlipCtlArmed w _ => agentOk w
  | .eccFlipAddrWrite w _ _ => agentOk w
  | .eccFlipMaskWrite w i _ => agentOk w && decide (i < 18)
  | .rawWrite w => agentOk w
  | .rawRead w => agentOk w
  | .coreFail c => coreOk c
  | .stackOutOfService n => stackOk n
  | .channelDieFail n => cdNoOk n
  | .hubFail hub die => hubOk hub && (match die with
    | none => true
    | some d => decide (d < 40))
  | .lockstepMismatch => true
  | .watchdogExpiry => true
  | .timeInBinTick => true
  | .droopTrip => true
  | .droopRelease _ => true
  | .pwrbrkNAssert => true
  | .pwrbrkNRelease => true
  | .pwrCapWWrite w _ => agentOk w
  | .thermalGovernorTick => true
  | .thermalTrip sensor => sensorOk sensor
  | .thermalTripRelease => true
  | .freezeNAssert => true
  | .frzCtlFreeze w => agentOk w
  | .perstFreezeExit => true
  | .bypass _ => true
  | .sample => true
  | .preload _ => true
  | .extest _ => true
  | .select _ => true
  | .stageScan => true
  | .regRead _ => true
  | .memRead _ _ => true
  | .frzStatus => true
  | .exit => true
  | .testPortReset => true
  | .powerLoss => true
  | .powerOn => true
  | .i3cDynamicAddress _ => true
  | .mctpControl _ => true
  | .pldmPlatform _ => true
  | .requestUpdate => true
  | .applyComplete => true
  | .activateFirmware => true
  | .fwStage r => refOk r
  | .fwActivate r => refOk r
  | .imageConfirm => true
  | .getCertificate k _ => connOk k
  | .challenge k _ _ => connOk k
  | .getMeasurements k _ _ _ => connOk k
  | .keyExchange k _ => connOk k
  | .heartbeat k => connOk k
  | .keyUpdate k => connOk k
  | .hssCompanionRequest k _ => connOk k
  | .hssSignatureRequest k _ => connOk k
  | .storeOwner k _ => connOk k
  | .cryptoErase k p => connOk k && partOk p
  | .clearNonce k => connOk k
  | .clear k _ _ _ => connOk k
  | .ideKm k _ => connOk k
  | .ideIntegrityFailure stream => decide (stream < 2)
  | .bflKey w _ _ => agentOk w
  | .bflProgram w _ _ => agentOk w
  | .bflErase w _ _ => agentOk w
  | .bflSuspend w => agentOk w
  | .bflResume w => agentOk w
  | .bflRead w => agentOk w
  | .bflOperationComplete => true
  | .fieldBookPageProgram _ => true
  | .evtForce w _ _ => agentOk w
  | .srst w _ => agentOk w
  | .modeWrite w _ _ => agentOk w
  | .registerLoRead w _ => agentOk w
  | .registerWrite w _ _ => agentOk w
  | .surveyorRestartEnd => true
  | .eraseBegin die b => nandDieOk die && blockOk b
  | .slcCacheFold p _ _ => partOk p
  | .negotiateAlgorithms k _ => connOk k
  | .pldmFirmwareData _ => true
  | .configurationRequest p => partOk p
  | .sensorUpdate sensor _ => sensorOk sensor
  | .hotListCacheUpdate p ix => partOk p && indexOk ix
  | .bottomLevelTreeBuilt => true
  | .windowSelfRefreshEntry g => chanOk g
  | .perstNRelease => true

end Sys2Proof
end

