-- ==== Sys2Proof/Decode.lean ====
section
/-! DEFINITION. Instruction words of a core (02 R64 to R66, Tables 2.5 to 2.9; 03 R141): the fields of a word, the word of an instruction. Words of
the command table: spec/opcode_table.json gives no row any bits (every row's list of fields is empty), so no word of that table spells a command. -/

namespace Sys2Proof

/-- The command that a word spells by the table's bits: none, since no row of the table has bits. -/
def decodeTableWord (_nbits _w : Nat) : Option Instr := none

/-! ### Fields of a word -/

/-- Bits [hi:lo] of a word, as `n` = hi − lo + 1 bits. -/
def wordBits (w : BitVec 64) (lo n : Nat) : BitVec n := w.extractLsb' lo n

/-- Table 2.5: CLASS [63:60], GP [59:57], GS [56], OP [55:50], and the class's own bits [49:0] (R64). -/
def layWord (cls : BitVec 4) (g : Guard) (op : BitVec 6) (body : BitVec 50) : BitVec 64 := cls ++ g.gp ++ BitVec.ofBool g.gs ++ op ++ body

/-- The guard fields of a word. -/
def guardOf (w : BitVec 64) : Guard := { gp := wordBits w 57 3, gs := w.getLsbD 56 }

/-- The Scalar row of Table 2.6 (R66): bits [49:0] of an instruction, and the fields of a word. -/
def ScalarF.body (f : ScalarF) : BitVec 50 := f.sd ++ f.sa ++ BitVec.ofBool f.i ++ f.sb ++ f.rsv ++ f.imm
def ScalarF.ofWord (w : BitVec 64) : ScalarF :=
  { g := guardOf w, sd := wordBits w 45 5, sa := wordBits w 40 5, i := w.getLsbD 39, sb := wordBits w 34 5, rsv := wordBits w 32 2, imm := wordBits w 0 32 }

/-- The Branch row of Table 2.6 (R66): bits [49:0] of an instruction, and the fields of a word. -/
def BranchF.body (f : BranchF) : BitVec 50 := f.sa ++ f.rsv ++ f.off
def BranchF.ofWord (w : BitVec 64) : BranchF :=
  { g := guardOf w, sa := wordBits w 45 5, rsv := wordBits w 16 29, off := wordBits w 0 16 }

/-- The Load/store row of Table 2.6 (R66): bits [49:0] of an instruction, and the fields of a word. -/
def LdStF.body (f : LdStF) : BitVec 50 := f.rd ++ f.sa ++ f.pm ++ f.rsv ++ f.off
def LdStF.ofWord (w : BitVec 64) : LdStF :=
  { g := guardOf w, rd := wordBits w 45 5, sa := wordBits w 40 5, pm := wordBits w 37 3, rsv := wordBits w 24 13, off := wordBits w 0 24 }

/-- The Tile move row of Table 2.6 (R66): bits [49:0] of an instruction, and the fields of a word. -/
def TileF.body (f : TileF) : BitVec 50 := f.td ++ f.tk ++ f.sa ++ f.cnt ++ f.rsv
def TileF.ofWord (w : BitVec 64) : TileF :=
  { g := guardOf w, td := wordBits w 46 4, tk := wordBits w 40 6, sa := wordBits w 35 5, cnt := wordBits w 19 16, rsv := wordBits w 0 19 }

/-- The Matrix row of Table 2.6 (R66): bits [49:0] of an instruction, and the fields of a word. -/
def MatrixF.body (f : MatrixF) : BitVec 50 := f.ta ++ f.tk ++ f.tb ++ f.tc ++ BitVec.ofBool f.bank ++ f.fa ++ f.fb ++ BitVec.ofBool f.acc ++ f.len ++ f.rsv
def MatrixF.ofWord (w : BitVec 64) : MatrixF :=
  { g := guardOf w, ta := wordBits w 46 4, tk := wordBits w 40 6, tb := wordBits w 36 4, tc := wordBits w 32 4, bank := w.getLsbD 31, fa := wordBits w 27 4, fb := wordBits w 23 4, acc := w.getLsbD 22, len := wordBits w 6 16, rsv := wordBits w 0 6 }

/-- The Vector register row of Table 2.6 (R66): bits [49:0] of an instruction, and the fields of a word. -/
def VecF.body (f : VecF) : BitVec 50 := f.vd ++ f.va ++ f.vb ++ f.pm ++ f.w ++ f.sx ++ f.aux
def VecF.ofWord (w : BitVec 64) : VecF :=
  { g := guardOf w, vd := wordBits w 46 4, va := wordBits w 42 4, vb := wordBits w 38 4, pm := wordBits w 35 3, w := wordBits w 33 2, sx := wordBits w 28 5, aux := wordBits w 0 28 }

/-- The Vector stream row of Table 2.6 (R66): bits [49:0] of an instruction, and the fields of a word. -/
def StreamF.body (f : StreamF) : BitVec 50 := f.ta ++ f.tk ++ f.tb ++ f.va ++ f.cl ++ f.aux
def StreamF.ofWord (w : BitVec 64) : StreamF :=
  { g := guardOf w, ta := wordBits w 46 4, tk := wordBits w 40 6, tb := wordBits w 36 4, va := wordBits w 32 4, cl := wordBits w 24 8, aux := wordBits w 0 24 }

/-- The Select row of Table 2.6 (R66): bits [49:0] of an instruction, and the fields of a word. -/
def SelF.body (f : SelF) : BitVec 50 := f.ta ++ f.tk ++ f.tb ++ BitVec.ofBool f.dir ++ f.vt ++ f.k ++ f.rsv
def SelF.ofWord (w : BitVec 64) : SelF :=
  { g := guardOf w, ta := wordBits w 46 4, tk := wordBits w 40 6, tb := wordBits w 36 4, dir := w.getLsbD 35, vt := wordBits w 32 3, k := wordBits w 19 13, rsv := wordBits w 0 19 }

/-- The Sync row of Table 2.6 (R66): bits [49:0] of an instruction, and the fields of a word. -/
def SyncF.body (f : SyncF) : BitVec 50 := f.tk ++ f.n ++ f.ci ++ f.b ++ f.rsv
def SyncF.ofWord (w : BitVec 64) : SyncF :=
  { g := guardOf w, tk := wordBits w 44 6, n := wordBits w 28 16, ci := wordBits w 25 3, b := wordBits w 21 4, rsv := wordBits w 0 21 }

/-- The System row of Table 2.6 (R66): bits [49:0] of an instruction, and the fields of a word. -/
def SysF.body (f : SysF) : BitVec 50 := f.sa ++ f.rsv ++ f.code
def SysF.ofWord (w : BitVec 64) : SysF :=
  { g := guardOf w, sa := wordBits w 45 5, rsv := wordBits w 16 29, code := wordBits w 0 16 }

/-! ### Operations of the classes (Tables 2.7 to 2.9) -/

/-- The scalar operation of an OP value; none where Tables 2.7 to 2.9 list none. -/
def scalarRow (op : Nat) : Option (Nat → ScalarF → Instr) :=
  match op with
  | 0x00 => some .add
  | 0x01 => some .sub
  | 0x02 => some .and
  | 0x03 => some .or
  | 0x04 => some .xor
  | 0x05 => some .shl
  | 0x06 => some .shr
  | 0x07 => some .sar
  | 0x08 => some .mul
  | 0x09 => some .mulhu
  | 0x0A => some .mulhs
  | 0x0B => some .min
  | 0x0C => some .max
  | 0x0D => some .minu
  | 0x0E => some .maxu
  | 0x0F => some .movhi
  | 0x10 => some .popc
  | 0x11 => some .clz
  | 0x12 => some .cmpeq
  | 0x13 => some .cmpne
  | 0x14 => some .cmplt
  | 0x15 => some .cmpltu
  | 0x16 => some .cmple
  | 0x17 => some .cmpleu
  | 0x18 => some .pand
  | 0x19 => some .por
  | 0x1A => some .pnot
  | 0x1B => some .pfroms
  | 0x1C => some .ptos
  | _ => none

/-- The branch operation of an OP value; none where Tables 2.7 to 2.9 list none. -/
def branchRow (op : Nat) : Option (Nat → BranchF → Instr) :=
  match op with
  | 0x00 => some .br
  | 0x01 => some .brz
  | 0x02 => some .brnz
  | 0x03 => some .call
  | 0x04 => some .jr
  | 0x05 => some .loop
  | _ => none

/-- The load/store operation of an OP value; none where Tables 2.7 to 2.9 list none. -/
def ldStRow (op : Nat) : Option (Nat → LdStF → Instr) :=
  match op with
  | 0x00 => some .ld8u
  | 0x01 => some .ld16u
  | 0x02 => some .ld32u
  | 0x03 => some .ld64
  | 0x04 => some .ld8s
  | 0x05 => some .ld16s
  | 0x06 => some .ld32s
  | 0x08 => some .st8
  | 0x09 => some .st16
  | 0x0A => some .st32
  | 0x0B => some .st64
  | 0x10 => some .vld
  | 0x11 => some .vst
  | 0x12 => some .vstp
  | 0x14 => some .pld
  | 0x15 => some .pst
  | _ => none

/-- The tile-move operation of an OP value; none where Tables 2.7 to 2.9 list none. -/
def tileRow (op : Nat) : Option (Nat → TileF → Instr) :=
  match op with
  | 0x00 => some .tmov
  | 0x01 => some .tgath
  | 0x02 => some .tscat
  | 0x03 => some .tfill
  | 0x04 => some .tdset
  | 0x05 => some .tdget
  | _ => none

/-- The matrix operation of an OP value; none where Tables 2.7 to 2.9 list none. -/
def matrixRow (op : Nat) : Option (Nat → MatrixF → Instr) :=
  match op with
  | 0x00 => some .mop
  | 0x01 => some .msld
  | 0x02 => some .mws
  | 0x03 => some .mrd
  | 0x04 => some .mclr
  | _ => none

/-- The vector register operation of an OP value; none where Tables 2.7 to 2.9 list none. -/
def vecRow (op : Nat) : Option (Nat → VecF → Instr) :=
  match op with
  | 0x00 => some .vadd
  | 0x01 => some .vsub
  | 0x02 => some .vmul
  | 0x03 => some .vmin
  | 0x04 => some .vmax
  | 0x05 => some .vminu
  | 0x06 => some .vmaxu
  | 0x07 => some .vand
  | 0x08 => some .vor
  | 0x09 => some .vxor
  | 0x0A => some .vshl
  | 0x0B => some .vshr
  | 0x0C => some .vsar
  | 0x0D => some .vadds
  | 0x10 => some .vcmpeq
  | 0x11 => some .vcmplt
  | 0x12 => some .vcmpltu
  | 0x14 => some .vsel
  | 0x15 => some .vbcast
  | 0x16 => some .vrsum
  | 0x17 => some .vrmin
  | 0x18 => some .vrmax
  | 0x20 => some .vxpop
  | 0x21 => some .vxpopa
  | 0x22 => some .vpopc
  | 0x28 => some .vlut
  | 0x30 => some .vcvt
  | 0x31 => some .vqnt
  | 0x38 => some .vfadd
  | 0x39 => some .vfmul
  | 0x3A => some .vfma
  | _ => none

/-- The vector stream operation of an OP value; none where Tables 2.7 to 2.9 list none. -/
def streamRow (op : Nat) : Option (Nat → StreamF → Instr) :=
  match op with
  | 0x3C => some .vsxp
  | 0x3D => some .vstlk
  | _ => none

/-- The select operation of an OP value; none where Tables 2.7 to 2.9 list none. -/
def selRow (op : Nat) : Option (Nat → SelF → Instr) :=
  match op with
  | 0x00 => some .stopk
  | 0x01 => some .ssort
  | 0x02 => some .smerge
  | 0x03 => some .semit
  | 0x04 => some .scmrg
  | 0x05 => some .sclr
  | _ => none

/-- The sync operation of an OP value; none where Tables 2.7 to 2.9 list none. -/
def syncRow (op : Nat) : Option (Nat → SyncF → Instr) :=
  match op with
  | 0x00 => some .wait
  | 0x01 => some .post
  | 0x02 => some .postc
  | 0x03 => some .bar
  | 0x04 => some .fence
  | _ => none

/-- The system operation of an OP value; none where Tables 2.7 to 2.9 list none. -/
def sysRow (op : Nat) : Option (Nat → SysF → Instr) :=
  match op with
  | 0x00 => some .halt
  | 0x01 => some .evt
  | 0x02 => some .trap
  | 0x03 => some .rdstep
  | 0x04 => some .rdcore
  | 0x05 => some .rdctx
  | _ => none

/-- The VSQNT of a word's SUBOP, AUX[5:4] (03 R141). -/
def vsqntRow (sub : BitVec 2) : Nat → StreamF → Instr :=
  match sub with
  | 0 => .vsqntQuantise
  | 1 => .vsqntLoad
  | 2 => .vsqntStore
  | 3 => .vsqntClose

/-- SUBOP of a VSQNT: AUX[5:4]. -/
def StreamF.subop (f : StreamF) : BitVec 2 := f.aux.extractLsb' 4 2

/-- The instruction of a word on a core: none for a reserved CLASS or an OP value that its class does not list (R65). -/
def decodeWord (c : Nat) (w : BitVec 64) : Option Instr :=
  let op := (wordBits w 50 6).toNat
  match (wordBits w 60 4).toNat with
  | 0 => (scalarRow op).map fun k => k c (ScalarF.ofWord w)
  | 1 => (branchRow op).map fun k => k c (BranchF.ofWord w)
  | 2 => (ldStRow op).map fun k => k c (LdStF.ofWord w)
  | 3 => (tileRow op).map fun k => k c (TileF.ofWord w)
  | 4 => (matrixRow op).map fun k => k c (MatrixF.ofWord w)
  | 5 =>
    if op = 0x3E then some (vsqntRow (StreamF.ofWord w).subop c (StreamF.ofWord w))
    else if 0x3C ≤ op then (streamRow op).map fun k => k c (StreamF.ofWord w)
    else (vecRow op).map fun k => k c (VecF.ofWord w)
  | 6 => (selRow op).map fun k => k c (SelF.ofWord w)
  | 7 => (syncRow op).map fun k => k c (SyncF.ofWord w)
  | 8 => (sysRow op).map fun k => k c (SysF.ofWord w)
  | _ => none

/-! ### The word of an instruction -/

/-- The core that issues a core instruction, and the instruction's word; none for every other command. -/
def Instr.word : Instr → Option (Nat × BitVec 64)
  | .add c f => some (c, layWord 0 f.g 0x00 f.body)
  | .sub c f => some (c, layWord 0 f.g 0x01 f.body)
  | .and c f => some (c, layWord 0 f.g 0x02 f.body)
  | .or c f => some (c, layWord 0 f.g 0x03 f.body)
  | .xor c f => some (c, layWord 0 f.g 0x04 f.body)
  | .shl c f => some (c, layWord 0 f.g 0x05 f.body)
  | .shr c f => some (c, layWord 0 f.g 0x06 f.body)
  | .sar c f => some (c, layWord 0 f.g 0x07 f.body)
  | .mul c f => some (c, layWord 0 f.g 0x08 f.body)
  | .mulhu c f => some (c, layWord 0 f.g 0x09 f.body)
  | .mulhs c f => some (c, layWord 0 f.g 0x0A f.body)
  | .min c f => some (c, layWord 0 f.g 0x0B f.body)
  | .max c f => some (c, layWord 0 f.g 0x0C f.body)
  | .minu c f => some (c, layWord 0 f.g 0x0D f.body)
  | .maxu c f => some (c, layWord 0 f.g 0x0E f.body)
  | .movhi c f => some (c, layWord 0 f.g 0x0F f.body)
  | .popc c f => some (c, layWord 0 f.g 0x10 f.body)
  | .clz c f => some (c, layWord 0 f.g 0x11 f.body)
  | .cmpeq c f => some (c, layWord 0 f.g 0x12 f.body)
  | .cmpne c f => some (c, layWord 0 f.g 0x13 f.body)
  | .cmplt c f => some (c, layWord 0 f.g 0x14 f.body)
  | .cmpltu c f => some (c, layWord 0 f.g 0x15 f.body)
  | .cmple c f => some (c, layWord 0 f.g 0x16 f.body)
  | .cmpleu c f => some (c, layWord 0 f.g 0x17 f.body)
  | .pand c f => some (c, layWord 0 f.g 0x18 f.body)
  | .por c f => some (c, layWord 0 f.g 0x19 f.body)
  | .pnot c f => some (c, layWord 0 f.g 0x1A f.body)
  | .pfroms c f => some (c, layWord 0 f.g 0x1B f.body)
  | .ptos c f => some (c, layWord 0 f.g 0x1C f.body)
  | .br c f => some (c, layWord 1 f.g 0x00 f.body)
  | .brz c f => some (c, layWord 1 f.g 0x01 f.body)
  | .brnz c f => some (c, layWord 1 f.g 0x02 f.body)
  | .call c f => some (c, layWord 1 f.g 0x03 f.body)
  | .jr c f => some (c, layWord 1 f.g 0x04 f.body)
  | .loop c f => some (c, layWord 1 f.g 0x05 f.body)
  | .ld8u c f => some (c, layWord 2 f.g 0x00 f.body)
  | .ld16u c f => some (c, layWord 2 f.g 0x01 f.body)
  | .ld32u c f => some (c, layWord 2 f.g 0x02 f.body)
  | .ld64 c f => some (c, layWord 2 f.g 0x03 f.body)
  | .ld8s c f => some (c, layWord 2 f.g 0x04 f.body)
  | .ld16s c f => some (c, layWord 2 f.g 0x05 f.body)
  | .ld32s c f => some (c, layWord 2 f.g 0x06 f.body)
  | .st8 c f => some (c, layWord 2 f.g 0x08 f.body)
  | .st16 c f => some (c, layWord 2 f.g 0x09 f.body)
  | .st32 c f => some (c, layWord 2 f.g 0x0A f.body)
  | .st64 c f => some (c, layWord 2 f.g 0x0B f.body)
  | .vld c f => some (c, layWord 2 f.g 0x10 f.body)
  | .vst c f => some (c, layWord 2 f.g 0x11 f.body)
  | .vstp c f => some (c, layWord 2 f.g 0x12 f.body)
  | .pld c f => some (c, layWord 2 f.g 0x14 f.body)
  | .pst c f => some (c, layWord 2 f.g 0x15 f.body)
  | .tmov c f => some (c, layWord 3 f.g 0x00 f.body)
  | .tgath c f => some (c, layWord 3 f.g 0x01 f.body)
  | .tscat c f => some (c, layWord 3 f.g 0x02 f.body)
  | .tfill c f => some (c, layWord 3 f.g 0x03 f.body)
  | .tdset c f => some (c, layWord 3 f.g 0x04 f.body)
  | .tdget c f => some (c, layWord 3 f.g 0x05 f.body)
  | .mop c f => some (c, layWord 4 f.g 0x00 f.body)
  | .msld c f => some (c, layWord 4 f.g 0x01 f.body)
  | .mws c f => some (c, layWord 4 f.g 0x02 f.body)
  | .mrd c f => some (c, layWord 4 f.g 0x03 f.body)
  | .mclr c f => some (c, layWord 4 f.g 0x04 f.body)
  | .vadd c f => some (c, layWord 5 f.g 0x00 f.body)
  | .vsub c f => some (c, layWord 5 f.g 0x01 f.body)
  | .vmul c f => some (c, layWord 5 f.g 0x02 f.body)
  | .vmin c f => some (c, layWord 5 f.g 0x03 f.body)
  | .vmax c f => some (c, layWord 5 f.g 0x04 f.body)
  | .vminu c f => some (c, layWord 5 f.g 0x05 f.body)
  | .vmaxu c f => some (c, layWord 5 f.g 0x06 f.body)
  | .vand c f => some (c, layWord 5 f.g 0x07 f.body)
  | .vor c f => some (c, layWord 5 f.g 0x08 f.body)
  | .vxor c f => some (c, layWord 5 f.g 0x09 f.body)
  | .vshl c f => some (c, layWord 5 f.g 0x0A f.body)
  | .vshr c f => some (c, layWord 5 f.g 0x0B f.body)
  | .vsar c f => some (c, layWord 5 f.g 0x0C f.body)
  | .vadds c f => some (c, layWord 5 f.g 0x0D f.body)
  | .vcmpeq c f => some (c, layWord 5 f.g 0x10 f.body)
  | .vcmplt c f => some (c, layWord 5 f.g 0x11 f.body)
  | .vcmpltu c f => some (c, layWord 5 f.g 0x12 f.body)
  | .vsel c f => some (c, layWord 5 f.g 0x14 f.body)
  | .vbcast c f => some (c, layWord 5 f.g 0x15 f.body)
  | .vrsum c f => some (c, layWord 5 f.g 0x16 f.body)
  | .vrmin c f => some (c, layWord 5 f.g 0x17 f.body)
  | .vrmax c f => some (c, layWord 5 f.g 0x18 f.body)
  | .vxpop c f => some (c, layWord 5 f.g 0x20 f.body)
  | .vxpopa c f => some (c, layWord 5 f.g 0x21 f.body)
  | .vpopc c f => some (c, layWord 5 f.g 0x22 f.body)
  | .vlut c f => some (c, layWord 5 f.g 0x28 f.body)
  | .vcvt c f => some (c, layWord 5 f.g 0x30 f.body)
  | .vqnt c f => some (c, layWord 5 f.g 0x31 f.body)
  | .vfadd c f => some (c, layWord 5 f.g 0x38 f.body)
  | .vfmul c f => some (c, layWord 5 f.g 0x39 f.body)
  | .vfma c f => some (c, layWord 5 f.g 0x3A f.body)
  | .vsxp c f => some (c, layWord 5 f.g 0x3C f.body)
  | .vstlk c f => some (c, layWord 5 f.g 0x3D f.body)
  | .vsqntQuantise c f => some (c, layWord 5 f.g 0x3E f.body)
  | .vsqntLoad c f => some (c, layWord 5 f.g 0x3E f.body)
  | .vsqntStore c f => some (c, layWord 5 f.g 0x3E f.body)
  | .vsqntClose c f => some (c, layWord 5 f.g 0x3E f.body)
  | .stopk c f => some (c, layWord 6 f.g 0x00 f.body)
  | .ssort c f => some (c, layWord 6 f.g 0x01 f.body)
  | .smerge c f => some (c, layWord 6 f.g 0x02 f.body)
  | .semit c f => some (c, layWord 6 f.g 0x03 f.body)
  | .scmrg c f => some (c, layWord 6 f.g 0x04 f.body)
  | .sclr c f => some (c, layWord 6 f.g 0x05 f.body)
  | .wait c f => some (c, layWord 7 f.g 0x00 f.body)
  | .post c f => some (c, layWord 7 f.g 0x01 f.body)
  | .postc c f => some (c, layWord 7 f.g 0x02 f.body)
  | .bar c f => some (c, layWord 7 f.g 0x03 f.body)
  | .fence c f => some (c, layWord 7 f.g 0x04 f.body)
  | .halt c f => some (c, layWord 8 f.g 0x00 f.body)
  | .evt c f => some (c, layWord 8 f.g 0x01 f.body)
  | .trap c f => some (c, layWord 8 f.g 0x02 f.body)
  | .rdstep c f => some (c, layWord 8 f.g 0x03 f.body)
  | .rdcore c f => some (c, layWord 8 f.g 0x04 f.body)
  | .rdctx c f => some (c, layWord 8 f.g 0x05 f.body)
  | _ => none

end Sys2Proof
end

