-- ==== Sys2Proof/Config.lean ====
section
/-! DEFINITION. What one module fixes and what the spec leaves open: constants and functions with no body, so that no proof
can see a value of them. -/

namespace Sys2Proof

/-- A fresh value the spec leaves open, one for each reading of the counter `State.free` (log 4). -/
opaque Config.freeNat : Nat → Nat

/-- The 64-bit die ID of each of the 40 dies (15 R605). -/
opaque Config.dieId : Nat → BitVec 64

/-- The unique device secret in the fuses of MD (15 R602). -/
opaque Config.uds : Bytes

/-- The fuse map: spare-core, repair and lock fuses, as the MEASUREMENTS block reads it (15 R611). -/
opaque Config.fuseMap : Bytes

/-- MXE_SPARE of each core number, taken from the fuse map at start-up (03 R158). -/
opaque Config.mxeSpare : Nat → BitVec 32

/-- Spare cores of each die at start-up, from the fuse map (13 ECC_SPARE). -/
opaque Config.spareCores : Nat → BitVec 2

/-- HBM_PPR.LEFT of each stack before any repair (13 R563). -/
opaque Config.pprLeft : Nat → BitVec 16

/-- The boot ROM's bytes (15 R611). -/
opaque Config.bootRom : Bytes

/-- The SHA-384 digests of the two signer keys fused in MD: ECDSA, then HSS (15 R633). -/
opaque Config.signerDigest : Bool → Bytes

/-- The manufacturing lock fuse (15 R616, BFL_STS.LOCK). -/
opaque Config.lockFuse : Bool

/-- The boot flash words that the manufacturer leaves in a new module: keyed by word number (15 R624, log 41). -/
opaque Config.factoryFlash : NMap (BitVec 64)

/-- The DRAM line, as channel × 2²⁵ + line, that holds the first (false) or the second copy of a line of a window share (11 R433, log 18). -/
opaque Config.winLine : Nat → Bool → Nat

/-- SHA-384 (FIPS 180), an outside standard the spec names and does not define (log 5). -/
opaque Config.sha384 : Bytes → Bytes

/-- HMAC-SHA-384 of a message under a key (log 5). -/
opaque Config.hmac384 : Bytes → Bytes → Bytes

/-- HKDF-SHA-384 of an input under a label (15 R603, log 5). -/
opaque Config.hkdf384 : Bytes → Bytes → Bytes

/-- The ECDSA P-384 public key of a private key (log 5). -/
opaque Config.ecdsaPublic : Bytes → Bytes

/-- The ECDSA P-384 signature of a digest under a private key (log 5). -/
opaque Config.ecdsaSign : Bytes → Bytes → Bytes

/-- Whether an ECDSA P-384 signature of a digest verifies under a public key (log 5). -/
opaque Config.ecdsaVerify : Bytes → Bytes → Bytes → Bool

/-- The HSS public key of a private key (log 5). -/
opaque Config.hssPublic : Bytes → Bytes

/-- The HSS signature of a digest under a private key at one index (15 R603, log 5). -/
opaque Config.hssSign : Bytes → Nat → Bytes → Bytes

/-- Whether an HSS signature of a digest verifies under a public key (log 5). -/
opaque Config.hssVerify : Bytes → Bytes → Bytes → Bool

/-- The session secret of a key exchange: exchange data of the requester and of the module, and a label (15 R609, log 5). -/
opaque Config.sessionSecret : Bytes → Bytes → Bytes → Bytes

/-- AES-256-XTS of one data unit: whether it encrypts, the key, the tweak, the unit (15 R621, log 103). -/
opaque Config.aesXts : Bool → Bytes → Nat → Bytes → Bytes

/-- The media keys that the security engine's random number generator makes for a partition, counted from 0 (15 R622, log 103). -/
opaque Config.mediaKey : Nat → Nat → Bytes

/-- The bytes of an SPDM or companion message whose wire layout the spec leaves to an outside standard (log 5). -/
opaque Config.wire : String → List Bytes → Bytes

/-- The reading of heat age that a datum set's threshold shift gives for a die, in equivalent seconds (12 R527). -/
opaque Config.datumAge : Nat → Nat → Nat

/-- The seed-driven draw of GZ_SAMPLE: seed, count and centroid count give distinct lists (05 R234, R235). -/
opaque Config.sampleLists : Nat → Nat → Nat → List Nat

/-- How many program images a program section holds (09 R350; its layout is not stated, log 26). -/
opaque Config.progCount : Bytes → Nat

/-- The instruction words of a program image (log 26). -/
opaque Config.progWords : Bytes → Nat → List (BitVec 64)

/-- Cluster-scratchpad banks, merge slots and barriers in each cluster that a program image asks for (log 26). -/
opaque Config.progNeeds : Bytes → Nat → Nat × Nat × Nat

/-- The KV entries of a KV layout section: package channel and bytes per token (09 R374, R375; its layout is not stated, log 26). -/
opaque Config.kvLayout : Bytes → List (Nat × Nat)

/-- The Gazetteer's choice of lists for the hot-list cache from probe counts (05 R217). -/
opaque Config.hotLists : NMap Nat → Nat → List Nat

end Sys2Proof
end

