-- ==== Sys2Proof/Machine/Map.lean ====
section
/-! DEFINITION. Sparse tables in one canonical form, and the memories built on them: keys strictly rising, no entry equal
to what an unlisted key reads as. -/

namespace Sys2Proof.Machine

variable {α : Type}

/-- What the table holds at a key; an unlisted key reads `d`. -/
def mget (d : α) : NMap α → Nat → α
  | [], _ => d
  | (k, v) :: r, x => if x = k then v else mget d r x

/-- The entry at a key, if one is listed. -/
def mfind : NMap α → Nat → Option α
  | [], _ => none
  | (k, v) :: r, x => if x = k then some v else mfind r x

/-- Put an entry in its place. -/
def mins (x : Nat) (v : α) : NMap α → NMap α
  | [] => [(x, v)]
  | (k, w) :: r =>
    if x < k then (x, v) :: (k, w) :: r
    else if x = k then (x, v) :: r
    else (k, w) :: mins x v r

/-- Remove the entry at a key. -/
def mdel (x : Nat) (m : NMap α) : NMap α := m.filter (fun e => e.1 ≠ x)

/-- Store a value; storing what an unlisted key reads as removes the entry. -/
def mset [DecidableEq α] (d : α) (m : NMap α) (x : Nat) (v : α) : NMap α :=
  if v = d then mdel x m else mins x v m

/-- Change the value at a key. -/
def mmod [DecidableEq α] (d : α) (m : NMap α) (x : Nat) (f : α → α) : NMap α :=
  mset d m x (f (mget d m x))

/-- The canonical form. -/
abbrev mwf (d : α) (m : NMap α) : Prop :=
  m.Pairwise (fun a b => a.1 < b.1) ∧ ∀ e ∈ m, e.2 ≠ d

/-- Remove every entry of a range of keys. -/
def mclear (m : NMap α) (lo len : Nat) : NMap α :=
  m.filter (fun e => !(decide (lo ≤ e.1) && decide (e.1 < lo + len)))

/-- The entries of a range of keys, counted from the start of the range. -/
def mslice (m : NMap α) (lo len : Nat) : NMap α :=
  (m.filter (fun e => decide (lo ≤ e.1) && decide (e.1 < lo + len))).map (fun e => (e.1 - lo, e.2))

/-- Replace a range of keys by the first `len` keys of another table of the same kind. -/
def mpaste (m : NMap α) (lo len : Nat) (n : NMap α) : NMap α :=
  (n.filter (fun e => decide (e.1 < len))).foldl (fun acc e => mins (lo + e.1) e.2 acc) (mclear m lo len)

/-- A byte memory. -/
abbrev Mem := List Host.Cell

/-- The canonical form of a byte memory whose unlisted addresses read zero. -/
abbrev Memory.wf (m : Mem) : Prop := mwf (0 : Byte) m

/-- Read one byte of a memory whose unlisted addresses read zero. -/
def rdByte (m : Mem) (a : Nat) : Byte := mget 0 m a

/-- Write one byte. -/
def wrByte (m : Mem) (a : Nat) (v : Byte) : Mem := mset 0 m a v

/-- Read `n` bytes from address `a`. -/
def rdBytes (m : Mem) (a : Nat) : Nat → Bytes
  | 0 => []
  | n + 1 => rdByte m a :: rdBytes m (a + 1) n

/-- Write a string of bytes from address `a`. -/
def wrBytes (m : Mem) (a : Nat) : Bytes → Mem
  | [] => m
  | b :: bs => wrBytes (wrByte m a b) (a + 1) bs

/-- The number a little-endian string of bytes stands for (00 R5). -/
def leNat : Bytes → Nat
  | [] => 0
  | b :: bs => b.toNat + 256 * leNat bs

/-- The little-endian bytes of a number (00 R5). -/
def leBytes : Nat → Nat → Bytes
  | 0, _ => []
  | n + 1, v => BitVec.ofNat 8 v :: leBytes n (v / 256)

/-- `n` zero bytes. -/
def zeros (n : Nat) : Bytes := List.replicate n 0

/-- Pad a string with zeros to a multiple of `n` bytes. -/
def padTo (n : Nat) (bs : Bytes) : Bytes := bs ++ zeros ((n - bs.length % n) % n)

/-- `n` bytes from offset `o`, reading zeros past the end. -/
def sub (bs : Bytes) (o n : Nat) : Bytes :=
  let t := (bs.drop o).take n
  t ++ zeros (n - t.length)

/-- The little-endian number of `n` bytes at offset `o`. -/
def fld (bs : Bytes) (o n : Nat) : Nat := leNat (sub bs o n)

/-- Bits [hi:lo] of a number (00 R4). -/
def bits (v hi lo : Nat) : Nat := v / 2 ^ lo % 2 ^ (hi + 1 - lo)

/-- Bit n of a number. -/
def bit (v n : Nat) : Bool := v / 2 ^ n % 2 = 1

/-- A truth value as a bit. -/
def b2n (b : Bool) : Nat := if b then 1 else 0

/-- The quotient rounded up. -/
def cdiv (a b : Nat) : Nat := (a + b - 1) / b

/-- Read `n` bytes little-endian as a number. -/
def rdLE (m : Mem) (a n : Nat) : Nat := leNat (rdBytes m a n)

/-- Write a number as `n` little-endian bytes. -/
def wrLE (m : Mem) (a n v : Nat) : Mem := wrBytes m a (leBytes n v)

/-- A count that saturates at a largest value. -/
def satAdd (top a b : Nat) : Nat := min top (a + b)

/-- A 32-bit count that saturates at 0xFFFF_FFFF. -/
def sat32 (a b : Nat) : Nat := satAdd 0xFFFFFFFF a b

end Sys2Proof.Machine
end

