-- ==== Sys2Proof/Machine/Num.lean ====
section
/-! DEFINITION. Number formats, exact binary arithmetic and rounding (03 R122 to R128, R703). -/

namespace Sys2Proof.Machine

/-- A floating value: NaN, an infinity, or the finite number ±m × 2^e; zero keeps its sign. -/
inductive Flt where
  | nan
  | inf (neg : Bool)
  | fin (neg : Bool) (m : Nat) (e : Int)
deriving DecidableEq, Repr

/-- How a format spends its top exponent: infinities and NaNs, one NaN pattern (E4M3), or neither (Table 3.2). -/
inductive TopCode where
  | ieee
  | nanOnly
  | finite
deriving DecidableEq, Repr

/-- A floating format of Table 3.2. -/
structure FFmt where
  ebits : Nat
  mbits : Nat
  bias : Nat
  top : TopCode
deriving DecidableEq, Repr

def fp32 : FFmt := ⟨8, 23, 127, .ieee⟩
def fp64 : FFmt := ⟨11, 52, 1023, .ieee⟩
def bf16 : FFmt := ⟨8, 7, 127, .ieee⟩
def e4m3 : FFmt := ⟨4, 3, 7, .nanOnly⟩
def e5m2 : FFmt := ⟨5, 2, 15, .ieee⟩
def e2m3 : FFmt := ⟨2, 3, 1, .finite⟩
def e3m2 : FFmt := ⟨3, 2, 3, .finite⟩
def e2m1 : FFmt := ⟨2, 1, 1, .finite⟩

/-- The pattern of the largest finite value. -/
def FFmt.maxPat (f : FFmt) : Nat :=
  match f.top with
  | .ieee => (2 ^ f.ebits - 1) * 2 ^ f.mbits - 1
  | .nanOnly => 2 ^ (f.ebits + f.mbits) - 2
  | .finite => 2 ^ (f.ebits + f.mbits) - 1

/-- The exponent of the format's smallest step. -/
def FFmt.emin (f : FFmt) : Int := 1 - (f.bias : Int) - (f.mbits : Int)

/-- The value of a pattern (R122, R123). -/
def FFmt.dec (f : FFmt) (w : Nat) : Flt :=
  let neg := bit w (f.ebits + f.mbits)
  let a := w % 2 ^ (f.ebits + f.mbits)
  if a > f.maxPat then
    if f.top = .ieee ∧ a = f.maxPat + 1 then .inf neg else .nan
  else
    let ex := a / 2 ^ f.mbits
    let m := a % 2 ^ f.mbits
    if ex = 0 then .fin neg m f.emin else .fin neg (m + 2 ^ f.mbits) (f.emin + (ex : Int) - 1)

/-- Round n / 2^k to an integer, to nearest, ties to even (R124). -/
def rneShift (n k : Nat) : Nat :=
  let q := n / 2 ^ k
  let r := n % 2 ^ k
  if 2 * r > 2 ^ k then q + 1 else if 2 * r = 2 ^ k then q + q % 2 else q

/-- m × 2^e counted in steps of 2^q, to nearest, ties to even. -/
def rneAt (m : Nat) (e q : Int) : Nat :=
  if e ≥ q then m * 2 ^ (e - q).toNat else rneShift m (q - e).toNat

/-- The magnitude pattern of a finite value in a format, before the largest finite value is applied. -/
def FFmt.roundMag (f : FFmt) (m : Nat) (e : Int) : Nat :=
  if m = 0 then 0 else
    let q := max f.emin ((Nat.log2 m : Int) + e - (f.mbits : Int))
    (q - f.emin).toNat * 2 ^ f.mbits + rneAt m e q

/-- The canonical NaN (R126); for FP64, which no rule gives, the quiet pattern. -/
def FFmt.nanPat (f : FFmt) : Nat :=
  match f.top with
  | .ieee => (2 ^ f.ebits - 1) * 2 ^ f.mbits + 2 ^ (f.mbits - 1)
  | .nanOnly => 2 ^ (f.ebits + f.mbits) - 1
  | .finite => 0

/-- The pattern of a sign and a magnitude. -/
def FFmt.sgn (f : FFmt) (neg : Bool) (a : Nat) : Nat := b2n neg * 2 ^ (f.ebits + f.mbits) + a

/-- The pattern of the infinity of a sign, or of the largest finite value where the format has none (R125). -/
def FFmt.infPat (f : FFmt) (neg : Bool) : Nat :=
  f.sgn neg (if f.top = .ieee then f.maxPat + 1 else f.maxPat)

/-- Conversion to a format: to nearest even, finite values beyond the largest take the largest (R124 to R126). -/
def FFmt.cvt (f : FFmt) (x : Flt) : Nat :=
  match x with
  | .nan => f.nanPat
  | .inf neg => f.infPat neg
  | .fin neg m e => f.sgn neg (min (f.roundMag m e) f.maxPat)

/-- One rounding of an arithmetic result: overflow gives infinity. R132 says so of accumulators; for VFADD, VFMUL and VFMA it is the model's choice (R133,
log 101). -/
def FFmt.rnd (f : FFmt) (x : Flt) : Nat :=
  match x with
  | .nan => f.nanPat
  | .inf neg => f.infPat neg
  | .fin neg m e =>
    let a := f.roundMag m e
    if a > f.maxPat then f.infPat neg else f.sgn neg a

/-- The signed mantissa. -/
def smant (neg : Bool) (m : Nat) : Int := if neg then -(m : Int) else (m : Int)

/-- The value n × 2^e of an integer n, zero positive. -/
def Flt.ofInt (n : Int) (e : Int) : Flt := .fin (decide (n < 0)) n.natAbs e

/-- Exact sum (R132: infinities of opposite sign give NaN). -/
def Flt.add (x y : Flt) : Flt :=
  match x, y with
  | .nan, _ => .nan
  | _, .nan => .nan
  | .inf a, .inf b => if a = b then .inf a else .nan
  | .inf a, _ => .inf a
  | _, .inf b => .inf b
  | .fin sa ma ea, .fin sb mb eb =>
    if ma = 0 ∧ mb = 0 then .fin (sa && sb) 0 0 else
      let e := min ea eb
      Flt.ofInt (smant sa ma * 2 ^ (ea - e).toNat + smant sb mb * 2 ^ (eb - e).toNat) e

/-- Exact negation. -/
def Flt.neg (x : Flt) : Flt :=
  match x with
  | .nan => .nan
  | .inf a => .inf (!a)
  | .fin s m e => .fin (!s) m e

/-- Exact difference. -/
def Flt.sub (x y : Flt) : Flt := x.add y.neg

/-- Magnitude. -/
def Flt.abs (x : Flt) : Flt :=
  match x with
  | .nan => .nan
  | .inf _ => .inf false
  | .fin _ m e => .fin false m e

/-- Exact product. -/
def Flt.mul (x y : Flt) : Flt :=
  match x, y with
  | .nan, _ => .nan
  | _, .nan => .nan
  | .inf a, .inf b => .inf (a != b)
  | .inf a, .fin b m _ => if m = 0 then .nan else .inf (a != b)
  | .fin a m _, .inf b => if m = 0 then .nan else .inf (a != b)
  | .fin a ma ea, .fin b mb eb => .fin (a != b) (ma * mb) (ea + eb)

/-- Quotient, exact but for a sticky last bit that keeps every later rounding to at most 64 bits right. -/
def Flt.div (x y : Flt) : Flt :=
  match x, y with
  | .nan, _ => .nan
  | _, .nan => .nan
  | .inf _, .inf _ => .nan
  | .inf a, .fin b _ _ => .inf (a != b)
  | .fin a _ _, .inf b => .fin (a != b) 0 0
  | .fin a ma ea, .fin b mb eb =>
    if mb = 0 then (if ma = 0 then .nan else .inf (a != b))
    else if ma = 0 then .fin (a != b) 0 0
    else
      let k := 70 + Nat.log2 mb
      let n := ma * 2 ^ k
      .fin (a != b) (2 * (n / mb) + (if n % mb = 0 then 0 else 1)) (ea - eb - (k : Int) - 1)

/-- Integer square root, by bits from the top. -/
def isqrtAux : Nat → Nat → Nat → Nat
  | 0, _, r => r
  | i + 1, n, r =>
    let t := r + 2 ^ i
    isqrtAux i n (if t * t ≤ n then t else r)

def isqrt (n : Nat) : Nat := isqrtAux (Nat.log2 n / 2 + 1) n 0

/-- Square root with a sticky last bit; of a negative number, NaN. -/
def Flt.sqrt (x : Flt) : Flt :=
  match x with
  | .nan => .nan
  | .inf a => if a then .nan else .inf false
  | .fin a m e =>
    if m = 0 then .fin a 0 0 else if a then .nan else
      let k := 140 + (e % 2).toNat
      let n := m * 2 ^ k
      let r := isqrt n
      .fin false (2 * r + (if r * r = n then 0 else 1)) ((e - (k : Int)) / 2 - 1)

/-- x < y of numbers; false with a NaN; zeros of either sign are equal (R128). -/
def Flt.lt (x y : Flt) : Bool :=
  match x, y with
  | .nan, _ => false
  | _, .nan => false
  | .inf a, .inf b => a && !b
  | .inf a, .fin _ _ _ => a
  | .fin _ _ _, .inf b => !b
  | .fin sa ma ea, .fin sb mb eb =>
    let e := min ea eb
    decide (smant sa ma * 2 ^ (ea - e).toNat < smant sb mb * 2 ^ (eb - e).toNat)

def Flt.isNan (x : Flt) : Bool := x = .nan

def Flt.isFin (x : Flt) : Bool :=
  match x with
  | .fin _ _ _ => true
  | _ => false

def Flt.isZero (x : Flt) : Bool :=
  match x with
  | .fin _ m _ => decide (m = 0)
  | _ => false

/-- Equality of numbers (R128). -/
def Flt.eq (x y : Flt) : Bool := !x.isNan && !y.isNan && !x.lt y && !y.lt x

/-- The nearest integer to a finite value, ties to even. -/
def Flt.toInt (x : Flt) : Int :=
  match x with
  | .fin s m e => smant s (rneAt m e 0)
  | _ => 0

/-- Two's complement reading of the low w bits. -/
def sx (w v : Nat) : Int := if bit v (w - 1) then (v % 2 ^ w : Int) - 2 ^ w else (v % 2 ^ w : Int)

/-- The low w bits of an integer. -/
def lowBits (w : Nat) (n : Int) : Nat := (n % (2 ^ w : Int)).toNat

/-- Width in bits of an element of a format code of Table 2.4. -/
def fmtBits (code : Nat) : Nat :=
  match code with
  | 0x0 => 4 | 0x1 => 4 | 0x2 => 8 | 0x3 => 8 | 0x4 => 8 | 0x5 => 8 | 0x6 => 16 | 0x7 => 8
  | 0x8 => 8 | 0x9 => 6 | 0xA => 6 | 0xB => 4 | 0xC => 8 | 0xD => 32 | 0xE => 32 | _ => 8

/-- The codes 0x7 to 0xC are the MX formats. -/
def fmtIsMx (code : Nat) : Bool := decide (0x7 ≤ code ∧ code ≤ 0xC)

/-- The integer codes: 0x0 to 0x3 and INT32. -/
def fmtIsInt (code : Nat) : Bool := decide (code ≤ 0x3 ∨ code = 0xD)

/-- The floating format of a code, for the codes that have one. -/
def fmtFloat (code : Nat) : Option FFmt :=
  match code with
  | 0x4 => some e4m3 | 0x5 => some e5m2 | 0x6 => some bf16 | 0x7 => some e4m3 | 0x8 => some e5m2
  | 0x9 => some e2m3 | 0xA => some e3m2 | 0xB => some e2m1 | 0xE => some fp32 | _ => none

/-- Smallest and largest integer of an integer code; for MXINT8 on output the range is symmetric (R703). -/
def intRange (code : Nat) : Int × Int :=
  match code with
  | 0x0 => (-8, 7) | 0x1 => (0, 15) | 0x2 => (-128, 127) | 0x3 => (0, 255)
  | 0xC => (-127, 127) | _ => (-2147483648, 2147483647)

/-- The value of an element pattern (R122, R703). -/
def decElem (code w : Nat) : Flt :=
  match fmtFloat code with
  | some f => f.dec w
  | none =>
    if code = 0xC then Flt.ofInt (sx 8 w) (-6)
    else if code = 0x1 ∨ code = 0x3 then .fin false (w % 2 ^ fmtBits code) 0
    else Flt.ofInt (sx (fmtBits code) w) 0

/-- Clamp an integer to a range. -/
def clampInt (lo hi n : Int) : Int := max lo (min hi n)

/-- The integer of a value in steps of 2^s, to nearest even, clamped; NaN gives 0 and an infinity the end of its sign. -/
def cvtInt (lo hi : Int) (s : Int) (x : Flt) : Int :=
  match x with
  | .nan => 0
  | .inf neg => if neg then lo else hi
  | .fin n m e => clampInt lo hi (smant n (rneAt m e s))

/-- Conversion of a value to an element pattern of a code (R124 to R126, R703). -/
def cvtElem (code : Nat) (x : Flt) : Nat :=
  match fmtFloat code with
  | some f => f.cvt x
  | none =>
    let r := intRange code
    lowBits (fmtBits code) (cvtInt r.1 r.2 (if code = 0xC then -6 else 0) x)

/-- The value of an E8M0 scale (R122, R127). -/
def e8m0 (w : Nat) : Flt := if w % 256 = 255 then .nan else .fin false 1 ((w % 256 : Int) - 127)

/-- Largest finite magnitude of an element of a code, as mantissa and exponent. -/
def fmtMax (code : Nat) : Flt :=
  match fmtFloat code with
  | some f => f.dec f.maxPat
  | none => Flt.ofInt (intRange code).2 (if code = 0xC then -6 else 0)

/-- One FP32 addition, product and fused multiply-add, each with one rounding (R133). -/
def f32add (a b : Nat) : Nat := fp32.rnd ((fp32.dec a).add (fp32.dec b))
def f32mul (a b : Nat) : Nat := fp32.rnd ((fp32.dec a).mul (fp32.dec b))
def f32fma (a b c : Nat) : Nat := fp32.rnd (((fp32.dec a).mul (fp32.dec b)).add (fp32.dec c))
def f32div (a b : Nat) : Nat := fp32.rnd ((fp32.dec a).div (fp32.dec b))
def f32sqrt (a : Nat) : Nat := fp32.rnd (fp32.dec a).sqrt
def f32sub (a b : Nat) : Nat := fp32.rnd ((fp32.dec a).sub (fp32.dec b))

/-- FP64 addition with one rounding. -/
def f64add (a b : Nat) : Nat := fp64.rnd ((fp64.dec a).add (fp64.dec b))

/-- Take the element at a place out of a list. -/
def pickAt (n : Nat) : List Nat → Nat × List Nat
  | [] => (0, [])
  | x :: r => if n = 0 then (x, r) else
      let p := pickAt (n - 1) r
      (p.1, x :: p.2)

/-- A sum whose order of additions the spec leaves open (03 R135, R156, 04 R179): free values choose, again and again, two terms to add. -/
def anySum (add : Nat → Nat → Nat) (seed : Nat) : Nat → List Nat → Nat
  | 0, xs => xs.headD 0
  | n + 1, xs =>
    match xs with
    | [] => 0
    | [a] => a
    | xs =>
      let p := pickAt (Config.freeNat (seed + 2 * n) % xs.length) xs
      let q := pickAt (Config.freeNat (seed + 2 * n + 1) % p.2.length) p.2
      anySum add seed n (add p.1 q.1 :: q.2)

/-- The sum of FP32 patterns, and of FP64 patterns, in an order that is not defined. -/
def f32sum (seed : Nat) (xs : List Nat) : Nat := anySum f32add seed xs.length xs
def f64sum (seed : Nat) (xs : List Nat) : Nat := anySum f64add seed xs.length xs

/-- The CRC-32C of a string: polynomial 0x1EDC_6F41 reflected, initial value all ones, final value inverted (11 R464). -/
def crcBit : Nat → Nat → Nat
  | 0, c => c
  | n + 1, c => crcBit n (if c % 2 = 1 then Nat.xor (c / 2) 0x82F63B78 else c / 2)

def crc32c (bs : Bytes) : Nat :=
  Nat.xor (bs.foldl (fun c b => crcBit 8 (Nat.xor c b.toNat)) 0xFFFFFFFF) 0xFFFFFFFF

end Sys2Proof.Machine
end

