-- ==== Sys2Proof/Machine/CoreState.lean ====
section
/-! DEFINITION. The state of a core and of a cluster (02, 03, 04): register files, memories, engines, facilities. -/

namespace Sys2Proof.Machine

/-- What an accumulator bank holds (03 R109). -/
inductive AccKind where
  | empty
  | int32
  | fp32
deriving DecidableEq, Repr

/-- A stationary operand set: element patterns keyed k × 32 + j, block scales keyed block × 32 + j, the pass tag (03 R114) and the
recorded pair FA, FB (03 R705); no pair while no MSLD has loaded it. -/
structure StatSet where
  elem : NMap (BitVec 16) := []
  scale : NMap (BitVec 8) := []
  tag : BitVec 16 := 0
  pair : Option (BitVec 4 × BitVec 4) := none
deriving DecidableEq, Repr

/-- An entry of a select list (04 Table 4.1). -/
structure Ent where
  val : BitVec 32
  id : BitVec 48
  pos : BitVec 48
deriving DecidableEq, Repr

/-- The list of a select engine (04 R164 to R180): its configuration, the kept entries from best to worst, the number left
out of each value, and the counters. `outTerms` and `dupTerms` hold the terms of SUM_OUT and SUM_DUP, as signed 64-bit integers or FP64
patterns by the value type: the order of floating additions is not defined (R179). -/
structure SleList where
  conf : Bool := false
  k : Nat := 0
  dir : Bool := false
  vt : BitVec 3 := 0
  addr : BitVec 64 := 0
  posBase : BitVec 48 := 0
  idBase : BitVec 48 := 0
  explicitIds : Bool := false
  dedup : Bool := false
  rsv : Nat := 0
  mslot : BitVec 2 := 0
  mmask : BitVec 8 := 0
  next : BitVec 48 := 0
  kept : List Ent := []
  left : NMap Nat := []
  offered : BitVec 64 := 0
  outTerms : List (BitVec 64) := []
  dupTerms : List (BitVec 64) := []
  dups : BitVec 64 := 0
  nans : BitVec 64 := 0
  ignored : Nat := 0
  inexact : Bool := false
  /-- A program has touched the list buffer since the SCLR (R166). -/
  touched : Bool := false
deriving DecidableEq, Repr, Inhabited

/-- The kinds of engine operation (02 "engine operation"; 03 R141 for the four of VSQNT). -/
inductive EOp where
  | tmov | tgath | tscat | tfill | tdset | tdget
  | mop | msld | mws | mrd | mclr
  | vsxp | vstlk | quantise | slotLoad | slotStore | slotClose
  | stopk | ssort | smerge | semit | scmrg | sclr
deriving DecidableEq, Repr

/-- An engine operation in an engine: what it is, where it was issued, its token (none: TK = 63), and the operands captured at issue. `x`
is a scalar operand or the query's low register, `y` the query's high register; `n` is CNT, LEN, CL or K; `a`, `b` are format codes, the slot, or
VT and DIR; `flag` is BANK, `acc` is ACC. `scale` and `zp` are the slot's scale and zero point as they stood at the start (03 R148). -/
structure EngOp where
  op : EOp
  pc : Nat
  tk : Option Nat
  ta : BitVec 256 := 0
  tb : BitVec 256 := 0
  tc : BitVec 256 := 0
  td : Nat := 0
  x : BitVec 512 := 0
  y : BitVec 512 := 0
  n : Nat := 0
  a : Nat := 0
  b : Nat := 0
  bank : Nat := 0
  acc : Bool := false
  scale : BitVec 32 := 0
  zp : BitVec 16 := 0
  /-- For an SCMRG, whether its arrival stands in its slot's round (04 R184). -/
  arrived : Bool := false
deriving DecidableEq, Repr

/-- The four engines. -/
inductive Engine where
  | mxe | vxe | sle | tme
deriving DecidableEq, Repr

/-- What a stalled sequencer waits for: a token (02 R53), a barrier (R89), or an engine (R51, R55, R56; HALT). -/
inductive Stall where
  | wait (k n : Nat)
  | bar (b : Nat)
  | busy
deriving DecidableEq, Repr

/-- The instruction at which a sequencer stalls, and what it waits for (02 R49). -/
structure Stalled where
  i : Instr
  why : Stall
deriving DecidableEq, Repr

/-- What the context image of one core holds (02 Table 2.1). -/
structure Arch where
  s : NMap (BitVec 64) := []
  v : NMap (BitVec 512) := []
  p : NMap (BitVec 64) := []
  t : NMap (BitVec 256) := []
  k : NMap (BitVec 16) := []
  /-- PC of the next instruction to issue; 16,384 stands past the last place of the instruction memory. -/
  pc : BitVec 15 := 0
  spm : Mem := []
  imem : NMap (BitVec 64) := []
  /-- Function tables, keyed table × 256 + entry. -/
  ftab : NMap (BitVec 64) := []
  /-- Tensor slots, keyed slot × 1,024 + offset (03 Table 3.4). -/
  slots : Mem := []
  /-- Accumulator cells, keyed bank × 1,024 + row × 32 + column. -/
  acc : NMap (BitVec 32) := []
  accKind : NMap AccKind := []
  sets : NMap StatSet := []
  /-- The active stationary set: false is set 0. -/
  active : Bool := false
  /-- The idle set is pending. -/
  pending : Bool := false
  pass : BitVec 16 := 0
  sle : SleList := {}
  /-- Operations of the MXE, oldest first: the last is in input, those before it drain (02 R51, 03 R110). -/
  mxe : List EngOp := []
  vxe : Option EngOp := none
  sleOp : Option EngOp := none
  tme : Option EngOp := none
  /-- The instruction at which the sequencer stalls, to issue again at the PC (02 R49, R93, 10 R405). -/
  stall : Option Stalled := none
  /-- Round number plus 1 of the last round for which a slot's QNT event of a kind wrote a record, keyed slot × 3 + kind (03 R157). -/
  qmark : NMap Nat := []
  /-- Tensor slots whose RMAX and RMIN hold a finite input of the open round (03 R145). -/
  qfin : List Nat := []
deriving DecidableEq, Repr, Inhabited

end Sys2Proof.Machine

namespace Sys2Proof

/-- The bytes of the parts of a context image that Table 2.1 lays out no further (stationary sets, SLE state, PC and resume flags, progress records),
as an uninterpreted function of the state saved (log 62). -/
opaque Config.imageRest : Machine.Arch → Nat → BitVec 8

/-- What those parts hold where their bytes are not the ones that were saved: unknown (log 62). -/
opaque Config.restArch : Bytes → Machine.Arch

end Sys2Proof

namespace Sys2Proof.Machine

/-- The zero state of the rule on context start (02 R61): every part zero; p0 reads all ones in the register accessor (R58). -/
def Arch.zero : Arch := {}

/-- CORE_STS.STATE. -/
inductive CoreRun where
  | idle | running | stopping | saving | saved | restoring | faulted | held
deriving DecidableEq, Repr

/-- The recorded fault of a core: the fields of CORE_FAULT and CORE_FAULT_ADDR. -/
structure CoreFault where
  code : Nat
  precise : Bool
  src : Nat
  pc : Nat
  addr : BitVec 64
deriving DecidableEq, Repr

/-- One core number: its image state and its registers. -/
structure Core where
  arch : Arch := {}
  run : CoreRun := .idle
  halted : Bool := false
  ctx : BitVec 10 := 0
  /-- A context is on the core. -/
  bound : Bool := false
  hold : Bool := false
  preempt : Bool := false
  restore : Bool := false
  scrub : Bool := false
  fault : Option CoreFault := none
  /-- CORE_STEP_CNT; its stalled steps are added when it is read (R40, log 7). -/
  steps : BitVec 64 := 0
  /-- An instruction has retired since the last SCRUB, so that a wait at a bank may have been seen (log 37). -/
  ran : Bool := false
  /-- Time at which the core was told to stop (R94). -/
  stopAt : Nat := 0
  /-- Image of a core that holds no context (a flash-side core), while it is saved (R93). -/
  image : Option Arch := none
  progLen : BitVec 15 := 0
  saveBase : BitVec 64 := 0
  trap : BitVec 16 := 0
  bankWait : BitVec 5 := 0
  haltStatus : BitVec 64 := 0
  satLimit : BitVec 16 := 0x0400
  replayCnt : BitVec 32 := 0
  qntLast : BitVec 32 := 0
  mxeSpare : BitVec 32 := 0
  sleAdmit : BitVec 32 := 0
  sleDup : BitVec 32 := 0
  sleInexact : BitVec 32 := 0
  /-- Patch lines in use, keyed by bank (13 R567). -/
  patch : NMap Nat := []
  spmCe : BitVec 16 := 0
deriving DecidableEq, Repr

/-- An open round of a merge slot (04 R184): what its first arrival fixed, the cores that have arrived, in order. -/
structure MRound where
  mask : BitVec 8 := 0
  k : Nat := 0
  dir : Bool := false
  vt : BitVec 3 := 0
  rsv : Nat := 0
  /-- The descriptor that names the destination of the round's record. -/
  tb : BitVec 256 := 0
  arrived : List Nat := []
  /-- SCMRGs that wait for the slot to be ready again, by core, in order of arrival (04 R185). -/
  waiting : List Nat := []
deriving DecidableEq, Repr

/-- One cluster: scratchpad and facilities (02 R88 to R92, 04 R183 to R186). -/
structure Cluster where
  spm : Mem := []
  /-- Banks withdrawn under 13 R567. -/
  wd : BitVec 16 := 0
  barMask : NMap (BitVec 32) := []
  arrivals : NMap (BitVec 8) := []
  spmOwn : NMap (BitVec 32) := []
  mslotOwn : NMap (BitVec 32) := []
  rounds : NMap MRound := []
  patch : NMap Nat := []
deriving DecidableEq, Repr

end Sys2Proof.Machine
end

