-- ==== Sys2Proof/Machine/SysState.lean ====
section
/-! DEFINITION. The state of the module outside the device services: power and pins, page headers, DRAM and its repair,
contexts and the scheduler, queue pairs and outstanding commands, the Field Book (01, 10, 11, 13, 16, 17, 18). -/

namespace Sys2Proof.Machine

/-- Power, time and pins (01 R45, 18 R687 to R693). -/
structure Sys where
  powered : Bool := false
  /-- Steps of Table 18.2 that have ended, 0 to 7. -/
  upStep : Nat := 0
  /-- Held off after a thermal trip (14 R591). -/
  tripped : Bool := false
  /-- The boot ROM runs its recovery (15 R640): no image verified. -/
  recovery : Bool := false
  now : Nat := 0
  poc : Nat := 0
  perstN : Bool := false
  pwrbrkN : Bool := true
  freezeN : Bool := true
  alertN : Bool := true
  linkUp : Bool := false
  ready : Bool := false
  /-- Attached to a switch, or to a root port (11 R427). -/
  switched : Bool := true
  mediaReady : Bool := false
  /-- Time of the last ticks of the second, the minute and the governor (log 3). -/
  lastHeat : Nat := 0
  lastBin : Nat := 0
  lastGov : Nat := 0
  /-- XBR_LINK bits of each hub, keyed hub × 64 + die; 1 while the link is in service (17 R686). -/
  xbr : NMap Bool := []
deriving DecidableEq, Repr

/-- The header of one page (17 R677). `evtOff` holds the defined bits that EVT_EN has cleared. -/
structure Page where
  mode : BitVec 2 := 0
  evtSts : BitVec 32 := 0
  evtOff : BitVec 32 := 0
  errCnt : BitVec 32 := 0
deriving DecidableEq, Repr

/-- A DRAM line that does not hold a clean codeword: its 72 stored bytes, and whether six or more positions may be in error,
where the decoder promises nothing (13 R541). -/
structure BadLine where
  data : Bytes
  chk : Bytes
  noPromise : Bool
deriving DecidableEq, Repr

/-- The classes of pool allocation (09 Table 9.5). -/
inductive PoolClass where
  | pinned | free | kv | retained | state
deriving DecidableEq, Repr

/-- What a pool allocation holds. -/
inductive PoolUse where
  | save (ctx core : Nat)
  | work (ctx core : Nat)
  | run (r : Nat)
  | kvRun (seq i : Nat)
  | atlas (tab : Nat)
  | optState (tab : Nat)
  | freezeMap (tab : Nat)
  | index (ix : Nat)
  /-- The base pages of a list version: index, list, switch epoch. -/
  | hotList (ix list ver : Nat)
  | staging (step : Nat)
  /-- Programs, constants and step areas of the model (0); results and items of a step of entry e (e + 1). -/
  | model (k : Nat)
deriving DecidableEq, Repr

/-- One allocation in a channel: its logical bytes, class and partition (09 R362, R363). -/
structure Alloc where
  chan : Nat
  off : Nat
  len : Nat
  cls : PoolClass
  part : Nat
  use : PoolUse
  /-- Time of the last touch of an evictable run (09 R364). -/
  touch : Nat := 0
deriving DecidableEq, Repr

/-- A correction or uncorrectable record (13 R551): of the last 24 h of this power-on, or of a retired frame (R558, R563, log 101). -/
structure LineRec where
  time : Nat
  chan : Nat
  frame : Nat
  bank : Nat
  line : Nat
  ue : Bool
  /-- Made before this power-on. -/
  old : Bool := false
deriving DecidableEq, Repr

/-- DRAM: bytes at logical channel addresses, keyed g × 2³¹ + address, and its repair state (13). -/
structure Dram where
  mem : Mem := []
  /-- Lines without a clean codeword, keyed g × 2²⁵ + line. -/
  bad : List (Nat × BadLine) := []
  /-- Physical frame of a logical frame where it is not its own number, keyed g × 2¹⁵ + frame. -/
  frameMap : List (Nat × Nat) := []
  absent : List Nat := []
  /-- Retired physical frames, keyed g × 2¹⁵ + frame. -/
  retired : List Nat := []
  /-- Retired banks, keyed g × 64 + bank, and slices redirected, keyed (g × 2¹⁵ + frame) × 64 + bank, to donor frame × 64 + bank. -/
  banks : List Nat := []
  slices : List (Nat × Nat) := []
  withdrawn : List Nat := []
  /-- Stacks out of service. -/
  dead : List Nat := []
  recs : List LineRec := []
  alloc : List Alloc := []
  /-- Stream floor of each partition in MiB: STREAM_MB of its model (09 R365). -/
  floor : NMap Nat := []
  /-- TIR_EVICT_CNT (09 R364). -/
  evictCnt : BitVec 32 := 0
  /-- Retirements that wait for donors: a channel, with a frame, or with 32,768 and a bank (13 R559, R560). -/
  waitRetire : List (Nat × Nat) := []
  /-- Channels in self-refresh in a low power state (11 Table 11.12). -/
  selfRefresh : List Nat := []
deriving DecidableEq, Repr

/-- Resurvey and repair registers of one stack (13; 17 R685). -/
structure Stack where
  period : BitVec 16 := 0x000C
  pos : BitVec 25 := 0
  passCnt : BitVec 32 := 0
  ceCnt : BitVec 32 := 0
  ueCnt : BitVec 32 := 0
  pprDone : BitVec 16 := 0
  pprLeft : BitVec 16 := 0
  /-- The stack's DRAM refreshes at twice the normal rate (01 R27). -/
  hot : Bool := false
deriving DecidableEq, Repr

/-- The ECC page and the module's repair counts (13). -/
structure Ecc where
  ceLimit : BitVec 16 := 0x0804
  retPart : BitVec 4 := 0
  retValid : Bool := true
  retAddr : BitVec 32 := 0
  retResult : BitVec 3 := 0
  flipLine : BitVec 25 := 0
  flipChan : BitVec 10 := 0
  flipArmed : Bool := false
  flipHit : Bool := false
  flipMask : NMap (BitVec 32) := []
  diagLine : BitVec 25 := 0
  diagChan : BitVec 10 := 0
  diag : NMap (BitVec 32) := []
  diagChk : NMap (BitVec 32) := []
  spare : NMap Nat := []
  coreWd : List Nat := []
  sramCe : BitVec 16 := 0
  sramUe : BitVec 16 := 0
  sramTest : BitVec 16 := 0x003C
  /-- Host core of a withdrawn number, and the number a host core now runs (13 R571), where it is not its own. -/
  host : List (Nat × Nat) := []
  hosting : List (Nat × Nat) := []
  /-- Pending SRAM repairs of the boot-flash repair list: core or 1,024 + cluster, and line (13 R567). -/
  pendRepair : List (Nat × Nat) := []
deriving DecidableEq, Repr

/-- A grant entry (10 R398). -/
structure Grant where
  base : Nat
  len : Nat
  r : Bool
  w : Bool
deriving DecidableEq, Repr

inductive CtxKind where
  | job
  | index (ix : Nat)
  | entry (e : Nat)
deriving DecidableEq, Repr

/-- Where a context stands (10 R394, R406). -/
inductive CtxPlace where
  | waiting | resident | saving | saved
deriving DecidableEq, Repr

/-- A post applied to a job context by CX_POST (10 R402, R416): core, token, count. -/
structure Post where
  core : Nat
  tok : Nat
  n : Nat
deriving DecidableEq, Repr

/-- What a context's cluster record holds of one cluster: barriers with their words and arrivals, banks with their owner words and bytes (an offset and
the bytes from it), merge slots with their owner words and rounds (02 R96, 04 R186). -/
structure CluRec where
  clu : Nat
  bars : List (Nat × BitVec 32 × BitVec 8)
  banks : List (Nat × BitVec 32 × Bytes)
  slots : List (Nat × BitVec 32 × MRound)
deriving DecidableEq, Repr

/-- A context (10). -/
structure Ctx where
  kind : CtxKind
  part : Nat
  cores : List Nat
  qntHost : Bool := false
  progLen : Nat := 0
  prog : NMap (BitVec 64) := []
  ftab : NMap (BitVec 64) := []
  params : Bytes := []
  workMb : Nat := 0
  outAddr : Nat := 0
  outLen : Nat := 0
  nbank : Nat := 0
  nmslot : Nat := 0
  nbar : Nat := 0
  grants : List Grant := []
  tag : BitVec 32 := 0
  cmd : Option CmdRef := none
  place : CtxPlace := .waiting
  /-- Cores whose image is still to be saved, or to be restored. -/
  todo : List Nat := []
  /-- Its state has been started and not discarded since (R400, R415). -/
  started : Bool := false
  /-- It has been resident at some time (R404). -/
  begun : Bool := false
  /-- Since when it is runnable and not resident (R406). -/
  waitSince : Option Nat := none
  /-- It was not blocked when its save began (R412). -/
  ranAtSave : Bool := false
  blockedSince : Option Nat := none
  residentSince : Nat := 0
  /-- Made resident under the slice rule (10 R408). -/
  sliced : Bool := false
  preempts : Nat := 0
  reruns : Nat := 0
  halted : List (Nat × BitVec 64) := []
  /-- Posts by CX_POST that have been applied, in order (R416). -/
  posts : List Post := []
  /-- Saved images by core; a post for a saved core is added to its image (R410). -/
  images : List (Nat × Arch) := []
  /-- A held post overflowed a token: core and token (10 R411). -/
  heldFault : Option (Nat × Nat) := none
  /-- The cluster records of a saved context (02 R96, 04 R186). -/
  recs : List CluRec := []
deriving DecidableEq, Repr

/-- The scheduler (10). -/
structure Sched where
  /-- The partition of each stack-side cluster; an unlisted cluster belongs to partition 0, and 16 stands for none (R389). -/
  map : NMap Nat := []
  ctxs : List (Nat × Ctx) := []
  slice : BitVec 16 := 0x03E8
  block : BitVec 16 := 0x00C8
  preemptCnt : BitVec 32 := 0
  rerunCnt : BitVec 32 := 0
  teardownCnt : BitVec 32 := 0
  stall : BitVec 16 := 0
  bg : BitVec 5 := 0x14
  /-- Clusters drained for ST_CLUSTER (R418). -/
  drained : List Nat := []
  /-- Route marks raised by EVT and not yet taken by the tier manager: core, CODE and leg (09 R369). -/
  marks : List (Nat × Nat × Nat) := []
deriving DecidableEq, Repr

/-- A queue-pair descriptor (11 Table 11.4), its ring sizes as counts. -/
structure QpDesc where
  ver : Nat
  sqSize : Nat
  cqSize : Nat
  sqOff : Nat
  cqAddr : Nat
  ansOff : Nat
  ansBlocks : Nat
  stgGran : Nat
  stgOff : Nat
  int : Nat
  intEn : Bool
deriving DecidableEq, Repr

/-- A queue pair that is set up (11 R437 to R442, R717). -/
structure Qp where
  desc : QpDesc
  sqTail : Nat := 0
  sqHead : Nat := 0
  cqHead : Nat := 0
  cqWr : Nat := 0
  /-- Entries written and not consumed. -/
  cqUsed : Nat := 0
  phase : Bool := true
  /-- Answers published and not released: first block, blocks. -/
  published : List (Nat × Nat) := []
  /-- Number of packets read, which orders the commands of the queue pair. -/
  seq : Nat := 0
  /-- SQ_TAIL as last written while the module did not act on it (11 R481). -/
  heldTail : Option Nat := none
  /-- Slots lost whose entry waits for ring space: slot, SQ_HEAD after the packet, since when (11 R461). -/
  lost : List (Nat × Nat × Nat) := []
  /-- Failed duplicate tags whose completion waits for ring space: tag, SQ_HEAD after the packet, since when (11 R446). -/
  dups : List (Nat × Nat × Nat) := []
  /-- A QP_DELETE is removing it: no further packet is read (11 R440). -/
  deleting : Bool := false
deriving DecidableEq, Repr

/-- Where an outstanding command stands (11 R444 to R468). -/
inductive CmdPhase where
  /-- Its packet is read; it waits for staging room and its transfer-ready (R456). -/
  | wantSlot
  /-- It waits for data-done. -/
  | wantData
  /-- It waits for its answer blocks (R458). -/
  | wantBlocks
  | admitted
  /-- Its work has begun. -/
  | running
  /-- Its work has ended; its answer waits to be published. -/
  | worked
  /-- It waits for its completion entry. -/
  | done
deriving DecidableEq, Repr

/-- An outstanding command (11 R447). -/
structure Cmd where
  ref : CmdRef
  opcode : Nat
  ver : Nat
  fua : Bool
  embed : Bool
  ordered : Bool
  dlen : Nat
  obj : Nat
  p1 : Nat
  p2 : Nat
  p3 : Bytes
  data : Bytes := []
  phase : CmdPhase
  /-- Number of its packet in its queue pair. -/
  seq : Nat
  /-- SQ_HEAD after its packet. -/
  sqHead : Nat
  token : Option (BitVec 16) := none
  /-- Staging slot: first granule, granules. -/
  slot : Option (Nat × Nat) := none
  /-- Answer reservation: first block, blocks. -/
  res : Option (Nat × Nat) := none
  /-- A host store reached a reserved block (R436). -/
  spoiled : Bool := false
  /-- Admission number; 0 before admission (05 R206). -/
  adm : Nat := 0
  /-- Time since which it waits for data or for ring space (10 R425). -/
  since : Nat := 0
  status : Nat := 0
  result : Bytes := []
  body : Option Bytes := none
  /-- The published record: share offset, bytes, CRC. -/
  ansRec : Option (Nat × Nat × Nat) := none
  /-- Progress numbers of the command's own chapter. -/
  work : List Nat := []
  /-- Partial results by part number. -/
  parts : List (Nat × Bytes) := []
  /-- Its queue pair is gone, and it cannot be stopped: it ends without a completion (11 R440, R483). -/
  silent : Bool := false
deriving DecidableEq, Repr

/-- The host link (11). -/
structure HostL where
  winSize : Nat := 1
  winNext : BitVec 3 := 1
  /-- Window shares in units of 256 MiB; LD 0 holds the whole window in the factory state (R431). -/
  shares : List Nat := [256, 0, 0, 0, 0, 0, 0, 0, 0, 0, 0, 0, 0, 0, 0, 0]
  /-- Share bytes, keyed partition × 2³⁸ + offset. -/
  share : Mem := []
  /-- Lines of shares whose two copies are uncorrectable, by line number of the same keys (R435). -/
  lost : List Nat := []
  /-- Byte ranges of answer areas whose contents are undefined (R463, R465): key of the first byte, length. -/
  undef : List (Nat × Nat) := []
  /-- Queue pairs, keyed partition × 64 + number. -/
  qps : List (Nat × Qp) := []
  cmds : List Cmd := []
  /-- Completion entries written to host memory, keyed partition × 2⁶⁴ + host bus address (R453). -/
  hostMem : List (Nat × Bytes) := []
  /-- MSI-X messages sent, counted by partition × 65 + vector. -/
  msix : NMap Nat := []
  /-- Time of the last message of a vector, plus 1; and the vectors whose message waits its 2 µs (R455, 17 R678). -/
  msixLast : NMap Nat := []
  msixDue : List Nat := []
  /-- Vectors masked in a logical device's MSI-X table, and its pending-bit array (R428, log 70). -/
  msixMask : List Nat := []
  msixPend : List Nat := []
  admissions : Nat := 0
  /-- Answers published since power-on by each partition (Table 11.11). -/
  ansSeq : NMap Nat := []
  qp0Desc : NMap (BitVec 32) := []
  qp0Err : BitVec 16 := 0
  rate : BitVec 2 := 0
  width : BitVec 5 := 0
  energy : BitVec 8 := 0
  minEnergy : BitVec 8 := 0x3C
  wt : Bool := true
  power : Nat := 0
  /-- State being entered and the PWR_SET that entered it. -/
  entering : Option (Nat × CmdRef) := none
  /-- Entry has lasted past the limit: SQ_TAIL writes are held (R481). -/
  tailHeld : Bool := false
  owner : BitVec 4 := 0
  entryLimit : BitVec 16 := 0x03E8
  winLost : BitVec 16 := 0
  winFixed : BitVec 16 := 0
  /-- What the last read command, answer or message gave its sender. -/
  reply : Bytes := []
  /-- The last management message was refused (R430, R431, 16 R663). -/
  refused : Bool := false
deriving DecidableEq, Repr

/-- A variable Field Book record (16 Table 16.1); its bytes and CRC are formed when it is read. -/
structure FbRec where
  code : Nat
  loss : Bool
  toff : Nat
  payload : Bytes
deriving DecidableEq, Repr

/-- A fixed Field Book record (16 Table 16.2). -/
structure FxRec where
  code : Nat
  pinned : Bool
  loss : Bool
  seq : Nat
  time : Nat
  p : List Nat
deriving DecidableEq, Repr

/-- The Field Book (16). -/
structure FieldBook where
  ready : Bool := false
  /-- Records of the rolling area by sequence number. -/
  recs : List (Nat × FbRec) := []
  next : Nat := 0
  /-- Numbers below this are reserved in the journal (R645). -/
  reserved : Nat := 0
  oldest : Nat := 0
  /-- Records at or above this number are not yet programmed (R648). -/
  programmed : Nat := 0
  base : Nat := 0
  /-- Epoch record numbers with their BASE and power-on count. -/
  epochs : List (Nat × Nat × Nat) := []
  startup : List FxRec := []
  startSeq : Nat := 0
  /-- Its first-records part, with the sequence numbers (R651). -/
  first : List (Nat × FbRec) := []
  pinned : List FxRec := []
  ledger : List Bytes := []
  dropProg : BitVec 16 := 0
  dropStart : BitVec 16 := 0
  /-- Drops not yet reported by a records-lost record, by reason (R650). -/
  lost : NMap Nat := []
  lossDue : Bool := false
  /-- Program events of the running second: core, second, count (R657). -/
  progSec : NMap Nat := []
  progCnt : NMap Nat := []
  /-- Time of the last host time mark of a partition, plus 1 (R661). -/
  mark : NMap Nat := []
  exported : List Nat := []
  exportLost : BitVec 32 := 0
  backlogAt : Option Nat := none
  grant : BitVec 16 := 1
  rate : BitVec 16 := 0x40
  exportPart : BitVec 4 := 0
  /-- Records were lost at the last power loss (R649). -/
  powerLost : Bool := false
deriving DecidableEq, Repr

end Sys2Proof.Machine
end

