-- ==== Sys2Proof/Machine/DevState.lean ====
section
/-! DEFINITION. The state of the device services: Graticule, the Gazetteer, page request rings and filters (05, 06, 12). -/

namespace Sys2Proof.Machine

/-! ### Graticule (12) -/

/-- A namespace, keyed partition × 2²⁰ + number; numbers from 0x8000 are the internal ones (R490, R491). -/
structure Ns where
  ro : Bool := false
  /-- Capacity in mapping units; of an internal namespace, its reservation. -/
  cap : Nat := 0
deriving DecidableEq, Repr

/-- A map entry of a mapped unit: a write-buffer slot, or a physical page address (R495). -/
structure MapEnt where
  buf : Bool
  addr : Nat
deriving DecidableEq, Repr

/-- An occupied slot of the write buffer (R499). -/
structure Slot where
  ns : Nat
  unit : Nat
  data : Mem
  /-- Channel and chip enable of a directed page (R508). -/
  dir : Option (Nat × Nat) := none
  /-- Placement handle, 0 for none (R536). -/
  handle : Nat := 0
  /-- The embedding write whose pending data it holds (06 R261). -/
  pend : Option CmdRef := none
deriving DecidableEq, Repr

/-- A programmed page, keyed by physical page address (die × 12,500 + block) × 2,500 + page. -/
structure FPage where
  ns : Nat
  unit : Nat
  /-- The unit in plain; its cells hold it encrypted (15 R621). -/
  data : Mem
  dir : Option (Nat × Nat) := none
  /-- Which of its partition's media keys, counted from 0, it was encrypted under. -/
  key : Nat := 0
deriving DecidableEq, Repr

/-- Where a block stands. A block not listed is free, erased and never cycled. -/
inductive BlkPhase where
  | free
  | used
  /-- Queued for erase. -/
  | queued
  /-- It has an erase-begin record and no erase-done record (R519). -/
  | erasing
  | retired
deriving DecidableEq, Repr

/-- A block, keyed die × 12,500 + block. -/
structure FBlk where
  phase : BlkPhase := .free
  cycles : Nat := 0
  reads : Nat := 0
  /-- The journal sequence on which its erase waits. -/
  jneed : Nat := 0
deriving DecidableEq, Repr

inductive SbPhase where
  /-- Written to. -/
  | filling
  | closed
  | verified
deriving DecidableEq, Repr

/-- A superblock (R503 to R505, R524). `kind` is its write point: g for host data of die group g, 16 + g for relocated data, 32 + g for data
that wear levelling moves to worn blocks, 256 + h for placement handle h. -/
structure SuperBlk where
  kind : Nat
  group : Nat
  /-- The block on each position's die. -/
  blocks : List (Option Nat)
  /-- Position in program order of the next page: stripe × 32 + position. -/
  next : Nat := 0
  /-- Data pages programmed, fillers included. -/
  count : Nat := 0
  phase : SbPhase := .filling
  closedAt : Nat := 0
  /-- Companion blocks. -/
  comps : List Nat := []
  /-- Local time pair, NAND temperature, clocks of its packages and carried heat age at its first program. -/
  poc : Nat := 0
  time : Nat := 0
  temp : Nat := 0
  clocks : List Nat := []
  carried : Nat := 0
deriving DecidableEq, Repr

/-- A command whose completion waits for slots to be programmed, or for a journal page (R470, R472, R497). -/
structure Await where
  ref : CmdRef
  slots : List Nat
  jneed : Nat
  result : Bytes
  body : Option Bytes
  /-- Of an AT_SYNC: table, version and frozen ranges that a power loss gives back once it has completed (07 R281, 08 R341). -/
  sync : Option (Nat × Nat × List (Nat × Nat)) := none
deriving DecidableEq, Repr

/-- Graticule. -/
structure Grat where
  ns : List (Nat × Ns) := []
  /-- Keyed namespace × 2⁴⁸ + unit. -/
  map : List (Nat × MapEnt) := []
  /-- The map as flash alone would give it at a mount without a hold-up dump (R497). -/
  dmap : List (Nat × MapEnt) := []
  dns : List (Nat × Ns) := []
  slots : List (Nat × Slot) := []
  pages : List (Nat × FPage) := []
  blks : NMap FBlk := []
  sbs : List (Nat × SuperBlk) := []
  /-- Units that a read found undecodable, keyed as the map (R511). -/
  unread : List Nat := []
  /-- Commits so far, and commits that are on flash (R496, R497). -/
  jseq : Nat := 0
  jdur : Nat := 0
  awaits : List Await := []
  /-- Pieces of the checkpoint written; bytes of journal programmed, and how many had been at the first piece of the last complete pass and of the one
  under way (R498). -/
  ckpt : Nat := 0
  jlog : Nat := 0
  passAt : Nat := 0
  passNow : Nat := 0
  /-- Placement handles: number, with the key of its namespace. -/
  handles : List (Nat × Nat) := []
  /-- The hold-up reserve of each die, as block numbers, where it is not blocks 8 and 9 (R502, log 49). -/
  reserve : List (Nat × List Nat) := []
  /-- The open block of the SLC cache and its next page. -/
  slcAt : Option (Nat × Nat) := none
  /-- The open block of each die that directed pages in the cache go to, and its next page, keyed by die (R508). -/
  slcDir : List (Nat × Nat × Nat) := []
  /-- Dies retired, and flash channels out of service. -/
  deadDies : List Nat := []
  deadChans : List Nat := []
  /-- Superblocks scheduled for relocation (R510). -/
  sched : List Nat := []
  closes : Nat := 0
  /-- Rotation of the die groups among writes that name none (log 20). -/
  rot : Nat := 0
  hostBytes : Nat := 0
  nandBytes : Nat := 0
  retried : Nat := 0
  uncorr : Nat := 0
  deep : Nat := 0
  recon : Nat := 0
  losses : Nat := 0
  /-- Minutes with the hottest NAND package in each bin of Table 12.5. -/
  minutes : NMap Nat := []
  /-- The same counts as last written to the stored module state (14 R579). -/
  minutesSaved : NMap Nat := []
  throttle : Bool := false
  ronly : Bool := false
  levelling : Bool := false
  spreadSeen : Bool := false
  spread5 : Bool := false
  /-- Heat-age clock of each package, in equivalent seconds × 2³² (R523). -/
  clock : NMap Nat := []
  /-- Clock of each package when its newest datum set was written, and at power-off (R527). -/
  datum : NMap Nat := []
  offClock : NMap Nat := []
  /-- Host time markers: last before power-off, first after power-on, and last, in ns, plus 1 (R528). -/
  markBefore : Nat := 0
  markAfter : Nat := 0
  markLast : Nat := 0
  gc : BitVec 16 := 0x0A1E
  slcHi : BitVec 8 := 0x32
  refresh : BitVec 4 := 0xA
  offTemp : BitVec 8 := 0x28
  readLimit : BitVec 16 := 0x00C8
  wlSpread : BitVec 16 := 0x00C8
  mountMs : BitVec 16 := 0
  mountErases : BitVec 16 := 0
  /-- A hold-up dump waits to be read back (R529). -/
  dump : Bool := false
  /-- Bytes of the buffer that the last completed flush carried. -/
  dumpBytes : Nat := 0
deriving DecidableEq, Repr

/-! ### The Gazetteer (05) -/

/-- An entry of a list: its code, its ID, the epoch of its insert, and the epoch of its removal; `tomb` once that is a tombstone bit (R224). -/
structure GzEnt where
  code : Bytes
  id : Nat
  ep : Nat
  del : Option Nat := none
  tomb : Bool := false
deriving DecidableEq, Repr

/-- A list version: switch epoch, entries in position order, how many stand in base pages, and the units of its pages in order (R195, R225). -/
structure ListVer where
  w : Nat := 0
  ents : List GzEnt := []
  nbase : Nat := 0
  pages : List Nat := []
deriving DecidableEq, Repr

/-- An index (R202). -/
structure Index where
  /-- Code bytes, B / 8. -/
  nb : Nat
  cents : Nat
  search : List Nat
  merge : Nat
  passQ : Nat
  table : Nat
  rrEn : Bool
  metric : Bool
  cacheMb : Nat
  spill : Bool
  epoch : Nat := 0
  /-- Codes set: epoch, centroid, code; in commit order (R219). -/
  codes : List (Nat × Nat × Bytes) := []
  /-- Versions of each list that has held an entry, oldest first. -/
  lists : List (Nat × List ListVer) := []
  /-- Compactions under way: list and snapshot C (R225). -/
  builds : List (Nat × Nat) := []
  /-- Next unit of the internal namespace, and units given back. -/
  nextUnit : Nat := 0
  spare : List Nat := []
  /-- List versions in the hot-list cache: list, switch epoch (R217). -/
  cached : List (Nat × Nat) := []
  probes : NMap Nat := []
  ctx : Option Nat := none
deriving DecidableEq, Repr

/-- The Gazetteer and the registers of the GZT page (05, 06). -/
structure Gaz where
  /-- Keyed partition × 65,536 + number. -/
  ixs : List (Nat × Index) := []
  dixs : List (Nat × Index) := []
  passQ : BitVec 7 := 0x10
  tailPct : BitVec 8 := 0x19
  tombPct : BitVec 8 := 0x14
  auto : Bool := true
  commits : BitVec 64 := 0
  queries : BitVec 64 := 0
  skips : BitVec 32 := 0
  fails : BitVec 32 := 0
  embedFail : BitVec 32 := 0
  embedCnt : BitVec 64 := 0
deriving DecidableEq, Repr

/-! ### Page rings and filters (05 R210 to R212, 06) -/

/-- A page read in flight: ring core, request number, the four 64-bit words of its slot, and the physical page it was translated to. -/
structure RingReq where
  core : Nat
  m : Nat
  words : List Nat
  /-- STATUS where the request reads no page; otherwise 0. -/
  status : Nat
  key : Nat
  page : Option Nat
deriving DecidableEq, Repr

/-- A filter invocation on a core (06 R240 to R242). -/
structure Invocation where
  ref : CmdRef
  page : Nat
  /-- s7 and OUT at entry, and the step count at entry. -/
  room : Nat
  out : Nat
  steps : Nat
  /-- The framework's return PC in s31, which the spec leaves open. -/
  ret : Nat
  /-- Its program wrote where R243 forbids it. -/
  stray : Bool := false
deriving DecidableEq, Repr

/-- A filter image (06 R237). -/
structure FlImage where
  insts : NMap (BitVec 64)
  count : Nat
  consts : Bytes
deriving DecidableEq, Repr

/-- What an invocation of an FL_RUN gave: matches and their bytes; none where its page was skipped. -/
structure FlPart where
  page : Nat
  out : Option (Nat × Bytes)
deriving DecidableEq, Repr

/-- An FL_RUN that runs. -/
structure FlRun where
  ref : CmdRef
  parts : List FlPart := []
  pagesRead : Nat := 0
  /-- Some invocation wrote where R243 forbids it. -/
  stray : Bool := false
  /-- Pages whose invocation is to run again, with the core that failed (R253). -/
  again : List (Nat × Nat) := []
deriving DecidableEq, Repr

/-- The FCH pages and the service framework of the flash-side cores. -/
structure Fch where
  /-- FCH_REQ_RINGj, keyed core number − 640. -/
  ring : NMap (BitVec 32) := []
  /-- Rings that PROD overran (R212). -/
  stopped : List Nat := []
  /-- Next request number each ring issues. -/
  next : NMap Nat := []
  reqs : List RingReq := []
  /-- FCH_SVC_CTL, FCH_FLT_LIMIT, FCH_FLT_FAULT_CNT of each channel die; FCH_SVC_WEIGHTp keyed die × 16 + p. -/
  svcCtl : NMap (BitVec 16) := []
  limit : NMap (BitVec 20) := []
  faults : NMap (BitVec 32) := []
  weight : NMap (BitVec 8) := []
  images : List (Nat × FlImage) := []
  runs : List FlRun := []
  invs : List (Nat × Invocation) := []
  /-- Partition a core last served, plus 1 (R244). -/
  served : NMap Nat := []
  /-- What the weighted round robin owes, keyed core × 16 + partition; and quanta served to partitions and to the module queue (R256, R258). -/
  credit : NMap Int := []
  quanta : NMap Nat := []
  modQuanta : NMap Nat := []
  /-- Rotation of the commands of a partition on a core: the admission number of the one served last (R257). -/
  lastCmd : NMap Nat := []
deriving DecidableEq, Repr

end Sys2Proof.Machine
end

