-- ==== Sys2Proof/Machine/FwState.lean ====
section
/-! DEFINITION. The state of the boot flash, the firmware images, the security engine and its sessions, and of the settings that persist
(15; 17 R683). -/

namespace Sys2Proof.Machine

/-- A boot flash operation that runs: an erase of a sector, or a program of a word (15 R627). -/
structure BflOp where
  erase : Bool
  sector : Nat
  word : Nat := 0
  value : BitVec 64 := 0
deriving DecidableEq, Repr

/-- How far the unlock sequence has come (15 R625). -/
inductive BflSeq where
  | idle
  /-- The first key, at a moment in ns. -/
  | key1 (at' : Nat)
  /-- Both keys. -/
  | unlocked (at' : Nat)
  /-- The command code; whether BFL_ADDR and BFL_DATA_LO have been written since. -/
  | command (at' : Nat) (code : Nat) (addr lo : Bool)
deriving DecidableEq, Repr

/-- The boot flash and the BFL page (15 R624 to R631). -/
structure Bfl where
  /-- Words that differ from the manufacturer's, by word number; image bytes that fall on the marker word of sector k stand at 2²² + k. -/
  words : List (Nat × BitVec 64) := []
  /-- Programs of a word of a counter sector since its last erase. -/
  progs : NMap Nat := []
  /-- Sectors that hold bytes the spec does not lay out, or that an erase left unfinished (log 42). -/
  unknown : List Nat := []
  seq : BflSeq := .idle
  word : BitVec 22 := 0
  data : BitVec 64 := 0
  seqErr : Bool := false
  opErr : Bool := false
  op : Option BflOp := none
  /-- A suspended erase. -/
  held : Option BflOp := none
  sector : BitVec 9 := 0
  rdata : BitVec 64 := 0
deriving DecidableEq, Repr

/-- What the module knows of the image that runs (15 Table 15.4). -/
structure Image where
  slot : Nat
  version : Nat
  svn : Nat
  /-- Protocol versions N and N − 1 spoken. -/
  n : Nat
  old : Nat
  /-- On-flash format written, and the oldest read. -/
  fmt : Nat
  oldest : Nat
  digest : Bytes
deriving DecidableEq, Repr

/-- Firmware and its update (15 R632 to R641). -/
structure Fw where
  run : Option Image := none
  confirmed : Bool := false
  /-- STAGE and REASON of SEC_FW. -/
  stage : Nat := 0
  reason : Nat := 0
  /-- Bytes staged so far, and whether they come over PLDM. -/
  staged : Nat := 0
  pldm : Bool := false
  /-- The format that is on flash (15 R641). -/
  fmt : Nat := 0
  /-- The rollback floor: blown fuse bits (15 R633, log 43). -/
  floor : Nat := 0
  /-- HSS index of the alias certificate's companion of each slot, plus 1. -/
  aliasIdx : NMap Nat := []
deriving DecidableEq, Repr

/-- A secured session of a connection (15 R609, R612): its export master secret, whether it has the owner role, and its key updates. -/
structure Session where
  conn : Conn
  secret : Bytes
  owner : Bool
  updates : Nat := 0
deriving DecidableEq, Repr

/-- Errors of the SPDM responder, and the vendor status of 16 R664. -/
inductive SpdmErr where
  | invalidRequest | unexpectedRequest | unspecified | ledgerFull
deriving DecidableEq, Repr

inductive SpdmBody where
  | data (b : Bytes)
  | error (e : SpdmErr)
deriving DecidableEq, Repr

/-- A signed response that waits for a bottom-level tree: connection, response without its signatures, and the hash to sign (15 R618). -/
structure SigWait where
  conn : Conn
  body : Bytes
  hash : Bytes
deriving DecidableEq, Repr

/-- A clear-nonce: session's connection, nonce, when it was given, and whether it has served (16 R663). -/
structure Nonce where
  conn : Conn
  nonce : Bytes
  time : Nat
  used : Bool := false
deriving DecidableEq, Repr

/-- An accepted clear that waits for FB_READs (16 R665). -/
structure Clearing where
  conn : Conn
  upto : Nat
  owner : Bytes
  /-- Commands admitted up to this number are waited for. -/
  adm : Nat
deriving DecidableEq, Repr

/-- An IDE stream: its two key sets, and the active one (15 R619). -/
structure IdeStream where
  key0 : Option Bytes := none
  key1 : Option Bytes := none
  active : Option Bool := none
deriving DecidableEq, Repr

/-- The security engine, its SPDM responder and the SEC page (15). -/
structure Sec where
  udsLock : Bool := false
  keys : Bool := false
  /-- The owner's public key, kept in the identity area (15 R612). -/
  owner : Option Bytes := none
  /-- LMS reservations used, and the next index (15 R613 to R615). -/
  lmsUsed : Nat := 0
  lmsNext : Nat := 0
  lmsOut : Bool := false
  /-- The bottom-level tree that can sign, and the next one built, by number plus 1; 0 for none (15 R618). -/
  tree : Nat := 0
  nextTree : Nat := 0
  sigCnt : BitVec 32 := 0
  ideErr : BitVec 32 := 0
  ioIde : IdeStream := {}
  memIde : IdeStream := {}
  /-- Connections that have negotiated algorithms. -/
  agreed : List Conn := []
  sess : List Session := []
  /-- HSS signatures of signed responses: connection, number of the response in it, signature (15 R610). -/
  sigs : List (Conn × Nat × Bytes) := []
  waiting : List SigWait := []
  nonces : List Nonce := []
  clears : List Clearing := []
  /-- What the responder sent last. -/
  reply : Option (Conn × SpdmBody) := none
  /-- Media keys made for each partition (15 R622, R623). -/
  mediaKey : NMap Nat := []
deriving DecidableEq, Repr

/-- Settings kept in the stored module state (17 R683), with the values of the factory state: MODE of each page, thresholds, weights, the
window size, the shares, the partition map. -/
structure Stored where
  modes : NMap (BitVec 2) := []
  tailPct : BitVec 8 := 0x19
  tombPct : BitVec 8 := 0x14
  gc : BitVec 16 := 0x0A1E
  slcHi : BitVec 8 := 0x32
  refresh : BitVec 4 := 0xA
  readLimit : BitVec 16 := 0x00C8
  wlSpread : BitVec 16 := 0x00C8
  ceLimit : BitVec 16 := 0x0804
  minEnergy : BitVec 8 := 0x3C
  jthr : BitVec 8 := 0x64
  dthr : BitVec 8 := 0x5F
  nthr : BitVec 8 := 0x50
  weight : NMap (BitVec 8) := []
  map : NMap Nat := []
  winNext : BitVec 3 := 1
  shares : List Nat := [256, 0, 0, 0, 0, 0, 0, 0, 0, 0, 0, 0, 0, 0, 0, 0]
deriving DecidableEq, Repr

end Sys2Proof.Machine
end

