-- ==== Sys2Proof/Machine/SvcState.lean ====
section
/-! DEFINITION. The state of the device services that keep their data in the DRAM pool: Atlas tables and their updates, the resident model
and its tiers (07, 08, 09). -/

namespace Sys2Proof.Machine

/-! ### Atlas (07) -/

/-- One copy of a row: channel of the placement set, slot, and the sequence numbers from which and up to which it is in effect (R308). -/
structure Copy where
  chan : Nat
  slot : Nat
  on : Option Nat
  off : Option Nat := none
deriving DecidableEq, Repr

/-- A forwarding entry: a row and its copies, the source first (R308). -/
structure Fwd where
  row : Nat
  copies : List Copy
deriving DecidableEq, Repr

/-- A version of a table (R302, R306, R307). Its rows stand in DRAM. -/
structure AtVer where
  no : Nat
  /-- Rows of its flash copy that were never written are missing. -/
  born : Bool := false
  fwd : List Fwd := []
  /-- Of a flash-backed table: the row in each way, plus 1, keyed channel × 2³² + slot; when it was last used; rows that are dirty (R278). -/
  ways : NMap Nat := []
  used : NMap Nat := []
  dirty : List Nat := []
  /-- Pages of its flash copy that have been written, by page number of the copy (R280). -/
  flashed : List Nat := []
  /-- Which of the ranges of the namespace holds its flash copy (log 25). -/
  area : Nat := 0
deriving DecidableEq, Repr

/-- A move or an added replica under way: row, whether it moves, target channel and copy slot, copies made, and the record of the AT_MIGRATE
that asked for it (R309 to R312). -/
structure Move where
  row : Nat
  moves : Bool
  chan : Nat
  slot : Nat
  tries : Nat := 0
  cmd : Option CmdRef := none
  idx : Nat := 0
deriving DecidableEq, Repr

/-- An optimiser descriptor (08 Table 8.2); FP32 patterns. -/
structure OptDesc where
  opt : Nat := 0
  bf : Bool := false
  lr : Nat := 0
  b1 : Nat := 0
  b2 : Nat := 0
  eps : Nat := 0
  wd : Nat := 0
  a0 : Nat := 0
deriving DecidableEq, Repr

/-- A table (Table 7.3). -/
structure Table where
  fmt : Nat
  backed : Bool
  init : Bool
  /-- SCALE of the rows of a new version, which the spec does not state for INT8 (log 23). -/
  scale0 : Nat
  d : Nat
  rows : Nat
  /-- The cores of the placement set, in order; also their channels. -/
  place : List Nat
  resMb : Nat
  seed : Nat
  ns : Nat
  seq : Nat := 0
  cur : Nat := 1
  building : Option Nat := none
  sealed : Bool := false
  vers : List AtVer := []
  opt : OptDesc := {}
  /-- UP_SETOPTs so far: state that went to flash under an earlier one is void (08 R321). -/
  optGen : Nat := 0
  /-- Frozen rows, as disjoint ranges (first, past the last) in rising order (08 R340). -/
  frozen : List (Nat × Nat) := []
  moves : List Move := []
  /-- Rows whose flash read is awaited: version, row, and whether only for prefetch (R279, R298). -/
  misses : List (Nat × Nat × Bool) := []
  clock : Nat := 0
  /-- Occurrences by row and by channel, and indices routed, in the running period (R309); occurrences by row in all. -/
  occ : NMap Nat := []
  chanOcc : NMap Nat := []
  routed : Nat := 0
  total : NMap Nat := []
  /-- What the last completed AT_SYNC keeps: version and frozen rows (R281, 08 R341). -/
  syncVer : Nat := 1
  syncFrozen : List (Nat × Nat) := []
  /-- The version of the last completed AT_SYNC, where it has since been freed. -/
  syncOld : Option AtVer := none
  /-- Counters that AT_STAT answers with: indices routed, indices dropped, rows read from flash, rows lost (R271). -/
  idxs : Nat := 0
  drops : Nat := 0
  fills : Nat := 0
  lost : Nat := 0
deriving DecidableEq, Repr

/-- A row of a table as it stood before a clipped step's pass 2, which gathers read until the UP_END completes (08 R338). -/
structure Shadow where
  endRef : CmdRef
  tab : Nat
  ver : Nat
  row : Nat
  bytes : Bytes
deriving DecidableEq, Repr

/-- Atlas and the ATL pages. -/
structure AtlasS where
  /-- Keyed partition × 256 + table. -/
  tabs : List (Nat × Table) := []
  shadows : List Shadow := []
  /-- Rows captured by gathers that wait for flash: command, index position, slot bytes; none where the row is unreadable. -/
  taken : List (CmdRef × Nat × Option Bytes) := []
  rate : BitVec 16 := 0x0040
  maxRepl : BitVec 4 := 0x7
  tries : BitVec 4 := 0x4
  idxCnt : BitVec 64 := 0
  dropCnt : BitVec 32 := 0
  missCnt : BitVec 32 := 0
  lostCnt : BitVec 32 := 0
deriving DecidableEq, Repr

/-! ### Updates (08) -/

/-- A staged gradient record: the admission number of its UP_GRAD, its bytes, the FP64 squares of its gradient and of its candidate update (R333 to R335). -/
structure Staged where
  adm : Nat
  bytes : Bytes
  sq : List Nat
  upd : List Nat
deriving DecidableEq, Repr

/-- An open update step (R326 to R328). -/
structure UpStep where
  part : Nat
  clip : Bool
  bf : Bool
  clipNorm : Nat
  lr : Nat
  t : Nat
  /-- Tables and the versions they are bound to. -/
  tabs : List (Nat × Nat)
  stageMb : Nat
  staged : List Staged := []
  /-- FP64 squares of the gradients applied in a step without clipping. -/
  sq : List Nat := []
  applied : Nat := 0
  dropped : Nat := 0
  frozen : Nat := 0
  missing : Nat := 0
  nonfinite : Nat := 0
  /-- The UP_END whose pass 2 runs. -/
  ending : Option CmdRef := none
deriving DecidableEq, Repr

/-- The update units and the UPD page. -/
structure UpdS where
  /-- Open steps by handle. -/
  steps : List (Nat × UpStep) := []
  stepCnt : BitVec 32 := 0
  recCnt : BitVec 64 := 0
  frozenCnt : BitVec 32 := 0
  dropCnt : BitVec 32 := 0
  inSvc : BitVec 8 := 0xFF
deriving DecidableEq, Repr

/-! ### The resident model (09) -/

/-- An entry descriptor (Table 9.2). -/
structure MdEntry where
  no : Nat
  kind : Nat
  outBf : Bool
  prog : Nat
  sheet : Nat
  clus : List Nat
  maxIn : Nat
  d : Nat
  maxSeq : Nat
  thresh : Nat
  stepArea : Nat
  kvt : Nat
  stepTk : Nat
  ctx : Option Nat := none
deriving DecidableEq, Repr

/-- A run: first tile, tiles, channel, bytes in DRAM, whether it is pinned for good, highest leg that names it (R363, R368). -/
structure Run where
  first : Nat
  count : Nat
  chan : Nat
  bytes : Nat
  pinned : Bool
  leg : Nat
deriving DecidableEq, Repr

/-- A route entry (Table 9.7): its run by number, class, ready token, address slot and leg. -/
structure RouteEnt where
  run : Nat
  cls : Nat
  tk : Nat
  slot : Nat
  leg : Nat
deriving DecidableEq, Repr

structure Sheet where
  legs : Nat
  ents : List RouteEnt
deriving DecidableEq, Repr

/-- A leg fetched for a traversal: its posts still due by index in the sheet, and the cores that have not released it (R371, R372). -/
structure LegFetch where
  leg : Nat
  due : List Nat
  holders : List Nat
deriving DecidableEq, Repr

/-- A traversal of an entry (R370 to R372). -/
structure Trav where
  begun : Bool := false
  legs : List LegFetch := []
deriving DecidableEq, Repr

/-- A sequence in a batch slot (R374 to R377). -/
structure SeqSt where
  id : Nat
  ref : CmdRef
  entry : Nat
  slot : Nat
  prompt : List Nat
  maxNew : Nat
  stop : List Nat
  retain : Bool
  topk : Nat
  temp : Nat
  seed : Nat
  /-- Tokens whose KV is made. -/
  filled : Nat
  gen : List Nat := []
  handle : Nat := 0
  reused : Nat := 0
  rebuilt : Nat := 0
  steps : Nat := 0
  order : Nat
  /-- Stopped by an abort: it leaves at the next step boundary (R382). -/
  stopped : Bool := false
  /-- A line of its KV is lost: it waits for the rebuild (R384). -/
  lost : Bool := false
deriving DecidableEq, Repr

/-- Retained KV (R381). -/
structure Kept where
  handle : Nat
  part : Nat
  toks : List Nat
  seq : Nat
  time : Nat
  user : Option CmdRef := none
  /-- MD_DROPKV asked for it while a sequence used it. -/
  drop : Bool := false
deriving DecidableEq, Repr

/-- An item of an MD_ENCODE, of an MD_RANK or of an embedding write (R378, R380). -/
structure Item where
  ref : CmdRef
  idx : Nat
  part : Nat
  entry : Nat
  data : Bytes
  order : Nat
  /-- Its result, once its step has ended. -/
  out : Option Bytes := none
deriving DecidableEq, Repr

/-- A slot record of a step: sequence or item, KIND, tokens (R376, Table 9.9). -/
structure StepSlot where
  seq : Nat
  item : Option (CmdRef × Nat)
  kind : Nat
  pos : Nat
  toks : List Nat
deriving DecidableEq, Repr

/-- A step that runs. -/
structure StepRun where
  slots : List StepSlot
  result : Nat
  stride : Nat
deriving DecidableEq, Repr

structure MdGrant where
  part : Nat
  mask : Nat
  weight : Nat
deriving DecidableEq, Repr

/-- The model and the TIR page. -/
structure ModelS where
  /-- STATE of TIR_MODEL_STS: 0 none, 1 loading, 2 ready, 4 unloading. -/
  st : Nat := 0
  degraded : Bool := false
  part : Nat := 0
  ns : Nat := 0
  page : Nat := 0
  kvMb : Nat := 0
  chunk : Nat := 0
  budget : Nat := 0
  kvToken : Nat := 0
  /-- First page of the tile section, counted from the package's page, and its pages. -/
  tilePage : Nat := 0
  tilePages : Nat := 0
  entries : List MdEntry := []
  sheets : List Sheet := []
  runs : List Run := []
  consts : Bytes := []
  progs : Bytes := []
  /-- Clusters the package needs; and that too few of them are left (13 R574). -/
  nclu : Nat := 0
  dead : Bool := false
  /-- KV entries: channel, and bytes per token (R375). -/
  kvl : List (Nat × Nat) := []
  grants : List MdGrant := []
  seqs : List SeqSt := []
  kept : List Kept := []
  items : List Item := []
  steps : List (Nat × StepRun) := []
  travs : List (Nat × Trav) := []
  stepNo : NMap Nat := []
  nextSeq : Nat := 1
  nextHandle : Nat := 1
  nextOrder : Nat := 1
  /-- Entries by their last step, the latest first (R380); entries whose context holds no KV table yet; slots that each partition has taken in
  the running round, keyed entry × 16 + partition (R374). -/
  stepped : List Nat := []
  fresh : List Nat := []
  taken : NMap Nat := []
  lead : BitVec 4 := 4
  chunkReg : BitVec 14 := 0x0200
  budgetReg : BitVec 16 := 0x0800
  fetchCnt : BitVec 64 := 0
  waitCnt : BitVec 32 := 0
  rebuildCnt : BitVec 32 := 0
deriving DecidableEq, Repr

end Sys2Proof.Machine
end

