-- ==== Sys2Proof/Machine/SvyState.lean ====
section
/-! DEFINITION. The state of the Surveyor, of power, heat and freeze, of the test port and the sideband (14). -/

namespace Sys2Proof.Machine

/-- The SVY page and the firmware's own marks (14 R575 to R579, R583, R601). -/
structure Svy where
  run : Bool := false
  restart : Bool := false
  /-- Cause of the restart in progress: true for the watchdog. -/
  byWatchdog : Bool := false
  mismatch : BitVec 8 := 0
  wdt : BitVec 8 := 0
  alertClass : BitVec 16 := 0
  /-- Event codes that wait to be read over the sideband. -/
  alerts : List Nat := []
  /-- Temperatures and peaks of sensors 0 to 91, in 0.25 °C. -/
  temp : NMap (BitVec 16) := []
  peak : NMap (BitVec 16) := []
  /-- Minutes in bin since manufacture, keyed class × 8 + bin: class 0 dies, 1 DRAM stacks, 2 NAND packages. -/
  bins : NMap (BitVec 64) := []
  /-- The same counters as last written to the stored module state, and when. -/
  binsSaved : NMap (BitVec 64) := []
  savedAt : Nat := 0
  /-- Minutes that wait for a restart of the firmware to end (R577). -/
  binWait : Nat := 0
  /-- Droop responses, and their total length in ns, since the last droop record; time of that record plus 1. -/
  droops : Nat := 0
  droopNs : Nat := 0
  droopRec : Nat := 0
deriving DecidableEq, Repr

/-- The PWR page (14 R580 to R590). -/
structure Pwr where
  capW : BitVec 11 := 0x3E8
  brkLimit : BitVec 11 := 0x1F4
  gap : BitVec 4 := 0x8
  asserted : Bool := false
  droop : Bool := false
  g : BitVec 5 := 0x10
  droopCnt : BitVec 32 := 0
  thermalCap : Nat := 1000
  throttling : Bool := false
  /-- Governor ticks since the thermal cap last rose (R590). -/
  riseTicks : Nat := 0
deriving DecidableEq, Repr

/-- The THM page (14 R590, R591). -/
structure Thm where
  jthr : BitVec 8 := 0x64
  dthr : BitVec 8 := 0x5F
  nthr : BitVec 8 := 0x50
  sel : BitVec 7 := 0
  bin : BitVec 3 := 0
  cls : Bool := false
  trips : BitVec 8 := 0
  /-- Class of the sensor that tripped: 0 die, 1 DRAM, 2 NAND. -/
  tripClass : Nat := 0
deriving DecidableEq, Repr

/-- The FRZ page (14 R593 to R597). -/
structure Frz where
  frozen : Bool := false
  pinEn : Bool := true
  evtEn : Bool := false
  dataEn : Bool := false
  trig : NMap (BitVec 32) := []
  cause : BitVec 2 := 0
  trigNo : BitVec 2 := 0
  data : Bool := false
  count : BitVec 8 := 0
deriving DecidableEq, Repr

/-- The test port (14 R595): instruction register, selected unit, the bits the data register shifted out last, and the boundary
cells, which are those of ALERT_N, FREEZE_N, PERST_N, PWRBRK_N, SCL and SDA in this order. -/
structure TestPort where
  ir : BitVec 8 := 0xFF
  sel : BitVec 16 := 0
  dr : List Bool := []
  cells : List Bool := []
  /-- EXTEST drives the pins from the cells. -/
  drive : Bool := false
deriving DecidableEq, Repr

/-- The sideband (14 R599 to R601). -/
structure Side where
  i3cAddr : Option (BitVec 7) := none
  eid : BitVec 8 := 0
  /-- In-band interrupts raised over I3C. -/
  ibi : Nat := 0
  /-- What the sideband answered last; none where it did not answer or refused. -/
  reply : Option Bytes := none
deriving DecidableEq, Repr

end Sys2Proof.Machine
end

