-- ==== Sys2Proof/Machine/State.lean ====
section
/-! DEFINITION. The state of the module, its faults and refusals, and its state at reset. -/

namespace Sys2Proof.Machine

/-- Reasons a step stops with a fault. -/
inductive Fault where
  /-- A command names a unit, partition, channel or object number outside the ranges the spec gives the module (01 R17 to R29, 10 R388).
  Raised by every command that names one. Safe: the module has no such unit, so the model stops where nothing could happen. -/
  | noSuchUnit
  /-- A host access reaches past the end of its logical device's share (11 R431, R432), where the HDM range has no address. Raised by SHARE_READ
  and SHARE_WRITE. Safe: the module has nothing there. -/
  | outsideShare
deriving DecidableEq, Repr

/-- Reasons a step refuses a command. -/
inductive Refusal where
  /-- No meaning has been written for the command. Raised by refused arms of Dispatch.lean only. Safe: nothing can be proved of the command. -/
  | notModelled (mnemonic : String)
deriving DecidableEq, Repr

/-- The state of the module (INVENTORY.md, "State"). -/
structure State where
  sys : Sys := {}
  /-- Page headers, keyed by BAR0 offset / 4,096; the NQP page of logical device p by 0x10000 + p. -/
  pages : NMap Page := []
  /-- HI latches, keyed by the BAR0 offset of the LO register (17 R670). -/
  latch : NMap (BitVec 32) := []
  cores : NMap Core := []
  clus : NMap Cluster := []
  dram : Dram := {}
  hbm : NMap Stack := []
  ecc : Ecc := {}
  sched : Sched := {}
  host : HostL := {}
  fbk : FieldBook := {}
  gr : Grat := {}
  gz : Gaz := {}
  fch : Fch := {}
  atl : AtlasS := {}
  upd : UpdS := {}
  mdl : ModelS := {}
  svy : Svy := {}
  pwr : Pwr := {}
  thm : Thm := {}
  frz : Frz := {}
  port : TestPort := {}
  side : Side := {}
  bfl : Bfl := {}
  fw : Fw := {}
  sec : Sec := {}
  stored : Stored := {}
  /-- Free values read so far (log 4): the model's own field. -/
  free : Nat := 0
  /-- The commands that wait, first in first out. -/
  pending : List Instr := []
deriving DecidableEq, Repr

/-- The module right after reset: every register at its reset value (17 R681), before the power-up sequence. -/
def State.reset : State := {}

end Sys2Proof.Machine
end

