-- ==== Sys2Proof/Machine/Ops.lean ====
section
/-! DEFINITION. Named operations over the state: units and their pages, free values, the Field Book, events and interrupt messages. -/

namespace Sys2Proof.Machine

/-- The outcome of a step of this machine. -/
abbrev Out := Host.Outcome State Fault Refusal

/-- Carry on only when a unit exists. -/
def guardUnit (ok : Bool) (o : Out) : Out := if ok then o else .fault .noSuchUnit

/-- Run a change of state, or leave the state as it is. -/
def whenS (b : Bool) (s t : State) : State := if b then t else s

/-! ### Accessors -/

def State.core (s : State) (c : Nat) : Core := mget {} s.cores c
def State.setCore (s : State) (c : Nat) (x : Core) : State := { s with cores := mset {} s.cores c x }
def State.modCore (s : State) (c : Nat) (f : Core → Core) : State := s.setCore c (f (s.core c))
def State.modArch (s : State) (c : Nat) (f : Arch → Arch) : State := s.modCore c fun x => { x with arch := f x.arch }
def State.clu (s : State) (k : Nat) : Cluster := mget {} s.clus k
def State.setClu (s : State) (k : Nat) (x : Cluster) : State := { s with clus := mset {} s.clus k x }
def State.modClu (s : State) (k : Nat) (f : Cluster → Cluster) : State := s.setClu k (f (s.clu k))
def State.page (s : State) (n : Nat) : Page := mget {} s.pages n
def State.modPage (s : State) (n : Nat) (f : Page → Page) : State := { s with pages := mset {} s.pages n (f (s.page n)) }
def State.stack (s : State) (n : Nat) : Stack := mget {} s.hbm n
def State.modStack (s : State) (n : Nat) (f : Stack → Stack) : State := { s with hbm := mset {} s.hbm n (f (s.stack n)) }
def State.modSys (s : State) (f : Sys → Sys) : State := { s with sys := f s.sys }
def State.modHost (s : State) (f : HostL → HostL) : State := { s with host := f s.host }
def State.modFbk (s : State) (f : FieldBook → FieldBook) : State := { s with fbk := f s.fbk }
def State.modSched (s : State) (f : Sched → Sched) : State := { s with sched := f s.sched }
def State.modDram (s : State) (f : Dram → Dram) : State := { s with dram := f s.dram }

/-- An entry of an association list. -/
def lget {α : Type} (l : List (Nat × α)) (k : Nat) : Option α := (l.find? (fun e => e.1 == k)).map (·.2)
/-- Set an entry of an association list, kept in rising order of keys. -/
def lset {α : Type} (l : List (Nat × α)) (k : Nat) (v : α) : List (Nat × α) := mins k v l
def ldel {α : Type} (l : List (Nat × α)) (k : Nat) : List (Nat × α) := l.filter (fun e => e.1 != k)
/-- Add a number to a set kept without repeats. -/
def setIns (l : List Nat) (k : Nat) : List Nat := if l.contains k then l else k :: l
def setDel (l : List Nat) (k : Nat) : List Nat := l.filter (· != k)

/-- The value of a `Nat` as a word of a given width. -/
def w8 (n : Nat) : BitVec 8 := BitVec.ofNat 8 n
def w16 (n : Nat) : BitVec 16 := BitVec.ofNat 16 n
def w32 (n : Nat) : BitVec 32 := BitVec.ofNat 32 n
def w64 (n : Nat) : BitVec 64 := BitVec.ofNat 64 n

/-- Add to a counter that saturates at all ones. -/
def satBv {n : Nat} (x : BitVec n) (k : Nat) : BitVec n := BitVec.ofNat n (min (2 ^ n - 1) (x.toNat + k))

/-- Read a free value: a value the spec leaves open, a new one at each reading (log 4). -/
def State.takeFree (s : State) : Nat × State := (Config.freeNat s.free, { s with free := s.free + 1 })

/-- Free bytes from one reading of the counter on. -/
def freeBytes (seed : Nat) : Nat → Bytes
  | 0 => []
  | n + 1 => w8 (Config.freeNat (seed + n)) :: freeBytes seed n

/-- `n` free bytes, and the state that has read them. -/
def State.takeBytes (s : State) (n : Nat) : Bytes × State := (freeBytes s.free n, { s with free := s.free + n })

/-! ### Units (01 R17 to R29) -/

/-- A stack-side core, on a stack die, or a flash-side core, on a channel die. -/
def stackSide (c : Nat) : Bool := c < 640
/-- The cluster of a core number (R19 to R21). -/
def clusterOf (c : Nat) : Nat := c / 8
def cluStack (k : Nat) : Bool := k < 80
/-- The die of a core number and of a cluster number (Table 1.1). -/
def dieOf (c : Nat) : Nat := if stackSide c then c / 32 else 20 + (c - 640) / 8
def dieOfClu (k : Nat) : Nat := if cluStack k then k / 4 else 20 + (k - 80)
/-- Bytes of a core scratchpad and of a cluster scratchpad (Table 1.2). -/
def spmSize (c : Nat) : Nat := if stackSide c then 0x200000 else 0x100000
def cspmSize (k : Nat) : Nat := if cluStack k then 0x800000 else 0x400000
/-- The bank of a scratchpad address (02 R83). -/
def spmBank (c a : Nat) : Nat := a / (spmSize c / 16)
def cspmBank (k a : Nat) : Nat := a / (cspmSize k / 16)
/-- The partition that owns a stack-side cluster (10 R389); none for a flash-side one (R392). -/
def State.ownerClu (s : State) (k : Nat) : Option Nat :=
  if k < 80 then (let p := mget 0 s.sched.map k; if p < 16 then some p else none) else none
def State.ownerCore (s : State) (c : Nat) : Option Nat := s.ownerClu (clusterOf c)
/-- The clusters of a partition, in order. -/
def State.clustersOf (s : State) (p : Nat) : List Nat := (List.range 80).filter fun k => s.ownerClu k == some p

/-! ### Pages (17 R666 to R676, R719) -/

/-- The blocks that have a page (Table 17.5). -/
inductive Blk where
  | core (c : Nat) | clu (k : Nat) | spm (c : Nat) | mxe (c : Nat) | vxe (c : Nat) | sle (c : Nat) | sleG | tme (c : Nat) | qnt (c : Nat)
  | gzt | atl (i : Nat) | upd | tir | sch | grt (i : Nat) | fch (k : Nat) | hbm (n : Nat) | ecc | rsy (n : Nat) | hst | nqp (p : Nat)
  | pwr | thm | frz | svy | bfl | sec | fbk | xbr (h : Nat)
deriving DecidableEq, Repr

/-- First page of the window of a die (01 R18). -/
def dieWin (d : Nat) : Nat := 0x1000 + d * 0x100

/-- The page of a per-core region: number of the region in the order CORE, MXE, VXE, SLE, TME, QNT, SPM (R673, R674). -/
def corePage (region c : Nat) : Nat :=
  if stackSide c then dieWin (c / 32) + region * 0x20 + c % 32 else dieWin (20 + (c - 640) / 8) + region * 8 + (c - 640) % 8

/-- The page number of a block: its BAR0 offset / 4,096; 0x10000 + p for the NQP instance of logical device p. -/
def pageNo (b : Blk) : Nat :=
  match b with
  | .core c => corePage 0 c
  | .mxe c => corePage 1 c
  | .vxe c => corePage 2 c
  | .sle c => corePage 3 c
  | .tme c => corePage 4 c
  | .qnt c => corePage 5 c
  | .spm c => corePage 6 c
  | .clu k => if cluStack k then dieWin (k / 4) + 0xE0 + k % 4 else dieWin (20 + (k - 80)) + 0x38
  | .rsy n => dieWin n + 0xE4
  | .hbm n => dieWin n + 0xE5
  | .fch k => dieWin (20 + k) + 0x39
  | .xbr h => dieWin (36 + h)
  | .upd => dieWin 38
  | .sch => dieWin 38 + 1
  | .hst => dieWin 38 + 2
  | .sec => dieWin 38 + 3
  | .pwr => dieWin 39
  | .thm => dieWin 39 + 1
  | .frz => dieWin 39 + 2
  | .svy => dieWin 39 + 3
  | .bfl => dieWin 39 + 4
  | .fbk => dieWin 39 + 5
  | .nqp p => 0x10000 + p
  | .sleG => 1
  | .gzt => 2
  | .atl i => 3 + i
  | .tir => 5
  | .ecc => 6
  | .grt i => 7 + i

/-- The per-core block of a region and a core. -/
def regionBlk (region c : Nat) : Option Blk :=
  match region with
  | 0 => some (.core c)
  | 1 => some (.mxe c)
  | 2 => some (.vxe c)
  | 3 => some (.sle c)
  | 4 => some (.tme c)
  | 5 => some (.qnt c)
  | 6 => some (.spm c)
  | _ => none

/-- The block of a page number, read by logical device `p`; none where no page lies (R668). -/
def blkOf (p : Option Nat) (n : Nat) : Option Blk :=
  if n < 0x1000 then
    match n with
    | 0 => p.map Blk.nqp
    | 1 => some .sleG
    | 2 => some .gzt
    | 3 => some (.atl 0)
    | 4 => some (.atl 1)
    | 5 => some .tir
    | 6 => some .ecc
    | 7 => some (.grt 0)
    | 8 => some (.grt 1)
    | _ => none
  else
    let d := (n - 0x1000) / 0x100
    let o := n % 0x100
    if d < 20 then
      if o < 0xE0 then regionBlk (o / 0x20) (d * 32 + o % 0x20)
      else if o < 0xE4 then some (.clu (d * 4 + (o - 0xE0)))
      else if o = 0xE4 then some (.rsy d) else if o = 0xE5 then some (.hbm d) else none
    else if d < 36 then
      if o < 0x38 then regionBlk (o / 8) (640 + (d - 20) * 8 + o % 8)
      else if o = 0x38 then some (.clu (80 + (d - 20))) else if o = 0x39 then some (.fch (d - 20)) else none
    else if d < 38 then (if o = 0 then some (.xbr (d - 36)) else none)
    else if d = 38 then
      match o with
      | 0 => some .upd
      | 1 => some .sch
      | 2 => some .hst
      | 3 => some .sec
      | _ => none
    else if d = 39 then
      match o with
      | 0 => some .pwr
      | 1 => some .thm
      | 2 => some .frz
      | 3 => some .svy
      | 4 => some .bfl
      | 5 => some .fbk
      | _ => none
    else none

/-- Type code and instance of a block (Table 17.5). -/
def blkId (b : Blk) : Nat × Nat :=
  match b with
  | .core c => (0x0001, c)
  | .clu k => (0x0002, k)
  | .spm c => (0x0003, c)
  | .mxe c => (0x0004, c)
  | .vxe c => (0x0005, c)
  | .sle c => (0x0006, c)
  | .sleG => (0x0006, 0xFFFF)
  | .tme c => (0x0007, c)
  | .qnt c => (0x0008, c)
  | .gzt => (0x0009, 0)
  | .atl i => (0x000A, i)
  | .upd => (0x000B, 0)
  | .tir => (0x000C, 0)
  | .sch => (0x000D, 0)
  | .grt i => (0x000E, i)
  | .fch k => (0x000F, 20 + k)
  | .hbm n => (0x0010, n)
  | .ecc => (0x0011, 0)
  | .rsy n => (0x0012, n)
  | .hst => (0x0013, 0)
  | .nqp p => (0x0014, p)
  | .pwr => (0x0015, 0)
  | .thm => (0x0016, 0)
  | .frz => (0x0017, 0)
  | .svy => (0x0018, 0)
  | .bfl => (0x0019, 0)
  | .sec => (0x001A, 0)
  | .fbk => (0x001B, 0)
  | .xbr h => (0x001C, 36 + h)

/-- The defined bits of EVT_STS (R678; 03 R157 for QNT). -/
def evtBits (b : Blk) : BitVec 32 :=
  match b with
  | .qnt _ => 7
  | _ => 1

/-- MODE_CAP.HA: the pages that select between two modes (Table 17.6). -/
def modeHa (b : Blk) : Bool :=
  match b with
  | .grt _ => true
  | .rsy _ => true
  | .qnt _ => true
  | .sleG => true
  | .gzt => true
  | .atl _ => true
  | .ecc => true
  | .fbk => true
  | _ => false

/-- Whether the page's function is in host-assisted mode. -/
def State.hostMode (s : State) (b : Blk) : Bool := (s.page (pageNo b)).mode == 1

/-- Whether logical device `p` may read the page: the pages of its own partition's cores and clusters (02, 03, 04), its own NQP instance
(R672), and every page that no core, cluster or other logical device has. -/
def State.mayRead (s : State) (p : Nat) (b : Blk) : Bool :=
  match b with
  | .core c => s.ownerCore c == some p
  | .mxe c => s.ownerCore c == some p
  | .vxe c => s.ownerCore c == some p
  | .sle c => s.ownerCore c == some p
  | .tme c => s.ownerCore c == some p
  | .qnt c => s.ownerCore c == some p
  | .spm c => s.ownerCore c == some p
  | .clu k => s.ownerClu k == some p
  | .nqp q => q == p
  | _ => true

/-! ### Interrupt messages (11 R455, 17 R678) -/

/-- Send a vector of a logical device: at once, or held while its last message is less than 2 µs old. A masked vector is left pending (11 R428, log 70). -/
def State.sendMsi (s : State) (p v : Nat) : State :=
  let k := p * 65 + v
  let h := s.host
  if ! s.sys.ready then s
  else if h.msixMask.contains k then s.modHost fun h => { h with msixPend := setIns h.msixPend k, msixDue := setDel h.msixDue k }
  else if mget 0 h.msixLast k = 0 || s.sys.now + 1 ≥ mget 0 h.msixLast k + 2 then
    s.modHost fun h => { h with msix := mmod 0 h.msix k (· + 1), msixLast := mset 0 h.msixLast k (s.sys.now + 1), msixDue := setDel h.msixDue k }
  else s.modHost fun h => { h with msixDue := setIns h.msixDue k }

/-- Send the messages whose 2 µs have passed. -/
def State.flushMsi (s : State) : State :=
  s.host.msixDue.foldl (fun t k => t.sendMsi (k / 65) (k % 65)) s

/-- Set an event bit of a page; a newly set, enabled bit sends vector 64 of every logical device that may read the page (R678). -/
def State.setEvt (s : State) (b : Blk) (bit : Nat) : State :=
  let g := s.page (pageNo b)
  let m : BitVec 32 := BitVec.ofNat 32 (2 ^ bit)
  if g.evtSts &&& m ≠ 0 then s else
    let t := s.modPage (pageNo b) fun g => { g with evtSts := g.evtSts ||| m }
    if g.evtOff &&& m ≠ 0 then t
    else ((List.range 16).filter fun p => s.mayRead p b).foldl (fun u p => u.sendMsi p 64) t

/-- Count an error of a block in its ERR_CNT. -/
def State.countErr (s : State) (b : Blk) : State := s.modPage (pageNo b) fun g => { g with errCnt := satBv g.errCnt 1 }

/-! ### The Field Book (16) -/

/-- The codes marked pinned in Table 16.4. -/
def fbPinned (code : Nat) : Bool :=
  [0x4005, 0x5003, 0x5004, 0x6003, 0x6005, 0x9003, 0xB002, 0xB005, 0xB006].contains code

/-- A payload of 32-bit words, padded with zeros to a multiple of 8 bytes (R655). -/
def words (ws : List Nat) : Bytes := padTo 8 (ws.flatMap (leBytes 4))

/-- The three parameters of a fixed record (R655). -/
def fxParams (payload : Bytes) : List Nat := [fld payload 0 4, fld payload 4 4, fld payload 8 4]

/-- The bytes of a fixed record (Table 16.2). -/
def FxRec.bytes (r : FxRec) : Bytes :=
  let b := leBytes 2 r.code ++ leBytes 2 (b2n r.pinned + 2 * b2n r.loss) ++ leBytes 4 r.seq ++ leBytes 8 r.time ++ r.p.flatMap (leBytes 4)
  b ++ leBytes 4 (crc32c b)

/-- The bytes of a variable record (Table 16.1); `cut` for a shortened permanent copy. -/
def FbRec.bytes (r : FbRec) (seq : Nat) (cut : Bool) : Bytes :=
  let len := 16 + r.payload.length
  let b := leBytes 1 (len / 8) ++ leBytes 1 (b2n cut + 2 * b2n r.loss) ++ leBytes 2 r.code ++ leBytes 4 seq ++ leBytes 4 r.toff ++ r.payload
  b ++ leBytes 4 (crc32c b)

/-- Records of the rolling area not yet exported (R662). -/
def FieldBook.backlog (f : FieldBook) : Nat := (f.recs.filter fun e => ! f.exported.contains e.1).length

/-- Append one variable record under the next number: the reservation of its block (R645), the record it overwrites (R648, R662), the
first-records copy (R651). -/
def FieldBook.push (f : FieldBook) (ha : Bool) (code toff : Nat) (payload : Bytes) : FieldBook :=
  let n := f.next
  let r : FbRec := { code := code, loss := f.lossDue, toff := toff, payload := payload }
  let old := n - 262144
  let gone := decide (262144 ≤ n) && f.recs.any (fun e => e.1 == old)
  let lost := gone && ha && ! f.exported.contains old
  { f with
    recs := (if gone then ldel f.recs old else f.recs) ++ [(n, r)]
    next := n + 1
    reserved := if n ≥ f.reserved then (n / 65536 + 1) * 65536 else f.reserved
    oldest := if gone then max f.oldest (old + 1) else f.oldest
    exported := if gone then setDel f.exported old else f.exported
    exportLost := if lost then satBv f.exportLost 1 else f.exportLost
    first := if f.first.length < 4096 then f.first ++ [(n, r)] else f.first
    lossDue := false }

/-- The epoch record of a moment (R643, R644). -/
def FieldBook.epoch (f : FieldBook) (ha : Bool) (base poc toff : Nat) : FieldBook :=
  let n := f.next
  let g := f.push ha 0x0001 toff (leBytes 8 base ++ leBytes 4 poc ++ leBytes 4 0 ++ leBytes 8 n)
  { g with base := base, epochs := g.epochs ++ [(n, base, poc)] }

/-- Write one variable record: a new epoch first where TOFF would reach 2³² (R644). -/
def FieldBook.put (f : FieldBook) (ha : Bool) (now poc code : Nat) (payload : Bytes) : FieldBook :=
  let g := if now - f.base ≥ 2 ^ 32 then f.epoch ha now poc 0 else f
  g.push ha code (now - g.base) payload

/-- The export backlog record: when BACKLOG first exceeds 131,072, then at most once a second while records are overwritten unexported (R662). -/
def FieldBook.backlogDue (f : FieldBook) (now : Nat) (overwrote : Bool) : Bool :=
  match f.backlogAt with
  | none => decide (131072 < f.backlog)
  | some t => overwrote && decide (now ≥ t + 1000000)

/-- Add one record to the fixed or the variable store (R642, R646, R652), without the freeze trigger. -/
def State.fbStore (s : State) (code : Nat) (payload : Bytes) : State :=
  let ha := s.hostMode .fbk
  let now := s.sys.now
  let poc := s.sys.poc
  let pad := padTo 8 payload
  let pin (f : FieldBook) : FieldBook :=
    if fbPinned code && decide (f.pinned.length < 2047) then
      { f with pinned := f.pinned ++ [{ code := code, pinned := true, loss := false, seq := poc, time := now, p := fxParams pad }] }
    else f
  s.modFbk fun f0 =>
    let f := pin f0
    if f.ready then
      let g := f.put ha now poc code pad
      if ha && g.backlogDue now (g.exportLost != f.exportLost) then
        { g.put ha now poc 0x0006 (words [g.backlog, g.exportLost.toNat]) with backlogAt := some now }
      else g
    else if f.startup.length < 1024 then
      { f with
        startup := f.startup ++ [{ code := code, pinned := false, loss := f.lossDue, seq := f.startSeq, time := now, p := fxParams pad }]
        startSeq := f.startSeq + 1, lossDue := false }
    else { f with dropStart := satBv f.dropStart 1, lost := mmod 0 f.lost 0 (· + 1), lossDue := true }

/-- Drop every logical device's commands, queue pairs, answers and staging slots, and their NQP registers (11 R483, R484; 17 R681). -/
def State.dropHost (s : State) : State :=
  let t := s.modHost fun h => { h with
    qps := [], cmds := [], undef := [], qp0Desc := [], qp0Err := 0, entering := none, tailHeld := false, rate := 0, width := 0
    msixDue := [], msixMask := [], msixPend := [] }
  let u := { t with pages := t.pages.filter fun e => e.1 < 0x10000 }
  u.modSys fun y => { y with linkUp := false, ready := false }

/-- Freeze the module (14 R593, R594): the state stands, the link is down. -/
def State.freeze (s : State) (cause trigNo : Nat) : State :=
  if s.frz.frozen || ! s.sys.powered then s else
    { s.dropHost with frz := { s.frz with
        frozen := true, cause := BitVec.ofNat 2 cause, trigNo := BitVec.ofNat 2 trigNo, data := s.frz.dataEn, count := satBv s.frz.count 1 } }

/-- The first valid FRZ_TRIGn whose CODE is the event's (14 R593). -/
def Frz.hit (f : Frz) (code : Nat) : Option Nat :=
  if f.evtEn then (List.range 4).find? fun n => let t := mget 0 f.trig n; t.getLsbD 31 && t.toNat % 65536 == code else none

/-- Offer an event to the sideband: it waits to be read, and ALERT_N falls on SMBus (14 R600, R601). -/
def State.alert (s : State) (code : Nat) : State :=
  if s.svy.alertClass.getLsbD (code / 4096) then
    let t := { s with svy := { s.svy with alerts := s.svy.alerts ++ [code] } }
    if s.side.i3cAddr.isNone then t.modSys fun y => { y with alertN := false } else t
  else s

/-- Write a Field Book record (16 R642, R652), offer it to the sideband, and freeze where a trigger names its code (14 R593). -/
def State.fbRecord (s : State) (code : Nat) (payload : Bytes) : State :=
  let t := (s.fbStore code payload).alert code
  match t.frz.hit code with
  | none => t
  | some n => t.freeze 3 n

/-- Records-lost records that follow the drops so far, within 1 s; those of the start-up buffer wait for the rolling area (16 R647, R650). -/
def State.lossRecords (s : State) : State :=
  s.fbk.lost.foldl (fun t e =>
    if e.1 == 0 && ! t.fbk.ready then t
    else (t.modFbk fun f => { f with lost := mset 0 f.lost e.1 0 }).fbRecord 0x0003 (words [e.2, e.1])) s

/-- Let local time pass to a moment. A core that was told to stop is saving its image after 2 µs (02 R93, R94). -/
def State.advance (s : State) (t : Nat) : State :=
  let u := (s.modSys fun y => { y with now := max y.now t }).flushMsi
  let v := { u with cores := u.cores.map fun e => if e.2.run == .stopping && decide (e.2.stopAt + 2 ≤ u.sys.now) then (e.1, { e.2 with run := .saving }) else e }
  if s.sys.now < t then v.lossRecords else v

/-- Raise an event of a block: its bit, its ERR_CNT, its record (17 R677, R678). -/
def State.raise (s : State) (b : Blk) (bit code : Nat) (payload : Bytes) : State :=
  ((s.setEvt b bit).countErr b).fbRecord code payload

/-- Raise an event that Table 16.4 gives no code: its bit and its count alone (16 R654). -/
def State.raiseBare (s : State) (b : Blk) (bit : Nat) : State := (s.setEvt b bit).countErr b

/-- The module does what it is told: it is powered, started up to a step, and not frozen (14 R593, 18 R689). -/
def State.alive (s : State) (step : Nat) : Bool :=
  s.sys.powered && ! s.frz.frozen && ! s.sys.recovery && decide (step ≤ s.sys.upStep)

/-- Power state 3 or 4: cores stopped, no command runs (11 Table 11.12). -/
def State.asleep (s : State) : Bool := decide (3 ≤ s.host.power)

end Sys2Proof.Machine
end

