-- ==== Sys2Proof/Machine/Dram.lean ====
section
/-! DEFINITION. The DRAM code and the accesses to DRAM lines (13 R540 to R544, R551 to R557). -/

namespace Sys2Proof.Machine

/-! ### The Reed-Solomon code (R540, R541) -/

/-- Multiplication in GF(2⁸) with field polynomial x⁸ + x⁴ + x³ + x² + 1, by the bits of the second factor. -/
def gfMulAux : Nat → Nat → Nat → Nat
  | 0, _, _ => 0
  | n + 1, a, b =>
    let a2 := if 128 ≤ a then Nat.xor (2 * a) 0x11D else 2 * a
    Nat.xor (if b % 2 = 1 then a else 0) (gfMulAux n a2 (b / 2))

def gfMul (a b : Nat) : Nat := gfMulAux 8 a b

def gfPow (a : Nat) : Nat → Nat
  | 0 => 1
  | n + 1 => gfMul a (gfPow a n)

/-- The inverse of a nonzero element. -/
def gfInv (a : Nat) : Nat := gfPow a 254

/-- α^n with α = 0x02. -/
def alpha (n : Nat) : Nat := gfPow 2 (n % 255)

/-- The product of a polynomial, highest coefficient first, with (x − r). -/
def gfTimesRoot (r : Nat) (p : List Nat) : List Nat :=
  List.zipWith Nat.xor (p ++ [0]) (0 :: p.map (gfMul r))

/-- g(x) = (x − α⁰)(x − α¹)…(x − α⁷), without its leading 1. -/
def rsGen : List Nat := ((List.range 8).foldl (fun p i => gfTimesRoot (alpha i) p) [1]).tail

/-- The 8 check bytes of 64 data bytes, check byte 0 the coefficient of x⁷. -/
def rsCheck (data : Bytes) : Bytes :=
  (data.foldl (fun r d =>
    let fb := Nat.xor d.toNat (r.headD 0)
    List.zipWith Nat.xor (r.tail ++ [0]) (rsGen.map (gfMul fb))) (List.replicate 8 0)).map w8

/-- Syndromes of a 72-byte word. -/
def rsSyn (word : List Nat) : List Nat :=
  (List.range 8).map fun j => word.foldl (fun acc c => Nat.xor (gfMul acc (alpha j)) c) 0

/-- A linear system over GF(2⁸), rows with their right-hand side last. -/
def gfSolve : Nat → List (List Nat) → Option (List Nat)
  | 0, _ => some []
  | n + 1, rows =>
    match rows.find? (fun r => r.headD 0 != 0) with
    | none => none
    | some r =>
      let u := r.map (gfMul (gfInv (r.headD 0)))
      let rest := (rows.erase r).map fun q => (List.zipWith (fun x y => Nat.xor x (gfMul (q.headD 0) y)) q u).tail
      match gfSolve n rest with
      | none => none
      | some xs => some ((List.zipWith gfMul (u.tail.take n) xs).foldl Nat.xor (u.getLastD 0) :: xs)

/-- The error positions (as powers of x) and values for `v` errors, if the word is that far from a codeword. -/
def rsErrors (syn : List Nat) (v : Nat) : Option (List (Nat × Nat)) :=
  let at' (i : Nat) := syn.getD i 0
  match gfSolve v ((List.range v).map fun i => (List.range v).map (fun k => at' (i + v - 1 - k)) ++ [at' (i + v)]) with
  | none => none
  | some lam =>
    let pos := (List.range 72).filter fun e =>
      (List.range v).foldl (fun acc k => Nat.xor acc (gfMul (lam.getD k 0) (alpha (255 * 8 - e * (k + 1))))) 1 == 0
    if pos.length ≠ v then none else
      match gfSolve v ((List.range v).map fun j => pos.map (fun e => alpha (e * j)) ++ [at' j]) with
      | none => none
      | some ys => if ys.contains 0 then none else some (pos.zip ys)

/-- Correct a word of 72 bytes: the corrected word and the number of positions, if at most three are in error. -/
def rsDecode (word : List Nat) : Option (List Nat × Nat) :=
  let syn := rsSyn word
  if syn.all (· == 0) then some (word, 0) else
    [1, 2, 3].findSome? fun v =>
      match rsErrors syn v with
      | none => none
      | some es =>
        let fixed := (List.range 72).map fun i => Nat.xor (word.getD i 0) (((es.find? fun e => e.1 == 71 - i).map (·.2)).getD 0)
        if (rsSyn fixed).all (· == 0) then some (fixed, v) else none

/-! ### Lines -/

/-- Key of a line: channel × 2²⁵ + logical line. -/
def lineKey (g l : Nat) : Nat := g * 0x2000000 + l

/-- The physical frame and the bank of a logical line (R556, R557, R560). -/
def State.physical (s : State) (g l : Nat) : Nat × Nat :=
  let lf := l / 1024
  let f := (lget s.dram.frameMap (g * 32768 + lf)).getD lf
  let b := l % 1024 % 64
  match lget s.dram.slices ((g * 32768 + f) * 64 + b) with
  | none => (f, b)
  | some v => (v / 64, v % 64)

/-- Record a line corrected (`n` positions) or found uncorrectable (R551): the stack's counter, a record, and the 24-hour history. -/
def State.lineRecord (s : State) (g l n : Nat) (ue : Bool) : State :=
  let (f, b) := s.physical g l
  let t := s.modStack (g / 32) fun k => if ue then { k with ueCnt := satBv k.ueCnt 1 } else { k with ceCnt := satBv k.ceCnt 1 }
  let u := t.modDram fun d => { d with
    recs := (d.recs.filter fun r => (! r.old && decide (t.sys.now < r.time + 86400000000)) || d.retired.contains (r.chan * 32768 + r.frame)) ++ [{ time := t.sys.now, chan := g, frame := f, bank := b, line := l, ue := ue }] }
  u.fbRecord (if ue then 0x4002 else 0x4001) (words [g, f, b, n])

/-- Whether the flip mask is armed at a line (R552). -/
def State.flipAt (s : State) (g l : Nat) : Bool :=
  s.ecc.flipArmed && s.ecc.flipChan.toNat == g && s.ecc.flipLine.toNat == l

/-- The 72 bytes of the flip mask (R552). -/
def State.flipBytes (s : State) : Bytes := (List.range 18).flatMap fun i => leBytes 4 (mget 0 s.ecc.flipMask i).toNat

/-- Store one whole line: encoded, then flipped where the mask is armed at it (R544, R552). -/
def State.putLine (s : State) (g l : Nat) (bs : Bytes) : State :=
  let k := lineKey g l
  let t := s.modDram fun d => { d with mem := wrBytes d.mem (k * 64) bs, bad := ldel d.bad k }
  if s.flipAt g l then
    let m := s.flipBytes
    let u := { t with ecc := { t.ecc with flipArmed := false, flipHit := true } }
    if m.all (· == 0) then u else
      let b : BadLine :=
        { data := List.zipWith (· ^^^ ·) bs (m.take 64)
          chk := List.zipWith (· ^^^ ·) (rsCheck bs) (m.drop 64)
          noPromise := decide (6 ≤ (m.filter (· != 0)).length) }
      u.modDram fun d => { d with bad := lset d.bad k b }
  else t

/-- Read one line: its 64 bytes, or none where it is uncorrectable (R541 to R543, R561). A corrected line is written back. -/
def State.getLine (s : State) (g l : Nat) : State × Option Bytes :=
  let k := lineKey g l
  if s.dram.withdrawn.contains g then (s, none)
  else if s.dram.absent.contains (g * 32768 + l / 1024) then
    let (bs, t) := s.takeBytes 64
    (t, some bs)
  else
    match lget s.dram.bad k with
    | none => (s, some (rdBytes s.dram.mem (k * 64) 64))
    | some b =>
      if b.noPromise then
        let (n, t) := s.takeFree
        if n % 3 = 0 then (t.lineRecord g l 0 true, none)
        else if n % 3 = 1 then
          let (bs, u) := t.takeBytes 64
          ((u.putLine g l bs).lineRecord g l (n / 3 % 4) false, some bs)
        else (t, some b.data)
      else
        match rsDecode ((b.data ++ b.chk).map (·.toNat)) with
        | none => (s.lineRecord g l 0 true, none)
        | some (w, n) =>
          let bs := (w.take 64).map w8
          if n = 0 then (s, some bs) else ((s.putLine g l bs).lineRecord g l n false, some bs)

/-- Read bytes of a channel, line by line, at most `n` lines; none where a line is uncorrectable. -/
def State.dramReadAux : Nat → State → Nat → Nat → Nat → State × Option Bytes
  | 0, s, _, _, _ => (s, some [])
  | n + 1, s, g, off, len =>
    if len = 0 then (s, some []) else
      let o := off % 64
      let m := min len (64 - o)
      match s.getLine g (off / 64) with
      | (t, none) => (t, none)
      | (t, some bs) =>
        match State.dramReadAux n t g (off + m) (len - m) with
        | (u, none) => (u, none)
        | (u, some rest) => (u, some ((bs.drop o).take m ++ rest))

/-- Read `len` bytes at a logical address of channel g. -/
def State.dramRead (s : State) (g off len : Nat) : State × Option Bytes := State.dramReadAux (len / 64 + 2) s g off len

/-- Write bytes of a channel, line by line; false where part of an uncorrectable line was not written (R544). -/
def State.dramWriteAux : Nat → State → Nat → Nat → Bytes → State × Bool
  | 0, s, _, _, _ => (s, true)
  | n + 1, s, g, off, bs =>
    if bs = [] then (s, true) else
      let o := off % 64
      let l := off / 64
      let m := min bs.length (64 - o)
      let gone := s.dram.withdrawn.contains g || s.dram.absent.contains (g * 32768 + l / 1024)
      let (t, ok) :=
        if gone then (s, ! s.dram.withdrawn.contains g)
        else if m = 64 then (s.putLine g l (bs.take 64), true)
        else
          match s.getLine g l with
          | (t, none) => (t, false)
          | (t, some old) => (t.putLine g l (old.take o ++ bs.take m ++ old.drop (o + m)), true)
      let (u, ok2) := State.dramWriteAux n t g (off + m) (bs.drop m)
      (u, ok && ok2)

/-- Write bytes at a logical address of channel g. -/
def State.dramWrite (s : State) (g off : Nat) (bs : Bytes) : State × Bool := State.dramWriteAux (bs.length / 64 + 2) s g off bs

/-- A range of channel g has been stored: a flip mask armed at one of its lines acts on that line (R552). -/
def State.flipStored (s : State) (g off len : Nat) : State :=
  let l := s.ecc.flipLine.toNat
  if s.flipAt g l && decide (off ≤ 64 * l) && decide (64 * l + 64 ≤ off + len) then
    s.putLine g l (rdBytes s.dram.mem (lineKey g l * 64) 64)
  else s

/-- Store over a range of whole lines what a memory holds from its address 0. -/
def State.dramPaste (s : State) (g off len : Nat) (m : Mem) : State :=
  (s.modDram fun d => { d with
    mem := mpaste d.mem (g * 0x80000000 + off) len m
    bad := d.bad.filter fun e => ! (decide (lineKey g (off / 64) ≤ e.1) && decide (e.1 < lineKey g ((off + len) / 64))) }).flipStored g off len

/-- Read a range of whole lines as a memory from address 0; none where a line is uncorrectable. Lines that hold a clean codeword are read as they
stand. -/
def State.readArea (s : State) (g off len : Nat) : State × Option Mem :=
  if s.dram.withdrawn.contains g then (s, none)
  else
    let ks := (s.dram.bad.map (·.1)).filter fun k => decide (lineKey g (off / 64) ≤ k) && decide (k < lineKey g ((off + len) / 64))
    ks.foldl (fun acc k =>
      match acc.2, acc.1.getLine g (k - lineKey g 0) with
      | some m, (t, some bs) => (t, some (wrBytes m ((k - lineKey g 0) * 64 - off) bs))
      | _, (t, _) => (t, none)) (s, some (mslice s.dram.mem (g * 0x80000000 + off) len))

/-- Store zeros over a range of whole lines. -/
def State.dramZero (s : State) (g off len : Nat) : State := s.dramPaste g off len []

end Sys2Proof.Machine
end

