-- ==== Sys2Proof/Machine/Pool.lean ====
section
/-! DEFINITION. The DRAM pool: the system region, pool shares, quotas, and allocation with eviction (09 R361 to R365, 13 R557). -/

namespace Sys2Proof.Machine

/-- Frames of 64 KiB in the system region: 96 GiB and twice the window (R361). -/
def State.sysFrames (s : State) : Nat := (96 + 2 * 64 * s.host.winSize) * 16384

/-- System-region frames of channel g: equal shares, the odd frames in the lowest channels (R361, log 9). -/
def State.sysFramesOf (s : State) (g : Nat) : Nat := s.sysFrames / 640 + (if g < s.sysFrames % 640 then 1 else 0)

/-- First byte of the pool share of channel g. -/
def State.poolBase (s : State) (g : Nat) : Nat := s.sysFramesOf g * 0x10000

/-- Absent logical frames of the pool share of channel g. -/
def State.absentOf (s : State) (g : Nat) : Nat := (s.dram.absent.filter fun f => f / 32768 == g).length

/-- Bytes of the pool share of channel g; none when it is withdrawn (13 R561). -/
def State.poolShare (s : State) (g : Nat) : Nat :=
  if s.dram.withdrawn.contains g then 0 else 0x80000000 - s.poolBase g - s.absentOf g * 0x10000

/-- The channels of a partition: those of the clusters it owns (R362). -/
def State.chansOf (s : State) (p : Nat) : List Nat := (s.clustersOf p).flatMap fun k => (List.range 8).map (k * 8 + ·)

/-- The quota of a partition in bytes (R362). -/
def State.quota (s : State) (p : Nat) : Nat := ((s.chansOf p).map s.poolShare).sum

/-- The allocations of a channel. -/
def State.allocsOf (s : State) (g : Nat) : List Alloc := s.dram.alloc.filter (·.chan == g)

/-- Bytes of a partition's pool in use. -/
def State.poolUsed (s : State) (p : Nat) : Nat := ((s.dram.alloc.filter (·.part == p)).map (·.len)).sum

def Alloc.evictable (a : Alloc) : Bool := a.cls == .free || a.cls == .retained

/-- Whether a range of a channel is free of allocations and of absent frames. -/
def State.rangeFree (s : State) (g off len : Nat) : Bool :=
  decide (off + len ≤ 0x80000000) &&
  (s.allocsOf g).all (fun a => decide (off + len ≤ a.off) || decide (a.off + a.len ≤ off)) &&
  s.dram.absent.all (fun f => f / 32768 != g || decide (off + len ≤ f % 32768 * 0x10000) || decide (f % 32768 * 0x10000 + 0x10000 ≤ off))

/-- The lowest free place for `len` bytes in channel g, on a 64-byte boundary (log 9). -/
def State.firstFit (s : State) (g len : Nat) : Option Nat :=
  if s.dram.withdrawn.contains g then none else
    let cands := s.poolBase g :: (s.allocsOf g).map (fun a => cdiv (a.off + a.len) 64 * 64) ++
      (s.dram.absent.filter fun f => f / 32768 == g).map (fun f => f % 32768 * 0x10000 + 0x10000)
    (cands.filter fun o => s.rangeFree g o len).min?

/-- The oldest evictable run of a partition in a channel; of equal age, the lower address (R364). -/
def State.victim (s : State) (p g : Nat) : Option Alloc :=
  let ev := (s.allocsOf g).filter fun a => a.part == p && a.evictable
  ev.foldl (fun best a => match best with
    | none => some a
    | some b => if a.touch < b.touch || (a.touch == b.touch && decide (a.off < b.off)) then some a else some b) none

def State.dropAlloc (s : State) (a : Alloc) : State := s.modDram fun d => { d with alloc := d.alloc.filter (· != a) }

/-- Evict a run whole, and count it (R364). -/
def State.evict (s : State) (a : Alloc) : State := (s.dropAlloc a).modDram fun d => { d with evictCnt := satBv d.evictCnt 1 }

/-- Evict until a place is found, at most `n` times (R364). -/
def State.evictFor : Nat → State → Nat → Nat → Nat → State × Option Nat
  | 0, s, _, g, len => (s, s.firstFit g len)
  | n + 1, s, p, g, len =>
    match s.firstFit g len with
    | some o => (s, some o)
    | none =>
      match s.victim p g with
      | none => (s, none)
      | some a => State.evictFor n (s.evict a) p g len

/-- The share of a partition's stream floor in each of its channels, rounded up to 64 KiB (R365). -/
def State.floorOf (s : State) (p : Nat) : Nat :=
  cdiv (mget 0 s.dram.floor p * 0x100000) (max 1 (s.chansOf p).length * 0x10000) * 0x10000

/-- Bytes of a channel that no allocation but an evictable run holds. -/
def State.roomOf (s : State) (g : Nat) : Nat :=
  s.poolShare g - (((s.allocsOf g).filter fun a => ! a.evictable).map (·.len)).sum

/-- Allocate in a channel for a partition, evicting where needed. A state allocation or a KV reservation that would leave less than the
floor is refused (R365). -/
def State.poolAlloc (s : State) (p g len : Nat) (cls : PoolClass) (use : PoolUse) : Option State :=
  let floored := cls == .state || cls == .kv
  if len = 0 then some s
  else if floored && decide (s.roomOf g < len + s.floorOf p) then none
  else
    match State.evictFor (s.allocsOf g).length s p g len with
    | (t, some o) =>
      some (t.modDram fun d => { d with alloc := d.alloc ++ [{ chan := g, off := o, len := len, cls := cls, part := p, use := use, touch := s.sys.now }] })
    | (_, none) => none

/-- Allocate the same number of bytes in each channel of a list, all or none. -/
def State.poolAllocAll (s : State) (p len : Nat) (cls : PoolClass) (use : PoolUse) : List Nat → Option State
  | [] => some s
  | g :: gs =>
    match s.poolAlloc p g len cls use with
    | none => none
    | some t => State.poolAllocAll t p len cls use gs

/-- Spread `len` bytes evenly over a list of channels, in 64-byte units, all or none (log 9). -/
def State.poolSpread (s : State) (p len : Nat) (cls : PoolClass) (use : PoolUse) (gs : List Nat) : Option State :=
  if gs = [] then none else s.poolAllocAll p (cdiv len (64 * gs.length) * 64) cls use gs

/-- Free every allocation that a test picks. -/
def State.freeAllocs (s : State) (f : Alloc → Bool) : State := s.modDram fun d => { d with alloc := d.alloc.filter fun a => ! f a }

/-- The allocation that covers a byte of a channel. -/
def State.allocAt (s : State) (g off : Nat) : Option Alloc :=
  (s.allocsOf g).find? fun a => decide (a.off ≤ off) && decide (off < a.off + a.len)

end Sys2Proof.Machine
end

