-- ==== Sys2Proof/Machine/ModelOps.lean ====
section
/-! DEFINITION. Outstanding commands, and what faults and failed parts do to the steps of the resident model (11 R463, R466; 09 R366, R372, R381,
R383 to R387). -/

namespace Sys2Proof.Machine

/-! ### Outstanding commands -/

def State.cmd? (s : State) (r : CmdRef) : Option Cmd := s.host.cmds.find? (·.ref == r)
def State.modCmd (s : State) (r : CmdRef) (f : Cmd → Cmd) : State :=
  s.modHost fun h => { h with cmds := h.cmds.map fun c => if c.ref == r then f c else c }

/-- End a command's work with success: its answer waits to be published, or its completion to be written
(11 R463). Its staging slot is free (10 R423, 11 R459). -/
def State.cmdDone (s : State) (r : CmdRef) (result : Bytes) (body : Option Bytes) : State :=
  s.modCmd r fun c => { c with phase := if body.isSome then .worked else .done, status := 0, result := result, body := body, parts := [], slot := none, since := s.sys.now }

/-- End a command with a failure: no answer, its reservation and its staging slot freed (11 R459, R466). -/
def State.cmdFail (s : State) (r : CmdRef) (status : Nat) (result : Bytes) : State :=
  s.modCmd r fun c => { c with phase := .done, status := status, result := result, body := none, res := none, parts := [], slot := none, since := s.sys.now }

/-! ### The model's runs (09 R363, R371, R372) -/

def State.modMdl (s : State) (f : ModelS → ModelS) : State := { s with mdl := f s.mdl }
/-- The entry point of the model with a number. -/
def State.mdEntry? (s : State) (e : Nat) : Option MdEntry := s.mdl.entries.find? (·.no == e)
/-- The route sheet of an entry. -/
def ModelS.sheetOf (m : ModelS) (e : Nat) : Sheet :=
  match m.entries.find? (·.no == e) with
  | none => { legs := 1, ents := [] }
  | some x => m.sheets.getD x.sheet { legs := 1, ents := [] }

/-- Whether a traversal holds a run pinned. -/
def ModelS.held (m : ModelS) (r : Nat) : Bool :=
  m.travs.any fun v => v.2.legs.any fun l => (m.sheetOf v.1).ents.any fun x => x.leg == l.leg && x.run == r

/-- Pin a resident run, which touches it (R364, R371). -/
def State.pinRun (s : State) (r : Nat) : State :=
  s.modDram fun d => { d with alloc := d.alloc.map fun a => if a.use == PoolUse.run r then { a with cls := .pinned, touch := s.sys.now } else a }

/-- A stream or demand run that no traversal holds is free (Table 9.5). -/
def State.unpinRun (s : State) (r : Nat) : State :=
  if s.mdl.held r || ((s.mdl.runs[r]?).map (·.pinned)).getD true then s
  else s.modDram fun d => { d with alloc := d.alloc.map fun a => if a.use == PoolUse.run r then { a with cls := .free } else a }

/-- The traversal of an entry ends with its context: its runs are released. -/
def State.travDrop (s : State) (e : Nat) : State :=
  let rs : List Nat := match lget s.mdl.travs e with
    | none => []
    | some v => ((s.mdl.sheetOf e).ents.filter fun x => v.legs.any fun l => l.leg == x.leg).map fun x => x.run
  rs.foldl State.unpinRun (s.modMdl fun m => { m with travs := ldel m.travs e })

/-! ### Requests and steps (09 R380 to R387) -/

/-- Drop retained KV. -/
def State.keptDrop (s : State) (h : Nat) : State :=
  match s.mdl.kept.find? (·.handle == h) with
  | none => s
  | some k =>
    (s.freeAllocs fun a => match a.use with
      | .kvRun q _ => q == k.seq
      | _ => false).modMdl fun m => { m with kept := m.kept.filter (·.handle != h) }

/-- A sequence that used retained KV has ended: MD_DROPKV may have asked for it. -/
def State.keptRelease (s : State) (r : CmdRef) : State :=
  match s.mdl.kept.find? (·.user == some r) with
  | none => s
  | some k => if k.drop then s.keptDrop k.handle else s.modMdl fun m => { m with kept := m.kept.map fun x => if x.handle == k.handle then { x with user := none } else x }

/-- A sequence leaves its slot: its reservation is freed. -/
def State.seqDrop (s : State) (q : SeqSt) : State :=
  let t := s.freeAllocs fun a => match a.use with
    | .kvRun i _ => i == q.id
    | _ => false
  (t.modMdl fun m => { m with seqs := m.seqs.filter (·.id != q.id) }).keptRelease q.ref

/-- Fail a request of the model: its sequence leaves, its items go, an embedding write leaves nothing (06 R267). -/
def State.reqFail (s : State) (r : CmdRef) (status embed : Nat) (result : Bytes) : State :=
  let t := (s.mdl.seqs.filter (·.ref == r)).foldl State.seqDrop s
  let u := t.modMdl fun m => { m with items := m.items.filter (·.ref != r) }
  match u.cmd? r with
  | none => u
  | some c =>
    if c.opcode = 0x11 then
      let v := { u with gr := { u.gr with slots := u.gr.slots.filter fun e => e.2.pend != some r }, gz := { u.gz with embedFail := satBv u.gz.embedFail 1 } }
      v.cmdFail r embed result
    else u.cmdFail r status result

/-- The requests in the running step of an entry. -/
def ModelS.stepRefs (m : ModelS) (e : Nat) : List CmdRef :=
  match lget m.steps e with
  | none => []
  | some p => (p.slots.filterMap fun x => match x.item with
      | some i => some i.1
      | none => (m.seqs.find? (·.id == x.seq)).map (·.ref)).dedup

/-- The running step of an entry is gone, with its result and item bytes. -/
def State.stepDrop (s : State) (e : Nat) : State :=
  (s.freeAllocs fun a => a.use == PoolUse.model (e + 1)).modMdl fun m => { m with steps := ldel m.steps e }

/-- Every request in the running step of an entry fails, and its context starts afresh. -/
def State.stepFail (s : State) (e status embed : Nat) (result : Bytes) : State :=
  let refs := s.mdl.stepRefs e
  let t := (s.stepDrop e).travDrop e
  (refs.foldl (fun t r => t.reqFail r status embed result) t).modMdl fun m => { m with fresh := setIns m.fresh e }

/-- The running step of an entry is to be run again: its requests stay (R383, R385). -/
def State.stepUndo (s : State) (e : Nat) : State :=
  ((s.stepDrop e).travDrop e).modMdl fun m => { m with fresh := setIns m.fresh e }

end Sys2Proof.Machine
end

