-- ==== Sys2Proof/Machine/SchedOps.lean ====
section
/-! DEFINITION. Contexts: allotting clusters, starting, saving and tearing down
contexts, posts and core faults (02 R53, R54, R100 to R103; 10 R393 to R416). -/

namespace Sys2Proof.Machine

/-! ### Contexts and clusters -/

def State.ctx? (s : State) (x : Nat) : Option Ctx := lget s.sched.ctxs x
def State.modCtx (s : State) (x : Nat) (f : Ctx → Ctx) : State :=
  s.modSched fun d => { d with ctxs := d.ctxs.map fun e => if e.1 == x then (e.1, f e.2) else e }

/-- The context on a core. -/
def State.ctxOn (s : State) (c : Nat) : Option Nat := if (s.core c).bound then some (s.core c).ctx.toNat else none

/-- An owner word of a cluster register: CTX with VALID (02 R88, R89, 04 R183). -/
def ownWord (x : Nat) : BitVec 32 := w32 (0x80000000 + x % 1024)
def ownedBy (w : BitVec 32) (x : Nat) : Bool := w.getLsbD 31 && w.toNat % 1024 == x
/-- A barrier's word: participants, context, VALID (02 R89). -/
def barWord (mask x : Nat) : BitVec 32 := w32 (0x80000000 + x % 1024 * 256 + mask % 256)
def barOwnedBy (w : BitVec 32) (x : Nat) : Bool := w.getLsbD 31 && w.toNat / 256 % 1024 == x

/-- Banks, barriers and merge slots of a cluster that belong to no context. -/
def Cluster.freeBanks (k : Cluster) : List Nat := (List.range 16).filter fun n => ! (mget 0 k.spmOwn n).getLsbD 31 && ! k.wd.getLsbD n
def Cluster.freeBars (k : Cluster) : List Nat := (List.range 16).filter fun n => ! (mget 0 k.barMask n).getLsbD 31
def Cluster.freeSlots (k : Cluster) : List Nat := (List.range 4).filter fun n => ! (mget 0 k.mslotOwn n).getLsbD 31

/-- Allot a context its banks, zeroed, its barriers and its merge slots in one cluster, the lowest free ones (R88, R400, log 10). -/
def Cluster.allot (k : Cluster) (bankBytes x nbank nmslot nbar mask : Nat) : Option Cluster :=
  let bs := k.freeBanks.take nbank
  let rs := k.freeBars.take nbar
  let ms := k.freeSlots.take nmslot
  if bs.length < nbank ∨ rs.length < nbar ∨ ms.length < nmslot then none else
    some { k with
      spm := bs.foldl (fun m b => mclear m (b * bankBytes) bankBytes) k.spm
      spmOwn := bs.foldl (fun m b => mset 0 m b (ownWord x)) k.spmOwn
      barMask := rs.foldl (fun m b => mset 0 m b (barWord mask x)) k.barMask
      arrivals := rs.foldl (fun m b => mset 0 m b 0) k.arrivals
      mslotOwn := ms.foldl (fun m b => mset 0 m b (ownWord x)) k.mslotOwn
      rounds := ms.foldl (fun m b => mset {} m b {}) k.rounds }

/-- Take back everything of a cluster that a context owns; its open rounds are discarded (R103, 04 R187). -/
def Cluster.release (k : Cluster) (x : Nat) : Cluster :=
  let bars := (List.range 16).filter fun b => barOwnedBy (mget 0 k.barMask b) x
  let slots := (List.range 4).filter fun m => ownedBy (mget 0 k.mslotOwn m) x
  { k with
    spmOwn := k.spmOwn.filter fun e => ! ownedBy e.2 x
    barMask := bars.foldl (fun m b => mset 0 m b 0) k.barMask
    arrivals := bars.foldl (fun m b => mset 0 m b 0) k.arrivals
    mslotOwn := slots.foldl (fun m b => mset 0 m b 0) k.mslotOwn
    rounds := slots.foldl (fun m b => mset {} m b {}) k.rounds }

/-- The clusters of a core set, and a context's cores in one of them as a mask. -/
def clustersOfCores (cs : List Nat) : List Nat := (cs.map clusterOf).dedup
def coreMask (cs : List Nat) (k : Nat) : Nat := ((List.range 8).filter fun j => cs.contains (k * 8 + j)).foldl (fun a j => a + 2 ^ j) 0

/-- Allot the clusters of a context, all or none. -/
def State.allotAll (s : State) (x : Nat) (cx : Ctx) : List Nat → Option State
  | [] => some s
  | k :: ks =>
    match (s.clu k).allot (cspmSize k / 16) x cx.nbank cx.nmslot cx.nbar (coreMask cx.cores k) with
    | none => none
    | some u => State.allotAll (s.setClu k u) x cx ks

def State.releaseClus (s : State) (x : Nat) (cs : List Nat) : State :=
  (clustersOfCores cs).foldl (fun t k => t.modClu k fun u => u.release x) s

/-- The zero state of a core, returned to the scheduler (R61, R103). Registers that count or hold settings keep their values. -/
def Core.scrubbed (c : Core) : Core :=
  { c with
    arch := {}, run := .idle, halted := false, bound := false, ctx := 0, hold := false, preempt := false, restore := false
    scrub := false, fault := none, bankWait := 0, ran := false, image := none }

/-- The word at CORE_FAULT. -/
def CoreFault.word (f : CoreFault) : Nat := f.code + b2n f.precise * 256 + f.src * 512 + f.pc % 16384 * 65536 + 0x80000000

/-- Whether an image, or a live core, can go on: its WAIT is satisfied, its barrier released, or it does not stall (10 R405). -/
def State.canGo (s : State) (c : Nat) (a : Arch) : Bool :=
  match a.stall.map Stalled.why with
  | none => true
  | some .busy => true
  | some (.wait k n) => decide (n ≤ (mget 0 a.k k).toNat)
  | some (.bar b) => ! (mget 0 (s.clu (clusterOf c)).arrivals b).getLsbD (c % 8)

def Arch.engineBusy (a : Arch) : Bool := a.mxe != [] || a.vxe.isSome || a.sleOp.isSome || a.tme.isSome

/-- Whether every core of a context is halted or stalled with no engine operation (R405). -/
def State.blocked (s : State) (cx : Ctx) : Bool :=
  cx.place == .resident && cx.cores.all fun c =>
    (cx.halted.any fun e => e.1 == c) || (! (s.core c).arch.engineBusy && ! s.canGo c (s.core c).arch)

/-- The state of a core of a context: its saved image, or what stands on the core. -/
def State.archOf (s : State) (cx : Ctx) (c : Nat) : Arch := (lget cx.images c).getD (s.core c).arch

/-- Whether a context that is not wholly on its cores could go on: a core of it whose engines hold an operation, or that does not stall at a WAIT or
BAR still to be satisfied (R405, R412). A barrier that released has let its cores past it (R90). -/
def State.runnable (s : State) (cx : Ctx) : Bool :=
  ! cx.started || cx.cores.any fun c =>
    let a := s.archOf cx c
    let barred : Bool := match a.stall.map Stalled.why with
      | some (.bar _) => true
      | _ => false
    ! (cx.halted.any fun h => h.1 == c) && (a.engineBusy || (! barred && s.canGo c a))

/-- Bring a context's blocked and waiting times up to date (R405, R406, R412). -/
def State.refresh (s : State) (x : Nat) : State :=
  match s.ctx? x with
  | none => s
  | some cx =>
    let b := s.blocked cx
    let r := s.runnable cx
    s.modCtx x fun c => { c with
      blockedSince := if b then some (c.blockedSince.getD s.sys.now) else none
      waitSince :=
        if c.place == .resident then none
        else if c.place == .saving && c.ranAtSave then none
        else if r then some (c.waitSince.getD s.sys.now) else none }

/-- Bring the context of a core up to date. -/
def State.refreshOn (s : State) (c : Nat) : State :=
  match s.ctxOn c with
  | none => s
  | some x => s.refresh x

/-- End a context: its cores are zeroed and returned, but a faulted core keeps its record until its SCRUB (R103, log 11). -/
def State.endCtx (s : State) (x : Nat) (cx : Ctx) : State :=
  let t := cx.cores.foldl (fun t c =>
    if (t.core c).bound && (t.core c).ctx.toNat == x then
      t.modCore c fun k => if k.run == .faulted then { k.scrubbed with fault := k.fault, run := .faulted, ctx := k.ctx } else k.scrubbed
    else t) s
  let u := (t.releaseClus x cx.cores).freeAllocs fun a => match a.use with
    | .save y _ => y == x
    | .work y _ => y == x
    | _ => false
  u.modSched fun d => { d with ctxs := ldel d.ctxs x, marks := d.marks.filter fun m => ! cx.cores.contains m.1 }

/-- Create a service context again in its place: zero state, fresh cluster resources, no route marks, waiting for its cores (09 R387, log 27). -/
def State.ctxAgain (s : State) (x : Nat) (cx : Ctx) : State :=
  let t := cx.cores.foldl (fun t c =>
    if (t.core c).bound && (t.core c).ctx.toNat == x then
      t.modCore c fun k => if k.run == .faulted then { k.scrubbed with fault := k.fault, run := .faulted, ctx := k.ctx } else k.scrubbed
    else t) s
  let u := t.releaseClus x cx.cores
  let v := (u.allotAll x cx (clustersOfCores cx.cores)).getD u
  (v.modSched fun d => { d with marks := d.marks.filter fun m => ! cx.cores.contains m.1 }).modCtx x fun y => { y with
    place := .waiting, started := false, images := [], recs := [], halted := [], todo := [], posts := [], heldFault := none, blockedSince := none
    waitSince := some s.sys.now }

/-- Tear a context down for a fault or an abort, and count it (R103, R414). A service context is created again, and every request in the step
of a model's entry point fails with status model fault (09 R387). -/
def State.teardown (s : State) (x : Nat) (cx : Ctx) : State :=
  let t := match cx.kind with
    | .job => s.endCtx x cx
    | .entry e => (s.stepFail e 0x34 0x35 []).ctxAgain x cx
    | .index _ => s.ctxAgain x cx
  t.modSched fun d => { d with teardownCnt := satBv d.teardownCnt 1 }

/-- RESULT of a context fault (11 Table 11.10). -/
def faultResult (f : CoreFault) (c : Nat) : Bytes := leBytes 4 f.word ++ leBytes 4 c ++ leBytes 8 f.addr.toNat ++ zeros 16

/-- The core-fault record of the Field Book (R102): core, context, CORE_FAULT, CORE_FAULT_ADDR. -/
def State.faultRecord (s : State) (c x : Nat) (f : CoreFault) : State :=
  s.fbRecord 0x2001 (words [c, x, f.word, f.addr.toNat % 2 ^ 32, f.addr.toNat / 2 ^ 32])

/-- Record a fault of a core in the Field Book, and tear its context down (R102, R103, R414). -/
def State.faultCtx (s : State) (c x : Nat) (f : CoreFault) : State :=
  let t := s.faultRecord c x f
  match t.ctx? x with
  | none => t
  | some cx =>
    let u := t.teardown x cx
    match cx.cmd with
    | none => u
    | some r => u.cmdFail r 0x0021 (faultResult f c)

/-! ### Filter invocations (06 R241, R251) -/

def State.modFch (s : State) (f : Fch → Fch) : State := { s with fch := f s.fch }

/-- End an FL_RUN's work on the cores: its run and its invocations go, and their cores are scrubbed. -/
def State.flDrop (s : State) (r : CmdRef) : State :=
  let mine := s.fch.invs.filter fun e => e.2.ref == r
  let t := mine.foldl (fun t e => t.modCore e.1 Core.scrubbed) s
  t.modFch fun f => { f with runs := f.runs.filter (·.ref != r), invs := f.invs.filter fun e => e.2.ref != r }

/-- A filter fault of a core's invocation: the FL_RUN fails whole, the die counts it, the event is raised, the core returns to service
(R251). -/
def State.flFault (s : State) (c : Nat) (v : Invocation) (f : CoreFault) : State :=
  let die := (c - 640) / 8
  let t := (s.flDrop v.ref).cmdFail v.ref 0x20 (leBytes 4 f.word ++ leBytes 4 c ++ leBytes 8 f.addr.toNat ++ leBytes 8 v.page)
  (t.modFch fun h => { h with faults := mmod 0 h.faults die fun n => satBv n 1 }).raise (.fch die) 0 0x7004
    (words [v.ref.part, f.code, v.page % 2 ^ 32, v.page / 2 ^ 32])

/-- A core fault (R102): issue stops, engine operations are abandoned, the first fault is recorded, the context is torn down; a later
fault of the same core is counted. -/
def State.coreFault (s : State) (c code : Nat) (precise : Bool) (src pc addr : Nat) : State :=
  let k := s.core c
  if k.run == .faulted then s.countErr (.core c) else
    let f : CoreFault := { code := code, precise := precise, src := src, pc := pc, addr := w64 addr }
    let t := s.setCore c { k with
      fault := some f, run := .faulted, preempt := false
      arch := { k.arch with mxe := [], vxe := none, sleOp := none, tme := none, stall := none } }
    if k.bound then t.faultCtx c k.ctx.toNat f
    else
      let u := t.faultRecord c k.ctx.toNat f
      match lget s.fch.invs c with
      | none => u
      | some v => u.flFault c v f

/-! ### Context images (02 R59) -/

/-- Words of a table laid out in memory, `n` bytes each, from a base. -/
def layWords {w : Nat} (n base : Nat) (t : NMap (BitVec w)) (m : Mem) : Mem := t.foldl (fun m e => wrLE m (base + n * e.1) n e.2.toNat) m

/-- The words of a table laid out in memory from a base, `n` bytes each. -/
def pickWords {w : Nat} (n base count : Nat) (m : Mem) : NMap (BitVec w) :=
  (mslice m base (n * count)).foldl (fun t e => mmod 0 t (e.1 / n) fun v => v ||| BitVec.ofNat w (e.2.toNat * 2 ^ (8 * (e.1 % n)))) []

/-- The bytes of the stationary sets (0x3000) and of the SLE state, the PC and resume flags and the progress records (0x880), whose layout Table 2.1
leaves open (log 62). -/
def Arch.restBytes (a : Arch) : Bytes := (List.range 0x3880).map (Config.imageRest a)

/-- The context image of a core (Table 2.1): what the table lays out stands in its place. -/
def Arch.imageMem (a : Arch) (c : Nat) : Mem :=
  let z := spmSize c
  let m0 := layWords 8 z a.imem a.spm
  let m1 := layWords 8 (z + 0x20000) a.ftab m0
  let m2 := a.slots.foldl (fun m e => wrByte m (z + 0x24000 + e.1) e.2) m1
  let m3 := layWords 4 (z + 0x28000) a.acc m2
  let m4 := wrBytes m3 (z + 0x2A000) (a.restBytes.take 0x3000)
  let m5 := layWords 64 (z + 0x2D000) a.v m4
  let m6 := layWords 8 (z + 0x2D400) a.s m5
  let m7 := wrLE (layWords 8 (z + 0x2D500) a.p m6) (z + 0x2D500) 8 (2 ^ 64 - 1)
  let m8 := layWords 32 (z + 0x2D540) a.t m7
  let m9 := layWords 2 (z + 0x2D740) a.k m8
  wrBytes m9 (z + 0x2D780) (a.restBytes.drop 0x3000)

/-- The state that an image gives back to a core (R97): what Table 2.1 lays out from its bytes; the rest as it was saved, where its bytes are those that
were saved. -/
def Arch.ofImage (a : Arch) (c : Nat) (m : Mem) : Arch :=
  let z := spmSize c
  let rest := rdBytes m (z + 0x2A000) 0x3000 ++ rdBytes m (z + 0x2D780) 0x880
  let b := if rest = a.restBytes then a else Config.restArch rest
  { b with
    spm := mslice m 0 z, imem := pickWords 8 z 16384 m, ftab := pickWords 8 (z + 0x20000) 2048 m, slots := mslice m (z + 0x24000) 0x4000
    acc := pickWords 4 (z + 0x28000) 2048 m, v := pickWords 64 (z + 0x2D000) 16 m, s := mdel 0 (pickWords 8 (z + 0x2D400) 32 m)
    p := mdel 0 (pickWords 8 (z + 0x2D500) 8 m), t := pickWords 32 (z + 0x2D540) 16 m, k := pickWords 2 (z + 0x2D740) 32 m }

/-- The bytes of a context image (R59). -/
def imageBytes (c : Nat) : Nat := spmSize c + 0x2E000

/-- The offset of a context's work area, or save area, in the channel of a core. -/
def State.areaOf (s : State) (use : PoolUse) : Option Alloc := s.dram.alloc.find? (·.use == use)

/-- The channel and the offset at an address of CORE_SAVE_BASE: the own-channel range of a stack-side core, or a channel's range (Table 2.11);
none for any other address, where an image is lost. The number of a withdrawn channel has the host core's (13 R561). -/
def State.saveAt (s : State) (c : Nat) : Option (Nat × Nat) :=
  let a := (s.core c).saveBase.toNat
  let n := imageBytes c
  if stackSide c ∧ 0x10000000 ≤ a ∧ a + n ≤ 0x90000000 then some (if s.dram.withdrawn.contains c then (lget s.ecc.host c).getD c else c, a - 0x10000000)
  else if 0x10000000000 ≤ a ∧ a < 0x10000000000 + 640 * 0x80000000 ∧ (a - 0x10000000000) % 0x80000000 + n ≤ 0x80000000 then
    some ((a - 0x10000000000) / 0x80000000, (a - 0x10000000000) % 0x80000000)
  else none

/-- Write the image of a core to its save area at CORE_SAVE_BASE (R93 step 7). -/
def State.storeImage (s : State) (c : Nat) (a : Arch) : State :=
  match s.saveAt c with
  | none => s
  | some (g, off) => s.dramPaste g off (imageBytes c) (a.imageMem c)

/-- Read the image of a core back from its save area (R97); none where a line of it is uncorrectable (10 R415). An address that names no DRAM gives
back a zero image (log 62). -/
def State.loadImage (s : State) (c : Nat) (a : Arch) : State × Option Arch :=
  match s.saveAt c with
  | none => (s, some (a.ofImage c []))
  | some (g, off) =>
    match s.readArea g off (imageBytes c) with
    | (t, none) => (t, none)
    | (t, some m) => (t, some (a.ofImage c m))

/-- Keep the image of a core of a context that is saved: the state it was taken from, and the bytes of the save area. -/
def State.keepImage (s : State) (x c : Nat) (a : Arch) : State := (s.modCtx x fun y => { y with images := lset y.images c a }).storeImage c a

/-- A held post added to a saved token count (10 R410): in the state kept, and in the save area. -/
def State.postImage (s : State) (x c k : Nat) (a : Arch) : State :=
  let t := s.modCtx x fun y => { y with images := lset y.images c a }
  match t.saveAt c with
  | none => t
  | some (g, off) => (t.dramWrite g (off + spmSize c + 0x2D740 + 2 * k) (leBytes 2 (mget 0 a.k k).toNat)).1

/-! ### Posts (02 R53, R54; 10 R402, R410, R411) -/

/-- A token's count with `n` added, unless it would pass 65,535. -/
def Arch.post (a : Arch) (k n : Nat) : Option Arch :=
  let v := (mget 0 a.k k).toNat + n
  if 65535 < v then none else some { a with k := mset 0 a.k k (w16 v) }

/-- Post to a core that is live: an overflow is the receiving core's fault, at the given PC. -/
def State.postLive (s : State) (c k n src pc : Nat) : State :=
  match (s.core c).arch.post k n with
  | none => s.coreFault c 0x04 false src pc 0
  | some a =>
    let t := s.modCore c fun y => { y with arch := a }
    match t.ctxOn c with
    | none => t
    | some x => t.refresh x

/-- CORE_FAULT of a core whose context is torn down from its saved state: the record is the core's, which may run something else (R54, R411). -/
def State.heldRecord (s : State) (c : Nat) (f : CoreFault) : State :=
  if (s.core c).run == .faulted then s.countErr (.core c) else s.modCore c fun k => { k with fault := some f }

/-- Take down a saved context whose held post overflowed (R411): the resume PC of the saved image is recorded. -/
def State.heldTeardown (s : State) (x : Nat) : State :=
  match s.ctx? x with
  | none => s
  | some cx =>
    match cx.heldFault with
    | none => s
    | some (c, _) =>
      let f : CoreFault := { code := 0x04, precise := false, src := 0, pc := (s.archOf cx c).pc.toNat, addr := 0 }
      (s.faultCtx c x f).heldRecord c f

/-- Post to a core of a context wherever its state stands: live, or in a saved image. -/
def State.postCtx (s : State) (x c k n : Nat) : State :=
  match s.ctx? x with
  | none => s
  | some cx =>
    let lost : State :=
      let t := s.modCtx x fun y => { y with heldFault := some (y.heldFault.getD (c, k)) }
      if cx.place == .saving then t else t.heldTeardown x
    match lget cx.images c with
    | some a =>
      match a.post k n with
      | some b => (s.postImage x c k b).refresh x
      | none => lost
    | none =>
      if (s.core c).run == .saving && (s.core c).bound && (s.core c).ctx.toNat == x then
        match (s.core c).arch.post k n with
        | some b => (s.modCore c fun y => { y with arch := b }).refresh x
        | none => lost
      else if cx.started && (s.core c).bound && (s.core c).ctx.toNat == x then
        s.postLive c k n 0 (s.core c).arch.pc.toNat
      else s

/-! ### Placing contexts (R394, R400, R406, R571) -/

/-- The numbers that one physical core holds with number c: itself, its host, the numbers its host holds (13 R571). -/
def State.hostOf (s : State) (c : Nat) : Nat := (lget s.ecc.host c).getD c
def State.sameHost (s : State) (c : Nat) : List Nat :=
  let h := s.hostOf c
  (List.range 8).map (clusterOf c * 8 + ·) |>.filter fun n => s.hostOf n == h

/-- Whether a number is left without a core: it is withdrawn and has no host (13 R571). -/
def State.numberDead (s : State) (c : Nat) : Bool := s.ecc.coreWd.contains (s.hostOf c)

/-- A core is free for context x: no context holds it or a number of its host, and its cluster is not drained. -/
def State.coreFree (s : State) (x c : Nat) : Bool :=
  ! s.sched.drained.contains (clusterOf c) && (s.core c).run != .faulted && ! s.numberDead c &&
  (s.sameHost c).all fun n => ! (s.core n).bound || (s.core n).ctx.toNat == x

/-- The lowest free context number (R393). -/
def State.newCtxNo (s : State) : Option Nat := (List.range 1024).find? fun x => (s.ctx? x).isNone

/-- Put a job context's zero state on one of its cores (R61, R400). -/
def Core.start (k : Core) (x : Nat) (cx : Ctx) : Core :=
  { k.scrubbed with
    arch := { imem := cx.prog, ftab := cx.ftab, spm := wrBytes [] 0 cx.params }
    run := .running, bound := true, ctx := BitVec.ofNat 10 x, progLen := BitVec.ofNat 15 cx.progLen }

/-- The registers the scheduler sets beside a core's state when a context comes on it: the mode of its QNT page (03 "Dynamic scaling"), the
program length, and the address of its save area (R395, CORE_SAVE_BASE). -/
def State.seat (s : State) (x c : Nat) (cx : Ctx) : State :=
  let base := match s.areaOf (.save x c) with
    | none => (s.core c).saveBase
    | some a => w64 (if stackSide c then 0x10000000 + a.off else 0x10000000000 + a.chan * 0x80000000 + a.off)
  let t := s.modCore c fun k => { k with saveBase := base, progLen := BitVec.ofNat 15 cx.progLen, bound := true, ctx := BitVec.ofNat 10 x }
  t.modPage (pageNo (.qnt c)) fun g => { g with mode := if cx.qntHost then 1 else 0 }

/-- Start a context on its cores: zero state, program, parameters, work areas zero, mode of the QNT pages; then the posts already applied
to it by CX_POST, before any core issues (R400, R416). -/
def State.startCtx (s : State) (x : Nat) (cx : Ctx) : State :=
  let t := cx.cores.foldl (fun t c =>
    let u := t.modCore c fun k => k.start x cx
    let v := match u.areaOf (.work x c) with
      | none => u
      | some a => u.dramZero a.chan a.off a.len
    (v.seat x c cx)) s
  let u := t.modCtx x fun y => { y with place := .resident, started := true, begun := true, residentSince := s.sys.now, images := [], halted := [], todo := [] }
  (cx.posts.foldl (fun t q => if (t.ctx? x).isSome then t.postLive q.core q.tok q.n 0 0 else t) u).refresh x

/-- Begin to save a resident context: PREEMPT on every core of it that has not halted (R93, R409). -/
def State.preemptCtx (s : State) (x : Nat) (cx : Ctx) : State :=
  let live := cx.cores.filter fun c => ! (cx.halted.any fun h => h.1 == c)
  let ran := ! s.blocked cx
  let t := live.foldl (fun t c => t.modCore c fun k => { k with preempt := true, run := .stopping, stopAt := s.sys.now }) s
  let u := t.modSched fun d => { d with preemptCnt := satBv d.preemptCnt 1 }
  (u.modCtx x fun y => { y with place := .saving, todo := live, ranAtSave := ran, preempts := y.preempts + 1, blockedSince := none, waitSince := none }).refresh x

/-- The cluster record of a context in one cluster (02 R96, 04 R186). -/
def Cluster.record (u : Cluster) (k bankBytes x : Nat) : CluRec :=
  { clu := k
    bars := ((List.range 16).filter fun b => barOwnedBy (mget 0 u.barMask b) x).map fun b => (b, mget 0 u.barMask b, mget 0 u.arrivals b)
    banks := ((List.range 16).filter fun n => ownedBy (mget 0 u.spmOwn n) x).map fun n =>
      (n, mget 0 u.spmOwn n, rdBytes u.spm (n * bankBytes) bankBytes)
    slots := ((List.range 4).filter fun m => ownedBy (mget 0 u.mslotOwn m) x).map fun m => (m, mget 0 u.mslotOwn m, mget {} u.rounds m) }

/-- Put a cluster record back. -/
def Cluster.restore (u : Cluster) (bankBytes : Nat) (r : CluRec) : Cluster :=
  { u with
    barMask := r.bars.foldl (fun m e => mset 0 m e.1 e.2.1) u.barMask
    arrivals := r.bars.foldl (fun m e => mset 0 m e.1 e.2.2) u.arrivals
    spmOwn := r.banks.foldl (fun m e => mset 0 m e.1 e.2.1) u.spmOwn
    spm := r.banks.foldl (fun m e => wrBytes m (e.1 * bankBytes) e.2.2) u.spm
    mslotOwn := r.slots.foldl (fun m e => mset 0 m e.1 e.2.1) u.mslotOwn
    rounds := r.slots.foldl (fun m e => mset {} m e.1 e.2.2) u.rounds }

/-- The last core of a context is saved: its cluster records are taken, its cores are returned; an overflow of a held post takes it down (R96, R406,
R411, R412). -/
def State.savedCtx (s : State) (x : Nat) (cx : Ctx) : State :=
  let t := cx.cores.foldl (fun t c =>
    if (t.core c).halted then
      (t.keepImage x c (t.core c).arch).modCore c Core.scrubbed
    else t.modCore c fun k => { k with bound := false }) s
  let recs := (clustersOfCores cx.cores).map fun k => (s.clu k).record k (cspmSize k / 16) x
  let u := (t.modCtx x fun y => { y with place := .saved, ranAtSave := false, recs := recs }).refresh x
  u.heldTeardown x

/-- Start a job context again after a failed part (R415): its state discarded, its cluster resources zeroed, the restart counted. -/
def State.rerunCtx (s : State) (x : Nat) (cx : Ctx) (cause : Nat) : State :=
  let t := cx.cores.foldl (fun t c =>
    if (t.core c).bound && (t.core c).ctx.toNat == x then t.modCore c Core.scrubbed else t) s
  let u := t.releaseClus x cx.cores
  let v := (u.allotAll x cx (clustersOfCores cx.cores)).getD u
  let w := v.modCtx x fun y => { y with
    place := .waiting, started := false, images := [], recs := [], halted := [], todo := [], heldFault := none, blockedSince := none
    waitSince := some s.sys.now, reruns := y.reruns + 1 }
  let z := w.modSched fun d => { d with rerunCnt := satBv d.rerunCnt 1 }
  z.raise .sch 0 0x2002 (words [x, cx.part, cause])

/-- The service context of an entry point starts its step again (09 R383, R385). -/
def State.entryAgain (s : State) (e : Nat) : State :=
  let t := s.stepUndo e
  match (t.mdEntry? e).bind (·.ctx) with
  | none => t
  | some x => match t.ctx? x with
    | none => t
    | some cx => t.ctxAgain x cx

/-- A context has lost what stood in its work or save area: a job starts again (R415), a service context too, with the step it ran (11 R468). -/
def State.ctxLost (s : State) (x : Nat) : State :=
  match s.ctx? x with
  | none => s
  | some cx => match cx.kind with
    | .job => s.rerunCtx x cx 2
    | .entry e => s.entryAgain e
    | .index _ => s.ctxAgain x cx

/-- A model run has lost a line: it is dropped, to be read from flash again, and the steps that hold it run again (09 R383). -/
def State.runLost (s : State) (a : Alloc) (r : Nat) : State :=
  let es := (s.mdl.steps.filter fun p => (s.mdl.sheetOf p.1).ents.any (·.run == r)).map (·.1)
  es.foldl State.entryAgain (s.dropAlloc a)

/-- KV has lost a line: a sequence waits for its rebuild, and its step runs again; retained KV is dropped (09 R384). -/
def State.kvLost (s : State) (q : Nat) : State :=
  match s.mdl.seqs.find? (·.id == q) with
  | some x =>
    let t := s.modMdl fun m => { m with seqs := m.seqs.map fun y => if y.id == q then { y with lost := true } else y }
    if (lget s.mdl.steps x.entry).isSome then t.entryAgain x.entry else t
  | none =>
    match s.mdl.kept.find? (·.seq == q) with
    | none => s
    | some k => s.keptDrop k.handle

/-- The answer of a job context that has ended (R403). -/
def State.jobAnswer (s : State) (cx : Ctx) : Bytes :=
  let out (c : Nat) : Bytes :=
    rdBytes (match lget cx.images c with
      | some a => a.spm
      | none => (s.core c).arch.spm) cx.outAddr cx.outLen
  leBytes 4 cx.cores.length ++ leBytes 4 cx.preempts ++ leBytes 4 cx.reruns ++ zeros 52 ++
    cx.cores.flatMap (fun c => leBytes 2 c ++ zeros 6 ++ leBytes 8 (((lget cx.halted c).map (·.toNat)).getD 0)) ++ cx.cores.flatMap out

/-- End a job context when every core of its set has halted (R403). -/
def State.jobEnd (s : State) (x : Nat) : State :=
  match s.ctx? x with
  | none => s
  | some cx =>
    if cx.cores.all fun c => cx.halted.any fun h => h.1 == c then
      let body := s.jobAnswer cx
      let t := s.endCtx x cx
      match cx.cmd with
      | none => t
      | some r => t.cmdDone r [] (some body)
    else s

end Sys2Proof.Machine
end

