-- ==== Sys2Proof/Machine/Operands.lean ====
section
/-! DEFINITION. Operands of core instructions: register files, core-local addresses, tile descriptors (02 R58 to R62, R72 to R77, R88). -/

namespace Sys2Proof.Machine

/-! ### Register files (R58) -/

def Arch.rdS (a : Arch) (r : BitVec 5) : BitVec 64 := if r = 0 then 0 else mget 0 a.s r.toNat
def Arch.wrS (a : Arch) (r : BitVec 5) (v : BitVec 64) : Arch := if r = 0 then a else { a with s := mset 0 a.s r.toNat v }
def Arch.rdP (a : Arch) (r : BitVec 3) : BitVec 64 := if r = 0 then BitVec.allOnes 64 else mget 0 a.p r.toNat
def Arch.wrP (a : Arch) (r : BitVec 3) (v : BitVec 64) : Arch := if r = 0 then a else { a with p := mset 0 a.p r.toNat v }
def Arch.rdV (a : Arch) (r : BitVec 4) : BitVec 512 := mget 0 a.v r.toNat
def Arch.wrV (a : Arch) (r : BitVec 4) (v : BitVec 512) : Arch := { a with v := mset 0 a.v r.toNat v }
def Arch.rdT (a : Arch) (r : BitVec 4) : BitVec 256 := mget 0 a.t r.toNat
def Arch.wrT (a : Arch) (r : BitVec 4) (v : BitVec 256) : Arch := { a with t := mset 0 a.t r.toNat v }
def Arch.rdK (a : Arch) (k : Nat) : Nat := (mget 0 a.k k).toNat

/-- The bytes of a word, lowest first. -/
def bvBytes {n : Nat} (len : Nat) (v : BitVec n) : Bytes := leBytes len v.toNat

/-- The second scalar operand: IMM sign-extended with I = 1, SB with I = 0 (Table 2.6). -/
def Arch.opB (a : Arch) (f : ScalarF) : BitVec 64 := if f.i then f.imm.signExtend 64 else a.rdS f.sb

/-- Whether a guard lets an instruction execute (R57). -/
def Arch.guardOn (a : Arch) (g : Guard) : Bool := (a.rdP g.gp).getLsbD 0 != g.gs

/-! ### Tile descriptors (Table 2.3, R62) -/

/-- A tile descriptor's fields. -/
structure Desc where
  src : Nat
  dst : Nat
  rowLen : Nat
  rows : Nat
  sstride : Int
  dstride : Int
  fmt : Nat
  rsv : Nat
deriving DecidableEq, Repr

def descOf (t : BitVec 256) : Desc :=
  let n := t.toNat
  { src := bits n 63 0, dst := bits n 127 64, rowLen := bits n 147 128, rows := bits n 163 148,
    sstride := sx 32 (bits n 195 164), dstride := sx 32 (bits n 227 196), fmt := bits n 231 228, rsv := bits n 255 232 }

/-- What R62 asks of every descriptor whose rows an operation reads or writes. -/
def Desc.ok (d : Desc) : Bool := d.rows ≠ 0 && d.rowLen ≠ 0 && d.fmt ≠ 0xF && d.rsv = 0

/-- The address of source row i and of destination row i, formed modulo 2⁶⁴. -/
def Desc.srcRow (d : Desc) (i : Nat) : Nat := lowBits 64 ((d.src : Int) + d.sstride * (i : Int))
def Desc.dstRow (d : Desc) (i : Nat) : Nat := lowBits 64 ((d.dst : Int) + d.dstride * (i : Int))
/-- Bytes that the rows hold. -/
def Desc.size (d : Desc) : Nat := d.rows * d.rowLen

/-! ### The core-local address space (Table 2.11) -/

/-- Where a core-local address leads. -/
inductive Place where
  | spm (off : Nat)
  | setAlias (off : Nat)
  | clrAlias (off : Nat)
  | clu (off : Nat)
  | own (off : Nat)
  | chan (g off : Nat)
  | coreN (n off : Nat)
  | cluM (m off : Nat)
  | none
deriving DecidableEq, Repr

/-- The place of `len` bytes at an address, wholly inside one row of Table 2.11. An alias range is as long as the core's scratchpad: on a flash-side
core its upper half has no bytes behind it, and is no address (log 101). -/
def placeOf (c a len : Nat) : Place :=
  if a + len ≤ spmSize c then .spm a
  else if 0x1000000 ≤ a ∧ a + len ≤ 0x1000000 + spmSize c then .setAlias (a - 0x1000000)
  else if 0x2000000 ≤ a ∧ a + len ≤ 0x2000000 + spmSize c then .clrAlias (a - 0x2000000)
  else if 0x4000000 ≤ a ∧ a + len ≤ 0x4000000 + cspmSize (clusterOf c) then .clu (a - 0x4000000)
  else if stackSide c ∧ 0x10000000 ≤ a ∧ a + len ≤ 0x90000000 then .own (a - 0x10000000)
  else if 0x10000000000 ≤ a ∧ a + len ≤ 0x10000000000 + 640 * 0x80000000 then
    (let o := (a - 0x10000000000) % 0x80000000
     if o + len ≤ 0x80000000 then .chan ((a - 0x10000000000) / 0x80000000) o else .none)
  else if 0x30000000000 ≤ a ∧ a + len ≤ 0x30000000000 + 768 * 0x200000 then
    (let n := (a - 0x30000000000) / 0x200000
     let o := (a - 0x30000000000) % 0x200000
     if o + len ≤ spmSize n then .coreN n o else .none)
  else if 0x40000000000 ≤ a ∧ a + len ≤ 0x40000000000 + 96 * 0x800000 then
    (let m := (a - 0x40000000000) / 0x800000
     let o := (a - 0x40000000000) % 0x800000
     if o + len ≤ cspmSize m then .cluM m o else .none)
  else .none

/-- Whether the banks of a cluster-scratchpad range all belong to the context on a core (R88). -/
def State.banksOwned (s : State) (c k off len : Nat) : Bool :=
  match s.ctxOn c with
  | none => false
  | some x =>
    let lo := cspmBank k off
    let hi := cspmBank k (off + len - 1)
    (List.range (hi + 1 - lo)).all fun i => ownedBy (mget 0 (s.clu k).spmOwn (lo + i)) x

/-- Mark the list of a select engine as touched where an access reaches its list buffer (04 R166). -/
def SleList.hit (l : SleList) (lo len : Nat) : Bool :=
  l.conf && decide (lo < l.addr.toNat + 64 + 16 * (l.k + l.rsv)) && decide (l.addr.toNat < lo + len)

def State.touchCore (s : State) (c lo len : Nat) : State :=
  if (s.core c).arch.sle.hit lo len then s.modArch c fun a => { a with sle := { a.sle with touched := true } } else s

def State.touchClu (s : State) (k off len : Nat) : State :=
  (List.range 8).foldl (fun t j => t.touchCore (k * 8 + j) (0x4000000 + off) len) s

/-- Read bytes of the core scratchpad or of an owned cluster bank: what loads, MXE, VXE and SLE reach (R72, R74, R88). -/
def State.rdLocal (s : State) (c a len : Nat) : Option Bytes :=
  match placeOf c a len with
  | .spm o => some (rdBytes (s.core c).arch.spm o len)
  | .clu o => if s.banksOwned c (clusterOf c) o len then some (rdBytes (s.clu (clusterOf c)).spm o len) else none
  | _ => none

/-- A filter program may write only its working area and the output staging it was given; where it writes elsewhere the answer of its FL_RUN is undefined
(06 R243). -/
def State.strayAt (s : State) (c o len : Nat) : State :=
  match lget s.fch.invs c with
  | none => s
  | some v =>
    if len = 0 ∨ (0x50000 ≤ o ∧ o + len ≤ 0xC0000) ∨ (v.out ≤ o ∧ o + len ≤ v.out + v.room) then s
    else { s with fch := { s.fch with invs := lset s.fch.invs c { v with stray := true } } }

/-- Write bytes of the core scratchpad or of an owned cluster bank. -/
def State.wrLocal (s : State) (c a : Nat) (bs : Bytes) : Option State :=
  match placeOf c a bs.length with
  | .spm o => some ((s.strayAt c o bs.length).modArch c fun y => { y with spm := wrBytes y.spm o bs })
  | .clu o =>
    if s.banksOwned c (clusterOf c) o bs.length then some (s.modClu (clusterOf c) fun k => { k with spm := wrBytes k.spm o bs }) else none
  | _ => none

/-- Mark what an access of a program to local bytes touches. -/
def State.touchLocal (s : State) (c a len : Nat) : State :=
  match placeOf c a len with
  | .spm _ => s.touchCore c a len
  | .clu o => s.touchClu (clusterOf c) o len
  | .setAlias o => s.touchCore c o len
  | .clrAlias o => s.touchCore c o len
  | _ => s

/-- A store by the sequencer: plain, or an update through an alias (R72, R76). -/
def State.storeLocal (s : State) (c a : Nat) (bs : Bytes) : Option State :=
  match placeOf c a bs.length with
  | .setAlias o => some ((s.strayAt c o bs.length).modArch c fun y => { y with spm := wrBytes y.spm o (List.zipWith (· ||| ·) (rdBytes y.spm o bs.length) bs) })
  | .clrAlias o => some ((s.strayAt c o bs.length).modArch c fun y => { y with spm := wrBytes y.spm o (List.zipWith (fun u v => u &&& ~~~v) (rdBytes y.spm o bs.length) bs) })
  | _ => s.wrLocal c a bs

/-! ### Issue (R49, R57, R65, R70, R100) -/

/-- Whether the sequencer of a core issues at all: the module runs it, a number of its host is the one being run (13 R571), and it is
neither held nor stopping. -/
def State.canIssue (s : State) (c : Nat) : Bool :=
  s.alive 6 && ! s.asleep && (s.core c).run == .running && ! (s.core c).hold && ! (s.core c).preempt &&
  (lget s.ecc.hosting (s.hostOf c)).getD c == c

/-- No other instruction stalls the sequencer: every later one waits with it (R49). -/
def State.turnOf (s : State) (c : Nat) (i : Instr) : Bool :=
  match (s.core c).arch.stall with
  | none => true
  | some w => w.i == i

/-- The sequencer moves past an instruction: one step, next PC, no stall. -/
def State.next (s : State) (c : Nat) : State :=
  s.modCore c fun k => { k with steps := k.steps + 1, ran := true, arch := { k.arch with pc := k.arch.pc + 1, stall := none } }

/-- Move to a target PC. -/
def State.jump (s : State) (c : Nat) (target : Nat) : State :=
  s.modCore c fun k => { k with steps := k.steps + 1, ran := true, arch := { k.arch with pc := BitVec.ofNat 15 target, stall := none } }

/-- Stall the sequencer at an instruction. Whether the instruction can issue at its next try may be a free value: one reading is used up. -/
def State.stallAt (s : State) (c : Nat) (i : Instr) (w : Stall) : State :=
  { s.modArch c fun a => { a with stall := some ⟨i, w⟩ } with free := s.free + 1 }.refreshOn c

def State.pcOf (s : State) (c : Nat) : Nat := (s.core c).arch.pc.toNat

/-- A precise fault of the sequencer at the present PC (R101). -/
def State.seqFault (s : State) (c code addr : Nat) : State := s.coreFault c code true 0 (s.pcOf c) addr

/-- The word at the PC is no instruction: its CLASS is reserved, or its class lists no such OP (R65). -/
def State.noInstr (s : State) (c : Nat) : Bool := (decodeWord c (mget 0 (s.core c).arch.imem (s.pcOf c))).isNone

/-- Issue instruction i on core c. `pre` is the fault code it has at issue, if any; `skip` is what a guarded-off instruction does beside taking
its step; `stall` holds it at issue; `run` is its effect, PC included. While another instruction stalls the sequencer, nothing issues (R49); where the
instruction memory holds no instruction at the PC, the fault of R65 is all that can issue (log 94). -/
def State.issue (s : State) (i : Instr) (c : Nat) (g : Guard) (pre : Option Nat) (skip : State → State) (stall : Bool) (run : State → State) : Out :=
  guardUnit (coreOk c) <|
    if ! s.canIssue c || ! s.turnOf c i then .next s
    else if (s.core c).progLen.toNat ≤ s.pcOf c then .next (s.seqFault c 0x08 0)
    else if s.noInstr c then .next (s.seqFault c 0x01 0)
    else
      match pre with
      | some code => .next (s.seqFault c code 0)
      | none =>
        if ! (s.core c).arch.guardOn g then .next (skip (s.next c))
        else if stall then .next (s.stallAt c i .busy)
        else .next (run s)

/-- The first fault code of a list of checks, each a failed condition with its code. -/
def firstFault : List (Bool × Nat) → Option Nat
  | [] => none
  | (b, code) :: r => if b then some code else firstFault r

/-- A TK field that names no token and is not 63 (R68). -/
def tkBad (tk : BitVec 6) : Bool := decide (32 ≤ tk.toNat) && tk ≠ 63
/-- The token an engine operation names (R52). -/
def tkOf (tk : BitVec 6) : Option Nat := if tk = 63 then none else some tk.toNat

/-- Add 1 to a token of the core's own, for an engine operation issued at `pc` (R54, R57, R101). SRC of an overflow is the engine's code: the token
store has none of its own (log 101). -/
def State.ownPost (s : State) (c : Nat) (tk : Option Nat) (src pc : Nat) : State :=
  match tk with
  | none => s.refreshOn c
  | some k => s.postLive c k 1 src pc

/-- Whether a tile descriptor register is being loaded by a TDSET (R55). -/
def Arch.tdBusy (a : Arch) (rs : List (BitVec 4)) : Bool :=
  match a.tme with
  | some o => o.op == .tdset && rs.any fun r => r.toNat == o.td
  | none => false

end Sys2Proof.Machine
end

