-- ==== Sys2Proof/Machine/Branch.lean ====
section
/-! DEFINITION. The branch class (02 Table 2.7, R70). -/

namespace Sys2Proof.Machine

/-- The target PC + OFF, as an integer: below 0 or at and above CORE_PROG_LEN it is out of range (R70). -/
def State.target (s : State) (c : Nat) (off : BitVec 16) : Int := (s.pcOf c : Int) + off.toInt

/-- Take a branch to a target, or the PC range fault; the branch then has no effect (R70). -/
def State.branchTo (s : State) (c : Nat) (t : Int) (upd : Arch → Arch) : State :=
  if t < 0 ∨ ((s.core c).progLen.toNat : Int) ≤ t then s.seqFault c 0x08 0
  else (s.modArch c upd).jump c t.toNat

/-- A branch with a condition and a register update that happens whether or not it is taken. -/
def branchOp (i : Instr) (c : Nat) (f : BranchF) (own : Bool) (taken : Arch → Bool) (upd : Arch → Arch) (s : State) : Out :=
  s.issue i c f.g (firstFault [(f.rsv != 0, 0x01), (own, 0x01)]) id false fun t =>
    if taken (t.core c).arch then t.branchTo c (t.target c f.off) upd else (t.next c).modArch c upd

def execBr (c : Nat) (f : BranchF) (s : State) : Out := branchOp (.br c f) c f false (fun _ => true) id s
def execBrz (c : Nat) (f : BranchF) (s : State) : Out := branchOp (.brz c f) c f false (fun a => a.rdS f.sa == 0) id s
def execBrnz (c : Nat) (f : BranchF) (s : State) : Out := branchOp (.brnz c f) c f false (fun a => a.rdS f.sa != 0) id s

/-- CALL: s31 = PC + 1, then branch. -/
def execCall (c : Nat) (f : BranchF) (s : State) : Out :=
  branchOp (.call c f) c f false (fun _ => true) (fun a => a.wrS 31 (w64 (a.pc.toNat + 1))) s

/-- LOOP: sa = sa − 1, and branch if the result is not 0. A write to s0 is discarded, so the result of LOOP s0 is 0 − 1. -/
def execLoop (c : Nat) (f : BranchF) (s : State) : Out :=
  branchOp (.loop c f) c f false (fun a => a.rdS f.sa - 1 != 0) (fun a => a.wrS f.sa (a.rdS f.sa - 1)) s

end Sys2Proof.Machine
end

