-- ==== Sys2Proof/Machine/Flags.lean ====
section
/-! DEFINITION. What compares and predicates write: the core's only flags are its predicate registers (02 R60, R69, R706, R707). -/

namespace Sys2Proof.Machine

/-- All ones when true, zero when false (R69). -/
def predOf (b : Bool) : BitVec 64 := if b then BitVec.allOnes 64 else 0

/-- A field that names a predicate register must have its bits above [2:0] clear (R706). -/
def predField {n : Nat} (f : BitVec n) : Bool := decide (8 ≤ f.toNat)

/-- Whether predicate bit i × w enables lane i of width w bytes (R60). -/
def laneOn (p : BitVec 64) (w i : Nat) : Bool := p.getLsbD (i * w)

/-- Set or clear the predicate bits of lane i of width w bytes. -/
def laneBits (w i : Nat) (b : Bool) (p : Nat) : Nat :=
  let m := (2 ^ w - 1) * 2 ^ (i * w)
  if b then p ||| m else p - (p &&& m)

/-- The predicate a vector compare writes: the bits of enabled lanes from the compare, the others kept (R707). -/
def comparePred (w : Nat) (pm old : BitVec 64) (res : Nat → Bool) : BitVec 64 :=
  BitVec.ofNat 64 ((List.range (64 / w)).foldl (fun p i => if laneOn pm w i then laneBits w i (res i) p else p) old.toNat)

end Sys2Proof.Machine
end

