-- ==== Sys2Proof/Machine/Tile.lean ====
section
/-! DEFINITION. The tile-move engine (02 Table 2.8, R62, R71 to R74, R80, R714 to R716; 10 R398, R399). -/

namespace Sys2Proof.Machine

/-! ### What the TME reaches (R72, R73, 10 R398, R399) -/

/-- A grant that covers a range, for a read or a write. -/
def Grant.covers (g : Grant) (a len : Nat) (w : Bool) : Bool :=
  decide (g.base ≤ a) && decide (a + len ≤ g.base + g.len) && (if w then g.w else g.r)

/-- Whether a range of a channel touches a save area (10 R398). -/
def State.hitsSave (s : State) (g off len : Nat) : Bool :=
  (s.allocsOf g).any fun a => match a.use with
    | .save _ _ => decide (off < a.off + a.len) && decide (a.off < off + len)
    | _ => false

/-- The place in DRAM of an own-channel range: the work area of a job context, the pool share for a service context; never a save area (10 R399). The
number of a withdrawn channel has the host core's (13 R561). -/
def State.ownRange (s : State) (c off len : Nat) : Option (Nat × Nat) :=
  match s.ctxOn c with
  | none => none
  | some x =>
    match s.ctx? x with
    | none => none
    | some cx =>
      match cx.kind with
      | .job =>
        if off + len ≤ cx.workMb * 0x100000 then (s.areaOf (.work x c)).map fun a => (a.chan, a.off + off) else none
      | _ =>
        let g := if s.dram.withdrawn.contains c then s.hostOf c else c
        if s.poolBase g ≤ off && ! s.hitsSave g off len then some (g, off) else none

/-- Whether one entry of the context's grant table covers a range. Whether two entries that adjoin could cover it together no rule says: they do not
(log 101). -/
def State.granted (s : State) (c a len : Nat) (w : Bool) : Bool :=
  match s.ctxOn c with
  | none => false
  | some x =>
    match s.ctx? x with
    | none => false
    | some cx => cx.grants.any fun g => g.covers a len w

/-- Whether the partition of the context on a core owns a channel's cluster: no byte outside the partition's channels is reachable (10 R398). -/
def State.chanOwned (s : State) (c g : Nat) : Bool :=
  match (s.ctxOn c).bind s.ctx? with
  | none => false
  | some cx => s.ownerCore g == some cx.part

/-- The place of a TME access inside one row of Table 2.11, if it is allowed: the core's own scratchpad, the context's cluster banks, its own-channel
range, what its grants name (R72, R73, R88; 10 R398, R399). -/
def State.tmePlace (s : State) (c a len : Nat) (w : Bool) : Option Place :=
  match placeOf c a len with
  | .spm o => some (.coreN c o)
  | .clu o => if s.banksOwned c (clusterOf c) o len then some (.cluM (clusterOf c) o) else none
  | .own o => (s.ownRange c o len).map fun r => .chan r.1 r.2
  | .chan g o => if s.granted c a len w && s.chanOwned c g && ! s.hitsSave g o len then some (.chan g o) else none
  | .coreN n o => if n == c || s.granted c a len w then some (.coreN n o) else none
  | .cluM m o => if s.banksOwned c m o len then some (.cluM m o) else none
  | _ => none

/-- Pieces of a row: places and their lengths, in order. -/
abbrev Pieces := List (Place × Nat)

/-- A row of a descriptor cut where it passes from one row of Table 2.11 into the next: from channel g, core n or cluster m to the one after it, whose
addresses adjoin. A row is shorter than any of them, so there are at most two pieces. -/
def rowPieces (a len : Nat) : List (Nat × Nat) :=
  let e :=
    if a < 0x10000000000 then a + len
    else if a < 0x30000000000 then (a / 0x80000000 + 1) * 0x80000000
    else if a < 0x40000000000 then (a / 0x200000 + 1) * 0x200000
    else (a / 0x800000 + 1) * 0x800000
  if a + len ≤ e then [(a, len)] else [(a, e - a), (e, a + len - e)]

/-- The places of a row, if all of it is allowed. -/
def State.tmePieces (s : State) (c a len : Nat) (w : Bool) : Option Pieces :=
  let ps := (rowPieces a len).map fun e => (s.tmePlace c e.1 e.2 w, e.2)
  if ps.all (·.1.isSome) then some (ps.map fun e => (e.1.getD .none, e.2)) else none

/-- How an access ends: done, not allowed, or stopped at an uncorrectable DRAM line of a channel. -/
inductive Acc where
  | ok | bad
  | ue (g off : Nat)
deriving DecidableEq, Repr

/-- Whether a core of an entry point may read a run now: the run has been posted for a leg of the traversal under way, and the core has not released that leg
(09 R372). -/
def State.runOpen (s : State) (e c r : Nat) : Bool :=
  let es := (s.mdl.sheetOf e).ents
  match lget s.mdl.travs e with
  | none => false
  | some v => v.legs.any fun l =>
      (es.zipIdx.any fun x => x.1.leg == l.leg && x.1.run == r && ! l.due.contains x.2) &&
        (l.holders.contains c || es.all fun x => x.leg != l.leg || ((s.mdl.runs[x.run]?).map (·.chan)).getD 0 != c)

/-- What a core reads of a channel. To the program of an entry point the bytes of a run outside its interval, and of pool space that nothing holds, are
undefined: free values (09 R372). -/
def State.poolBytes (s : State) (c g o : Nat) (bs : Bytes) : State × Bytes :=
  match (s.ctxOn c).bind s.ctx? with
  | none => (s, bs)
  | some cx =>
    match cx.kind with
    | .entry e =>
      let open' (i : Nat) : Bool := match s.allocAt g (o + i) with
        | none => false
        | some a => match a.use with
          | .run r => s.runOpen e c r
          | _ => true
      if (List.range bs.length).all open' then (s, bs)
      else ({ s with free := s.free + bs.length },
        (List.range bs.length).map fun i => if open' i then bs.getD i 0 else BitVec.ofNat 8 (Config.freeNat (s.free + i)))
    | _ => (s, bs)

/-- Read the pieces of a row for the TME of a core. -/
def State.readPieces (c : Nat) : State → Pieces → State × Acc × Bytes
  | s, [] => (s, .ok, [])
  | s, (p, len) :: rest =>
    let here : State × Acc × Bytes := match p with
      | .coreN n o => (s.touchCore n o len, .ok, rdBytes (s.core n).arch.spm o len)
      | .cluM m o => (s.touchClu m o len, .ok, rdBytes (s.clu m).spm o len)
      | .chan g o => (match s.dramRead g o len with
        | (t, some bs) => ((t.poolBytes c g o bs).1, .ok, (t.poolBytes c g o bs).2)
        | (t, none) => (t, .ue g o, []))
      | _ => (s, .bad, [])
    match here with
    | (t, .ok, bs) => (match State.readPieces c t rest with
      | (u, .ok, cs) => (u, .ok, bs ++ cs)
      | r => r)
    | r => r

/-- Write the pieces of a row for the TME of a core. -/
def State.writePieces : State → Pieces → Bytes → State × Acc
  | s, [], _ => (s, .ok)
  | s, (p, len) :: rest, bs =>
    let b := bs.take len
    let here : State × Acc := match p with
      | .coreN n o => (((s.strayAt n o b.length).modArch n fun y => { y with spm := wrBytes y.spm o b }).touchCore n o b.length, .ok)
      | .cluM m o => ((s.modClu m fun k => { k with spm := wrBytes k.spm o b }).touchClu m o b.length, .ok)
      | .chan g o => (match s.dramWrite g o b with
        | (t, true) => (t, .ok)
        | (t, false) => (t, .ue g o))
      | _ => (s, .bad)
    match here with
    | (t, .ok) => State.writePieces t rest (bs.drop len)
    | r => r

/-- Write a row for the TME of core c. -/
def State.tmeWrite (s : State) (c a : Nat) (bs : Bytes) : State × Acc :=
  match s.tmePieces c a bs.length true with
  | none => (s, .bad)
  | some ps => s.writePieces ps bs

/-- What an uncorrectable line that a core reads does to the holders of work areas, save areas, model runs and KV (13 Table 13.1, 10 R415, 09 R383,
R384). The other holders find it when they next read it, or when Resurvey does; the requester's row is not moved (log 14). -/
def State.ueArea (s : State) (g off : Nat) : State :=
  match s.allocAt g off with
  | none => s
  | some a =>
    match a.use with
    | .work x _ => s.ctxLost x
    | .save x _ => s.ctxLost x
    | .run r => s.runLost a r
    | .kvRun q _ => s.kvLost q
    | _ => s

/-! ### The moves -/

/-- How far an operation came: all rows done, or the address that faulted. -/
abbrev Ran := State × Option Nat

/-- The bytes of pieces as they stand, without the effects of reading them. -/
def State.rawAt (s : State) (ps : Pieces) : Bytes :=
  ps.flatMap fun e => match e.1 with
    | .coreN n o => rdBytes (s.core n).arch.spm o e.2
    | .cluM m o => rdBytes (s.clu m).spm o e.2
    | .chan g o => rdBytes s.dram.mem (g * 0x80000000 + o) e.2
    | _ => []

/-- The memory that a place lies in, as a kind and a number, and the offset in it. -/
def Place.spot (p : Place) : Nat × Nat × Nat :=
  match p with
  | .coreN n o => (0, n, o)
  | .cluM m o => (1, m, o)
  | .chan g o => (2, g, o)
  | _ => (3, 0, 0)

/-- Where byte i of a row lies. -/
def Pieces.byteAt : Pieces → Nat → Nat × Nat × Nat
  | [], _ => (3, 0, 0)
  | (p, len) :: r, i => if i < len then (p.spot.1, p.spot.2.1, p.spot.2.2 + i) else Pieces.byteAt r (i - len)

/-- Whether a byte lies in a row at another place in it than i. -/
def Pieces.holds : Pieces → Nat × Nat × Nat → Nat → Bool
  | [], _, _ => false
  | (p, len) :: r, b, i =>
    (p.spot.1 == b.1 && p.spot.2.1 == b.2.1 && decide (p.spot.2.2 ≤ b.2.2) && decide (b.2.2 < p.spot.2.2 + len) && p.spot.2.2 + i != b.2.2) ||
      Pieces.holds r b (i - min i len)

/-- The bytes that a row moves. Where the same operation also writes a byte that it reads, no rule says which value moves: a byte that an earlier row
has changed is its old or its new value, and a byte of the row's own destination is any value (log 99). -/
def State.tileRowFill (s0 s : State) (p q : Pieces) (len : Nat) (bs : Bytes) : State × Bytes :=
  let old := s0.rawAt p
  let cur := s.rawAt p
  let hit (i : Nat) : Bool := q.holds (p.byteAt i) i
  if old = cur && ! (List.range len).any hit then (s, bs)
  else
    ({ s with free := s.free + len }, (List.range len).map fun i =>
      let n := Config.freeNat (s.free + i)
      if hit i then BitVec.ofNat 8 n
      else if old.getD i 0 = cur.getD i 0 ∨ n % 2 = 0 then bs.getD i 0
      else old.getD i 0)

/-- Move rows in order, until the core no longer holds the operation o: a row that is not allowed moves no byte and ends the operation with its address
(R73), and a lost line may end the context of the core (10 R415; 09 R383, R384). -/
def State.moveRows (s0 : State) (c len : Nat) (o : EngOp) : State → List (Nat × Nat) → Ran
  | s, [] => (s, none)
  | s, (a, b) :: rest =>
    if (s.core c).arch.tme != some o then (s, none)
    else
      match s.tmePieces c b len true, s.tmePieces c a len false with
      | none, _ => (s, some b)
      | _, none => (s, some a)
      | some q, some p =>
        match State.readPieces c s p with
        | (t, .ok, bs) =>
          let w := State.tileRowFill s0 t p q len bs
          (match w.1.writePieces q w.2 with
          | (u, .bad) => (u, some b)
          | (u, .ue g x) => State.moveRows s0 c len o (u.ueArea g x) rest
          | (u, .ok) => State.moveRows s0 c len o u rest)
        | (t, .ue g x, _) => State.moveRows s0 c len o (t.ueArea g x) rest
        | (t, .bad, _) => (t, some a)

/-- Fill rows in order. -/
def State.tileRowFills (c : Nat) (o : EngOp) (bs : Bytes) : State → List Nat → Ran
  | s, [] => (s, none)
  | s, b :: rest =>
    if (s.core c).arch.tme != some o then (s, none)
    else
      match s.tmeWrite c b bs with
      | (u, .bad) => (u, some b)
      | (u, .ue g x) => State.tileRowFills c o bs (u.ueArea g x) rest
      | (u, .ok) => State.tileRowFills c o bs u rest

/-- A value of 8 bytes repeated over a row (R715). -/
def fillRow (v : BitVec 64) (len : Nat) : Bytes :=
  ((List.replicate (len / 8 + 1) (bvBytes 8 v)).flatten).take len

/-- The index list of TGATH and TSCAT (R714). -/
def State.indexList (s : State) (c a n : Nat) : List Nat :=
  match s.rdLocal c a (4 * n) with
  | none => []
  | some bs => (List.range n).map fun i => fld bs (4 * i) 4

/-- A row address at an index: base + index × stride, exact, taken modulo 2⁶⁴ (R714). -/
def gatherRow (base : Nat) (stride : Int) (i : Nat) : Nat := lowBits 64 ((base : Int) + stride * (i : Int))

/-- Everything a TME operation does to data when it completes. -/
def State.tmeRun (s : State) (c : Nat) (o : EngOp) : Ran :=
  let d := descOf o.ta
  let sa := o.x.toNat
  match o.op with
  | .tmov => State.moveRows s c d.rowLen o s ((List.range d.rows).map fun i => (d.srcRow i, d.dstRow i))
  | .tgath =>
    let ix := s.indexList c sa o.n
    State.moveRows s c d.rowLen o (s.touchLocal c sa (4 * o.n)) ((List.range o.n).zip ix |>.map fun e => (gatherRow d.src d.sstride e.2, d.dstRow e.1))
  | .tscat =>
    let ix := s.indexList c sa o.n
    State.moveRows s c d.rowLen o (s.touchLocal c sa (4 * o.n)) ((List.range o.n).zip ix |>.map fun e => (d.srcRow e.1, gatherRow d.dst d.dstride e.2))
  | .tfill => State.tileRowFills c o (fillRow (o.x.setWidth 64) d.rowLen) s ((List.range d.rows).map d.dstRow)
  | .tdset =>
    match s.rdLocal c sa 32 with
    | none => (s, some sa)
    | some bs => ((s.modArch c fun a => a.wrT (BitVec.ofNat 4 o.td) (BitVec.ofNat 256 (leNat bs))).touchLocal c sa 32, none)
  | .tdget =>
    match s.wrLocal c sa (bvBytes 32 o.ta) with
    | none => (s, some sa)
    | some t => (t.touchLocal c sa 32, none)
  | _ => (s, none)

/-- Complete the TME's operation: its effect, then its token; an address fault posts none (R52, R101, R102). -/
def State.tmeComplete (s : State) (c : Nat) (o : EngOp) : State :=
  match s.tmeRun c o with
  | (t, some a) => t.coreFault c 0x02 false 4 o.pc a
  | (t, none) =>
    if (t.core c).arch.tme == some o then (t.modArch c fun a => { a with tme := none }).ownPost c o.tk 4 o.pc else t

/-! ### Issue -/

/-- Issue a tile-move instruction: it stalls while the TME holds an operation (R51), a guarded-off one posts its token (R57), and `startFault` is
the fault the engine raises when the operation starts: code and address (R62, R714). -/
def tileOp (i : Instr) (c : Nat) (f : TileF) (op : EOp) (tk63 : Bool) (startFault : State → BitVec 256 → BitVec 64 → Option (Nat × Nat)) (s : State) : Out :=
  let pc := s.pcOf c
  s.issue i c f.g (firstFault [(f.rsv != 0, 0x01), (tkBad f.tk, 0x01), (tk63 && f.tk != 63, 0x01)])
    (fun t => t.ownPost c (tkOf f.tk) 4 pc) (s.core c).arch.tme.isSome fun t0 =>
      let a := (t0.core c).arch
      let ta := a.rdT f.td
      let sa := a.rdS f.sa
      let t := t0.next c
      match startFault t ta sa with
      | some (code, addr) => t.coreFault c code false 4 pc addr
      | none =>
        t.modArch c fun y => { y with
          tme := some { op := op, pc := pc, tk := tkOf f.tk, ta := ta, td := f.td.toNat, x := sa.setWidth 512, n := f.cnt.toNat } }

/-- The descriptor fault of R62, which has no address. -/
def descFault (ta : BitVec 256) : Option (Nat × Nat) := if (descOf ta).ok then none else some (0x05, 0)

/-- The address fault of a scratchpad address of `len` bytes (R714). -/
def State.scratchFault (s : State) (c : Nat) (sa : BitVec 64) (len : Nat) : Option (Nat × Nat) :=
  if (s.rdLocal c sa.toNat (max 1 len)).isSome then none else some (0x02, sa.toNat)

def execTmov (c : Nat) (f : TileF) (s : State) : Out := tileOp (.tmov c f) c f .tmov false (fun _ ta _ => descFault ta) s
def execTgath (c : Nat) (f : TileF) (s : State) : Out :=
  tileOp (.tgath c f) c f .tgath false (fun t ta sa => (descFault ta).or (t.scratchFault c sa (4 * f.cnt.toNat))) s
def execTscat (c : Nat) (f : TileF) (s : State) : Out :=
  tileOp (.tscat c f) c f .tscat false (fun t ta sa => (descFault ta).or (t.scratchFault c sa (4 * f.cnt.toNat))) s
def execTfill (c : Nat) (f : TileF) (s : State) : Out := tileOp (.tfill c f) c f .tfill false (fun _ ta _ => descFault ta) s
def execTdset (c : Nat) (f : TileF) (s : State) : Out := tileOp (.tdset c f) c f .tdset true (fun t _ sa => t.scratchFault c sa 32) s
def execTdget (c : Nat) (f : TileF) (s : State) : Out := tileOp (.tdget c f) c f .tdget true (fun t _ sa => t.scratchFault c sa 32) s

/-- Engines run while the module runs and the core is not saving its image: an operation may still end while the core stops (R93). -/
def State.engineRuns (s : State) (c : Nat) : Bool :=
  s.alive 6 && ! s.asleep && ((s.core c).run == .running || (s.core c).run == .held || (s.core c).run == .stopping || ((s.core c).run == .idle && (s.core c).halted))

/-- TME_OPERATION_COMPLETE: the TME's transfer completes and posts its token. -/
def execTmeOperationComplete (c : Nat) (s : State) : Out :=
  guardUnit (coreOk c) <|
    match (s.core c).arch.tme with
    | none => .next s
    | some o => if s.engineRuns c then .next (s.tmeComplete c o) else .next s

end Sys2Proof.Machine
end

