-- ==== Sys2Proof/Machine/Engine.lean ====
section
/-! DEFINITION. What the engines share: what MXE, VXE and SLE reach, packed elements, rows of descriptors (02 R62, R74, R88, R709). -/

namespace Sys2Proof.Machine

/-- The fault of an engine access to a range: a descriptor fault outside the scratchpads (R74), an address fault in a cluster bank that the
context does not own (R88), none where it is allowed. Its address is that of the range's first byte (R102, log 101). -/
def State.reach (s : State) (c a len : Nat) : Option (Nat × Nat) :=
  match placeOf c a len with
  | .spm _ => none
  | .clu o => if s.banksOwned c (clusterOf c) o len then none else some (0x02, a)
  | _ => some (0x05, 0)

/-- The first fault of a list of ranges. -/
def State.reachAll (s : State) (c : Nat) : List (Nat × Nat) → Option (Nat × Nat)
  | [] => none
  | (a, len) :: r => (s.reach c a len).or (State.reachAll s c r)

/-- The source rows, or the destination rows, of a descriptor as ranges. -/
def Desc.srcRows (d : Desc) (n : Nat) : List (Nat × Nat) := (List.range n).map fun i => (d.srcRow i, d.rowLen)
def Desc.dstRows (d : Desc) (n : Nat) : List (Nat × Nat) := (List.range n).map fun i => (d.dstRow i, d.rowLen)

/-- A descriptor fault without an address, for a broken condition. -/
def descIf (bad : Bool) : Option (Nat × Nat) := if bad then some (0x05, 0) else none

/-- Bytes of a range that has been checked. -/
def State.rdOk (s : State) (c a len : Nat) : Bytes := (s.rdLocal c a len).getD (zeros len)

/-- The bytes of the rows of a descriptor as one stream. -/
def State.rdStream (s : State) (c : Nat) (rows : List (Nat × Nat)) : Bytes := rows.flatMap fun r => s.rdOk c r.1 r.2

/-- Write a stream of bytes into rows, in order; bytes of the rows beyond the stream are unchanged. -/
def State.wrStream (c : Nat) : State → List (Nat × Nat) → Bytes → State
  | s, [], _ => s
  | s, (a, len) :: rest, bs =>
    if bs = [] then s else
      let u := (s.wrLocal c a (bs.take len)).getD s
      State.wrStream c (u.touchLocal c a (bs.take len).length) rest (bs.drop len)

/-- Mark ranges read by an engine as touched (04 R166). -/
def State.touchAll (s : State) (c : Nat) (rows : List (Nat × Nat)) : State :=
  rows.foldl (fun t r => t.touchLocal c r.1 r.2) s

/-- Elements of `b` bits packed in a string, element k at bits [k·b + b − 1 : k·b] (R709). -/
def unpack (b n : Nat) (bs : Bytes) : List Nat :=
  let v := leNat bs
  (List.range n).map fun k => v / 2 ^ (k * b) % 2 ^ b

def pack (b : Nat) (es : List Nat) : Bytes :=
  leBytes (cdiv (es.length * b) 8) (es.reverse.foldl (fun acc e => acc * 2 ^ b + e % 2 ^ b) 0)

/-- Split a list into pieces of n. -/
def chunks {α : Type} (n : Nat) : Nat → List α → List (List α)
  | 0, _ => []
  | fuel + 1, xs => if xs.isEmpty then [] else xs.take n :: chunks n fuel (xs.drop n)

/-- End an engine operation with the fault of its check, or run it. The engine's code in CORE_FAULT.SRC is `src`. -/
def State.startEngine (s : State) (c src pc : Nat) (flt : Option (Nat × Nat)) (go : State → State) : State :=
  match flt with
  | some (code, a) => s.coreFault c code false src pc a
  | none => go s

end Sys2Proof.Machine
end

