-- ==== Sys2Proof/Machine/Quant.lean ====
section
/-! DEFINITION. The quantisation unit (03 R140 to R157). -/

namespace Sys2Proof.Machine

/-! ### Tensor slots (Table 3.4) -/

def Arch.slotGet (a : Arch) (slot off n : Nat) : Nat := rdLE a.slots (slot * 1024 + off) n
def Arch.slotSet (a : Arch) (slot off n v : Nat) : Arch := { a with slots := wrLE a.slots (slot * 1024 + off) n v }

/-- The fields of a slot that a quantising operation uses. -/
structure SlotCfg where
  fmt : Nat
  zpEn : Bool
  dyn : Bool
  mse : Bool
  epi : Bool
  smooth : Nat
deriving DecidableEq, Repr

def Arch.slotCfg (a : Arch) (slot : Nat) : SlotCfg :=
  let w := a.slotGet slot 0 4
  { fmt := bits w 3 0, zpEn := bit w 4, dyn := bit w 5, mse := bit w 6, epi := bit w 7, smooth := bits w 15 8 }

/-- FP32 one, and the smallest PROPOSED, 2⁻¹²⁶. -/
def f32one : Nat := 0x3F800000
def f32tiny : Nat := 0x00800000

/-- SCALE, taken as 1.0 when it is zero, negative, subnormal or not finite (R143). -/
def scaleUse (w : Nat) : Nat := if 0x00800000 ≤ w ∧ w < 0x7F800000 then w else f32one

def f32lt (a b : Nat) : Bool := (fp32.dec a).lt (fp32.dec b)
def f32max (a b : Nat) : Nat := if f32lt a b then b else a
def f32min (a b : Nat) : Nat := if f32lt b a then b else a
def f32abs (a : Nat) : Nat := a % 2 ^ 31
def f32neg (a : Nat) : Nat := Nat.xor a 0x80000000
def f32ofNat (n : Nat) : Nat := fp32.cvt (Flt.ofInt n 0)

/-- HEADROOM; 0 acts as 1.0. -/
def headroom (w : Nat) : Nat := if w % 2 ^ 31 = 0 then f32one else w

/-- QMAX of a target (R151). -/
def qmax (fmt : Nat) : Nat := fp32.cvt (fmtMax fmt)

/-- The scale of a range by the formula of the close (R151 step 4): symmetric from the largest magnitude, asymmetric from both ends. -/
def closeScale (cfg : SlotCfg) (hr hi lo : Nat) : Nat :=
  if fmtIsMx cfg.fmt then f32one else
    let v := if cfg.zpEn then f32div (f32mul (f32sub hi lo) hr) (f32ofNat (2 ^ fmtBits cfg.fmt - 1)) else f32div (f32mul hi hr) (qmax cfg.fmt)
    if f32lt v f32tiny then f32tiny else v

/-! ### Quantising (R143 to R146) -/

/-- One quantised element: its pattern, whether it saturated, whether it underflowed, and the value it stands for before the scale. -/
structure QElem where
  pat : Nat
  sat : Bool
  uflow : Bool
  val : Flt
deriving DecidableEq, Repr

/-- Whether rounding into a floating format passes its largest finite value. -/
def fltSat (f : FFmt) (x : Flt) : Bool :=
  match x with
  | .fin _ m e => decide (f.maxPat < f.roundMag m e)
  | .inf _ => true
  | .nan => false

/-- Quantise one value to a format that is not MX: x × r, plus ZP for an integer target (R143, R145). A NaN becomes 0 in an integer format before ZP is
added (R126, log 101). -/
def quantOne (fmt : Nat) (zp : Int) (r : Nat) (x : Flt) : QElem :=
  let v := x.mul (fp32.dec r)
  let nz := x.isFin && ! x.isZero
  match fmtFloat fmt with
  | some f =>
    let p := f.cvt v
    { pat := p, sat := ! x.isNan && fltSat f v, uflow := nz && (f.dec p).isZero, val := f.dec p }
  | none =>
    let (lo, hi) := intRange fmt
    let raw : Int := match v with
      | .nan => zp
      | .inf n => if n then lo - 1 else hi + 1
      | .fin n m e => smant n (rneAt m e 0) + zp
    let q := clampInt lo hi raw
    { pat := lowBits (fmtBits fmt) q, sat := ! x.isNan && raw != q, uflow := nz && q == zp, val := Flt.ofInt (q - zp) 0 }

/-- The largest exponent of an element of an MX format. -/
def mxEmax (fmt : Nat) : Int :=
  match fmt with
  | 0x7 => 8
  | 0x8 => 15
  | 0x9 => 2
  | 0xA => 4
  | 0xB => 2
  | _ => 0

/-- floor(log2) of a finite nonzero value. -/
def fltLog2 (x : Flt) : Int :=
  match x with
  | .fin _ m e => (Nat.log2 m : Int) + e
  | _ => 0

/-- The E8M0 scale of a block by OCP MX v1.0: the exponent of the largest magnitude less the element format's largest exponent. A NaN in a
format without NaN gives 0xFF (R126). A block of zeros takes 0, and an exponent outside 0 to 254 is clamped (log 101). What an infinite magnitude gives,
the spec does not say: a free value. -/
def mxScale (fmt seed : Nat) (vs : List Flt) : Nat :=
  let hasNan := fmt == 0x7 || fmt == 0x8
  if ! hasNan && vs.any (·.isNan) then 255
  else if vs.any (fun v => ! v.isFin && ! v.isNan) then Config.freeNat seed % 255
  else
    let big := (vs.filter fun v => v.isFin && ! v.isZero).map fltLog2
    match big.max? with
    | none => 0
    | some e => (clampInt 0 254 (e - mxEmax fmt + 127)).toNat

/-- Quantise one block of an MX target: its scale and its elements (R143). Under the scale 0xFF every element's pattern is 0 (R126, log 101). -/
def quantBlock (fmt r seed : Nat) (xs : List Flt) : Nat × List QElem :=
  let vs := xs.map fun x => x.mul (fp32.dec r)
  let sc := mxScale fmt seed vs
  (sc, (xs.zip vs).map fun e =>
    let nz := e.1.isFin && ! e.1.isZero
    let v := if sc = 255 then Flt.nan else e.2.mul (.fin false 1 (127 - (sc : Int)))
    let p := cvtElem fmt v
    let sat := match fmtFloat fmt with
      | some f => fltSat f v
      | none => match v with
        | .fin n m x => let q := smant n (rneAt m x (-6)); q != clampInt (-127) 127 q
        | .inf _ => true
        | .nan => false
    { pat := p, sat := ! e.1.isNan && (sat || ! e.1.isFin), uflow := nz && sc != 255 && (decElem fmt p).isZero,
      val := (decElem fmt p).mul (e8m0 sc) })

/-- Statistics of one operation (R145, R148). -/
structure QStat where
  elems : Nat
  sats : Nat
  uflow : Nat
  nans : Nat
  hi : Option Nat
  lo : Option Nat
deriving DecidableEq, Repr

/-- The statistics of inputs (as FP32 patterns) and their quantised elements; NaN inputs count in NANS alone. -/
def qstat (xs : List Nat) (qs : List QElem) : QStat :=
  let fin := xs.filter fun x => (fp32.dec x).isFin
  { elems := (xs.filter fun x => ! (fp32.dec x).isNan).length, sats := (qs.filter (·.sat)).length, uflow := (qs.filter (·.uflow)).length,
    nans := (xs.filter fun x => (fp32.dec x).isNan).length,
    hi := fin.foldl (fun b x => some (match b with | none => x | some y => f32max y x)) none,
    lo := fin.foldl (fun b x => some (match b with | none => x | some y => f32min y x)) none }

/-- Merge an operation's statistics into a slot, as it completes (R148, R156). `mse` holds the squared errors; their order is not defined. -/
def Arch.mergeStat (a : Arch) (slot : Nat) (st : QStat) (mse : List Nat) (seed : Nat) : Arch :=
  let n0 := a.slotGet slot 0x28 8
  let empty := ! a.qfin.contains slot
  let put (b : Arch) (off v : Nat) : Arch := b.slotSet slot off 8 (v % 2 ^ 64)
  let b := match st.hi with
    | none => a
    | some h => { a with qfin := setIns a.qfin slot }.slotSet slot 0x20 4 (if empty then h else f32max (a.slotGet slot 0x20 4) h)
  let d := match st.lo with
    | none => b
    | some l => b.slotSet slot 0x24 4 (if empty then l else f32min (a.slotGet slot 0x24 4) l)
  let e := put (put (put (put d 0x28 (n0 + st.elems)) 0x30 (a.slotGet slot 0x30 8 + st.sats)) 0x38 (a.slotGet slot 0x38 8 + st.uflow))
    0x40 (a.slotGet slot 0x40 8 + st.nans)
  if mse.isEmpty then e else e.slotSet slot 0x48 4 (f32sum seed (a.slotGet slot 0x48 4 :: mse))

/-- The squared errors of the finite inputs (R156). -/
def mseTerms (scale : Nat) (xs : List Nat) (qs : List QElem) : List Nat :=
  (xs.zip qs).filterMap fun e =>
    if (fp32.dec e.1).isFin then
      let d := f32sub e.1 (f32mul (fp32.cvt e.2.val) scale)
      some (f32mul d d)
    else none

/-- Whether the saturated elements exceed the limit (R153). -/
def overLimit (lim : Nat) (st : QStat) : Bool := decide (st.elems * lim < st.sats * 2 ^ 20)

/-! ### Events (R157) -/

/-- Raise a QNT event: its bit, QNT_LAST_EVT, and one record for each slot, round and kind. Kinds: 0 replay, 1 persistent saturation, 2 over limit. -/
def State.qntEvent (s : State) (c slot kind : Nat) : State :=
  let k := s.core c
  let round := k.arch.slotGet slot 0x58 4
  let x := k.ctx.toNat
  let t := ((s.modCore c fun k => { k with qntLast := w32 (slot + kind * 16 + x * 65536) }).setEvt (.qnt c) kind).countErr (.qnt c)
  if mget 0 k.arch.qmark (slot * 3 + kind) = round + 1 then t else
    (t.modArch c fun a => { a with qmark := mset 0 a.qmark (slot * 3 + kind) (round + 1) }).fbRecord (0x3001 + kind) (words [c, x, slot, round])

/-! ### Epilogue vectors (R136, R146) -/

/-- One epilogue entry (Table 3.3). -/
def epiEntry (sum zp flags scale count : Nat) : Bytes :=
  leBytes 4 sum ++ leBytes 2 zp ++ leBytes 2 flags ++ leBytes 4 scale ++ leBytes 4 count

/-- The sum of stored quantised values of a line of elements: an integer format's values, wrapped; for a floating format the spec names no
integer sum: a free value. -/
def epiSum (fmt seed : Nat) (qs : List QElem) : Nat :=
  if fmtIsInt fmt then
    lowBits 32 ((qs.map fun q => if fmt = 0x1 ∨ fmt = 0x3 then (q.pat : Int) else sx (fmtBits fmt) q.pat).foldl (· + ·) 0)
  else Config.freeNat seed % 2 ^ 32

/-- The epilogue vector of rows of quantised elements: an entry per lane, or per row with SUMAX. -/
def epiVector (fmt zp flags scale seed : Nat) (sumax : Bool) (rows : List (List QElem)) : Bytes :=
  if sumax then rows.flatMap fun r => epiEntry (epiSum fmt seed r) zp flags scale r.length
  else (List.range 32).flatMap fun j =>
    let col := rows.filterMap fun r => r[j]?
    epiEntry (epiSum fmt seed col) zp flags scale col.length

/-! ### A quantising operation (R142 to R148, R153 to R155) -/

/-- Quantise rows of FP32 patterns to a target at a scale: elements by row, and for an MX target the scale rows, one per 32 rows. -/
def quantRows (fmt : Nat) (zp : Int) (scale seed : Nat) (rows : List (List Nat)) : List (List QElem) × List (List Nat) :=
  let r := f32div f32one scale
  if fmtIsMx fmt then
    let lanes := ((rows.map (·.length)).max?).getD 0
    let blocks := chunks 32 (rows.length + 1) rows
    let done := blocks.map fun b => (List.range lanes).map fun j => quantBlock fmt r seed (b.filterMap fun row => row[j]?.map fp32.dec)
    (done.flatMap fun cols => (List.range 32).map fun i => cols.filterMap fun col => col.2[i]?, done.map fun cols => cols.map (·.1))
  else (rows.map fun row => row.map fun x => quantOne fmt zp r (fp32.dec x), [])

/-- The result of a quantising operation: elements, scale rows, the flags and scale of its epilogue, its statistics, and what it replays or raises. -/
structure QRun where
  rows : List (List QElem)
  scales : List (List Nat)
  scale : Nat
  stat : QStat
  replayed : Bool
  persist : Bool
  overLim : Bool
deriving DecidableEq, Repr

/-- Quantise, with the saturation replay of hardware mode (R153, R154) or the mark of R155. -/
def quantRun (cfg : SlotCfg) (hw : Bool) (lim hr : Nat) (zp : Int) (scale0 seed : Nat) (rows : List (List Nat)) : QRun :=
  let scale := scaleUse scale0
  let xs := rows.flatten
  let (q, sc) := quantRows cfg.fmt zp scale seed rows
  let st := qstat xs q.flatten
  let ovl := overLimit lim st
  if ovl && hw && cfg.dyn && ! fmtIsMx cfg.fmt then
    let hi := st.hi.getD 0
    let lo := st.lo.getD 0
    let em := if cfg.zpEn then closeScale cfg hr (f32max hi 0) (f32min lo 0) else closeScale cfg hr (f32max (f32abs hi) (f32abs lo)) 0
    let (q2, sc2) := quantRows cfg.fmt zp (scaleUse em) seed rows
    let st2 := qstat xs q2.flatten
    { rows := q2, scales := sc2, scale := em, stat := st2, replayed := true, persist := overLimit lim st2, overLim := false }
  else { rows := q, scales := sc, scale := scale, stat := st, replayed := false, persist := false, overLim := ovl }

/-- What a quantising operation leaves in its slot and raises: statistics, MARK, PERSIST, OVER, the emergency scale, its counts and events. -/
def State.quantSettle (s : State) (c slot : Nat) (cfg : SlotCfg) (q : QRun) (xs : List Nat) : State :=
  let mse := if cfg.mse then mseTerms (scaleUse q.scale) xs q.rows.flatten else []
  let seed := s.free
  let t := { s with free := s.free + 2 * mse.length + 2 }
  let u := t.modArch c fun a =>
    let b := a.mergeStat slot q.stat mse seed
    let st := b.slotGet slot 4 4
    let b := b.slotSet slot 4 4 (st ||| (b2n q.replayed + 2 * b2n q.persist + 4 * b2n q.overLim))
    if q.replayed then (b.slotSet slot 8 4 q.scale).slotSet slot 0x5C 4 ((b.slotGet slot 0x5C 4 + 1) % 2 ^ 32) else b
  let v := if q.replayed then (u.modCore c fun k => { k with replayCnt := satBv k.replayCnt 1 }).qntEvent c slot 0 else u
  let w := if q.persist then v.qntEvent c slot 1 else v
  if q.overLim then w.qntEvent c slot 2 else w

/-- Write the epilogue vector of an operation at EPI_ADDR, and advance it (R146); the address faults as an engine access. -/
def State.epiFault (s : State) (c slot size : Nat) (on : Bool) : Option (Nat × Nat) :=
  if on then
    let a := (s.core c).arch.slotGet slot 0x50 8
    if (s.rdLocal c a size).isSome then none else some (0x02, a)
  else none

def State.epiWrite (s : State) (c slot : Nat) (on : Bool) (v : Bytes) : State :=
  if on then
    let a := (s.core c).arch.slotGet slot 0x50 8
    let t := ((s.wrLocal c a v).getD s).touchLocal c a v.length
    t.modArch c fun y => y.slotSet slot 0x50 8 ((a + v.length) % 2 ^ 64)
  else s

/-- The mode of scale adaptation of a core: hardware mode (R151). -/
def State.qntHw (s : State) (c : Nat) : Bool := ! s.hostMode (.qnt c)

/-! ### VSQNT -/

/-- A format that a quantising VSQNT reads, and one that it may write (R142). -/
def qntIn (fmt : Nat) : Bool := fmt == 0xE || fmt == 0x6 || fmt == 0x4 || fmt == 0x5
def qntOut (fmt : Nat) : Bool := fmt != 0xD && fmt != 0xE && fmt != 0xF
/-- ZP_EN is allowed with an unsigned integer target alone. -/
def zpOk (cfg : SlotCfg) (fmt : Nat) : Bool := ! cfg.zpEn || fmt == 0x1 || fmt == 0x3

/-- The rows that a quantising VSQNT writes in TB: data rows, and for an MX target a scale row after each 32 (R108, R144). -/
def Desc.dataRows (d : Desc) (mx : Bool) : Nat := if mx then d.rows / 33 * 32 else d.rows

/-- The fault of a quantising VSQNT when it starts (R62, R74, R142, R144, R146). An MX target has rows of 32 lanes, one for each scale of a scale row, and
SSTRIDE of at least 32 (R108). -/
def State.quantFault (s : State) (c slot : Nat) (ta tb : Desc) (sumax : Bool) : Option (Nat × Nat) :=
  let cfg := (s.core c).arch.slotCfg slot
  let mx := fmtIsMx cfg.fmt
  let lanes32 := tb.rowLen * 8 == 32 * fmtBits cfg.fmt
  let dst := (List.range tb.rows).map fun i => (tb.dstRow i, if mx && i % 33 == 32 then 32 else tb.rowLen)
  (descIf (! ta.ok || ! tb.ok || ! qntIn ta.fmt || tb.fmt != cfg.fmt || ! qntOut cfg.fmt || ! zpOk cfg cfg.fmt || (cfg.epi && ! sumax && ! lanes32) ||
    (mx && (ta.rows % 32 != 0 || tb.rows % 33 != 0 || ! lanes32 || decide (tb.sstride < 32))))).or
  ((s.reachAll c (ta.srcRows ta.rows)).or (s.reachAll c dst))

/-- The inputs of a quantising VSQNT as FP32 patterns, laid out by the rows of TB; input elements beyond TB's room, and places of TB beyond the
input, are left (log 15). -/
def State.quantInput (s : State) (c : Nat) (ta : Desc) (perRow rows : Nat) : List (List Nat) :=
  let w := fmtBits ta.fmt
  let xs := (ta.srcRows ta.rows).flatMap fun r => (unpack w (r.2 * 8 / w) (s.rdOk c r.1 r.2)).map fun p => fp32.cvt (decElem ta.fmt p)
  chunks perRow rows xs

/-- The positions of data row i and of scale row b among the rows of an MX operand (R108). -/
def mxRow (i : Nat) : Nat := i + i / 32
def mxScaleRow (b : Nat) : Nat := 33 * b + 32

/-- Complete a quantising VSQNT: output, epilogue, statistics. -/
def State.quantStream (s : State) (c : Nat) (o : EngOp) : Ran :=
  let ta := descOf o.ta
  let tb := descOf o.tb
  let slot := o.a
  let sumax := o.acc
  let a := (s.core c).arch
  let cfg := { a.slotCfg slot with fmt := tb.fmt }
  let mx := fmtIsMx cfg.fmt
  let perRow := tb.rowLen * 8 / fmtBits cfg.fmt
  let rows := s.quantInput c ta perRow (tb.dataRows mx)
  let zp : Int := if cfg.zpEn then o.zp.toInt else 0
  let q := quantRun cfg (s.qntHw c) (s.core c).satLimit.toNat (headroom (a.slotGet slot 0x10 4)) zp o.scale.toNat s.free rows
  let s1 := { s with free := s.free + 1 }
  let epi := epiVector cfg.fmt (lowBits 16 zp) (b2n q.replayed + 2 * b2n q.persist) (scaleUse q.scale) s1.free sumax
    (q.rows ++ List.replicate (tb.dataRows mx - q.rows.length) [])
  match s1.epiFault c slot epi.length cfg.epi with
  | some (_, a) => (s1, some a)
  | none =>
    let s2 := { s1 with free := s1.free + 1 }
    let s3 := ((List.range q.rows.length).zip q.rows).foldl (fun t e =>
      let addr := tb.dstRow (if mx then mxRow e.1 else e.1)
      let bs := pack (fmtBits cfg.fmt) (e.2.map (·.pat))
      ((t.wrLocal c addr bs).getD t).touchLocal c addr bs.length) (s2.touchAll c (ta.srcRows ta.rows))
    let s4 := ((List.range q.scales.length).zip q.scales).foldl (fun t e =>
      let addr := tb.dstRow (mxScaleRow e.1)
      let bs := e.2.map w8
      ((t.wrLocal c addr bs).getD t).touchLocal c addr bs.length) s3
    ((s4.epiWrite c slot cfg.epi epi).quantSettle c slot cfg q rows.flatten, none)

/-- Close a round of a slot (R151, R152, R155). -/
def Arch.slotClose (a : Arch) (slot : Nat) (hw : Bool) : Arch :=
  let cfg := a.slotCfg slot
  let al := f32div (f32ofNat cfg.smooth) (f32ofNat 256)
  let be := f32div (f32ofNat (256 - cfg.smooth)) (f32ofNat 256)
  let mix (old x : Nat) : Nat := f32add (f32mul al old) (f32mul be x)
  let rmax := a.slotGet slot 0x20 4
  let rmin := a.slotGet slot 0x24 4
  let hr := headroom (a.slotGet slot 0x10 4)
  let b := if a.slotGet slot 0x28 8 = 0 then a else
    let smax := if cfg.zpEn then mix (a.slotGet slot 0x18 4) (f32max rmax 0) else mix (a.slotGet slot 0x18 4) (f32max (f32abs rmax) (f32abs rmin))
    let smin := if cfg.zpEn then mix (a.slotGet slot 0x1C 4) (f32min rmin 0) else a.slotGet slot 0x1C 4
    let prop := closeScale cfg hr smax smin
    let e := ((a.slotSet slot 0x18 4 smax).slotSet slot 0x1C 4 smin).slotSet slot 0x14 4 prop
    if hw && cfg.dyn then
      let f := e.slotSet slot 8 4 prop
      if cfg.zpEn then
        let r := intRange cfg.fmt
        f.slotSet slot 0xC 2 (lowBits 16 (cvtInt r.1 r.2 0 ((fp32.dec (f32neg smin)).div (fp32.dec prop))))
      else f
    else e
  let z := [(0x20, 4), (0x24, 4), (0x28, 8), (0x30, 8), (0x38, 8), (0x40, 8), (0x48, 4)].foldl (fun y e => y.slotSet slot e.1 e.2 0) b
  let st := z.slotGet slot 4 4
  ({ z with qfin := setDel z.qfin slot }.slotSet slot 4 4 (st / 4 * 4)).slotSet slot 0x58 4 ((z.slotGet slot 0x58 4 + 1) % 2 ^ 32)

/-- What of a 1 KiB slot image a load keeps: bytes 0x060 to 0x3FF read as 0 (R140). -/
def slotImage (bs : Bytes) : Bytes := bs.take 0x60 ++ zeros (1024 - 0x60)

/-- Load a slot from its image. Where its round has elements, RMAX and RMIN stand for finite inputs. -/
def Arch.slotLoad (a : Arch) (slot : Nat) (bs : Bytes) : Arch :=
  { a with slots := wrBytes a.slots (slot * 1024) (slotImage bs), qfin := if fld bs 0x28 8 = 0 then setDel a.qfin slot else setIns a.qfin slot }

end Sys2Proof.Machine
end

