-- ==== Sys2Proof/Machine/Vector.lean ====
section
/-! DEFINITION. The vector class: register instructions and stream operations (02 Table 2.9, R56, R60, R67, R707 to R712; 03 R141 to R150;
05 R199, R200). -/

namespace Sys2Proof.Machine

/-! ### Lanes -/

/-- Lane width in bytes. -/
def vbytes (f : VecF) : Nat := 2 ^ f.w.toNat

/-- The lane i of width w bytes of a vector register. -/
def vlane (w i : Nat) (v : BitVec 512) : Nat := v.toNat / 2 ^ (8 * w * i) % 2 ^ (8 * w)

/-- A register with each enabled lane replaced, the others kept (R60). -/
def vmap (w : Nat) (pm : BitVec 64) (old : BitVec 512) (g : Nat → Nat) : BitVec 512 :=
  BitVec.ofNat 512 ((List.range (64 / w)).foldr (fun i acc =>
    (if laneOn pm w i then g i % 2 ^ (8 * w) else vlane w i old) + 2 ^ (8 * w) * acc) 0)

/-- Issue a vector register instruction: it stalls while a stream operation is in the VXE (R56). -/
def vecOp (i : Instr) (c : Nat) (f : VecF) (pre : List (Bool × Nat)) (upd : Arch → Arch) (s : State) : Out :=
  s.issue i c f.g (firstFault pre) id (s.core c).arch.vxe.isSome fun t => (t.next c).modArch c upd

/-- An operation lane by lane on va, vb and the present value of vd. -/
def vecBin (i : Instr) (c : Nat) (f : VecF) (pre : List (Bool × Nat)) (op : Nat → Nat → Nat → Nat) (s : State) : Out :=
  vecOp i c f pre (fun a =>
    let w := vbytes f
    let d := a.rdV f.vd
    a.wrV f.vd (vmap w (a.rdP f.pm) d fun i => op (vlane w i (a.rdV f.va)) (vlane w i (a.rdV f.vb)) (vlane w i d))) s

/-- A signed lane. -/
def vsx (f : VecF) (v : Nat) : Int := sx (8 * vbytes f) v
/-- The pattern of an integer in a lane. -/
def vpat (f : VecF) (n : Int) : Nat := lowBits (8 * (vbytes f)) n
/-- The shift count of a lane: the low log₂ W bits (R707). -/
def vcount (f : VecF) (v : Nat) : Nat := v % (8 * (vbytes f))

def execVadd (c : Nat) (f : VecF) (s : State) : Out := vecBin (.vadd c f) c f [] (fun x y _ => x + y) s
def execVsub (c : Nat) (f : VecF) (s : State) : Out := vecBin (.vsub c f) c f [] (fun x y _ => vpat f ((x : Int) - y)) s
def execVmul (c : Nat) (f : VecF) (s : State) : Out := vecBin (.vmul c f) c f [] (fun x y _ => x * y) s
def execVmin (c : Nat) (f : VecF) (s : State) : Out := vecBin (.vmin c f) c f [] (fun x y _ => if vsx f x ≤ vsx f y then x else y) s
def execVmax (c : Nat) (f : VecF) (s : State) : Out := vecBin (.vmax c f) c f [] (fun x y _ => if vsx f x ≤ vsx f y then y else x) s
def execVminu (c : Nat) (f : VecF) (s : State) : Out := vecBin (.vminu c f) c f [] (fun x y _ => min x y) s
def execVmaxu (c : Nat) (f : VecF) (s : State) : Out := vecBin (.vmaxu c f) c f [] (fun x y _ => max x y) s
def execVand (c : Nat) (f : VecF) (s : State) : Out := vecBin (.vand c f) c f [] (fun x y _ => x &&& y) s
def execVor (c : Nat) (f : VecF) (s : State) : Out := vecBin (.vor c f) c f [] (fun x y _ => x ||| y) s
def execVxor (c : Nat) (f : VecF) (s : State) : Out := vecBin (.vxor c f) c f [] (fun x y _ => x ^^^ y) s
def execVshl (c : Nat) (f : VecF) (s : State) : Out := vecBin (.vshl c f) c f [] (fun x y _ => x * 2 ^ vcount f y) s
def execVshr (c : Nat) (f : VecF) (s : State) : Out := vecBin (.vshr c f) c f [] (fun x y _ => x / 2 ^ vcount f y) s
def execVsar (c : Nat) (f : VecF) (s : State) : Out := vecBin (.vsar c f) c f [] (fun x y _ => vpat f (vsx f x / 2 ^ vcount f y)) s

/-- VADDS: saturating signed add. -/
def execVadds (c : Nat) (f : VecF) (s : State) : Out :=
  vecBin (.vadds c f) c f [] (fun x y _ => vpat f (clampInt (-(2 ^ (8 * (vbytes f) - 1))) (2 ^ (8 * (vbytes f) - 1) - 1) (vsx f x + vsx f y))) s

/-- A vector compare: predicate VD[2:0], VD[3] = 0 (R706, R707). -/
def vecCmp (i : Instr) (c : Nat) (f : VecF) (rel : Nat → Nat → Bool) (s : State) : Out :=
  vecOp i c f [(predField f.vd, 0x01)] (fun a =>
    let w := vbytes f
    let p : BitVec 3 := f.vd.setWidth 3
    a.wrP p (comparePred w (a.rdP f.pm) (a.rdP p) fun i => rel (vlane w i (a.rdV f.va)) (vlane w i (a.rdV f.vb)))) s

def execVcmpeq (c : Nat) (f : VecF) (s : State) : Out := vecCmp (.vcmpeq c f) c f (fun x y => x == y) s
def execVcmplt (c : Nat) (f : VecF) (s : State) : Out := vecCmp (.vcmplt c f) c f (fun x y => decide (vsx f x < vsx f y)) s
def execVcmpltu (c : Nat) (f : VecF) (s : State) : Out := vecCmp (.vcmpltu c f) c f (fun x y => decide (x < y)) s

/-- VSEL: PM chooses va or vb, and every lane is written. -/
def execVsel (c : Nat) (f : VecF) (s : State) : Out :=
  vecOp (.vsel c f) c f [] (fun a =>
    let w := vbytes f
    a.wrV f.vd (vmap w (BitVec.allOnes 64) (a.rdV f.vd) fun i =>
      if laneOn (a.rdP f.pm) w i then vlane w i (a.rdV f.va) else vlane w i (a.rdV f.vb))) s

def execVbcast (c : Nat) (f : VecF) (s : State) : Out :=
  vecOp (.vbcast c f) c f [] (fun a => a.wrV f.vd (vmap (vbytes f) (a.rdP f.pm) (a.rdV f.vd) fun _ => (a.rdS f.sx).toNat)) s

/-- The enabled lanes of va as integers, signed or unsigned by AUX[0] (R708). -/
def vlanes (f : VecF) (a : Arch) : List Int :=
  ((List.range (64 / (vbytes f))).filter fun i => laneOn (a.rdP f.pm) (vbytes f) i).map fun i =>
    let v := vlane (vbytes f) i (a.rdV f.va)
    if f.aux.getLsbD 0 then (v : Int) else vsx f v

/-- The smallest and the largest value of the lane type (R708). -/
def vlaneMin (f : VecF) : Int := if f.aux.getLsbD 0 then 0 else -(2 ^ (8 * (vbytes f) - 1))
def vlaneMax (f : VecF) : Int := if f.aux.getLsbD 0 then 2 ^ (8 * (vbytes f)) - 1 else 2 ^ (8 * (vbytes f) - 1) - 1

/-- A reduction into s[SX]; AUX[27:1] must be 0 (R708). -/
def vecRed (i : Instr) (c : Nat) (f : VecF) (red : List Int → Int) (s : State) : Out :=
  vecOp i c f [(f.aux.toNat ≥ 2, 0x01)] (fun a => a.wrS f.sx (BitVec.ofInt 64 (red (vlanes f a)))) s

def execVrsum (c : Nat) (f : VecF) (s : State) : Out := vecRed (.vrsum c f) c f (fun xs => xs.foldl (· + ·) 0) s
def execVrmin (c : Nat) (f : VecF) (s : State) : Out := vecRed (.vrmin c f) c f (fun xs => xs.foldl min (vlaneMax f)) s
def execVrmax (c : Nat) (f : VecF) (s : State) : Out := vecRed (.vrmax c f) c f (fun xs => xs.foldl max (vlaneMin f)) s

/-- Ones count of a lane. -/
def laneOnes (f : VecF) (x : Nat) : Nat := ((List.range (8 * (vbytes f))).filter fun i => x.testBit i).length

def execVxpop (c : Nat) (f : VecF) (s : State) : Out := vecBin (.vxpop c f) c f [] (fun x y _ => laneOnes f (x ^^^ y)) s
def execVxpopa (c : Nat) (f : VecF) (s : State) : Out := vecBin (.vxpopa c f) c f [] (fun x y d => d + laneOnes f (x ^^^ y)) s
def execVpopc (c : Nat) (f : VecF) (s : State) : Out := vecBin (.vpopc c f) c f [] (fun x _ _ => laneOnes f x) s

/-- VLUT: the lowest byte of each lane of va indexes function table AUX[2:0]; AUX[27:3] must be 0 (R710). -/
def execVlut (c : Nat) (f : VecF) (s : State) : Out :=
  vecOp (.vlut c f) c f [(f.aux.toNat ≥ 8, 0x01)] (fun a =>
    a.wrV f.vd (vmap (vbytes f) (a.rdP f.pm) (a.rdV f.vd) fun i =>
      (mget 0 a.ftab (f.aux.toNat * 256 + vlane (vbytes f) i (a.rdV f.va) % 256)).toNat)) s

/-- The bytes VCVT forms: n converted elements, then zeros (R709). -/
def cvtVector (fromF toF : Nat) (v : BitVec 512) : Nat :=
  let n := 512 / max (fmtBits fromF) (fmtBits toF)
  (List.range n).foldr (fun k acc =>
    cvtElem toF (decElem fromF (v.toNat / 2 ^ (k * fmtBits fromF) % 2 ^ fmtBits fromF)) % 2 ^ fmtBits toF + 2 ^ fmtBits toF * acc) 0

/-- VCVT: format codes AUX[7:4] to AUX[3:0]; W must be 00; an MX or reserved code is a format fault (R150, R709). -/
def execVcvt (c : Nat) (f : VecF) (s : State) : Out :=
  let a0 := f.aux.toNat / 16 % 16
  let a1 := f.aux.toNat % 16
  let bad (x : Nat) : Bool := fmtIsMx x || x == 15
  vecOp (.vcvt c f) c f [(f.w != 0, 0x01), (bad a0 || bad a1, 0x06)] (fun a =>
    a.wrV f.vd (vmap 1 (a.rdP f.pm) (a.rdV f.vd) fun i => cvtVector a0 a1 (a.rdV f.va) / 2 ^ (8 * i))) s

/-- FP32 arithmetic lane by lane; W must be 32 bits (R133, R711). -/
def vecFlt (i : Instr) (c : Nat) (f : VecF) (op : Nat → Nat → Nat → Nat) (s : State) : Out := vecBin i c f [(f.w != 2, 0x01)] op s

def execVfadd (c : Nat) (f : VecF) (s : State) : Out := vecFlt (.vfadd c f) c f (fun x y _ => f32add x y) s
def execVfmul (c : Nat) (f : VecF) (s : State) : Out := vecFlt (.vfmul c f) c f (fun x y _ => f32mul x y) s
def execVfma (c : Nat) (f : VecF) (s : State) : Out := vecFlt (.vfma c f) c f (fun x y d => f32fma x y d) s

/-! ### VQNT (03 R149) -/

/-- Put element i of width b bits of a vector. -/
def setElem (b i v : Nat) (d : Nat) : Nat :=
  let m := (2 ^ b - 1) * 2 ^ (b * i)
  (d - (d &&& m)) + v % 2 ^ b * 2 ^ (b * i)

/-- Quantise the FP32 lanes of va that PM enables through a slot, into the low lanes of vd. For a target that is MX or reserved the spec
states no result: the elements are free values (log 16). -/
def State.vqnt (s : State) (c : Nat) (f : VecF) : State :=
  let a := (s.core c).arch
  let slot := f.aux.toNat % 16
  let cfg := a.slotCfg slot
  let b := fmtBits cfg.fmt
  let scale := scaleUse (a.slotGet slot 8 4)
  let zp : Int := if cfg.zpEn then sx 16 (a.slotGet slot 0xC 2) else 0
  let lanes := (List.range 16).filter fun i => laneOn (a.rdP f.pm) 4 i
  let xs := lanes.map fun i => vlane 4 i (a.rdV f.va)
  let known := ! fmtIsMx cfg.fmt && cfg.fmt != 15
  let qs := (lanes.zip xs).map fun e =>
    if known then quantOne cfg.fmt zp (f32div f32one scale) (fp32.dec e.2)
    else { pat := Config.freeNat (s.free + e.1) % 2 ^ b, sat := Config.freeNat (s.free + 16 + e.1) % 2 = 1,
           uflow := Config.freeNat (s.free + 32 + e.1) % 2 = 1, val := fp32.dec (Config.freeNat (s.free + 48 + e.1)) }
  let d := (lanes.zip qs).foldl (fun d e => setElem b e.1 e.2.pat d) (a.rdV f.vd).toNat
  let mse := if cfg.mse then mseTerms scale xs qs else []
  let t := { s with free := s.free + 128 }
  t.modArch c fun y => (y.wrV f.vd (BitVec.ofNat 512 d)).mergeStat slot (qstat xs qs) mse (s.free + 64)

def execVqnt (c : Nat) (f : VecF) (s : State) : Out :=
  s.issue (.vqnt c f) c f.g none id (s.core c).arch.vxe.isSome fun t => (t.next c).vqnt c f

/-! ### Stream operations -/

/-- Issue a stream operation: it stalls while the VXE holds one (R51) or a TDSET loads its descriptor (R55). -/
def streamOp (i : Instr) (c : Nat) (f : StreamF) (pre : List (Bool × Nat)) (startFault : State → EngOp → Option (Nat × Nat)) (mk : Arch → EngOp → EngOp)
    (op : EOp) (s : State) : Out :=
  let pc := s.pcOf c
  s.issue i c f.g (firstFault ((tkBad f.tk, 0x01) :: pre)) (fun t => t.ownPost c (tkOf f.tk) 2 pc)
    ((s.core c).arch.vxe.isSome || (s.core c).arch.tdBusy [f.ta, f.tb]) fun t0 =>
      let a := (t0.core c).arch
      let o := mk a { op := op, pc := pc, tk := tkOf f.tk, ta := a.rdT f.ta, tb := a.rdT f.tb, n := f.cl.toNat }
      let t := t0.next c
      t.startEngine c 2 pc (startFault t o) fun u => u.modArch c fun y => { y with vxe := some o }

/-- A descriptor that names an address outside the scratchpads (R74). -/
def rowsInside (c : Nat) (rows : List (Nat × Nat)) : Bool :=
  rows.all fun r => match placeOf c r.1 r.2 with
    | .spm _ => true
    | .clu _ => true
    | _ => false

/-- The first rows of a descriptor that hold `n` bytes. -/
def cutRows : List (Nat × Nat) → Nat → List (Nat × Nat)
  | [], _ => []
  | (a, len) :: r, n => if n = 0 then [] else (a, min len n) :: cutRows r (n - min len n)

/-- The fault of a scan when it starts: descriptors, the entries of TA, the room of TB (R62, R74, R88, R712; 05 R200). -/
def State.scanFault (s : State) (c : Nat) (o : EngOp) : Option (Nat × Nat) :=
  let ta := descOf o.ta
  let tb := descOf o.tb
  let e := o.n * 8
  let entries := ta.size / e
  let table := o.op == .vstlk && (decide (e < o.a) || decide (spmSize c < o.b + o.a * 256))
  (descIf (! ta.ok || ! tb.ok || ta.size % e != 0 || decide (tb.size < 2 * entries) || table ||
    ! rowsInside c (ta.srcRows ta.rows) || ! rowsInside c (tb.dstRows tb.rows))).or
  ((s.reachAll c (ta.srcRows ta.rows)).or (s.reachAll c (cutRows (tb.dstRows tb.rows) (2 * entries))))

/-- CL of a VSXP or VSTLK (R67). -/
def clBad (f : StreamF) : Bool := f.cl == 0 || decide (16 < f.cl.toNat)

def execVsxp (c : Nat) (f : StreamF) (s : State) : Out :=
  streamOp (.vsxp c f) c f [(clBad f || (decide (8 < f.cl.toNat) && f.va == 15), 0x01)] (fun t o => t.scanFault c o)
    (fun a o => { o with x := a.rdV f.va, y := a.rdV (f.va + 1) }) .vsxp s

/-- VSTLK: S − 1 in AUX[6:0], the table's address in units of 64 bytes in AUX[22:8]; AUX[7], AUX[23] and VA must be 0 (05 R199). -/
def execVstlk (c : Nat) (f : StreamF) (s : State) : Out :=
  streamOp (.vstlk c f) c f [(f.aux.getLsbD 7 || f.aux.getLsbD 23 || f.va != 0, 0x01), (clBad f, 0x01)] (fun t o => t.scanFault c o)
    (fun _ o => { o with a := f.aux.toNat % 128 + 1, b := f.aux.toNat / 256 % 32768 * 64 }) .vstlk s

/-- Reserved bits of AUX in a VSQNT (03 R141). -/
def qntAux (f : StreamF) : List (Bool × Nat) := [(decide (128 ≤ f.aux.toNat), 0x01)]
def qntSlot (f : StreamF) (o : EngOp) : EngOp := { o with a := f.aux.toNat % 16, acc := f.aux.getLsbD 6 }

/-- The operation of a VSQNT is that of its SUBOP, AUX[5:4] (03 R141). 00 quantises, taking the slot's SCALE and ZP as they stand (R142, R148); 01 and
10 load and store the slot at one address of a descriptor, which must lie in the scratchpads (R74, R88); 11 closes the round. -/
def vsqntOp (i : Instr) (c : Nat) (f : StreamF) (s : State) : Out :=
  if f.subop = 0 then streamOp i c f (qntAux f) (fun t o => t.quantFault c o.a (descOf o.ta) (descOf o.tb) o.acc)
    (fun a o => let q := qntSlot f o; { q with scale := w32 (a.slotGet q.a 8 4), zp := w16 (a.slotGet q.a 0xC 2) }) .quantise s
  else if f.subop = 1 then streamOp i c f (qntAux f) (fun t o => t.reach c (descOf o.ta).src 1024) (fun _ o => qntSlot f o) .slotLoad s
  else if f.subop = 2 then streamOp i c f (qntAux f) (fun t o => t.reach c (descOf o.tb).dst 1024) (fun _ o => qntSlot f o) .slotStore s
  else streamOp i c f (qntAux f) (fun _ _ => none) (fun _ o => qntSlot f o) .slotClose s

def execVsqntQuantise (c : Nat) (f : StreamF) (s : State) : Out := vsqntOp (.vsqntQuantise c f) c f s
def execVsqntLoad (c : Nat) (f : StreamF) (s : State) : Out := vsqntOp (.vsqntLoad c f) c f s
def execVsqntStore (c : Nat) (f : StreamF) (s : State) : Out := vsqntOp (.vsqntStore c f) c f s
def execVsqntClose (c : Nat) (f : StreamF) (s : State) : Out := vsqntOp (.vsqntClose c f) c f s

/-- Ones count of a number below 2^n. -/
def onesOf (n x : Nat) : Nat := ((List.range n).filter fun i => x.testBit i).length

/-- The 16-bit result of one entry: Hamming distance from the query, or the table distance (R712; 05 R199). -/
def scanEntry (o : EngOp) (table : Bytes) (e : Bytes) : Nat :=
  match o.op with
  | .vstlk => min 0xFFFF (((List.range o.a).map fun j => (table.getD (j * 256 + (e.getD j 0).toNat) 0).toNat).sum)
  | _ => onesOf (64 * o.n) (leNat e ^^^ ((o.x.toNat + 2 ^ 512 * o.y.toNat) % 2 ^ (64 * o.n)))

/-- Everything a stream operation does to data when it completes. -/
def State.vxeRun (s : State) (c : Nat) (o : EngOp) : Ran :=
  let ta := descOf o.ta
  let tb := descOf o.tb
  let scan : State :=
    let bs := s.rdStream c (ta.srcRows ta.rows)
    let table := if o.op == .vstlk then rdBytes (s.core c).arch.spm o.b (o.a * 256) else []
    let out := (chunks (o.n * 8) (bs.length + 1) bs).flatMap fun e => leBytes 2 (scanEntry o table e)
    let t := s.touchAll c (ta.srcRows ta.rows)
    let u := if o.op == .vstlk then t.touchCore c o.b (o.a * 256) else t
    State.wrStream c u (tb.dstRows tb.rows) out
  match o.op with
  | .vsxp => (scan, none)
  | .vstlk => (scan, none)
  | .quantise => s.quantStream c o
  | .slotLoad =>
    ((s.modArch c fun a => a.slotLoad o.a (s.rdOk c ta.src 1024)).touchLocal c ta.src 1024, none)
  | .slotStore =>
    (((s.wrLocal c tb.dst (rdBytes (s.core c).arch.slots (o.a * 1024) 1024)).getD s).touchLocal c tb.dst 1024, none)
  | .slotClose => (s.modArch c fun a => a.slotClose o.a (s.qntHw c), none)
  | _ => (s, none)

/-- Complete the VXE's stream operation: its effect, then its token (R52, R101). -/
def State.vxeComplete (s : State) (c : Nat) (o : EngOp) : State :=
  match s.vxeRun c o with
  | (t, some a) => t.coreFault c 0x02 false 2 o.pc a
  | (t, none) =>
    if (t.core c).arch.vxe == some o then (t.modArch c fun a => { a with vxe := none }).ownPost c o.tk 2 o.pc else t

/-- VXE_STREAM_COMPLETE: the stream operation in the VXE completes and posts its token. -/
def execVxeStreamComplete (c : Nat) (s : State) : Out :=
  guardUnit (coreOk c) <|
    match (s.core c).arch.vxe with
    | none => .next s
    | some o => if s.engineRuns c then .next (s.vxeComplete c o) else .next s

end Sys2Proof.Machine
end

