-- ==== Sys2Proof/Machine/Matrix.lean ====
section
/-! DEFINITION. The matrix engine (03 R104 to R121, R127, R129 to R132, R136 to R138, R147, R704, R705). -/

namespace Sys2Proof.Machine

/-! ### Format families (Table 3.1) -/

inductive Fam where
  | int4 | int8 | fp8 | bf16 | mx4 | mx
deriving DecidableEq, Repr

/-- The family of a format pair; none where the pair is not supported (R105). -/
def famOf (fa fb : Nat) : Option Fam :=
  if fa ≤ 1 ∧ fb ≤ 1 then some .int4
  else if fa ≤ 3 ∧ fb ≤ 3 then some .int8
  else if (fa = 4 ∨ fa = 5) ∧ (fb = 4 ∨ fb = 5) then some .fp8
  else if fa = 6 ∧ fb = 6 then some .bf16
  else if fa = 0xB ∧ fb = 0xB then some .mx4
  else if fmtIsMx fa && fmtIsMx fb then some .mx
  else none

/-- The kind of accumulator of a family. -/
def Fam.kind : Fam → AccKind
  | .int4 => .int32
  | .int8 => .int32
  | _ => .fp32

/-- The 4-bit families take two k in each input step. -/
def Fam.four : Fam → Bool
  | .int4 => true
  | .mx4 => true
  | _ => false

/-- K of an MOP with LEN input steps (R104). -/
def Fam.depth (f : Fam) (len : Nat) : Nat := if f.four then 2 * len else if f = .bf16 then len / 4 else len

/-- An LEN that R106 refuses for an MOP. -/
def Fam.lenBad (f : Fam) (len : Nat) : Bool :=
  len == 0 || (f == .bf16 && len % 4 != 0) || (f == .mx4 && len % 16 != 0) || (f == .mx && len % 32 != 0)

/-- V of an MWS (R112). -/
def Fam.vecs (f : Fam) (len : Nat) : Nat := if f = .bf16 then len / 4 else len
def Fam.mwsBad (f : Fam) (len : Nat) : Bool := (f == .bf16 && len % 4 != 0) || decide (f.vecs len = 0) || decide (32 < f.vecs len)

/-- Rows of a stationary set, which is the length of an activation vector (R111). -/
def Fam.setRows (f : Fam) : Nat := if f.four then 64 else 32

/-! ### Issue -/

/-- The kind that a bank will have when the operations in the engine have ended (R109). -/
def Arch.kindAfter (a : Arch) (bank : Nat) : AccKind :=
  a.mxe.foldl (fun k o =>
    if o.bank != bank then k else
      match o.op with
      | .mop => ((famOf o.a o.b).map Fam.kind).getD k
      | .mws => ((famOf o.a o.b).map Fam.kind).getD k
      | .mclr => .empty
      | .mrd => if o.n.testBit 2 then .empty else k
      | _ => k) (mget .empty a.accKind bank)

/-- Whether an operation in the engine writes a bank (R55, R118). -/
def Arch.bankBusy (a : Arch) (bank : Nat) : Bool :=
  a.mxe.any fun o => o.bank == bank && match o.op with
    | .mop => true
    | .mws => true
    | .mclr => true
    | .mrd => o.n.testBit 2
    | _ => false

/-- The pair recorded by the set that an MWS would use: the pending set, or else the active one (R705). -/
def Arch.mwsPair (a : Arch) : Option (BitVec 4 × BitVec 4) :=
  let set (b : Bool) := mget {} a.sets (b2n b)
  let start := ((set a.active).pair, if a.pending then some (set (! a.active)).pair else none)
  let fin := a.mxe.foldl (fun (st : Option (BitVec 4 × BitVec 4) × Option (Option (BitVec 4 × BitVec 4))) o =>
    match o.op with
    | .msld => (st.1, some (some (BitVec.ofNat 4 o.a, BitVec.ofNat 4 o.b)))
    | .mws => (st.2.getD st.1, none)
    | _ => st) start
  fin.2.getD fin.1

/-- The checks of a matrix instruction at issue, in the order of R704. -/
def matPre (f : MatrixF) (illegal format len : Bool) : Option Nat :=
  firstFault [(f.rsv != 0 || tkBad f.tk || illegal, 0x01), (format, 0x06), (len, 0x01)]

/-- ACC = 1 on a bank of another kind (R109). -/
def Arch.accBad (a : Arch) (f : MatrixF) (fam : Fam) : Bool :=
  f.acc && a.kindAfter (b2n f.bank) != .empty && a.kindAfter (b2n f.bank) != fam.kind

/-- Whether the MXE accepts no further operation: its last one is still in input. Whether that is so is timing: a free value; ten operations at most
drain beside the one in input, since each takes a step of input at least (R51, log 104). -/
def State.mxeFull (s : State) (c : Nat) : Bool :=
  let m := (s.core c).arch.mxe
  m != [] && (decide (11 ≤ m.length) || Config.freeNat s.free % 2 == 0)

/-- Issue a matrix instruction: it stalls until the MXE accepts it (R51), while a TDSET loads its descriptor, and for `busy` (R55). -/
def matOp (i : Instr) (c : Nat) (f : MatrixF) (op : EOp) (pre : Option Nat) (busy : Bool) (regs : List (BitVec 4))
    (startFault : State → EngOp → Option (Nat × Nat)) (mk : Arch → EngOp → EngOp) (s : State) : Out :=
  let pc := s.pcOf c
  s.issue i c f.g pre (fun t => t.ownPost c (tkOf f.tk) 1 pc)
    (s.mxeFull c || (s.core c).arch.tdBusy regs || busy) fun t1 =>
      let t0 := { t1 with free := t1.free + 1 }
      let a := (t0.core c).arch
      let o := mk a
        { op := op, pc := pc, tk := tkOf f.tk, ta := a.rdT f.ta, tb := a.rdT f.tb, tc := a.rdT f.tc, n := f.len.toNat,
          a := f.fa.toNat, b := f.fb.toNat, bank := b2n f.bank, acc := f.acc }
      let t := t0.next c
      t.startEngine c 1 pc (startFault t o) fun u => u.modArch c fun y => { y with mxe := y.mxe ++ [o] }

/-- Bytes of a data row of 32 elements (R107). -/
def rowBytes (fmt : Nat) : Nat := 4 * fmtBits fmt

/-- The fault of a k-major operand of K rows (R62, R74, R88, R107). An MX operand with SSTRIDE below 32, for which R108 names no fault, is a descriptor
fault (log 101). -/
def State.operandFault (s : State) (c : Nat) (d : Desc) (fmt k : Nat) : Option (Nat × Nat) :=
  let mx := fmtIsMx fmt
  let data := (List.range k).map fun i => (d.srcRow (if mx then mxRow i else i), rowBytes fmt)
  let scales := if mx then (List.range (k / 32)).map fun b => (d.srcRow (mxScaleRow b), 32) else []
  (descIf (! d.ok || d.fmt != fmt || d.rowLen != rowBytes fmt || decide (d.rows < k + (if mx then k / 32 else 0)) ||
    (mx && decide (d.sstride < 32)) || ! rowsInside c (d.srcRows d.rows))).or
  (s.reachAll c (data ++ scales))

/-- An MOP: R105, R109, then R106; its operands at the start. -/
def execMop (c : Nat) (f : MatrixF) (s : State) : Out :=
  let a := (s.core c).arch
  let fam := famOf f.fa.toNat f.fb.toNat
  let bad := match fam with
    | none => true
    | some m => a.accBad f m
  let k := match fam with
    | none => 0
    | some m => m.depth f.len.toNat
  matOp (.mop c f) c f .mop (matPre f false bad ((fam.map (·.lenBad f.len.toNat)).getD false)) false [f.ta, f.tb]
    (fun t o => (t.operandFault c (descOf o.ta) o.a k).or (t.operandFault c (descOf o.tb) o.b k)) (fun _ o => o) s

/-- An MSLD loads TA's rows into the idle set (R111). -/
def execMsld (c : Nat) (f : MatrixF) (s : State) : Out :=
  let fam := famOf f.fa.toNat f.fb.toNat
  matOp (.msld c f) c f .msld (matPre f false fam.isNone false) false [f.ta]
    (fun t o => t.operandFault c (descOf o.ta) o.a ((fam.map Fam.setRows).getD 32)) (fun _ o => o) s

/-- Bytes of one activation row: its elements, and in an MX format a scale for each block (R113, R705). -/
def actBytes (fam : Fam) (fmt : Nat) : Nat := fam.setRows * fmtBits fmt / 8 + (if fmtIsMx fmt then fam.setRows / 32 else 0)

/-- The fault of the activation operand of an MWS. -/
def State.actFault (s : State) (c : Nat) (d : Desc) (fam : Fam) (fmt v : Nat) : Option (Nat × Nat) :=
  (descIf (! d.ok || d.fmt != fmt || d.rowLen != actBytes fam fmt || decide (d.rows < v) || ! rowsInside c (d.srcRows d.rows))).or
  (s.reachAll c ((List.range v).map fun i => (d.srcRow i, d.rowLen)))

/-- An MWS: R105, R109, R705, then R112. -/
def execMws (c : Nat) (f : MatrixF) (s : State) : Out :=
  let a := (s.core c).arch
  let fam := famOf f.fa.toNat f.fb.toNat
  let pair := match a.mwsPair with
    | none => false
    | some p => p != (f.fa, f.fb)
  let bad := match fam with
    | none => true
    | some m => a.accBad f m || pair
  matOp (.mws c f) c f .mws (matPre f false bad ((fam.map (·.mwsBad f.len.toNat)).getD false)) false [f.tb]
    (fun t o => match fam with
      | none => none
      | some m => t.actFault c (descOf o.tb) m o.b (m.vecs o.n)) (fun _ o => o) s

/-- The formats MRD accepts, and those that need no slot (R121). -/
def mrdFmt (fa : Nat) : Bool := fa ≤ 6 || fa == 0xD || fa == 0xE
def mrdWide (fa : Nat) : Bool := fa == 0xD || fa == 0xE

/-- The fault of an MRD when it starts (R62, R74, R88, R119, R147). -/
def State.mrdFault (s : State) (c : Nat) (o : EngOp) : Option (Nat × Nat) :=
  let tc := descOf o.tc
  let slot := (s.core c).arch.slotCfg o.b
  let epi (on : Bool) (t : BitVec 256) : List (Nat × Nat) := if on then [((descOf t).src, 512)] else []
  let rows := (List.range 32).map fun i => (tc.dstRow i, tc.rowLen)
  let vecs := epi (o.n.testBit 0) o.ta ++ epi (o.n.testBit 1) o.tb
  (descIf (! tc.ok || tc.fmt != o.a || tc.rowLen != rowBytes o.a || decide (tc.rows < 32) || ! rowsInside c (tc.dstRows tc.rows) ||
    ! rowsInside c vecs || (! mrdWide o.a && ! zpOk slot o.a))).or
  (s.reachAll c (vecs ++ rows))

/-- An MRD: bits [15:3] of LEN are reserved and ACC must be 0 (R119); the formats of R121; it stalls until its bank is readable (R118). -/
def execMrd (c : Nat) (f : MatrixF) (s : State) : Out :=
  let a := (s.core c).arch
  let bank := b2n f.bank
  matOp (.mrd c f) c f .mrd (matPre f (f.acc || decide (8 ≤ f.len.toNat))
      (! mrdFmt f.fa.toNat || (f.fa == 0xD && a.kindAfter bank == .fp32)) false) (a.bankBusy bank)
    (f.tc :: (if f.len.getLsbD 0 then [f.ta] else []) ++ (if f.len.getLsbD 1 then [f.tb] else []))
    (fun t o => t.mrdFault c o)
    (fun y o => if mrdWide o.a then o else { o with scale := w32 (y.slotGet o.b 8 4), zp := w16 (y.slotGet o.b 0xC 2) }) s

/-- MCLR makes a bank empty. -/
def execMclr (c : Nat) (f : MatrixF) (s : State) : Out := matOp (.mclr c f) c f .mclr (matPre f false false false) false [] (fun _ _ => none) (fun _ o => o) s

/-! ### What the cells hold (R104, R129 to R132) -/

/-- Accumulator cell (i, j) of a bank. -/
def Arch.cell (a : Arch) (bank i j : Nat) : Nat := (mget 0 a.acc (bank * 1024 + i * 32 + j)).toNat

/-- Replace the cells of a bank. -/
def Arch.setBank (a : Arch) (bank : Nat) (kind : AccKind) (g : Nat → Nat → Nat) : Arch :=
  { a with
    acc := (List.range 1024).foldl (fun m n => mset 0 m (bank * 1024 + n) (w32 (g (n / 32) (n % 32)))) a.acc
    accKind := mset .empty a.accKind bank kind }

/-- One k or one MX block for one cell: the element patterns of A and B, and the two scales. -/
structure Term where
  xs : List (Nat × Nat)
  ea : Nat
  eb : Nat
deriving DecidableEq, Repr

/-- The exact value of a product of two elements. -/
def prodOf (fa fb : Nat) (e : Nat × Nat) : Flt := (decElem fa e.1).mul (decElem fb e.2)

/-- The integer of an element of an integer format. -/
def intElem (fmt w : Nat) : Int := if fmt = 1 ∨ fmt = 3 then (w % 2 ^ fmtBits fmt : Int) else sx (fmtBits fmt) w

/-- Add the terms of a pass to a cell, in increasing k: integers modulo 2³² (R129), FP8 and BF16 product by product (R130), MX block by
block (R131); a block with scale 0xFF gives NaN (R127). -/
def cellSum (fam : Fam) (fa fb acc : Nat) (ts : List Term) : Nat :=
  ts.foldl (fun y t =>
    match fam.kind with
    | .int32 => lowBits 32 (t.xs.foldl (fun n e => n + intElem fa e.1 * intElem fb e.2) (y : Int))
    | _ =>
      match fam with
      | .fp8 => t.xs.foldl (fun z e => fp32.rnd ((fp32.dec z).add (prodOf fa fb e))) y
      | .bf16 => t.xs.foldl (fun z e => fp32.rnd ((fp32.dec z).add (prodOf fa fb e))) y
      | _ =>
        let sum := match t.xs.map (prodOf fa fb) with
          | [] => Flt.fin false 0 0
          | p :: ps => ps.foldl Flt.add p
        fp32.rnd ((fp32.dec y).add ((sum.mul (e8m0 t.ea)).mul (e8m0 t.eb)))) acc

/-- An operand of K rows: element patterns by k, scales by block. -/
structure KRows where
  rows : List (List Nat)
  scales : List (List Nat)
deriving DecidableEq, Repr

def State.kRows (s : State) (c : Nat) (d : Desc) (fmt k : Nat) : KRows :=
  let mx := fmtIsMx fmt
  { rows := (List.range k).map fun i => unpack (fmtBits fmt) 32 (s.rdOk c (d.srcRow (if mx then mxRow i else i)) (rowBytes fmt))
    scales := if mx then (List.range (k / 32)).map fun b => (s.rdOk c (d.srcRow (mxScaleRow b)) 32).map (·.toNat) else [] }

/-- The ranges that a k-major operand reads. -/
def kRanges (d : Desc) (fmt k : Nat) : List (Nat × Nat) :=
  let mx := fmtIsMx fmt
  (List.range k).map (fun i => (d.srcRow (if mx then mxRow i else i), rowBytes fmt)) ++
    (if mx then (List.range (k / 32)).map fun b => (d.srcRow (mxScaleRow b), 32) else [])

/-- An outer-product pass: A[i][k] × B[k][j] for every k added to cell (i, j) (R104). -/
def State.mop (s : State) (c : Nat) (o : EngOp) (fam : Fam) : State :=
  let k := fam.depth o.n
  let da := descOf o.ta
  let db := descOf o.tb
  let ra := s.kRows c da o.a k
  let rb := s.kRows c db o.b k
  let ks := chunks (if fam.kind = .int32 ∨ fam = .fp8 ∨ fam = .bf16 then k + 1 else 32) (k + 1) (ra.rows.zip rb.rows)
  let terms (i j : Nat) : List Term := ((List.range ks.length).zip ks).map fun b =>
    { xs := b.2.map fun r => (r.1.getD i 0, r.2.getD j 0)
      ea := (ra.scales.getD b.1 []).getD i 127
      eb := (rb.scales.getD b.1 []).getD j 127 }
  let t := (s.touchAll c (kRanges da o.a k)).touchAll c (kRanges db o.b k)
  t.modArch c fun a =>
    let fresh := ! o.acc || mget .empty a.accKind o.bank = .empty
    { a.setBank o.bank fam.kind fun i j => cellSum fam o.a o.b (if fresh then 0 else a.cell o.bank i j) (terms i j) with
      pass := a.pass + 1 }

/-- Load the idle set, which becomes pending and records its pair (R111, R115). -/
def State.msld (s : State) (c : Nat) (o : EngOp) (fam : Fam) : State :=
  let k := fam.setRows
  let da := descOf o.ta
  let r := s.kRows c da o.a k
  (s.touchAll c (kRanges da o.a k)).modArch c fun a =>
    let idle := b2n (! a.active)
    let cells : NMap (BitVec 16) := ((List.range k).zip r.rows).foldl (fun m e =>
      ((List.range 32).zip e.2).foldl (fun m x => mset 0 m (e.1 * 32 + x.1) (w16 x.2)) m) []
    let scales : NMap (BitVec 8) := ((List.range r.scales.length).zip r.scales).foldl (fun m e =>
      ((List.range 32).zip e.2).foldl (fun m x => mset 0 m (e.1 * 32 + x.1) (w8 x.2)) m) []
    { a with
      sets := mset {} a.sets idle { elem := cells, scale := scales, tag := (mget {} a.sets idle).tag, pair := some (BitVec.ofNat 4 o.a, BitVec.ofNat 4 o.b) }
      pending := true }

/-- A weight-stationary pass (R112 to R114): the pending set becomes the active one, then x_t · W is added to row t. -/
def State.mws (s : State) (c : Nat) (o : EngOp) (fam : Fam) : State :=
  let d := descOf o.tb
  let v := fam.vecs o.n
  let n := fam.setRows
  let dataBytes := n * fmtBits o.b / 8
  let act := (List.range v).map fun t =>
    let bs := s.rdOk c (d.srcRow t) d.rowLen
    (unpack (fmtBits o.b) n (bs.take dataBytes), (bs.drop dataBytes).map (·.toNat))
  (s.touchAll c ((List.range v).map fun i => (d.srcRow i, d.rowLen))).modArch c fun a0 =>
    let pass := a0.pass + 1
    let a := if a0.pending then
        { a0 with active := ! a0.active, pending := false, sets := mmod {} a0.sets (b2n (! a0.active)) fun w => { w with tag := pass } }
      else a0
    let w := mget {} a.sets (b2n a.active)
    let len := if fam.kind = .int32 ∨ fam = .fp8 ∨ fam = .bf16 then n + 1 else 32
    let terms (t j : Nat) : List Term :=
      let x := act.getD t ([], [])
      let ps := ((List.range n).zip x.1).map fun e => (mget 0 w.elem (e.1 * 32 + j) |>.toNat, e.2)
      let bs := chunks len (n + 1) ps
      ((List.range bs.length).zip bs).map fun b => { xs := b.2, ea := (mget 0 w.scale (b.1 * 32 + j)).toNat, eb := x.2.getD b.1 127 }
    let fresh := ! o.acc || mget .empty a.accKind o.bank = .empty
    { a.setBank o.bank fam.kind fun i j =>
        let old := if fresh then 0 else a.cell o.bank i j
        if i < v then cellSum fam o.a o.b old (terms i j) else old with
      pass := pass }

/-! ### Read-out (R119, R136 to R138, R147) -/

/-- An epilogue entry: SUM, ZP, SCALE and COUNT. -/
structure Epi where
  sum : Int
  zp : Int
  scale : Nat
  count : Nat
deriving DecidableEq, Repr

/-- The 32 entries of an epilogue vector; a side without one takes 0, 0, 0 and 1.0. -/
def State.epiRead (s : State) (c : Nat) (on : Bool) (t : BitVec 256) : List Epi :=
  if on then
    let bs := s.rdOk c (descOf t).src 512
    (List.range 32).map fun i =>
      { sum := sx 32 (fld bs (16 * i) 4), zp := sx 16 (fld bs (16 * i + 4) 2), scale := fld bs (16 * i + 8) 4, count := fld bs (16 * i + 12) 4 }
  else List.replicate 32 { sum := 0, zp := 0, scale := f32one, count := 0 }

/-- The corrected integer of a cell, in 64-bit two's complement (R137 step 1). -/
def correct (acc : Int) (r q : Epi) : Int :=
  sx 64 (lowBits 64 (acc - q.zp * r.sum - r.zp * q.sum + (r.count : Int) * r.zp * q.zp))

/-- The value y of a cell (R137 steps 2 and 3). -/
def scaled (y : Nat) (r q : Epi) : Nat := f32mul (f32mul y r.scale) q.scale

/-- Make a bank empty, its cells zero (R109). -/
def Arch.clearBank (a : Arch) (bank : Nat) : Arch := a.setBank bank .empty fun _ _ => 0

/-- Write the 32 rows of TC. -/
def State.mrdWrite (s : State) (c : Nat) (tc : Desc) (rows : List Bytes) : State :=
  ((List.range rows.length).zip rows).foldl (fun t e =>
    ((t.wrLocal c (tc.dstRow e.1) e.2).getD t).touchLocal c (tc.dstRow e.1) e.2.length) s

/-- An MRD: the integers, the values y, or y quantised through slot FB, and its epilogue (R119, R137, R138, R147). -/
def State.mrd (s : State) (c : Nat) (o : EngOp) : Ran :=
  let a := (s.core c).arch
  let re := s.epiRead c (o.n.testBit 0) o.ta
  let ce := s.epiRead c (o.n.testBit 1) o.tb
  let tc := descOf o.tc
  let isFp := mget .empty a.accKind o.bank = .fp32
  let z : Epi := { sum := 0, zp := 0, scale := f32one, count := 0 }
  let int (i j : Nat) : Int := correct (sx 32 (a.cell o.bank i j)) (re.getD i z) (ce.getD j z)
  let y (i j : Nat) : Nat := scaled (if isFp then a.cell o.bank i j else fp32.cvt (Flt.ofInt (int i j) 0)) (re.getD i z) (ce.getD j z)
  let grid (g : Nat → Nat → Nat) : List (List Nat) := (List.range 32).map fun i => (List.range 32).map fun j => g i j
  let clr (t : State) : State := if o.n.testBit 2 then t.modArch c fun b => b.clearBank o.bank else t
  let seen := s.touchAll c ((if o.n.testBit 0 then [((descOf o.ta).src, 512)] else []) ++ (if o.n.testBit 1 then [((descOf o.tb).src, 512)] else []))
  if o.a = 0xD then (clr (seen.mrdWrite c tc ((grid fun i j => lowBits 32 (int i j)).map fun r => r.flatMap (leBytes 4))), none)
  else if o.a = 0xE then (clr (seen.mrdWrite c tc ((grid y).map fun r => r.flatMap (leBytes 4))), none)
  else
    let cfg := { a.slotCfg o.b with fmt := o.a }
    let zp : Int := if cfg.zpEn then o.zp.toInt else 0
    let rows := grid y
    let q := quantRun cfg (s.qntHw c) (s.core c).satLimit.toNat (headroom (a.slotGet o.b 0x10 4)) zp o.scale.toNat s.free rows
    let s1 := { seen with free := s.free + 1 }
    let epi := epiVector cfg.fmt (lowBits 16 zp) (b2n q.replayed + 2 * b2n q.persist) (scaleUse q.scale) s1.free false q.rows
    match s1.epiFault c o.b epi.length cfg.epi with
    | some (_, addr) => (s1, some addr)
    | none =>
      let s2 := { s1 with free := s1.free + 1 }
      let s3 := s2.mrdWrite c tc (q.rows.map fun r => pack (fmtBits o.a) (r.map (·.pat)))
      (clr ((s3.epiWrite c o.b cfg.epi epi).quantSettle c o.b cfg q rows.flatten), none)

/-- Everything a matrix operation does when it completes. -/
def State.mxeRun (s : State) (c : Nat) (o : EngOp) : Ran :=
  match o.op with
  | .mrd => s.mrd c o
  | .mclr => (s.modArch c fun a => a.clearBank o.bank, none)
  | op =>
    match famOf o.a o.b with
    | none => (s, none)
    | some fam =>
      match op with
      | .mop => (s.mop c o fam, none)
      | .msld => (s.msld c o fam, none)
      | .mws => (s.mws c o fam, none)
      | _ => (s, none)

/-- Complete the oldest operation of the MXE: its effect, then its token (R52, R101, R110). -/
def State.mxeComplete (s : State) (c : Nat) (o : EngOp) : State :=
  match s.mxeRun c o with
  | (t, some a) => t.coreFault c 0x02 false 1 o.pc a
  | (t, none) =>
    if (t.core c).arch.mxe.head? == some o then (t.modArch c fun a => { a with mxe := a.mxe.tail }).ownPost c o.tk 1 o.pc else t

/-- MXE_OPERATION_COMPLETE: the oldest operation of the MXE completes and posts its token. -/
def execMxeOperationComplete (c : Nat) (s : State) : Out :=
  guardUnit (coreOk c) <|
    match (s.core c).arch.mxe with
    | [] => .next s
    | o :: _ => if s.engineRuns c then .next (s.mxeComplete c o) else .next s

end Sys2Proof.Machine
end

