-- ==== Sys2Proof/Machine/Select.lean ====
section
/-! DEFINITION. The select engine and the cluster merge network (04 R160 to R187). -/

namespace Sys2Proof.Machine

/-! ### Entries and their order (R160 to R163) -/

/-- The reserved ID, which is also the reserved position. -/
def padId : Nat := 0xFFFFFFFFFFFF

/-- Bytes of an input element of a value type, and the padding value (Table 4.2). -/
def vtBytes (vt : Nat) : Nat := if vt = 0 ∨ vt = 4 then 2 else 4
def vtPad (vt : Nat) (dir : Bool) : Nat :=
  match vt with
  | 0 => if dir then 0 else 0xFFFF
  | 1 => if dir then 0 else 0xFFFFFFFF
  | 2 => if dir then 0x80000000 else 0x7FFFFFFF
  | 3 => if dir then 0xFF800000 else 0x7F800000
  | _ => if dir then 0xFF80 else 0x7F80
def vtFloat (vt : Nat) : Bool := vt == 3 || vt == 4

/-- The number an entry's VALUE stands for. -/
def vtVal (vt v : Nat) : Flt :=
  match vt with
  | 2 => Flt.ofInt (sx 32 v) 0
  | 3 => fp32.dec v
  | 4 => bf16.dec (v % 65536)
  | _ => .fin false v 0

/-- Entry a is better than entry b (R162). -/
def better (vt : Nat) (dir : Bool) (a b : Ent) : Bool :=
  let x := vtVal vt a.val.toNat
  let y := vtVal vt b.val.toNat
  if x.isNan != y.isNan then y.isNan
  else if x.lt y then ! dir
  else if y.lt x then dir
  else if a.pos != b.pos then decide (a.pos.toNat < b.pos.toNat)
  else decide (a.id.toNat < b.id.toNat)

/-- Put an entry in its place among entries from best to worst. -/
def putEnt (vt : Nat) (dir : Bool) (e : Ent) : List Ent → List Ent
  | [] => [e]
  | x :: r => if better vt dir e x then e :: x :: r else x :: putEnt vt dir e r

/-- A term of a sum: an integer, or an FP64 pattern; NaN enters no sum (R179). -/
def sumTerm (vt v : Nat) : List (BitVec 64) :=
  let x := vtVal vt v
  if x.isNan then [] else [if vtFloat vt then w64 (fp64.cvt x) else BitVec.ofInt 64 x.toInt]

/-- The sum of terms: exact modulo 2⁶⁴ for integers, in an order that is not defined for floats (R179). A sum starts at zero (R164), so that none is −0. -/
def sumOf (vt seed : Nat) (ts : List (BitVec 64)) : Nat :=
  if vtFloat vt then
    (let n := f64sum seed (ts.map (·.toNat))
     if n = 2 ^ 63 then 0 else n)
  else (ts.foldl (· + ·) 0).toNat

/-- Values that are equal have one key; −0 is +0 (R128). -/
def tieKey (vt v : Nat) : Nat :=
  if vt = 3 ∧ v = 0x80000000 then 0 else if vt = 4 ∧ v % 65536 = 0x8000 then 0 else v

/-! ### The list (R164 to R176) -/

/-- Entries a list may keep. -/
def SleList.cap (l : SleList) : Nat := l.k + l.rsv
def SleList.vtn (l : SleList) : Nat := l.vt.toNat
def SleList.put (l : SleList) (e : Ent) : SleList := { l with kept := putEnt l.vtn l.dir e l.kept }

/-- An entry leaves the list, or does not enter it: its value goes to SUM_OUT (R174, R179). -/
def SleList.leave (l : SleList) (e : Ent) : SleList :=
  let v := e.val.toNat
  if (vtVal l.vtn v).isNan then l else
    { l with left := mmod 0 l.left (tieKey l.vtn v) (· + 1), outTerms := l.outTerms ++ sumTerm l.vtn v }

/-- Discard a copy (R174). -/
def SleList.drop (l : SleList) (e : Ent) : SleList := { l with dups := l.dups + 1, dupTerms := l.dupTerms ++ sumTerm l.vtn e.val.toNat }

/-- Whether an entry is admitted (R167). -/
def SleList.admits (l : SleList) (e : Ent) : Bool :=
  decide (l.kept.length < l.cap) || match l.kept.getLast? with
    | none => false
    | some w => better l.vtn l.dir e w

/-- Put an admitted entry in, and let the worst go where the list is over-full. -/
def SleList.enter (l : SleList) (e : Ent) : SleList :=
  let m := l.put e
  if m.kept.length ≤ m.cap then m else
    match m.kept.getLast? with
    | none => m
    | some w => ({ m with kept := m.kept.dropLast } : SleList).leave w

/-- Offer an entry as STOPK does; true where it was admitted (R167, R172). -/
def SleList.offer (l : SleList) (e : Ent) : SleList × Bool :=
  if l.admits e then
    match (if l.dedup then l.kept.find? (·.id == e.id) else none) with
    | some t =>
      if better l.vtn l.dir e t then ((({ l with kept := l.kept.erase t } : SleList).put e).drop t, true) else (l.drop e, true)
    | none => (l.enter e, true)
  else (l.leave e, false)

/-- Offer one input element: an ignored one is counted in IGNORED alone (R163, R180). -/
def SleList.element (l : SleList) (v : Nat) (id pos : BitVec 48) : SleList × Bool :=
  if id.toNat = padId then ({ l with ignored := sat32 l.ignored 1 }, false) else
    let m := { l with offered := l.offered + 1, nans := if (vtVal l.vtn v).isNan then l.nans + 1 else l.nans }
    m.offer { val := w32 v, id := id, pos := pos }

/-- Offer elements in order, counting the admitted. -/
def SleList.elements (l : SleList) (n : Nat) : List (Nat × BitVec 48 × BitVec 48) → SleList × Nat
  | [] => (l, n)
  | (v, id, pos) :: r =>
    match l.element v id pos with
    | (m, ok) => SleList.elements m (if ok then n + 1 else n) r

/-- What a merge takes from another list or from a result record: entries, and the counters and sums that are added. -/
structure Incoming where
  ents : List Ent
  offered : BitVec 64
  nans : BitVec 64
  ignored : Nat
  dups : BitVec 64
  inexact : Bool
  left : NMap Nat
  outTerms : List (BitVec 64)
  dupTerms : List (BitVec 64)
deriving DecidableEq, Repr

/-- The best copy of each ID among entries, and the copies that are discarded (R173). -/
def bestCopies (vt : Nat) (dir : Bool) (es : List Ent) : List Ent × List Ent :=
  es.foldl (fun (acc : List Ent × List Ent) e =>
    match acc.1.find? (·.id == e.id) with
    | none => (acc.1 ++ [e], acc.2)
    | some t => if better vt dir e t then ((acc.1.erase t) ++ [e], acc.2 ++ [t]) else (acc.1, acc.2 ++ [e])) ([], [])

/-- How many of the offered entries are admitted, each against the list as it then stands (R167). -/
def SleList.admitCount (l : SleList) (es : List Ent) : Nat :=
  (es.foldl (fun (acc : SleList × Nat) e =>
    let r := ({ acc.1 with dedup := true } : SleList).offer e
    (r.1, if r.2 then acc.2 + 1 else acc.2)) (l, 0)).2

/-- Merge (R173, R182, R185): counters and sums added, every ID reduced to its best copy, the best K + RSV kept, the others left out. -/
def SleList.merge (l : SleList) (m : Incoming) : SleList :=
  let (best, out) := bestCopies l.vtn l.dir (l.kept ++ m.ents)
  let base : SleList := { l with
    offered := l.offered + m.offered, nans := l.nans + m.nans, ignored := sat32 l.ignored m.ignored, dups := l.dups + m.dups
    inexact := l.inexact || m.inexact, left := m.left.foldl (fun t e => mmod 0 t e.1 (· + e.2)) l.left
    outTerms := l.outTerms ++ m.outTerms, dupTerms := l.dupTerms ++ m.dupTerms, kept := [] }
  let dropped := out.foldl SleList.drop base
  best.foldl SleList.enter dropped

/-! ### Result records (R177 to R180, R182) -/

/-- The bytes of an entry (Table 4.1). -/
def entBytes (e : Ent) : Bytes := leBytes 4 e.val.toNat ++ leBytes 6 e.id.toNat ++ leBytes 6 e.pos.toNat
def padEnt (vt : Nat) (dir : Bool) : Bytes := leBytes 4 (vtPad vt dir) ++ leBytes 6 padId ++ leBytes 6 padId

/-- Bytes of a record. -/
def recordSize (k rsv : Nat) : Nat := 64 + 16 * (k + rsv)

/-- Whether a record of the list is INEXACT (R175, R182). -/
def SleList.inexactNow (l : SleList) : Bool := l.inexact || decide (l.rsv < l.dups.toNat)

/-- TIES_OUT (R177, R180). -/
def SleList.ties (l : SleList) : Nat :=
  match l.kept[l.k - 1]? with
  | none => 0
  | some e =>
    if (vtVal l.vtn e.val.toNat).isNan then 0 else
      let key := tieKey l.vtn e.val.toNat
      min 0xFFFFFFFF (mget 0 l.left key + ((l.kept.drop l.k).filter fun r => tieKey l.vtn r.val.toNat == key).length)

/-- The result record of a list (Table 4.4). `seed` chooses the order of floating sums. -/
def SleList.record (l : SleList) (seed : Nat) : Bytes :=
  let sel := l.kept.take l.k
  let res := l.kept.drop l.k
  let terms (es : List Ent) : List (BitVec 64) := es.flatMap fun e => sumTerm l.vtn e.val.toNat
  let outs := l.outTerms ++ terms res
  let flags := b2n l.dir + 2 * l.vtn + 16 * b2n (decide (sel.length < l.k)) + 32 * b2n l.inexactNow
  let pad (n : Nat) : Bytes := (List.replicate n (padEnt l.vtn l.dir)).flatten
  leBytes 2 sel.length ++ leBytes 2 l.k ++ leBytes 1 l.rsv ++ leBytes 1 res.length ++ leBytes 2 flags ++ leBytes 8 l.offered.toNat ++
    leBytes 8 (sumOf l.vtn seed (terms sel)) ++ leBytes 8 (sumOf l.vtn (seed + 2 * l.k) outs) ++
    leBytes 8 (sumOf l.vtn (seed + 2 * l.k + 2 * outs.length) l.dupTerms) ++ leBytes 8 l.dups.toNat ++ leBytes 8 l.nans.toNat ++
    leBytes 4 l.ties ++ leBytes 4 l.ignored ++
    sel.flatMap entBytes ++ pad (l.k - sel.length) ++ res.flatMap entBytes ++ pad (l.rsv - res.length)

/-- Free values that the sums of a record may read. -/
def SleList.draws (l : SleList) : Nat := 2 * (l.k + l.outTerms.length + l.rsv + l.dupTerms.length)

/-- One entry of a record, at a byte offset. -/
def entAt (bs : Bytes) (o : Nat) : Ent := { val := w32 (fld bs o 4), id := BitVec.ofNat 48 (fld bs (o + 4) 6), pos := BitVec.ofNat 48 (fld bs (o + 10) 6) }

/-- What a result record brings to a merge: its reserve leaves SUM_OUT again, since it is offered (R179, R182). An infinite reserve value
cannot be taken out of a sum: the term is then a free value (log 17). -/
def incoming (bs : Bytes) (seed : Nat) : Incoming :=
  let k := fld bs 2 2
  let rsv := fld bs 4 1
  let vt := fld bs 6 2 / 2 % 8
  let sel := (List.range (min (fld bs 0 2) k)).map fun i => entAt bs (64 + 16 * i)
  let res := (List.range (min (fld bs 5 1) rsv)).map fun i => entAt bs (64 + 16 * (k + i))
  let fl := vtFloat vt
  let neg (x : BitVec 64) : BitVec 64 := if fl then x ^^^ w64 0x8000000000000000 else -x
  let resTerms := res.flatMap fun e => sumTerm vt e.val.toNat
  let inf := fl && res.any fun e => ! (vtVal vt e.val.toNat).isFin && ! (vtVal vt e.val.toNat).isNan
  let ties := fld bs 0x38 4
  let left : NMap Nat := match sel[k - 1]? with
    | none => []
    | some e =>
      let key := tieKey vt e.val.toNat
      let extra := ties - (res.filter fun r => tieKey vt r.val.toNat == key).length
      if (vtVal vt e.val.toNat).isNan || extra = 0 then [] else [(key, extra)]
  { ents := sel ++ res
    offered := w64 (fld bs 8 8)
    nans := w64 (fld bs 0x30 8)
    ignored := fld bs 0x3C 4
    dups := w64 (fld bs 0x28 8)
    inexact := bit (fld bs 6 2) 5
    left := left
    outTerms := if inf then [w64 (Config.freeNat seed)] else w64 (fld bs 0x18 8) :: resTerms.map neg
    dupTerms := [w64 (fld bs 0x20 8)] }

/-- What a core's list brings to the merge network (R185). -/
def SleList.asIncoming (l : SleList) : Incoming :=
  { ents := l.kept, offered := l.offered, nans := l.nans, ignored := l.ignored, dups := l.dups, inexact := l.inexactNow
    left := l.left, outTerms := l.outTerms, dupTerms := l.dupTerms }

/-! ### Issue -/

/-- The checks of a select instruction at issue (R65, R68, R161). -/
def selPre (f : SelF) : Option Nat :=
  firstFault [(f.rsv != 0 || tkBad f.tk || decide (5 ≤ f.vt.toNat) || f.k == 0 || decide (4096 < f.k.toNat), 0x01)]

/-- Issue a select instruction: it stalls while the SLE holds an operation (R51) or a TDSET loads its descriptor (R55). -/
def selOp (i : Instr) (c : Nat) (f : SelF) (op : EOp) (regs : List (BitVec 4)) (startFault : State → EngOp → Option (Nat × Nat))
    (enter : State → EngOp → State) (s : State) : Out :=
  let pc := s.pcOf c
  s.issue i c f.g (selPre f) (fun t => t.ownPost c (tkOf f.tk) 3 pc)
    ((s.core c).arch.sleOp.isSome || (s.core c).arch.tdBusy regs) fun t0 =>
      let a := (t0.core c).arch
      let o : EngOp :=
        { op := op, pc := pc, tk := tkOf f.tk, ta := a.rdT f.ta, tb := a.rdT f.tb, n := f.k.toNat, a := f.vt.toNat, b := b2n f.dir }
      let t := t0.next c
      t.startEngine c 3 pc (startFault t o) fun u => enter (u.modArch c fun y => { y with sleOp := some o }) o

/-- The fields of a list control block (Table 4.3). -/
structure Ctl where
  addr : Nat
  posBase : Nat
  idBase : Nat
  explicitIds : Bool
  dedup : Bool
  rsv : Nat
  mslot : Nat
  mmask : Nat
  bad : Bool
deriving DecidableEq, Repr

def ctlOf (bs : Bytes) : Ctl :=
  let w := fld bs 0x18 4
  { addr := fld bs 0 8, posBase := fld bs 8 6, idBase := fld bs 0x10 6, explicitIds := bit w 0, dedup := bit w 1, rsv := bits w 14 8
    mslot := bits w 17 16, mmask := bits w 31 24
    bad := fld bs 14 2 != 0 || fld bs 0x16 2 != 0 || bits w 7 2 != 0 || bit w 15 || bits w 23 18 != 0 || (sub bs 0x1C 0x24).any (· != 0) }

/-- The fault of an SCLR when it starts (R165, R169; R74 and R88 for its two addresses). -/
def State.sclrFault (s : State) (c : Nat) (o : EngOp) : Option (Nat × Nat) :=
  let d := descOf o.ta
  ((descIf (d.fmt == 15)).or (s.reach c d.src 64)).or <|
    let ctl := ctlOf (s.rdOk c d.src 64)
    (descIf (ctl.bad || decide (64 < ctl.rsv) || ctl.addr % 64 != 0)).or (s.reach c ctl.addr (recordSize o.n ctl.rsv))

/-- Elements of a STOPK or SSORT. -/
def offeredOf (d : Desc) (vt : Nat) : Nat := d.size / vtBytes vt

/-- The fault of a STOPK when it starts (R62, R168, R170, R171). -/
def State.stopkFault (s : State) (c : Nat) (o : EngOp) : Option (Nat × Nat) :=
  let l := (s.core c).arch.sle
  let ta := descOf o.ta
  let tb := descOf o.tb
  let n := offeredOf ta o.a
  let ids := l.explicitIds && (! tb.ok || tb.size != 8 * n || ! rowsInside c (tb.srcRows tb.rows))
  (descIf (! ta.ok || ! l.conf || l.k != o.n || b2n l.dir != o.b || l.vtn != o.a || ta.rowLen % vtBytes o.a != 0 || decide (65536 < n) ||
    decide (padId < l.next.toNat + n) || ids || ! rowsInside c (ta.srcRows ta.rows))).or
  ((s.reachAll c (ta.srcRows ta.rows)).or (if l.explicitIds then s.reachAll c (tb.srcRows tb.rows) else none))

/-- The fault of an operation that writes a record of `size` bytes through TB (R62, R74, R88, R177). -/
def State.recordFault (s : State) (c : Nat) (tb : Desc) (size : Nat) : Option (Nat × Nat) :=
  (descIf (! tb.ok || decide (tb.size < size) || ! rowsInside c (tb.dstRows tb.rows))).or (s.reachAll c (cutRows (tb.dstRows tb.rows) size))

/-- The fault of an SSORT when it starts (R181). -/
def State.ssortFault (s : State) (c : Nat) (o : EngOp) : Option (Nat × Nat) :=
  let ta := descOf o.ta
  let n := offeredOf ta o.a
  (descIf (! ta.ok || n == 0 || decide (4096 < n) || ta.rowLen % vtBytes o.a != 0 || ! rowsInside c (ta.srcRows ta.rows))).or
  ((s.recordFault c (descOf o.tb) (recordSize o.n 0)).or (s.reachAll c (ta.srcRows ta.rows)))

/-- The fault of an SMERGE when it starts (R182, R720): a record must be there, of the list's K, DIR and VT, in a source large enough. -/
def State.smergeFault (s : State) (c : Nat) (o : EngOp) : Option (Nat × Nat) :=
  let l := (s.core c).arch.sle
  let ta := descOf o.ta
  (descIf (! ta.ok || ! l.conf || decide (ta.size < 64) || ! rowsInside c (ta.srcRows ta.rows))).or <|
  (s.reachAll c (ta.srcRows ta.rows)).or <|
    let bs := s.rdStream c (ta.srcRows ta.rows)
    let fl := fld bs 6 2
    descIf (fld bs 2 2 != l.k || bit fl 0 != l.dir || fl / 2 % 8 != l.vtn || decide (ta.size < recordSize (fld bs 2 2) (fld bs 4 1)))

def State.semitFault (s : State) (c : Nat) (o : EngOp) : Option (Nat × Nat) :=
  let l := (s.core c).arch.sle
  (descIf (! l.conf)).or (s.recordFault c (descOf o.tb) (recordSize l.k l.rsv))

/-- Rows of a descriptor that all lie in the cluster scratchpad. -/
def rowsInCluster (c : Nat) (rows : List (Nat × Nat)) : Bool :=
  rows.all fun r => match placeOf c r.1 r.2 with
    | .clu _ => true
    | _ => false

/-- The merge slot that a core's list names: its round. -/
def State.roundOf (s : State) (c : Nat) : MRound := mget {} (s.clu (clusterOf c)).rounds (s.core c).arch.sle.mslot.toNat

/-- Whether a round has all its arrivals, and merges until its tokens post (R185). -/
def MRound.full (r : MRound) : Bool := r.arrived != [] && (List.range 8).all fun j => ! r.mask.getLsbD j || r.arrived.any (· % 8 == j)

/-- What an SCMRG is checked for when it becomes an arrival that is not the first of its round (R184). -/
def MRound.agrees (r : MRound) (l : SleList) (tb : BitVec 256) : Bool :=
  r.mask == l.mmask && r.k == l.k && r.dir == l.dir && r.vt == l.vt && r.rsv == l.rsv && (descOf r.tb).dst == (descOf tb).dst

/-- The fault of an SCMRG when it starts (R183, R184, R720). -/
def State.scmrgFault (s : State) (c : Nat) (o : EngOp) : Option (Nat × Nat) :=
  let l := (s.core c).arch.sle
  let tb := descOf o.tb
  let r := s.roundOf c
  let own := match s.ctxOn c with
    | none => false
    | some x => ownedBy (mget 0 (s.clu (clusterOf c)).mslotOwn l.mslot.toNat) x
  (descIf (! l.conf || ! own || ! l.mmask.getLsbD (c % 8) || ! rowsInCluster c (tb.dstRows tb.rows) ||
    (r.arrived != [] && ! r.full && ! r.agrees l o.tb))).or
  (s.recordFault c tb (recordSize l.k l.rsv))

/-- An arrival: the first fixes the round (R184); one that finds the slot merging waits until it is ready (R185). -/
def State.arrive (s : State) (c : Nat) (o : EngOp) : State :=
  let l := (s.core c).arch.sle
  let m := l.mslot.toNat
  let upd (f : MRound → MRound) : State := s.modClu (clusterOf c) fun k => { k with rounds := mmod {} k.rounds m f }
  let r := s.roundOf c
  let t :=
    if r.full then upd fun r => { r with waiting := r.waiting ++ [c] }
    else if r.arrived = [] then
      upd fun r => { r with mask := l.mmask, k := l.k, dir := l.dir, vt := l.vt, rsv := l.rsv, tb := o.tb, arrived := [c] }
    else upd fun r => { r with arrived := r.arrived ++ [c] }
  if r.full then t else t.modArch c fun a => { a with sleOp := a.sleOp.map fun p => { p with arrived := true } }

def execSclr (c : Nat) (f : SelF) (s : State) : Out := selOp (.sclr c f) c f .sclr [f.ta] (fun t o => t.sclrFault c o) (fun t _ => t) s
def execStopk (c : Nat) (f : SelF) (s : State) : Out :=
  selOp (.stopk c f) c f .stopk (f.ta :: if (s.core c).arch.sle.explicitIds then [f.tb] else []) (fun t o => t.stopkFault c o) (fun t _ => t) s
def execSsort (c : Nat) (f : SelF) (s : State) : Out := selOp (.ssort c f) c f .ssort [f.ta, f.tb] (fun t o => t.ssortFault c o) (fun t _ => t) s
def execSmerge (c : Nat) (f : SelF) (s : State) : Out := selOp (.smerge c f) c f .smerge [f.ta] (fun t o => t.smergeFault c o) (fun t _ => t) s
def execSemit (c : Nat) (f : SelF) (s : State) : Out := selOp (.semit c f) c f .semit [f.tb] (fun t o => t.semitFault c o) (fun t _ => t) s
def execScmrg (c : Nat) (f : SelF) (s : State) : Out := selOp (.scmrg c f) c f .scmrg [f.tb] (fun t o => t.scmrgFault c o) (fun t o => t.arrive c o) s

/-! ### Completion -/

/-- What the SLE leaves in its list buffer, which the spec does not lay out: free bytes (R166). -/
def State.stirBuffer (s : State) (c : Nat) : State :=
  let l := (s.core c).arch.sle
  let (bs, t) := s.takeBytes (recordSize l.k l.rsv)
  (t.wrLocal c l.addr.toNat bs).getD t

/-- The counters of the SLE page. -/
def State.sleCount (s : State) (c admitted dups : Nat) : State :=
  s.modCore c fun k => { k with sleAdmit := satBv k.sleAdmit admitted, sleDup := satBv k.sleDup dups }

/-- Write a record through TB; of a list that a program has touched, its bytes are free values (R166). -/
def State.putRecord (s : State) (c : Nat) (l : SleList) (rows : List (Nat × Nat)) : State :=
  if l.touched then
    let (bs, t) := s.takeBytes (recordSize l.k l.rsv)
    State.wrStream c t rows bs
  else State.wrStream c { s with free := s.free + l.draws } rows (l.record s.free)

/-- An admitted count, free where the list has been touched. -/
def State.admitted (s : State) (l : SleList) (n most : Nat) : Nat × State :=
  if l.touched then (Config.freeNat s.free % (most + 1), { s with free := s.free + 1 }) else (n, s)

/-- The elements that a STOPK offers: value, ID and position (R168, R170, R171). -/
def State.stopkElems (s : State) (c : Nat) (o : EngOp) (l : SleList) : List (Nat × BitVec 48 × BitVec 48) :=
  let ta := descOf o.ta
  let tb := descOf o.tb
  let n := offeredOf ta o.a
  let vs := unpack (8 * vtBytes o.a) n (s.rdStream c (ta.srcRows ta.rows))
  let ids := if l.explicitIds then unpack 64 n (s.rdStream c (tb.srcRows tb.rows)) else []
  ((List.range n).zip vs).map fun e =>
    let pos := l.next + BitVec.ofNat 48 e.1
    (e.2, if l.explicitIds then BitVec.ofNat 48 (ids.getD e.1 0) else l.idBase + (pos - l.posBase), pos)

/-- Everything a select operation does when it completes; an SCMRG completes with its round. -/
def State.sleRun (s : State) (c : Nat) (o : EngOp) : State :=
  let ta := descOf o.ta
  let tb := descOf o.tb
  let l := (s.core c).arch.sle
  match o.op with
  | .sclr =>
    let ctl := ctlOf (s.rdOk c ta.src 64)
    let fresh : SleList :=
      { conf := true, k := o.n, dir := o.b == 1, vt := BitVec.ofNat 3 o.a, addr := w64 ctl.addr, posBase := BitVec.ofNat 48 ctl.posBase,
        idBase := BitVec.ofNat 48 ctl.idBase, explicitIds := ctl.explicitIds, dedup := ctl.dedup, rsv := ctl.rsv,
        mslot := BitVec.ofNat 2 ctl.mslot, mmask := w8 ctl.mmask, next := BitVec.ofNat 48 ctl.posBase }
    ((s.touchLocal c ta.src 64).modArch c fun a => { a with sle := fresh }).stirBuffer c
  | .stopk =>
    let es := s.stopkElems c o l
    let t0 := s.touchAll c (ta.srcRows ta.rows)
    let t := if l.explicitIds then t0.touchAll c (tb.srcRows tb.rows) else t0
    let (m, n) := ({ l with touched := (t.core c).arch.sle.touched } : SleList).elements 0 es
    let (adm, u) := t.admitted m n es.length
    ((u.modArch c fun a => { a with sle := { m with next := l.next + BitVec.ofNat 48 es.length } }).sleCount c adm (m.dups - l.dups).toNat).stirBuffer c
  | .ssort =>
    let n := offeredOf ta o.a
    let vs := unpack (8 * vtBytes o.a) n (s.rdStream c (ta.srcRows ta.rows))
    let (m, _) := ({ k := o.n, dir := o.b == 1, vt := BitVec.ofNat 3 o.a } : SleList).elements 0
      (((List.range n).zip vs).map fun e => (e.2, BitVec.ofNat 48 e.1, BitVec.ofNat 48 e.1))
    (s.touchAll c (ta.srcRows ta.rows)).putRecord c m (tb.dstRows tb.rows)
  | .smerge =>
    let inc := incoming (s.rdStream c (ta.srcRows ta.rows)) s.free
    let t := { s.touchAll c (ta.srcRows ta.rows) with free := s.free + 1 }
    let m := ({ l with touched := (t.core c).arch.sle.touched } : SleList).merge inc
    let (adm, u) := t.admitted m (l.admitCount inc.ents) inc.ents.length
    ((u.modArch c fun a => { a with sle := m }).sleCount c adm (m.dups - l.dups - inc.dups).toNat).stirBuffer c
  | .semit =>
    let t := s.putRecord c l (tb.dstRows tb.rows)
    if l.inexactNow then t.modCore c fun k => { k with sleInexact := satBv k.sleInexact 1 } else t
  | _ => s

/-- SLE_OPERATION_COMPLETE: the SLE's operation completes and posts its token; an SCMRG waits for its round. -/
def execSleOperationComplete (c : Nat) (s : State) : Out :=
  guardUnit (coreOk c) <|
    match (s.core c).arch.sleOp with
    | none => .next s
    | some o =>
      if o.op == .scmrg || ! s.engineRuns c then .next s
      else .next (((s.sleRun c o).modArch c fun a => { a with sleOp := none }).ownPost c o.tk 3 o.pc)

/-! ### The merge network (R185) -/

/-- Let the SCMRGs that waited for the slot arrive, in order; one that then differs from the round's first faults (R184, R185). -/
def State.arriveAll : List Nat → State → State
  | [], s => s
  | c :: r, s =>
    match (s.core c).arch.sleOp with
    | none => State.arriveAll r s
    | some o =>
      if o.op != .scmrg then State.arriveAll r s else
        match s.scmrgFault c o with
        | some (code, a) => State.arriveAll r (s.coreFault c code false 3 o.pc a)
        | none => State.arriveAll r (s.arrive c o)

/-- Merge the lists of a round's participants into one. -/
def State.mergeLists (s : State) (r : MRound) : SleList :=
  r.arrived.foldl (fun (m : SleList) c =>
    let l := (s.core c).arch.sle
    { m.merge l.asIncoming with touched := m.touched || l.touched })
    { conf := true, k := r.k, dir := r.dir, vt := r.vt, rsv := r.rsv }

/-- The tokens of a round's participants post, and their operations end. -/
def State.endRound (s : State) (cs : List Nat) : State :=
  cs.foldl (fun t c =>
    match (t.core c).arch.sleOp with
    | none => t
    | some o => (t.modArch c fun a => { a with sleOp := none }).ownPost c o.tk 3 o.pc) s

/-- MERGE_ROUND_COMPLETE: one result record at the round's destination, the token of every participant, the slot ready for its next round. -/
def execMergeRoundComplete (k slot : Nat) (s : State) : Out :=
  guardUnit (clusterOk k && mslotOk slot) <|
    let r := mget {} (s.clu k).rounds slot
    if ! r.full || ! (r.arrived.all fun c => s.engineRuns c) then .next s else
      let tb := descOf r.tb
      let t := s.putRecord (r.arrived.headD 0) (s.mergeLists r) (tb.dstRows tb.rows)
      let u := t.modClu k fun y => { y with rounds := mset {} y.rounds slot { waiting := [] } }
      .next (State.arriveAll r.waiting (u.endRound r.arrived))

end Sys2Proof.Machine
end

