-- ==== Sys2Proof/Machine/LoadStore.lean ====
section
/-! DEFINITION. The load/store class (02 R72 to R80, R706). -/

namespace Sys2Proof.Machine

/-! ### Loads beside incomplete engine operations (R80) -/

/-- The states that show what each incomplete operation of a core's engines writes, taken in turn in its engine. -/
def State.engineViews (s : State) (c : Nat) : List State :=
  let a := (s.core c).arch
  let mxe := (a.mxe.foldl (fun (acc : State × List State) o => let t := (acc.1.mxeRun c o).1; (t, acc.2 ++ [t])) (s, [])).2
  mxe ++ (a.vxe.toList.map fun o => (s.vxeRun c o).1) ++ (a.sleOp.toList.map fun o => s.sleRun c o) ++ (a.tme.toList.map fun o => (s.tmeRun c o).1)

/-- The same for the merge network of a cluster, whose full rounds write a record. -/
def State.roundViews (s : State) (k : Nat) : List State :=
  ((s.clu k).rounds.filter fun e => e.2.full).map fun e =>
    s.putRecord (e.2.arrived.headD 0) (s.mergeLists e.2) ((descOf e.2.tb).dstRows (descOf e.2.tb).rows)

/-- The states after each incomplete engine operation of the module. -/
def State.views (s : State) (c : Nat) : List State := s.cores.flatMap (fun e => s.engineViews e.1) ++ s.roundViews (clusterOf c)

/-- Choose each byte from one of several strings. -/
def pickBytes (seed : Nat) (n : Nat) (opts : List Bytes) : Bytes :=
  (List.range n).map fun i => (opts.getD (Config.freeNat (seed + i) % opts.length) []).getD i 0

/-- What a load reads: memory; where an incomplete engine operation writes a byte, its old or its new value (R80). -/
def State.seqRead (s : State) (c a len : Nat) : Option (Bytes × State) :=
  match s.rdLocal c a len with
  | none => none
  | some old =>
    let t := s.touchLocal c a len
    let news := (s.views c).filterMap fun u => u.rdLocal c a len
    if news.all (· == old) then some (old, t)
    else some (pickBytes s.free len (old :: news), { t with free := t.free + len })

/-! ### The instructions -/

/-- The address: base plus OFF, modulo 2⁶⁴. -/
def Arch.ea (a : Arch) (f : LdStF) : Nat := (a.rdS f.sa + f.off.signExtend 64).toNat

/-- The checks at issue: reserved bits, PM where it is not used, a register field out of range (R65, R706). -/
def ldStPre (f : LdStF) (pm own : Bool) : Option Nat := firstFault [(f.rsv != 0 || (! pm && f.pm != 0) || own, 0x01)]

/-- A load of `len` bytes: alignment, address, then the register (R72, R75, R77). -/
def loadOp (i : Instr) (c : Nat) (f : LdStF) (own : Bool) (len : Nat) (upd : Arch → Nat → Arch) (s : State) : Out :=
  s.issue i c f.g (ldStPre f false own) id false fun t =>
    let a := (t.core c).arch.ea f
    if a % len ≠ 0 then t.seqFault c 0x03 a
    else
      match t.seqRead c a len with
      | none => t.seqFault c 0x02 a
      | some (bs, u) => (u.next c).modArch c fun y => upd y (leNat bs)

/-- A store of `len` bytes: alignment, address, then memory (R72, R75, R76). -/
def storeOp (i : Instr) (c : Nat) (f : LdStF) (pm own : Bool) (len : Nat) (val : Arch → State → Nat → Bytes) (s : State) : Out :=
  s.issue i c f.g (ldStPre f pm own) id false fun t =>
    let y := (t.core c).arch
    let a := y.ea f
    if a % len ≠ 0 then t.seqFault c 0x03 a
    else
      match t.storeLocal c a (val y t a) with
      | none => t.seqFault c 0x02 a
      | some u => (u.touchLocal c a len).next c

/-- Zero-extending and sign-extending loads into s[RD]. -/
def loadU (i : Instr) (c : Nat) (f : LdStF) (len : Nat) (s : State) : Out := loadOp i c f false len (fun y v => y.wrS f.rd (w64 v)) s
def loadS (i : Instr) (c : Nat) (f : LdStF) (len : Nat) (s : State) : Out := loadOp i c f false len (fun y v => y.wrS f.rd (BitVec.ofInt 64 (sx (8 * len) v))) s
/-- A store from s[RD]. -/
def storeS (i : Instr) (c : Nat) (f : LdStF) (len : Nat) (s : State) : Out := storeOp i c f false false len (fun y _ _ => leBytes len (y.rdS f.rd).toNat) s

def execLd8u (c : Nat) (f : LdStF) (s : State) : Out := loadU (.ld8u c f) c f 1 s
def execLd16u (c : Nat) (f : LdStF) (s : State) : Out := loadU (.ld16u c f) c f 2 s
def execLd32u (c : Nat) (f : LdStF) (s : State) : Out := loadU (.ld32u c f) c f 4 s
def execLd64 (c : Nat) (f : LdStF) (s : State) : Out := loadU (.ld64 c f) c f 8 s
def execLd8s (c : Nat) (f : LdStF) (s : State) : Out := loadS (.ld8s c f) c f 1 s
def execLd16s (c : Nat) (f : LdStF) (s : State) : Out := loadS (.ld16s c f) c f 2 s
def execLd32s (c : Nat) (f : LdStF) (s : State) : Out := loadS (.ld32s c f) c f 4 s
def execSt8 (c : Nat) (f : LdStF) (s : State) : Out := storeS (.st8 c f) c f 1 s
def execSt16 (c : Nat) (f : LdStF) (s : State) : Out := storeS (.st16 c f) c f 2 s
def execSt32 (c : Nat) (f : LdStF) (s : State) : Out := storeS (.st32 c f) c f 4 s
def execSt64 (c : Nat) (f : LdStF) (s : State) : Out := storeS (.st64 c f) c f 8 s

/-- A vector register field of a load or store must have its bit 4 clear (R706). -/
def vecField (f : LdStF) : Bool := decide (16 ≤ f.rd.toNat)
def vecOfRd (f : LdStF) : BitVec 4 := f.rd.setWidth 4
def predOfRd (f : LdStF) : BitVec 3 := f.rd.setWidth 3

def execVld (c : Nat) (f : LdStF) (s : State) : Out := loadOp (.vld c f) c f (vecField f) 64 (fun y v => y.wrV (vecOfRd f) (BitVec.ofNat 512 v)) s
def execVst (c : Nat) (f : LdStF) (s : State) : Out := storeOp (.vst c f) c f false (vecField f) 64 (fun y _ _ => bvBytes 64 (y.rdV (vecOfRd f))) s

/-- What VSTP stores: the bytes of v that PM enables; a masked-off byte keeps what memory holds, and changes nothing through an alias. -/
def vstpBytes (c : Nat) (f : LdStF) (y : Arch) (t : State) (a : Nat) : Bytes :=
  let old := (t.rdLocal c a 64).getD (zeros 64)
  let new := bvBytes 64 (y.rdV (vecOfRd f))
  (List.range 64).map fun i => if (y.rdP f.pm).getLsbD i then new.getD i 0 else old.getD i 0

def execVstp (c : Nat) (f : LdStF) (s : State) : Out := storeOp (.vstp c f) c f true (vecField f) 64 (vstpBytes c f) s

def execPld (c : Nat) (f : LdStF) (s : State) : Out := loadOp (.pld c f) c f (predField f.rd) 8 (fun y v => y.wrP (predOfRd f) (w64 v)) s
def execPst (c : Nat) (f : LdStF) (s : State) : Out := storeOp (.pst c f) c f false (predField f.rd) 8 (fun y _ _ => bvBytes 8 (y.rdP (predOfRd f))) s

end Sys2Proof.Machine
end

