-- ==== Sys2Proof/Machine/Sync.lean ====
section
/-! DEFINITION. The sync and system classes (02 R53, R54, R68, R82, R89, R90, R96; 10 R401, R403; 16 R656, R657; 09 R369). -/

namespace Sys2Proof.Machine

/-- The checks of WAIT, POST and POSTC at issue (R65, R68). -/
def syncPre (f : SyncF) : Option Nat := firstFault [(f.rsv != 0 || tkBad f.tk || f.tk == 63 || f.n == 0, 0x01)]
/-- In BAR and FENCE, the TK and N fields must be 0 (R68). -/
def barPre (f : SyncF) : Option Nat := firstFault [(f.rsv != 0 || f.tk != 0 || f.n != 0, 0x01)]

/-- WAIT k, N: stall until the count is at least N, then subtract N (R53). -/
def execWait (c : Nat) (f : SyncF) (s : State) : Out :=
  s.issue (.wait c f) c f.g (syncPre f) id false fun t =>
    let k := f.tk.toNat
    let n := f.n.toNat
    let v := (t.core c).arch.rdK k
    if n ≤ v then ((t.next c).modArch c fun a => { a with k := mset 0 a.k k (w16 (v - n)) }).refreshOn c
    else t.stallAt c (.wait c f) (.wait k n)

/-- POST: add N to the own token TK (R54). -/
def execPost (c : Nat) (f : SyncF) (s : State) : Out :=
  let pc := s.pcOf c
  s.issue (.post c f) c f.g (syncPre f) id false fun t => (t.next c).postLive c f.tk.toNat f.n.toNat 0 pc

/-- POSTC: add N to token TK of core CI of this cluster, which must be of the same context (R54, R82; 10 R401). An overflow is the receiving core's
fault, at the next instruction it would issue; one of its own POSTC, at that POSTC. -/
def execPostc (c : Nat) (f : SyncF) (s : State) : Out :=
  let pc := s.pcOf c
  s.issue (.postc c f) c f.g (syncPre f) id false fun t =>
    let dst := clusterOf c * 8 + f.ci.toNat
    match t.ctxOn c with
    | none => t.seqFault c 0x02 0
    | some x =>
      match t.ctx? x with
      | none => t.seqFault c 0x02 0
      | some cx =>
        if dst = c then (t.next c).postLive c f.tk.toNat f.n.toNat 0 pc
        else if cx.cores.contains dst then (t.next c).postCtx x dst f.tk.toNat f.n.toNat
        else t.seqFault c 0x02 0

/-- Let a core past the barrier at which it stalls, wherever its state stands (R90, R96). -/
def State.passBar (s : State) (c b : Nat) : State :=
  let go (a : Arch) : Arch := if a.stall.map Stalled.why = some (.bar b) then { a with pc := a.pc + 1, stall := none } else a
  let t := s.modArch c go
  match s.ctxOn c with
  | none => t
  | some x => (t.modCtx x fun y => { y with images := y.images.map fun e => if e.1 == c then (e.1, go e.2) else e }).refresh x

/-- BAR B: a barrier fault where the core does not take part (R89); an arrival counts once a round; the last arrival releases every
participant (R90, R96). -/
def execBar (c : Nat) (f : SyncF) (s : State) : Out :=
  s.issue (.bar c f) c f.g (barPre f) id false fun t =>
    let k := clusterOf c
    let b := f.b.toNat
    let w := mget 0 (t.clu k).barMask b
    let own := match t.ctxOn c with
      | none => false
      | some x => barOwnedBy w x
    if ! own || ! w.getLsbD (c % 8) then t.seqFault c 0x07 0
    else
      let u := t.modCore c fun y => { y with steps := if y.arch.stall.isSome then y.steps else y.steps + 1 }
      let v := u.modClu k fun y => { y with arrivals := mmod 0 y.arrivals b fun m => m ||| BitVec.ofNat 8 (2 ^ (c % 8)) }
      let mask : BitVec 8 := w.setWidth 8
      let z := v.stallAt c (.bar c f) (.bar b)
      if mget 0 (v.clu k).arrivals b &&& mask == mask then
        ((List.range 8).filter fun j => mask.getLsbD j).foldl (fun y j => y.passBar (k * 8 + j) b)
          (z.modClu k fun y => { y with arrivals := mset 0 y.arrivals b 0 })
      else z

/-- FENCE: every earlier store, alias update and POSTC has taken effect, since each takes effect as it issues (R78, R82). -/
def execFence (c : Nat) (f : SyncF) (s : State) : Out := s.issue (.fence c f) c f.g (barPre f) id false fun t => t.next c

/-! ### System class -/

def sysPre (f : SysF) (own : Bool) : Option Nat := firstFault [(f.rsv != 0 || own, 0x01)]

/-- HALT: wait for all engine operations, then end the program with status sa; the last core of a job context ends it (10 R403). -/
def execHalt (c : Nat) (f : SysF) (s : State) : Out :=
  s.issue (.halt c f) c f.g (sysPre f false) id (s.core c).arch.engineBusy fun t =>
    let v := (t.core c).arch.rdS f.sa
    let u := (t.next c).modCore c fun k => { k with run := .idle, halted := true, haltStatus := v }
    match u.ctxOn c with
    | none => u
    | some x =>
      let w := (u.modCtx x fun y => { y with halted := lset y.halted c v }).refresh x
      match w.ctx? x with
      | none => w
      | some cx => match cx.kind with
        | .job => w.jobEnd x
        | _ => w

/-- Whether a core runs a model service context (09 R369). -/
def State.onModel (s : State) (c : Nat) : Bool :=
  match s.ctxOn c with
  | none => false
  | some x =>
    match s.ctx? x with
    | none => false
    | some cx => match cx.kind with
      | .entry _ => true
      | _ => false

/-- Write a program event, unless the core has written FBK_RATE.PROG of them in this second of local time (16 R650, R656, R657). -/
def State.progEvent (s : State) (c code : Nat) (payload : BitVec 64) : State :=
  let sec := s.sys.now / 1000000
  let n := if mget 0 s.fbk.progSec c = sec then mget 0 s.fbk.progCnt c else 0
  if max 1 s.fbk.rate.toNat ≤ n then
    s.modFbk fun b => { b with dropProg := satBv b.dropProg 1, lost := mmod 0 b.lost 1 (· + 1), lossDue := true }
  else
    (s.modFbk fun b => { b with progSec := mset 0 b.progSec c sec, progCnt := mset 0 b.progCnt c (n + 1) }).fbRecord (0x1000 + code % 4096)
      (words [c, (s.core c).ctx.toNat, code, payload.toNat % 2 ^ 32, payload.toNat / 2 ^ 32])

/-- EVT: a route mark of a model service context goes to the tier manager (09 R369); every other EVT writes a program event (16 R656). -/
def execEvt (c : Nat) (f : SysF) (s : State) : Out :=
  s.issue (.evt c f) c f.g (sysPre f false) id false fun t =>
    let v := (t.core c).arch.rdS f.sa
    let code := f.code.toNat
    let u := t.next c
    if 0xFE00 ≤ code ∧ code ≤ 0xFEFF ∧ t.onModel c then
      if 0xFE01 ≤ code ∧ code ≤ 0xFE04 then u.modSched fun d => { d with marks := d.marks ++ [(c, code, v.toNat % 2 ^ 24)] } else u
    else u.progEvent c code v

/-- Add to CORE_STEP_CNT the steps since it was last read in which no instruction retired: how many those are, no rule says: a free value, kept, that
does not pass the counter's top (01 R40, log 7). -/
def State.countSteps (s : State) (c : Nat) : State :=
  { s.modCore c fun k => { k with steps := k.steps + w64 (Config.freeNat s.free % (2 ^ 64 - k.steps.toNat)) } with free := s.free + 1 }

/-- TRAP: a trap fault, its CODE in CORE_TRAP (R100). -/
def execTrap (c : Nat) (f : SysF) (s : State) : Out :=
  s.issue (.trap c f) c f.g (sysPre f false) id false fun t => (t.modCore c fun k => { k with trap := f.code }).seqFault c 0x09 0

/-- RDSTEP: CORE_STEP_CNT, its stalled steps added up to now (01 R40, log 7). -/
def execRdstep (c : Nat) (f : SysF) (s : State) : Out :=
  s.issue (.rdstep c f) c f.g (sysPre f false) id false fun t =>
    let u := t.countSteps c
    (u.next c).modArch c fun a => a.wrS f.sa (u.core c).steps

def execRdcore (c : Nat) (f : SysF) (s : State) : Out :=
  s.issue (.rdcore c f) c f.g (sysPre f false) id false fun t => (t.next c).modArch c fun a => a.wrS f.sa (w64 c)

def execRdctx (c : Nat) (f : SysF) (s : State) : Out :=
  s.issue (.rdctx c f) c f.g (sysPre f false) id false fun t => (t.next c).modArch c fun a => a.wrS f.sa ((t.core c).ctx.setWidth 64)

end Sys2Proof.Machine
end

