-- ==== Sys2Proof/Machine/CoreCtl.lean ====
section
/-! DEFINITION. What the scheduler and the Surveyor firmware do to a core and a cluster: hold, pre-emption, restore, scrub, barrier masks
(02 R91, R93 to R98, R103; 10 R409 to R412). -/

namespace Sys2Proof.Machine

/-- Whether the scheduler can act on cores: the module has come up far enough, and is neither frozen nor in a low power state. -/
def State.coresLive (s : State) : Bool := s.alive 6 && ! s.asleep

/-- CORE_CTL.HOLD: 1 stops issue at the next instruction boundary, engines complete; 0 lets issue go on. -/
def execHold (c : Nat) (on : Bool) (s : State) : Out :=
  guardUnit (coreOk c) <|
    if ! s.alive 6 then .next s
    else
      .next (s.modCore c fun k => { k with
        hold := on
        run := if on && k.run == .running then .held else if ! on && k.run == .held then .running else k.run })

/-- CORE_CTL.PREEMPT: the context of the core is pre-empted whole (R93, R409); a core that runs without a context, a flash-side one, stops alone. -/
def execPreempt (c : Nat) (s : State) : Out :=
  guardUnit (coreOk c) <|
    if ! s.coresLive || (s.core c).halted then .next s
    else
      match s.ctxOn c with
      | none =>
        if (s.core c).run == .running || (s.core c).run == .held then
          .next (s.modCore c fun k => { k with preempt := true, run := .stopping, stopAt := s.sys.now })
        else .next s
      | some x =>
        match s.ctx? x with
        | none => .next s
        | some cx => if cx.place == .resident && cx.todo == [] then .next (s.preemptCtx x cx) else .next s

/-- A core's image is written: its state is zero, STATE is saved (R93 steps 7 and 8); the last core of the context saves it. -/
def State.saveCore (s : State) (x c : Nat) (cx : Ctx) : State :=
  let img := (s.core c).arch
  let t := (s.keepImage x c img).modCtx x fun y => { y with todo := setDel y.todo c }
  let u := t.modCore c fun k => { k with arch := {}, run := .saved, preempt := false }
  if setDel cx.todo c = [] then
    match u.ctx? x with
    | none => u
    | some cy => u.savedCtx x cy
  else u.refresh x

/-- A core without a context is saved: its image is written to CORE_SAVE_BASE and its state is zero (R93 steps 7 and 8). -/
def State.saveLone (s : State) (c : Nat) : State :=
  let img := (s.core c).arch
  (s.storeImage c img).modCore c fun k => { k with arch := {}, image := some img, run := .saved, preempt := false }

/-- CONTEXT_SAVED: the image of a core that stops is written, and the core is saved; a fault takes precedence (R93, R98). -/
def execContextSaved (c : Nat) (s : State) : Out :=
  guardUnit (coreOk c) <|
    if ! s.coresLive || ! ((s.core c).run == .stopping || (s.core c).run == .saving) then .next s
    else
      match s.ctxOn c with
      | none => .next (s.saveLone c)
      | some x =>
        match s.ctx? x with
        | none => .next s
        | some cx => .next (s.saveCore x c cx)

/-- Put a saved context back: its cluster records stand again, its cores are its own and restore, but for those that had halted, whose images go
back to them (R96, R97, R409, R410). -/
def State.bringBack (s : State) (x : Nat) (cx : Ctx) : State :=
  let r := cx.recs.foldl (fun t e => t.modClu e.clu fun u => u.restore (cspmSize e.clu / 16) e) s
  let t := cx.cores.foldl (fun t c => t.seat x c cx) r
  let back := cx.cores.filter fun c => ! (cx.halted.any fun h => h.1 == c)
  let u := cx.cores.foldl (fun t c => t.modCore c fun k =>
    if back.contains c then { k with restore := true, run := .restoring, halted := false }
    else { k with run := .idle, halted := true, haltStatus := (lget cx.halted c).getD 0, arch := (lget cx.images c).getD {} }) t
  (u.modCtx x fun y => { y with
    place := .resident, todo := back, images := y.images.filter fun e => back.contains e.1, recs := [], residentSince := s.sys.now
    waitSince := none }).refresh x

/-- CORE_CTL.RESTORE: the core takes back its image, which must be that of the context on it (R97); on a core of a context that is saved whole, the
context comes back whole, where its cores are free (R406, R409). -/
def State.restoreCore (s : State) (c : Nat) : State :=
  match s.ctxOn c with
  | none =>
    if (s.core c).run != .saved then s
    else if (s.core c).image.isSome then s.modCore c fun k => { k with restore := true, run := .restoring }
    else
      let x := (s.core c).ctx.toNat
      match s.ctx? x with
      | none => s
      | some cx => if cx.place == .saved && cx.cores.contains c && cx.heldFault.isNone && cx.cores.all (s.coreFree x) then s.bringBack x cx else s
  | some x =>
    match s.ctx? x with
    | none => s
    | some cx =>
      if (lget cx.images c).isSome && (s.core c).run == .saved then s.modCore c fun k => { k with restore := true, run := .restoring } else s

def execRestore (c : Nat) (s : State) : Out :=
  guardUnit (coreOk c) <| if ! s.coresLive then .next s else .next (s.restoreCore c)

/-- A core's image is back: engines resume, and issue resumes at the resume PC (R97). -/
def State.restoredCore (s : State) (x c : Nat) (img : Arch) : State :=
  let t := s.modCore c fun k => { k with arch := img, restore := false, run := if k.hold then .held else .running }
  (t.modCtx x fun y => { y with images := ldel y.images c, todo := setDel y.todo c }).refresh x

/-- The image of a core without a context is back; where its save area cannot be read, the core starts afresh and its invocation runs again (R97;
06 R253). -/
def State.restoredLone (s : State) (c : Nat) : State :=
  match (s.core c).image with
  | none => s
  | some a =>
    match s.loadImage c a with
    | (t, none) => (t.modCore c Core.scrubbed).modFch fun f => { f with invs := ldel f.invs c }
    | (t, some b) => t.modCore c fun k => { k with arch := b, image := none, restore := false, run := if k.hold then .held else .running }

/-- RESTORE_DONE: the image has been read back from the save area; where a line of it is uncorrectable, its context starts again (10 R415). -/
def execRestoreDone (c : Nat) (s : State) : Out :=
  guardUnit (coreOk c) <|
    if ! s.coresLive || (s.core c).run != .restoring then .next s
    else
      match s.ctxOn c with
      | none => .next (s.restoredLone c)
      | some x =>
        match s.ctx? x with
        | none => .next s
        | some cx =>
          match lget cx.images c with
          | none => .next s
          | some img =>
            match s.loadImage c img with
            | (t, none) => .next (t.ctxLost x)
            | (t, some a) => .next (t.restoredCore x c a)

/-- CORE_CTL.SCRUB: all state to the zero state; CORE_FAULT.VALID and CORE_BANK_WAIT clear. A core that a context still holds stays its core. -/
def execScrub (c : Nat) (s : State) : Out :=
  guardUnit (coreOk c) <|
    if ! s.alive 6 then .next s
    else .next (s.modCore c fun k => if k.bound then { k with arch := {}, fault := none, bankWait := 0, ran := false, scrub := false } else k.scrubbed)

/-- The defined bits of CLU_BAR_MASKb. -/
def barBits : BitVec 32 := 0x8003FFFF

/-- A write of CLU_BAR_MASKb discards the barrier's arrivals (R91). -/
def execCluBarMaskWrite (k b : Nat) (v : BitVec 32) (s : State) : Out :=
  guardUnit (clusterOk k && barOk b) <|
    if ! s.alive 6 then .next s
    else .next (s.modClu k fun y => { y with barMask := mset 0 y.barMask b (v &&& barBits), arrivals := mset 0 y.arrivals b 0 })

end Sys2Proof.Machine
end

