-- ==== Sys2Proof/Machine/HostOps.lean ====
section
/-! DEFINITION. Window shares, rings, answers and staging slots, and the start and end of a command's work (11 R432 to R467). -/

namespace Sys2Proof.Machine

/-! ### The window share (R432 to R436) -/

/-- The key of a share byte. -/
def shareKey (p off : Nat) : Nat := p * 2 ^ 38 + off
/-- The size of a partition's share in bytes. -/
def State.shareSize (s : State) (p : Nat) : Nat := s.host.shares.getD p 0 * 0x10000000
/-- What the CDAT of a logical device says of its one memory range: bytes, read latency in ns, bandwidth each way in GB/s; and its poison list (Table
11.1). No command of the table reads them (log 70). -/
def State.cdat (s : State) (p : Nat) : Nat × Nat × Nat := (s.shareSize p, 180, 256)
def poisonList : List Nat := []
/-- The host area starts here (Table 11.3). -/
def hostArea : Nat := 0x10000

/-- The line of DRAM, as a key of the lines without a clean codeword, where a copy of a share line stands: the second copy on another stack than the
first (R433). Which lines, the spec does not give (log 18). -/
def winPlace (line : Nat) (second : Bool) : Nat :=
  let a := Config.winLine line false % (20 * 2 ^ 30)
  let b := Config.winLine line true % (20 * 2 ^ 30)
  if second then (if b / 2 ^ 30 = a / 2 ^ 30 then (b + 2 ^ 30) % (20 * 2 ^ 30) else b) else a

/-- Whether one copy of a share line is uncorrectable under the DRAM code. -/
def State.copyBad (s : State) (line : Nat) (second : Bool) : Bool :=
  match lget s.dram.bad (winPlace line second) with
  | none => false
  | some b => b.noPromise || (rsDecode ((b.data ++ b.chk).map (·.toNat))).isNone

/-- What the DRAM code gives of one copy: its bytes, or none where it fails. A copy that holds a clean codeword of what was last written to the share has no
entry among the lines of DRAM; of a codeword of which nothing is promised the outcome is free (13 R541). -/
def State.copyOf (s : State) (line : Nat) (second : Bool) : State × Option Bytes :=
  match lget s.dram.bad (winPlace line second) with
  | none => (s, some (rdBytes s.host.share (line * 64) 64))
  | some b =>
    if b.noPromise then
      let (n, t) := s.takeFree
      if n % 3 = 0 then (t, none)
      else if n % 3 = 1 then
        let (bs, u) := t.takeBytes 64
        (u, some bs)
      else (t, some b.data)
    else (s, (rsDecode ((b.data ++ b.chk).map (·.toNat))).map fun w => (w.1.take 64).map w8)

/-- Store a copy: it is encoded, and flipped where the mask is armed at its line (13 R552). -/
def State.setCopy (s : State) (line : Nat) (second : Bool) (bs : Bytes) : State :=
  let k := winPlace line second
  let clean : BadLine := { data := bs, chk := rsCheck bs, noPromise := false }
  if s.flipAt (k / 2 ^ 25) (k % 2 ^ 25) then
    let m := s.flipBytes
    let b : BadLine :=
      { data := List.zipWith (· ^^^ ·) bs (m.take 64), chk := List.zipWith (· ^^^ ·) clean.chk (m.drop 64)
        noPromise := decide (6 ≤ (m.filter (· != 0)).length) }
    { s.modDram fun d => { d with bad := lset d.bad k b } with ecc := { s.ecc with flipArmed := false, flipHit := true } }
  else
    s.modDram fun d => { d with bad := if bs = rdBytes s.host.share (line * 64) 64 then ldel d.bad k else lset d.bad k clean }

/-- The event of a lost line (R435). -/
def State.lineLost (s : State) (line : Nat) : State :=
  let off := line * 64 % 2 ^ 38
  (s.modHost fun h => { h with lost := setIns h.lost line }).raise .hst 0 0x4008 (words [line / 2 ^ 32, off % 2 ^ 32, off / 2 ^ 32])

/-- Whether both copies of a line are clean codewords of what was last written. -/
def State.copiesClean (s : State) (line : Nat) : Bool :=
  (lget s.dram.bad (winPlace line false)).isNone && (lget s.dram.bad (winPlace line true)).isNone

/-- Look at one line: a copy that fails is rewritten from the other, and where both fail the loss is recorded; true where the line is lost (R433, R435). A
copy that decodes is left with what it decoded to. -/
def State.checkLine (s : State) (line : Nat) : State × Bool :=
  if s.host.lost.contains line then (s.lineLost line, true)
  else if s.copiesClean line then (s, false)
  else
    let (t, a) := s.copyOf line false
    let (u, b) := t.copyOf line true
    let fixed (v : State) : State := v.modHost fun h => { h with winFixed := satBv h.winFixed 1 }
    match a, b with
    | none, none => (u.lineLost line, true)
    | some x, some y => ((u.setCopy line false x).setCopy line true y, false)
    | some x, none => (fixed ((u.setCopy line false x).setCopy line true x), false)
    | none, some y => (fixed ((u.setCopy line false y).setCopy line true y), false)

/-- A read of one line by the host, which counts a lost one (R435). -/
def State.readLine (s : State) (line : Nat) : State × Bool :=
  let (t, x) := s.checkLine line
  (if x then t.modHost fun h => { h with winLost := satBv h.winLost 1 } else t, x)

/-- Look at the lines of a range of share bytes; true where one of them is lost. -/
def State.checkLines : Nat → State → Nat → State × Bool
  | 0, s, _ => (s, false)
  | n + 1, s, line =>
    let (t, a) := s.readLine line
    let (u, b) := State.checkLines n t (line + 1)
    (u, a || b)

/-- The lines that a range of keys touches: the first, and how many. -/
def lineSpan (key len : Nat) : Nat × Nat := (key / 64, (key + len + 63) / 64 - key / 64)

/-- Whether a byte of a share is undefined (R463, R465). -/
def State.isUndef (s : State) (key : Nat) : Bool := s.host.undef.any fun r => decide (r.1 ≤ key) && decide (key < r.1 + r.2)

/-- Share bytes as a read of their lines returns them: lost lines read all ones (R435), undefined bytes are free values, and of the others the first copy
counts (R433). -/
def State.shareRaw (s : State) (key len : Nat) : Bytes :=
  (List.range len).map fun i =>
    let l := (key + i) / 64
    if s.host.lost.contains l then 0xFF
    else if s.isUndef (key + i) then w8 (Config.freeNat (s.free + i))
    else match lget s.dram.bad (winPlace l false) with
      | none => rdByte s.host.share (key + i)
      | some b => b.data.getD ((key + i) % 64) 0

/-- Take a range out of the undefined ranges. -/
def undefSub (rs : List (Nat × Nat)) (key len : Nat) : List (Nat × Nat) :=
  rs.flatMap fun r =>
    if r.1 + r.2 ≤ key ∨ key + len ≤ r.1 then [r]
    else (if r.1 < key then [(r.1, key - r.1)] else []) ++ (if key + len < r.1 + r.2 then [(key + len, r.1 + r.2 - (key + len))] else [])

/-- Store the share bytes of a line in both of its copies. -/
def State.putCopies (s : State) (line : Nat) : State :=
  if s.copiesClean line && ! s.ecc.flipArmed then s
  else
    let bs := rdBytes s.host.share (line * 64) 64
    (s.setCopy line false bs).setCopy line true bs

/-- Write bytes of a share into both copies. A line that is written in part keeps in the rest what a read of it returns. -/
def State.sharePut (s : State) (key : Nat) (bs : Bytes) : State :=
  let (l, n) := lineSpan key bs.length
  let old := (List.range n).filter fun i => ! s.copiesClean (l + i) && ! s.host.lost.contains (l + i)
  let sh := old.foldl (fun m i => match lget s.dram.bad (winPlace (l + i) false) with
    | none => m
    | some b => wrBytes m ((l + i) * 64) b.data) s.host.share
  let t := s.modHost fun h => { h with
    share := wrBytes sh key bs, undef := undefSub h.undef key bs.length
    lost := h.lost.filter fun x => ! (decide (l ≤ x) && decide (x < l + n)) }
  (List.range n).foldl (fun t i => t.putCopies (l + i)) t

/-- One line of a host write: a partial write of a lost line is not performed (R435). -/
def State.hostPutLine (s : State) (key : Nat) (bs : Bytes) : State :=
  if bs.length < 64 then
    let (t, x) := s.checkLine (key / 64)
    if x then t else t.sharePut key bs
  else s.sharePut key bs

/-- A host write of share bytes, line by line. -/
def State.hostPut : Nat → State → Nat → Bytes → State
  | 0, s, _, _ => s
  | n + 1, s, key, bs =>
    if bs = [] then s else
      let m := min bs.length (64 - key % 64)
      State.hostPut n (s.hostPutLine key (bs.take m)) (key + m) (bs.drop m)

/-! ### Queue pairs -/

def qpKey (p q : Nat) : Nat := p * 64 + q
/-- Attached to a switch the module has every logical device, and directly to a root port only logical device 0 (R427). -/
def State.ldUp (s : State) (p : Nat) : Bool := s.alive 6 && s.sys.ready && (s.sys.switched || p == 0)
/-- The fabric manager reaches the FM-owned logical device through the switch (R427, R430). -/
def State.fmUp (s : State) : Bool := s.alive 6 && s.sys.ready && s.sys.switched
def State.qp? (s : State) (p q : Nat) : Option Qp := lget s.host.qps (qpKey p q)
def State.modQp (s : State) (p q : Nat) (f : Qp → Qp) : State :=
  s.modHost fun h => { h with qps := h.qps.map fun e => if e.1 == qpKey p q then (e.1, f e.2) else e }

/-- The commands of a queue pair. -/
def State.cmdsOf (s : State) (p q : Nat) : List Cmd := s.host.cmds.filter fun c => c.ref.part == p && c.ref.qp == q && ! c.silent

/-- Entries that fit in a completion ring (R454, R717). -/
def Qp.room (k : Qp) : Nat := k.desc.cqSize - 1 - k.cqUsed

/-- A completion entry (Table 11.9). -/
def entryBytes (tag q kind status sqHead off len crc : Nat) (result : Bytes) (phase : Bool) : Bytes :=
  leBytes 2 tag ++ leBytes 1 (q + 64 * kind) ++ zeros 1 ++ leBytes 2 status ++ leBytes 2 sqHead ++ leBytes 8 off ++ leBytes 4 len ++
    leBytes 4 crc ++ sub result 0 32 ++ zeros 4 ++ leBytes 4 (b2n phase * 2 ^ 31)

/-- Write one entry into the ring in host memory, and send its vector (R453 to R455). -/
def State.putEntry (s : State) (p q : Nat) (mk : Bool → Bytes) : State :=
  match s.qp? p q with
  | none => s
  | some k =>
    let addr := (k.desc.cqAddr + 64 * k.cqWr) % 2 ^ 64
    let wrap := decide (k.cqWr + 1 = k.desc.cqSize)
    let t := s.modHost fun h => { h with hostMem := lset h.hostMem (p * 2 ^ 64 + addr) (mk k.phase) }
    let u := t.modQp p q fun k => { k with cqWr := if wrap then 0 else k.cqWr + 1, phase := k.phase != wrap, cqUsed := k.cqUsed + 1 }
    if k.desc.intEn then u.sendMsi p k.desc.int else u

/-- Write the slot-lost entries for which the ring has room (R461). -/
def State.flushLost : Nat → State → Nat → Nat → State
  | 0, s, _, _ => s
  | n + 1, s, p, q =>
    match s.qp? p q with
    | none => s
    | some k =>
      match k.lost with
      | [] => s
      | (slot, head, _) :: r =>
        if k.room = 0 then s
        else State.flushLost n ((s.putEntry p q (entryBytes 0 q 2 0 head slot 0 0 [])).modQp p q fun k => { k with lost := r }) p q

/-- Ranges in use, as (first, count). -/
def State.answerUsed (s : State) (p q : Nat) (k : Qp) : List (Nat × Nat) := k.published ++ (s.cmdsOf p q).filterMap (·.res)
def State.stagingUsed (s : State) (p q : Nat) : List (Nat × Nat) := (s.cmdsOf p q).filterMap (·.slot)

/-- First fit from the lowest (R456, R462). -/
def fitFrom (used : List (Nat × Nat)) (total n : Nat) : Option Nat :=
  ((0 :: used.map fun r => r.1 + r.2).filter fun a =>
    decide (a + n ≤ total) && used.all fun r => decide (a + n ≤ r.1) || decide (r.1 + r.2 ≤ a)).min?

/-- Free blocks of an answer area. -/
def State.ansFree (s : State) (p q : Nat) (k : Qp) : Nat := k.desc.ansBlocks - ((s.answerUsed p q k).map (·.2)).sum

/-! ### The work of a command -/

/-- Commands that the module accepts before its media are ready (18 R691). -/
def earlyOp (op : Nat) : Bool := [0x01, 0x02, 0x03, 0x08, 0x09, 0x0A].contains op

/-- The module carries out commands. -/
def State.serves (s : State) (op : Nat) : Bool := s.alive 6 && ! s.asleep && (s.sys.mediaReady || earlyOp op)

/-- Whether every earlier command of the queue pair has completed (R447). -/
def State.isFirst (s : State) (c : Cmd) : Bool := (s.cmdsOf c.ref.part c.ref.qp).all fun d => decide (c.seq ≤ d.seq)

/-- The command, if it is admitted, has the row's opcode, and may start. -/
def State.startable (s : State) (r : CmdRef) (op : Nat) : Option Cmd :=
  match s.cmd? r with
  | none => none
  | some c => if c.opcode == op && c.phase == .admitted && s.serves op && (! c.ordered || s.isFirst c) then some c else none

/-- Start a command: its work begins. Without such a command admitted, nothing happens. -/
def startCmd (r : CmdRef) (op : Nat) (run : Cmd → State → State) (s : State) : Out :=
  guardUnit (refOk r) <|
    match s.startable r op with
    | none => .next s
    | some c => .next (run c (s.modCmd r fun d => { d with phase := .running }))

/-- Start a command, or carry it on while it runs. -/
def stepCmd (r : CmdRef) (op : Nat) (start more : Cmd → State → State) (s : State) : Out :=
  guardUnit (refOk r) <|
    match s.cmd? r with
    | none => .next s
    | some c =>
      if c.opcode == op && c.phase == .running && s.serves op then .next (more c s)
      else
        match s.startable r op with
        | none => .next s
        | some c => .next (start c (s.modCmd r fun d => { d with phase := .running }))

/-- The commands of an opcode that run. -/
def State.runningOf (s : State) (op : Nat) : List Cmd := s.host.cmds.filter fun c => c.opcode == op && c.phase == .running

/-- Pad to whole 64-byte lines. -/
def pad64 (bs : Bytes) : Bytes := padTo 64 bs

end Sys2Proof.Machine
end

