-- ==== Sys2Proof/Machine/SchedRows.lean ====
section
/-! DEFINITION. The scheduler's commands: job contexts, placement, pre-emption, restarts, cluster tests (10 R390, R396 to R418, R425; 13 R568,
R571). -/

namespace Sys2Proof.Machine

/-! ### CX_RUN (R396 to R400) -/

/-- The fields of a context descriptor (Table 10.1). -/
structure CxDesc where
  qntHost : Bool
  tables : Bool
  progLen : Nat
  ngrant : Nat
  nbank : Nat
  nmslot : Nat
  nbar : Nat
  paramLen : Nat
  workMb : Nat
  outAddr : Nat
  outLen : Nat
  tag : Nat
  cores : List Nat
  /-- A field is out of range, or a reserved bit is set. -/
  bad : Bool
deriving DecidableEq, Repr

def cxDesc (d : Bytes) : CxDesc :=
  let w (o : Nat) := fld d o 4
  let mask := fld d 0x40 80
  { qntHost := bit (w 0) 0, tables := bit (w 0) 1, progLen := bits (w 4) 14 0, ngrant := bits (w 8) 4 0, nbank := bits (w 8) 12 8,
    nmslot := bits (w 8) 18 16, nbar := bits (w 8) 28 24, paramLen := bits (w 0xC) 16 0, workMb := bits (w 0x10) 11 0,
    outAddr := bits (w 0x14) 20 0, outLen := bits (w 0x18) 16 0, tag := w 0x1C
    cores := (List.range 640).filter fun n => mask.testBit n
    bad := bits (w 0) 31 2 != 0 || bits (w 4) 31 15 != 0 || bits (w 8) 7 5 != 0 || bits (w 8) 15 13 != 0 || bits (w 8) 23 19 != 0 ||
      bits (w 8) 31 29 != 0 || bits (w 0xC) 31 17 != 0 || bits (w 0x10) 31 12 != 0 || bits (w 0x14) 31 21 != 0 || bits (w 0x18) 31 17 != 0 ||
      decide (2047 < bits (w 0x10) 11 0) || bits (w 4) 14 0 == 0 || decide (16384 < bits (w 4) 14 0) || decide (16 < bits (w 8) 4 0) || decide (16 < bits (w 8) 12 8) ||
      decide (4 < bits (w 8) 18 16) || decide (16 < bits (w 8) 28 24) || decide (65536 < bits (w 0xC) 16 0) ||
      bits (w 0x14) 20 0 % 64 != 0 || bits (w 0x18) 16 0 % 64 != 0 || decide (65536 < bits (w 0x18) 16 0) ||
      (sub d 0x20 0x20).any (· != 0) || (sub d 0x90 0x70).any (· != 0) }

/-- The data bytes that a descriptor asks for (R397). -/
def CxDesc.dlen (x : CxDesc) : Nat :=
  256 + 16 * x.ngrant + cdiv (8 * x.progLen) 64 * 64 + (if x.tables then 16384 else 0) + x.paramLen

/-- The grant entries of a CX_RUN, with their reserved bytes checked (R398). -/
def cxGrants (d : Bytes) (x : CxDesc) : List (Grant × Bool) :=
  (List.range x.ngrant).map fun i =>
    let o := 256 + 16 * i
    let fl := fld d (o + 12) 1
    ({ base := fld d o 8, len := fld d (o + 8) 4, r := bit fl 0, w := bit fl 1 }, decide (4 ≤ fl) || fld d (o + 13) 3 != 0)

/-- Cut a range at the units it passes through, which adjoin at multiples of `unit`. -/
def cutUnits (unit : Nat) : Nat → Nat → Nat → List (Nat × Nat)
  | 0, _, _ => []
  | n + 1, a, len =>
    let e := (a / unit + 1) * unit
    if a + len ≤ e then [(a, len)] else (a, e - a) :: cutUnits unit n e (a + len - e)

/-- Whether a range lies in the scratchpads of a context's own cores, or of clusters that its cores touch (R398). It may pass from one into the next,
where their addresses adjoin. -/
def ownScratch (cores : List Nat) (a len : Nat) : Bool :=
  (cutUnits (if a < 0x40000000000 then 0x200000 else 0x800000) 1025 a len).all fun r => match placeOf 0 r.1 r.2 with
    | .coreN n _ => cores.contains n
    | .cluM m _ => (clustersOfCores cores).contains m
    | _ => false

/-- A grant entry that breaks the grant rule (R398): a length, a range with R = 1 elsewhere than in one channel's pool share or in the context's own
scratchpads, a range with W = 1 elsewhere than in those. -/
def State.grantBad (s : State) (p : Nat) (x : CxDesc) (g : Grant) : Bool :=
  g.len < 64 || decide (2 ^ 31 < g.len) || g.len % 64 != 0 ||
  (! ownScratch x.cores g.base g.len && (g.w || (g.r && ! match placeOf 0 g.base g.len with
    | .chan c o => s.ownerClu (c / 8) == some p && decide (s.poolBase c ≤ o) && ! s.dram.withdrawn.contains c
    | _ => false)))

/-- The failures of a CX_RUN at admission, status invalid parameter (R391, R397). -/
def State.cxRunCheck (s : State) (c : Cmd) : Option (Nat × Bytes) :=
  let x := cxDesc c.data
  let p := c.ref.part
  let bad := c.dlen < 256 || x.bad || x.cores == [] || x.cores.any (fun n => s.ownerCore n != some p) ||
    s.sched.ctxs.any (fun e => e.2.kind == .job && e.2.part == p && e.2.tag.toNat == x.tag) ||
    decide (0x200000 < x.outAddr + x.outLen) || (decide (0 < x.outLen) && decide (x.outAddr < x.paramLen)) ||
    c.dlen != x.dlen || (cxGrants c.data x).any fun g => g.2 || s.grantBad p x g.1
  if bad then some (2, []) else if x.cores.any s.numberDead then some (0xFF, []) else none

/-- The answer body a CX_RUN may give (R403). -/
def cxRunReserve (c : Cmd) : Nat :=
  let x := cxDesc c.data
  64 + x.cores.length * (16 + x.outLen)

/-- Bytes of a save area (R395). -/
def saveBytes (c : Nat) : Nat := if stackSide c then 2293760 else 1245184

/-- The channel of a core's areas: its own, or its host core's where that is withdrawn (13 R561). -/
def State.areaChan (s : State) (c : Nat) : Nat := if s.dram.withdrawn.contains c then s.hostOf c else c

/-- Allocate the save area and the work area of a context on each of its cores, in its own channel. -/
def State.ctxAreas (s : State) (x p workMb : Nat) : List Nat → Option State
  | [] => some s
  | c :: cs =>
    match s.poolAlloc p (s.areaChan c) (saveBytes c) .state (.save x c) with
    | none => none
    | some t =>
      match (if workMb = 0 then some t else t.poolAlloc p (s.areaChan c) (workMb * 0x100000) .state (.work x c)) with
      | none => none
      | some u => State.ctxAreas u x p workMb cs

/-- The context of a CX_RUN. -/
def cxOf (c : Cmd) (now : Nat) : Ctx :=
  let x := cxDesc c.data
  let o1 := 256 + 16 * x.ngrant
  let o2 := o1 + cdiv (8 * x.progLen) 64 * 64
  let o3 := o2 + (if x.tables then 16384 else 0)
  let wordsAt (o n : Nat) : NMap (BitVec 64) := (List.range n).foldl (fun m i => mset 0 m i (w64 (fld c.data (o + 8 * i) 8))) []
  { kind := .job, part := c.ref.part, cores := x.cores, qntHost := x.qntHost, progLen := x.progLen, prog := wordsAt o1 x.progLen
    ftab := if x.tables then wordsAt o2 2048 else [], params := sub c.data o3 x.paramLen, workMb := x.workMb, outAddr := x.outAddr
    outLen := x.outLen, nbank := x.nbank, nmslot := x.nmslot, nbar := x.nbar, grants := (cxGrants c.data x).map (·.1), tag := w32 x.tag
    cmd := some c.ref, waitSince := some now }

/-- The grants that name cluster banks must name banks the context owns (R398). -/
def State.bankGrantsOk (s : State) (x : Nat) (cx : Ctx) : Bool :=
  cx.grants.all fun g =>
    ! (g.r || g.w) || (cutUnits 0x800000 1025 g.base g.len).all fun r => match placeOf 0 r.1 r.2 with
      | .cluM m o => (List.range (cspmBank m (o + r.2 - 1) + 1 - cspmBank m o)).all fun i => ownedBy (mget 0 (s.clu m).spmOwn (cspmBank m o + i)) x
      | _ => true

/-- Create a context: its number, areas and cluster resources (R393, R395, R397). -/
def State.newCtx (s : State) (cx : Ctx) : Option (State × Nat) :=
  match s.newCtxNo with
  | none => none
  | some x =>
    match s.ctxAreas x cx.part cx.workMb cx.cores with
    | none => none
    | some t =>
      match t.allotAll x cx (clustersOfCores cx.cores) with
      | none => none
      | some u => some (u.modSched fun d => { d with ctxs := lset d.ctxs x cx }, x)

/-- CX_RUN: the failures of R397, or a job context that waits for its cores; it ends with R403, a fault or an abort. -/
def execCxRun (r : CmdRef) (s : State) : Out :=
  startCmd r 0x70 (fun c t =>
    match t.cxRunCheck c with
    | some (st, res) => t.cmdFail r st res
    | none =>
      match t.newCtx (cxOf c t.sys.now) with
      | none => t.cmdFail r 6 []
      | some (u, x) => if u.bankGrantsOk x (cxOf c t.sys.now) then u else t.cmdFail r 2 []) s

/-! ### CX_POST (R402, R410) -/

/-- The job context of a partition with a TAG. -/
def State.jobTagged (s : State) (p tag : Nat) : Option (Nat × Ctx) :=
  s.sched.ctxs.find? fun e => e.2.kind == .job && e.2.part == p && e.2.tag.toNat == tag

def cxPostCheck (c : Cmd) : Option (Nat × Bytes) :=
  if c.p2 = 0 ∨ 65535 < c.p2 ∨ bits c.p1 15 10 ≠ 0 ∨ bits c.p1 31 21 ≠ 0 then some (2, []) else none

def execCxPost (r : CmdRef) (s : State) : Out :=
  startCmd r 0x71 (fun c t =>
    let core := bits c.p1 9 0
    let tok := bits c.p1 20 16
    match t.jobTagged r.part c.obj with
    | none => t.cmdFail r 0x22 []
    | some (x, cx) =>
      if cx.cores.contains core then
        let u := t.modCtx x fun y => { y with posts := y.posts ++ [{ core := core, tok := tok, n := c.p2 }] }
        (u.postCtx x core tok c.p2).cmdDone r [] none
      else t.cmdFail r 0x22 []) s

/-! ### Placement and pre-emption (R406 to R409) -/

/-- Whether two core sets need a common core, a host core and its numbers counting as one (13 R571). -/
def State.clash (s : State) (a b : List Nat) : Bool := a.any fun c => b.any fun d => s.hostOf c == s.hostOf d

/-- A context that waits for its core set, and since when (R406). -/
def Ctx.waits (cx : Ctx) : Option Nat := if cx.place == .waiting || cx.place == .saved then cx.waitSince else none

/-- Whether context x goes before every other waiting context that needs a common core (R406). -/
def State.goesFirst (s : State) (x : Nat) (cx : Ctx) (t : Nat) : Bool :=
  s.sched.ctxs.all fun e =>
    e.1 == x || ! s.clash e.2.cores cx.cores || match e.2.waits with
      | none => true
      | some u => decide (t < u) || (t == u && decide (x < e.1))

/-- CONTEXT_PLACE: a waiting context whose cores are all free, and that goes first among its rivals, becomes resident (R406). -/
def execContextPlace (x : Nat) (s : State) : Out :=
  guardUnit (ctxOk x) <|
    if ! s.coresLive then .next s
    else
      match s.ctx? x with
      | none => .next s
      | some cx =>
        match cx.waits with
        | none => .next s
        | some t =>
          if cx.cores.all (s.coreFree x) && s.goesFirst x cx t && cx.heldFault.isNone then
            .next (if cx.started then s.bringBack x cx else s.startCtx x cx)
          else .next s

/-- The context of a list that comes first by a time, ties to the lower number. -/
def oldest (l : List (Nat × Nat × Ctx)) : Option (Nat × Nat × Ctx) :=
  l.foldl (fun b e => match b with
    | none => some e
    | some y => if e.2.1 < y.2.1 || (e.2.1 == y.2.1 && decide (e.1 < y.1)) then some e else some y) none

/-- Resident contexts of a partition. -/
def State.residents (s : State) (p : Nat) : List (Nat × Ctx) := s.sched.ctxs.filter fun e => e.2.part == p && e.2.place == .resident

/-- BLOCKED_SAVE: with every resident context blocked for SCH_BLOCK.MIN, the one blocked longest of those that hold cores of the longest
waiting context is saved (R407). -/
def execBlockedSave (p : Nat) (s : State) : Out :=
  guardUnit (partOk p) <|
    if ! s.coresLive then .next s
    else
      let res := s.residents p
      let now := s.sys.now
      let all := res.all fun e => match e.2.blockedSince with
        | none => false
        | some t => decide (t + s.sched.block.toNat ≤ now)
      let wait := oldest ((s.sched.ctxs.filter fun e => e.2.part == p).filterMap fun e => e.2.waits.map fun t => (e.1, t, e.2))
      match wait with
      | none => .next s
      | some (_, _, w) =>
        if ! all then .next s
        else
          match oldest ((res.filter fun e => s.clash e.2.cores w.cores && e.2.todo == []).map fun e => (e.1, e.2.blockedSince.getD now, e.2)) with
          | none => .next s
          | some (y, _, cy) => .next (s.preemptCtx y cy)

/-- SLICE of R408 in µs; 0 acts as 1. -/
def State.sliceTime (s : State) : Nat := max 1 s.sched.slice.toNat * 10

/-- SLICE_PREEMPT: a context that has waited longer than SLICE pre-empts the resident contexts that hold its cores and have been resident for
SLICE (R408). -/
def execSlicePreempt (x : Nat) (s : State) : Out :=
  guardUnit (ctxOk x) <|
    if ! s.coresLive then .next s
    else
      match s.ctx? x with
      | none => .next s
      | some cx =>
        match cx.waits with
        | none => .next s
        | some t =>
          if s.sys.now ≤ t + s.sliceTime then .next s
          else
            let out := (s.residents cx.part).filter fun e =>
              s.clash e.2.cores cx.cores && e.2.todo == [] && decide (e.2.residentSince + s.sliceTime ≤ s.sys.now)
            let u := out.foldl (fun t e => t.preemptCtx e.1 e.2) s
            .next (if out.isEmpty then s else u.modCtx x fun y => { y with sliced := true })

/-- An uncorrectable SRAM word of one of a context's cores is counted and recorded (13 R565); which core, array and word it is, is a free value. -/
def State.sramLost (s : State) (cx : Ctx) : State :=
  let n := Config.freeNat s.free
  let t := { s with free := s.free + 3, ecc := { s.ecc with sramUe := satBv s.ecc.sramUe 1 } }
  t.raise .ecc 0 0x5001 (words [cx.cores.getD (n % max 1 cx.cores.length) 0, Config.freeNat (s.free + 1) % 2 ^ 32, Config.freeNat (s.free + 2) % 2 ^ 32])

/-- JOB_RESTART: a failed part discards a job context's state and starts it again (R415). Causes: 0 failed core, 1 SRAM word, 2 DRAM line. -/
def execJobRestart (x cause : Nat) (s : State) : Out :=
  guardUnit (ctxOk x) <|
    if ! s.coresLive then .next s
    else
      match s.ctx? x with
      | none => .next s
      | some cx =>
        match cx.kind with
        | .job => .next ((whenS (cause == 1) s (s.sramLost cx)).rerunCtx x cx cause)
        | _ => .next s

/-! ### R425 -/

/-- A completion or a slot-lost entry that has waited for ring space, or a transfer-ready that has waited for data-done, for more than 1 s. -/
def State.stalled (s : State) (p : Nat) : Bool :=
  let long (t : Nat) : Bool := decide (t + 1000000 < s.sys.now)
  let full (q : Nat) : Bool := ((s.qp? p q).map fun k => k.room == 0).getD false
  (s.host.cmds.any fun c => c.ref.part == p && ! c.silent && ((c.phase == .done && full c.ref.qp) || c.phase == .wantData) && long c.since) ||
  s.host.qps.any fun e => e.1 / 64 == p && ((e.2.lost.any fun x => long x.2.2) || e.2.dups.any fun x => long x.2.2)

/-- The bit clears when no such wait remains. -/
def State.unstall (s : State) (p : Nat) : State :=
  if s.stalled p then s else s.modSched fun d => { d with stall := d.stall &&& ~~~(BitVec.ofNat 16 (2 ^ p)) }

def execStallDetect (p : Nat) (s : State) : Out :=
  guardUnit (partOk p) <|
    if s.alive 6 && s.stalled p && ! s.sched.stall.getLsbD p then
      .next ((s.modSched fun d => { d with stall := d.stall ||| BitVec.ofNat 16 (2 ^ p) }).raise .sch 0 0x8002 (words [p]))
    else .next s

/-! ### Cluster tests (R418), hosted numbers (13 R571), transparent tests (13 R568) -/

/-- The resident contexts that hold a core of a cluster. -/
def State.onCluster (s : State) (k : Nat) : List (Nat × Ctx) :=
  s.sched.ctxs.filter fun e => (e.2.place == .resident || e.2.place == .saving) && e.2.cores.any fun c => clusterOf c == k

def State.stClusterCheck (s : State) (c : Cmd) : Option (Nat × Bytes) :=
  if c.obj < 80 ∧ s.ownerClu c.obj = some c.ref.part then none else some (2, [])

/-- HOSTED_NUMBER_SWITCH: a host core runs the next of the numbers it holds that a context has on it. -/
def execHostedNumberSwitch (c : Nat) (s : State) : Out :=
  guardUnit (coreOk c) <|
    let h := s.hostOf c
    let cur := (lget s.ecc.hosting h).getD h
    let held := (s.sameHost h).filter fun n => (s.core n).bound
    match (held.filter (cur < ·)).min?.or held.min? with
    | none => .next s
    | some n => if s.coresLive then .next { s with ecc := { s.ecc with hosting := lset s.ecc.hosting h n } } else .next s

end Sys2Proof.Machine
end

