-- ==== Sys2Proof/Machine/Graticule.lean ====
section
/-! DEFINITION. Graticule's operations: dies and blocks, superblocks and write points, the map and its journal, the write buffer, page
reads with their retry path, relocation, spare and heat age (12). -/

namespace Sys2Proof.Machine

def State.modGr (s : State) (f : Grat → Grat) : State := { s with gr := f s.gr }

/-! ### Geometry (R487 to R489) -/

/-- The die on chip enable t of channel h, and the channel of a die (01 R29). -/
def nandDie (h t : Nat) : Nat := t * 128 + h
def nandChan (d : Nat) : Nat := d % 128
/-- The die group of a die, and its position in it, which is also its NAND package (R488). -/
def nandGroup (d : Nat) : Nat := 4 * (d / 128) + d % 4
def nandPos (d : Nat) : Nat := d % 128 / 4
/-- The die at a position of a group. -/
def groupDie (g pos : Nat) : Nat := nandDie (4 * pos + g % 4) (g / 4)
def blkKey (d b : Nat) : Nat := d * 12500 + b
/-- Blocks 0 to 7 of a die are system blocks, 8 to 199 SLC blocks, 200 on QLC blocks (log 20). -/
def qlcBlk (k : Nat) : Bool := decide (200 ≤ k % 12500)
def slcBlk (k : Nat) : Bool := decide (8 ≤ k % 12500) && decide (k % 12500 < 200)
def pageKey (blk page : Nat) : Nat := blk * 2500 + page
/-- Bytes of a page and of a mapping unit. -/
def unitBytes : Nat := 16384
/-- The user capacity and the write buffer, in units (R495, R499). -/
def userUnits : Nat := 13916015625
def slotCount : Nat := 524288

def State.fblk (s : State) (k : Nat) : FBlk := mget {} s.gr.blks k
def State.modFblk (s : State) (k : Nat) (f : FBlk → FBlk) : State := s.modGr fun g => { g with blks := mmod {} g.blks k f }
def Grat.dieUp (g : Grat) (d : Nat) : Bool := ! g.deadDies.contains d && ! g.deadChans.contains (nandChan d)

/-! ### Spare and wear (R489, R514, R520) -/

/-- QLC blocks in service (R514). -/
def Grat.inService (g : Grat) : Nat :=
  ((List.range 512).filter g.dieUp).length * 12300 -
    (g.blks.filter fun e => e.2.phase == .retired && qlcBlk e.1 && g.dieUp (e.1 / 12500)).length

/-- Spare data pages, and at manufacture. -/
def Grat.sparePages (g : Grat) : Nat := g.inService * 2500 * 31 / 32 - userUnits
def initialSpare : Nat := 1335984375
/-- SPARE of Table 12.5. -/
def Grat.sparePct (g : Grat) : Nat := g.sparePages * 100 / initialSpare

/-- Cycles of the QLC blocks in service, of those listed. -/
def Grat.qlcCycles (g : Grat) : List Nat :=
  (g.blks.filter fun e => e.2.phase != .retired && qlcBlk e.1 && g.dieUp (e.1 / 12500)).map (·.2.cycles)
/-- Wear used, and SLC wear, in percent (R520). -/
def Grat.wear (g : Grat) : Nat := g.qlcCycles.sum * 100 / (1500 * max 1 g.inService)
def Grat.slcWear (g : Grat) : Nat :=
  (((g.blks.filter fun e => slcBlk e.1).map (·.2.cycles)).sum) * 100 / (30000 * 98304)
/-- Largest less smallest cycle count (R521). -/
def Grat.spread (g : Grat) : Nat :=
  let low := if g.qlcCycles.length < g.inService then 0 else g.qlcCycles.min?.getD 0
  g.qlcCycles.max?.getD 0 - low

/-! ### Namespaces and the map (R490 to R495) -/

def nsKey (p n : Nat) : Nat := p * 2 ^ 20 + n
def unitKey (ns u : Nat) : Nat := ns * 2 ^ 48 + u
def State.ns? (s : State) (k : Nat) : Option Ns := lget s.gr.ns k
def State.modNs (s : State) (k : Nat) (f : Ns → Ns) : State := s.modGr fun g => { g with ns := g.ns.map fun e => if e.1 == k then (e.1, f e.2) else e }
def State.entry? (s : State) (ns u : Nat) : Option MapEnt := lget s.gr.map (unitKey ns u)
/-- Units that all namespaces reserve (R490). -/
def Grat.reserved (g : Grat) : Nat := (g.ns.map (·.2.cap)).sum
/-- Mapped units of a namespace. -/
def Grat.mapped (g : Grat) (ns : Nat) : Nat := (g.map.filter fun e => e.1 / 2 ^ 48 == ns).length

/-! ### Encryption at rest (15 R621, R622) -/

/-- The tweak of a mapping unit: namespace number, partition, unit number. -/
def xtsTweak (ns u : Nat) : Nat := ns % 2 ^ 16 + ns / 2 ^ 20 % 16 * 2 ^ 16 + u % 2 ^ 44 * 2 ^ 20
/-- The media key of a namespace's partition that is loaded now, counted from 0. -/
def State.mediaGen (s : State) (ns : Nat) : Nat := mget 0 s.sec.mediaKey (ns / 2 ^ 20)
/-- What the cells of a page hold: its unit, one XTS data unit, under the media key of the partition. -/
def FPage.cells (p : FPage) : Bytes :=
  Config.aesXts true (Config.mediaKey (p.ns / 2 ^ 20) p.key) (xtsTweak p.ns p.unit) (rdBytes p.data 0 16384)
/-- What the XTS unit makes of a page read as a unit of a namespace: the unit itself under its own key and tweak, other bytes under another (log 103). -/
def State.openPage (s : State) (p : FPage) (ns u : Nat) : Mem :=
  if p.key = s.mediaGen ns ∧ p.ns = ns ∧ p.unit = u then p.data
  else wrBytes [] 0 (Config.aesXts false (Config.mediaKey (ns / 2 ^ 20) (s.mediaGen ns)) (xtsTweak ns u) p.cells)

/-- Commit one record (R496). -/
def State.commit (s : State) : State := s.modGr fun g => { g with jseq := g.jseq + 1 }

/-- What a power loss gives back of a table from now on (07 R281, 08 R341). -/
def State.syncMark (s : State) (m : Option (Nat × Nat × List (Nat × Nat))) : State :=
  match m with
  | none => s
  | some (tk, no, fz) => { s with atl := { s.atl with tabs := s.atl.tabs.map fun e =>
      if e.1 == tk then (e.1, { e.2 with syncVer := no, syncFrozen := fz, syncOld := if e.2.syncVer = no then e.2.syncOld else none }) else e } }

/-- Completions whose slots are programmed and whose record is durable (R497). -/
def State.finishAwaits (s : State) : State :=
  let ok (a : Await) : Bool := a.slots == [] && (! s.host.wt || decide (a.jneed ≤ s.gr.jdur))
  let out := s.gr.awaits.filter ok
  let t := s.modGr fun g => { g with awaits := g.awaits.filter fun a => ! ok a }
  out.foldl (fun t a => (t.syncMark a.sync).cmdDone a.ref a.result a.body) t

/-- End a command whose effect is a commit: it waits for the slots named, and in write-through for its record (R474, R497). -/
def State.commitDone (s : State) (r : CmdRef) (slots : List Nat) (result : Bytes) (body : Option Bytes) : State :=
  (s.modGr fun g => { g with awaits := g.awaits ++ [{ ref := r, slots := slots, jneed := g.jseq, result := result, body := body }] }).finishAwaits

/-- End an AT_SYNC: as it completes, a power loss gives back the version and the frozen rows given (07 R281). -/
def State.syncDone (s : State) (r : CmdRef) (slots : List Nat) (m : Nat × Nat × List (Nat × Nat)) : State :=
  (s.modGr fun g => { g with
    awaits := g.awaits ++ [{ ref := r, slots := slots, jneed := g.jseq, result := [], body := none, sync := some m }] }).finishAwaits

/-- Whether a write waits for its slots to be programmed: FUA, or write-through (R470, R474). -/
def State.forced (s : State) (c : Cmd) : Bool := c.fua || s.host.wt

/-! ### Blocks and superblocks (R503 to R505, R520, R524) -/

/-- The free block of a die with the lowest count, or with the highest; of equal counts, the lowest number (R520, log 20). -/
def Grat.pickBlk (g : Grat) (d : Nat) (worn slc : Bool) : Option Nat :=
  let cands := (List.range (if slc then 192 else 12300)).map fun i => blkKey d (i + if slc then 8 else 200)
  let held : List Nat := if slc then ((lget g.reserve d).getD [8, 9]).map (blkKey d) else []
  let isFree (k : Nat) : Bool := (mget ({} : FBlk) g.blks k).phase == .free && ! held.contains k
  if ! g.dieUp d then none
  else if worn then
    (cands.filter isFree).foldl (fun (b : Option Nat) k => match b with
      | none => some k
      | some j => if (mget ({} : FBlk) g.blks j).cycles < (mget ({} : FBlk) g.blks k).cycles then some k else some j) none
  else
    match cands.find? fun k => isFree k && (mget ({} : FBlk) g.blks k).cycles == 0 with
    | some k => some k
    | none =>
      (cands.filter isFree).foldl (fun (b : Option Nat) k => match b with
        | none => some k
        | some j => if (mget ({} : FBlk) g.blks k).cycles < (mget ({} : FBlk) g.blks j).cycles then some k else some j) none

/-- The lowest number that no superblock carries. -/
def Grat.newSb (g : Grat) : Nat := ((List.range (g.sbs.length + 1)).find? fun n => ! g.sbs.any (·.1 == n)).getD 0

/-- Temperature of NAND package p in 0.25 °C (14 R578: sensors 60 to 91). -/
def State.nandTemp (s : State) (p : Nat) : Nat := (mget 0 s.svy.temp (60 + p)).toNat

/-- Assemble a superblock of a die group for a write point (R503, R520, R524). -/
def State.assemble (s : State) (kind grp carried : Nat) (worn : Bool) : State × Option Nat :=
  let bs := (List.range 32).map fun pos => s.gr.pickBlk (groupDie grp pos) worn false
  if bs.all (·.isNone) then (s, none) else
    let n := s.gr.newSb
    let sb : SuperBlk :=
      { kind := kind, group := grp, blocks := bs, poc := s.sys.poc, time := s.sys.now
        temp := ((List.range 32).map s.nandTemp).max?.getD 0, clocks := (List.range 32).map (mget 0 s.gr.clock), carried := carried }
    let t := bs.foldl (fun t b => match b with
      | none => t
      | some k => t.modFblk k fun x => { x with phase := .used, reads := 0 }) s
    (t.modGr fun g => { g with sbs := lset g.sbs n sb }, some n)

def SuperBlk.has (b : SuperBlk) (pos : Nat) : Bool := (b.blocks.getD pos none).isSome
/-- The position of the light parity page of a stripe: j mod 32, or the next position above that has a block (R503, R506, log 20). -/
def SuperBlk.parityPos (b : SuperBlk) (j : Nat) : Nat :=
  (((List.range 32).map fun i => (j + i) % 32).find? b.has).getD (j % 32)
/-- Whether a place in program order takes a data page. -/
def SuperBlk.isData (b : SuperBlk) (n : Nat) : Bool := decide (n < 80000) && b.has (n % 32) && n % 32 != b.parityPos (n / 32)
/-- The next place for a data page from a place on, at a position if one is asked for. -/
def SuperBlk.place (b : SuperBlk) (from' : Nat) (pos : Option Nat) : Option Nat :=
  ((List.range 2080).map (from' + ·)).find? fun n => b.isData n && match pos with
    | none => true
    | some p => n % 32 == p
/-- Data places passed over on the way to a place, which filler pages take (R508). -/
def SuperBlk.passed (b : SuperBlk) (lo hi : Nat) : Nat := ((List.range (hi - lo)).filter fun i => b.isData (lo + i)).length

/-- Full-parity pages programmed once `n` data pages are (R504). -/
def fullPages (n : Nat) : Nat := n / 7

/-- Companion blocks that the full-parity pages of a superblock need (R504). -/
def State.growComps (s : State) (n : Nat) : State :=
  match lget s.gr.sbs n with
  | none => s
  | some b =>
    if fullPages b.count ≤ b.comps.length * 625 then s else
      match (List.range 512).findSome? fun d => s.gr.pickBlk d false true with
      | none => s
      | some k =>
        (s.modFblk k fun x => { x with phase := .used }).modGr fun g => { g with sbs := lset g.sbs n { b with comps := b.comps ++ [k] } }

/-- Program one data page of a superblock at a place: fillers, light parity, full parity and its bytes; the superblock closes with its last
page (R504, R505, R508). -/
def State.programAt (s : State) (n place : Nat) : State :=
  match lget s.gr.sbs n with
  | none => s
  | some b =>
    let fill := b.passed b.next place
    let stop := (b.place (place + 1) none).isNone
    let stripes := (if stop then place / 32 + 1 else ((b.place (place + 1) none).getD place) / 32) - b.next / 32
    let cnt := b.count + fill + 1
    let pgs := fill + 1 + stripes + (fullPages cnt - fullPages b.count)
    let b' : SuperBlk :=
      { b with next := place + 1, count := cnt, phase := if stop then .closed else b.phase, closedAt := if stop then s.gr.closes + 1 else b.closedAt }
    (s.modGr fun g => { g with
      sbs := lset g.sbs n b', nandBytes := g.nandBytes + pgs * unitBytes, closes := if stop then g.closes + 1 else g.closes }).growComps n

/-- Find the superblock of a write point that can take a page, or assemble one; then program a page of it. The answer is the page's physical
address. -/
def State.placePage (s : State) (kind grp : Nat) (pos : Option Nat) (carried : Nat) (worn : Bool) : State × Option Nat :=
  let fits := s.gr.sbs.find? fun e => e.2.kind == kind && (decide (256 ≤ kind) || e.2.group == grp) && e.2.phase == .filling &&
    (e.2.place e.2.next pos).isSome
  let (t, num) := match fits with
    | some e => (s, some e.1)
    | none => s.assemble kind grp carried worn
  match num with
  | none => (t, none)
  | some n =>
    match lget t.gr.sbs n with
    | none => (t, none)
    | some b =>
      match b.place b.next pos with
      | none => (t, none)
      | some at' =>
        match b.blocks.getD (at' % 32) none with
        | none => (t, none)
        | some k => (t.programAt n at', some (pageKey k (at' / 32)))

/-- A channel is in service while one of its dies is. -/
def Grat.chanUp (g : Grat) (c : Nat) : Bool := (List.range 4).any fun t => g.dieUp (nandDie c t)
/-- The channel that a directed page goes to: its own, or the next one in service above it (R508). -/
def Grat.liveChan (g : Grat) (h : Nat) : Nat :=
  (((List.range 128).map fun i => (h + i) % 128).find? g.chanUp).getD h
/-- The chip enable of a directed page: the one asked for, or the next in rotation whose die is in service. -/
def Grat.liveEnable (g : Grat) (c t : Nat) : Nat :=
  (((List.range 4).map fun i => (t + i) % 4).find? fun e => g.dieUp (nandDie c e)).getD t

/-- Where the next page of a write point goes: write point, die group, position (R508, R535, R536). -/
def Grat.target (g : Grat) (dir : Option (Nat × Nat)) (handle : Nat) (reloc : Bool) : Nat × Nat × Option Nat :=
  match dir with
  | some (h, t) =>
    let c := g.liveChan h
    let grp := 4 * g.liveEnable c t + c % 4
    ((if reloc then 16 + grp else grp), grp, some (c / 4))
  | none =>
    let grp := g.rot % 16
    (if handle ≠ 0 then 256 + handle else if reloc then 16 + grp else grp, grp, none)

/-- Program a page of data at the right write point. -/
def State.programPage (s : State) (ns u : Nat) (data : Mem) (dir : Option (Nat × Nat)) (handle : Nat) (reloc : Bool) (carried : Nat) (worn : Bool) :
    State × Option Nat :=
  let (kind0, grp, pos) := s.gr.target dir handle reloc
  let kind := if worn && kind0 < 32 then 32 + grp else kind0
  match s.placePage kind grp pos carried worn with
  | (t, none) => (t, none)
  | (t, some a) =>
    (t.modGr fun g => { g with
      pages := lset g.pages a { ns := ns, unit := u, data := data, dir := dir, key := s.mediaGen ns }, rot := if dir.isNone && handle == 0 then g.rot + 1 else g.rot }, some a)

/-- The open blocks of the SLC cache. -/
def Grat.slcOpen (g : Grat) (k : Nat) : Bool := (g.slcAt.map (·.1)) == some k || g.slcDir.any fun e => e.2.1 == k

/-- Program a page of the SLC cache; a directed page goes to a die of its channel there too (R501, R502, R508). -/
def State.programSlc (s : State) (ns u : Nat) (data : Mem) (dir : Option (Nat × Nat)) : State × Option Nat :=
  let room (o : Option (Nat × Nat)) : Option (Nat × Nat) := o.filter fun x => decide (x.2 < 625)
  let die : Option Nat := dir.map fun e => let c := s.gr.liveChan e.1; nandDie c (s.gr.liveEnable c e.2)
  let at' := match die with
    | none => (room s.gr.slcAt).or (((List.range 512).findSome? fun d => s.gr.pickBlk d false true).map fun k => (k, 0))
    | some d => (room (lget s.gr.slcDir d)).or ((s.gr.pickBlk d false true).map fun k => (k, 0))
  match at' with
  | none => (s, none)
  | some (k, n) =>
    let t := s.modFblk k fun x => { x with phase := .used }
    (t.modGr fun g => { g with
      slcAt := if die.isNone then some (k, n + 1) else g.slcAt
      slcDir := match die with
        | none => g.slcDir
        | some d => lset g.slcDir d (k, n + 1)
      nandBytes := g.nandBytes + unitBytes
      pages := lset g.pages (pageKey k n) { ns := ns, unit := u, data := data, dir := dir, key := s.mediaGen ns } }, some (pageKey k n))

/-! ### Releasing blocks (R515, R516) -/

/-- Whether a page holds a valid unit: the map names it, and its unit is readable. -/
def State.pageValid (s : State) (a : Nat) (p : FPage) : Bool :=
  s.entry? p.ns p.unit == some { buf := false, addr := a } && ! s.gr.unread.contains (unitKey p.ns p.unit)

/-- The valid pages of a block. -/
def State.validIn (s : State) (k : Nat) : List (Nat × FPage) := s.gr.pages.filter fun e => e.1 / 2500 == k && s.pageValid e.1 e.2

/-- Queue a block for erase, once no valid unit remains in it (R515 step 4). -/
def State.queueErase (s : State) (k : Nat) : State :=
  if (s.validIn k).isEmpty && (s.fblk k).phase == .used then s.modFblk k fun x => { x with phase := .queued, jneed := s.gr.jseq } else s

/-- The valid pages of a superblock. -/
def State.sbValid (s : State) (b : SuperBlk) : List (Nat × FPage) :=
  s.gr.pages.filter fun e => b.blocks.contains (some (e.1 / 2500)) && s.pageValid e.1 e.2

/-- A superblock that holds no valid unit and is closed gives up its blocks and its companions. -/
def State.dissolve (s : State) (n : Nat) : State :=
  match lget s.gr.sbs n with
  | none => s
  | some b =>
    if b.phase == .filling || ! (s.sbValid b).isEmpty then s else
      let t := (b.blocks.filterMap id ++ b.comps).foldl (fun t k => t.queueErase k) s
      t.modGr fun g => { g with sbs := ldel g.sbs n, sched := setDel g.sched n }

/-- The superblock a page belongs to. -/
def Grat.sbOf (g : Grat) (a : Nat) : Option (Nat × SuperBlk) := g.sbs.find? fun e => e.2.blocks.contains (some (a / 2500))

/-- Retire a block: it leaves service and its superblock (R506, R519). -/
def State.retireBlk (s : State) (k : Nat) : State :=
  (s.modFblk k fun x => { x with phase := .retired }).modGr fun g => { g with
    sbs := g.sbs.map fun e => (e.1, { e.2 with blocks := e.2.blocks.map fun b => if b == some k then none else b }) }

/-! ### Relocation (R515) -/

/-- The heat age of a superblock in equivalent seconds × 2³² (R524). -/
def State.heatAge (s : State) (b : SuperBlk) : Nat :=
  ((List.range 32).map fun p => mget 0 s.gr.clock p - b.clocks.getD p 0).max?.getD 0

/-- The handle whose superblocks a page's data stays in (R536). -/
def Grat.handleOf (g : Grat) (a : Nat) : Nat := match g.sbOf a with
  | some (_, b) => if 256 ≤ b.kind then b.kind - 256 else 0
  | none => 0

/-- The heat age that a page's superblock gives to a copy of the page (R524). -/
def State.ageAt (s : State) (a : Nat) : Nat :=
  match s.gr.sbOf a with
  | some (_, b) => s.heatAge b
  | none => 0

/-- Copy a page to the relocation write point of a handle with a heat age, its ciphertext unchanged, verify it, and repoint its entry; where no free block
is left, nothing happens (R515, R524, R536, 15 R622). -/
def State.relocateAs (s : State) (a handle age : Nat) (worn : Bool) : State :=
  match lget s.gr.pages a with
  | none => s
  | some p =>
    if ! s.pageValid a p then s else
      match s.programPage p.ns p.unit p.data p.dir handle true age worn with
      | (_, none) => s
      | (t, some x) => (t.modGr fun g => { g with
          pages := lset g.pages x p, map := lset g.map (unitKey p.ns p.unit) { buf := false, addr := x } }).commit

/-- Relocate a page with the handle and the heat age of its superblock. -/
def State.relocate (s : State) (a : Nat) (worn : Bool) : State := s.relocateAs a (s.gr.handleOf a) (s.ageAt a) worn

/-- Rebuild pages whose blocks leave service, with the handles and the heat ages that their superblocks gave them (R506, R507). -/
def State.rebuildAll (s0 s : State) (ps : List (Nat × FPage)) : State :=
  ps.foldl (fun t e => t.relocateAs e.1 (s0.gr.handleOf e.1) (s0.ageAt e.1) false) s

/-! ### Reading (R509 to R512) -/

/-- The step of the retry path that decodes a page is the cells' own matter: a free value (log 21). -/
def State.retryPath (s : State) : State × ReadOutcome :=
  let (n, t) := s.takeFree
  (t, match n % 5 with
    | 0 => .direct
    | 1 => .retried (1 + n / 5 % 8)
    | 2 => .deep
    | 3 => .rebuilt
    | _ => .unreadable)

/-- STATUS of a page read and its retry count (05 Table 5.9, R509). -/
def outcomeStatus (o : ReadOutcome) : Nat :=
  match o with
  | .direct => 0x01
  | .retried n => 0x01 + 256 * n
  | .deep => 0x02
  | .rebuilt => 0x03
  | .unreadable => 0x10

/-- A page decoded at step 3 or 4 is rewritten at once, its superblock scheduled, and recorded (R510). -/
def State.rescue (s : State) (a status : Nat) (worn : Bool) : State :=
  let sb := s.gr.sbOf a
  let t := s.relocate a worn
  let (n, u) := match sb with
    | some (n, _) => (n, t.modGr fun g => { g with sched := setIns g.sched n })
    | none => t.takeFree
  let pg := match sb with
    | some (_, b) => a % 2500 * 32 + (b.blocks.idxOf (some (a / 2500)))
    | none => a % 2500
  u.fbRecord 0x6002 (words [n % 2 ^ 32, pg, status])

/-- What a page read does beside its bytes: counters, the rewrite of R510, the event of R511; true where the page is readable. -/
def State.pageRead (s : State) (ns u a : Nat) (o : ReadOutcome) (worn : Bool := false) : State × Bool :=
  let t := s.modFblk (a / 2500) fun x => { x with reads := x.reads + 1 }
  match o with
  | .direct => (t, true)
  | .retried _ => (t.modGr fun g => { g with retried := g.retried + 1 }, true)
  | .deep => ((t.modGr fun g => { g with deep := g.deep + 1 }).rescue a 2 worn, true)
  | .rebuilt => ((t.modGr fun g => { g with recon := g.recon + 1 }).rescue a 3 worn, true)
  | .unreadable =>
    let k := unitKey ns u
    if t.gr.unread.contains k then (t, false)
    else ((t.modGr fun g => { g with uncorr := g.uncorr + 1, unread := setIns g.unread k }).raise (.grt 0) 0 0x6001
      (words [ns % 2 ^ 20, u % 2 ^ 32, u / 2 ^ 32]), false)

/-- Read one unit with the outcome that its page read would have: its bytes, or none where it is unreadable (R492, R509 to R512). -/
def State.readUnitAs (s : State) (ns u : Nat) (o : ReadOutcome) : State × Option Mem :=
  if s.gr.unread.contains (unitKey ns u) then (s, none) else
    match s.entry? ns u with
    | none => (s, some [])
    | some e =>
      if e.buf then (s, some (((lget s.gr.slots e.addr).map (·.data)).getD []))
      else
        match lget s.gr.pages e.addr with
        | none => (s, some [])
        | some p =>
          match s.pageRead ns u e.addr o with
          | (t, true) => (t, some (s.openPage p ns u))
          | (t, false) => (t, none)

/-- The data of a unit, without a page read. -/
def State.peekUnit (s : State) (ns u : Nat) : Option Mem :=
  match s.entry? ns u with
  | none => none
  | some e => if e.buf then (lget s.gr.slots e.addr).map (·.data) else (lget s.gr.pages e.addr).map fun p => s.openPage p ns u

/-- Read one unit. -/
def State.readUnit (s : State) (ns u : Nat) : State × Option Mem :=
  let flash := match s.entry? ns u with
    | some e => ! e.buf && ! s.gr.unread.contains (unitKey ns u)
    | none => false
  if flash then (let (t, o) := s.retryPath; t.readUnitAs ns u o) else s.readUnitAs ns u .direct

/-- Quanta are served to a partition on a flash-side core (06 R254 to R256). While it and others have filters pending, the round robin owes each of those
its weight and takes the sum of the weights from the one served. -/
def State.serveQuantum (s : State) (c p : Nat) : State :=
  let w (q : Nat) : Int := Int.ofNat (max 1 (mget 1 s.fch.weight ((c - 640) / 8 * 16 + q)).toNat)
  let ps := ((s.fch.runs.map (·.ref.part)) ++ [p]).dedup
  let total := (ps.map w).sum
  { s with fch := { s.fch with
      quanta := mmod 0 s.fch.quanta (c * 16 + p) (· + 1)
      credit := (List.range 16).foldl (fun m q =>
        if ps.contains q then mmod 0 m (c * 16 + q) fun x => x + w q - (if q = p then total else 0) else mset 0 m (c * 16 + q) 0) s.fch.credit } }

/-- The core that serves a flash channel: its own, or the one that has adopted it, the next in service on the same die (13 R572). -/
def State.flashCore (s : State) (h : Nat) : Nat :=
  (((List.range 8).map fun i => (640 + h) / 8 * 8 + ((640 + h) % 8 + i) % 8).find? fun n => ! s.ecc.coreWd.contains n).getD (640 + h)

/-- The core that serves the channel on which a unit of a namespace stands; none where it does not stand in flash. -/
def State.unitCore (s : State) (ns u : Nat) : Option Nat :=
  match s.entry? ns u with
  | none => none
  | some e => if e.buf then none else some (s.flashCore (nandChan (e.addr / 2500 / 12500)))

/-- Read one unit for a device service: a page read from flash is one quantum of its partition on the core of its channel (06 R254, R255). -/
def State.svcRead (s : State) (ns u : Nat) : State × Option Mem :=
  match s.unitCore ns u with
  | none => s.readUnit ns u
  | some c => (s.serveQuantum c (ns / 2 ^ 20)).readUnit ns u

/-- Read units in order; the first unreadable one ends it. -/
def State.readUnits : Nat → State → Nat → Nat → State × Except Nat (List Mem)
  | 0, s, _, _ => (s, .ok [])
  | n + 1, s, ns, u =>
    match s.readUnit ns u with
    | (t, none) => (t, .error u)
    | (t, some m) =>
      match State.readUnits n t ns (u + 1) with
      | (v, .error e) => (v, .error e)
      | (v, .ok ms) => (v, .ok (m :: ms))

/-- The bytes of a range of a namespace; the first unreadable unit where there is one. -/
def State.readRange (s : State) (ns off len : Nat) : State × Except Nat Bytes :=
  let u0 := off / unitBytes
  let n := if len = 0 then 0 else (off + len - 1) / unitBytes + 1 - u0
  match State.readUnits n s ns u0 with
  | (t, .error e) => (t, .error e)
  | (t, .ok ms) => (t, .ok (((ms.flatMap fun m => rdBytes m 0 unitBytes).drop (off % unitBytes)).take len))

/-! ### The write buffer (R499, R500) -/

def Grat.freeSlots (g : Grat) : Nat := slotCount - g.slots.length
def Grat.newSlot (g : Grat) : Nat := ((List.range (g.slots.length + 1)).find? fun n => ! g.slots.any (·.1 == n)).getD 0
/-- Buffer fill in percent (GRT_WB.FILL). -/
def Grat.fill (g : Grat) : Nat := g.slots.length * 100 / slotCount

/-- Enter one unit in a slot, pending or not; the slot's number. -/
def State.enterSlot (s : State) (x : Slot) : State × Nat :=
  let n := s.gr.newSlot
  (s.modGr fun g => { g with slots := lset g.slots n x }, n)

/-- Point a unit's entry at a slot; the unit is readable again (R469). -/
def State.pointAt (s : State) (ns u n : Nat) : State :=
  s.modGr fun g => { g with map := lset g.map (unitKey ns u) { buf := true, addr := n }, unread := setDel g.unread (unitKey ns u) }

/-- Write whole units into the buffer: slots in order, then one commit. The answer is their slots. -/
def State.bufferUnits (s : State) (ns handle : Nat) (us : List (Nat × Mem)) : State × List Nat :=
  let (t, ns') := us.foldl (fun (acc : State × List Nat) e =>
    let (t, n) := acc.1.enterSlot { ns := ns, unit := e.1, data := e.2, handle := handle }
    (t.pointAt ns e.1 n, acc.2 ++ [n])) (s, [])
  (t.commit, ns')

/-- Free slots: they leave the buffer and the waits of commands. -/
def State.freeSlots (s : State) (f : Nat → Slot → Bool) : State :=
  let gone := (s.gr.slots.filter fun e => f e.1 e.2).map (·.1)
  (s.modGr fun g => { g with
    slots := g.slots.filter fun e => ! gone.contains e.1
    awaits := g.awaits.map fun a =>
      if a.slots.any gone.contains then { a with slots := a.slots.filter fun n => ! gone.contains n, jneed := g.jseq } else a }).finishAwaits

/-- Destage a buffered unit: it is programmed, its entry repointed, and its slots freed (R499, R501). -/
def State.destage (s : State) (ns u : Nat) (slc : Bool) : State :=
  match s.entry? ns u with
  | none => s
  | some e =>
    match (if e.buf then lget s.gr.slots e.addr else none) with
    | none => s
    | some x =>
      let (t, a) := if slc then s.programSlc ns u x.data x.dir else s.programPage ns u x.data x.dir x.handle false 0 false
      match a with
      | none => s
      | some a =>
        ((t.modGr fun g => { g with map := lset g.map (unitKey ns u) { buf := false, addr := a } }).commit).freeSlots fun _ y =>
          y.ns == ns && y.unit == u && y.pend.isNone

/-- Program the whole buffer. -/
def State.destageAll (s : State) : State :=
  s.gr.slots.foldl (fun t e => t.destage e.2.ns e.2.unit false) s

/-- Trim units: they read as zeros and are readable again; buffered data of theirs is given up (R492, R511). -/
def State.trimUnits (s : State) (f : Nat → Nat → Bool) : State :=
  let hit (k : Nat) : Bool := f (k / 2 ^ 48) (k % 2 ^ 48)
  let t := s.modGr fun g => { g with map := g.map.filter fun e => ! hit e.1, unread := g.unread.filter fun k => ! hit k }
  (t.commit).freeSlots fun _ y => f y.ns y.unit && y.pend.isNone

/-! ### Spare (R533, R534) -/

/-- Bring the write throttle and the read-only state up to date with spare. -/
def State.spareCheck (s : State) : State :=
  let pct := s.gr.sparePct
  let t :=
    if pct < 2 && ! s.gr.throttle then (s.modGr fun g => { g with throttle := true }).raise (.grt 0) 0 0x6004 (words [1])
    else if 2 ≤ pct && s.gr.throttle then (s.modGr fun g => { g with throttle := false }).raise (.grt 0) 0 0x6004 (words [0])
    else s
  if pct = 0 && ! t.gr.ronly then
    (t.destageAll.modGr fun g => { g with ronly := true }).raise (.grt 0) 0 0x6005 (words [t.gr.sparePages / 2500])
  else t

/-! ### Free space and collection (R514) -/

/-- Blocks that hold a valid unit or belong to an open superblock, among the QLC blocks in service. -/
def State.busyBlks (s : State) : Nat :=
  (s.gr.sbs.map fun e =>
    (e.2.blocks.filter fun b => match b with
      | none => false
      | some k => s.gr.dieUp (k / 12500) && (e.2.phase == .filling || ! (s.validIn k).isEmpty)).length).sum

/-- Free space in per mille (R514). -/
def State.freeSpace (s : State) : Nat := (s.gr.inService - s.busyBlks) * 1000 / max 1 s.gr.inService
/-- START and CRIT as they act (GRT_GC). -/
def Grat.gcStart (g : Grat) : Nat := g.gc.toNat % 256
def Grat.gcCrit (g : Grat) : Nat := min (g.gc.toNat / 256) g.gcStart
def State.spaceCritical (s : State) : Bool := decide (s.freeSpace < s.gr.gcCrit)

/-- Read and relocate the valid pages of a list, through the retry path; a page that it rewrote already stays where it is (R509, R510, R515). -/
def State.relocateAll (s : State) (ps : List (Nat × FPage)) (worn : Bool) : State :=
  ps.foldl (fun t e =>
    let (u, o) := t.retryPath
    match u.pageRead e.2.ns e.2.unit e.1 o worn with
    | (v, true) => v.relocate e.1 worn
    | (v, false) => v) s

/-- Relocate a superblock and give its blocks up for erase. -/
def State.collect (s : State) (n : Nat) (worn : Bool) : State :=
  match lget s.gr.sbs n with
  | none => s
  | some b => (s.relocateAll (s.sbValid b) worn).dissolve n

/-! ### Heat age (R523 to R528) -/

/-- exp of a rational number of 2⁻⁶⁴ units, ≥ 0, in 2⁻⁶⁴ units: 80 terms of its series (log 22). -/
def expFix (x : Nat) : Nat :=
  ((List.range 80).foldl (fun (acc : Nat × Nat) i => (acc.1 + acc.2, acc.2 * x / (2 ^ 64 * (i + 1)))) (0, 2 ^ 64)).1

/-- AF(T) in 2⁻³² units, for a temperature in 0.25 °C: exp(12,765 × (1/313.15 − 1/T)) (R523, log 22). -/
def accel (q : Nat) : Nat :=
  let t := 27315 + 25 * q
  if 31315 ≤ t then expFix (12765 * (t - 31315) * 100 * 2 ^ 64 / (31315 * t)) / 2 ^ 32
  else 2 ^ 96 / expFix (12765 * (31315 - t) * 100 * 2 ^ 64 / (31315 * t))

/-- The heat-age bin of an age in equivalent seconds × 2³² (R525). -/
def heatBin (age : Nat) : Nat :=
  let hrs := age / 2 ^ 32 / 3600
  ((List.range 15).filter fun b => decide (64 * 2 ^ b ≤ hrs)).length

/-- Superblocks whose heat age has reached bin REFRESH, and those that R510 scheduled. -/
def State.refreshDue (s : State) : List Nat :=
  (s.gr.sbs.filter fun e => e.2.phase != .filling &&
    (decide (max 1 s.gr.refresh.toNat ≤ heatBin (s.heatAge e.2)) || s.gr.sched.contains e.1)).map (·.1)

/-! ### Durability (R473 to R475, R497) -/

/-- The map as flash gives it: entries that name a slot keep what stood before (R497). -/
def Grat.flashMap (g : Grat) : List (Nat × MapEnt) :=
  (g.map.filter fun e => ! e.2.buf) ++
    (g.dmap.filter fun e => g.map.any fun x => x.1 == e.1 && x.2.buf)

/-- Pieces of a whole checkpoint of the map, and the journal that may have been written since the oldest piece of the last complete pass (R498). -/
def passPieces : Nat := 16384
def journalMax : Nat := 0x40000000

/-- One 4 MiB piece of the map is written; with the last piece of a pass, the pass is complete (R498). -/
def State.checkpointPiece (s : State) : State :=
  s.modGr fun g =>
    let last := decide ((g.ckpt + 1) % passPieces = 0)
    { g with
      ckpt := g.ckpt + 1, nandBytes := g.nandBytes + 0x400000
      passAt := if last then g.passNow else g.passAt, passNow := if last then g.jlog else g.passNow }

/-- Write the pieces that are left of the pass under way, in one. -/
def State.checkpointPass (s : State) : State :=
  s.modGr fun g =>
    let left := passPieces - g.ckpt % passPieces
    { g with ckpt := g.ckpt + left, nandBytes := g.nandBytes + left * 0x400000, passAt := g.passNow, passNow := g.jlog }

/-- Keep the journal since the oldest piece of the last complete pass below 1 GiB (R498): where a page would bring it there, passes are completed. -/
def State.boundJournal (s : State) : State :=
  let full (t : State) : Bool := decide (journalMax ≤ t.gr.jlog - t.gr.passAt)
  if full s then (let t := s.checkpointPass; if full t then t.checkpointPass else t) else s

/-- What flash alone gives from now on (R497): the map, the namespaces, and of the indexes those of which no page is still in the buffer. -/
def State.journalPage (s : State) : State :=
  let held (k : Nat) : Bool := s.gr.slots.any fun e => e.2.ns == nsKey (k / 65536) (0x8000 + k % 65536) && e.2.pend.isNone
  let ixs := s.gz.ixs.filterMap fun e => if held e.1 then (lget s.gz.dixs e.1).map fun x => (e.1, x) else some e
  let t := s.modGr fun g => { g with
    dmap := g.flashMap, nandBytes := g.nandBytes + unitBytes, jlog := g.jlog + unitBytes, jdur := g.jseq, dns := g.ns }
  ({ t with gz := { t.gz with dixs := ixs } }).boundJournal.finishAwaits

end Sys2Proof.Machine
end

