-- ==== Sys2Proof/Machine/Gazetteer.lean ====
section
/-! DEFINITION. The Gazetteer's operations: codes and distances, list versions and their pages, inserts and deletes, compaction (05). -/

namespace Sys2Proof.Machine

def ixKey (p n : Nat) : Nat := p * 65536 + n
/-- The index of a number, which has 16 bits (Table 5.5). -/
def State.ix? (s : State) (p n : Nat) : Option Index := if n < 65536 then lget s.gz.ixs (ixKey p n) else none
def State.modGz (s : State) (f : Gaz → Gaz) : State := { s with gz := f s.gz }
def State.setIx (s : State) (p n : Nat) (x : Index) : State := s.modGz fun g => { g with ixs := lset g.ixs (ixKey p n) x }
/-- The internal namespace of an index (12 R491). -/
def ixNs (p n : Nat) : Nat := nsKey p (0x8000 + n)

/-! ### Codes and distances (R193, R198, R199) -/

/-- The number of ones of a byte. -/
def ones8 (b : Byte) : Nat := ((List.range 8).filter b.getLsbD).length
/-- Hamming distance. -/
def hamming (a b : Bytes) : Nat := (List.zipWith (fun x y => ones8 (x ^^^ y)) a b).sum
/-- Table distance with `n` subspaces. -/
def tableDist (tab : Bytes) (n : Nat) (code : Bytes) : Nat :=
  min 0xFFFF (((List.range n).map fun j => (tab.getD (j * 256 + (code.getD j 0).toNat) 0).toNat).sum)

/-- The code of a centroid at a snapshot; zero before one is set (R219, R220, log 12). -/
def Index.codeAt (x : Index) (snap c : Nat) : Bytes :=
  ((x.codes.filter fun e => e.2.1 == c && decide (e.1 ≤ snap)).getLast?.map (·.2.2)).getD (zeros x.nb)

/-- Put a (distance, centroid) pair in its place, ties to the lower number, among the `n` nearest (R208). -/
def putNear (n : Nat) (e : Nat × Nat) (l : List (Nat × Nat)) : List (Nat × Nat) :=
  let near (f : Nat × Nat) : Bool := decide (f.1 < e.1) || (f.1 == e.1 && decide (f.2 ≤ e.2))
  (l.filter near ++ [e] ++ l.filter fun f => ! near f).take n

/-- The `n` nearest centroids of a code among those that pass a test, nearest first. -/
def Index.nearest (x : Index) (snap : Nat) (code : Bytes) (n : Nat) (ok : Nat → Bool) : List Nat :=
  (((List.range x.cents).filter ok).foldl (fun l c => putNear n (hamming code (x.codeAt snap c), c) l) []).map (·.2)

/-! ### List versions (R194 to R196, R220, R224, R225) -/

/-- The versions of a list; an untouched list has its empty first version. -/
def Index.versions (x : Index) (list : Nat) : List ListVer := (lget x.lists list).getD [{}]
/-- The newest version. -/
def Index.current (x : Index) (list : Nat) : ListVer := (x.versions list).getLastD {}
/-- The version that a query with a snapshot is bound to (R225). -/
def Index.bound (x : Index) (list snap : Nat) : ListVer := ((x.versions list).filter fun v => decide (v.w ≤ snap)).getLastD {}
def Index.setCurrent (x : Index) (list : Nat) (v : ListVer) : Index :=
  { x with lists := lset x.lists list ((x.versions list).dropLast ++ [v]) }

/-- The entry is in the list for a snapshot, removed or not. -/
def GzEnt.inAt (e : GzEnt) (snap : Nat) : Bool := decide (e.ep ≤ snap)
/-- The entry is excluded at a snapshot (R224). -/
def GzEnt.goneAt (e : GzEnt) (snap : Nat) : Bool := match e.del with
  | none => false
  | some d => decide (d ≤ snap)
def GzEnt.visible (e : GzEnt) (snap : Nat) : Bool := e.inAt snap && ! e.goneAt snap

/-- Entries per page (R194). -/
def Index.perPage (x : Index) : Nat := 16320 / (x.nb + 6)
/-- Base pages, and pages in all. -/
def ListVer.basePages (v : ListVer) (n : Nat) : Nat := cdiv v.nbase n
def ListVer.pageCount (v : ListVer) (n : Nat) : Nat := v.basePages n + cdiv (v.ents.length - v.nbase) n
/-- The first position and the number of entries of page i. -/
def ListVer.pageSpan (v : ListVer) (n i : Nat) : Nat × Nat :=
  let b := v.basePages n
  if i < b then (i * n, min n (v.nbase - i * n)) else (v.nbase + (i - b) * n, min n (v.ents.length - (v.nbase + (i - b) * n)))

/-- The bytes of page i of a list version (Table 5.3). -/
def Index.pageBytes (x : Index) (num list : Nat) (v : ListVer) (i : Nat) : Bytes :=
  let n := x.perPage
  let (first, cnt) := v.pageSpan n i
  let es := (v.ents.drop first).take cnt
  let head := leBytes 1 (if i < v.basePages n then 1 else 2) ++ leBytes 1 (x.nb / 8) ++ leBytes 2 cnt ++ leBytes 4 list ++ leBytes 4 num ++
    leBytes 4 i ++ leBytes 8 v.w ++ leBytes 4 first ++ zeros 0x20
  let body := sub (es.flatMap (·.code) ++ es.flatMap fun e => leBytes 6 e.id) 0 (unitBytes - 64)
  head ++ leBytes 4 (crc32c (head ++ body)) ++ body

/-- Where page i of a list goes: its segment's channel, and the chip enable in rotation (R196). The plane is that of the block which the superblock or the
cache has open on the die (12 R503, R535; log 20). -/
def pageDir (num list i : Nat) : Nat × Nat := ((list + 8 * num + i / 64) % 128, i % 64 % 4)

/-- Write the pages of a list version from page `i0` on, taking new units where it has grown; none where no user capacity is left (12 R491).
The answer is the version with its units, and the slots written. -/
def State.storeVer (s : State) (p num : Nat) (x : Index) (list : Nat) (v : ListVer) (i0 : Nat) : Option (State × Index × ListVer × List Nat) :=
  let ns := ixNs p num
  let n := v.pageCount x.perPage
  let grow := n - v.pages.length
  let take := x.spare.take grow
  let fresh := (List.range (grow - take.length)).map (x.nextUnit + ·)
  let v' := { v with pages := v.pages ++ take ++ fresh }
  let x' := { x with spare := x.spare.drop grow, nextUnit := x.nextUnit + fresh.length }
  if userUnits < s.gr.reserved + grow then none else
    let t := s.modNs ns fun y => { y with cap := y.cap + grow }
    let (u, slots) := ((List.range n).filter (i0 ≤ ·)).foldl (fun (acc : State × List Nat) i =>
      let unit := v'.pages.getD i 0
      let (w, k) := acc.1.enterSlot { ns := ns, unit := unit, data := wrBytes [] 0 (x.pageBytes num list v' i), dir := some (pageDir num list i) }
      (w.pointAt ns unit k, acc.2 ++ [k])) (t, [])
    some (u, x', v', slots)

/-- Commit at the next epoch (R219). -/
def State.ixCommit (s : State) (p num : Nat) (x : Index) : State :=
  (s.setIx p num { x with epoch := x.epoch + 1 }).commit.modGz fun g => { g with commits := g.commits + 1 }

/-- In write-through a commit of an index and what commits with it stand in flash before the command goes on: its slots are programmed, and then the
journal page that holds its record, in one with the map (R227, 06 R265, 11 R474, 12 R497). -/
def State.ixDurable (s : State) (slots : List Nat) : State :=
  if s.host.wt && s.sys.mediaReady then
    let us := (s.gr.slots.filter fun e => slots.contains e.1 || decide (0x8000 ≤ e.2.ns % 2 ^ 20)).map fun e => (e.2.ns, e.2.unit)
    (us.foldl (fun t e => t.destage e.1 e.2 false) s).journalPage
  else s

/-- Stored copies of all indexes (Table 5.2, GZT_ENTRIES). -/
def Gaz.copies (g : Gaz) : Nat :=
  (g.ixs.flatMap fun e => e.2.lists.map fun l => (l.2.getLastD {}).ents.length).sum
def maxCopies : Nat := 200000000000

/-! ### Bound queries (R226) -/

/-- The index a Gazetteer command names: in its data for a batch, in OBJECT otherwise. -/
def gzTarget (c : Cmd) : Nat := if c.opcode = 0x34 ∨ c.opcode = 0x35 ∨ c.opcode = 0x30 then fld c.data 0 2 else c.obj

/-- Snapshots of the admitted queries of an index. -/
def State.gzSnaps (s : State) (p num : Nat) : List Nat :=
  (s.host.cmds.filter fun c => c.ref.part == p && (c.opcode == 0x34 || c.opcode == 0x35) && gzTarget c == num &&
    (c.phase == .admitted || c.phase == .running)).map fun c => c.work.headD 0

/-! ### Inserts (R221, R222, R229) -/

/-- One insert record. -/
structure InsRec where
  id : Nat
  spill : Bool
  given : Option Nat
  code : Bytes
deriving DecidableEq, Repr

/-- What became of one record: its lists and its status. -/
structure Placed where
  list : Option Nat
  second : Option Nat
  status : Nat
deriving DecidableEq, Repr

/-- Positions of a list (Table 5.2). -/
def listRoom : Nat := 16777215

/-- Place a record, given how many records each list has taken before it (R221 step 2, R229). -/
def Index.placeRec (x : Index) (snap : Nat) (added : NMap Nat) (r : InsRec) : Placed :=
  let room (c : Nat) : Bool := decide ((x.current c).ents.length + mget 0 added c < listRoom)
  let second (a : Nat) : Placed :=
    if r.spill || x.spill then
      match (x.nearest snap r.code 1 fun c => room c && c != a).head? with
      | some b => { list := some a, second := some b, status := 0 }
      | none => { list := some a, second := none, status := 1 }
    else { list := some a, second := none, status := 0 }
  if r.id = padId ∨ (x.rrEn ∧ 2 ^ 40 ≤ r.id) then { list := none, second := none, status := 2 }
  else
    match r.given with
    | some l =>
      if x.cents ≤ l then { list := none, second := none, status := 4 }
      else if room l then second l else { list := none, second := none, status := 5 }
    | none =>
      match (x.nearest snap r.code 1 room).head? with
      | none => { list := none, second := none, status := 3 }
      | some a => second a

/-- Place records in order. -/
def Index.placeAll (x : Index) (snap : Nat) : NMap Nat → List InsRec → List Placed
  | _, [] => []
  | added, r :: rs =>
    let q := x.placeRec snap added r
    let bump (m : NMap Nat) (o : Option Nat) : NMap Nat := match o with
      | none => m
      | some l => mmod 0 m l (· + 1)
    q :: Index.placeAll x snap (bump (bump added q.list) q.second) rs

/-- The lists that records go to, and their new entries at epoch e. -/
def placedEnts (rs : List InsRec) (qs : List Placed) (e : Nat) : List (Nat × List GzEnt) :=
  (rs.zip qs).foldl (fun m rq =>
    let ent : GzEnt := { code := rq.1.code, id := rq.1.id, ep := e }
    let put (m : List (Nat × List GzEnt)) (o : Option Nat) : List (Nat × List GzEnt) := match o with
      | none => m
      | some l => lset m l ((lget m l).getD [] ++ [ent])
    put (put m rq.2.list) rq.2.second) []

/-- Append entries to the tails of lists, writing the tail pages they touch; none where a capacity limit stands in the way. -/
def State.appendTails (s : State) (p num : Nat) (x : Index) : List (Nat × List GzEnt) → Option (State × Index × List Nat)
  | [] => some (s, x, [])
  | (l, es) :: r =>
    let v := x.current l
    let first := v.basePages x.perPage + (v.ents.length - v.nbase) / x.perPage
    match s.storeVer p num x l { v with ents := v.ents ++ es } first with
    | none => none
    | some (t, y, v', slots) =>
      match State.appendTails t p num (y.setCurrent l v') r with
      | none => none
      | some (u, z, more) => some (u, z, slots ++ more)

/-- An upper bound of the slots an insert takes. -/
def Index.insertSlots (x : Index) (m : List (Nat × List GzEnt)) : Nat := (m.map fun e => e.2.length / x.perPage + 2).sum

/-- The answer of an insert (R221 step 5). -/
def insAnswer (qs : List Placed) : Bytes :=
  qs.flatMap fun q => leBytes 4 (q.list.getD 0xFFFFFF) ++ leBytes 4 (q.second.getD 0xFFFFFF) ++ leBytes 2 q.status ++ zeros 6

/-! ### Deletes (R223) -/

/-- Remove the visible copies of an ID from the current version of a list, at epoch e: the version, and how many. -/
def ListVer.remove (v : ListVer) (id snap e : Nat) : ListVer × Nat :=
  let hit (x : GzEnt) : Bool := x.id == id && x.inAt snap && x.del.isNone
  ({ v with ents := v.ents.map fun x => if hit x then { x with del := some e } else x }, (v.ents.filter hit).length)

/-- Remove the copies of an ID from lists: the index, and how many. -/
def Index.removeFrom (x : Index) (id snap e : Nat) (ls : List Nat) : Index × Nat :=
  ls.foldl (fun (acc : Index × Nat) l =>
    let (v, k) := (acc.1.current l).remove id snap e
    (if k = 0 then acc.1 else acc.1.setCurrent l v, acc.2 + k)) (x, 0)

/-- The lists that hold something. -/
def Index.heldLists (x : Index) : List Nat := x.lists.map (·.1)

/-- Read every page of the current versions of lists: the first list that is unreadable, if any (R223, R231). -/
def State.readLists (s : State) (p num : Nat) (x : Index) : List Nat → State × Option Nat
  | [] => (s, none)
  | l :: r =>
    let (t, ok) := (x.current l).pages.foldl (fun (acc : State × Bool) u =>
      let (t, m) := acc.1.svcRead (ixNs p num) u
      (t, acc.2 && m.isSome)) (s, true)
    if ok then State.readLists t p num x r else (t, some l)

/-! ### Compaction (R204, R225, R226, R228) -/

/-- The new version of a list: entries visible at C as base, then what came after (R225). -/
def Index.compacted (x : Index) (list c w : Nat) : ListVer :=
  let es := (x.current list).ents
  let base := es.filter (·.visible c)
  { w := w, ents := base ++ es.filter (fun e => ! e.inAt c), nbase := base.length }

/-- The bitwise majority of codes; a bit that ties keeps its old value (R204). -/
def majority (old : Bytes) (codes : List Bytes) : Bytes :=
  (List.range old.length).map fun i =>
    BitVec.ofNat 8 (((List.range 8).map fun b =>
      let n := (codes.filter fun c => (c.getD i 0).getLsbD b).length
      let v := if codes.length < 2 * n then true else if 2 * n < codes.length then false else (old.getD i 0).getLsbD b
      if v then 2 ^ b else 0).sum)

/-- A list version's excluded entries are all tombstones or pending: how many at the committed epoch. -/
def Index.goneIn (x : Index) (list : Nat) : Nat := ((x.current list).ents.filter (·.goneAt x.epoch)).length

/-- Whether automatic compaction starts for a list (R228, GZT_COMPACT). -/
def State.wantsCompaction (s : State) (x : Index) (list : Nat) : Bool :=
  let v := x.current list
  let n := v.ents.length
  ! s.hostMode .gzt && s.gz.auto && ! s.gr.ronly && ! (x.builds.any (·.1 == list)) &&
    (decide (s.gz.tailPct.toNat * n < (n - v.nbase) * 100) || decide (s.gz.tombPct.toNat * n < x.goneIn list * 100))

/-- Whether a version is bound: the newest, or the one of some admitted query (R226). -/
def State.verBound (s : State) (p num : Nat) (x : Index) (list w : Nat) : Bool :=
  (x.current list).w == w || (s.gzSnaps p num).any fun q => (x.bound list q).w == w

/-- Give the units of pages back: they are trimmed, and the reservation falls. -/
def State.dropPages (s : State) (p num : Nat) (us : List Nat) : State :=
  let ns := ixNs p num
  (s.trimUnits fun k u => k == ns && us.contains u).modNs ns fun y => { y with cap := y.cap - us.length }

end Sys2Proof.Machine
end

