-- ==== Sys2Proof/Machine/Atlas.lean ====
section
/-! DEFINITION. Atlas's operations: slots, placement and copies, resident rows of flash-backed tables, reading and writing one row
(07 R274 to R285, R296, R308, R312, R313; 08 R321, R322, R345). -/

namespace Sys2Proof.Machine

def tabKey (p t : Nat) : Nat := p * 256 + t
/-- The key of a version in the DRAM pool. -/
def verKey (tk no : Nat) : Nat := tk * 2 ^ 32 + no
def State.tab? (s : State) (tk : Nat) : Option Table := lget s.atl.tabs tk
def State.modAtl (s : State) (f : AtlasS → AtlasS) : State := { s with atl := f s.atl }
def State.modTab (s : State) (tk : Nat) (f : Table → Table) : State :=
  s.modAtl fun a => { a with tabs := a.tabs.map fun e => if e.1 == tk then (e.1, f e.2) else e }
def Table.ver (t : Table) (no : Nat) : AtVer := (t.vers.find? (·.no == no)).getD { no := no }
def Table.modVer (t : Table) (no : Nat) (f : AtVer → AtVer) : Table := { t with vers := t.vers.map fun v => if v.no == no then f v else v }
def State.modVer (s : State) (tk no : Nat) (f : AtVer → AtVer) : State := s.modTab tk fun t => t.modVer no f

/-! ### Slots (R274, R276, R278, R280; 08 R322) -/

def elemBytes (fmt : Nat) : Nat := fmtBits fmt / 8
/-- Bytes of a row slot. -/
def Table.slotSize (t : Table) : Nat := cdiv (16 + t.d * elemBytes t.fmt) 64 * 64
def Table.n (t : Table) : Nat := t.place.length
/-- Slots per channel that RESIDENT_MB gives, and their sets (R278). -/
def Table.resSlots (t : Table) : Nat := t.resMb * 0x100000 / (max 1 t.n * t.slotSize)
def Table.sets (t : Table) : Nat := t.resSlots / 8
/-- Slots of a channel below its copy slots; in a flash-backed table the copy slots are the last of its sets' slots (R276, R278, log 24). -/
def Table.homeSlots (t : Table) : Nat := if t.backed then t.resSlots - 64 else cdiv t.rows (max 1 t.n)
def Table.copySlots (t : Table) : Nat := if t.backed then 64 else cdiv t.rows (64 * max 1 t.n) + 64
def Table.chanBytes (t : Table) : Nat := (t.homeSlots + t.copySlots) * t.slotSize

/-- Bytes of a state slot; none for OPT 000 and SGD. -/
def OptDesc.stateSize (o : OptDesc) (d : Nat) : Nat :=
  let w := if o.bf then 2 else 4
  match o.opt with
  | 2 => cdiv (16 + d * w) 64 * 64
  | 3 => 64
  | 4 => cdiv (16 + 2 * d * w) 64 * 64
  | _ => 0
def Table.stateSize (t : Table) : Nat := t.opt.stateSize t.d

/-- The home channel of a row (R275). -/
def Table.homeChan (t : Table) (r : Nat) : Nat :=
  let n := max 1 t.n
  (r % n + Nat.xor (r / n) t.seed * 0x9E3779B97F4A7C15 % 2 ^ 64 / 2 ^ 32) % n
/-- The home slot index of a row. -/
def Table.homeIdx (t : Table) (r : Nat) : Nat := r / max 1 t.n

/-- The bytes of a slot: SCALE, RVER, FLAGS, ROW, elements (Table 7.4). -/
def slotBytes (t : Table) (scale rver flags row : Nat) (elems : Bytes) : Bytes :=
  sub (leBytes 4 scale ++ leBytes 4 rver ++ leBytes 2 flags ++ leBytes 6 row ++ sub elems 0 (t.d * elemBytes t.fmt)) 0 t.slotSize
def slotScale (b : Bytes) : Nat := fld b 0 4
def slotRver (b : Bytes) : Nat := fld b 4 4
def slotFlags (b : Bytes) : Nat := fld b 8 2
def slotMissing (b : Bytes) : Bool := bit (slotFlags b) 0
def slotElems (t : Table) (b : Bytes) : Bytes := sub b 16 (t.d * elemBytes t.fmt)
/-- A slot with other flags. -/
def withFlags (b : Bytes) (fl : Nat) : Bytes := b.take 8 ++ leBytes 2 fl ++ b.drop 10
/-- A row as a new version has it (R273, R302). -/
def Table.newRow (t : Table) (missing : Bool) (r : Nat) : Bytes := slotBytes t t.scale0 0 (b2n missing) r []

/-- The values of a row's elements (R274). -/
def rowVals (t : Table) (b : Bytes) : List Flt :=
  let sc := fp32.dec (slotScale b)
  (List.range t.d).map fun i =>
    let x := decElem t.fmt (fld b (16 + i * elemBytes t.fmt) (elemBytes t.fmt))
    if t.fmt = 2 then x.mul sc else x

/-- Where slot `k` of channel j of a version stands in DRAM. -/
def State.slotAt (s : State) (use : PoolUse) (t : Table) (j k size : Nat) : Option (Nat × Nat) :=
  let g := t.place.getD j 0
  (s.dram.alloc.find? fun a => a.use == use && a.chan == g).map fun a => (g, a.off + k * size)

def State.rdSlot (s : State) (tk no : Nat) (t : Table) (j k : Nat) : State × Option Bytes :=
  match s.slotAt (.atlas (verKey tk no)) t j k t.slotSize with
  | none => (s, none)
  | some (g, o) => s.dramRead g o t.slotSize
def State.wrSlot (s : State) (tk no : Nat) (t : Table) (j k : Nat) (b : Bytes) : State :=
  match s.slotAt (.atlas (verKey tk no)) t j k t.slotSize with
  | none => s
  | some (g, o) => (s.dramWrite g o b).1
/-- A state slot; one that is lost reads as none. -/
def State.rdState (s : State) (tk no : Nat) (t : Table) (j k : Nat) : State × Option Bytes :=
  if t.stateSize = 0 then (s, some []) else
    match s.slotAt (.optState (verKey tk no)) t j k t.stateSize with
    | none => (s, none)
    | some (g, o) => s.dramRead g o t.stateSize
def State.wrState (s : State) (tk no : Nat) (t : Table) (j k : Nat) (b : Bytes) : State :=
  if t.stateSize = 0 then s else
    match s.slotAt (.optState (verKey tk no)) t j k t.stateSize with
    | none => s
    | some (g, o) => (s.dramWrite g o (sub b 0 t.stateSize)).1
/-- The state of a row before any update: zero, the accumulator A0, and its row number (08 R321, R322). -/
def Table.newState (t : Table) (r : Nat) : Bytes :=
  sub (leBytes 4 (if t.opt.opt = 3 then t.opt.a0 else 0) ++ zeros 6 ++ leBytes 6 r) 0 t.stateSize

/-- Allocate a version's slots and state slots in every channel of the placement set (R276, 08 R321). -/
def State.allocVer (s : State) (tk no : Nat) (t : Table) : Option State :=
  match s.poolAllocAll (tk / 256) t.chanBytes .state (.atlas (verKey tk no)) t.place with
  | none => none
  | some u => u.poolAllocAll (tk / 256) ((t.homeSlots + t.copySlots) * t.stateSize) .state (.optState (verKey tk no)) t.place

/-- Allocate the state slots of a version alone. -/
def State.allocState (s : State) (tk no : Nat) (t : Table) : Option State :=
  s.poolAllocAll (tk / 256) ((t.homeSlots + t.copySlots) * t.stateSize) .state (.optState (verKey tk no)) t.place

/-- Free a version's slots. -/
def State.freeVer (s : State) (tk no : Nat) : State :=
  s.freeAllocs fun a => a.use == .atlas (verKey tk no) || a.use == .optState (verKey tk no)

/-! ### Copies (R308) -/

/-- The slot that stands for a row's place in its home channel. -/
def homeMark : Nat := 0xFFFFFFFF
def Copy.inEffect (c : Copy) (q : Nat) : Bool :=
  (match c.on with
    | none => false
    | some n => decide (n ≤ q)) && match c.off with
    | none => true
    | some n => decide (q < n)

/-- A row's copy in its home slot. -/
def Table.home (t : Table) (r : Nat) : Copy := { chan := t.homeChan r, slot := homeMark, on := some 0 }

/-- The copies of a row in effect at a sequence number, the source first. -/
def Table.copiesAt (t : Table) (no r q : Nat) : List Copy :=
  match (t.ver no).fwd.find? (·.row == r) with
  | none => [t.home r]
  | some f =>
    match f.copies.filter (·.inEffect q) with
    | [] => [t.home r]
    | cs => cs

/-- The source copy of a row now. -/
def Table.source (t : Table) (no r : Nat) : Copy := (t.copiesAt no r t.seq).headD (t.home r)
/-- Whether a row has an entry in a version's forwarding directory. -/
def Table.forwarded (t : Table) (no r : Nat) : Bool := (t.ver no).fwd.any (·.row == r)

def wayKey (j k : Nat) : Nat := j * 2 ^ 32 + k
/-- The ways a row of a flash-backed table may take. -/
def Table.waysOf (t : Table) (r : Nat) : List Nat := (List.range 8).map fun w => t.homeIdx r % max 1 t.sets * 8 + w
/-- The slot that a copy stands in; none where a row is not resident (R278). -/
def Table.resolve (t : Table) (no r : Nat) (c : Copy) : Option (Nat × Nat) :=
  if c.slot ≠ homeMark then some (c.chan, c.slot)
  else if ! t.backed then some (c.chan, t.homeIdx r)
  else ((t.waysOf r).find? fun k => mget 0 (t.ver no).ways (wayKey c.chan k) == r + 1).map fun k => (c.chan, k)

/-- The slot of a row's source copy in a version; none where the row is not resident. -/
def Table.sourceSlot (t : Table) (no r : Nat) : Option (Nat × Nat) := t.resolve no r (t.source no r)

/-- FLAGS of a copy of a row, where its contents differ from flash or not (Table 7.4). -/
def Table.flags (t : Table) (no r : Nat) (missing dirty : Bool) (c : Copy) : Nat :=
  b2n missing + 2 * b2n (t.forwarded no r && t.source no r == c) + 4 * b2n dirty + 8 * b2n (c.slot != homeMark)

/-- Change the slots of a row's copies in effect that can be read, each as `f` says. -/
def State.eachCopy (s : State) (tk no r : Nat) (f : Table → Copy → Bytes → Bytes) : State :=
  match s.tab? tk with
  | none => s
  | some t => (t.copiesAt no r t.seq).foldl (fun u c => match t.resolve no r c with
    | none => u
    | some (j, k) => match u.rdSlot tk no t j k with
      | (v, none) => v
      | (v, some b) => v.wrSlot tk no t j k (f t c b)) s

/-- Set or clear the FWD flag of a row's source, as an entry for it stands or not (R311). -/
def State.markFwd (s : State) (tk no r : Nat) : State :=
  s.eachCopy tk no r fun t c b => withFlags b (t.flags no r (slotMissing b) (bit (slotFlags b) 2) c)

/-- Take the next number of a table's sequence (R299). -/
def State.nextSeq (s : State) (tk : Nat) : State := s.modTab tk fun t => { t with seq := t.seq + 1 }

/-- Mark a way as used now (R279). -/
def State.useWay (s : State) (tk no j k : Nat) : State :=
  (s.modVer tk no fun v => { v with used := mset 0 v.used (wayKey j k) (((s.tab? tk).map (·.clock)).getD 0 + 1) }).modTab tk
    fun t => { t with clock := t.clock + 1 }

/-! ### Lost rows (R296) -/

/-- Make a row missing whose slot is lost, in each of its copies, and raise the event. Its version number is a free value. -/
def State.loseRow (s : State) (tk no r : Nat) (t : Table) : State :=
  let (n, u) := s.takeFree
  let w := (t.copiesAt no r t.seq).foldl (fun w c => match t.resolve no r c with
    | none => w
    | some (j, k) => w.wrSlot tk no t j k (slotBytes t t.scale0 (n % 2 ^ 32) (t.flags no r true t.backed c) r [])) u
  ((w.modAtl fun a => { a with lostCnt := satBv a.lostCnt 1 }).modTab tk fun y => { y with lost := y.lost + 1 }).raise (.atl 0) 0 0x7002
    (words [tk / 256, tk % 256, r % 2 ^ 32, r / 2 ^ 32])

/-- What reading a row gives. -/
inductive RowRead where
  | got (b : Bytes)
  | miss
deriving DecidableEq, Repr

/-- Remove a replica at the next sequence number, where it is not already removed at one (R299, R315). -/
def State.dropReplica (s : State) (tk no r : Nat) (c : Copy) : State :=
  if c.off.isSome then s else
  let t := s.nextSeq tk
  let q := ((t.tab? tk).map (·.seq)).getD 0
  t.modVer tk no fun v => { v with fwd := v.fwd.map fun f =>
    if f.row == r then { f with copies := f.copies.map fun d => if d == c then { d with off := some q } else d } else f }

/-- Read the source copy of a row (R296). -/
def State.readSource (s : State) (tk no r : Nat) (t : Table) (c : Copy) : State × RowRead :=
  match t.resolve no r c with
  | none => (s, .miss)
  | some (j, k) =>
    match s.rdSlot tk no t j k with
    | (u, some b) => ((if t.backed then u.useWay tk no j k else u), .got b)
    | (u, none) =>
      if t.backed && ! (t.ver no).dirty.contains r then
        (u.modVer tk no fun v => { v with ways := mset 0 v.ways (wayKey j k) 0 }, .miss)
      else
        let w := u.loseRow tk no r t
        match w.rdSlot tk no t j k with
        | (x, some b) => (x, .got b)
        | (x, none) => (x, .got (t.newRow true r))

/-- Read a row for bag b at a sequence number (R301, R308, R315). -/
def State.readRow (s : State) (tk no r b q : Nat) : State × RowRead :=
  match s.tab? tk with
  | none => (s, .miss)
  | some t =>
    match s.atl.shadows.find? fun h => h.tab == tk && h.ver == no && h.row == r with
    | some h => (s, .got h.bytes)
    | none =>
      let cs := t.copiesAt no r q
      let c := cs.getD (b % max 1 cs.length) (t.home r)
      let src := cs.headD c
      if c == src then s.readSource tk no r t c
      else
        match t.resolve no r c with
        | none => s.readSource tk no r t src
        | some (j, k) =>
          match s.rdSlot tk no t j k with
          | (u, some bs) => (u, .got bs)
          | (u, none) => (u.dropReplica tk no r c).readSource tk no r t src

/-- The channel that serves an index (R309). -/
def Table.servedBy (t : Table) (no r b : Nat) : Nat :=
  let cs := t.copiesAt no r t.seq
  ((cs[b % max 1 cs.length]?).map (·.chan)).getD (t.homeChan r)

/-! ### Writing a row (R283, R285, R313) -/

/-- Write a row's new slot to every copy in effect; its version number rises by one, its flags follow (Table 7.4). -/
def State.putRow (s : State) (tk no r : Nat) (scale : Nat) (missing : Bool) (elems : Bytes) (old : Bytes) : State :=
  match s.tab? tk with
  | none => s
  | some t =>
    let u := (t.copiesAt no r t.seq).foldl (fun u c =>
      match t.resolve no r c with
      | none => u
      | some (j, k) =>
        let w := u.wrSlot tk no t j k (slotBytes t scale ((slotRver old + 1) % 2 ^ 32) (t.flags no r missing t.backed c) r elems)
        if t.backed then w.useWay tk no j k else w) s
    if t.backed then u.modVer tk no fun v => { v with dirty := setIns v.dirty r } else u

/-- The elements and scale of values stored in a table's format: INT8 with the scale of the largest magnitude (R283), others converted
(R125). -/
def packRow (t : Table) (vals : List Nat) : Nat × Bytes :=
  if t.fmt = 2 then
    let m := vals.foldl (fun a x => if (fp32.dec x).isNan then a else f32max a (f32abs x)) 0
    let sc := f32max (f32div m 0x42FE0000) f32tiny
    (sc, vals.flatMap fun x => leBytes 1 (cvtElem 2 ((fp32.dec x).div (fp32.dec sc))))
  else (f32one, vals.flatMap fun x => leBytes (elemBytes t.fmt) (cvtElem t.fmt (fp32.dec x)))

/-! ### Flash-backed rows (R279, R280) -/

/-- Rows per flash page, and pages of one home channel's run. -/
def Table.perPage (t : Table) : Nat := max 1 (unitBytes / t.slotSize)
def Table.runPages (t : Table) : Nat := cdiv (cdiv t.rows (max 1 t.n)) t.perPage
/-- The page of a row within a version's flash copy, and its offset in the page. -/
def Table.rowPage (t : Table) (r : Nat) : Nat := t.homeChan r * t.runPages + t.homeIdx r / t.perPage
def Table.rowOff (t : Table) (r : Nat) : Nat := t.homeIdx r % t.perPage * t.slotSize
/-- The unit of a page of a version, in the range of the namespace that the version has (log 25). -/
def Table.pageUnit (t : Table) (no pg : Nat) : Nat := (t.ver no).area * (t.n * t.runPages) + pg
/-- The lowest range of the namespace that no version has, nor the one that a power loss would bring back. -/
def Table.freeArea (t : Table) : Nat :=
  ((List.range 6).find? fun a => ! (t.vers ++ t.syncOld.toList).any (·.area == a)).getD 0
def Table.nsOf (t : Table) (tk : Nat) : Nat := nsKey (tk / 256) t.ns

/-- The rows on a page of the flash copy. -/
def Table.rowsOn (t : Table) (pg : Nat) : List Nat := (List.range t.rows).filter fun r => t.rowPage r == pg

/-- Beside the 16 KiB that a host can read of it, a page of the flash copy holds the number of its version, and the state slots of its rows, each with a
byte that says it is there (08 R347, log 25). -/
def versionAt : Nat := unitBytes
def Table.stateAt (t : Table) (r : Nat) : Nat := unitBytes + 16 + t.optGen * 2 ^ 20 + t.homeIdx r % t.perPage * (t.stateSize + 1)
def stampPage (m : Mem) (no : Nat) : Mem := wrBytes m versionAt (leBytes 8 (no + 1))

/-- The state of a row as it went to flash with it, or as it is before any update. -/
def State.flashState (s : State) (tk no r : Nat) (t : Table) : Bytes :=
  match (if (t.ver no).flashed.contains (t.rowPage r) then s.peekUnit (t.nsOf tk) (t.pageUnit no (t.rowPage r)) else none) with
  | none => t.newState r
  | some m =>
    let b := rdBytes m (t.stateAt r) (t.stateSize + 1)
    if b.getD t.stateSize 0 = 1 then b.take t.stateSize else t.newState r

/-- A page of the flash copy that has never been written. -/
def Table.freshPage (t : Table) (no pg : Nat) : Mem :=
  (t.rowsOn pg).foldl (fun m r => wrBytes m (t.rowOff r) (t.newRow (t.ver no).born r)) []

/-- A page of the flash copy, its read ending as given. -/
def State.flashPage (s : State) (tk no : Nat) (t : Table) (pg : Nat) (o : Option ReadOutcome) : State × Option Mem :=
  if (t.ver no).flashed.contains pg then
    match o with
    | none => s.readUnit (t.nsOf tk) (t.pageUnit no pg)
    | some x => s.readUnitAs (t.nsOf tk) (t.pageUnit no pg) x
  else (s, some (t.freshPage no pg))

/-- Write a unit into the buffer; with no free slot, the oldest is programmed first. -/
def State.flashWrite (s : State) (ns u : Nat) (m : Mem) : State × List Nat :=
  let t := if s.gr.freeSlots = 0 then (match s.gr.slots with
    | e :: _ => s.destage e.2.ns e.2.unit false
    | [] => s) else s
  t.bufferUnits ns 0 [(u, m)]

/-- Write a resident row and its state to flash. The answer is the buffer slots written, or the unit of a page that cannot be read (R279, R281). A dirty
row whose line is lost is missing from then on (R296). -/
def State.flushRow (s : State) (tk no r : Nat) : State × Except Nat (List Nat) :=
  match s.tab? tk with
  | none => (s, .ok [])
  | some t =>
    match t.sourceSlot no r with
    | none => (s, .ok [])
    | some (j, k) =>
      let (u, b) := match s.rdSlot tk no t j k with
        | (u, some b) => (u, b)
        | (u, none) =>
          let w := u.loseRow tk no r t
          (w, ((w.rdSlot tk no t j k).2).getD (t.newRow true r))
      let pg := t.rowPage r
      match u.flashPage tk no t pg none with
      | (v, none) => (v, .error (t.pageUnit no pg))
      | (v, some m) =>
        let (w, st) := v.rdState tk no t j k
        let row := wrBytes m (t.rowOff r) (withFlags b (slotFlags b % 2))
        let page := if t.stateSize = 0 then row else wrBytes row (t.stateAt r) (st.getD (t.newState r) ++ [1])
        let (x, ns) := w.flashWrite (t.nsOf tk) (t.pageUnit no pg) (stampPage page no)
        let y := x.eachCopy tk no r fun t c b => withFlags b (t.flags no r (slotMissing b) false c)
        (y.modVer tk no fun a => { a with dirty := setDel a.dirty r, flashed := setIns a.flashed pg }, .ok ns)

/-- Whether a slot of a channel is held by a copy, by the destination of a move, or by a row that has moved away and that admitted batches may still
read there (R311, R314). -/
def Table.heldSlot (t : Table) (no j k : Nat) : Bool :=
  ((t.ver no).fwd.any fun f => f.copies.any fun c => c.chan == j &&
    (c.slot == k || (c.slot == homeMark && c.off.isSome && mget 0 (t.ver no).ways (wayKey j k) == f.row + 1))) ||
  (no == t.cur && t.moves.any fun m => m.chan == j && m.slot == k)

/-- Free a way of a channel: a dirty row that leaves it is first written to flash. False where that cannot be done (R279). -/
def State.freeWay (s : State) (tk no j k : Nat) : State × Bool :=
  match s.tab? tk with
  | none => (s, false)
  | some t =>
    match mget 0 (t.ver no).ways (wayKey j k) with
    | 0 => (s, true)
    | r + 1 =>
      let (u, ok) := if (t.ver no).dirty.contains r && t.sourceSlot no r == some (j, k) then (match s.flushRow tk no r with
          | (u, .error _) => (u, false)
          | (u, .ok _) => (u, true))
        else (s, true)
      if ok then (u.modVer tk no fun a => { a with ways := mset 0 a.ways (wayKey j k) 0 }, true) else (u, false)

/-- The way of a row's set that is free, or else the one least recently used; none where every way is held. -/
def Table.pickWay (t : Table) (no r : Nat) : Option Nat :=
  let v := t.ver no
  let j := t.homeChan r
  let free (z : Nat) : Bool := mget 0 v.ways (wayKey j z) == 0
  ((t.waysOf r).filter fun k => ! t.heldSlot no j k).foldl (fun (x : Option Nat) k => match x with
    | none => some k
    | some y =>
      if free y then some y else if free k then some k
      else if mget 0 v.used (wayKey j k) < mget 0 v.used (wayKey j y) then some k else some y) none

/-- Install a row read from flash, with its state: in its source's copy slot where it has moved, or else in the way of its set least recently used. False
where no way could be freed (R279, R296). -/
def State.install (s : State) (tk no r : Nat) (b : Bytes) : State × Bool :=
  match s.tab? tk with
  | none => (s, false)
  | some t =>
    let src := t.source no r
    let st := s.flashState tk no r t
    let put (u : State) (k : Nat) : State :=
      ((u.wrSlot tk no t src.chan k (withFlags b (t.flags no r (slotMissing b) false src))).wrState tk no t src.chan k st).useWay tk no src.chan k
    if src.slot ≠ homeMark then (put s src.slot, true)
    else
      match t.pickWay no r with
      | none => (s, false)
      | some k =>
        match s.freeWay tk no src.chan k with
        | (u, false) => (u, false)
        | (u, true) => (put (u.modVer tk no fun a => { a with ways := mset 0 a.ways (wayKey src.chan k) (r + 1) }) k, true)

/-- Ask for a row from flash (R279, R298). -/
def State.wantRow (s : State) (tk no r : Nat) (ahead : Bool) : State :=
  s.modTab tk fun t =>
    if t.misses.any fun m => m.1 == no && m.2.1 == r then
      { t with misses := t.misses.map fun m => if m.1 == no && m.2.1 == r then (no, r, m.2.2 && ahead) else m }
    else { t with misses := t.misses ++ [(no, r, ahead)] }

/-! ### Ranges of frozen rows (08 R340) -/

def rangeDel (l : List (Nat × Nat)) (a b : Nat) : List (Nat × Nat) :=
  l.flatMap fun r =>
    if r.2 ≤ a ∨ b ≤ r.1 then [r] else (if r.1 < a then [(r.1, a)] else []) ++ (if b < r.2 then [(b, r.2)] else [])
/-- Add a range, joined with those it touches. -/
def rangeAdd (l : List (Nat × Nat)) (a b : Nat) : List (Nat × Nat) :=
  let near := l.filter fun r => decide (r.1 ≤ b) && decide (a ≤ r.2)
  let lo := (near.map (·.1)).foldl min a
  let hi := (near.map (·.2)).foldl max b
  let rest := l.filter fun r => ! (decide (r.1 ≤ b) && decide (a ≤ r.2))
  rest.filter (fun r => r.2 < lo) ++ [(lo, hi)] ++ rest.filter fun r => hi < r.1
def isFrozen (l : List (Nat × Nat)) (r : Nat) : Bool := l.any fun e => decide (e.1 ≤ r) && decide (r < e.2)

/-! ### Who is bound to a version (R306) -/

/-- The table an Atlas or update command names. -/
def atTarget (c : Cmd) : Nat :=
  if c.opcode = 0x43 then fld c.data 0 1 else if c.opcode = 0x40 then fld c.data 0 1 else if c.opcode = 0x50 then fld c.data 0 1 else c.obj

/-- The admitted gathers of a table. -/
def State.gathersOf (s : State) (tk : Nat) : List Cmd :=
  s.host.cmds.filter fun c => c.opcode == 0x43 && tabKey c.ref.part (atTarget c) == tk && (c.phase == .admitted || c.phase == .running)

/-- Whether a version is bound: the current or the building one, or that of a gather, a re-rank query, an open step or an AT_SYNC. -/
def State.verHeld (s : State) (tk no : Nat) : Bool :=
  match s.tab? tk with
  | none => false
  | some t =>
    t.cur == no || t.building == some no || ((s.gathersOf tk).any fun c => c.work.headD 0 == no) ||
    (s.host.cmds.any fun c => (c.opcode == 0x34 || c.opcode == 0x35) && c.ref.part == tk / 256 &&
      (c.phase == .admitted || c.phase == .running) && (match lget s.gz.ixs (ixKey c.ref.part (gzTarget c)) with
        | some x => x.rrEn && x.table == tk % 256 && c.work.getD 1 0 == no
        | none => false)) ||
    (s.gr.awaits.any fun a => match a.sync with
      | none => false
      | some m => m.1 == tk && m.2.1 == no) ||
    s.upd.steps.any fun e => e.2.tabs.any fun p => tabKey e.2.part p.1 == tk && p.2 == no

/-- Whether a table belongs to an open step (08 R327). -/
def State.inStep (s : State) (tk : Nat) : Bool := s.upd.steps.any fun e => e.2.tabs.any fun p => tabKey e.2.part p.1 == tk

/-- Start a command when a condition on it holds; until then it stays admitted. -/
def startWhen (r : CmdRef) (op : Nat) (ok : Cmd → State → Bool) (run : Cmd → State → State) (s : State) : Out :=
  match s.startable r op with
  | some c => if ok c s then startCmd r op run s else guardUnit (refOk r) (.next s)
  | none => startCmd r op run s

/-- Start a command when a condition on it holds, or carry it on while it runs. -/
def stepWhen (r : CmdRef) (op : Nat) (ok : Cmd → State → Bool) (start more : Cmd → State → State) (s : State) : Out :=
  match s.startable r op with
  | some c => if ok c s then stepCmd r op start more s else guardUnit (refOk r) (.next s)
  | none => stepCmd r op start more s

/-- Whether an earlier admitted command of a partition, still at work, passes a test (05 R206). -/
def State.earlier (s : State) (c : Cmd) (f : Cmd → Bool) : Bool :=
  s.host.cmds.any fun d => d.ref.part == c.ref.part && d.adm ≠ 0 && decide (d.adm < c.adm) && (d.phase == .admitted || d.phase == .running) && f d

end Sys2Proof.Machine
end

