-- ==== Sys2Proof/Machine/GratRows.lean ====
section
/-! DEFINITION. Graticule's commands and events: namespaces, RD, WR, FLUSH, TRIM, handles, destaging, the journal, erases, collection, wear,
heat age, the hold-up measurement (11 R469 to R475; 12 R490 to R539). -/

namespace Sys2Proof.Machine

/-! ### Existence (11 R718) -/

/-- Whether an object of a partition is hidden from a command: a creation of it is outstanding, or an admitted removal of it is at work. -/
def State.hidden (s : State) (p create remove : Nat) (made gone : Cmd → Nat) (n : Nat) (me : CmdRef) : Bool :=
  s.host.cmds.any fun d => d.ref != me && d.ref.part == p && d.adm != 0 && d.status == 0 &&
    ((d.opcode == create && made d == n) || (d.opcode == remove && gone d == n && (d.phase == .admitted || d.phase == .running || remove == 0x54)))

def State.nsHidden (s : State) (p n : Nat) (me : CmdRef) : Bool := s.hidden p 0x14 0x15 (fun d => fld d.data 0 2) (·.obj) n me
/-- The namespace that exists for a command, if it does. -/
def State.nsFor (s : State) (p n : Nat) (me : CmdRef) : Option Ns :=
  if 63 < n || s.nsHidden p n me then none else s.ns? (nsKey p n)

/-- The namespace a command addresses by number. -/
def nsTarget (c : Cmd) : Option Nat :=
  if [0x10, 0x11, 0x12, 0x13, 0x15, 0x16, 0x19].contains c.opcode then some c.obj
  else if c.opcode = 0x22 then some (fld c.data 4 2)
  else if c.opcode = 0x60 then some (fld c.data 0 2)
  else if c.opcode = 0x40 ∧ bit (fld c.data 4 4) 4 then some (fld c.data 0x28 2)
  else none

/-- The module's media serve: mounted, powered, not frozen. -/
def State.media (s : State) : Bool := s.alive 6 && s.sys.mediaReady

/-! ### Namespaces (R490 to R494) -/

def State.grNsCreateCheck (s : State) (c : Cmd) : Option (Nat × Bytes) :=
  let n := fld c.data 0 2
  if c.dlen ≠ 64 ∨ 63 < n ∨ (s.ns? (nsKey c.ref.part n)).isSome ∧ ! s.nsHidden c.ref.part n c.ref ∨
      (s.host.cmds.any fun d => d.ref != c.ref && d.ref.part == c.ref.part && d.adm != 0 && d.status == 0 && d.opcode == 0x14 && fld d.data 0 2 == n) ∨
      fld c.data 8 8 = 0 ∨ 2 ≤ fld c.data 2 2 ∨ (sub c.data 4 4).any (· != 0) ∨ (sub c.data 16 48).any (· != 0)
  then some (2, []) else none

/-- GR_NS_CREATE: it reserves its capacity, or fails with status capacity (R490). -/
def execGrNsCreate (r : CmdRef) (s : State) : Out :=
  startWhen r 0x14 (fun c t => ! t.earlier c fun d => d.opcode == 0x15 && d.obj == fld c.data 0 2) (fun c t =>
    let k := nsKey r.part (fld c.data 0 2)
    let cap := fld c.data 8 8
    if (t.ns? k).isSome then t.cmdFail r 2 []
    else if userUnits < t.gr.reserved + cap then t.cmdFail r 6 []
    else
      let u := t.modGr fun g => { g with ns := lset g.ns k { ro := bit (fld c.data 2 1) 0, cap := cap } }
      u.commit.commitDone r [] [] none) s

/-- Whether a resident model's package or a backed table lies in a namespace (R494). -/
def State.nsInUse (s : State) (p n : Nat) : Bool :=
  (s.mdl.st != 0 && s.mdl.part == p && s.mdl.ns == n) || s.atl.tabs.any fun e => e.1 / 256 == p && e.2.backed && e.2.ns == n

def State.grNsCheck (s : State) (c : Cmd) : Option (Nat × Bytes) :=
  if (s.nsFor c.ref.part c.obj c.ref).isNone then some (2, []) else none

/-- GR_NS_DELETE: after the earlier commands of the namespace, it is trimmed whole and its reservation freed (R494). -/
def execGrNsDelete (r : CmdRef) (s : State) : Out :=
  startWhen r 0x15 (fun c t => ! t.earlier c fun d => nsTarget d == some c.obj) (fun c t =>
    let k := nsKey r.part c.obj
    if (t.ns? k).isNone then t.cmdFail r 2 []
    else if t.nsInUse r.part c.obj then t.cmdFail r 7 []
    else
      let u := t.trimUnits fun n _ => n == k
      (u.modGr fun g => { g with ns := ldel g.ns k, handles := g.handles.filter fun h => h.2 != k }).commitDone r [] [] none) s

/-- GR_NS_SET: the READ_ONLY flag (Table 12.3). -/
def execGrNsSet (r : CmdRef) (s : State) : Out :=
  startCmd r 0x16 (fun c t =>
    if 2 ≤ c.p1 then t.cmdFail r 2 []
    else ((t.modNs (nsKey r.part c.obj) fun n => { n with ro := bit c.p1 0 }).commit).commitDone r [] [] none) s

/-- The namespaces of a partition that hosts address. -/
def State.nsOfPart (s : State) (p : Nat) : List (Nat × Ns) :=
  s.gr.ns.filter fun e => e.1 / 2 ^ 20 == p && decide (e.1 % 2 ^ 20 < 64)

/-- GR_NS_LIST (Table 12.3). -/
def execGrNsList (r : CmdRef) (s : State) : Out :=
  startCmd r 0x17 (fun _ t =>
    let l := (t.nsOfPart r.part).filter fun e => ! t.nsHidden r.part (e.1 % 2 ^ 20) r
    let ent (e : Nat × Ns) : Bytes :=
      leBytes 2 (e.1 % 2 ^ 20) ++ leBytes 2 (b2n e.2.ro) ++ zeros 4 ++ leBytes 8 e.2.cap ++ leBytes 8 (t.gr.mapped e.1) ++ zeros 8
    t.cmdDone r [] (some (leBytes 4 l.length ++ zeros 60 ++ l.flatMap ent))) s

/-- The health answer (Table 12.5). -/
def State.health (s : State) : Bytes :=
  let g := s.gr
  let warn := b2n (g.sparePct < 2) + 2 * b2n g.ronly + 4 * b2n s.host.wt + 8 * b2n (g.deadDies != []) + 16 * b2n s.spaceCritical
  leBytes 4 (g.sparePct % 256 + 256 * warn) ++ leBytes 4 (min 0xFFFF g.wear + 65536 * min 0xFFFF g.slcWear) ++ leBytes 8 g.hostBytes ++
    leBytes 8 g.nandBytes ++ leBytes 8 g.retried ++ leBytes 4 (g.blks.filter fun e => e.2.phase == .retired).length ++
    leBytes 4 (g.deadDies.length + 65536 * g.deadChans.length) ++ leBytes 8 g.uncorr ++ leBytes 8 g.deep ++ leBytes 8 g.recon ++
    ((List.range 8).flatMap fun i => leBytes 8 (mget 0 g.minutes i)) ++ leBytes 4 s.sys.poc ++
    leBytes 4 g.losses ++ zeros 0x38

/-- GR_HEALTH (R531). -/
def execGrHealth (r : CmdRef) (s : State) : Out := startCmd r 0x18 (fun _ t => t.cmdDone r [] (some t.health)) s

/-! ### RD, WR, FLUSH, TRIM (11 R469 to R472) -/

/-- The range of an RD, WR or TRIM (R469). -/
def State.rangeCheck (s : State) (c : Cmd) : Option (Nat × Bytes) :=
  match s.nsFor c.ref.part c.obj c.ref with
  | none => some (2, [])
  | some n => if c.p1 = 0 ∨ 0x400000 < c.p1 ∨ n.cap * unitBytes < c.p2 + c.p1 then some (2, []) else none

/-- Whether a handle may carry a WR (R536, R537). -/
def State.handleOk (s : State) (ns h : Nat) : Bool :=
  h == 0 || (s.hostMode (.grt 0) && s.gr.handles.any fun e => e.1 == h && e.2 == ns)

/-- A WR without EMBED, before admission. -/
def State.wrCheck (s : State) (c : Cmd) : Option (Nat × Bytes) :=
  match s.rangeCheck c with
  | some f => some f
  | none =>
    if c.dlen ≠ c.p1 then some (2, [])
    else if (sub c.p3 2 30).any (· != 0) ∨ ! s.handleOk (nsKey c.ref.part c.obj) (fld c.p3 0 2) then some (2, [])
    else if ((s.ns? (nsKey c.ref.part c.obj)).map (·.ro)).getD false ∨ s.gr.ronly then some (0xA, [])
    else none

def State.trimCheck (s : State) (c : Cmd) : Option (Nat × Bytes) :=
  match s.rangeCheck c with
  | some f => some f
  | none => if ((s.ns? (nsKey c.ref.part c.obj)).map (·.ro)).getD false ∨ s.gr.ronly then some (0xA, []) else none

/-- First unit of a range, and how many it touches. -/
def unitSpan (off len : Nat) : Nat × Nat := (off / unitBytes, (off + len - 1) / unitBytes + 1 - off / unitBytes)

/-- RD (R469). -/
def execRd (r : CmdRef) (s : State) : Out :=
  startCmd r 0x10 (fun c t =>
    match t.readRange (nsKey r.part c.obj) c.p2 c.p1 with
    | (u, .ok bs) => u.cmdDone r [] (some bs)
    | (u, .error n) => u.cmdFail r 0x11 (leBytes 8 n)) s

/-- Whether an earlier write of the partition that overlaps in a unit is still at work (R471). -/
def State.overlapped (s : State) (c : Cmd) : Bool :=
  let (a, n) := unitSpan c.p2 c.p1
  s.earlier c fun d => (d.opcode == 0x11 || d.opcode == 0x13) && d.obj == c.obj &&
    (let (b, m) := unitSpan d.p2 d.p1; decide (a < b + m) && decide (b < a + n))

/-- The units of a write, partial ones merged with what they hold; the first of them that is unreadable, where there is one (R469). -/
def State.mergeUnits (s : State) (ns off : Nat) (data : Bytes) : State × Except Nat (List (Nat × Mem)) :=
  let (a, n) := unitSpan off data.length
  (List.range n).foldl (fun (acc : State × Except Nat (List (Nat × Mem))) i =>
    match acc with
    | (t, .error e) => (t, .error e)
    | (t, .ok l) =>
      let u := a + i
      let lo := max off (u * unitBytes)
      let hi := min (off + data.length) ((u + 1) * unitBytes)
      let piece := (data.drop (lo - off)).take (hi - lo)
      if hi - lo = unitBytes then (t, .ok (l ++ [(u, wrBytes [] 0 piece)]))
      else
        match t.readUnit ns u with
        | (v, none) => (v, .error u)
        | (v, some m) => (v, .ok (l ++ [(u, wrBytes m (lo - u * unitBytes) piece)]))) (s, .ok [])

/-- A write that may start: no overlapping earlier write at work, and free slots (R471, R500). -/
def State.wrReady (s : State) (c : Cmd) : Bool := ! s.overlapped c && decide ((unitSpan c.p2 c.p1).2 ≤ s.gr.freeSlots)

/-- WR without EMBED: its units enter the buffer and commit together (R470, R499). -/
def State.wrRun (s : State) (c : Cmd) : State :=
  let ns := nsKey c.ref.part c.obj
  if s.gr.ronly ∨ ((s.ns? ns).map (·.ro)).getD false then s.cmdFail c.ref 0xA [] else
    match s.mergeUnits ns c.p2 c.data with
    | (t, .error u) => t.cmdFail c.ref 0x11 (leBytes 8 u)
    | (t, .ok us) =>
      let h := if t.handleOk ns (fld c.p3 0 2) then fld c.p3 0 2 else 0
      let (u, slots) := t.bufferUnits ns h us
      (u.modGr fun g => { g with hostBytes := g.hostBytes + c.p1 }).commitDone c.ref (if u.forced c then slots else []) [] none

/-- FLUSH: it completes when the writes that stand in the buffer have been programmed (R472). -/
def execFlush (r : CmdRef) (s : State) : Out :=
  startCmd r 0x12 (fun c t =>
    let k := nsKey r.part c.obj
    t.commitDone r ((t.gr.slots.filter fun e => e.2.ns == k && e.2.pend.isNone).map (·.1)) [] none) s

/-- TRIM: whole units are trimmed; of a partial unit the range is written with zeros (R472). -/
def execTrim (r : CmdRef) (s : State) : Out :=
  startWhen r 0x13 (fun c t => t.wrReady c) (fun c t =>
    let ns := nsKey r.part c.obj
    if t.gr.ronly ∨ ((t.ns? ns).map (·.ro)).getD false then t.cmdFail r 0xA [] else
      let whole (u : Nat) : Bool := decide (c.p2 ≤ u * unitBytes) && decide ((u + 1) * unitBytes ≤ c.p2 + c.p1)
      let (a, n) := unitSpan c.p2 c.p1
      let parts := ((List.range n).map (a + ·)).filter fun u => ! whole u && (t.entry? ns u).isSome
      let merged := parts.foldl (fun (acc : State × Except Nat (List (Nat × Mem))) u =>
        match acc with
        | (t, .error e) => (t, .error e)
        | (t, .ok l) =>
          match t.readUnit ns u with
          | (v, none) => (v, .error u)
          | (v, some m) =>
            let lo := max c.p2 (u * unitBytes)
            let hi := min (c.p2 + c.p1) ((u + 1) * unitBytes)
            (v, .ok (l ++ [(u, mclear m (lo - u * unitBytes) (hi - lo))]))) (t, .ok [])
      match merged with
      | (u, .error n) => u.cmdFail r 0x11 (leBytes 8 n)
      | (u, .ok us) =>
        let (v, slots) := u.bufferUnits ns 0 us
        (v.trimUnits fun k x => k == ns && decide (a ≤ x) && decide (x < a + n) && whole x).commitDone r (if v.forced c then slots else []) [] none) s

/-! ### Placement handles (R535 to R539) -/

/-- GR_PH_OPEN (R536, R537). -/
def execGrPhOpen (r : CmdRef) (s : State) : Out :=
  startCmd r 0x19 (fun c t =>
    if ! t.hostMode (.grt 0) then t.cmdFail r 8 []
    else if 64 ≤ t.gr.handles.length ∨ 8 ≤ (t.gr.handles.filter fun h => h.2 / 2 ^ 20 == r.part).length then t.cmdFail r 6 []
    else
      match ((List.range 255).map (· + 1)).find? fun n => ! t.gr.handles.any (·.1 == n) with
      | none => t.cmdFail r 6 []
      | some n => (t.modGr fun g => { g with handles := lset g.handles n (nsKey r.part c.obj) }).cmdDone r (leBytes 2 n) none) s

/-- The handle a command names, with its namespace, if its partition holds it. -/
def State.handle? (s : State) (p h : Nat) : Option Nat := (lget s.gr.handles h).filter fun k => k / 2 ^ 20 == p

/-- Close a handle: its superblocks fill no further under it, and its open ones serve the shared write point of their group (R539). -/
def State.closeHandle (s : State) (h : Nat) : State :=
  s.modGr fun g => { g with
    handles := ldel g.handles h
    slots := g.slots.map fun e => if e.2.handle == h then (e.1, { e.2 with handle := 0 }) else e
    sbs := g.sbs.map fun e => if e.2.kind == 256 + h then (e.1, { e.2 with kind := e.2.group }) else e }

def execGrPhClose (r : CmdRef) (s : State) : Out :=
  startCmd r 0x1A (fun c t =>
    if ! t.hostMode (.grt 0) then t.cmdFail r 8 []
    else if (t.handle? r.part c.obj).isNone then t.cmdFail r 2 []
    else (t.closeHandle c.obj).cmdDone r [] none) s

/-- GR_PH_STAT (R538). -/
def execGrPhStat (r : CmdRef) (s : State) : Out :=
  startCmd r 0x1B (fun c t =>
    match t.handle? r.part c.obj with
    | none => t.cmdFail r 2 []
    | some k =>
      let l := t.gr.sbs.filter fun e => e.2.kind == 256 + c.obj
      let ent (e : Nat × SuperBlk) : Bytes := leBytes 8 (e.1 + 2 ^ 24 * (t.sbValid e.2).length + 2 ^ 48 * b2n (e.2.phase == .filling))
      t.cmdDone r [] (some (leBytes 2 c.obj ++ leBytes 2 (k % 2 ^ 20) ++ leBytes 4 l.length ++
        leBytes 8 ((l.map fun e => (t.sbValid e.2).length).sum) ++ zeros 48 ++ l.flatMap ent))) s

/-- GR_WL (R522). -/
def execGrWl (r : CmdRef) (s : State) : Out :=
  startCmd r 0x1C (fun c t =>
    if ! t.hostMode (.grt 1) then t.cmdFail r 8 []
    else
      match lget t.gr.sbs c.obj with
      | none => t.cmdFail r 2 []
      | some b => if b.phase == .filling then t.cmdFail r 2 [] else (t.collect c.obj true).commitDone r [] [] none) s

/-! ### Destaging and the journal (R497 to R501) -/

/-- DESTAGE: to the SLC cache only while the fill exceeds SLC_HI (R501, GRT_WB). -/
def execDestage (p ns u : Nat) (slc : Bool) (s : State) : Out :=
  guardUnit (partOk p) <|
    if ! s.media then .next s
    else if slc && decide (s.gr.fill ≤ min 100 s.gr.slcHi.toNat) then .next s
    else .next (s.destage (nsKey p ns) u slc)

/-- JOURNAL_PROGRAM (R497). -/
def execJournalProgram (s : State) : Out := .next (if s.media then s.journalPage else s)

/-- CHECKPOINT: one 4 MiB piece of the map is written (R498). -/
def execCheckpoint (s : State) : Out := .next (if s.media then s.checkpointPiece else s)

/-- SLC_CACHE_FOLD: a unit in the SLC cache is relocated to QLC (R501). -/
def execSlcCacheFold (p ns u : Nat) (s : State) : Out :=
  guardUnit (partOk p) <|
    if ! s.media then .next s
    else
      match s.entry? (nsKey p ns) u with
      | none => .next s
      | some e =>
        let k := e.addr / 2500
        if e.buf || ! slcBlk k then .next s
        else
          let t := s.relocateAll (s.gr.pages.filter fun x => x.1 == e.addr) false
          .next (if t.gr.slcOpen k then t else t.queueErase k)

/-! ### Superblocks, failures, erases (R505 to R507, R516, R519) -/

/-- SUPERBLOCK_VERIFY: pages beyond the verify limit, named as stripe × 32 + position, are rewritten; full parity is released (R505). -/
def execSuperblockVerify (sb : Nat) (bad : List Nat) (s : State) : Out :=
  match lget s.gr.sbs sb with
  | none => .next s
  | some b =>
    if ! s.media || b.phase != .closed then .next s
    else
      let t := bad.foldl (fun t n => match b.blocks.getD (n % 32) none with
        | none => t
        | some k => t.relocate (pageKey k (n / 32)) false) s
      let u := b.comps.foldl (fun u k => u.queueErase k) t
      .next ((u.modGr fun g => { g with sbs := g.sbs.map fun e => if e.1 == sb then (e.1, { e.2 with phase := .verified, comps := [] }) else e }))

/-- PROGRAM_FAIL: the pages of the die on the same word line and the one before are rebuilt elsewhere, and the block is retired (R506). -/
def execProgramFail (sb pos : Nat) (s : State) : Out :=
  match lget s.gr.sbs sb with
  | none => .next s
  | some b =>
    match b.blocks.getD pos none with
    | none => .next s
    | some k =>
      if ! s.media || b.phase != .filling then .next s
      else
        let w := b.next / 32 / 4
        let out := s.gr.pages.filter fun e => e.1 / 2500 == k && (e.1 % 2500 / 4 == w || e.1 % 2500 / 4 + 1 == w)
        .next (State.rebuildAll s (s.retireBlk k) out).spareCheck

/-- DIE_RETIRE: the valid pages of the die are rebuilt on other dies; its event is raised (R507). -/
def execDieRetire (d : Nat) (s : State) : Out :=
  guardUnit (nandDieOk d) <|
    if ! s.media || s.gr.deadDies.contains d then .next s
    else
      let out := s.gr.pages.filter fun e => e.1 / 2500 / 12500 == d
      let t := s.modGr fun g => { g with
        deadDies := g.deadDies ++ [d]
        slcAt := g.slcAt.filter fun x => x.1 / 12500 != d
        slcDir := ldel g.slcDir d
        sbs := g.sbs.map fun e => (e.1, { e.2 with blocks := e.2.blocks.map fun b => b.filter fun k => k / 12500 != d }) }
      let u := State.rebuildAll s t out
      .next ((u.raise (.grt 0) 0 0x6003 (words [d])).spareCheck)

/-- ERASE_BEGIN: a queued block's erase begins, once the record that released it is durable and no earlier read of it is in flight (R497,
R516, R519). -/
def execEraseBegin (d b : Nat) (s : State) : Out :=
  guardUnit (nandDieOk d && decide (b < 12500)) <|
    let k := blkKey d b
    let x := s.fblk k
    let ok := x.phase == .queued && (! s.host.wt || decide (x.jneed ≤ s.gr.jdur)) && (s.validIn k).isEmpty &&
      ! s.fch.reqs.any fun q => q.page.map (· / 2500) == some k
    if s.media && ok then
      .next ((s.modFblk k fun y => { y with phase := .erasing }).commit.modGr fun g => { g with pages := g.pages.filter fun e => e.1 / 2500 != k })
    else .next s

/-- ERASE_DONE: the block is free, one cycle older; a failed erase retires it (R519, R520). -/
def execEraseDone (d b : Nat) (ok : Bool) (s : State) : Out :=
  guardUnit (nandDieOk d && decide (b < 12500)) <|
    let k := blkKey d b
    if ! s.media || (s.fblk k).phase != .erasing then .next s
    else if ok then .next (s.modFblk k fun x => { x with phase := .free, cycles := x.cycles + 1, reads := 0, jneed := 0 }).commit
    else .next ((s.modFblk k fun x => { x with phase := .retired }).commit).spareCheck

/-! ### Collection, read disturb, wear (R513, R514, R521, R522) -/

/-- The superblock that a measure makes least; of equals, the one that closed first. -/
def leastSb (l : List (Nat × SuperBlk)) (f : SuperBlk → Nat) : Option Nat :=
  (l.foldl (fun (b : Option (Nat × SuperBlk)) e => match b with
    | none => some e
    | some y => if f e.2 < f y.2 || (f e.2 == f y.2 && decide (e.2.closedAt < y.2.closedAt)) then some e else some y) none).map (·.1)

def Grat.closedSbs (g : Grat) : List (Nat × SuperBlk) := g.sbs.filter fun e => e.2.phase != .filling

/-- READ_DISTURB_RELOCATE (R513, GRT_RET.READ_LIMIT). -/
def execReadDisturbRelocate (d b : Nat) (s : State) : Out :=
  guardUnit (nandDieOk d && decide (b < 12500)) <|
    let k := blkKey d b
    if ! s.media || decide ((s.fblk k).reads ≤ max 1 s.gr.readLimit.toNat * 1000) then .next s
    else
      let t := s.relocateAll (s.validIn k) false
      .next (if slcBlk k && ! t.gr.slcOpen k then t.queueErase k else t)

/-- WL_SPREAD as it acts. -/
def Grat.wlLimit (g : Grat) : Nat := max 1 g.wlSpread.toNat

/-- One round of levelling: the coldest superblock moves to worn blocks (R521). -/
def State.levelOnce (s : State) : State :=
  let mean (b : SuperBlk) : Nat := ((b.blocks.filterMap id).map fun k => (s.fblk k).cycles).sum * 1000 / max 1 (b.blocks.filterMap id).length
  match leastSb s.gr.closedSbs mean with
  | none => s
  | some n => s.collect n true

/-- WEAR_LEVELLING: in hardware mode, rounds from when the spread exceeds WL_SPREAD until it is down to three quarters of it; in host-assisted
mode an event, and rounds only beyond five times WL_SPREAD (R521, R522). -/
def execWearLevelling (s : State) : Out :=
  if ! s.media then .next s
  else
    let sp := s.gr.spread
    let lim := s.gr.wlLimit
    let far := decide (5 * lim < sp)
    let host := s.hostMode (.grt 1)
    let t := if host && decide (lim < sp) && ! s.gr.spreadSeen then (s.modGr fun g => { g with spreadSeen := true }).raise (.grt 1) 0 0x6006 (words [sp, 1]) else s
    let u := if far && ! t.gr.spread5 then (t.modGr fun g => { g with spread5 := true }).raise (.grt 1) 0 0x6006 (words [sp, b2n host]) else t
    let v := u.modGr fun g => { g with
      spreadSeen := g.spreadSeen && decide (lim < sp), spread5 := g.spread5 && far
      levelling := if (if host then far else decide (lim < sp)) then true else g.levelling && decide (4 * sp > 3 * lim) }
    .next (if v.gr.levelling then v.levelOnce else v)

/-! ### Heat age (R523, R526) -/

/-- HEAT_AGE_TICK: a second passes; each package's clock advances by AF of its temperature; superblocks that are due are relocated. -/
def execHeatAgeTick (s : State) : Out :=
  if ! s.sys.powered || s.frz.frozen then .next s
  else
    let due := s.sys.lastHeat + 1000000
    let t := (s.advance due).modSys fun y => { y with lastHeat := due }
    let u := t.modGr fun g => { g with clock := (List.range 32).foldl (fun m p => mmod 0 m p fun h => h + accel (t.nandTemp p)) g.clock }
    .next (if u.media then u.refreshDue.foldl (fun v n => v.collect n false) u else u)

/-! ### The hold-up bank (11 R473, R474) -/

/-- MIN as it acts. -/
def HostL.minJ (h : HostL) : Nat := max 48 h.minEnergy.toNat

/-- Enter or leave write-through as ENERGY and MIN stand (11 R474). -/
def State.wtCheck (s : State) : State :=
  let e := s.host.energy.toNat
  if e < s.host.minJ then
    if s.host.wt then s
    else
      let u := if s.media then s.destageAll.journalPage else s
      (u.modHost fun h => { h with wt := true }).raise .hst 0 0x8001 (words [1, e])
  else if s.host.wt then ((s.modHost fun h => { h with wt := false }).finishAwaits).raise .hst 0 0x8001 (words [0, e])
  else s

/-- HOLDUP_MEASURE: the usable energy in J, up to the 8 bits of HST_HOLDUP.ENERGY (R473, R474). -/
def execHoldupMeasure (joules : Nat) (s : State) : Out :=
  .next (if s.alive 1 then (s.modHost fun h => { h with energy := w8 (min 255 joules) }).wtCheck else s)

end Sys2Proof.Machine
end

