-- ==== Sys2Proof/Machine/GazRows.lean ====
section
/-! DEFINITION. The Gazetteer's commands and events: indexes, inserts, deletes, queries with re-rank, samples, compaction, scan requests and the
page request rings (05 R190 to R235). -/

namespace Sys2Proof.Machine

/-! ### Existence and snapshots (R206, 11 R718) -/

def State.ixHidden (s : State) (p n : Nat) (me : CmdRef) : Bool := s.hidden p 0x30 0x38 (fun d => fld d.data 0 2) (·.obj) n me
/-- The index that exists for a command. -/
def State.ixFor (s : State) (p n : Nat) (me : CmdRef) : Option Index := if s.ixHidden p n me then none else s.ix? p n

/-- What the admission of an index command binds: the committed epoch and, for a batch, the current version of the re-rank table and the mode of selection
merge (R206, R213, R221, R223; 04 R188, 17 R682). -/
def State.gzBind (s : State) (c : Cmd) : List Nat :=
  match s.ix? c.ref.part (gzTarget c) with
  | none => [0, 0, b2n (s.hostMode .sleG)]
  | some x => [x.epoch, ((s.tab? (tabKey c.ref.part x.table)).map (·.cur)).getD 0, b2n (s.hostMode .sleG)]

/-- The status of a command whose index does not exist. -/
def State.gzCheck (s : State) (c : Cmd) : Option (Nat × Bytes) := if (s.ixFor c.ref.part (gzTarget c) c.ref).isNone then some (2, []) else none

/-! ### GZ_CREATE, GZ_DROP (R190, R202, R203) -/

/-- The cores of a search set, in order. -/
def searchCores (clus : List Nat) : List Nat := clus.flatMap fun k => (List.range 8).map (k * 8 + ·)

/-- An index as its descriptor gives it (Table 5.5). -/
def indexOf (d : Bytes) : Index :=
  let geom := fld d 4 4
  let mask := fld d 8 16
  let mg := fld d 0x18 4
  { nb := 8 * (geom % 32), cents := geom / 256 + 1, search := (List.range 80).filter fun n => mask.testBit n, merge := bits mg 6 0
    passQ := bits mg 14 8, table := fld d 0x1C 1, rrEn := bit (fld d 0x1D 1) 0, metric := bit (fld d 0x1D 1) 1, cacheMb := fld d 0x20 4
    spill := bit (fld d 0x24 4) 0 }

def State.gzCreateCheck (s : State) (c : Cmd) : Option (Nat × Bytes) :=
  let d := c.data
  let x := indexOf d
  let n := fld d 0 2
  let p := c.ref.part
  let bad := c.dlen != 64 || fld d 2 2 != 0 || x.nb == 0 || decide (128 < x.nb) || bits (fld d 4 4) 7 5 != 0 || fld d 0x12 6 != 0 ||
    x.search == [] || x.search.any (fun k => s.ownerClu k != some p) || ! x.search.contains x.merge || bit (fld d 0x18 4) 7 ||
    bits (fld d 0x18 4) 31 15 != 0 || decide (64 < x.passQ) || decide (4 ≤ fld d 0x1D 1) || fld d 0x1E 2 != 0 || decide (2 ≤ fld d 0x24 4) ||
    (sub d 0x28 0x18).any (· != 0)
  let used := ((s.ix? p n).isSome && ! s.ixHidden p n c.ref) ||
    s.host.cmds.any fun e => e.ref != c.ref && e.ref.part == p && e.adm != 0 && e.status == 0 && e.opcode == 0x30 && fld e.data 0 2 == n
  if bad ∨ used then some (2, []) else none

/-- The service context of an index on its search set (R203). -/
def indexCtx (p n : Nat) (x : Index) (now : Nat) : Ctx :=
  { kind := .index (ixKey p n), part := p, cores := searchCores x.search, progLen := 16384, waitSince := some now }

/-- Bytes of an index's tombstones, a bit for each stored copy, and of its directory, a line for each list that holds something (09 R362, log 9). -/
def Index.dirBytes (x : Index) : Nat := cdiv ((x.lists.map fun e => (e.2.getLastD {}).ents.length).sum) 8 + 64 * x.lists.length

/-- Charge an index's directory and tombstones to its partition: what its centroids leave short is allocated over the search set (09 R362). -/
def State.dirFit (s : State) (p n : Nat) (x : Index) : Option State :=
  let have' := ((s.dram.alloc.filter (·.use == .index (ixKey p n))).map (·.len)).sum
  let need := x.cents * x.nb + x.dirBytes
  if need ≤ have' then some s else s.poolSpread p (need - have') .state (.index (ixKey p n)) (searchCores x.search)

/-- Centroid codes in the channels of the search-set cores: core ⌊c × N / C⌋ holds centroid c (R203). -/
def State.centroidAreas (s : State) (p n : Nat) (x : Index) : Option State :=
  let cores := searchCores x.search
  let m := max 1 cores.length
  (List.range cores.length).foldl (fun (acc : Option State) i =>
    let lo := cdiv (i * x.cents) m
    let hi := cdiv ((i + 1) * x.cents) m
    acc.bind fun t => t.poolAlloc p (cores.getD i 0) ((hi - lo) * x.nb) .state (.index (ixKey p n))) (some s) |>.bind fun t => t.dirFit p n x

/-- GZ_CREATE: an empty index at epoch 0, or status capacity beyond 64 in the module or 16 in the partition. -/
def execGzCreate (r : CmdRef) (s : State) : Out :=
  startWhen r 0x30 (fun c t => ! t.earlier c fun d => d.opcode == 0x38 && d.obj == fld c.data 0 2) (fun c t =>
    let n := fld c.data 0 2
    let x := indexOf c.data
    if (t.ix? r.part n).isSome then t.cmdFail r 2 []
    else if 64 ≤ t.gz.ixs.length ∨ 16 ≤ (t.gz.ixs.filter fun e => e.1 / 65536 == r.part).length then t.cmdFail r 6 []
    else
      match t.newCtx (indexCtx r.part n x t.sys.now) with
      | none => t.cmdFail r 6 []
      | some (u, k) =>
        match u.centroidAreas r.part n x with
        | none => t.cmdFail r 6 []
        | some v =>
          let w := v.modGr fun g => { g with ns := lset g.ns (ixNs r.part n) {} }
          ((w.setIx r.part n { x with ctx := some k }).commit).commitDone r [] [] none) s

/-- GZ_DROP: after the commands admitted before it, embedding writes among them, the index goes (Table 5.1, 06 R268). -/
def execGzDrop (r : CmdRef) (s : State) : Out :=
  startWhen r 0x38 (fun c t => ! t.earlier c fun d =>
      (decide (0x30 ≤ d.opcode) && decide (d.opcode ≤ 0x38) && gzTarget d == c.obj) || (d.opcode == 0x11 && d.embed && fld d.p3 0 2 == c.obj))
    (fun c t =>
      match t.ix? r.part c.obj with
      | none => t.cmdFail r 2 []
      | some x =>
        let k := ixKey r.part c.obj
        let u := match x.ctx with
          | none => t
          | some y => match t.ctx? y with
            | none => t
            | some cy => t.endCtx y cy
        let v := u.freeAllocs fun a => match a.use with
          | .index j => j == k
          | .hotList j _ _ => j == k
          | _ => false
        let w := v.trimUnits fun n _ => n == ixNs r.part c.obj
        let z := (w.modGr fun g => { g with ns := ldel g.ns (ixNs r.part c.obj) }).modGz fun g => { g with ixs := ldel g.ixs k }
        z.commitDone r [] [] none) s

/-! ### GZ_SET_CENTROIDS, GZ_INSERT, GZ_DELETE (R219 to R223) -/

/-- First centroid, count, and codes from byte 64 (log 19). -/
def State.gzCentroidsCheck (s : State) (c : Cmd) : Option (Nat × Bytes) :=
  match s.ixFor c.ref.part c.obj c.ref with
  | none => some (2, [])
  | some x =>
    let n := fld c.data 4 4
    if n = 0 ∨ x.cents < fld c.data 0 4 + n ∨ c.dlen ≠ 64 + n * x.nb ∨ (sub c.data 8 56).any (· != 0) then some (2, []) else none

def execGzSetCentroids (r : CmdRef) (s : State) : Out :=
  startCmd r 0x31 (fun c t =>
    match t.ix? r.part c.obj with
    | none => t.cmdFail r 2 []
    | some x =>
      let first := fld c.data 0 4
      let new := (List.range (fld c.data 4 4)).map fun i => (x.epoch + 1, first + i, sub c.data (64 + i * x.nb) x.nb)
      ((t.ixCommit r.part c.obj { x with codes := x.codes ++ new }).commitDone r [] [] none).ixDurable []) s

/-- The insert records of a command (R221). -/
def insRecs (nb : Nat) (d : Bytes) : List InsRec :=
  (List.range (d.length / (16 + nb))).map fun i =>
    let o := i * (16 + nb)
    let fl := fld d (o + 6) 2
    { id := fld d o 6, spill := bit fl 0, given := if bit fl 1 then some (fld d (o + 8) 3) else none, code := sub d (o + 16) nb }

def State.gzInsertCheck (s : State) (c : Cmd) : Option (Nat × Bytes) :=
  match s.ixFor c.ref.part c.obj c.ref with
  | none => some (2, [])
  | some x =>
    let m := 16 + x.nb
    let bad := c.dlen == 0 || c.dlen % m != 0 || (List.range (c.dlen / m)).any fun i =>
      let o := i * m
      decide (4 ≤ fld c.data (o + 6) 2) || fld c.data (o + 12) 4 != 0 || fld c.data (o + 11) 1 != 0
    if bad then some (2, []) else if s.gr.ronly then some (0xA, []) else none

/-- Insert records into an index at its next epoch: the state, the slots written and what became of each record; none where a capacity limit
stands in the way (R221, R222, Table 5.2). -/
def State.insertRecs (s : State) (p n : Nat) (x : Index) (snap : Nat) (rs : List InsRec) : Option (State × Index × List Nat × List Placed) :=
  let qs := Index.placeAll x snap [] rs
  let lists := placedEnts rs qs (x.epoch + 1)
  if maxCopies < s.gz.copies + (lists.map (·.2.length)).sum then none
  else
    match State.appendTails s p n x lists with
    | none => none
    | some (t, y, slots) => (t.dirFit p n y).map fun u => (u, y, slots, qs)

/-- An upper bound of the slots a number of records may take, spills included. -/
def insRoom (x : Index) (n : Nat) : Nat := 2 * (n + n / max 1 x.perPage + 2)

def execGzInsert (r : CmdRef) (s : State) : Out :=
  startWhen r 0x32 (fun c t => match t.ix? r.part c.obj with
      | none => true
      | some x => decide (min slotCount (insRoom x (c.dlen / (16 + x.nb))) ≤ t.gr.freeSlots)) (fun c t =>
    match t.ix? r.part c.obj with
    | none => t.cmdFail r 2 []
    | some x =>
      if t.gr.ronly then t.cmdFail r 0xA [] else
        match t.insertRecs r.part c.obj x (c.work.headD x.epoch) (insRecs x.nb c.data) with
        | none => t.cmdFail r 6 []
        | some (u, y, slots, qs) =>
          ((u.ixCommit r.part c.obj y).commitDone r (if u.forced c then slots else []) [] (some (insAnswer qs))).ixDurable slots) s

def State.gzDeleteCheck (s : State) (c : Cmd) : Option (Nat × Bytes) :=
  let bad := c.dlen == 0 || c.dlen % 16 != 0 || (List.range (c.dlen / 16)).any fun i =>
    fld c.data (16 * i + 6) 2 != 0 || fld c.data (16 * i + 11) 5 != 0
  match s.gzCheck c with
  | some f => some f
  | none => if bad then some (2, []) else if s.gr.ronly then some (0xA, []) else none

/-- The lists a delete record names: one, or every list that holds something. -/
def Index.namedLists (x : Index) (l : Nat) : List Nat := if l = 0xFFFFFF then x.heldLists else if x.heldLists.contains l then [l] else []

/-- GZ_DELETE: the named lists are read, and every copy visible at the admission is removed at one epoch (R223). -/
def execGzDelete (r : CmdRef) (s : State) : Out :=
  startCmd r 0x33 (fun c t =>
    match t.ix? r.part c.obj with
    | none => t.cmdFail r 2 []
    | some x =>
      if t.gr.ronly then t.cmdFail r 0xA [] else
        let recs := (List.range (c.dlen / 16)).map fun i => (fld c.data (16 * i) 6, fld c.data (16 * i + 8) 3)
        match State.readLists t r.part c.obj x (recs.flatMap fun e => x.namedLists e.2).dedup with
        | (u, some l) => u.cmdFail r 0x10 (leBytes 8 l)
        | (u, none) =>
          let out := recs.foldl (fun (acc : Index × List Nat) e =>
            let (y, k) := acc.1.removeFrom e.1 (c.work.headD x.epoch) (x.epoch + 1) (x.namedLists e.2)
            (y, acc.2 ++ [k])) (x, [])
          ((u.ixCommit r.part c.obj out.1).commitDone r [] [] (some (out.2.flatMap (leBytes 4)))).ixDurable []) s

/-! ### Query batches (R205 to R216, R230, R232) -/

/-- A query batch header (Table 5.6). -/
structure Batch where
  nq : Nat
  partialOk : Bool
  rerank : Bool
  table : Bool
  noCache : Bool
  nprobe : Nat
  k : Nat
  rsv : Nat
  rr : Nat
  subs : Nat
  qlen : Nat
deriving DecidableEq, Repr

def batchOf (d : Bytes) : Batch :=
  let fl := fld d 6 2
  { nq := fld d 4 2, partialOk := bit fl 0, rerank := bit fl 1, table := bit fl 2, noCache := bit fl 3, nprobe := fld d 8 2, k := fld d 0xA 2
    rsv := fld d 0xC 1, rr := fld d 0xE 2, subs := fld d 0x10 1, qlen := fld d 0x14 4 }

/-- Where the distance table and the re-rank vector stand in a query record, and the least record (Table 5.7). -/
def Batch.tableAt (nb : Nat) : Nat := cdiv nb 64 * 64
def Batch.vecAt (b : Batch) (nb : Nat) : Nat := Batch.tableAt nb + if b.table then b.subs * 256 else 0
def Batch.least (b : Batch) (nb d : Nat) : Nat :=
  if b.rerank then b.vecAt nb + 4 * d else if b.table then Batch.tableAt nb + b.subs * 256 else nb
def Batch.kscan (b : Batch) : Nat := if b.rerank then b.rr else b.k

/-- The failures of a batch before admission (R192, R205). -/
def State.batchBad (s : State) (c : Cmd) (x : Index) (extra : Nat) : Bool :=
  let d := c.data
  let b := batchOf d
  let dim := ((s.tab? (tabKey c.ref.part x.table)).map (·.d)).getD 0
  fld d 2 2 != 0 || decide (16 ≤ fld d 6 2) || b.nq == 0 || decide (1024 < b.nq) || b.nprobe == 0 || decide (4096 < b.nprobe) || b.k == 0 ||
    decide (4096 < b.k) || decide (64 < b.rsv) || fld d 0xD 1 != 0 || (b.rerank && (! x.rrEn || decide (b.rr < b.k) || decide (4096 < b.rr) ||
      (s.tab? (tabKey c.ref.part x.table)).isNone)) || (! b.rerank && b.rr != 0) || (b.table && (b.subs == 0 || decide (128 < b.subs) ||
      decide (x.nb < b.subs))) || (! b.table && b.subs != 0) || (sub d 0x11 3).any (· != 0) || b.qlen == 0 || b.qlen % 64 != 0 ||
    decide (b.qlen < b.least x.nb dim) || (sub d 0x18 0x28).any (· != 0) || decide (c.dlen < 64 + b.nq * b.qlen + extra)

def State.gzQueryCheck (s : State) (c : Cmd) : Option (Nat × Bytes) :=
  match s.ixFor c.ref.part (fld c.data 0 2) c.ref with
  | none => some (2, [])
  | some x => if s.batchBad c x 0 ∨ c.dlen ≠ 64 + (batchOf c.data).nq * (batchOf c.data).qlen then some (2, []) else none

/-- A query of a batch: its code, distance table and vector. -/
structure Query where
  code : Bytes
  tab : Bytes
  vec : List Nat
deriving DecidableEq, Repr

def Batch.query (b : Batch) (nb dim : Nat) (d : Bytes) (i : Nat) : Query :=
  let o := 64 + i * b.qlen
  { code := sub d o nb, tab := if b.table then sub d (o + Batch.tableAt nb) (b.subs * 256) else []
    vec := if b.rerank then (List.range dim).map fun j => fld d (o + b.vecAt nb + 4 * j) 4 else [] }

/-- The distance of an entry from a query (R198, R199, R201). -/
def Batch.dist (b : Batch) (q : Query) (code : Bytes) : Nat := if b.table then tableDist q.tab b.subs code else hamming q.code code

/-- An empty scan list (R208). -/
def scanList (k rsv : Nat) : SleList := { conf := true, k := k, rsv := rsv, explicitIds := true, dedup := true }

/-- The page of a position. -/
def ListVer.pageOf (v : ListVer) (n pos : Nat) : Nat := if pos < v.nbase then pos / n else v.basePages n + (pos - v.nbase) / n

/-- The pages of a version that hold an entry of a snapshot. -/
def ListVer.livePages (v : ListVer) (n snap : Nat) : List Nat :=
  (List.range (v.pageCount n)).filter fun i => let (a, m) := v.pageSpan n i; ((v.ents.drop a).take m).any (·.inAt snap)

/-- What one segment of a list offers one query at a snapshot: an excluded entry is not offered, its ID the reserved one (R195, R209). -/
def Index.scanSegment (x : Index) (b : Batch) (q : Query) (snap list : Nat) (v : ListVer) (seg : Nat) : SleList :=
  let es := (List.range v.ents.length).filterMap fun pos =>
    match v.ents[pos]? with
    | none => none
    | some e =>
      if e.inAt snap ∧ v.pageOf x.perPage pos / 64 = seg then
        some (b.dist q e.code, BitVec.ofNat 48 (if e.goneAt snap then padId else e.id), BitVec.ofNat 48 (list * 2 ^ 24 + pos))
      else none
  ((scanList b.kscan b.rsv).elements 0 es).1

/-- The segments of a version that hold an entry of a snapshot. -/
def ListVer.liveSegs (v : ListVer) (n snap : Nat) : List Nat := ((v.livePages n snap).map (· / 64)).dedup

/-- The cluster that scans a segment: that of the flash-side core of its channel, or of the channel that takes its place where it is out of
service, or for a cached list that of its centroid's core (R196, R203, R207, 12 R508). -/
def Index.scanCluster (x : Index) (g : Grat) (num list seg : Nat) (hot : Bool) : Nat :=
  if hot then clusterOf ((searchCores x.search).getD (list * (searchCores x.search).length / x.cents) 0)
  else 80 + g.liveChan ((list + 8 * num + seg) % 128) / 8

/-- Groups of at most `n`, in order. -/
def groupsOf (n : Nat) : Nat → List Nat → List (List Nat)
  | 0, _ => []
  | _, [] => []
  | f + 1, l => l.take n :: groupsOf n f (l.drop n)

/-- What the scans of a batch gave beside the entries: pages read, probes served from the cache, and the scans that met an unreadable page: list,
query, segment and unit. -/
structure Scans where
  pages : Nat := 0
  cached : Nat := 0
  bad : List (Nat × Nat × Nat × Nat) := []
deriving DecidableEq, Repr

/-- Read the pages of one scan request: how many came from flash, and the first unreadable page (R216, R231). -/
def State.scanPages (s : State) (ns : Nat) (v : ListVer) : List Nat → State × Nat × Option Nat
  | [] => (s, 0, none)
  | i :: r =>
    let u := v.pages.getD i 0
    let flash := match s.entry? ns u with
      | some e => b2n (! e.buf)
      | none => 0
    match s.svcRead ns u with
    | (t, none) => (t, flash, some i)
    | (t, some _) =>
      let (w, n, b) := State.scanPages t ns v r
      (w, n + flash, b)

/-- Scan every probed list for the groups of queries that probe it (R207, R216, R217). Of a cached list the base pages stand in the cache, and the tail
pages are read as for any other (R218). -/
def State.scanAll (s : State) (p num : Nat) (x : Index) (b : Batch) (snap : Nat) (probes : List (List Nat)) : State × Scans :=
  let lists := probes.flatten.dedup
  let pq := max 1 (min 64 (if x.passQ = 0 then s.gz.passQ.toNat else x.passQ))
  lists.foldl (fun (acc : State × Scans) l =>
    let v := x.bound l snap
    let qs := (List.range probes.length).filter fun i => (probes.getD i []).contains l
    let hot := ! b.noCache && x.cached.contains (l, v.w)
    let pages := (v.livePages x.perPage snap).filter fun i => ! hot || decide (v.basePages x.perPage ≤ i)
    (groupsOf pq qs.length qs).foldl (fun (a : State × Scans) g =>
        let (t, n, bad) := State.scanPages a.1 (ixNs p num) v pages
        (t, { a.2 with
          pages := a.2.pages + n
          cached := if hot then a.2.cached + g.length else a.2.cached
          bad := match bad with
            | none => a.2.bad
            | some i => a.2.bad ++ g.map fun q => (l, q, i / 64, v.pages.getD i 0) })) acc) (s, {})

/-- One event for each unreadable list of a batch (R233). -/
def State.listEvents (s : State) (num : Nat) (bad : List (Nat × Nat × Nat × Nat)) : State :=
  (bad.map (·.1)).dedup.foldl (fun t l =>
    match bad.find? (·.1 == l) with
    | none => t
    | some e => t.raise .gzt 0 0x7001 (words [num, l, e.2.2.1, e.2.2.2 % 2 ^ 32, e.2.2.2 / 2 ^ 32])) s

/-- What a query's scans offer, by cluster: one merged list for each cluster that contributed (R176, R188, R207). -/
def Index.gather (x : Index) (gr : Grat) (num : Nat) (b : Batch) (q : Query) (snap : Nat) (hot : Nat → Bool) (lists : List Nat) : List (Nat × SleList) :=
  lists.foldl (fun m l =>
    let v := x.bound l snap
    (v.liveSegs x.perPage snap).foldl (fun m seg =>
      let k := x.scanCluster gr num l seg (hot l)
      lset m k (((lget m k).getD (scanList b.kscan b.rsv)).merge (incoming ((x.scanSegment b q snap l v seg).record 0) 0))) m) []

/-- The merge of lists into one. -/
def mergeAll (base : SleList) (ls : List (Nat × SleList)) : SleList := ls.foldl (fun a e => a.merge (incoming (e.2.record 0) 0)) base

/-- Entries of the scanned lists at a snapshot: offered, and excluded (Table 5.11). -/
def Index.counts (x : Index) (snap : Nat) (lists : List Nat) : Nat × Nat :=
  let es := lists.flatMap fun l => (x.bound l snap).ents.filter (·.inAt snap)
  (es.length, (es.filter (·.goneAt snap)).length)

/-- A row for re-rank; one that is only in flash is read from there (07 R279). -/
def State.rankRow (s : State) (tk no r b : Nat) : State × Option Bytes :=
  match s.tab? tk with
  | none => (s, none)
  | some t =>
    match s.readRow tk no r b t.seq with
    | (u, .got bs) => (u, some bs)
    | (u, .miss) =>
      match u.flashPage tk no t (t.rowPage r) none with
      | (v, none) => (v, none)
      | (v, some m) =>
        let bs := rdBytes m (t.rowOff r) t.slotSize
        ((v.install tk no r bs).1, some bs)

/-- The score of a row (R213): products or squared differences, summed in an order that is not defined (03 R135). -/
def rankScore (metric : Bool) (seed : Nat) (q : List Nat) (vals : List Flt) : Nat :=
  f32sum seed (List.zipWith (fun a v =>
    let r := fp32.rnd v
    if metric then (let d := f32sub a r; f32mul d d) else f32mul a r) q vals)

/-- Re-rank candidates: the list, how many were dropped, and the row that could not be read (R213). -/
def State.rerank (s : State) (tk no i : Nat) (metric : Bool) (vec : List Nat) : List Ent → SleList → Nat → State × SleList × Nat × Option Nat
  | [], l, n => (s, l, n, none)
  | e :: es, l, n =>
    match s.tab? tk with
    | none => State.rerank s tk no i metric vec es l (n + 1)
    | some t =>
      let row := e.id.toNat
      if t.rows ≤ row then State.rerank s tk no i metric vec es l (n + 1)
      else
        match s.rankRow tk no row i with
        | (u, none) => (u, l, n, some row)
        | (u, some bs) =>
          if slotMissing bs then State.rerank u tk no i metric vec es l (n + 1)
          else
            let sc := rankScore metric u.free vec (rowVals t bs)
            State.rerank { u with free := u.free + t.d } tk no i metric vec es ((l.element sc e.id e.pos).1) n

/-- The answer of one query: its status block fields and its lists. -/
structure QAns where
  skipped : List Nat
  probed : Nat
  dropped : Nat
  scanned : Nat
  excluded : Nat
  lists : List SleList
deriving DecidableEq, Repr

/-- The status block (Table 5.11). -/
def QAns.block (a : QAns) (rerank : Bool) : Bytes :=
  leBytes 4 (b2n (a.skipped != []) + 2 * b2n rerank) ++ leBytes 2 a.probed ++ leBytes 2 a.skipped.length ++
    leBytes 4 (a.skipped.min?.getD 0xFFFFFF) ++ leBytes 4 a.dropped ++ leBytes 8 a.scanned ++ leBytes 8 a.excluded

/-- The failure of a batch: status, and its result bytes (R215, 11 Table 11.10). -/
structure QFail where
  status : Nat
  obj : Nat
  query : Nat
deriving DecidableEq, Repr

/-- Answer one query from its scans. -/
def State.answerOne (s : State) (p num : Nat) (x : Index) (b : Batch) (q : Query) (snap tver i : Nat) (host : Bool) (probes bad : List Nat)
    (hot : Nat → Bool) : State × Except QFail QAns :=
  match (if b.partialOk then none else bad.head?) with
  | some l => (s, .error { status := 0x10, obj := l, query := i })
  | none =>
    let lists := probes.filter fun l => ! bad.contains l
    let (sc, ex) := x.counts snap lists
    let parts := x.gather s.gr num b q snap hot lists
    let ans (dropped : Nat) (ls : List SleList) : QAns :=
      { skipped := bad, probed := lists.length, dropped := dropped, scanned := sc, excluded := ex, lists := ls }
    if b.rerank then
      let cand := ((mergeAll (scanList b.kscan b.rsv) parts).kept).take b.rr
      let base : SleList := { scanList b.k b.rsv with vt := 3, dir := ! x.metric }
      match State.rerank s (tabKey p x.table) tver i x.metric q.vec cand base 0 with
      | (t, _, _, some row) => (t, .error { status := 0x12, obj := row, query := i })
      | (t, l, n, none) => (t, .ok (ans n [l]))
    else if host then (s, .ok (ans 0 (parts.map (·.2))))
    else (s, .ok (ans 0 [mergeAll (scanList b.k b.rsv) parts]))

/-- Answer the queries of a batch in order; the first that fails ends it. -/
def State.answerAll (s : State) (p num : Nat) (x : Index) (b : Batch) (d : Bytes) (dim snap tver : Nat) (host : Bool) (probes : List (List Nat))
    (sc : Scans) (hot : Nat → Bool) : List Nat → State × Except QFail (List QAns)
  | [] => (s, .ok [])
  | i :: r =>
    let bad := (sc.bad.filter fun e => e.2.1 == i).map (·.1)
    match s.answerOne p num x b (b.query x.nb dim d i) snap tver i host (probes.getD i []) bad hot with
    | (t, .error f) => (t, .error f)
    | (t, .ok a) =>
      match State.answerAll t p num x b d dim snap tver host probes sc hot r with
      | (u, .error f) => (u, .error f)
      | (u, .ok as) => (u, .ok (a :: as))

/-- The records of lists, as bytes; the order of their floating sums is free. -/
def State.records (s : State) (ls : List SleList) : State × Bytes :=
  ls.foldl (fun (acc : State × Bytes) l => ({ acc.1 with free := acc.1.free + l.draws }, acc.2 ++ l.record acc.1.free)) (s, [])

/-- The header of a query answer (Table 5.10). -/
def answerHead (nq num snap : Nat) (sc : Scans) : Bytes :=
  leBytes 2 nq ++ zeros 2 ++ leBytes 2 num ++ zeros 2 ++ leBytes 8 snap ++ leBytes 8 sc.pages ++ leBytes 4 sc.cached ++ zeros 36

/-- The probes of the queries of a batch (R207 step 2, R208). -/
def Index.probeSets (x : Index) (b : Batch) (d : Bytes) (snap : Nat) : List (List Nat) :=
  (List.range b.nq).map fun i => x.nearest snap (b.query x.nb 0 d i).code b.nprobe fun _ => true

/-- Count the probes of a batch by list (R217). -/
def State.countProbes (s : State) (p num : Nat) (x : Index) (probes : List (List Nat)) : State :=
  s.setIx p num { x with probes := probes.flatten.foldl (fun m l => mmod 0 m l (· + 1)) x.probes }

/-- What queries and skips leave in the GZT counters. -/
def State.queryCounts (s : State) (nq : Nat) (as : List QAns) : State :=
  s.modGz fun g => { g with queries := g.queries + w64 nq, skips := satBv g.skips (as.map (·.skipped.length)).sum }

/-- GZ_QUERY: the batch at its snapshot, answered whole or failed whole (R205 to R215, R232). -/
def execGzQuery (r : CmdRef) (s : State) : Out :=
  startCmd r 0x34 (fun c t =>
    let num := fld c.data 0 2
    match t.ix? r.part num with
    | none => t.cmdFail r 2 []
    | some x =>
      let b := batchOf c.data
      let snap := c.work.headD x.epoch
      let dim := ((t.tab? (tabKey r.part x.table)).map (·.d)).getD 0
      let probes := x.probeSets b c.data snap
      let hot (l : Nat) : Bool := ! b.noCache && x.cached.contains (l, (x.bound l snap).w)
      let (u, sc) := (t.countProbes r.part num x probes).scanAll r.part num x b snap probes
      let v := u.listEvents num sc.bad
      match State.answerAll v r.part num x b c.data dim snap (c.work.getD 1 0) (c.work.getD 2 0 == 1) probes sc hot (List.range b.nq) with
      | (w, .error f) =>
        let lost := ((sc.bad.map (·.2.1)).dedup).length
        (w.modGz fun g => { g with fails := satBv g.fails (if b.partialOk then 0 else lost) }).cmdFail r f.status (leBytes 8 f.obj ++ leBytes 2 f.query)
      | (w, .ok as) =>
        let (y, body) := as.foldl (fun (acc : State × Bytes) a =>
          let (z, rec') := acc.1.records a.lists
          (z, acc.2 ++ a.block b.rerank ++ rec')) (w.queryCounts b.nq as, [])
        y.cmdDone r [] (some (answerHead b.nq num snap sc ++ body))) s

/-- The answer bytes a query may need. -/
def State.gzQueryReserve (s : State) (c : Cmd) : Nat :=
  let b := batchOf c.data
  64 + b.nq * (32 + (if s.hostMode .sleG && ! b.rerank then 96 else 1) * recordSize b.k b.rsv)

/-! ### GZ_SAMPLE (R234, R235) -/

/-- The sample of a GZ_SAMPLE: after the batch a 64-byte header with FLAGS [0] drawn, a 32-bit count at 4 and a 64-bit seed at 8, then the list
numbers in 32 bits each where they are explicit (log 19). A drawn set holds as many lists as the count says, each once; which, the seed and the geometry
decide in a way that the spec leaves open (R234, R235). -/
def sampleAt (d : Bytes) : Nat := 64 + (batchOf d).nq * (batchOf d).qlen
def sampleDrawn (d : Bytes) : Bool := bit (fld d (sampleAt d) 4) 0
def sampleCount (d : Bytes) : Nat := fld d (sampleAt d + 4) 4
def sampleOf (x : Index) (d : Bytes) : List Nat :=
  let n := sampleCount d
  if sampleDrawn d then
    let drawn := ((Config.sampleLists (fld d (sampleAt d + 8) 8) n x.cents).map (· % x.cents)).dedup.take n
    drawn ++ ((List.range x.cents).filter fun l => ! drawn.contains l).take (n - drawn.length)
  else ((List.range n).map fun i => fld d (sampleAt d + 64 + 4 * i) 4).dedup

def State.gzSampleCheck (s : State) (c : Cmd) : Option (Nat × Bytes) :=
  match s.ixFor c.ref.part (fld c.data 0 2) c.ref with
  | none => some (2, [])
  | some x =>
    let n := sampleCount c.data
    let bad := s.batchBad c x 64 || n == 0 || (! sampleDrawn c.data && decide (65536 < n)) || decide (x.cents < n) || decide (2 ≤ fld c.data (sampleAt c.data) 4) ||
      c.dlen != sampleAt c.data + 64 + (if sampleDrawn c.data then 0 else 4 * n) ||
      (! sampleDrawn c.data && (List.range n).any fun i => decide (x.cents ≤ fld c.data (sampleAt c.data + 64 + 4 * i) 4))
    if bad then some (2, []) else none

/-- The approximate record: the entries of the normal answer whose POS names a list of the sample (R234, log 19). -/
def approxList (l : SleList) (lists : List Nat) : SleList :=
  let es := (l.kept.take l.k).filter fun e => lists.contains (e.pos.toNat / 2 ^ 24)
  (({ l with kept := [], left := [], offered := 0, outTerms := [], dupTerms := [], dups := 0, nans := 0, ignored := 0, inexact := false } : SleList).elements 0
    (es.map fun e => (e.val.toNat, e.id, e.pos))).1

/-- The status block of a sampled query shows the lists skipped in either pass (R232, R234). -/
def QAns.withSkips (a e : QAns) : QAns := { a with skipped := (a.skipped ++ e.skipped).dedup }

/-- Answer the queries of a sample in order, each in both passes; the first query that fails in either ends it (R215, R234). -/
def State.sampleAll (s : State) (p num : Nat) (x : Index) (b : Batch) (d : Bytes) (dim snap tver : Nat) (host : Bool) (near full : List (List Nat))
    (sc sd : Scans) (hot : Nat → Bool) : List Nat → State × Except QFail (List (QAns × QAns))
  | [] => (s, .ok [])
  | i :: r =>
    match State.answerAll s p num x b d dim snap tver host near sc hot [i] with
    | (t, .error f) => (t, .error f)
    | (t, .ok as) =>
      match State.answerAll t p num x b d dim snap tver host full sd hot [i] with
      | (u, .error f) => (u, .error f)
      | (u, .ok es) =>
        match State.sampleAll u p num x b d dim snap tver host near full sc sd hot r with
        | (v, .error f) => (v, .error f)
        | (v, .ok rest) => (v, .ok (as.zip es ++ rest))

/-- GZ_SAMPLE: exact and approximate records at one snapshot. -/
def execGzSample (r : CmdRef) (s : State) : Out :=
  startCmd r 0x35 (fun c t =>
    let num := fld c.data 0 2
    match t.ix? r.part num with
    | none => t.cmdFail r 2 []
    | some x =>
      let b := batchOf c.data
      let snap := c.work.headD x.epoch
      let tver := c.work.getD 1 0
      let dim := ((t.tab? (tabKey r.part x.table)).map (·.d)).getD 0
      let lists := sampleOf x c.data
      let near := x.probeSets b c.data snap
      let full := near.map fun _ => lists
      let hot (l : Nat) : Bool := ! b.noCache && x.cached.contains (l, (x.bound l snap).w)
      let (u, sc) := t.scanAll r.part num x b snap near
      let (v, sd) := u.scanAll r.part num x b snap full
      let w := v.listEvents num (sc.bad ++ sd.bad)
      let all : Scans := { pages := sc.pages + sd.pages, cached := sc.cached + sd.cached }
      let host := c.work.getD 2 0 == 1
      let lost := if b.partialOk then 0 else ((sc.bad ++ sd.bad).map (·.2.1)).dedup.length
      match State.sampleAll w r.part num x b c.data dim snap tver host near full sc sd hot (List.range b.nq) with
      | (z, .error f) => (z.modGz fun g => { g with fails := satBv g.fails lost }).cmdFail r f.status (leBytes 8 f.obj ++ leBytes 2 f.query)
      | (z, .ok as) =>
        let out := as.foldl (fun (acc : State × Bytes) ae =>
          let exact := mergeAll (ae.2.lists.headD (scanList b.k b.rsv)) ((ae.2.lists.drop 1).map fun l => (0, l))
          let near1 := mergeAll (ae.1.lists.headD (scanList b.k b.rsv)) ((ae.1.lists.drop 1).map fun l => (0, l))
          let ap := approxList near1 lists
          let hits := ((exact.kept.take exact.k).filter fun e => (ap.kept.take ap.k).any (·.id == e.id)).length
          let (q, recs) := acc.1.records [exact, ap]
          (q, acc.2 ++ (ae.1.withSkips ae.2).block b.rerank ++ leBytes 4 hits ++ leBytes 4 lists.length ++ leBytes 8 exact.offered.toNat ++ zeros 16 ++ recs))
          (z.queryCounts b.nq (as.map fun ae => ae.1.withSkips ae.2), [])
        out.1.cmdDone r [] (some (answerHead b.nq num snap all ++ out.2))) s

def gzSampleReserve (c : Cmd) : Nat :=
  let b := batchOf c.data
  64 + b.nq * (64 + 2 * recordSize b.k b.rsv)

/-! ### Compaction (R225 to R228) -/

def State.gzCompactCheck (s : State) (c : Cmd) : Option (Nat × Bytes) :=
  match s.ixFor c.ref.part c.obj c.ref with
  | none => some (2, [])
  | some x =>
    if c.dlen ≠ 64 ∨ fld c.data 4 4 = 0 ∨ x.cents < fld c.data 0 4 + fld c.data 4 4 ∨ (sub c.data 8 56).any (· != 0) then some (2, [])
    else if s.gr.ronly then some (0xA, []) else none

/-- The lists a GZ_COMPACT names that hold something. -/
def compactLists (x : Index) (c : Cmd) : List Nat :=
  x.heldLists.filter fun l => decide (fld c.data 0 4 ≤ l) && decide (l < fld c.data 0 4 + fld c.data 4 4)

/-- Begin to compact lists that no compaction is under way for: their snapshot is the committed epoch. -/
def Index.beginBuilds (x : Index) (ls : List Nat) : Index :=
  { x with builds := x.builds ++ (ls.filter fun l => ! x.builds.any (·.1 == l)).map fun l => (l, x.epoch) }

/-- GZ_COMPACT: its lists begin to compact at once; it ends when the compaction of each has ended. -/
def execGzCompact (r : CmdRef) (s : State) : Out :=
  stepCmd r 0x36
    (fun c t =>
      match t.ix? r.part c.obj with
      | none => t.cmdFail r 2 []
      | some x =>
        if t.gr.ronly then t.cmdFail r 0xA [] else
          let ls := compactLists x c
          let u := t.setIx r.part c.obj (x.beginBuilds ls)
          if ls.isEmpty then u.commitDone r [] [] none else u)
    (fun c t =>
      match t.ix? r.part c.obj with
      | none => t.cmdFail r 2 []
      | some x => if x.builds.any fun e => decide (fld c.data 0 4 ≤ e.1) && decide (e.1 < fld c.data 0 4 + fld c.data 4 4) then t
        else t.commitDone r [] [] none) s

/-- COMPACTION_START: automatic compaction of a list (R228). -/
def execCompactionStart (p n list : Nat) (s : State) : Out :=
  guardUnit (partOk p && indexOk n) <|
    match s.ix? p n with
    | none => .next s
    | some x => .next (if s.media && s.wantsCompaction x list then s.setIx p n (x.beginBuilds [list]) else s)

/-- Abandon the compaction of a list; a GZ_COMPACT that asked for it fails (12 R491). -/
def State.dropBuild (s : State) (p n : Nat) (x : Index) (list status : Nat) (result : Bytes) : State :=
  let mine := (s.runningOf 0x36).filter fun c => c.ref.part == p && c.obj == n && (compactLists x c).contains list
  mine.foldl (fun t c => t.cmdFail c.ref status result) (s.setIx p n { x with builds := x.builds.filter (·.1 != list) })

/-- The new version of a list is written and switched to at the next epoch; in hardware mode the centroid code follows at the one after (R204,
R219, R225). -/
def State.switchList (s : State) (p n : Nat) (x : Index) (list c : Nat) : State :=
  let w := x.epoch + 1
  let v := x.compacted list c w
  match s.storeVer p n x list v 0 with
  | none => s.dropBuild p n x list 6 []
  | some (t, y, v', _) =>
    let z : Index := { y with builds := y.builds.filter (·.1 != list), lists := lset y.lists list (y.versions list ++ [v']) }
    let u := t.ixCommit p n z
    if s.hostMode .gzt || v'.ents.isEmpty then u.ixDurable []
    else
      match u.ix? p n with
      | none => u
      | some q => (u.ixCommit p n { q with codes := q.codes ++ [(q.epoch + 1, list, majority (q.codeAt q.epoch list) (v'.ents.map (·.code)))] }).ixDurable []

/-- LIST_VERSION_SWITCH: the compaction of a list ends. A list that cannot be read, or for which no capacity is left, keeps its version, and a GZ_COMPACT
that asked for it fails: with status capacity (12 R491), or list unreadable (log 19). -/
def execListVersionSwitch (p n list : Nat) (s : State) : Out :=
  guardUnit (partOk p && indexOk n) <|
    match s.ix? p n with
    | none => .next s
    | some x =>
      match x.builds.find? (·.1 == list) with
      | none => .next s
      | some (_, c) =>
        let need := (x.compacted list c 0).pageCount x.perPage
        if ! s.media || s.gr.ronly || decide (s.gr.freeSlots < need) then .next s
        else
          match State.readLists s p n x [list] with
          | (t, some _) => .next (t.dropBuild p n x list 0x10 (leBytes 8 list))
          | (t, none) => .next (t.switchList p n x list c)

/-- LIST_VERSION_FREE: a version that no admitted query is bound to goes, with its pages and its cached copy (R226). -/
def execListVersionFree (p n list ver : Nat) (s : State) : Out :=
  guardUnit (partOk p && indexOk n) <|
    match s.ix? p n with
    | none => .next s
    | some x =>
      match (x.versions list).find? (·.w == ver) with
      | none => .next s
      | some v =>
        if ! s.media || s.verBound p n x list ver then .next s
        else
          let y : Index := { x with
            lists := lset x.lists list ((x.versions list).filter (·.w != ver)), cached := x.cached.filter (· != (list, ver)), spare := x.spare ++ v.pages }
          let t := s.freeAllocs fun a => a.use == .hotList (ixKey p n) list ver
          .next ((t.setIx p n y).dropPages p n v.pages)

/-- TOMBSTONE_APPLY: pending deletes that no admitted query predates become tombstone bits (R224). -/
def execTombstoneApply (p n : Nat) (s : State) : Out :=
  guardUnit (partOk p && indexOk n) <|
    match s.ix? p n with
    | none => .next s
    | some x =>
      let snaps := s.gzSnaps p n
      let mark (e : GzEnt) : GzEnt := match e.del with
        | none => e
        | some d => { e with tomb := e.tomb || snaps.all fun q => decide (d ≤ q) }
      .next (if s.media then s.setIx p n { x with lists := x.lists.map fun l => (l.1, l.2.map fun v => { v with ents := v.ents.map mark }) } else s)

/-- HOT_LIST_CACHE_UPDATE: in hardware mode, which the GZT page selects as in R228, the tier manager chooses the lists by their probe counts,
within the quota and the pool (R217, log 68). The base pages of a list are copied, its tail pages are shared (R218); the copy of an older version stays
while an admitted query is bound to it (R226). -/
def execHotListCacheUpdate (p n : Nat) (s : State) : Out :=
  guardUnit (partOk p && indexOk n) <|
    match s.ix? p n with
    | none => .next s
    | some x =>
      if ! s.media || s.hostMode .gzt then .next s
      else
        let k := ixKey p n
        let kept := x.cached.filter fun e => s.verBound p n x e.1 e.2 && (x.current e.1).w != e.2
        let size (e : Nat × Nat) : Nat := (((x.versions e.1).find? (·.w == e.2)).getD {}).basePages x.perPage * unitBytes
        let t := s.freeAllocs fun a => match a.use with
          | .hotList j l w => j == k && ! kept.contains (l, w)
          | _ => false
        let out := (Config.hotLists x.probes x.cacheMb).dedup.foldl (fun (acc : State × List (Nat × Nat) × Nat) l =>
          let e := (l, (x.current l).w)
          if x.cacheMb * 0x100000 < acc.2.2 + size e ∨ (x.current l).nbase = 0 then acc
          else
            match acc.1.poolSpread p (size e) .state (.hotList k l e.2) (searchCores x.search) with
            | none => acc
            | some u => (u, acc.2.1 ++ [e], acc.2.2 + size e)) (t, kept, (kept.map size).sum)
        .next (out.1.setIx p n { x with cached := out.2.1, probes := [] })

/-- GZ_STAT: counters and version figures of the index, whose layout the spec leaves open (log 5). -/
def execGzStat (r : CmdRef) (s : State) : Out :=
  startCmd r 0x37 (fun c t =>
    match t.ix? r.part c.obj with
    | none => t.cmdFail r 2 []
    | some x =>
      let vers := (x.lists.map fun l => l.2.length - 1).sum
      let ents := (x.lists.map fun l => (l.2.getLastD {}).ents.length).sum
      t.cmdDone r [] (some (pad64 ((Config.wire "GZ_STAT" [leBytes 8 x.epoch, leBytes 8 ents, leBytes 8 vers, leBytes 8 x.lists.length]).take 4032)))) s

/-! ### Scan requests (R209) -/

/-- The queries of a scan request, as a batch (Table 5.8). -/
def scanBatch (nb : Nat) (req : Bytes) : Batch :=
  let mode := fld req 0x28 4
  { nq := bits (fld req 0 4) 22 16, partialOk := false, rerank := false, table := bit mode 20, noCache := true, nprobe := 1, k := bits mode 12 0
    rsv := bits mode 19 13, rr := 0, subs := bits mode 28 21 + 1, qlen := Batch.tableAt nb + if bit mode 20 then (bits mode 28 21 + 1) * 256 else 0 }

/-- The record of query i of a scan request for a segment. QMAP holds its number within the batch, and by that number its code and table stand in the merge
cluster's scratchpad from QADDR on (Table 5.8, log 19). -/
def Index.scanRecord (x : Index) (spm : Mem) (req : Bytes) (v : ListVer) (i : Nat) : Bytes :=
  let b := scanBatch x.nb req
  let n := rdLE spm (fld req 0x20 8 % 0x800000 + 2 * i) 2
  let bs := rdBytes spm (fld req 0x18 8 % 0x800000 + n * b.qlen) b.qlen
  let q : Query := { code := sub bs 0 x.nb, tab := if b.table then sub bs (Batch.tableAt x.nb) (b.subs * 256) else [], vec := [] }
  (x.scanSegment b q (fld req 8 8) (fld req 4 4 % 2 ^ 24) v (fld req 4 4 / 2 ^ 24)).record 0

/-- SCAN_REQUEST: a scanning core scans one segment for the queries staged at QADDR, each rounded up to 64 bytes of code and then its table, writes
their records at DEST in the merge cluster's scratchpad, and posts the token of NOTIFY. A segment with an unreadable page gives no records. -/
def execScanRequest (p c : Nat) (req : Bytes) (s : State) : Out :=
  guardUnit (partOk p && coreOk c) <|
    let num := fld req 0 2
    match s.ix? p num with
    | none => .next s
    | some x =>
      let w := fld req 4 4
      let list := w % 2 ^ 24
      let seg := w / 2 ^ 24
      let snap := fld req 8 8
      let b := scanBatch x.nb req
      match (x.versions list).find? fun v => v.w == fld req 0x10 8 with
      | none => .next s
      | some v =>
        let hot := stackSide c && (searchCores x.search).contains c && x.cached.contains (list, v.w)
        let mine := ! stackSide c && s.gr.liveChan ((list + 8 * num + seg) % 128) / 8 == (c - 640) / 8
        if ! s.media || ! s.coresLive || ! (hot || mine) || b.nq == 0 || decide (64 < b.nq) then .next s
        else
          let pages := (v.livePages x.perPage snap).filter fun i => i / 64 == seg
          let (t, _, bad) := State.scanPages s (ixNs p num) v (pages.filter fun i => ! hot || decide (v.basePages x.perPage ≤ i))
          match bad with
          | some _ => .next t
          | none =>
            let m := x.merge
            let out := (List.range b.nq).flatMap (x.scanRecord (t.clu m).spm req v)
            let u := t.modClu m fun k => { k with spm := wrBytes k.spm (fld req 0x2C 4 % 0x800000) out }
            let nt := fld req 0x30 4
            let dst := m * 8 + bits nt 6 0 % 8
            .next (match u.ctxOn dst with
              | none => u
              | some y => u.postCtx y dst (bits nt 12 7 % 32) 1)

/-! ### Page request rings (R210 to R212) -/

def ringBase (w : BitVec 32) : Nat := w.toNat / 64 % 16384 * 64
def ringOn (w : BitVec 32) : Bool := w.getLsbD 31
/-- PROD and CONS of a core's ring. -/
def State.ringProd (s : State) (c : Nat) : Nat := rdLE (s.core c).arch.spm (ringBase (mget 0 s.fch.ring (c - 640))) 4
def State.ringCons (s : State) (c : Nat) : Nat := rdLE (s.core c).arch.spm (ringBase (mget 0 s.fch.ring (c - 640)) + 4) 4

/-- The partition for which a flash-side core works: that of its invocation, or the one it serves. -/
def State.servedPart (s : State) (c : Nat) : Option Nat :=
  match lget s.fch.invs c with
  | some v => some v.ref.part
  | none => if mget 0 s.fch.served c = 0 then none else some (mget 0 s.fch.served c - 1)

/-- Whether the ring of core c reads flash channel h: its own, or one it has adopted (13 R572). -/
def State.readsChan (s : State) (c h : Nat) : Bool :=
  h == c - 640 || s.flashCore h == c

/-- Translate a request through the map: the status it has where it reads no page, and the page it reads (R211, Table 5.9). -/
def State.translate (s : State) (c cmd lpn dst : Nat) : Nat × Nat × Option Nat :=
  let unit := lpn % 2 ^ 48
  match s.servedPart c with
  | none => (0x13, 0, none)
  | some p =>
    let ns := nsKey p (lpn / 2 ^ 48)
    if cmd % 256 ≠ 1 ∨ 2 ^ 13 ≤ cmd ∨ dst % 64 ≠ 0 ∨ 2 ^ 20 ≤ dst ∨ spmSize c < dst + unitBytes ∨ (s.ns? ns).isNone then (0x13, 0, none)
    else
      match s.entry? ns unit with
      | none => (0x11, 0, none)
      | some e =>
        if e.buf then (0, unitKey ns unit, none)
        else if ! s.readsChan c (nandChan (e.addr / 2500 / 12500)) then (0x12, 0, none)
        else (0, unitKey ns unit, some e.addr)

/-- PAGE_READ_REQUEST: the controller issues the next request that PROD has passed and writes its STATUS as pending (Table 5.9); with PROD more than 64 beyond CONS it issues no more and
raises an address fault (R210, R212). -/
def execPageReadRequest (c : Nat) (s : State) : Out :=
  guardUnit (coreOk c) <|
    let j := c - 640
    let w := mget 0 s.fch.ring j
    if stackSide c || ! s.media || ! ringOn w || s.fch.stopped.contains j then .next s
    else
      let prod := s.ringProd c
      let cons := s.ringCons c
      if 64 < (prod + 2 ^ 32 - cons) % 2 ^ 32 then
        .next ((s.modFch fun f => { f with stopped := setIns f.stopped j }).coreFault c 0x02 false 0 (s.pcOf c) (ringBase w))
      else
        let m := mget 0 s.fch.next j
        if m = prod then .next s
        else
          let at' := ringBase w + 64 + 32 * (m % 64)
          let ws := (List.range 4).map fun i => rdLE (s.core c).arch.spm (at' + 8 * i) 8
          let (st, key, page) := s.translate c (ws.getD 0 0 % 2 ^ 32) (ws.getD 1 0) (ws.getD 2 0 % 2 ^ 32)
          .next (((s.modArch c fun y => { y with spm := wrLE y.spm (at' + 4) 4 0 }).touchCore c (at' + 4) 4).modFch fun f => { f with
            next := mset 0 f.next j ((m + 1) % 2 ^ 32), reqs := f.reqs ++ [{ core := c, m := m, words := ws, status := st, key := key, page := page }] })

/-- PAGE_READ_COMPLETE: page and STATUS are written, CONS advances, the token is posted (R211). The page read is the one that was translated. -/
def execPageReadComplete (c m : Nat) (o : ReadOutcome) (s : State) : Out :=
  guardUnit (coreOk c) <|
    match s.fch.reqs.find? fun q => q.core == c && q.m == m with
    | none => .next s
    | some q =>
      let base := ringBase (mget 0 s.fch.ring (c - 640))
      if ! s.media || ! ringOn (mget 0 s.fch.ring (c - 640)) then .next s
      else
        let (t, st, data) : State × Nat × Option Mem :=
          if q.status ≠ 0 then (s, q.status, none)
          else
            let ns := q.key / 2 ^ 48
            let u := q.key % 2 ^ 48
            match q.page with
            | none => (s, 0x01, (s.readUnitAs ns u .direct).2)
            | some a =>
              if s.gr.unread.contains q.key then (s, 0x10, none)
              else
                let pg := (lget s.gr.pages a).map fun p => s.openPage p ns u
                match s.pageRead ns u a o with
                | (t, true) => (t, outcomeStatus o, some (pg.getD []))
                | (t, false) => (t, 0x10, none)
        let at' := q.words.getD 2 0 % 2 ^ 20
        let t' := ((if data.isSome then t.touchCore c at' unitBytes else t).touchCore c (base + 64 + 32 * (m % 64) + 4) 4).touchCore c (base + 4) 4
        let v := t'.modArch c fun y =>
          let s1 := match data with
            | none => y.spm
            | some d => mpaste y.spm at' unitBytes d
          let s2 := wrLE s1 (base + 64 + 32 * (m % 64) + 4) 4 st
          { y with spm := wrLE s2 (base + 4) 4 ((rdLE s2 (base + 4) 4 + 1) % 2 ^ 32) }
        let w := v.modFch fun f => { f with reqs := f.reqs.filter fun x => ! (x.core == c && x.m == m) }
        .next (w.postLive c (bits (q.words.getD 0 0) 12 8) 1 0 (w.pcOf c))

/-- FCH_REQ_RING_EN: a write of FCH_REQ_RINGj; EN from 0 to 1 re-arms the ring and sets CONS to PROD (R212). -/
def execFchReqRingEn (die j : Nat) (v : BitVec 32) (s : State) : Out :=
  guardUnit (chanDieOk die && ringOk j) <|
    if ! s.alive 6 then .next s
    else
      let k := (die - 20) * 8 + j
      let c := 640 + k
      let new : BitVec 32 := v &&& 0x800FFFC0
      let was := ringOn (mget 0 s.fch.ring k)
      let t := s.modFch fun f => { f with ring := mset 0 f.ring k new }
      if ringOn new && ! was then
        let prod := t.ringProd c
        .next (((t.modFch fun f => { f with stopped := setDel f.stopped k, next := mset 0 f.next k prod }).modArch c fun y =>
          { y with spm := wrLE y.spm (ringBase new + 4) 4 prod }).touchCore c (ringBase new + 4) 4)
      else .next t

end Sys2Proof.Machine
end

