-- ==== Sys2Proof/Machine/FilterRows.lean ====
section
/-! DEFINITION. Filter images and runs, invocations on flash-side cores, fair quanta, and embedding writes (06 R236 to R269); WR and JR, whose
meanings they complete. -/

namespace Sys2Proof.Machine

/-! ### Images (R236, R237) -/

def flKey (p h : Nat) : Nat := p * 65536 + h
/-- The handle an FL_UNLOAD or an FL_RUN names, in its data. -/
def flHandle (c : Cmd) : Nat := fld c.data 0 2

/-- The image that exists for a command (11 R718). -/
def State.flImage (s : State) (c : Cmd) : Option FlImage :=
  if s.host.cmds.any fun d => d.ref != c.ref && d.ref.part == c.ref.part && d.adm != 0 && d.status == 0 &&
      ((d.opcode == 0x21 && flHandle d == flHandle c && (d.phase == .admitted || d.phase == .running)) ||
        (d.opcode == 0x20 && fld d.result 0 2 == flHandle c && (d.phase == .worked || d.phase == .done)))
  then none else lget s.fch.images (flKey c.ref.part (flHandle c))

/-- An image: 32-bit instruction count, 32-bit count of constant bytes, padded to 64 bytes; then the instructions, padded to 64; then the
constants (log 19). -/
def flLoadCheck (c : Cmd) : Option (Nat × Bytes) :=
  let n := fld c.data 0 4
  let m := fld c.data 4 4
  if n = 0 ∨ 12288 < n ∨ 61440 < m ∨ (sub c.data 8 56).any (· != 0) ∨ c.dlen ≠ 64 + cdiv (8 * n) 64 * 64 + m then some (2, []) else none

def imageOf (d : Bytes) : FlImage :=
  let n := fld d 0 4
  { insts := (List.range n).foldl (fun m i => mset 0 m i (w64 (fld d (64 + 8 * i) 8))) [], count := n
    consts := sub d (64 + cdiv (8 * n) 64 * 64) (fld d 4 4) }

/-- FL_LOAD: the lowest free handle of the partition, from 1. -/
def execFlLoad (r : CmdRef) (s : State) : Out :=
  startCmd r 0x20 (fun c t =>
    let mine := t.fch.images.filter fun e => e.1 / 65536 == r.part
    if 64 ≤ mine.length then t.cmdFail r 6 []
    else
      match ((List.range 65).map (· + 1)).find? fun h => (lget t.fch.images (flKey r.part h)).isNone with
      | none => t.cmdFail r 6 []
      | some h => (t.modFch fun f => { f with images := lset f.images (flKey r.part h) (imageOf c.data) }).cmdDone r (leBytes 2 h) none) s

def State.flUnloadCheck (s : State) (c : Cmd) : Option (Nat × Bytes) := if (s.flImage c).isNone then some (2, []) else none

/-- FL_UNLOAD: after the runs admitted before it that name the image (Table 6.1). -/
def execFlUnload (r : CmdRef) (s : State) : Out :=
  startWhen r 0x21 (fun c t => ! t.earlier c fun d => d.opcode == 0x22 && flHandle d == flHandle c)
    (fun c t => (t.modFch fun f => { f with images := ldel f.images (flKey r.part (flHandle c)) }).cmdDone r [] none) s

/-! ### FL_RUN (R238, R239) -/

def flOut (d : Bytes) : Nat := bits (fld d 4 4) 17 16
def flPartial (d : Bytes) : Bool := bit (fld d 4 4) 18
def flStreams (d : Bytes) : Nat := bits (fld d 4 4) 20 19 + 1
def flMax (d : Bytes) : Nat := fld d 8 4
def flExts (d : Bytes) : Nat := fld d 0xC 4
/-- Extent j of stream k: first page and count. -/
def flExtent (d : Bytes) (k j : Nat) : Nat × Nat :=
  let o := 64 + 16 * (k * flExts d + j)
  (fld d o 6, fld d (o + 8) 4)
def flTotal (d : Bytes) (k : Nat) : Nat := ((List.range (flExts d)).map fun j => (flExtent d k j).2).sum
/-- The unit of page i of stream k. -/
def flUnit (d : Bytes) (k i : Nat) : Nat :=
  ((List.range (flExts d)).foldl (fun (acc : Option Nat × Nat) j =>
    let (a, n) := flExtent d k j
    if acc.1.isNone && decide (i < acc.2 + n) && decide (acc.2 ≤ i) then (some (a + (i - acc.2)), acc.2 + n) else (acc.1, acc.2 + n)) (none, 0)).1.getD 0
def flParams (d : Bytes) : Bytes := sub d (64 + 16 * flExts d * flStreams d) (fld d 0x10 4)

def State.flRunCheck (s : State) (c : Cmd) : Option (Nat × Bytes) :=
  let d := c.data
  let cap := ((s.nsFor c.ref.part (fld d 4 2) c.ref).map (·.cap)).getD 0
  let ks := List.range (flStreams d)
  let bad := (s.flImage c).isNone || (s.nsFor c.ref.part (fld d 4 2) c.ref).isNone || fld d 2 2 != 0 || bits (fld d 4 4) 31 21 != 0 || flOut d == 3 ||
    (if flOut d = 0 then flMax d != 0 else flMax d % 64 != 0 || flMax d == 0 || decide (2 ^ 30 < flMax d)) || flExts d == 0 ||
    decide (256 < flExts d) || decide (4096 < fld d 0x10 4) || (sub d 0x14 0x2C).any (· != 0) ||
    c.dlen != 64 + 16 * flExts d * flStreams d + fld d 0x10 4 ||
    (ks.any fun k => flTotal d k != flTotal d 0 || (List.range (flExts d)).any fun j =>
      let o := 64 + 16 * (k * flExts d + j)
      fld d (o + 6) 2 != 0 || fld d (o + 12) 4 != 0 || decide (cap < fld d o 6 + fld d (o + 8) 4)) ||
    flTotal d 0 == 0 || decide (2 ^ 32 ≤ flTotal d 0)
  if bad then some (2, []) else none

def flRunReserve (c : Cmd) : Nat := 64 + flMax c.data

/-- FL_RUN: its invocations begin; it ends with the last of them (R240). -/
def execFlRun (r : CmdRef) (s : State) : Out :=
  startCmd r 0x22 (fun _ t => t.modFch fun f => { f with runs := f.runs ++ [{ ref := r }] }) s

/-- The matches of an invocation, each as its bytes (R246). -/
def splitMatches (out : Nat) : Nat → Bytes → List Bytes
  | 0, _ => []
  | n + 1, bs =>
    let m := if out = 1 then 8 else 8 + cdiv (fld bs 6 2) 8 * 8
    if bs = [] then [] else bs.take m :: splitMatches out n (bs.drop m)

/-- The longest prefix of matches that fits. -/
def fitMatches (room : Nat) : List Bytes → List Bytes
  | [] => []
  | m :: r => if m.length ≤ room then m :: fitMatches (room - m.length) r else []

/-- Answer an FL_RUN whose pages are all served (R248, R249). -/
def State.flFinish (s : State) (r : CmdRef) : State :=
  match s.cmd? r, s.fch.runs.find? (·.ref == r) with
  | some c, some run =>
    let d := c.data
    if run.parts.length < flTotal d 0 then s
    else
      let ps := run.parts.mergeSort fun a b => decide (a.page ≤ b.page)
      let skipped := (ps.filter fun p => p.out.isNone).map (·.page)
      let matched := (ps.map fun p => (p.out.map (·.1)).getD 0).sum
      let all := if flOut d = 0 then [] else ps.flatMap fun p => match p.out with
        | none => []
        | some (n, bs) => splitMatches (flOut d) n bs
      let fit := fitMatches (flMax d) all
      let body := fit.flatten
      let head := leBytes 4 (b2n (fit.length < all.length) + 2 * b2n (skipped != [])) ++ leBytes 4 skipped.length ++ leBytes 8 matched ++
        leBytes 8 fit.length ++ leBytes 8 body.length ++ leBytes 8 run.pagesRead ++ leBytes 8 ((skipped.head?).getD 0xFFFFFFFF) ++ zeros 16
      let t := s.flDrop r
      if run.stray then
        let (bs, u) := t.takeBytes (head ++ body).length
        u.cmdDone r [] (some bs)
      else t.cmdDone r [] (some (head ++ body))
  | _, _ => s

/-- Add what an invocation gave, and finish the run where it was the last. -/
def State.flPart (s : State) (r : CmdRef) (p : FlPart) (stray : Bool) : State :=
  (s.modFch fun f => { f with
    runs := f.runs.map fun x => if x.ref == r then { x with parts := x.parts ++ [p], stray := x.stray || stray } else x }).flFinish r

/-! ### Invocations (R240 to R244, R252, R253) -/

/-- A flash-side core is free for service. -/
def State.fchFree (s : State) (c : Nat) : Bool :=
  ! stackSide c && (lget s.fch.invs c).isNone && (s.core c).fault.isNone && (s.core c).run == .idle && ! s.ecc.coreWd.contains (s.hostOf c)

/-- A flash-side core is out of service. -/
def State.fchOut (s : State) (c : Nat) : Bool := s.ecc.coreWd.contains (s.hostOf c) || (s.core c).fault.isSome
/-- Whether core c of a die may run again what failed on core c0 of it: another core, or c0 itself where the die has no other in service (R253). -/
def State.flAgain (s : State) (c0 c : Nat) : Bool :=
  (c - 640) / 8 == (c0 - 640) / 8 && (c != c0 || ((List.range 8).map fun j => c0 / 8 * 8 + j).all fun n => n == c0 || s.fchOut n)

/-- Whether core c serves page i of a run: the core that serves the channel to which the page of stream 0 is mapped, or, where that core is faulted,
another of its die; a page that no channel holds goes to any. An invocation that is run again goes to another core of the same die (R240, R253). -/
def State.flServes (s : State) (d : Bytes) (run : FlRun) (i c : Nat) : Bool :=
  match lget run.again i with
  | some c0 => s.flAgain c0 c
  | none =>
    match s.unitCore (nsKey run.ref.part (fld d 4 2)) (flUnit d 0 i) with
    | none => true
    | some h => c == h || ((c - 640) / 8 == (h - 640) / 8 && s.fchOut h)

/-- The channel dies with no flash-side core left in service. -/
def State.deadChanDies (s : State) : List Nat :=
  (List.range 16).filter fun x => (List.range 8).all fun j => s.ecc.coreWd.contains (s.hostOf (640 + 8 * x + j))

/-- Whether an FL_RUN has a page to serve for which its die has no flash-side core left (11 R468). -/
def State.flDead (s : State) (c : Cmd) (done : List Nat) : Bool :=
  let ds := s.deadChanDies
  ds != [] && (List.range (flTotal c.data 0)).any fun i => ! done.contains i &&
    (match s.unitCore (nsKey c.ref.part (fld c.data 4 2)) (flUnit c.data 0 i) with
    | none => ds.length == 16
    | some h => ds.contains ((h - 640) / 8))

/-- Whether a page of a run waits for its invocation. -/
def State.flWaits (s : State) (run : FlRun) (i : Nat) : Bool :=
  ! run.parts.any (·.page == i) && ! s.fch.invs.any fun e => e.2.ref == run.ref && e.2.page == i

/-- Read page i of every stream: the pages, and how many came from flash; none where one is unreadable. -/
def State.flPages (s : State) (d : Bytes) (p i : Nat) : List Nat → State × Nat × Option (List Mem)
  | [] => (s, 0, some [])
  | k :: ks =>
    let ns := nsKey p (fld d 4 2)
    let u := flUnit d k i
    let flash := match s.entry? ns u with
      | some e => b2n (! e.buf)
      | none => 0
    match s.readUnit ns u with
    | (t, none) => (t, flash, none)
    | (t, some m) =>
      match State.flPages t d p i ks with
      | (w, n, none) => (w, n + flash, none)
      | (w, n, some ms) => (w, n + flash, some (m :: ms))

/-- The scratchpad of an invocation (Table 6.3); page k stands in buffer k. -/
def flSpm (img : FlImage) (params : Bytes) (pages : List Mem) : Mem :=
  let m := ((List.range pages.length).zip pages).foldl (fun m e => mpaste m (e.1 * unitBytes) unitBytes e.2) []
  wrBytes (wrBytes m 0x40000 img.consts) 0x4F000 params

/-- Put an invocation on a core, which is scrubbed: page reads that it had asked for before are dropped with all else (R244). It is a CALL to instruction 0
with the registers of Table 6.4. The output cursor, the bytes available and the return PC
are the framework's own: free values within their bounds. -/
def State.flEnter (s : State) (r : CmdRef) (i c : Nat) (d : Bytes) (img : FlImage) (pages : List Mem) : State :=
  let (n, t) := s.takeFree
  let out := 0xC0000 + n % 2049 * 64
  let room := 0xF0000 - out
  let (m, u) := t.takeFree
  let ret := 12288 + m % 4096
  let spm := flSpm img (flParams d) pages
  let addr (k : Nat) : BitVec 64 := if k < pages.length then w64 (k * unitBytes) else 0
  let regs : List (BitVec 5 × BitVec 64) :=
    [(1, addr 0), (2, addr 1), (3, addr 2), (4, addr 3), (5, w64 i), (6, w64 out), (7, w64 room), (8, w64 (flOut d)), (31, w64 ret)]
  let arch : Arch := regs.foldl (fun a e => a.wrS e.1 e.2) { imem := img.insts, spm := spm }
  let v := u.modCore c fun k => { k.scrubbed with arch := arch, run := .running, progLen := 16384 }
  v.modFch fun f => { f with
    reqs := f.reqs.filter (·.core != c)
    invs := lset f.invs c { ref := r, page := i, room := room, out := out, steps := (u.core c).steps.toNat, ret := ret }
    served := mset 0 f.served c (r.part + 1) }

/-- The framework calls the filter for page i on core c; a page that is unreadable is skipped, or fails the run (R242, R252). -/
def State.flInvoke (s : State) (r : CmdRef) (i c : Nat) : State :=
  match s.cmd? r, s.fch.runs.find? (·.ref == r) with
  | some cmd, some run =>
    let d := cmd.data
    match lget s.fch.images (flKey r.part (flHandle cmd)) with
    | none => s
    | some img =>
      if ! s.media || ! s.coresLive || decide (flTotal d 0 ≤ i) || ! s.flWaits run i || ! s.fchFree c || ! s.flServes d run i c then s
      else
        let (t, n, got) := s.flPages d r.part i (List.range (flStreams d))
        let u := (t.serveQuantum c r.part).modFch fun f => { f with runs := f.runs.map fun x => if x.ref == r then { x with pagesRead := x.pagesRead + n } else x }
        match got with
        | some pages => u.flEnter r i c d img pages
        | none => if flPartial d then u.flPart r { page := i, out := none } false else (u.flDrop r).cmdFail r 0x11 (leBytes 8 i)
  | _, _ => s

/-- Steps that an invocation may take (R245, FCH_FLT_LIMIT). -/
def State.flLimit (s : State) (c : Nat) : Nat := 1024 * max 1 (mget 0x400 s.fch.limit ((c - 640) / 8)).toNat
/-- Whether an invocation has gone beyond its limit. -/
def State.flOver (s : State) (c : Nat) (v : Invocation) : Bool := decide (s.flLimit c < (s.core c).steps.toNat - v.steps)

/-- FILTER_OVERRUN: an invocation that has run beyond its limit is stopped (R245, R251). Its stalled steps are steps too (log 7). -/
def execFilterOverrun (c : Nat) (s : State) : Out :=
  guardUnit (coreOk c) <|
    match lget s.fch.invs c with
    | none => .next s
    | some v =>
      if ! s.coresLive then .next s
      else
        let t := s.countSteps c
        .next (if t.flOver c v then t.coreFault c 0x10 false 0 (t.pcOf c) 0 else t)

/-- The length of a number of matches of form 10, where every header is good (R246). -/
def matchLen : Nat → Bytes → Option Nat
  | 0, _ => some 0
  | n + 1, bs =>
    let l := fld bs 6 2
    if l = 0 ∨ 16384 < l ∨ bs.length < 8 then none else (matchLen n (bs.drop (8 + cdiv l 8 * 8))).map (· + (8 + cdiv l 8 * 8))

/-- Whether a return is an output overrun (R247). -/
def flOverrun (out room n len : Nat) (bs : Bytes) : Bool :=
  decide (room < len) || len % 8 != 0 ||
  (match out with
    | 0 => len != 0
    | 1 => len != 8 * n
    | _ => matchLen n bs != some len)

/-- An invocation returns, within its limit (R242, R245, R247): its matches are taken, and the core is free again. -/
def State.flReturn (s : State) (c : Nat) (v : Invocation) : State :=
  match s.cmd? v.ref with
  | none => s
  | some cmd =>
    let a := (s.core c).arch
    let n := (a.rdS 1).toNat
    let len := (a.rdS 2).toNat
    let bs := rdBytes a.spm v.out (min len v.room)
    if s.flOver c v then s.coreFault c 0x10 false 0 (s.pcOf c) 0
    else if flOverrun (flOut cmd.data) v.room n len bs then s.coreFault c 0x11 false 0 (s.pcOf c) 0
    else
      let t := s.modCore c Core.scrubbed
      (t.modFch fun f => { f with invs := ldel f.invs c }).flPart v.ref { page := v.page, out := some (n, bs) } v.stray

/-- JR: PC = sa[13:0]; OFF must be 0 (02 Table 2.7). In a filter invocation, the framework's return PC ends the invocation (R242). -/
def execJr (c : Nat) (f : BranchF) (s : State) : Out :=
  s.issue (.jr c f) c f.g (firstFault [(f.rsv != 0, 0x01), (f.off != 0, 0x01)]) id false fun t =>
    let to' := ((t.core c).arch.rdS f.sa).toNat % 16384
    match lget t.fch.invs c with
    | none => t.branchTo c to' id
    | some v => if to' = v.ret then (t.modCore c fun k => { k with steps := k.steps + 1 }).flReturn c v else t.branchTo c to' id

/-! ### Fair service (R254 to R258) -/

/-- The first page of a run that waits for an invocation on core c. -/
def State.flNextPage (s : State) (run : FlRun) (c : Nat) : Option Nat :=
  match s.cmd? run.ref with
  | none => none
  | some cmd => (List.range (flTotal cmd.data 0)).find? fun i => s.flWaits run i && s.flServes cmd.data run i c

/-- The admission number of a command. -/
def State.admOf (s : State) (r : CmdRef) : Nat := ((s.cmd? r).map (·.adm)).getD 0

/-- Runs of a partition with a page for core c, in rotation: by their admission, from the one after the run served last on (R257). -/
def State.flTurn (s : State) (p c : Nat) : List (FlRun × Nat) :=
  let all := ((s.fch.runs.filter fun x => x.ref.part == p).filterMap fun x => (s.flNextPage x c).map fun i => (x, i)).mergeSort fun a b =>
    decide (s.admOf a.1.ref ≤ s.admOf b.1.ref)
  let l := mget 0 s.fch.lastCmd (c * 16 + p)
  (all.filter fun e => decide (l < s.admOf e.1.ref)) ++ all.filter fun e => decide (s.admOf e.1.ref ≤ l)

def State.svcWeight (s : State) (c p : Nat) : Nat := max 1 (mget 1 s.fch.weight ((c - 640) / 8 * 16 + p)).toNat

/-- Partitions with a filter pending on a core. -/
def State.flPending (s : State) (c : Nat) : List Nat := (List.range 16).filter fun p => ! (s.flTurn p c).isEmpty

/-- The partition that the weighted round robin serves next: of those with work pending, the one it owes most with its own weight; of equals the lowest.
What it owes stays within the sum of the weights, so each partition gets its share but for less than 64 quanta (R256). -/
def State.wrrPick (s : State) (c : Nat) : Option Nat :=
  let owes (p : Nat) : Int := mget 0 s.fch.credit (c * 16 + p) + Int.ofNat (s.svcWeight c p)
  (s.flPending c).foldl (fun (b : Option Nat) p => match b with
    | none => some p
    | some q => if owes q < owes p then some p else some q) none

/-- The run whose turn it is on a core, and its first waiting page there (R256, R257). -/
def State.flPick (s : State) (c : Nat) : Option (FlRun × Nat) := (s.wrrPick c).bind fun p => (s.flTurn p c).head?

/-- Serve a page of the run whose turn it is. -/
def State.flServe (s : State) (r : CmdRef) (i c : Nat) : State :=
  (s.modFch fun f => { f with lastCmd := mset 0 f.lastCmd (c * 16 + r.part) (s.admOf r) }).flInvoke r i c

/-- FILTER_INVOCATION: the invocation for page i on core c is the core's next quantum, where it is the turn of its FL_RUN (R240, R254 to R257). -/
def execFilterInvocation (r : CmdRef) (i c : Nat) (s : State) : Out :=
  guardUnit (refOk r && coreOk c) <| .next (if ((s.flPick c).map (·.1.ref)) == some r then s.flServe r i c else s)

/-- The ceiling of the module queue in percent (R258, FCH_SVC_CTL). -/
def State.svcShare (s : State) (c : Nat) : Nat :=
  let w := (mget 0x3219 s.fch.svcCtl ((c - 640) / 8)).toNat
  min 100 (if s.spaceCritical then w / 256 else w % 256)

/-- Whether the module queue of a core may take n more quanta: while filters wait there, at most its share of all (R258). -/
def State.moduleRoom (s : State) (c n : Nat) : Bool :=
  let total := ((List.range 16).map fun p => mget 0 s.fch.quanta (c * 16 + p)).sum + mget 0 s.fch.modQuanta c
  (s.flPending c).isEmpty || decide ((mget 0 s.fch.modQuanta c + n) * 100 ≤ s.svcShare c * (total + n))

/-- Count quanta of the module queue on the core of each of a list of pages (R254, R255). -/
def State.moduleQuanta (s : State) (ps : List Nat) : State :=
  s.modFch fun f => { f with modQuanta := ps.foldl (fun m a => mmod 0 m (s.flashCore (nandChan (a / 2500 / 12500))) (· + 1)) f.modQuanta }

/-- Whether every core that a relocation of pages needs has room in its module queue. -/
def State.pagesRoom (s : State) (ps : List Nat) : Bool :=
  let cs := ps.map fun a => s.flashCore (nandChan (a / 2500 / 12500))
  cs.dedup.all fun c => s.moduleRoom c (cs.filter (· == c)).length

/-- The superblock that collection takes next in hardware placement mode (12 R514). -/
def State.gcVictim (s : State) : Option (Nat × SuperBlk) :=
  (leastSb s.gr.closedSbs fun b => (s.sbValid b).length).bind fun n => (lget s.gr.sbs n).map fun b => (n, b)

/-- A unit of garbage-collection assistance on a core: one valid page of the victim on the core's channel, if it has one (R254, 12 R514). -/
def State.gcUnit (s : State) (c : Nat) : Option (Nat × Nat × FPage) :=
  if s.hostMode (.grt 0) then none
  else s.gcVictim.bind fun v => ((s.sbValid v.2).find? fun e => s.flashCore (nandChan (e.1 / 2500 / 12500)) == c).map fun e => (v.1, e)

/-- GARBAGE_COLLECTION: one victim, while free space is below START (12 R514). Its pages are quanta of the module queue: where the ceiling does not allow them
now, it waits (R258). Which victim host-assisted placement takes, no rule says. -/
def execGarbageCollection (s : State) : Out :=
  let go (t : State) (n : Nat) (b : SuperBlk) : State :=
    let ps := (t.sbValid b).map (·.1)
    if t.pagesRoom ps then (t.moduleQuanta ps).collect n false else s
  if ! s.media || decide (s.gr.gcStart ≤ s.freeSpace) then .next s
  else if s.hostMode (.grt 0) then
    let (n, t) := s.takeFree
    let l := t.gr.closedSbs
    match l[n % max 1 l.length]? with
    | none => .next s
    | some e => .next (go t e.1 e.2)
  else
    match s.gcVictim with
    | none => .next s
    | some (n, b) => .next (go s n b)

/-- QUANTUM_START: a unit of the module queue within its ceiling, otherwise the next invocation by weighted round robin (R254 to R258). -/
def execQuantumStart (c : Nat) (s : State) : Out :=
  guardUnit (coreOk c) <|
    if ! s.media || ! s.coresLive || ! s.fchFree c then .next s
    else
      match (if s.freeSpace < s.gr.gcStart ∧ s.moduleRoom c 1 then s.gcUnit c else none) with
      | some (n, e) => .next (((s.moduleQuanta [e.1]).relocateAll [e] false).dissolve n)
      | none =>
        match s.flPick c with
        | none => .next s
        | some (run, i) => .next (s.flServe run.ref i c)

/-! ### Embedding writes (R259 to R269) -/

/-- Whether a partition may call an entry point (09 R357). -/
def State.mdMayCall (s : State) (p e : Nat) : Bool := s.mdl.part == p || s.mdl.grants.any fun g => g.part == p && bit g.mask e

/-- The fields of an embed block (Table 6.6). -/
def emIndex (c : Cmd) : Nat := fld c.p3 0 2
def emSpill (c : Cmd) : Bool := bit (fld c.p3 0 4) 16
def emReplace (c : Cmd) : Bool := bit (fld c.p3 0 4) 17
def emGiven (c : Cmd) : Option Nat := if bit (fld c.p3 0 4) 18 then some (fld c.p3 4 3) else none
def emId (c : Cmd) : Nat := fld c.p3 8 6
def emEntry (c : Cmd) : Nat := fld c.p3 0x10 1

/-- The failures of an embedding write before admission (R260). -/
def State.embedCheck (s : State) (c : Cmd) : Option (Nat × Bytes) :=
  match s.rangeCheck c with
  | some f => some f
  | none =>
    let bad := c.dlen != c.p1 || bits (fld c.p3 0 4) 31 19 != 0 || fld c.p3 7 1 != 0 || fld c.p3 0xE 2 != 0 || fld c.p3 0x11 3 != 0 ||
      (sub c.p3 0x14 12).any (· != 0)
    match s.ixFor c.ref.part (emIndex c) c.ref with
    | none => some (2, [])
    | some x =>
      if bad ∨ emId c = padId ∨ (x.rrEn ∧ 2 ^ 40 ≤ emId c) then some (2, [])
      else if ((s.ns? (nsKey c.ref.part c.obj)).map (·.ro)).getD false ∨ s.gr.ronly then some (0xA, [])
      else
        match (if s.mdl.st = 2 then s.mdEntry? (emEntry c) else none) with
        | none => some (0x32, [])
        | some e =>
          if e.kind ≠ 1 ∨ ! s.mdMayCall c.ref.part e.no then some (0x32, [])
          else if e.d ≠ 8 * x.nb ∨ e.maxIn < c.p1 then some (2, [])
          else none

/-- Give an item to an entry point of the model (09 R380). -/
def State.addItem (s : State) (r : CmdRef) (idx part entry : Nat) (data : Bytes) : State :=
  { s with mdl := { s.mdl with
      items := s.mdl.items ++ [{ ref := r, idx := idx, part := part, entry := entry, data := data, order := s.mdl.nextOrder }]
      nextOrder := s.mdl.nextOrder + 1 } }

/-- Discard an embedding write's pending data and its item. -/
def State.embedDrop (s : State) (r : CmdRef) : State :=
  (s.freeSlots fun _ x => x.pend == some r) |> fun t => { t with mdl := { t.mdl with items := t.mdl.items.filter (·.ref != r) } }

/-- Fail an embedding write after its admission: nothing of it becomes visible (R267). -/
def State.embedFail (s : State) (r : CmdRef) (status : Nat) (result : Bytes) : State :=
  ((s.embedDrop r).modGz fun g => { g with embedFail := satBv g.embedFail 1 }).cmdFail r status result

/-- Steps 1 and 2: the data enters the buffer as pending, and the object goes to the encode entry point (R261). -/
def State.embedStart (s : State) (c : Cmd) : State :=
  let ns := nsKey c.ref.part c.obj
  if s.gr.ronly ∨ ((s.ns? ns).map (·.ro)).getD false then s.embedFail c.ref 0xA [] else
    match s.mergeUnits ns c.p2 c.data with
    | (t, .error u) => t.embedFail c.ref 0x11 (leBytes 8 u)
    | (t, .ok us) =>
      (us.foldl (fun t e => (t.enterSlot { ns := ns, unit := e.1, data := e.2, pend := some c.ref }).1) t).addItem c.ref 0 c.ref.part (emEntry c) c.data

/-- WR: into the write buffer, or through the encode entry point with EMBED (11 R469 to R471, R261). -/
def execWr (r : CmdRef) (s : State) : Out :=
  startWhen r 0x11 (fun c t => t.wrReady c) (fun c t => if c.embed then t.embedStart c else t.wrRun c) s

/-- The FP32 values of an entry's output (R261). -/
def encVals (e : MdEntry) (bs : Bytes) : List Nat :=
  (List.range e.d).map fun i => if e.outBf then fld bs (2 * i) 2 * 65536 else fld bs (4 * i) 4
/-- The threshold of element i (R262). -/
def State.encThresh (s : State) (e : MdEntry) (i : Nat) : Nat := if e.thresh = 0xFFFFFFFF then 0 else fld s.mdl.consts (e.thresh + 4 * i) 4
/-- The code of a vector: bit i is v[i] > t[i] (R262). -/
def State.binarise (s : State) (e : MdEntry) (v : List Nat) : Bytes :=
  (List.range (e.d / 8)).map fun j => w8 (((List.range 8).map fun b =>
    if f32lt (s.encThresh e (8 * j + b)) (v.getD (8 * j + b) 0) then 2 ^ b else 0).sum)

/-- Steps 4 and 5: place the code, remove what REPLACE names, commit data and entry in one record (R261 to R263, R267, R269). -/
def State.embedCommit (s : State) (c : Cmd) (x : Index) (code : Bytes) (nans : Nat) : State :=
  let p := c.ref.part
  let num := emIndex c
  let rec1 : InsRec := { id := emId c, spill := emSpill c, given := emGiven c, code := code }
  let q := x.placeRec x.epoch [] rec1
  if q.status = 4 ∨ q.status = 2 then s.embedFail c.ref 2 []
  else if q.list.isNone then s.embedFail c.ref 6 []
  else
    match (if emReplace c then State.readLists s p num x x.heldLists else (s, none)) with
    | (t, some l) => t.embedFail c.ref 0x10 (leBytes 8 l)
    | (t, none) =>
      let (y, gone) := if emReplace c then x.removeFrom (emId c) x.epoch (x.epoch + 1) x.heldLists else (x, 0)
      match t.insertRecs p num y x.epoch [rec1] with
      | none => t.embedFail c.ref 6 []
      | some (u, z, slots, _) =>
        let mine := u.gr.slots.filter fun e => e.2.pend == some c.ref
        let v := mine.foldl (fun v e => v.pointAt e.2.ns e.2.unit e.1)
          (u.modGr fun g => { g with slots := g.slots.map fun e => if e.2.pend == some c.ref then (e.1, { e.2 with pend := none }) else e })
        let w := (v.ixCommit p num z).modGz fun g => { g with embedCnt := g.embedCnt + 1 }
        let res := leBytes 8 (x.epoch + 1) ++ leBytes 4 (q.list.getD 0xFFFFFF) ++ leBytes 4 (q.second.getD 0xFFFFFF) ++ leBytes 4 gone ++ leBytes 4 nans
        let z' := { w with mdl := { w.mdl with items := w.mdl.items.filter (·.ref != c.ref) } }
        ((z'.modGr fun g => { g with hostBytes := g.hostBytes + c.p1 }).commitDone c.ref
          (if z'.forced c then mine.map (·.1) ++ slots else []) res none).ixDurable (mine.map (·.1) ++ slots)

/-- EMBED_ENCODE_DONE: the output of the entry point, the one its step gave where it has ended, is binarised and inserted, and the write commits. -/
def execEmbedEncodeDone (r : CmdRef) (v : Bytes) (s : State) : Out :=
  guardUnit (refOk r) <|
    match s.cmd? r, s.mdl.items.find? (·.ref == r) with
    | some c, some it =>
      match s.ix? r.part (emIndex c), s.mdEntry? it.entry with
      | some x, some e =>
        if c.opcode != 0x11 || ! c.embed || c.phase != .running || ! s.media || decide (s.gr.freeSlots < insRoom x 1) then .next s
        else
          let vals := encVals e (it.out.getD v)
          .next (s.embedCommit c x (s.binarise e vals) (vals.filter fun w => (fp32.dec w).isNan).length)
      | _, _ => .next s
    | _, _ => .next s

end Sys2Proof.Machine
end

