-- ==== Sys2Proof/Machine/AtlasRows.lean ====
section
/-! DEFINITION. Atlas's commands and events: tables, scatter, gather, prefetch, sync, versions, migration (07 R270 to R315). -/

namespace Sys2Proof.Machine

/-! ### Existence and admission (R289, R299, 11 R718) -/

/-- The table that exists for a command. -/
def State.tabFor (s : State) (c : Cmd) (n : Nat) : Option Table :=
  if 256 ≤ n || s.hidden c.ref.part 0x40 0x41 (fun d => fld d.data 0 1) (·.obj) n c.ref then none else s.tab? (tabKey c.ref.part n)

/-- What the admission of a gather or a scatter takes: the next number of the table's sequence, and for a gather the current version (R289,
R299). -/
def State.atAdmit (s : State) (c : Cmd) : State :=
  if c.opcode = 0x42 ∨ c.opcode = 0x43 then
    let tk := tabKey c.ref.part (atTarget c)
    let t := s.nextSeq tk
    match t.tab? tk with
    | none => t
    | some x => if c.opcode = 0x43 then t.modCmd c.ref fun d => { d with work := [x.cur, x.seq, 0, 0] } else t
  else s

def State.atCheck (s : State) (c : Cmd) : Option (Nat × Bytes) := if (s.tabFor c (atTarget c)).isNone then some (2, []) else none

/-! ### AT_CREATE, AT_DROP (R270 to R278) -/

/-- A table as its descriptor gives it (Table 7.3); `seed0` draws the SCALE of new INT8 rows. -/
def tableOf (d : Bytes) (seed0 : Nat) : Table :=
  let form := fld d 4 4
  let mask := fld d 0x10 16
  let fmt := form % 16
  { fmt := fmt, backed := bit form 4, init := bit form 5, scale0 := if fmt = 2 then Config.freeNat seed0 % 2 ^ 32 else f32one, d := bits form 18 8
    rows := fld d 8 8, place := (List.range 640).filter fun c => mask.testBit (c / 8), resMb := fld d 0x20 4, seed := fld d 0x24 4, ns := fld d 0x28 2
    vers := [{ no := 1, born := ! bit form 5 }] }

def State.atCreateCheck (s : State) (c : Cmd) : Option (Nat × Bytes) :=
  let d := c.data
  let t := tableOf d 0
  let n := fld d 0 1
  let p := c.ref.part
  let used := ((s.tab? (tabKey p n)).isSome && ! s.hidden p 0x40 0x41 (fun e => fld e.data 0 1) (·.obj) n c.ref) ||
    s.host.cmds.any fun e => e.ref != c.ref && e.ref.part == p && e.adm != 0 && e.status == 0 && e.opcode == 0x40 && fld e.data 0 1 == n
  let bad := c.dlen != 64 || (sub d 1 3).any (· != 0) || ! [0xE, 0x6, 0x4, 0x5, 0x2].contains t.fmt || bits (fld d 4 4) 7 6 != 0 ||
    bits (fld d 4 4) 31 19 != 0 || decide (t.d < 4) || decide (1024 < t.d) || t.d % 4 != 0 || t.rows == 0 || decide (2 ^ 40 < t.rows) ||
    t.place == [] || fld d 0x1A 6 != 0 || t.place.any (fun g => s.ownerCore g != some p) || (sub d 0x2A 0x16).any (· != 0) ||
    (if t.backed then (s.nsFor p t.ns c.ref).isNone || decide (t.resSlots < 72) else t.ns != 0 || t.resMb != 0)
  if used ∨ bad then some (2, []) else none

/-- Fill the slots of a new version that is not backed: every row missing, or present and zero (R273, R302). -/
def State.fillVer (s : State) (tk no : Nat) (t : Table) (missing : Bool) : State :=
  if t.backed then s else
    (List.range t.rows).foldl (fun u r =>
      (u.wrSlot tk no t (t.homeChan r) (t.homeIdx r) (t.newRow missing r)).wrState tk no t (t.homeChan r) (t.homeIdx r) (t.newState r)) s

/-- AT_CREATE: the table as version 1, or status capacity. -/
def execAtCreate (r : CmdRef) (s : State) : Out :=
  startWhen r 0x40 (fun c t => ! t.earlier c fun d => d.opcode == 0x41 && d.obj == fld c.data 0 1) (fun c t =>
    let tk := tabKey r.part (fld c.data 0 1)
    let (_, u) := t.takeFree
    let x := tableOf c.data t.free
    if (t.tab? tk).isSome then t.cmdFail r 2 []
    else
      match u.allocVer tk 1 x with
      | none => t.cmdFail r 6 []
      | some v =>
        let w := (v.modAtl fun a => { a with tabs := lset a.tabs tk x }).fillVer tk 1 x (! x.init)
        w.commit.commitDone r [] [] none) s

/-- Whether a command of a partition works on a table. -/
def State.usesTab (s : State) (p n : Nat) (d : Cmd) : Bool :=
  (decide (0x40 ≤ d.opcode) && decide (d.opcode ≤ 0x4A) && atTarget d == n) || (d.opcode == 0x50 && fld d.data 0 1 == n) ||
    (d.opcode == 0x51 && d.obj == n) || (d.opcode == 0x52 && (fld d.data 0x10 32).testBit n) ||
    ((d.opcode == 0x34 || d.opcode == 0x35) && match s.ix? p (gzTarget d) with
      | none => false
      | some x => x.rrEn && x.table == n)

/-- AT_DROP: the table goes once the commands admitted before it complete, and no open step names it. -/
def execAtDrop (r : CmdRef) (s : State) : Out :=
  startWhen r 0x41 (fun c t => ! (t.earlier c (t.usesTab r.part c.obj)) && ! t.inStep (tabKey r.part c.obj)) (fun c t =>
    let tk := tabKey r.part c.obj
    match t.tab? tk with
    | none => t.cmdFail r 2 []
    | some x =>
      let u := x.vers.foldl (fun u v => u.freeVer tk v.no) t
      let v := u.freeAllocs fun a => a.use == .freezeMap tk
      (v.modAtl fun a => { a with tabs := ldel a.tabs tk }).commit.commitDone r [] [] none) s

/-! ### AT_SCATTER (R282 to R285) -/

/-- Bytes of a scatter record. -/
def Table.recBytes (t : Table) : Nat := 16 + cdiv (t.d * elemBytes t.fmt) 16 * 16

def State.atScatterCheck (s : State) (c : Cmd) : Option (Nat × Bytes) :=
  match s.tabFor c c.obj with
  | none => some (2, [])
  | some t => if c.dlen = 0 ∨ c.dlen % t.recBytes ≠ 0 then some (2, []) else none

/-- What applying a record to a row came to. -/
inductive Put where
  | done
  | wait
  | unreadable
deriving DecidableEq, Repr

/-- The row's present slot, for a write: none while it must come from flash, which is then asked for. -/
def State.rowForWrite (s : State) (tk no r : Nat) : State × Option Bytes × Put :=
  match s.tab? tk with
  | none => (s, none, .wait)
  | some t =>
    match s.readSource tk no r t (t.source no r) with
    | (u, .got b) => (u, some b, .done)
    | (u, .miss) =>
      if (t.ver no).flashed.contains (t.rowPage r) && u.gr.unread.contains (unitKey (t.nsOf tk) (t.pageUnit no (t.rowPage r))) then (u, none, .unreadable)
      else (u.wantRow tk no r false, none, .wait)

/-- The new slot contents of a scatter record on a row: scale, whether missing, elements (R283). -/
def scatterRow (t : Table) (op scale : Nat) (data old : Bytes) : Nat × Bool × Bytes :=
  match op with
  | 0 => (if t.fmt = 2 then scale else f32one, false, sub data 0 (t.d * elemBytes t.fmt))
  | 1 =>
    let new := rowVals t (leBytes 4 (if t.fmt = 2 then scale else f32one) ++ zeros 12 ++ sub data 0 (t.d * elemBytes t.fmt))
    let was := if slotMissing old then List.replicate t.d 0 else (rowVals t old).map fp32.rnd
    let (sc, bs) := packRow t (List.zipWith f32add was (new.map fp32.rnd))
    (sc, false, bs)
  | _ => (slotScale old, true, slotElems t old)

/-- A scatter record also changes what gathers read of a row whose update is not yet visible (08 R338). -/
def State.scatterShadow (s : State) (t : Table) (tk no row op scale : Nat) (data : Bytes) : State :=
  s.modAtl fun a => { a with shadows := a.shadows.map fun h =>
    if h.tab == tk && h.ver == no && h.row == row then
      (let (sc, miss, bs) := scatterRow t op scale data h.bytes
       { h with bytes := slotBytes t sc ((slotRver h.bytes + 1) % 2 ^ 32) (b2n miss) row bs })
    else h }

/-- The version that a scatter record names: none for VSEL = 1 while no version is building; a sealed one is building no more (R284, R304). -/
def Table.named (t : Table) (w : Nat) : Option Nat := if bit w 42 then (if t.sealed then none else t.building) else some t.cur

/-- Apply records from number i on, as far as rows are at hand (R282, R284, R285). -/
def State.scatterFrom (tk : Nat) (data : Bytes) (s : State) : Nat → Nat → Nat → State × Nat × Nat × Put
  | 0, i, drop => (s, i, drop, .done)
  | n + 1, i, drop =>
    match s.tab? tk with
    | none => (s, i, drop, .done)
    | some t =>
      let o := i * t.recBytes
      let w := fld data o 8
      let row := w % 2 ^ 40
      let op := bits w 41 40
      match t.named w with
      | none => State.scatterFrom tk data s n (i + 1) (drop + 1)
      | some no =>
        if t.rows ≤ row ∨ op = 3 then State.scatterFrom tk data s n (i + 1) (drop + 1)
        else
          match s.rowForWrite tk no row with
          | (u, some old, _) =>
            let (sc, miss, bs) := scatterRow t op (fld data (o + 8) 4) (data.drop (o + 16)) old
            State.scatterFrom tk data ((u.putRow tk no row sc miss bs old).scatterShadow t tk no row op (fld data (o + 8) 4) (data.drop (o + 16))) n (i + 1) drop
          | (u, none, p) => (u, i, drop, p)

/-- Carry an AT_SCATTER on. Its progress: records handled, and dropped. -/
def State.scatterGo (s : State) (c : Cmd) : State :=
  let tk := tabKey c.ref.part c.obj
  match s.tab? tk with
  | none => s.cmdFail c.ref 2 []
  | some t =>
    let i := c.work.headD 0
    match State.scatterFrom tk c.data s (c.dlen / t.recBytes - i) i (c.work.getD 1 0) with
    | (u, _, drop, .done) => u.cmdDone c.ref (leBytes 4 drop) none
    | (u, j, drop, .wait) => u.modCmd c.ref fun d => { d with work := [j, drop] }
    | (u, j, _, .unreadable) =>
      let w := fld c.data (j * t.recBytes) 8
      u.cmdFail c.ref 0x12 (leBytes 8 (t.pageUnit ((t.named w).getD t.cur) (t.rowPage (w % 2 ^ 40))))

def execAtScatter (r : CmdRef) (s : State) : Out :=
  stepWhen r 0x42 (fun c t => ! t.earlier c fun d => d.opcode == 0x42 && d.obj == c.obj) (fun c t => t.scatterGo c) (fun c t => t.scatterGo c) s

/-! ### AT_GATHER (R286 to R301) -/

/-- The fields of a gather batch, and where its parts stand (R286). -/
structure GBatch where
  pool : Nat
  native : Bool
  outBf : Bool
  partialOk : Bool
  nb : Nat
  ni : Nat
  nn : Nat
deriving DecidableEq, Repr

def gBatch (d : Bytes) : GBatch :=
  let w := fld d 0 4
  { pool := bits w 17 16, native := bit w 18, outBf := bit w 19, partialOk := bit w 20, nb := fld d 4 4, ni := fld d 8 4, nn := fld d 0xC 4 }

def up64 (n : Nat) : Nat := cdiv n 64 * 64
def GBatch.idxAt (b : GBatch) : Nat := 64 + if b.pool = 0 then 0 else up64 (4 * (b.nb + 1))
def GBatch.wtAt (b : GBatch) : Nat := b.idxAt + up64 (8 * b.ni)
def GBatch.nextAt (b : GBatch) : Nat := b.wtAt + if b.pool = 3 then up64 (4 * b.ni) else 0
/-- The end of the last part. -/
def GBatch.last (b : GBatch) : Nat :=
  if b.nn ≠ 0 then b.nextAt + 8 * b.nn else if b.pool = 3 then b.wtAt + 4 * b.ni else b.idxAt + 8 * b.ni
def GBatch.offset (b : GBatch) (d : Bytes) (i : Nat) : Nat := if b.pool = 0 then i else fld d (64 + 4 * i) 4
def GBatch.index (b : GBatch) (d : Bytes) (i : Nat) : Nat := fld d (b.idxAt + 8 * i) 8
def GBatch.weight (b : GBatch) (d : Bytes) (i : Nat) : Nat := fld d (b.wtAt + 4 * i) 4
/-- The bag of an index. -/
def GBatch.bag (b : GBatch) (d : Bytes) (i : Nat) : Nat :=
  if b.pool = 0 then i else ((List.range b.nb).find? fun j => decide (b.offset d j ≤ i) && decide (i < b.offset d (j + 1))).getD 0

/-- Bytes of an output row, and of the whole answer (R292, R293). -/
def GBatch.rowBytes (b : GBatch) (t : Table) : Nat := up64 (t.d * if b.native then elemBytes t.fmt else if b.outBf then 2 else 4)
def GBatch.ansBytes (b : GBatch) (t : Table) : Nat := 64 + up64 (4 * b.nb) + b.nb * b.rowBytes t + if b.native then up64 (4 * b.ni) else 0

def State.atGatherCheck (s : State) (c : Cmd) : Option (Nat × Bytes) :=
  match s.tabFor c (fld c.data 0 1) with
  | none => some (2, [])
  | some t =>
    let d := c.data
    let b := gBatch d
    let bad := decide (c.dlen < 64) || decide (0x400000 < c.dlen) || b.ni == 0 || decide (524288 < b.ni) || b.nb == 0 || decide (b.ni < b.nb) ||
      decide (524288 < b.nn) || (b.pool == 0 && b.nb != b.ni) || (b.native && b.pool != 0) || fld d 1 1 != 0 || bits (fld d 0 4) 31 21 != 0 ||
      (sub d 0x10 0x30).any (· != 0) || (c.dlen != b.last && c.dlen != up64 b.last) || b.offset d 0 != 0 || b.offset d b.nb != b.ni ||
      ((List.range b.nb).any fun i => decide (b.offset d (i + 1) ≤ b.offset d i)) || decide (0x10000000 < b.ansBytes t)
    if bad then some (2, []) else none

def State.atGatherReserve (s : State) (c : Cmd) : Nat :=
  match s.tab? (tabKey c.ref.part (atTarget c)) with
  | none => 64
  | some t => (gBatch c.data).ansBytes t

def State.takenOf (s : State) (r : CmdRef) (i : Nat) : Option (Option Bytes) := (s.atl.taken.find? fun e => e.1 == r && e.2.1 == i).map (·.2.2)
def State.take (s : State) (r : CmdRef) (i : Nat) (b : Option Bytes) : State := s.modAtl fun a => { a with taken := a.taken ++ [(r, i, b)] }
def State.untake (s : State) (r : CmdRef) : State := s.modAtl fun a => { a with taken := a.taken.filter (·.1 != r) }

/-- Capture the rows of a gather that are at hand, and ask for the others: the state, and how many of its indices wait. -/
def State.gatherTake (s : State) (c : Cmd) : State × List Nat :=
  let tk := tabKey c.ref.part (atTarget c)
  let no := c.work.headD 0
  let q := c.work.getD 1 0
  let b := gBatch c.data
  match s.tab? tk with
  | none => (s, [])
  | some t =>
    (List.range b.ni).foldl (fun (acc : State × List Nat) i =>
      let row := b.index c.data i
      if t.rows ≤ row ∨ (acc.1.takenOf c.ref i).isSome then acc
      else
        match acc.1.readRow tk no row (b.bag c.data i) q with
        | (u, .got bs) => (u.take c.ref i (some bs), acc.2)
        | (u, .miss) =>
          if (t.ver no).flashed.contains (t.rowPage row) && u.gr.unread.contains (unitKey (t.nsOf tk) (t.pageUnit no (t.rowPage row)))
          then (u.take c.ref i none, acc.2) else (u.wantRow tk no row false, acc.2 ++ [row])) (s, [])

/-- The FP32 values of one output row: the elements pooled over the valid rows of its bag, each with its weight (R291). -/
def poolRow (t : Table) (pool seed : Nat) (rows : List (Bytes × Nat)) : List Nat :=
  let term (bw : Bytes × Nat) : List Nat := (rowVals t bw.1).map fun v => fp32.rnd (if pool = 3 then v.mul (fp32.dec bw.2) else v)
  let cols := rows.map term
  (List.range t.d).map fun e =>
    if rows = [] then 0 else
      let sum := f32sum (seed + e * rows.length) (cols.map fun r => r.getD e 0)
      if pool = 2 then fp32.rnd ((fp32.dec sum).div (Flt.ofInt rows.length 0)) else sum

/-- Finish a gather whose rows are all at hand (R288, R291 to R295). -/
def State.gatherEnd (s : State) (c : Cmd) : State :=
  let tk := tabKey c.ref.part (atTarget c)
  let b := gBatch c.data
  match s.tab? tk with
  | none => (s.untake c.ref).cmdFail c.ref 2 []
  | some t =>
    let got := (List.range b.ni).map fun i => (i, b.index c.data i, s.takenOf c.ref i)
    let out := got.filter fun e => decide (t.rows ≤ e.2.1)
    let unread := got.filter fun e => e.2.2 == some none
    let miss := got.filter fun e => match e.2.2 with
      | some (some bs) => slotMissing bs
      | _ => false
    match (if b.partialOk then none else unread.head?) with
    | some e => (s.untake c.ref).cmdFail c.ref 0x12 (leBytes 8 e.2.1)
    | none =>
      let valid (i : Nat) : Option Bytes := match s.takenOf c.ref i with
        | some (some bs) => if slotMissing bs then none else some bs
        | _ => none
      let bags := (List.range b.nb).map fun j =>
        ((List.range (b.offset c.data (j + 1) - b.offset c.data j)).map (b.offset c.data j + ·)).filterMap fun i => (valid i).map fun bs => (bs, b.weight c.data i)
      let row (jr : Nat × List (Bytes × Nat)) : Bytes :=
        if b.native then sub (match jr.2 with
          | [] => []
          | e :: _ => slotElems t e.1) 0 (b.rowBytes t)
        else
          let vals := poolRow t b.pool (s.free + jr.1 * t.d * b.ni) jr.2
          sub (vals.flatMap fun x => if b.outBf then leBytes 2 (bf16.cvt (fp32.dec x)) else leBytes 4 x) 0 (b.rowBytes t)
      let scales := if b.native then
          sub ((List.range b.ni).flatMap fun i => leBytes 4 (((valid i).map slotScale).getD 0)) 0 (up64 (4 * b.ni)) else []
      let head := leBytes 4 b.nb ++ leBytes 4 b.ni ++ leBytes 4 (c.work.headD 0) ++ leBytes 4 (atTarget c) ++ leBytes 4 out.length ++
        leBytes 4 miss.length ++ leBytes 4 unread.length ++ leBytes 4 (c.work.getD 2 0) ++ leBytes 4 (c.work.getD 3 0) ++ zeros 28
      let body := head ++ sub (bags.flatMap fun l => leBytes 4 l.length) 0 (up64 (4 * b.nb)) ++
        ((List.range b.nb).zip bags).flatMap row ++ scales
      let u := ((s.untake c.ref).modAtl fun a => { a with dropCnt := satBv a.dropCnt (out.length + miss.length) }).modTab tk
        fun y => { y with drops := y.drops + out.length + miss.length }
      ({ u with free := u.free + b.nb * t.d * b.ni }).cmdDone c.ref [] (some body)

/-- Carry a gather on. -/
def State.gatherGo (s : State) (c : Cmd) : State :=
  match s.gatherTake c with
  | (u, []) => u.gatherEnd c
  | (u, _) => u

/-- Count the indices a batch routes (R309, ATL_IDX_CNT). -/
def State.routeCount (s : State) (c : Cmd) : State :=
  let tk := tabKey c.ref.part (atTarget c)
  let b := gBatch c.data
  match s.tab? tk with
  | none => s
  | some t =>
    let u := (List.range b.ni).foldl (fun x i =>
      let row := b.index c.data i
      if t.rows ≤ row then x else
        { x with occ := mmod 0 x.occ row (· + 1), total := mmod 0 x.total row (· + 1)
                 chanOcc := mmod 0 x.chanOcc (t.servedBy (c.work.headD 0) row (b.bag c.data i)) (· + 1) }) t
    (s.modTab tk fun _ => { u with routed := u.routed + b.ni, idxs := u.idxs + b.ni }).modAtl fun a => { a with idxCnt := a.idxCnt + w64 b.ni }

/-- Next indices: a resident row is used now, another of a backed table starts a flash read; how many did (R297). -/
def State.prefetch (s : State) (tk no : Nat) (rows : List Nat) : State × Nat :=
  match s.tab? tk with
  | none => (s, 0)
  | some t =>
    rows.foldl (fun (acc : State × Nat) row =>
      if t.rows ≤ row ∨ ! t.backed then acc
      else
        match acc.1.tab? tk with
        | none => acc
        | some x =>
          match x.sourceSlot no row with
          | some (j, k) => (acc.1.useWay tk no j k, acc.2)
          | none => if x.misses.any fun m => m.1 == no && m.2.1 == row then acc else (acc.1.wantRow tk no row true, acc.2 + 1)) (s, 0)

/-- AT_GATHER: rows are captured, misses and next indices asked for; it ends when every row is at hand. -/
def execAtGather (r : CmdRef) (s : State) : Out :=
  stepCmd r 0x43
    (fun c t =>
      let b := gBatch c.data
      let (u, wait) := (t.routeCount c).gatherTake c
      let (v, n) := u.prefetch (tabKey r.part (atTarget c)) (c.work.headD 0) ((List.range b.nn).map fun i => fld c.data (b.nextAt + 8 * i) 8)
      let work := [c.work.headD 0, c.work.getD 1 0, wait.dedup.length, n]
      let w := v.modCmd r fun d => { d with work := work }
      if wait = [] then w.gatherEnd { c with work := work } else w)
    (fun c t => t.gatherGo c) s

/-! ### AT_PREFETCH, AT_SYNC (R281, R297) -/

def State.atPrefetchCheck (s : State) (c : Cmd) : Option (Nat × Bytes) :=
  match s.atCheck c with
  | some f => some f
  | none => if c.dlen = 0 ∨ c.dlen % 8 ≠ 0 ∨ 0x400000 < c.dlen then some (2, []) else none

def execAtPrefetch (r : CmdRef) (s : State) : Out :=
  startCmd r 0x44 (fun c t =>
    let tk := tabKey r.part c.obj
    match t.tab? tk with
    | none => t.cmdFail r 2 []
    | some x => ((t.prefetch tk x.cur ((List.range (c.dlen / 8)).map fun i => fld c.data (8 * i) 8)).1).cmdDone r [] none) s

/-- Write every dirty row of a version to flash: the slots written, or the unit that is unreadable. -/
def State.flushRows (tk no : Nat) (s : State) : List Nat → State × Except Nat (List Nat)
  | [] => (s, .ok [])
  | r :: rs =>
    match s.flushRow tk no r with
    | (t, .error e) => (t, .error e)
    | (t, .ok a) =>
      match State.flushRows tk no t rs with
      | (u, .error e) => (u, .error e)
      | (u, .ok b) => (u, .ok (a ++ b))

/-- Write the dirty rows of every version of a table. -/
def State.flushTable (tk : Nat) (s : State) : List AtVer → State × Except Nat (List Nat)
  | [] => (s, .ok [])
  | v :: vs =>
    match State.flushRows tk v.no s v.dirty with
    | (t, .error e) => (t, .error e)
    | (t, .ok a) =>
      match State.flushTable tk t vs with
      | (u, .error e) => (u, .error e)
      | (u, .ok b) => (u, .ok (a ++ b))

def execAtSync (r : CmdRef) (s : State) : Out :=
  startWhen r 0x45 (fun c t => ! t.earlier c fun d => d.opcode == 0x42 && d.obj == c.obj) (fun c t =>
    let tk := tabKey r.part c.obj
    match t.tab? tk with
    | none => t.cmdFail r 2 []
    | some x =>
      if ! x.backed then t.cmdDone r [] none
      else if t.gr.ronly then t.cmdFail r 0xA []
      else
        match State.flushTable tk t x.vers with
        | (u, .error e) => u.cmdFail r 0x12 (leBytes 8 e)
        | (u, .ok slots) => u.commit.syncDone r (if u.forced c then slots else []) (tk, x.cur, x.frozen)) s

/-! ### Versions (R302 to R307; 08 R343, R344) -/

/-- Copy the rows and state of a version into a new one, for a table that is not backed (R302, 08 R344). -/
def State.copyVer (s : State) (tk no new : Nat) (t : Table) : State :=
  (List.range t.rows).foldl (fun u r =>
    match u.readSource tk no r t (t.source no r) with
    | (v, .got b) =>
      let (w, st) := match t.sourceSlot no r with
        | some (j, k) => v.rdState tk no t j k
        | none => (v, none)
      (w.wrSlot tk new t (t.homeChan r) (t.homeIdx r) (withFlags b (slotFlags b % 2))).wrState tk new t (t.homeChan r) (t.homeIdx r) (st.getD (t.newState r))
    | (v, .miss) => v) s

/-- Copy the flash pages of a version into a new one. -/
def State.copyPages (tk no new : Nat) (t : Table) (s : State) : List Nat → State × Except Nat (List Nat)
  | [] => (s, .ok [])
  | pg :: r =>
    match s.readUnit (t.nsOf tk) (t.pageUnit no pg) with
    | (u, none) => (u, .error (t.pageUnit no pg))
    | (u, some m) =>
      let (v, a) := u.flashWrite (t.nsOf tk) (t.pageUnit new pg) (stampPage m new)
      match State.copyPages tk no new t v r with
      | (w, .error e) => (w, .error e)
      | (w, .ok b) => (w, .ok (a ++ b))

/-- Begin a building version of a backed table with the rows of the current one: dirty rows go to flash, pages are copied (R302). -/
def State.copyBacked (s : State) (tk new : Nat) (t : Table) : State × Except Nat Unit :=
  match State.flushRows tk t.cur s (t.ver t.cur).dirty with
  | (u, .error e) => (u, .error e)
  | (u, .ok _) =>
    match u.tab? tk with
    | none => (u, .ok ())
    | some x =>
      match State.copyPages tk x.cur new x u (x.ver x.cur).flashed with
      | (v, .error e) => (v, .error e)
      | (v, .ok _) => (v.modVer tk new fun a => { a with born := (x.ver x.cur).born, flashed := (x.ver x.cur).flashed }, .ok ())

def State.atVbeginCheck (s : State) (c : Cmd) : Option (Nat × Bytes) :=
  match s.atCheck c with
  | some f => some f
  | none => if 2 ≤ c.p1 then some (2, []) else none

/-- AT_VBEGIN: a building version, its rows copied or missing. It takes its sequence number as it runs: it waits while the table is in an open step (08
R343), and for every scatter admitted before that, whose number is lower (R302). -/
def execAtVbegin (r : CmdRef) (s : State) : Out :=
  startWhen r 0x46 (fun c t => ! t.inStep (tabKey r.part c.obj) &&
      ! (t.host.cmds.any fun d => d.opcode == 0x42 && d.ref.part == c.ref.part && d.obj == c.obj && (d.phase == .admitted || d.phase == .running)) &&
      ! (t.earlier c fun d => (d.opcode == 0x52 && (fld d.data 0x10 32).testBit c.obj) || ((d.opcode == 0x46 || d.opcode == 0x47 || d.opcode == 0x48) && d.obj == c.obj)))
    (fun c t =>
      let tk := tabKey r.part c.obj
      let copy := bit c.p1 0
      match t.tab? tk with
      | none => t.cmdFail r 2 []
      | some x =>
        let new := x.cur + 1
        if x.building.isSome ∨ 4 ≤ x.vers.length then t.cmdFail r 6 []
        else
          match t.allocVer tk new x with
          | none => t.cmdFail r 6 []
          | some u =>
            let v := (u.nextSeq tk).modTab tk fun y => { y with building := some new, sealed := false, vers := y.vers ++ [{ no := new, born := true, area := y.freeArea }] }
            if ! copy then (v.fillVer tk new x true).commit.commitDone r [] [] none
            else if x.backed then
              match v.copyBacked tk new x with
              | (_, .error e) => t.cmdFail r 0x12 (leBytes 8 e)
              | (w, .ok _) => w.commit.commitDone r [] [] none
            else (v.copyVer tk x.cur new x).cmdDone r [] none) s

/-- Present and missing rows of a version, or the unit of a page that cannot be read. -/
def State.rowCounts (s : State) (tk no : Nat) (t : Table) : State × Except Nat (Nat × Nat) :=
  (List.range t.rows).foldl (fun (acc : State × Except Nat (Nat × Nat)) r =>
    match acc.2 with
    | .error _ => acc
    | .ok (n, m) =>
      let count (u : State) (b : Bytes) : State × Except Nat (Nat × Nat) := (u, .ok (if slotMissing b then (n, m + 1) else (n + 1, m)))
      match acc.1.readSource tk no r t (t.source no r) with
      | (v, .got b) => count v b
      | (v, .miss) => match v.flashPage tk no t (t.rowPage r) none with
        | (w, some pg) => count w (rdBytes pg (t.rowOff r) t.slotSize)
        | (w, none) => (w, .error (t.pageUnit no (t.rowPage r)))) (s, .ok (0, 0))

/-- Switch to the building version at the next sequence number; of a backed table, once it is on flash (R305). -/
def State.switchVer (s : State) (c : Cmd) (tk : Nat) (t : Table) (new : Nat) : State :=
  let go (u : State) (slots : List Nat) : State :=
    let v := (u.nextSeq tk).modTab tk fun y => { y with cur := new, building := none, sealed := false }
    if t.backed then v.commit.commitDone c.ref (if v.forced c then slots else []) [] none else v.cmdDone c.ref [] none
  if t.backed then
    if s.gr.ronly then s.cmdFail c.ref 0xA []
    else
      match State.flushTable tk s t.vers with
      | (u, .error e) => u.cmdFail c.ref 0x12 (leBytes 8 e)
      | (u, .ok slots) => go u slots
  else go s []

/-- Whether a seal or a switch may act: no open step names the table where it switches (08 R343), earlier scatters are done, and no move is under
way. -/
def State.sealReady (s : State) (c : Cmd) (switching : Bool) : Bool :=
  let tk := tabKey c.ref.part c.obj
  ! (switching && (s.inStep tk || ((s.tab? tk).map (·.moves != [])).getD false)) &&
    ! s.earlier c fun d => (switching && d.opcode == 0x52 && (fld d.data 0x10 32).testBit c.obj) || (d.opcode == 0x42 || d.opcode == 0x46 || d.opcode == 0x47 || d.opcode == 0x48) && d.obj == c.obj

/-- AT_VSEAL: in hardware mode it seals and switches at once; in host-assisted mode it seals, and answers with the counts of present and missing
rows, 64 bits each (R304, log 19). -/
def execAtVseal (r : CmdRef) (s : State) : Out :=
  startWhen r 0x47 (fun c t => t.sealReady c (! t.hostMode (.atl 1))) (fun c t =>
    let tk := tabKey r.part c.obj
    match t.tab? tk with
    | none => t.cmdFail r 2 []
    | some x =>
      match (if x.sealed then none else x.building) with
      | none => t.cmdFail r 2 []
      | some new =>
        if t.hostMode (.atl 1) then
          match t.rowCounts tk new x with
          | (u, .error e) => u.cmdFail r 0x12 (leBytes 8 e)
          | (u, .ok (n, m)) => (u.modTab tk fun y => { y with sealed := true }).cmdDone r [] (some (sub (leBytes 8 n ++ leBytes 8 m) 0 64))
        else t.switchVer c tk x new) s

/-- AT_VSWITCH (R304). -/
def execAtVswitch (r : CmdRef) (s : State) : Out :=
  startWhen r 0x48 (fun c t => t.sealReady c true) (fun c t =>
    let tk := tabKey r.part c.obj
    match t.tab? tk with
    | none => t.cmdFail r 2 []
    | some x =>
      if ! t.hostMode (.atl 1) then t.cmdFail r 8 []
      else
        match (if x.sealed then x.building else none) with
        | none => t.cmdFail r 2 []
        | some new => t.switchVer c tk x new) s

/-- TABLE_VERSION_FREE: a retained version that nothing is bound to is freed (R306). -/
def execTableVersionFree (p tab ver : Nat) (s : State) : Out :=
  guardUnit (partOk p && tableOk tab) <|
    let tk := tabKey p tab
    match s.tab? tk with
    | none => .next s
    | some t =>
      if ! s.media || s.verHeld tk ver || ! t.vers.any (·.no == ver) then .next s
      else .next ((s.freeVer tk ver).modTab tk fun y => { y with
        vers := y.vers.filter (·.no != ver), misses := y.misses.filter (·.1 != ver)
        syncOld := if ver = y.syncVer then some (y.ver ver) else y.syncOld })

/-! ### Flash reads of rows (R279, R295, R298) -/

/-- Give a row that has come from flash to the gathers that wait for it. -/
def State.giveRow (s : State) (tk no row : Nat) (b : Option Bytes) : State :=
  (s.gathersOf tk).foldl (fun t c =>
    if c.phase != .running || c.work.headD 0 != no then t
    else
      let g := gBatch c.data
      (List.range g.ni).foldl (fun u i => if g.index c.data i = row ∧ (u.takenOf c.ref i).isNone then u.take c.ref i b else u) t) s

/-- Carry on the commands that wait for rows of a table. -/
def State.tableGo (s : State) (tk : Nat) : State :=
  s.host.cmds.foldl (fun t c =>
    if c.phase != .running || tabKey c.ref.part (atTarget c) != tk then t
    else if c.opcode = 0x42 then t.scatterGo c
    else if c.opcode = 0x43 then t.gatherGo c
    else t) s

/-- Whether an admitted batch of any table waits for a row whose home is on a channel (R298). -/
def State.missAt (s : State) (g : Nat) : Bool :=
  s.atl.tabs.any fun e => e.2.misses.any fun m => ! m.2.2 && e.2.place.getD (e.2.homeChan m.2.1) 0 == g

/-- ROW_FLASH_FILL: the page of an awaited row is read with the outcome given, and the row installed. A prefetch waits behind the misses of its
channel. -/
def execRowFlashFill (p tab row : Nat) (o : ReadOutcome) (s : State) : Out :=
  guardUnit (partOk p && tableOk tab) <|
    let tk := tabKey p tab
    match s.tab? tk with
    | none => .next s
    | some t =>
      match t.misses.find? fun m => m.2.1 == row with
      | none => .next s
      | some (no, _, ahead) =>
        let behind := ahead && s.missAt (t.place.getD (t.homeChan row) 0)
        if ! s.media || behind then .next s
        else
          let u := (s.modTab tk fun y => { y with misses := y.misses.filter (fun m => ! (m.1 == no && m.2.1 == row)), fills := y.fills + 1 }).modAtl
            fun a => { a with missCnt := satBv a.missCnt 1 }
          match u.flashPage tk no t (t.rowPage row) (some o) with
          | (v, none) => .next ((v.giveRow tk no row none).tableGo tk)
          | (v, some m) =>
            let b := rdBytes m (t.rowOff row) t.slotSize
            .next ((((v.install tk no row b).1).giveRow tk no row (some b)).tableGo tk)

/-! ### Moving and replicating (R308 to R315; 08 R345) -/

/-- A free copy slot of a channel of a version. In a flash-backed table one way of every set stays clear of copies, and slots that no dirty row stands in
come first (R278, log 24). -/
def Table.freeCopy (t : Table) (no j : Nat) : Option Nat :=
  let v := t.ver no
  let alone (k : Nat) : Bool := t.backed && decide (k / 8 < t.sets) &&
    (List.range 8).all fun w => k / 8 * 8 + w == k || t.heldSlot no j (k / 8 * 8 + w)
  let ks := ((List.range t.copySlots).map (t.homeSlots + ·)).filter fun k => ! t.heldSlot no j k && ! alone k
  let dirty (k : Nat) : Bool := match mget 0 v.ways (wayKey j k) with
    | 0 => false
    | r + 1 => v.dirty.contains r
  (ks.find? fun k => ! dirty k).or ks.head?

/-- Forwarding entries in use in the module. -/
def State.fwdUsed (s : State) : Nat := (s.atl.tabs.map fun e => (e.2.vers.map (·.fwd.length)).sum).sum

/-- Why a move, or an added replica, cannot begin, as a record status (Table 7.2, R310). -/
def State.moveRefused (s : State) (t : Table) (row j : Nat) (moves : Bool) : Option Nat :=
  if ! t.forwarded t.cur row && (decide (4096 ≤ (t.ver t.cur).fwd.length) || decide (65536 ≤ s.fwdUsed)) then some 0x42
  else if ! moves && decide (16 ≤ (t.copiesAt t.cur row t.seq).length) then some 0x43
  else if (t.freeCopy t.cur j).isNone then some 0x44
  else none

/-- Copy a row, with its state where it moves, into its destination slot, as yet without effect (R311 step 2, 08 R345). False while its source
must come from flash. -/
def State.copyRow (s : State) (tk : Nat) (m : Move) : State × Bool :=
  match s.tab? tk with
  | none => (s, false)
  | some t =>
    match s.rowForWrite tk t.cur m.row with
    | (u, none, _) => (u, false)
    | (u, some b, _) =>
      let v := u.wrSlot tk t.cur t m.chan m.slot (withFlags b (slotFlags b % 2 + slotFlags b / 4 % 2 * 4 + 8))
      if m.moves then
        match t.sourceSlot t.cur m.row with
        | none => (v, true)
        | some (j, k) =>
          let (w, st) := v.rdState tk t.cur t j k
          (w.wrState tk t.cur t m.chan m.slot (st.getD (t.newState m.row)), true)
      else (v, true)

/-- Begin a move or an added replica: the forwarding entry stands, the source has FWD, the first copy is made (R311). False where no copy slot can be
had. -/
def State.beginMove (s : State) (tk row j : Nat) (moves : Bool) (cmd : Option CmdRef) (idx : Nat) : State × Bool :=
  match s.tab? tk with
  | none => (s, false)
  | some t =>
    match t.freeCopy t.cur j with
    | none => (s, false)
    | some k =>
      match s.freeWay tk t.cur j k with
      | (u, false) => (u, false)
      | (u, true) =>
        let m : Move := { row := row, moves := moves, chan := j, slot := k, cmd := cmd, idx := idx }
        let v := (u.modTab tk fun y => { (y.modVer y.cur fun a => { a with
          fwd := if a.fwd.any (·.row == row) then a.fwd else a.fwd ++ [{ row := row, copies := [y.home row] }] }) with
          moves := y.moves ++ [m] }).markFwd tk t.cur row
        match v.copyRow tk m with
        | (w, true) => (w.modTab tk fun y => { y with moves := y.moves.map fun x => if x == m then { m with tries := 1 } else x }, true)
        | (w, false) => (w, true)

/-- Give a move up: its entry goes where it names nothing else. -/
def State.dropMove (s : State) (tk : Nat) (m : Move) : State :=
  (s.modTab tk fun y => { (y.modVer y.cur fun a => { a with
    fwd := a.fwd.filter fun f => f.row != m.row || ! f.copies.all (·.slot == homeMark) }) with
    moves := y.moves.filter (· != m) }).markFwd tk (((s.tab? tk).map (·.cur)).getD 0) m.row

/-- A destination comes into effect at the next sequence number (R311 step 5). -/
def State.cutOver (s : State) (tk : Nat) (m : Move) : State :=
  let u := s.nextSeq tk
  match u.tab? tk with
  | none => u
  | some t =>
    let q := t.seq
    let was := match (t.ver t.cur).fwd.find? (·.row == m.row) with
      | some f => f.copies
      | none => [t.home m.row]
    let new : Copy := { chan := m.chan, slot := m.slot, on := some q }
    let src := (was.filter (·.inEffect (q - 1))).head?
    let copies := if m.moves then new :: was.map fun c => if some c == src then { c with off := some q } else c else was ++ [new]
    let v := u.modTab tk fun y => (y.modVer y.cur fun a => { a with
      fwd := (a.fwd.filter (·.row != m.row)) ++ [{ row := m.row, copies := copies }] }) |> fun z => { z with moves := z.moves.filter (· != m) }
    v.markFwd tk t.cur m.row

/-- Remove a replica at the next sequence number. -/
def State.removeCopy (s : State) (tk row : Nat) (c : Copy) : State :=
  match s.tab? tk with
  | none => s
  | some t => s.dropReplica tk t.cur row c

/-- The fields of a migration record. -/
def mgRow (d : Bytes) (i : Nat) : Nat := fld d (16 * i) 5
def mgOp (d : Bytes) (i : Nat) : Nat := fld d (16 * i + 5) 1
def mgTarget (d : Bytes) (i : Nat) : Nat := fld d (16 * i + 8) 2

def State.atMigrateCheck (s : State) (c : Cmd) : Option (Nat × Bytes) :=
  match s.atCheck c with
  | some f => some f
  | none =>
    if c.dlen = 0 ∨ c.dlen % 16 ≠ 0 ∨ (List.range (c.dlen / 16)).any fun i =>
      decide (3 ≤ mgOp c.data i) || fld c.data (16 * i + 6) 2 != 0 || decide (1024 ≤ mgTarget c.data i) || fld c.data (16 * i + 10) 6 != 0 then some (2, [])
    else none

/-- One record of an AT_MIGRATE: its status, or a move that has begun. -/
def State.migrateOne (s : State) (c : Cmd) (tk i : Nat) : State × Option Nat :=
  match s.tab? tk with
  | none => (s, some 0)
  | some t =>
    let row := mgRow c.data i
    let op := mgOp c.data i
    if t.rows ≤ row then (s, some 0x40)
    else
      match t.place.idxOf? (mgTarget c.data i) with
      | none => (s, some 0x41)
      | some j =>
        let cs := t.copiesAt t.cur row t.seq
        if op = 2 then
          match (cs.drop 1).find? (·.chan == j) with
          | none => (s, some 0)
          | some x => (s.removeCopy tk row x, some 0)
        else if cs.any (·.chan == j) then (s, some 0)
        else
          match s.moveRefused t row j (op == 0) with
          | some st => (s, some st)
          | none => match s.beginMove tk row j (op == 0) (some c.ref) i with
            | (u, true) => (u, none)
            | (u, false) => (u, some 0x44)

/-- Carry an AT_MIGRATE on, record by record; each record's status in 16 bits (R310, 11 R451). -/
def State.migrateFrom (c : Cmd) (tk : Nat) : Nat → State → List Nat → State
  | 0, s, sts => s.cmdDone c.ref [] (some (sts.flatMap (leBytes 2)))
  | n + 1, s, sts =>
    match s.migrateOne c tk sts.length with
    | (t, some st) => State.migrateFrom c tk n t (sts ++ [st])
    | (t, none) => t.modCmd c.ref fun d => { d with work := sts }

def execAtMigrate (r : CmdRef) (s : State) : Out :=
  startWhen r 0x49 (fun c t => ! t.earlier c fun d => d.opcode == 0x49 && d.obj == c.obj) (fun c t =>
    if ! t.hostMode (.atl 0) then t.cmdFail r 8 []
    else State.migrateFrom c (tabKey r.part c.obj) (c.dlen / 16) t []) s

/-- A move ends with a status; the AT_MIGRATE that asked for it goes on. -/
def State.moveEnd (s : State) (tk : Nat) (m : Move) (st : Nat) : State :=
  match m.cmd with
  | none => s
  | some r =>
    match s.cmd? r with
    | none => s
    | some c => if c.phase == .running && c.opcode == 0x49 then State.migrateFrom c tk (c.dlen / 16 - (c.work.length + 1)) s (c.work ++ [st]) else s

def State.triesMax (s : State) : Nat := max 1 s.atl.tries.toNat

/-- MIGRATION_COPY_DONE: the copy's RVER is compared with the source's; it comes into effect, or is made again, at last under the hold (R311, R312,
R315). -/
def execMigrationCopyDone (p tab row : Nat) (s : State) : Out :=
  guardUnit (partOk p && tableOk tab) <|
    let tk := tabKey p tab
    match s.tab? tk with
    | none => .next s
    | some t =>
      match t.moves.find? (·.row == row) with
      | none => .next s
      | some m =>
        if ! s.media then .next s
        else if m.tries = 0 then
          match s.copyRow tk m with
          | (v, true) => .next (v.modTab tk fun y => { y with moves := y.moves.map fun x => if x == m then { m with tries := 1 } else x })
          | (v, false) => .next v
        else
          match s.rdSlot tk t.cur t m.chan m.slot with
          | (u, none) => .next ((u.dropMove tk m).moveEnd tk m 0x45)
          | (u, some b) =>
            match u.rowForWrite tk t.cur row with
            | (v, none, _) => .next v
            | (v, some src, _) =>
              if slotRver b = slotRver src then .next ((v.cutOver tk m).moveEnd tk m 0)
              else if m.tries < v.triesMax then
                let m' := { m with tries := m.tries + 1 }
                .next (((v.copyRow tk m).1).modTab tk fun y => { y with moves := y.moves.map fun x => if x == m then m' else x })
              else .next ((((v.copyRow tk m).1).cutOver tk m).moveEnd tk m 0)

/-- COPY_SLOT_FREE: slots of a row on a channel whose copy is out of effect for every admitted batch are free (R314). -/
def execCopySlotFree (p tab row chan : Nat) (s : State) : Out :=
  guardUnit (partOk p && tableOk tab) <|
    let tk := tabKey p tab
    match s.tab? tk with
    | none => .next s
    | some t =>
      let least := ((s.gathersOf tk).map fun c => c.work.getD 1 0).min?
      let dead (c : Copy) : Bool := c.chan == chan && match c.off with
        | none => false
        | some q => match least with
          | none => true
          | some n => decide (q ≤ n)
      let trim (v : AtVer) : AtVer :=
        { v with fwd := v.fwd.filterMap fun f =>
            if f.row == row then
              (let cs := f.copies.filter fun c => ! dead c
               if cs.all (fun c => c.slot == homeMark) && ! t.moves.any (·.row == row) then none else some { f with copies := cs })
            else some f
                 ways := if v.fwd.any fun f => f.row == row && f.copies.any fun c => dead c && c.slot == homeMark then
            (t.waysOf row).foldl (fun w k => if mget 0 w (wayKey chan k) = row + 1 then mset 0 w (wayKey chan k) 0 else w) v.ways else v.ways }
      .next (if s.media then (s.modTab tk fun y => { y with vers := y.vers.map trim }).markFwd tk t.cur row else s)

/-- HOT_ROW_EVALUATION: every 2²⁰ routed indices, in hardware mode (R309, ATL_HOT_CTL). -/
def execHotRowEvaluation (p tab : Nat) (s : State) : Out :=
  guardUnit (partOk p && tableOk tab) <|
    let tk := tabKey p tab
    match s.tab? tk with
    | none => .next s
    | some t =>
      if ! s.media || s.hostMode (.atl 0) || decide (t.routed < 2 ^ 20) then .next s
      else
        let rate := max 1 s.atl.rate.toNat
        let n (row : Nat) : Nat := (t.copiesAt t.cur row t.seq).length
        let hot := (t.occ.filter fun e => decide (rate * n e.1 < e.2) && decide (n e.1 ≤ s.atl.maxRepl.toNat) && ! t.moves.any (·.row == e.1)).map (·.1)
        let cold := ((t.ver t.cur).fwd.filter fun f => decide (1 < n f.row) && decide (4 * mget 0 t.occ f.row < rate * n f.row)).map (·.row)
        let best (row : Nat) : Option Nat :=
          ((List.range t.n).filter fun j => ! (t.copiesAt t.cur row t.seq).any (·.chan == j)).foldl (fun (b : Option Nat) j => match b with
            | none => some j
            | some k => if mget 0 t.chanOcc j < mget 0 t.chanOcc k then some j else some k) none
        let u := hot.foldl (fun u row => match best row, u.tab? tk with
          | some j, some x => if (u.moveRefused x row j false).isSome then u else (u.beginMove tk row j false none 0).1
          | _, _ => u) s
        let v := cold.foldl (fun v row => match v.tab? tk with
          | none => v
          | some x => match (x.copiesAt x.cur row x.seq).getLast? with
            | none => v
            | some c => v.removeCopy tk row c) u
        .next (v.modTab tk fun y => { y with occ := [], chanOcc := [], routed := y.routed - 2 ^ 20 })

/-- Rows in the DRAM of a channel of a version: those of which a copy in effect stands there (R271). -/
def Table.rowsAt (t : Table) (no j : Nat) : Nat :=
  ((List.range t.rows).filter fun r => (t.copiesAt no r t.seq).any fun c => c.chan == j && (t.resolve no r c).isSome).length

/-- AT_STAT: the table's counters, rows per channel and the most gathered rows, whose layout the spec leaves open (log 5). -/
def execAtStat (r : CmdRef) (s : State) : Out :=
  startCmd r 0x4A (fun c t =>
    match t.tab? (tabKey r.part c.obj) with
    | none => t.cmdFail r 2 []
    | some x =>
      let top := (x.total.mergeSort fun a b => decide (b.2 ≤ a.2)).take 64
      let chans := (List.range x.n).map (x.rowsAt x.cur)
      let counters := [x.seq, x.cur, x.vers.length, x.idxs, x.drops, x.fills, x.lost]
      t.cmdDone r [] (some (pad64 ((Config.wire "AT_STAT" [counters.flatMap (leBytes 8), chans.flatMap (leBytes 8), top.flatMap fun e => leBytes 8 e.1]).take 4032)))) s

end Sys2Proof.Machine
end

