-- ==== Sys2Proof/Machine/UpdateRows.lean ====
section
/-! DEFINITION. Atlas updates: optimisers and their state, freezing, steps, gradient records, clipping, the update units (08 R316 to R348). -/

namespace Sys2Proof.Machine

def State.modUpd (s : State) (f : UpdS → UpdS) : State := { s with upd := f s.upd }
def State.step? (s : State) (h : Nat) : Option UpStep := lget s.upd.steps h
def State.modStep (s : State) (h : Nat) (f : UpStep → UpStep) : State :=
  s.modUpd fun u => { u with steps := u.steps.map fun e => if e.1 == h then (e.1, f e.2) else e }

/-! ### UP_SETOPT (R320 to R322) -/

/-- A non-negative finite FP32 pattern, and one in [0, 1). -/
def f32nonneg (w : Nat) : Bool := (fp32.dec w).isFin && ! (fp32.dec w).lt (.fin false 0 0)
def f32below1 (w : Nat) : Bool := f32nonneg w && (fp32.dec w).lt (.fin false 1 0)
def f32pos (w : Nat) : Bool := (fp32.dec w).isFin && (Flt.fin false 0 0).lt (fp32.dec w)

/-- The optimiser of a descriptor (Table 8.2). -/
def optOf (d : Bytes) : OptDesc :=
  { opt := bits (fld d 0 4) 10 8, bf := bit (fld d 0 4) 11, lr := fld d 4 4, b1 := fld d 8 4, b2 := fld d 0xC 4, eps := fld d 0x10 4, wd := fld d 0x14 4
    a0 := fld d 0x18 4 }

/-- The cases in which a descriptor is refused (R320). -/
def optBad (d : Bytes) : Bool :=
  let o := optOf d
  decide (5 ≤ o.opt) || ! f32nonneg o.lr || ! f32nonneg o.wd || ! f32below1 o.b1 || ! f32below1 o.b2 || ! f32pos o.eps || ! f32nonneg o.a0 ||
    bits (fld d 0 4) 31 12 != 0 || (sub d 0x1C 0x24).any (· != 0)

def State.upSetoptCheck (s : State) (c : Cmd) : Option (Nat × Bytes) :=
  if c.dlen ≠ 64 ∨ (s.tabFor c (fld c.data 0 1)).isNone ∨ optBad c.data then some (2, []) else none

/-- Set the state of every row of a version that stands in DRAM to its value before any update. -/
def State.zeroState (s : State) (tk no : Nat) (t : Table) : State :=
  let v : AtVer := t.ver no
  let stood : List Nat := v.ways.filterMap fun (e : Nat × Nat) => if e.2 = 0 then none else some (e.2 - 1)
  let rows : List Nat := if t.backed then (stood ++ v.fwd.map Fwd.row).dedup else List.range t.rows
  if t.stateSize = 0 then s else
    rows.foldl (fun u r => match t.sourceSlot no r with
      | none => u
      | some (j, k) => u.wrState tk no t j k (t.newState r)) s

/-- Allocate state slots in the versions listed, all or none. -/
def State.allocStates (s : State) (tk : Nat) (t : Table) : List Nat → Option State
  | [] => some s
  | no :: r =>
    match s.allocState tk no t with
    | none => none
    | some u => State.allocStates u tk t r

/-- UP_SETOPT: the new optimiser with its state slots reset; or status capacity, the old one in place (R321). -/
def execUpSetopt (r : CmdRef) (s : State) : Out :=
  startCmd r 0x50 (fun c t =>
    let tk := tabKey r.part (fld c.data 0 1)
    match t.tab? tk with
    | none => t.cmdFail r 2 []
    | some x =>
      if t.inStep tk then t.cmdFail r 0x23 []
      else
        let x' := { x with opt := optOf c.data, optGen := x.optGen + 1, moves := x.moves.map fun m => { m with tries := 0 } }
        let nos := x.cur :: x.building.toList
        let u := t.freeAllocs fun a => x.vers.any fun v => a.use == .optState (verKey tk v.no)
        match u.allocStates tk x' nos with
        | none => t.cmdFail r 6 []
        | some v => (nos.foldl (fun w no => w.zeroState tk no x') (v.modTab tk fun _ => x')).cmdDone r [] none) s

/-! ### UP_FREEZE (R340 to R342) -/

def State.upFreezeCheck (s : State) (c : Cmd) : Option (Nat × Bytes) :=
  if (s.tabFor c c.obj).isNone ∨ c.dlen = 0 ∨ c.dlen % 16 ≠ 0 then some (2, []) else none

/-- Apply freeze records in order: the frozen ranges, and how many records were dropped. -/
def freezeRecs (rows : Nat) (d : Bytes) : Nat → Nat → List (Nat × Nat) → Nat → List (Nat × Nat) × Nat
  | 0, _, fz, drop => (fz, drop)
  | n + 1, i, fz, drop =>
    let a := fld d (16 * i) 8
    let first := a % 2 ^ 40
    let op := bits a 41 40
    let count := fld d (16 * i + 8) 8 % 2 ^ 41
    if 2 ≤ op ∨ count = 0 ∨ rows < first + count then freezeRecs rows d n (i + 1) fz (drop + 1)
    else freezeRecs rows d n (i + 1) (if op = 0 then rangeAdd fz first (first + count) else rangeDel fz first (first + count)) drop

/-- Bytes of a freeze bitmap; it is held in two copies, as is a staging area (13 R546). -/
def Table.bitmapBytes (t : Table) : Nat := cdiv (cdiv t.rows 8) 64 * 64

/-- Whether a command opens a step with a table. -/
def opensWith (n : Nat) (d : Cmd) : Bool := d.opcode == 0x52 && (fld d.data 0x10 32).testBit n

def execUpFreeze (r : CmdRef) (s : State) : Out :=
  startWhen r 0x51 (fun c t => ! t.inStep (tabKey r.part c.obj) && ! t.earlier c fun d => opensWith c.obj d || (d.opcode == 0x51 && d.obj == c.obj))
    (fun c t =>
      let tk := tabKey r.part c.obj
      match t.tab? tk with
      | none => t.cmdFail r 2 []
      | some x =>
        if x.backed && t.gr.ronly then t.cmdFail r 0xA []
        else
          let (fz, drop) := freezeRecs x.rows c.data (c.dlen / 16) 0 x.frozen 0
          let made := if fz = [] ∨ x.frozen ≠ [] then some t
            else t.poolSpread r.part (2 * x.bitmapBytes) .state (.freezeMap tk) (t.chansOf r.part)
          match made with
          | none => t.cmdFail r 6 []
          | some u =>
            let v := if fz = [] then u.freeAllocs fun a => a.use == .freezeMap tk else u
            (v.modTab tk fun y => { y with frozen := fz }).cmdDone r (leBytes 4 drop) none) s

/-! ### UP_BEGIN (R326 to R328) -/

/-- The tables of a step header's mask. -/
def maskTabs (d : Bytes) : List Nat := (List.range 256).filter fun n => (fld d 0x10 32).testBit n

def State.upBeginCheck (s : State) (c : Cmd) : Option (Nat × Bytes) :=
  let d := c.data
  let bad := c.dlen != 64 || ((maskTabs d).any fun n => match s.tabFor c n with
      | none => true
      | some t => t.opt.opt == 0 || (t.opt.opt == 4 && fld d 0xC 4 == 0)) ||
    (bit (fld d 0 4) 0 && ! f32pos (fld d 4 4)) || bits (fld d 0 4) 31 2 != 0 || (sub d 0x34 0xC).any (· != 0)
  if bad then some (2, []) else none

/-- The lowest free step handle. -/
def State.newHandle (s : State) : Nat := ((List.range 65).map (· + 1)).find? (fun h => (s.step? h).isNone) |>.getD 65

/-- UP_BEGIN: it waits behind freezes, starts of building versions and switches of its tables that were admitted before it (R342, R343), and binds
to the current versions. -/
def execUpBegin (r : CmdRef) (s : State) : Out :=
  startWhen r 0x52
    (fun c t => ! t.earlier c fun d => (maskTabs c.data).contains d.obj &&
      (d.opcode == 0x51 || d.opcode == 0x46 || d.opcode == 0x48 || (d.opcode == 0x47 && ! t.hostMode (.atl 1))))
    (fun c t =>
      let d := c.data
      let tabs := maskTabs d
      match t.upBeginCheck c with
      | some f => t.cmdFail r f.1 f.2
      | none =>
        if 4 ≤ (t.upd.steps.filter fun e => e.2.part == r.part).length ∨ tabs.any fun n => t.inStep (tabKey r.part n) then t.cmdFail r 0x23 []
        else
          let h := t.newHandle
          let clip := bit (fld d 0 4) 0
          let mb := if clip then fld d 0x30 4 else 0
          match (if mb = 0 then some t else t.poolSpread r.part (2 * mb * 0x100000) .state (.staging h) (t.chansOf r.part)) with
          | none => t.cmdFail r 6 []
          | some u =>
            let st : UpStep := {
              part := r.part, clip := clip, bf := bit (fld d 0 4) 1, clipNorm := fld d 4 4, lr := fld d 8 4, t := fld d 0xC 4, stageMb := mb
              tabs := tabs.map fun n => (n, ((u.tab? (tabKey r.part n)).map (·.cur)).getD 1) }
            (u.modUpd fun p => { p with steps := lset p.steps h st }).cmdDone r (leBytes 2 h) none) s

/-- The step that exists for a command (11 R718). -/
def State.stepFor (s : State) (c : Cmd) : Option UpStep :=
  if s.hidden c.ref.part 0x52 0x54 (fun d => fld d.result 0 2) (·.obj) c.obj c.ref then none
  else (s.step? c.obj).bind fun st => if st.part == c.ref.part then some st else none

/-! ### Gradient records (R329 to R332) -/

/-- Offsets of the records of a UP_GRAD; none where they are not whole, or one names a table that does not exist (R329). -/
def State.gradRecs (s : State) (p : Nat) (bf : Bool) (d : Bytes) : Nat → Nat → Option (List Nat)
  | 0, _ => none
  | n + 1, o =>
    if o = d.length then some []
    else if d.length < o + 16 then none
    else
      match s.tab? (tabKey p (fld d (o + 5) 1)) with
      | none => none
      | some t =>
        let e := o + 16 + cdiv (t.d * if bf then 2 else 4) 16 * 16
        if d.length < e then none else (State.gradRecs s p bf d n e).map (o :: ·)

def State.offsets (s : State) (st : UpStep) (c : Cmd) : Option (List Nat) := s.gradRecs st.part st.bf c.data (c.data.length / 16 + 1) 0

def State.upGradCheck (s : State) (c : Cmd) : Option (Nat × Bytes) :=
  match s.stepFor c with
  | none => some (2, [])
  | some st => if c.dlen = 0 ∨ 0x400000 < c.dlen ∨ (s.offsets st c).isNone then some (2, []) else none

/-- Progress of a UP_GRAD: the next record; the counts applied (or staged), dropped, frozen, missing, nonfinite; then the records' offsets. -/
def gradIdx (c : Cmd) : Nat := c.work.headD 0
def gradLeft (c : Cmd) : List Nat := (c.work.drop 6).drop (gradIdx c)
/-- The row and table that a record names. -/
def recRow (d : Bytes) (o : Nat) : Nat := fld d o 5
def recTab (d : Bytes) (o : Nat) : Nat := fld d (o + 5) 1

/-- The fate of a record under R330. -/
inductive Fate where
  | dropped
  | frozen
  | nonfinite
  /-- Table key, version, row, gradient as FP32 patterns. -/
  | good (tk no row : Nat) (g : List Nat)
deriving DecidableEq, Repr

def State.fate (s : State) (st : UpStep) (d : Bytes) (o : Nat) : Fate :=
  let tab := recTab d o
  let row := recRow d o
  let tk := tabKey st.part tab
  match st.tabs.find? (·.1 == tab), s.tab? tk with
  | some (_, no), some t =>
    if t.rows ≤ row ∨ fld d (o + 6) 2 ≠ 0 ∨ fld d (o + 8) 8 ≠ 0 then .dropped
    else if isFrozen t.frozen row then .frozen
    else
      let g := (List.range t.d).map fun i => if st.bf then fld d (o + 16 + 2 * i) 2 * 65536 else fld d (o + 16 + 4 * i) 4
      if g.any fun x => ! (fp32.dec x).isFin then .nonfinite else .good tk no row g
  | _, _ => .dropped

/-- The update unit that handles a row: by its home channel, or the next in service (R316, R348). -/
def State.unitOf (s : State) (t : Table) (row : Nat) : Option Nat :=
  ((List.range 8).map fun i => (t.homeChan row + i) % 8).find? fun u => s.upd.inSvc.getLsbD u

/-- Whether an earlier UP_GRAD of the step still has a record for a row (R331). -/
def State.rowAhead (s : State) (st : UpStep) (c : Cmd) (tab row : Nat) : Bool :=
  s.earlier c fun d => d.opcode == 0x53 && d.obj == c.obj &&
    (if d.phase == .running then gradLeft d else (s.offsets st d).getD []).any fun o => recTab d.data o == tab && recRow d.data o == row

/-! ### The optimiser rules (R323 to R325, R334, R335) -/

/-- An exact power of a value that is not negative. -/
def Flt.pow (x : Flt) (n : Nat) : Flt :=
  match x with
  | .fin _ m e => .fin false (m ^ n) (e * n)
  | y => y

/-- Vector k of a state slot, as FP32 patterns. -/
def OptDesc.vec (o : OptDesc) (d : Nat) (st : Bytes) (k : Nat) : List Nat :=
  (List.range d).map fun i => if o.bf then fld st (16 + (k * d + i) * 2) 2 * 65536 else fld st (16 + (k * d + i) * 4) 4
def OptDesc.store (o : OptDesc) (vs : List Nat) : Bytes :=
  vs.flatMap fun x => if o.bf then leBytes 2 (bf16.cvt (fp32.dec x)) else leBytes 4 x

/-- 1 − βᵀ, the power exact and rounded once. -/
def biasOf (b n : Nat) : Nat := f32sub f32one (fp32.rnd ((fp32.dec b).pow n))

/-- What a record gives (Table 8.3): what is taken from each element, the new state slot, and the FP32 values of the new state. `g` is c × G, `w`
the row, `lam` the weight decay. -/
def OptDesc.delta (o : OptDesc) (lr t seed lam : Nat) (g w : List Nat) (st : Bytes) : List Nat × Bytes × List Nat :=
  let d := g.length
  let decay (x : Nat × Nat) : Nat := f32add x.1 (f32mul lam x.2)
  match o.opt with
  | 2 =>
    let m := List.zipWith f32add (List.zipWith f32add ((o.vec d st 0).map (f32mul o.b1)) g) (w.map (f32mul lam))
    (m.map (f32mul lr), st.take 16 ++ o.store m, m)
  | 3 =>
    let sum := f32div (f32sum seed (g.map fun x => f32mul x x)) (fp32.rnd (Flt.ofInt d 0))
    let a := f32add (fld st 0 4) sum
    let den := f32add (f32sqrt a) o.eps
    (g.map fun x => f32div (f32mul lr x) den, leBytes 4 a ++ (st.drop 4).take 12, [a])
  | 4 =>
    let m := List.zipWith (fun x y => f32add (f32mul o.b1 x) (f32mul (f32sub f32one o.b1) y)) (o.vec d st 0) g
    let v := List.zipWith (fun x y => f32add (f32mul o.b2 x) (f32mul (f32sub f32one o.b2) (f32mul y y))) (o.vec d st 1) g
    let step := List.zipWith (fun x y => f32div (f32div x (biasOf o.b1 t)) (f32add (f32sqrt (f32div y (biasOf o.b2 t))) o.eps)) m v
    ((step.zip w).map fun x => f32mul lr (decay x), st.take 16 ++ o.store (m ++ v), m ++ v)
  | _ => ((g.zip w).map fun x => f32mul lr (decay x), st, [])

/-- The learning rate of a step for a table. -/
def UpStep.rate (st : UpStep) (o : OptDesc) : Nat := if st.lr % 2 ^ 31 = 0 then o.lr else st.lr

/-- Read the state of a row's source copy. State that is lost starts again, with an event (Table 16.4). -/
def State.stateOf (s : State) (tk no r : Nat) (t : Table) : State × Bytes :=
  if t.stateSize = 0 then (s, []) else
    match t.sourceSlot no r with
    | none => (s, s.flashState tk no r t)
    | some (j, k) =>
      match s.rdState tk no t j k with
      | (u, some b) => (u, b)
      | (u, none) =>
        ((u.wrState tk no t j k (t.newState r)).raise (.atl 0) 0 0x7003 (words [tk / 256, tk % 256, r % 2 ^ 32, r / 2 ^ 32]), t.newState r)

/-- What became of a record at its row. -/
inductive Applied where
  | applied
  | missing
  | nonfinite
  | wait
deriving DecidableEq, Repr

/-- Apply a record to its row with a clipping factor (R323 to R325, R330, R332). `keep` names the UP_END whose pass 2 this is: gathers go on
reading the row as it stood (R338). -/
def State.applyRec (s : State) (st : UpStep) (tk no row c : Nat) (g : List Nat) (keep : Option CmdRef) : State × Applied :=
  match s.rowForWrite tk no row with
  | (u, none, .unreadable) => (u, .missing)
  | (u, none, _) => (u, .wait)
  | (u, some old, _) =>
    match u.tab? tk with
    | none => (u, .missing)
    | some t =>
      if slotMissing old then (u, .missing)
      else
        let (v, sb) := u.stateOf tk no row t
        let w := (rowVals t old).map fp32.rnd
        let (dl, sb', vals) := t.opt.delta (st.rate t.opt) st.t v.free t.opt.wd (g.map (f32mul c)) w sb
        let new := List.zipWith f32sub w dl
        let v := { v with free := v.free + 2 * t.d }
        if (new ++ vals).any fun x => ! (fp32.dec x).isFin then (v, .nonfinite)
        else
          let v := match keep with
            | none => v
            | some r =>
              if v.atl.shadows.any fun h => h.tab == tk && h.ver == no && h.row == row then v
              else v.modAtl fun a => { a with shadows := a.shadows ++ [Shadow.mk r tk no row old] }
          let (sc, bs) := packRow t new
          let x := v.putRow tk no row sc false bs old
          let y := match t.sourceSlot no row with
            | none => x
            | some (j, k) => x.wrState tk no t j k sb'
          (y.modUpd fun p => { p with recCnt := p.recCnt + 1 }, .applied)

/-- FP64 squares of FP32 values. -/
def squares (xs : List Nat) : List Nat := xs.map fun x => fp64.rnd ((fp32.dec x).mul (fp32.dec x))

/-! ### UP_GRAD and its records (R332, R333) -/

/-- Count a record of a UP_GRAD as place k of its progress says, and in the registers of the UPD page. -/
def State.gradCount (s : State) (c : Cmd) (k : Nat) : State :=
  let t := s.modCmd c.ref fun d => { d with work := (d.work.modify 0 (· + 1)).modify k (· + 1) }
  t.modUpd fun p => { p with
    frozenCnt := if k = 3 then satBv p.frozenCnt 1 else p.frozenCnt
    dropCnt := if k = 2 ∨ k = 4 ∨ k = 5 then satBv p.dropCnt 1 else p.dropCnt }

/-- Add a UP_GRAD's counts to its step. -/
def State.gradTotal (s : State) (c : Cmd) : State :=
  let n (k : Nat) : Nat := c.work.getD k 0
  s.modStep c.obj fun st => { st with
    applied := st.applied + (if st.clip then 0 else n 1), dropped := st.dropped + n 2, frozen := st.frozen + n 3
    missing := st.missing + n 4, nonfinite := st.nonfinite + n 5 }

/-- Undo what a UP_GRAD of a clipped step has staged (R333, R346). -/
def State.unstage (s : State) (c : Cmd) : State := s.modStep c.obj fun st => { st with staged := st.staged.filter (·.adm != c.adm) }

/-- A UP_GRAD completes when every one of its records has been applied, staged or counted. -/
def State.gradEnd (s : State) (r : CmdRef) : State :=
  match s.cmd? r with
  | none => s
  | some c =>
    if gradLeft c = [] then
      let n (k : Nat) : Nat := c.work.getD k 0
      (s.gradTotal c).cmdDone r (leBytes 8 (n 1) ++ leBytes 4 (n 2) ++ leBytes 4 (n 3) ++ leBytes 4 (n 4) ++ leBytes 4 (n 5)) none
    else s

/-- What a stopped UP_GRAD leaves: in a clipped step nothing staged; otherwise its records so far, applied or counted (R346). -/
def State.gradStop (s : State) (c : Cmd) : State :=
  match s.step? c.obj with
  | none => s
  | some st => if st.clip then s.unstage c else s.gradTotal c

def execUpGrad (r : CmdRef) (s : State) : Out :=
  startCmd r 0x53 (fun c t =>
    match (t.step? c.obj).bind fun st => t.offsets st c with
    | none => t.cmdFail r 2 []
    | some os => (t.modCmd r fun d => { d with work := [0, 0, 0, 0, 0, 0] ++ os }).gradEnd r) s

/-- Bytes staged in a step. -/
def UpStep.stagedBytes (st : UpStep) : Nat := (st.staged.map (·.bytes.length)).sum

/-- Stage a record: its squares for GNORM and for UPD_NORM are taken now (R333, R335). -/
def State.stageRec (s : State) (st : UpStep) (c : Cmd) (tk no row : Nat) (g : List Nat) (o : Nat) : State :=
  match s.tab? tk with
  | none => s
  | some t =>
    let len := 16 + cdiv (t.d * if st.bf then 2 else 4) 16 * 16
    if st.stageMb * 0x100000 < st.stagedBytes + len then (s.unstage c).cmdFail c.ref 6 []
    else
      let (u, sb) := s.stateOf tk no row t
      let (dl, _, _) := t.opt.delta (st.rate t.opt) st.t u.free 0 g (g.map fun _ => 0) sb
      let x : Staged := { adm := c.adm, bytes := sub c.data o len, sq := squares g, upd := squares dl }
      let v := { u with free := u.free + 2 * t.d }
      (v.modStep c.obj fun y => { y with staged := y.staged ++ [x] }).gradCount c 1

/-- Handle the next record of a UP_GRAD. -/
def State.gradNext (s : State) (st : UpStep) (c : Cmd) (o : Nat) : State :=
  match s.fate st c.data o with
  | .dropped => s.gradCount c 2
  | .frozen => s.gradCount c 3
  | .nonfinite => s.gradCount c 5
  | .good tk no row g =>
    if s.rowAhead st c (recTab c.data o) row then s
    else if ((s.tab? tk).bind fun t => s.unitOf t row).isNone then (s.gradStop c).cmdFail c.ref 0xFF []
    else if st.clip then s.stageRec st c tk no row g o
    else
      match s.applyRec st tk no row f32one g none with
      | (u, .wait) => u
      | (u, .missing) => u.gradCount c 4
      | (u, .nonfinite) => u.gradCount c 5
      | (u, .applied) => (u.modStep c.obj fun y => { y with sq := y.sq ++ squares g }).gradCount c 1

/-- GRADIENT_RECORD: the next record of a running UP_GRAD is read and applied, staged or counted. -/
def execGradientRecord (r : CmdRef) (s : State) : Out :=
  guardUnit (refOk r) <|
    match s.cmd? r with
    | none => .next s
    | some c =>
      if c.opcode != 0x53 || c.phase != .running || ! s.serves 0x53 then .next s
      else
        match s.step? c.obj, gradLeft c with
        | some st, o :: _ =>
          let t := s.gradNext st c o
          .next (if ((t.cmd? r).map (·.phase)) = some .running then t.gradEnd r else t)
        | _, _ => .next s

/-! ### UP_END (R334 to R339) -/

def State.upEndCheck (s : State) (c : Cmd) : Option (Nat × Bytes) := if (s.stepFor c).isNone ∨ 2 ≤ c.p1 then some (2, []) else none

/-- GNORM and the clipping factor of a step: FP64 and FP32 patterns (R334). -/
def UpStep.gnorm (st : UpStep) (seed : Nat) : Nat :=
  fp64.rnd (fp64.dec (f64sum seed (if st.clip then st.staged.flatMap (·.sq) else st.sq))).sqrt
def UpStep.factor (st : UpStep) (gnorm : Nat) : Nat :=
  let lim := fp32.dec st.clipNorm
  if st.clip && lim.lt (fp64.dec gnorm) then fp32.rnd (lim.div (fp64.dec gnorm)) else f32one
/-- UPD_NORM (R335). -/
def UpStep.updNorm (st : UpStep) (seed : Nat) : Nat :=
  if st.clip then fp64.rnd (fp64.dec (f64sum seed (st.staged.flatMap (·.upd)))).sqrt else 0

/-- The step report (Table 8.6); `work` holds c, GNORM and UPD_NORM from place 1 on. -/
def UpStep.report (st : UpStep) (h : Nat) (discard : Bool) (work : List Nat) : Bytes :=
  let c := work.getD 1 f32one
  let flags := b2n ((fp32.dec c).lt (.fin false 1 0)) + 2 * b2n discard
  leBytes 4 (h + flags * 65536) ++ leBytes 4 c ++ leBytes 8 (work.getD 2 0) ++ leBytes 8 (work.getD 3 0) ++ leBytes 8 st.applied ++ leBytes 4 st.dropped ++
    leBytes 4 st.frozen ++ leBytes 4 st.missing ++ leBytes 4 st.nonfinite ++ leBytes 8 st.stagedBytes ++ zeros 8

/-- Finish a UP_END: the report is its answer; the step stays open until the completion (R338). -/
def State.endReport (s : State) (c : Cmd) (work : List Nat) : State :=
  match s.step? c.obj with
  | none => s.cmdFail c.ref 2 []
  | some st => (s.modStep c.obj fun x => { x with ending := some c.ref }).cmdDone c.ref [] (some (st.report c.obj (bit c.p1 0) work))

/-- Count a record of pass 2. -/
def State.passCount (s : State) (h : Nat) (a : Applied) : State :=
  match a with
  | .applied => s.modStep h fun st => { st with applied := st.applied + 1 }
  | .missing => (s.modStep h fun st => { st with missing := st.missing + 1 }).modUpd fun p => { p with dropCnt := satBv p.dropCnt 1 }
  | .nonfinite => (s.modStep h fun st => { st with nonfinite := st.nonfinite + 1 }).modUpd fun p => { p with dropCnt := satBv p.dropCnt 1 }
  | .wait => s

/-- Pass 2 from a record on, as far as rows are at hand (R336). -/
def State.pass2 (c : Cmd) (f : Nat) (s : State) : List Staged → Nat → State × Nat
  | [], i => (s, i)
  | x :: xs, i =>
    match s.step? c.obj with
    | none => (s, i)
    | some st =>
      match s.fate st x.bytes 0 with
      | .good tk no row g =>
        (match s.applyRec st tk no row f g (some c.ref) with
        | (u, .wait) => (u, i)
        | (u, a) => State.pass2 c f (u.passCount c.obj a) xs (i + 1))
      | _ => State.pass2 c f s xs (i + 1)

/-- Carry pass 2 on. -/
def State.endGo (s : State) (c : Cmd) : State :=
  match s.step? c.obj with
  | none => s.cmdFail c.ref 2 []
  | some st =>
    let (u, i) := State.pass2 c (c.work.getD 1 f32one) s (st.staged.drop (c.work.headD 0)) (c.work.headD 0)
    if i = st.staged.length then u.endReport c c.work
    else u.modCmd c.ref fun d => { d with work := d.work.set 0 i }

/-- UP_END: after the UP_GRADs before it; without DISCARD a clipped step runs pass 2 (R336, R337). -/
def execUpEnd (r : CmdRef) (s : State) : Out :=
  stepWhen r 0x54 (fun c t => ! t.earlier c fun d => d.opcode == 0x53 && d.obj == c.obj)
    (fun c t =>
      match t.step? c.obj with
      | none => t.cmdFail r 2 []
      | some st =>
        let n := st.gnorm t.free
        let m := 2 * (st.staged.map (·.sq.length)).sum + 2 * st.sq.length
        let work := [0, st.factor n, n, st.updNorm (t.free + m)]
        let u := ({ t with free := t.free + 2 * m }).modCmd r fun d => { d with work := work }
        if ! st.clip || bit c.p1 0 then u.endReport c work
        else if u.upd.inSvc == 0#8 then u.cmdFail r 0xFF []
        else (u.modStep c.obj fun x => { x with ending := some r }).endGo { c with work := work })
    (fun c t => t.endGo c) s

/-- The UP_END of a step has completed: the step ends, its staging area is freed, and gathers read its rows as they now stand (R327, R338). -/
def State.upClose (s : State) (r : CmdRef) : State :=
  match s.upd.steps.find? fun e => e.2.ending == some r with
  | none => s
  | some (h, _) =>
    let t := (s.freeAllocs fun a => a.use == .staging h).modAtl fun a => { a with shadows := a.shadows.filter (·.endRef != r) }
    t.modUpd fun p => { p with steps := ldel p.steps h, stepCnt := satBv p.stepCnt 1 }

/-! ### The update units (R348) -/

/-- Units with records in progress: those of the records that running UP_GRADs still hold (UPD_UNIT_STS). -/
def State.upBusy (s : State) : Nat :=
  let us := (s.runningOf 0x53).flatMap fun c => (gradLeft c).filterMap fun o =>
    (s.tab? (tabKey c.ref.part (recTab c.data o))).bind fun t => s.unitOf t (recRow c.data o)
  ((List.range 8).filter us.contains).foldl (fun a u => a + 2 ^ u) 0

/-- UPDATE_UNIT_FAIL: the unit leaves service, with the event. -/
def execUpdateUnitFail (u : Nat) (s : State) : Out :=
  guardUnit (unitOk u) <|
    .next (if s.alive 6 && s.upd.inSvc.getLsbD u then
      (s.modUpd fun p => { p with inSvc := p.inSvc &&& ~~~ (BitVec.ofNat 8 (2 ^ u)) }).raise .upd 0 0x5005 (words [u])
    else s)

end Sys2Proof.Machine
end

