-- ==== Sys2Proof/Machine/ModelRows.lean ====
section
/-! DEFINITION. The resident model: packages, loading, grants, requests, sequences, steps, route marks and runs (09 R349 to R387). -/

namespace Sys2Proof.Machine

/-! ### Tiles (R359, R360) -/

/-- The formats a tile may have, and its flash bytes, tiles per page and DRAM slot (Table 9.4). -/
def tileFlash (fmt : Nat) : Option (Nat × Nat × Nat) :=
  if fmt = 0 ∨ fmt = 1 then some (512, 31, 512)
  else if fmt = 0xB then some (544, 30, 576)
  else if fmt = 9 ∨ fmt = 0xA then some (800, 20, 832)
  else if 2 ≤ fmt ∧ fmt ≤ 5 then some (1024, 15, 1024)
  else if fmt = 7 ∨ fmt = 8 ∨ fmt = 0xC then some (1056, 15, 1088)
  else if fmt = 6 then some (2048, 7, 2048)
  else none

/-- Whether a page is a sound tile page. -/
def tilePageOk (m : Mem) : Bool :=
  (rdByte m 0).toNat == 3 && (match tileFlash (rdByte m 1).toNat with
    | none => false
    | some f => decide (rdLE m 2 2 ≤ f.2.1)) && rdLE m 60 4 == crc32c (rdBytes m 0 60 ++ rdBytes m 64 16320)

/-- The unit that holds a tile, its format, and its place in the page. -/
def State.tileAt (s : State) (ns page pages n : Nat) : Option (Nat × Nat × Nat) :=
  (List.range pages).findSome? fun i =>
    let m := (s.peekUnit ns (page + i)).getD []
    let first := rdLE m 8 8 % 2 ^ 36
    if (rdByte m 0).toNat = 3 ∧ first ≤ n ∧ n < first + rdLE m 2 2 then some (page + i, (rdByte m 1).toNat, n - first) else none

/-- DRAM bytes of a tile. -/
def tileSlot (fmt : Nat) : Nat := ((tileFlash fmt).map (·.2.2)).getD 2048

/-- Read tiles from flash into their slots; each page is read once and checked. The unit that fails, where one does (R371, R386). -/
def State.readTiles (ns page pages : Nat) (s : State) (last : Option (Nat × Mem)) : List Nat → State × Except Nat Bytes
  | [] => (s, .ok [])
  | n :: r =>
    match s.tileAt ns page pages n with
    | none => (s, .error page)
    | some (u, fmt, i) =>
      let (t, m) : State × Option Mem := match last with
        | some (v, m) => if v = u then (s, some m) else
          (let (t, m) := s.readUnit ns u
           (t.modMdl fun x => { x with fetchCnt := x.fetchCnt + 1 }, m))
        | none =>
          (let (t, m) := s.readUnit ns u
           (t.modMdl fun x => { x with fetchCnt := x.fetchCnt + 1 }, m))
      match m with
      | none => (t, .error u)
      | some m =>
        if ! tilePageOk m then (t, .error u)
        else
          let fl := ((tileFlash fmt).map (·.1)).getD 0
          match State.readTiles ns page pages t (some (u, m)) r with
          | (v, .error e) => (v, .error e)
          | (v, .ok bs) => (v, .ok (sub (rdBytes m (64 + i * fl) fl) 0 (tileSlot fmt) ++ bs))

/-! ### The package (R349 to R352, R368) -/

/-- A section descriptor: type, pages, first page, CRC. -/
structure Sect where
  ty : Nat
  pages : Nat
  first : Nat
  crc : Nat
deriving DecidableEq, Repr

/-- The sections of a header. -/
def sections (h : Bytes) : List Sect :=
  ((List.range 16).map fun i => { ty := fld h (0x40 + 16 * i) 1, pages := fld h (0x44 + 16 * i) 4, first := fld h (0x48 + 16 * i) 4
                                  crc := fld h (0x4C + 16 * i) 4 : Sect }).filter (·.ty != 0)

/-- A header that breaks R349, R350 or a limit of Table 9.6. -/
def headerBad (h : Bytes) (clus : Nat) : Bool :=
  let ss := sections h
  let ne := fld h 4 1
  let nc := fld h 5 1
  fld h 0 4 != 1 || ne == 0 || decide (16 < ne) || nc == 0 || decide (80 < nc) || decide (clus < nc) || fld h 6 2 != 0 ||
    decide (40000000000000 < fld h 8 8) || decide (2 ^ 36 ≤ fld h 0x10 8) || ! [4, 6, 7].contains (fld h 0x18 4) || (sub h 0x20 0x20).any (· != 0) ||
    fld h 0x140 4 != crc32c (h.take 0x140) || (sub h 0x144 (16384 - 0x144)).any (· != 0) || ss.any (fun x => decide (6 < x.ty)) ||
    ((List.range 16).any fun i => fld h (0x40 + 16 * i) 1 != 0 && fld h (0x41 + 16 * i) 3 != 0) || decide ((ss.map (·.ty)).dedup.length < ss.length)

/-- An entry descriptor (Table 9.2). -/
def entryOf (d : Bytes) : MdEntry :=
  let w := fld d 0 4
  let mask := fld d 8 16
  { no := w % 256, kind := bits w 9 8, outBf := bit w 10, prog := fld d 4 1, sheet := fld d 5 1, clus := (List.range 80).filter fun k => mask.testBit k
    maxIn := fld d 0x18 4, d := fld d 0x1C 2, maxSeq := fld d 0x1E 2, thresh := fld d 0x20 4, stepArea := fld d 0x24 4 % 2 ^ 23
    kvt := fld d 0x28 4 % 2 ^ 21, stepTk := fld d 0x2C 4 % 32 }

/-- An entry descriptor that is malformed, or beyond what the package holds. -/
def entryBad (d : Bytes) (nclu progs sheets consts : Nat) : Bool :=
  let e := entryOf d
  decide (16 ≤ e.no) || e.kind == 3 || bits (fld d 0 4) 31 11 != 0 || decide (progs ≤ e.prog) || decide (sheets ≤ e.sheet) || fld d 6 2 != 0 ||
    e.clus == [] || decide (2 ^ nclu ≤ fld d 8 16) || e.maxIn == 0 || decide ((if e.kind = 0 then 1048576 else 0x400000) < e.maxIn) ||
    (if e.kind = 1 then e.d == 0 || decide (4096 < e.d) else e.d != 0) || e.maxSeq == 0 || decide (256 < e.maxSeq) ||
    (e.thresh != 0xFFFFFFFF && decide (consts < e.thresh + 4 * e.d)) || fld d 0x24 4 != e.stepArea || fld d 0x28 4 != e.kvt || fld d 0x2C 4 != e.stepTk ||
    (sub d 0x30 0x10).any (· != 0)

/-- A route entry as the sheet holds it: first tile, tiles, package channel, class, token, address slot, leg; or none where it is malformed. -/
def routeOf (d : Bytes) (legs : Nat) : Option (Nat × Nat × Nat × Nat × Nat × Nat × Nat) :=
  let a := fld d 0 8
  let b := fld d 8 4
  let slot := fld d 0x10 4
  let leg := fld d 0x14 4
  if bits a 37 36 = 3 ∨ bits a 63 38 ≠ 0 ∨ bits b 12 0 = 0 ∨ 4096 < bits b 12 0 ∨ bits b 15 13 ≠ 0 ∨ bits b 31 26 ≠ 0 ∨ 32 ≤ fld d 0xC 4 ∨
      2 ^ 21 ≤ slot ∨ slot % 8 ≠ 0 ∨ legs ≤ leg ∨ (sub d 0x18 8).any (· != 0) then none
  else some (bits a 35 0, bits b 12 0, bits b 25 16, bits a 37 36, fld d 0xC 4, slot, leg)

/-- The sheets of a section, each its leg count and its raw entries; a header of zeros ends them (R368). -/
def sheetsOf : Nat → Bytes → List (Nat × List Bytes)
  | 0, _ => []
  | n + 1, d =>
    let k := fld d 0 4
    let l := fld d 4 4
    if l = 0 ∨ d.length < 16 + 32 * k then []
    else (l, (List.range k).map fun i => sub d (16 + 32 * i) 32) :: sheetsOf n (d.drop (16 + 32 * k))

/-- Rising order, repeats allowed. -/
def rising : List Nat → Bool
  | a :: b :: r => decide (a ≤ b) && rising (b :: r)
  | _ => true

/-- The channel of a package channel (R352). -/
def pkgChan (clus : List Nat) (c : Nat) : Nat := clus.getD (c / 8) 0 * 8 + c % 8

/-- A sheet with its runs added to those known, or none where an entry is malformed. -/
def addSheet (s : State) (ns page pages : Nat) (clus : List Nat) (nclu : Nat) (runs : List Run) (raw : Nat × List Bytes) : Option (List Run × Sheet) :=
  let es := raw.2.map fun d => routeOf d raw.1
  if raw.1 > 2 ^ 24 ∨ es.any (·.isNone) ∨ ! rising (es.map fun e => (e.map (·.2.2.2.2.2.2)).getD 0) ∨ es.any (fun e => decide (8 * nclu ≤ (e.map (·.2.2.1)).getD 0))
  then none
  else
    let go (acc : List Run × List RouteEnt) (e : Nat × Nat × Nat × Nat × Nat × Nat × Nat) : List Run × List RouteEnt :=
      let (first, count, chan, cls, tk, slot, leg) := e
      let g := pkgChan clus chan
      let i := (acc.1.findIdx? fun r => r.first == first && r.count == count && r.chan == g).getD acc.1.length
      let size := ((List.range count).map fun j => ((s.tileAt ns page pages (first + j)).map fun t => tileSlot t.2.1).getD 0).sum
      let runs := if i < acc.1.length then acc.1.modify i fun r => { r with pinned := r.pinned || cls == 0, leg := max r.leg leg }
        else acc.1 ++ [{ first := first, count := count, chan := g, bytes := size, pinned := cls == 0, leg := leg }]
      (runs, acc.2 ++ [{ run := i, cls := cls, tk := tk, slot := slot, leg := leg }])
    let (rs, ents) := (es.filterMap id).foldl go (runs, [])
    some (rs, { legs := raw.1, ents := ents })

def addSheets (s : State) (ns page pages : Nat) (clus : List Nat) (nclu : Nat) : List (Nat × List Bytes) → List Run → Option (List Run × List Sheet)
  | [], runs => some (runs, [])
  | r :: rs, runs =>
    match addSheet s ns page pages clus nclu runs r with
    | none => none
    | some (runs, sh) => (addSheets s ns page pages clus nclu rs runs).map fun x => (x.1, sh :: x.2)

/-- The floor share of a channel for STREAM_MB over a number of channels (R365). -/
def floorShare (mb n : Nat) : Nat := cdiv (mb * 0x100000) (max 1 n * 0x10000) * 0x10000

/-- A leg whose stream and demand entries on one channel exceed half the floor share (R373). -/
def legTooBig (runs : List Run) (sh : Sheet) (share : Nat) : Bool :=
  sh.ents.any fun e =>
    let g := ((runs[e.run]?).map (·.chan)).getD 0
    let rs := ((sh.ents.filter fun f => f.leg == e.leg && f.cls != 0 && ((runs[f.run]?).map (·.chan)).getD 0 == g).map (·.run)).dedup
    decide (share < 2 * (rs.map fun r => ((runs[r]?).map (·.bytes)).getD 0).sum)

/-! ### MD_LOAD (R353, R354) -/

/-- CHUNK and BUDGET as TIR_BATCH acts. -/
def ModelS.chunkOf (m : ModelS) : Nat := max 32 (m.chunkReg.toNat / 32 * 32)
def ModelS.budgetOf (m : ModelS) (chunk : Nat) : Nat := max chunk m.budgetReg.toNat

/-- Read a section and check its CRC: none where it is unreadable; its bytes, or none where the CRC is wrong. -/
def State.readSect (s : State) (ns page : Nat) (x : Sect) : State × Except Nat (Option Bytes) :=
  match s.readRange ns ((page + x.first) * 16384) (x.pages * 16384) with
  | (t, .error u) => (t, .error u)
  | (t, .ok bs) => (t, .ok (if crc32c bs = x.crc then some bs else none))

/-- Read the sections of the types listed, in order. -/
def State.readSects (ns page : Nat) (ss : List Sect) (s : State) : List Nat → State × Except Nat (Option (List Bytes))
  | [] => (s, .ok (some []))
  | ty :: r =>
    match ss.find? (·.ty == ty) with
    | none =>
      (match State.readSects ns page ss s r with
      | (t, .ok (some l)) => (t, .ok (some ([] :: l)))
      | x => x)
    | some x =>
      match s.readSect ns page x with
      | (t, .error u) => (t, .error u)
      | (t, .ok none) => (t, .ok none)
      | (t, .ok (some bs)) =>
        match State.readSects ns page ss t r with
        | (u, .ok (some l)) => (u, .ok (some (bs :: l)))
        | y => y

/-- The model that a package describes, and what it needs beside its runs; none where a limit or a check fails (R349 to R352, R354, R368, R373). -/
def State.parseModel (s : State) (p : Nat) (d h : Bytes) (secs : List Bytes) : Option ModelS :=
  let clus := s.clustersOf p
  let nclu := fld h 5 1
  let ns := nsKey p (fld d 0 2)
  let page := fld d 8 6
  let tiles := (sections h).find? (·.ty == 5)
  let tp := page + (tiles.map (·.first)).getD 0
  let tn := (tiles.map (·.pages)).getD 0
  let raw := sheetsOf 17 (secs.getD 2 [])
  let progs := Config.progCount (secs.getD 1 [])
  let consts := secs.getD 3 []
  let ents := (List.range (fld h 4 1)).map fun i => sub (secs.getD 0 []) (64 * i) 64
  let nchan := (s.chansOf p).length
  let chunk := if fld d 24 2 = 0 then s.mdl.chunkOf else fld d 24 2
  let budget := if fld d 26 2 = 0 then s.mdl.budgetOf chunk else fld d 26 2
  match addSheets s ns tp tn clus nclu raw [] with
  | none => none
  | some (runs, sheets) =>
    if 16 < raw.length ∨ 16 < progs ∨ ents.any (fun e => entryBad e nclu progs sheets.length consts.length) ∨
        (ents.map fun e => fld e 0 1).dedup.length < ents.length ∨ sheets.any (fun sh => legTooBig runs sh (floorShare (fld d 16 4) nchan)) ∨
        chunk < 32 ∨ 8192 < chunk ∨ chunk % 32 ≠ 0 ∨ budget < chunk then none
    else some { s.mdl with
      st := 1, degraded := false, part := p, ns := fld d 0 2, page := page, kvMb := fld d 20 4, chunk := chunk, budget := budget
      kvToken := fld h 0x1C 4, tilePage := tp, tilePages := tn
      entries := ents.map fun e => let x := entryOf e
                                   { x with clus := x.clus.map fun k => clus.getD k 0 }
      sheets := sheets, runs := runs, consts := consts, progs := secs.getD 1 [], nclu := nclu, dead := false
      kvl := (Config.kvLayout (secs.getD 4 [])).map fun e => (pkgChan clus e.1, e.2)
      grants := [], seqs := [], kept := [], items := [], steps := [], travs := [], stepNo := [], stepped := [], fresh := [], taken := [] }

/-- The cores of an entry. -/
def MdEntry.cores (e : MdEntry) : List Nat := e.clus.flatMap fun k => (List.range 8).map (k * 8 + ·)
/-- Bytes of the step areas of an entry, one in each of its clusters (Table 9.9, log 26). -/
def MdEntry.stepBytes (e : MdEntry) (budget : Nat) : Nat := e.clus.length * up64 (64 + 32 * e.maxSeq + if e.kind = 0 then 4 * budget else 0)

/-- Programs, constants and step areas in bytes. -/
def ModelS.fixedBytes (m : ModelS) (progs : Nat) : Nat := progs + m.consts.length + (m.entries.map fun e => e.stepBytes m.budget).sum
/-- What a model needs of the quota (R354 step 3). -/
def ModelS.needs (m : ModelS) (progs stream : Nat) : Nat :=
  ((m.runs.filter (·.pinned)).map (·.bytes)).sum + (stream + m.kvMb) * 0x100000 + m.fixedBytes progs +
    (m.entries.map fun e => (e.cores.map saveBytes).sum).sum

/-- Free all DRAM of the model and end its contexts; counters, registers and handle numbers stay (R355). -/
def State.modelFree (s : State) : State :=
  let xs := s.sched.ctxs.filter fun e => match e.2.kind with
    | .entry _ => true
    | _ => false
  let t := xs.foldl (fun t e => t.endCtx e.1 e.2) s
  let u := t.freeAllocs fun a => match a.use with
    | .run _ => true
    | .kvRun _ _ => true
    | .model _ => true
    | _ => false
  (u.modDram fun d => { d with floor := mset 0 d.floor s.mdl.part 0 }).modMdl fun m => { m with
    st := 0, degraded := false, part := 0, ns := 0, page := 0, kvMb := 0, chunk := 0, budget := 0, kvToken := 0, tilePage := 0, tilePages := 0
    entries := [], sheets := [], runs := [], consts := [], progs := [], nclu := 0, dead := false, kvl := [], grants := [], seqs := [], kept := [], items := [], steps := [], travs := []
    stepNo := [], stepped := [], fresh := [], taken := [] }

def State.mdLoadCheck (s : State) (c : Cmd) : Option (Nat × Bytes) :=
  let d := c.data
  if s.mdl.st ≠ 0 then some (0x30, [])
  else if c.dlen ≠ 64 ∨ fld d 2 6 ≠ 0 ∨ fld d 14 2 ≠ 0 ∨ (sub d 28 36).any (· != 0) ∨ (s.nsFor c.ref.part (fld d 0 2) c.ref).isNone then some (2, [])
  else none

/-- Steps 2 to 4: the checks, the quota, and STATE loading. -/
def State.loadStart (s : State) (c : Cmd) : State :=
  let p := c.ref.part
  let ns := nsKey p (fld c.data 0 2)
  let page := fld c.data 8 6
  if s.mdl.st ≠ 0 then s.cmdFail c.ref 0x30 []
  else if (s.ns? ns).isNone then s.cmdFail c.ref 2 []
  else
    match s.readRange ns (page * 16384) 16384 with
    | (t, .error u) => t.cmdFail c.ref 0x11 (leBytes 8 u)
    | (t, .ok h) =>
      if headerBad h (t.clustersOf p).length then t.cmdFail c.ref 2 []
      else
        match State.readSects ns page (sections h) t [1, 2, 3, 4, 6] with
        | (u, .error x) => u.cmdFail c.ref 0x11 (leBytes 8 x)
        | (u, .ok none) => u.cmdFail c.ref 2 []
        | (u, .ok (some secs)) =>
          match u.parseModel p c.data h secs with
          | none => u.cmdFail c.ref 2 []
          | some m =>
            let stream := fld c.data 16 4
            let progs := (secs.getD 1 []).length
            if u.quota p < m.needs progs stream then u.cmdFail c.ref 6 []
            else
              let v := { u with mdl := m }.modDram fun d => { d with floor := mset 0 d.floor p stream }
              match v.poolSpread p (m.fixedBytes progs) .state (.model 0) (v.chansOf p) with
              | none => (v.modelFree).cmdFail c.ref 6 []
              | some w => w

/-- The read of a run into a new allocation of its channel: none where there is no room; false and the unit where it cannot be read (R371). -/
def State.fetchRun (s : State) (i : Nat) (r : Run) : Option (State × Option Nat) :=
  match s.poolAlloc s.mdl.part r.chan r.bytes .pinned (.run i) with
  | none => none
  | some t =>
    match State.readTiles (nsKey t.mdl.part t.mdl.ns) t.mdl.tilePage t.mdl.tilePages t none ((List.range r.count).map (r.first + ·)) with
    | (u, .error e) => some (u.freeAllocs fun a => a.use == .run i, some e)
    | (u, .ok bs) =>
      match u.dram.alloc.find? (·.use == .run i) with
      | none => some (u, none)
      | some a => some ((u.dramWrite a.chan a.off bs).1, none)

/-- Step 4: the pinned runs, from run i on: the status and RESULT of what fails. -/
def State.fetchPinned (s : State) (i : Nat) : List Run → State × Option (Nat × Bytes)
  | [] => (s, none)
  | r :: rs =>
    if ! r.pinned then State.fetchPinned s (i + 1) rs
    else
      match s.fetchRun i r with
      | none => (s, some (6, []))
      | some (t, some u) => (t, some (0x11, leBytes 8 u))
      | some (t, none) => State.fetchPinned t (i + 1) rs

/-- The service context of an entry point: its program, its cluster resources, a grant over the pool share in which results and items of its steps
stand, and grants to read the programs and constants (R354, R378, log 26). -/
def State.entryCtx (s : State) (p : Nat) (progs : Bytes) (e : MdEntry) : Ctx :=
  let ws := Config.progWords progs e.prog
  let (nb, nm, nr) := Config.progNeeds progs e.prog
  let g := e.cores.headD 0
  { kind := .entry e.no, part := p, cores := e.cores, progLen := min 16384 ws.length
    prog := (ws.zipIdx).foldl (fun m w => mset 0 m w.2 w.1) [], nbank := nb, nmslot := nm, nbar := nr
    grants := { base := 0x10000000000 + g * 0x80000000 + s.poolBase g, len := 0x80000000 - s.poolBase g, r := true, w := true } ::
      (s.dram.alloc.filter (·.use == .model 0)).map fun a => { base := 0x10000000000 + a.chan * 0x80000000 + a.off, len := a.len, r := true, w := false }
    waitSince := some s.sys.now }

/-- Step 5: the programs and the constants are loaded, one after the other over the room that step 3 counted for them (log 26). -/
def State.fillModel (s : State) : State :=
  let image := s.mdl.progs ++ s.mdl.consts
  ((s.dram.alloc.filter (·.use == .model 0)).zipIdx).foldl (fun t e => (t.dramWrite e.1.chan e.1.off (sub image (e.2 * e.1.len) e.1.len)).1) s

/-- Step 5: a service context for each entry point. -/
def State.makeCtxs (progs : Bytes) (s : State) : List MdEntry → Option State
  | [] => some s
  | e :: es =>
    match s.newCtx (s.entryCtx s.mdl.part progs e) with
    | none => none
    | some (t, x) =>
      State.makeCtxs progs (t.modMdl fun m => { m with
        entries := m.entries.map fun y => if y.no == e.no then { y with ctx := some x } else y, fresh := setIns m.fresh e.no }) es

/-- Steps 4 to 6. -/
def State.loadGo (s : State) (c : Cmd) : State :=
  match s.fetchPinned 0 s.mdl.runs with
  | (t, some f) => (t.modelFree).cmdFail c.ref f.1 f.2
  | (t, none) =>
    match State.makeCtxs t.mdl.progs t.fillModel t.mdl.entries with
    | none => (t.modelFree).cmdFail c.ref 6 []
    | some u => (u.modMdl fun m => { m with st := 2 }).cmdDone c.ref [] none

/-- MD_LOAD: the first step checks and sets STATE loading, the next one loads and sets it ready. -/
def execMdLoad (r : CmdRef) (s : State) : Out := stepCmd r 0x60 (fun c t => t.loadStart c) (fun c t => t.loadGo c) s

/-- A load that is stopped frees everything (R354). -/
def State.loadStop (s : State) : State := if s.mdl.st = 1 then s.modelFree else s

/-! ### MD_UNLOAD, grants (R355, R357) -/

/-- The failures of commands that only the holder of the model may send. -/
def State.holderCheck (s : State) (c : Cmd) : Option (Nat × Bytes) :=
  if s.mdl.st ≠ 2 then some (0x31, []) else if s.mdl.part ≠ c.ref.part then some (5, []) else none

def execMdUnload (r : CmdRef) (s : State) : Out :=
  startCmd r 0x61 (fun c t =>
    match t.holderCheck c with
    | some f => t.cmdFail r f.1 f.2
    | none => t.modMdl fun m => { m with st := 4 }) s

/-- Whether a command is a request of the model. -/
def modelReq (d : Cmd) : Bool := d.opcode == 0x64 || d.opcode == 0x65 || d.opcode == 0x66 || (d.opcode == 0x11 && d.embed)

/-- UNLOAD_FINISH: with no earlier request left, all DRAM of the model is freed; the MD_UNLOAD completes. -/
def execUnloadFinish (s : State) : Out :=
  if s.mdl.st ≠ 4 ∨ ! s.serves 0x61 then .next s
  else
    let busy := s.host.cmds.any fun d => modelReq d && d.adm != 0 && (d.phase == .admitted || d.phase == .running)
    if busy then .next s
    else .next ((s.runningOf 0x61).foldl (fun t c => t.cmdDone c.ref [] none) s.modelFree)

def State.mdGrantCheck (s : State) (c : Cmd) : Option (Nat × Bytes) :=
  match s.holderCheck c with
  | some f => some f
  | none => if 16 ≤ c.obj ∨ c.obj = c.ref.part ∨ bits c.p1 23 16 = 0 ∨ 2 ^ 24 ≤ c.p1 then some (2, []) else none

def execMdGrant (r : CmdRef) (s : State) : Out :=
  startCmd r 0x62 (fun c t =>
    match t.mdGrantCheck c with
    | some f => t.cmdFail r f.1 f.2
    | none => (t.modMdl fun m => { m with
        grants := m.grants.filter (·.part != c.obj) ++ [{ part := c.obj, mask := bits c.p1 15 0, weight := bits c.p1 23 16 }] }).cmdDone r [] none) s

def State.mdRevokeCheck (s : State) (c : Cmd) : Option (Nat × Bytes) :=
  match s.holderCheck c with
  | some f => some f
  | none => if 16 ≤ c.obj then some (2, []) else none

def execMdRevoke (r : CmdRef) (s : State) : Out :=
  startCmd r 0x63 (fun c t =>
    match t.mdRevokeCheck c with
    | some f => t.cmdFail r f.1 f.2
    | none => (t.modMdl fun m => { m with grants := m.grants.filter (·.part != c.obj) }).cmdDone r [] none) s

/-! ### MD_GEN, MD_ENCODE, MD_RANK, MD_DROPKV, MD_STAT (R374, R378 to R381; 11 R450) -/

/-- Why a request for an entry point of a kind fails at admission. -/
def State.entryCheck (s : State) (c : Cmd) (e kind : Nat) : Option (Nat × Bytes) :=
  if s.mdl.st ≠ 2 then some (0x31, [])
  else if s.mdl.dead then some (0xFF, [])
  else
    match s.mdEntry? e with
    | none => some (2, [])
    | some x => if ! s.mdMayCall c.ref.part e then some (0x33, []) else if x.kind ≠ kind then some (2, []) else none

/-- Fields of a generate request (Table 9.8). -/
def genEntry (c : Cmd) : Nat := fld c.data 0 1
def genRetain (c : Cmd) : Bool := bit (fld c.data 0 4) 8
def genResume (c : Cmd) : Bool := bit (fld c.data 0 4) 9
def genTok (c : Cmd) : Nat := fld c.data 4 4
def genMax (c : Cmd) : Nat := fld c.data 8 4
def genNstop (c : Cmd) : Nat := bits (fld c.data 0xC 4) 19 16
def genHandle (c : Cmd) : Nat := fld c.data 0x14 4

/-- Tokens a request reserves (R374), and its KV bytes. -/
def genReserve (c : Cmd) : Nat := cdiv (genTok c + genMax c) 32 * 32
def ModelS.kvBytes (m : ModelS) (toks : Nat) : Nat := (m.kvl.map fun e => toks * e.2).sum

def State.mdGenCheck (s : State) (c : Cmd) : Option (Nat × Bytes) :=
  match s.entryCheck c (genEntry c) 0 with
  | some f => some f
  | none =>
    match s.mdEntry? (genEntry c) with
    | none => some (2, [])
    | some e =>
      let w := fld c.data 0xC 4
      if 2 ^ 10 ≤ fld c.data 0 4 ∨ bits w 15 13 ≠ 0 ∨ bits w 31 20 ≠ 0 ∨ 8 < genNstop c ∨ genTok c = 0 ∨ genMax c = 0 ∨ e.maxIn < genTok c + genMax c ∨
          0x400000 < c.dlen ∨ c.dlen ≠ 64 + 4 * genTok c ∨
          (genResume c ∧ s.mdl.kept.any fun k => k.handle == genHandle c && k.part != c.ref.part) then some (2, [])
      else if s.mdl.kvMb * 0x100000 < s.mdl.kvBytes (genReserve c) then some (6, [])
      else none

/-- MD_GEN: the request waits to enter a batch slot. -/
def execMdGen (r : CmdRef) (s : State) : Out := startCmd r 0x64 (fun _ t => t) s

/-- Item lengths, and the offset of each item (11 R450). -/
def itemLens (d : Bytes) : List Nat := (List.range (fld d 0 4)).map fun i => fld d (4 + 4 * i) 4
def itemOffs (d : Bytes) : List Nat :=
  ((itemLens d).foldl (fun (a : List Nat × Nat) n => (a.1 ++ [a.2], a.2 + up64 n)) ([], up64 (4 + 4 * fld d 0 4))).1
def itemsEnd (d : Bytes) : Nat := (itemLens d).foldl (fun a n => up64 a + n) (up64 (4 + 4 * fld d 0 4))

/-- The items that a command gives its entry point: those of an MD_ENCODE, or the query with each candidate of an MD_RANK (R380). -/
def itemsOf (c : Cmd) : List Bytes :=
  let xs := ((itemOffs c.data).zip (itemLens c.data)).map fun x => sub c.data x.1 x.2
  if c.opcode = 0x66 then (match xs with
    | [] => []
    | q :: cs => cs.map (q ++ ·)) else xs

def State.itemsCheck (s : State) (c : Cmd) : Option (Nat × Bytes) :=
  match s.entryCheck c (c.p1 % 256) (if c.opcode = 0x66 then 2 else 1) with
  | some f => some f
  | none =>
    match s.mdEntry? (c.p1 % 256) with
    | none => some (2, [])
    | some e =>
      let n := fld c.data 0 4
      if 256 ≤ c.p1 ∨ c.dlen < 4 ∨ n = 0 ∨ (c.opcode = 0x66 ∧ n < 2) ∨ c.dlen < 4 + 4 * n ∨ (c.dlen ≠ itemsEnd c.data ∧ c.dlen ≠ up64 (itemsEnd c.data)) ∨
          (itemsOf c).any (fun b => decide (e.maxIn < b.length)) then some (2, [])
      else none

/-- Bytes of one result of an entry, and in an answer (11 R450). -/
def MdEntry.resBytes (e : MdEntry) : Nat := if e.kind = 1 then e.d * (if e.outBf then 2 else 4) else 4

def State.itemsReserve (s : State) (c : Cmd) : Nat :=
  match s.mdEntry? (c.p1 % 256) with
  | none => 64
  | some e => (if c.opcode = 0x66 then fld c.data 0 4 - 1 else fld c.data 0 4) * up64 e.resBytes

/-- Give every item of a command to its entry point. -/
def State.giveItems (s : State) (c : Cmd) : State :=
  ((itemsOf c).zipIdx).foldl (fun t b => t.addItem c.ref b.2 c.ref.part (c.p1 % 256) b.1) s

def execMdEncode (r : CmdRef) (s : State) : Out := startCmd r 0x65 (fun c t => t.giveItems c) s
def execMdRank (r : CmdRef) (s : State) : Out := startCmd r 0x66 (fun c t => t.giveItems c) s

def State.dropkvCheck (s : State) (c : Cmd) : Option (Nat × Bytes) :=
  if s.mdl.st ≠ 2 then some (0x31, []) else if s.mdl.kept.any fun k => k.handle == c.obj && k.part != c.ref.part then some (2, []) else none

/-- MD_DROPKV: at once, or once the sequence that uses the handle has finished (R381). -/
def execMdDropkv (r : CmdRef) (s : State) : Out :=
  startCmd r 0x67 (fun c t =>
    match t.mdl.kept.find? fun k => k.handle == c.obj && k.part == r.part with
    | none => t.cmdDone r [] none
    | some k =>
      if k.user.isSome then
        (t.modMdl fun m => { m with kept := m.kept.map fun x => if x.handle == k.handle then { x with drop := true } else x }).cmdDone r [] none
      else (t.keptDrop k.handle).cmdDone r [] none) s

/-- MD_STAT: residence, pool and tier counters, whose layout the spec leaves open (log 5). -/
def execMdStat (r : CmdRef) (s : State) : Out :=
  startCmd r 0x68 (fun _ t =>
    t.cmdDone r [] (some (pad64 ((Config.wire "MD_STAT"
      [leBytes 4 t.mdl.st, leBytes 8 (t.quota r.part), leBytes 8 (t.poolUsed r.part), leBytes 8 t.mdl.fetchCnt.toNat, leBytes 4 t.mdl.waitCnt.toNat,
       leBytes 4 t.mdl.rebuildCnt.toNat, leBytes 4 t.dram.evictCnt.toNat, leBytes 4 t.mdl.seqs.length]).take 4032)))) s

/-! ### Writing to an entry's context (R371, R375, R378) -/

/-- Write to the scratchpad of a core of a context, live or saved. -/
def State.ctxPoke (s : State) (x c a : Nat) (bs : Bytes) : State :=
  match s.ctx? x with
  | none => s
  | some cx =>
    match lget cx.images c with
    | some g => s.modCtx x fun y => { y with images := lset y.images c { g with spm := wrBytes g.spm a bs } }
    | none => if (s.core c).bound && (s.core c).ctx.toNat == x then s.modArch c fun y => { y with spm := wrBytes y.spm a bs } else s

/-- The KV entries of a core, with their places in the layout. -/
def ModelS.kvOn (m : ModelS) (g : Nat) : List (Nat × Nat × Nat) := (m.kvl.zipIdx).filterMap fun e => if e.1.1 == g then some (e.2, e.1.1, e.1.2) else none

/-- Write the KV table of a sequence: the own-channel address of each of its KV runs (R375). -/
def State.writeKvt (s : State) (e : MdEntry) (q : SeqSt) : State :=
  match e.ctx with
  | none => s
  | some x =>
    e.cores.foldl (fun t g =>
      let on := t.mdl.kvOn g
      (on.zipIdx).foldl (fun t k =>
        match t.dram.alloc.find? (·.use == .kvRun q.id k.1.1) with
        | none => t
        | some a => t.ctxPoke x g (e.kvt + 8 * (q.slot * on.length + k.2)) (leBytes 8 (0x10000000 + a.off))) t) s

/-- Whether an entry's context has started. -/
def State.entryUp (s : State) (e : MdEntry) : Bool :=
  match e.ctx.bind s.ctx? with
  | none => false
  | some cx => cx.started

/-! ### SEQUENCE_ENTRY (R374, R375, R381) -/

/-- Weight of a partition at the entry points (R374). -/
def ModelS.weightOf (m : ModelS) (p : Nat) : Nat := if m.part = p then 255 else ((m.grants.find? (·.part == p)).map (·.weight)).getD 1

/-- The generate requests that wait for a slot of an entry, in admission order. -/
def State.genWaiting (s : State) (e : Nat) : List Cmd :=
  ((s.runningOf 0x64).filter fun c => genEntry c == e && ! s.mdl.seqs.any (·.ref == c.ref)).mergeSort fun a b => a.adm ≤ b.adm

/-- Allocate a sequence's KV runs, all or none. -/
def State.kvAlloc (s : State) (id toks : Nat) : List (Nat × Nat) → Nat → Option State
  | [], _ => some s
  | (g, b) :: r, i =>
    match s.poolAlloc s.mdl.part g (toks * b) .kv (.kvRun id i) with
    | none => none
    | some t => State.kvAlloc t id toks r (i + 1)

/-- Tokens of two lists that agree from the start. -/
def agree : List Nat → List Nat → Nat
  | a :: x, b :: y => if a = b then agree x y + 1 else 0
  | _, _ => 0

/-- Retained KV that is still whole. -/
def State.keptWhole (s : State) (k : Kept) : Bool :=
  (List.range s.mdl.kvl.length).all fun i => ((s.mdl.kvl[i]?).map (·.2)).getD 0 == 0 || s.dram.alloc.any fun a => a.use == .kvRun k.seq i

/-- The retained KV that a request resumes from, where it is whole. -/
def State.resumes (s : State) (c : Cmd) : Option Kept :=
  if genResume c then (s.mdl.kept.find? fun k => k.handle == genHandle c && k.part == c.ref.part).bind fun k => if s.keptWhole k then some k else none
  else none

/-- Copy the KV of a prefix from retained runs into a sequence's own, in whole groups of 32 tokens (log 28). False where a line of it is
uncorrectable. -/
def State.kvCopy (s : State) (src dst toks : Nat) : State × Bool :=
  (s.mdl.kvl.zipIdx).foldl (fun (acc : State × Bool) e =>
    match acc.1.dram.alloc.find? (·.use == .kvRun src e.2), acc.1.dram.alloc.find? (·.use == .kvRun dst e.2) with
    | some a, some b =>
      (match acc.1.dramRead a.chan a.off (cdiv toks 32 * 32 * e.1.2) with
      | (u, some bs) => ((u.dramWrite b.chan b.off bs).1, acc.2)
      | (u, none) => (u, false))
    | _, _ => acc) (s, true)

/-- A sequence uses retained KV, which touches it (R364, R381). -/
def State.keptUse (s : State) (k : Kept) (r : CmdRef) : State :=
  let t := s.modMdl fun m => { m with kept := m.kept.map fun x => if x.handle == k.handle then { x with user := some r, time := s.sys.now } else x }
  t.modDram fun d => { d with alloc := d.alloc.map fun a => match a.use with
    | .kvRun i _ => if i == k.seq then { a with touch := s.sys.now } else a
    | _ => a }

/-- A request takes a slot; none where its reservation does not fit, or the handle it resumes is in use. -/
def State.seqEnter (s : State) (e : MdEntry) (c : Cmd) : Option State :=
  let toks := genReserve c
  let id := s.mdl.nextSeq
  let used := ((s.dram.alloc.filter fun a => a.cls == .kv).map (·.len)).sum
  match (List.range e.maxSeq).find? fun k => ! s.mdl.seqs.any fun q => q.entry == e.no && q.slot == k with
  | none => none
  | some slot =>
    if s.mdl.kvMb * 0x100000 < used + s.mdl.kvBytes toks then none
    else if ((s.resumes c).bind (·.user)).isSome then none
    else
      match s.kvAlloc id toks s.mdl.kvl 0 with
      | none => none
      | some t =>
        let prompt := (List.range (genTok c)).map fun i => fld c.data (64 + 4 * i) 4
        let (t, kept, reused) : State × Option Kept × Nat := match t.resumes c with
          | none => (t, none, 0)
          | some k =>
            let n := min (agree prompt k.toks) (prompt.length - 1)
            match t.kvCopy k.seq id n with
            | (u, true) => (u, some k, n)
            | (u, false) => (u.keptDrop k.handle, none, 0)
        let q : SeqSt := {
          id := id, ref := c.ref, entry := e.no, slot := slot, prompt := prompt, maxNew := genMax c, retain := genRetain c
          stop := (List.range (genNstop c)).map fun i => fld c.data (0x20 + 4 * i) 4, topk := fld c.data 0xC 4 % 2 ^ 13, temp := fld c.data 0x10 4
          seed := fld c.data 0x18 8, filled := reused, reused := reused, order := t.mdl.nextOrder }
        let u := match kept with
          | none => t
          | some k => t.keptUse k c.ref
        let v := u.modMdl fun m => { m with
          seqs := m.seqs ++ [q], nextSeq := id + 1, nextOrder := m.nextOrder + 1
          fresh := if u.entryUp e then m.fresh else setIns m.fresh e.no, taken := mmod 0 m.taken (e.no * 16 + c.ref.part) (· + 1) }
        some (if u.entryUp e then v.writeKvt e q else v)

/-- SEQUENCE_ENTRY: the next waiting request of an entry, by weighted round robin among partitions and admission order within one, takes a slot. -/
def execSequenceEntry (e : Nat) (s : State) : Out :=
  guardUnit (entryOk e) <|
    match s.mdEntry? e with
    | none => .next s
    | some x =>
      if ! s.serves 0x64 || (s.mdl.st != 2 && s.mdl.st != 4) then .next s
      else
        let heads := ((List.range 16).filterMap fun p => (s.genWaiting e).find? (·.ref.part == p))
        let left (m : ModelS) (c : Cmd) : Bool := decide (mget 0 m.taken (e * 16 + c.ref.part) < m.weightOf c.ref.part)
        let fits := heads.filter fun c => (s.seqEnter x c).isSome
        let t := if fits.any (left s.mdl) then s
          else s.modMdl fun m => { m with taken := (List.range 16).foldl (fun a p => mset 0 a (e * 16 + p) 0) m.taken }
        match fits.find? (left t.mdl) with
        | none => .next s
        | some c => .next ((t.seqEnter x c).getD t)

/-! ### Steps (R376 to R380) -/

/-- The tokens whose KV a sequence must hold before it decodes: its prompt, and after a loss the tokens it has generated but the last (R384). -/
def SeqSt.target (q : SeqSt) : List Nat := q.prompt ++ q.gen.dropLast
def SeqSt.decoding (q : SeqSt) : Bool := q.filled == q.target.length && q.gen != []

/-- The sequences of an entry that may take part in a step, in order of entry. -/
def ModelS.seqsOf (m : ModelS) (e : Nat) : List SeqSt :=
  (m.seqs.filter fun q => q.entry == e && ! q.lost && ! q.stopped).mergeSort fun a b => a.order ≤ b.order

/-- The items of an entry that wait for a step, in order of entry. -/
def ModelS.itemsOf (m : ModelS) (e : Nat) : List Item := (m.items.filter fun i => i.entry == e && i.out.isNone).mergeSort fun a b => a.order ≤ b.order

/-- A sequence's next prefill chunk (R376, R377). -/
def SeqSt.chunk (q : SeqSt) (n : Nat) : StepSlot :=
  let ts := (q.target.drop q.filled).take n
  { seq := q.id, item := none, kind := if q.gen = [] ∧ q.filled + ts.length = q.prompt.length then 2 else 1, pos := q.filled, toks := ts }

/-- Chunks, while the step's tokens stay within the budget; the first one whatever the count where `must`. -/
def addChunks (chunk budget : Nat) : List SeqSt → Nat → Bool → List StepSlot
  | [], _, _ => []
  | q :: r, n, must =>
    let c := q.chunk chunk
    if n + c.toks.length ≤ budget ∨ must then c :: addChunks chunk budget r (n + c.toks.length) false else []

/-- The slot records of the next step of an entry (R376, R380). -/
def ModelS.formStep (m : ModelS) (e : MdEntry) : List StepSlot :=
  if e.kind = 0 then
    let qs := m.seqsOf e.no
    let dec := (qs.filter (·.decoding)).map fun q =>
      { seq := q.id, item := none, kind := 0, pos := q.filled, toks := [q.gen.getLastD 0] : StepSlot }
    dec ++ addChunks m.chunk m.budget (qs.filter fun q => decide (q.filled < q.target.length)) dec.length true
  else ((m.itemsOf e.no).take e.maxSeq).map fun i => { seq := 0, item := some (i.ref, i.idx), kind := 3, pos := 0, toks := [] : StepSlot }

/-- Entries whose clusters meet those of an entry. -/
def ModelS.rivals (m : ModelS) (e : MdEntry) : List MdEntry := m.entries.filter fun x => x.no != e.no && x.clus.any e.clus.contains

/-- Whether it is an entry's turn: no rival steps, and in the rotation by number after the one of them that stepped last it comes first among
those with work (R380). -/
def ModelS.turn (m : ModelS) (e : MdEntry) : Bool :=
  let rs := m.rivals e
  let last := (m.stepped.find? fun n => n == e.no || rs.any (·.no == n)).getD 255
  let rank (n : Nat) : Nat := (n + 256 - last - 1) % 256
  (rs.all fun x => (lget m.steps x.no).isNone) && rs.all fun x => m.formStep x == [] || decide (rank e.no < rank x.no)

/-- The bytes of an item, wherever it stands in the list. -/
def ModelS.itemData (m : ModelS) (i : CmdRef × Nat) : Bytes := ((m.items.find? fun x => x.ref == i.1 && x.idx == i.2).map (·.data)).getD []

/-- The step area (Table 9.9): `base` is the address of the result area, items stand from `items` on. -/
def ModelS.stepArea (m : ModelS) (e : MdEntry) (slots : List StepSlot) (base items stride : Nat) : Bytes :=
  let toks := slots.flatMap (·.toks)
  let one (acc : Bytes × Nat × Nat) (x : StepSlot) : Bytes × Nat × Nat :=
    let q := m.seqs.find? (·.id == x.seq)
    match x.item with
    | some i =>
      let d := m.itemData i
      (acc.1 ++ leBytes 4 (768 + acc.2.1 % 256) ++ leBytes 4 0 ++ leBytes 4 d.length ++ zeros 12 ++ leBytes 8 acc.2.2, acc.2.1 + 1, acc.2.2 + up64 d.length)
    | none =>
      (acc.1 ++ leBytes 4 (((q.map (·.slot)).getD 0) + 256 * x.kind) ++ leBytes 4 x.pos ++ leBytes 4 x.toks.length ++ leBytes 4 acc.2.1 ++
        leBytes 4 ((q.map (·.temp)).getD 0) ++ leBytes 4 ((q.map (·.topk)).getD 0) ++ leBytes 8 ((q.map (·.seed)).getD 0), acc.2.1 + x.toks.length, acc.2.2)
  let recs := (slots.foldl one ([], 0, items)).1
  let head := leBytes 8 (mget 0 m.stepNo e.no) ++ leBytes 2 slots.length ++ leBytes 2 toks.length ++ zeros 4 ++ leBytes 8 base ++ leBytes 4 stride ++ zeros 36
  padTo 64 (head ++ recs) ++ toks.flatMap (leBytes 4)

/-- GEN_STEP_START: the step is formed, its area is written in every cluster of the entry, STEP_TK is posted on every core (R376, R378, R380). -/
def execGenStepStart (e : Nat) (s : State) : Out :=
  guardUnit (entryOk e) <|
    match s.mdEntry? e with
    | none => .next s
    | some x =>
      let slots := s.mdl.formStep x
      match x.ctx with
      | none => .next s
      | some cx =>
        if ! s.serves 0x64 || (s.mdl.st != 2 && s.mdl.st != 4) || slots == [] || (lget s.mdl.steps e).isSome || ! s.entryUp x || ! s.mdl.turn x then .next s
        else
          let stride := up64 x.resBytes
          let data := slots.filterMap fun k => k.item.map s.mdl.itemData
          let g := x.cores.headD 0
          let rlen := slots.length * stride
          match s.poolAlloc s.mdl.part g (rlen + (data.map fun d => up64 d.length).sum) .state (.model (e + 1)) with
          | none => .next s
          | some t =>
            match t.dram.alloc.find? (·.use == .model (e + 1)) with
            | none => .next s
            | some a =>
              let base := 0x10000000000 + g * 0x80000000 + a.off
              let u := (t.dramWrite g (a.off + rlen) (data.flatMap pad64)).1
              let v := if u.mdl.fresh.contains e then (u.mdl.seqs.filter (·.entry == e)).foldl (fun u q => u.writeKvt x q) u else u
              let area := v.mdl.stepArea x slots base (base + rlen) stride
              let w := x.clus.foldl (fun w k => w.modClu k fun y => { y with spm := wrBytes y.spm x.stepArea area }) v
              let z := w.modMdl fun m => { m with
                steps := lset m.steps e { slots := slots, result := base, stride := stride }, stepped := e :: setDel m.stepped e, fresh := setDel m.fresh e
                travs := if (lget m.travs e).isSome then m.travs.map fun v => if v.1 == e then (e, { v.2 with begun := false }) else v
                  else lset m.travs e {} }
              .next (x.cores.foldl (fun z c => z.postCtx cx c x.stepTk 1) z)

/-! ### STEP_DONE (R377 to R381) -/

/-- Take the first mark of a core, if it is this one. -/
def State.takeMark (s : State) (c code leg : Nat) : Option State :=
  match s.sched.marks.find? (·.1 == c) with
  | none => none
  | some m => if m.2.1 = code ∧ (code = 0xFE04 ∨ m.2.2 = leg) then some (s.modSched fun d => { d with marks := d.marks.erase m }) else none

/-- The entry whose context is on a core. -/
def State.entryOn (s : State) (c : Nat) : Option MdEntry :=
  match (s.ctxOn c).bind s.ctx? with
  | none => none
  | some cx => match cx.kind with
    | .entry e => s.mdEntry? e
    | _ => none

/-- Keep a finished sequence's KV under a new handle; of 4,096 the oldest goes (R381, Table 9.6). -/
def State.keepKv (s : State) (q : SeqSt) : State × Nat :=
  let h := s.mdl.nextHandle
  let t := if s.mdl.kept.length < 4096 then s else
    match s.mdl.kept.foldl (fun (b : Option Kept) k => match b with
      | none => some k
      | some y => if k.time < y.time || (k.time == y.time && decide (k.handle < y.handle)) then some k else some y) none with
    | none => s
    | some k => s.keptDrop k.handle
  let u := t.modDram fun d => { d with alloc := d.alloc.map fun a => match a.use with
    | .kvRun i _ => if i == q.id then { a with cls := .retained, touch := s.sys.now } else a
    | _ => a }
  (u.modMdl fun m => { m with
    kept := m.kept ++ [{ handle := h, part := q.ref.part, toks := q.target, seq := q.id, time := s.sys.now }], nextHandle := (h + 1) % 2 ^ 32 }, h)

/-- A sequence finishes: its answer (Table 9.8), its slot and its KV. -/
def State.seqFinish (s : State) (q : SeqSt) (reason : Nat) : State :=
  let (t, h) := if q.retain then s.keepKv q else (s, 0)
  let u := if q.retain then (t.modMdl fun m => { m with seqs := m.seqs.filter (·.id != q.id) }).keptRelease q.ref else t.seqDrop q
  let body := leBytes 4 q.gen.length ++ leBytes 4 reason ++ leBytes 4 h ++ leBytes 4 q.reused ++ leBytes 4 q.rebuilt ++ zeros 4 ++ leBytes 8 q.steps ++ zeros 32 ++
    q.gen.flatMap (leBytes 4)
  u.cmdDone q.ref [] (some body)

/-- Why a sequence leaves, if it does (R377). -/
def SeqSt.finished (q : SeqSt) (maxIn : Nat) : Option Nat :=
  if q.maxNew ≤ q.gen.length then some 0
  else if q.gen != [] ∧ q.stop.contains (q.gen.getLastD 0) then some 1
  else if maxIn ≤ q.prompt.length + q.gen.length then some 2 else none

def State.modSeq (s : State) (id : Nat) (f : SeqSt → SeqSt) : State := s.modMdl fun m => { m with seqs := m.seqs.map fun q => if q.id == id then f q else q }

/-- What a slot record of a step that has ended does: a token is added, a chunk filled, an item has its result. `res` is its result. -/
def State.slotEnd (s : State) (e : MdEntry) (x : StepSlot) (res : Bytes) : State :=
  match x.item with
  | some i => s.modMdl fun m => { m with items := m.items.map fun y => if y.ref == i.1 && y.idx == i.2 then { y with out := some (res.take e.resBytes) } else y }
  | none =>
    let t := s.modSeq x.seq fun q => { q with
      filled := q.filled + x.toks.length, steps := q.steps + 1, gen := if x.kind = 0 ∨ x.kind = 2 then q.gen ++ [fld res 0 4] else q.gen }
    match t.mdl.seqs.find? (·.id == x.seq) with
    | none => t
    | some q => match q.finished e.maxIn with
      | none => t
      | some why => if q.stopped then t else t.seqFinish q why

/-- Answer the MD_ENCODE and MD_RANK commands whose items all have their results (11 R450). -/
def State.itemAnswers (s : State) : State :=
  s.host.cmds.foldl (fun t c =>
    if (c.opcode == 0x65 || c.opcode == 0x66) && c.phase == .running then
      let mine := t.mdl.items.filter (·.ref == c.ref)
      if mine != [] && mine.all (·.out.isSome) then
        (t.modMdl fun m => { m with items := m.items.filter (·.ref != c.ref) }).cmdDone c.ref []
          (some ((mine.mergeSort fun a b => a.idx ≤ b.idx).flatMap fun i => pad64 (i.out.getD [])))
      else t
    else t) s

/-- Sequences stopped by an abort leave at a step boundary (R382). -/
def State.stoppedLeave (s : State) (e : Nat) : State := (s.mdl.seqs.filter fun q => q.entry == e && q.stopped).foldl State.seqDrop s

/-- Read the results of a step; none where a line of them is uncorrectable. -/
def State.readResults (s : State) (p : StepRun) : List StepSlot → Nat → State × Option (List Bytes)
  | [], _ => (s, some [])
  | _ :: r, i =>
    let a := p.result - 0x10000000000 + i * p.stride
    match s.dramRead (a / 0x80000000) (a % 0x80000000) p.stride with
    | (t, none) => (t, none)
    | (t, some b) =>
      match State.readResults t p r (i + 1) with
      | (u, none) => (u, none)
      | (u, some bs) => (u, some (b :: bs))

/-- STEP_DONE: the step ends with its results (R378). -/
def execStepDone (c : Nat) (s : State) : Out :=
  guardUnit (coreOk c) <|
    match s.entryOn c, s.takeMark c 0xFE04 0 with
    | some e, some t =>
      (match lget t.mdl.steps e.no with
      | none => .next t
      | some p =>
        match t.readResults p p.slots 0 with
        | (u, none) => .next (u.entryAgain e.no)
        | (u, some rs) =>
          let v := (u.stepDrop e.no).modMdl fun m => { m with stepNo := mmod 0 m.stepNo e.no (· + 1) }
          let w := (p.slots.zip rs).foldl (fun w x => w.slotEnd e x.1 x.2) v
          .next ((w.stoppedLeave e.no).itemAnswers))
    | _, _ => .next s

/-! ### Route marks and runs (R369 to R373, R383, R386) -/

/-- The cores that own the channels of a leg's entries. -/
def ModelS.legCores (m : ModelS) (e leg : Nat) : List Nat :=
  (((m.sheetOf e).ents.filter (·.leg == leg)).map fun x => ((m.runs[x.run]?).map (·.chan)).getD 0).dedup

/-- A leg with a demand entry. -/
def ModelS.demandLeg (m : ModelS) (e leg : Nat) : Bool := (m.sheetOf e).ents.any fun x => x.leg == leg && x.cls == 2

/-- Fetch a leg for an entry's traversal: its resident runs are pinned now (R371). A leg that the traversal holds is not fetched again. -/
def State.fetchLeg (s : State) (e leg : Nat) : State :=
  match lget s.mdl.travs e with
  | none => s
  | some v =>
    if v.legs.any (·.leg == leg) then s
    else
      let due := (((s.mdl.sheetOf e).ents.zipIdx).filter fun x => x.1.leg == leg).map (·.2)
      if due = [] then s
      else
        let l : LegFetch := { leg := leg, due := due, holders := s.mdl.legCores e leg }
        let t := s.modMdl fun m => { m with travs := lset m.travs e { v with legs := v.legs ++ [l] } }
        (((s.mdl.sheetOf e).ents.filter (·.leg == leg)).map (·.run)).foldl State.pinRun t

/-- LEAD; 0 acts as 1. -/
def State.leadOf (s : State) : Nat := max 1 s.mdl.lead.toNat

/-- BEGIN: the stream legs ahead are fetched, and on the first BEGIN of a traversal the leg itself; a leg that has not yet posted counts. -/
def execBegin (c leg : Nat) (s : State) : Out :=
  guardUnit (coreOk c) <|
    match s.entryOn c, s.takeMark c 0xFE01 leg with
    | some e, some t =>
      (match lget t.mdl.travs e.no with
      | none => .next t
      | some v =>
        let n := max 1 (t.mdl.sheetOf e.no).legs
        let late := ! v.legs.any fun l => l.leg == leg && l.due == []
        let t := if late then t.modMdl fun m => { m with waitCnt := satBv m.waitCnt 1 } else t
        let t := if v.begun || t.mdl.demandLeg e.no leg then t else t.fetchLeg e.no leg
        let ahead := ((List.range t.leadOf).map fun i => (leg + 1 + i) % n).filter fun l => ! t.mdl.demandLeg e.no l
        let t := ahead.foldl (fun t l => t.fetchLeg e.no l) t
        .next (t.modMdl fun m => { m with travs := m.travs.map fun w => if w.1 == e.no then (w.1, { w.2 with begun := true }) else w }))
    | _, _ => .next s

/-- DEMAND: a demand leg is fetched now. -/
def execDemand (c leg : Nat) (s : State) : Out :=
  guardUnit (coreOk c) <|
    match s.entryOn c, s.takeMark c 0xFE02 leg with
    | some e, some t => .next (t.fetchLeg e.no leg)
    | _, _ => .next s

/-- RELEASE: a core has finished with a leg; when every core of the leg has, its runs are unpinned (R372). -/
def execRelease (c leg : Nat) (s : State) : Out :=
  guardUnit (coreOk c) <|
    match s.entryOn c, s.takeMark c 0xFE03 leg with
    | some e, some t =>
      (match lget t.mdl.travs e.no with
      | none => .next t
      | some v =>
        let legs := (v.legs.map fun l => if l.leg == leg then { l with holders := setDel l.holders c } else l)
        let gone := (legs.filter fun l => l.holders == []).map (·.leg)
        let u := t.modMdl fun m => { m with travs := lset m.travs e.no { v with legs := legs.filter fun l => l.holders != [] } }
        let rs := (((u.mdl.sheetOf e.no).ents.filter fun x => gone.contains x.leg).map (·.run)).dedup
        .next (rs.foldl State.unpinRun u))
    | _, _ => .next s

/-- DEGRADED with its event (R367, R386): cause 0 for a pool too small, 1 for an unreadable tile page (log 29). -/
def State.degrade (s : State) (cause : Nat) : State :=
  (s.modMdl fun m => { m with degraded := true }).raise .tir 0 0x7005 (words [s.mdl.part, cause])

/-- A step that needs an unreadable tile page: its requests fail, its context starts afresh (R386, log 27). -/
def State.stepUnreadable (s : State) (e u : Nat) : State :=
  let t := (s.degrade 1).stepFail e 0x11 0x11 (leBytes 8 u)
  match (t.mdEntry? e).bind (·.ctx) with
  | none => t
  | some x => match t.ctx? x with
    | none => t
    | some cx => t.ctxAgain x cx

/-- Whether the posts of a leg may be made: legs of the same kind fetched before it have made theirs (R371). -/
def ModelS.legFirst (m : ModelS) (e : Nat) (v : Trav) (leg : Nat) : Bool :=
  (v.legs.takeWhile (·.leg != leg)).all fun l => l.due == [] || m.demandLeg e l.leg != m.demandLeg e leg

/-- RUN_FETCH_DONE: entry i of a sheet, due for a leg: its run is read where it is not resident, its address is written to ADDR_SLOT, and the
ready token posted. Without room in the channel it waits (R371, R373). -/
def execRunFetchDone (e leg i : Nat) (s : State) : Out :=
  guardUnit (entryOk e) <|
    match s.mdEntry? e, lget s.mdl.travs e, (s.mdl.sheetOf e).ents[i]? with
    | some x, some v, some ent =>
      if ! s.serves 0x64 || ent.leg != leg || ! (v.legs.any fun l => l.leg == leg && l.due.contains i) || ! s.mdl.legFirst e v leg then .next s
      else
        match s.mdl.runs[ent.run]?, x.ctx with
        | some r, some cx =>
          (match (if s.dram.alloc.any (·.use == .run ent.run) then some (s.pinRun ent.run, none) else s.fetchRun ent.run r) with
          | none => .next s
          | some (t, some u) => .next (t.stepUnreadable e u)
          | some (t, none) =>
            let off := ((t.dram.alloc.find? (·.use == .run ent.run)).map (·.off)).getD 0
            let u := t.modMdl fun m => { m with travs := lset m.travs e { v with
              legs := v.legs.map fun l => if l.leg == leg then { l with due := setDel l.due i } else l } }
            .next ((u.ctxPoke cx r.chan ent.slot (leBytes 8 (0x10000000 + off))).postCtx cx r.chan ent.tk 1))
        | _, _ => .next s
    | _, _, _ => .next s

/-- KV_REBUILD: a sequence whose KV is lost runs its prompt and its generated tokens through prefill again (R384). -/
def execKvRebuild (e slot : Nat) (s : State) : Out :=
  guardUnit (entryOk e) <|
    match s.mdl.seqs.find? fun q => q.entry == e && q.slot == slot && q.lost with
    | none => .next s
    | some q =>
      if ! s.serves 0x64 then .next s
      else .next ((s.modSeq q.id fun x => { x with lost := false, filled := 0, rebuilt := x.rebuilt + 1 }).modMdl fun m => { m with
        rebuildCnt := satBv m.rebuildCnt 1 })

/-- An abort of a request that runs: a sequence is stopped, and leaves at the next step boundary; items go (R382). -/
def State.genStop (s : State) (r : CmdRef) : State :=
  match s.mdl.seqs.find? (·.ref == r) with
  | none => s
  | some q =>
    let t := s.modSeq q.id fun x => { x with stopped := true }
    if (lget s.mdl.steps q.entry).isSome then t else t.stoppedLeave q.entry
def State.itemsStop (s : State) (r : CmdRef) : State := s.modMdl fun m => { m with items := m.items.filter (·.ref != r) }

/-- One pinned run of a channel becomes a stream run: the one of the highest leg (R367). -/
def State.turnRun (s : State) (g : Nat) : Option State :=
  let rs := (s.mdl.runs.zipIdx).filter fun r => r.1.chan == g && r.1.pinned && s.dram.alloc.any fun a => a.use == .run r.2 && a.chan == g
  match rs.foldl (fun (b : Option (Run × Nat)) r => match b with
    | none => some r
    | some y => if y.1.leg < r.1.leg then some r else some y) none with
  | none => none
  | some (_, i) =>
    some ((s.modMdl fun m => { m with
      runs := m.runs.modify i fun r => { r with pinned := false }
      sheets := m.sheets.map fun h => { h with ents := h.ents.map fun x => if x.run == i && x.cls == 0 then { x with cls := 1 } else x } }).unpinRun i)

/-- A channel's pool share has shrunk below its unevictable allocations: pinned runs become stream runs until the rest fit. -/
def State.shrink (g : Nat) : Nat → State → State
  | 0, s => s
  | n + 1, s =>
    if (((s.allocsOf g).filter fun a => ! a.evictable).map (·.len)).sum ≤ s.poolShare g then s
    else
      match s.turnRun g with
      | none => s
      | some t => State.shrink g n t

/-- Where runs have been turned since a state, DEGRADED is set, with its event (R367). -/
def State.turnedSince (s s0 : State) : State := if s.mdl.runs = s0.mdl.runs then s else s.degrade 0

end Sys2Proof.Machine
end

