-- ==== Sys2Proof/Machine/Repair.lean ====
section
/-! DEFINITION. Resurvey, the ECC page's tests, retirement of DRAM, failed cores, stacks, channel dies and hubs (13 R545 to R574; 01 R33). -/

namespace Sys2Proof.Machine

def State.modEcc (s : State) (f : Ecc → Ecc) : State := { s with ecc := f s.ecc }

/-! ### Holders of uncorrectable lines (R545, Table 13.1) -/

/-- The row whose home slot, or whose way, is slot k of channel j of a version. -/
def Table.homeRow (t : Table) (no j k : Nat) : Option Nat :=
  if t.backed then (match mget 0 (t.ver no).ways (wayKey j k) with
    | 0 => none
    | r + 1 => some r)
  else if t.homeSlots ≤ k then none
  else ((List.range t.n).map (k * t.n + ·)).find? fun r => decide (r < t.rows) && t.homeChan r == j

/-- The row and copy that stand in a slot. -/
def Table.slotOwner (t : Table) (no j k : Nat) : Option (Nat × Copy) :=
  match t.homeRow no j k with
  | some r => ((t.copiesAt no r t.seq).find? fun c => c.chan == j && c.slot == homeMark).map fun c => (r, c)
  | none => (t.ver no).fwd.findSome? fun f => (f.copies.find? fun c => c.chan == j && c.slot == k).map fun c => (f.row, c)

/-- An Atlas slot is lost: its row becomes missing, a clean row of a backed table is read again, a replica or a copy on its way goes (07 R296,
R315). -/
def State.atlasLost (s : State) (a : Alloc) (off key : Nat) : State :=
  let tk := key / 2 ^ 32
  let no := key % 2 ^ 32
  match s.tab? tk with
  | none => s
  | some t =>
    let j := t.place.idxOf a.chan
    let k := (off - a.off) / max 1 t.slotSize
    match t.moves.find? fun m => no == t.cur && m.chan == j && m.slot == k with
    | some m => (s.dropMove tk m).moveEnd tk m 0x45
    | none =>
      match t.slotOwner no j k with
      | none => s
      | some (r, c) =>
        if (t.copiesAt no r t.seq).head? == some c then
          if t.backed && ! (t.ver no).dirty.contains r then s.modVer tk no fun v => { v with ways := mset 0 v.ways (wayKey j k) 0 }
          else s.loseRow tk no r t
        else if c.inEffect t.seq then s.dropReplica tk no r c else s

/-- A state slot is lost: its row keeps its value, its state starts again, with an event (08 R321). -/
def State.stateLost (s : State) (a : Alloc) (off key : Nat) : State :=
  let tk := key / 2 ^ 32
  let no := key % 2 ^ 32
  match s.tab? tk with
  | none => s
  | some t =>
    if t.stateSize = 0 then s
    else
      let j := t.place.idxOf a.chan
      let k := (off - a.off) / t.stateSize
      match t.slotOwner no j k with
      | none => s
      | some (r, c) =>
        if (t.copiesAt no r t.seq).head? == some c then
          (s.wrState tk no t j k (t.newState r)).raise (.atl 0) 0 0x7003 (words [tk / 256, tk % 256, r % 2 ^ 32, r / 2 ^ 32])
        else s

/-- A line that has another copy, or is rebuilt, is good again. -/
def State.mendLine (s : State) (g off : Nat) : State := s.modDram fun d => { d with bad := ldel d.bad (lineKey g (off / 64)) }

/-- What the holder of an uncorrectable line does (Table 13.1). A line of the answer window is seen to when it is next read (11 R433). -/
def State.ueHandle (s : State) (g off : Nat) : State :=
  match s.allocAt g off with
  | none => s
  | some a =>
    match a.use with
    | .atlas v => s.atlasLost a off v
    | .optState v => s.stateLost a off v
    | .freezeMap _ => s.mendLine g off
    | .staging _ => s.mendLine g off
    | .index _ => s.mendLine g off
    | .hotList ix l w => (s.dropAlloc a).modGz fun z => { z with ixs := z.ixs.map fun e => if e.1 == ix then (e.1, { e.2 with
        cached := e.2.cached.filter (· != (l, w)) }) else e }
    | .model 0 => s.mendLine g off
    | .model (e + 1) => (s.mendLine g off).entryAgain e
    | _ => s.ueArea g off

/-! ### Frames (R556 to R563) -/

def frameKey (g f : Nat) : Nat := g * 32768 + f
/-- The physical frame of a logical one, as the map alone has it. -/
def State.physFrame (s : State) (g lf : Nat) : Nat := (lget s.dram.frameMap (frameKey g lf)).getD lf
/-- The logical frame, in being, that a physical frame serves. -/
def State.logFrame (s : State) (g f : Nat) : Option Nat :=
  match s.dram.frameMap.find? fun e => e.1 / 32768 == g && e.2 == f && ! s.dram.absent.contains e.1 with
  | some e => some (e.1 % 32768)
  | none => if (lget s.dram.frameMap (frameKey g f)).isNone && ! s.dram.absent.contains (frameKey g f) then some f else none

/-- The highest-numbered free logical frame of a channel's pool share. -/
def State.freeFrame (s : State) (g : Nat) : Option Nat :=
  ((List.range (32768 - s.sysFramesOf g)).map (32767 - ·)).find? fun f => s.rangeFree g (f * 0x10000) 0x10000

/-- The oldest evictable run of a channel, whichever partition has it. -/
def State.anyVictim (s : State) (g : Nat) : Option Alloc :=
  match s.ownerClu (g / 8) with
  | none => none
  | some p => s.victim p g

/-- Find a donor frame, evicting and turning pinned runs where needed (R559 step 1, 09 R367). -/
def State.donor (g : Nat) : Nat → State → State × Option Nat
  | 0, s => (s, s.freeFrame g)
  | n + 1, s =>
    match s.freeFrame g with
    | some f => (s, some f)
    | none =>
      match s.anyVictim g with
      | some a => State.donor g n (s.evict a)
      | none =>
        match s.turnRun g with
        | none => (s, none)
        | some t => State.donor g n t

/-- Take a donor: it becomes absent; its physical frame is the answer. -/
def State.takeDonor (s : State) (g : Nat) : State × Option Nat :=
  match State.donor g (2 * (s.allocsOf g).length + 1) s with
  | (t, none) => (t.turnedSince s, none)
  | (t, some d) =>
    ((State.shrink g t.mdl.runs.length (t.modDram fun x => { x with absent := setIns x.absent (frameKey g d) })).turnedSince s, some (t.physFrame g d))

/-- Copy the lines of a logical frame for a retirement: corrections are counted, uncorrectable lines stay so in the new frame, and their holders
see to them (R545, R559). -/
def State.copyLines (g : Nat) (s : State) : List Nat → State
  | [] => s
  | l :: r =>
    match s.getLine g l with
    | (t, some _) => State.copyLines g t r
    | (t, none) =>
      let k := lineKey g l
      let data := ((lget t.dram.bad k).map (·.data)).getD (rdBytes t.dram.mem (k * 64) 64)
      let u := t.modDram fun d => { d with bad := lset d.bad k { data := data, chk := (rsCheck data).map fun b => b ^^^ 0xFF, noPromise := false } }
      State.copyLines g (u.ueHandle g (l * 64)) r

/-- Results of a retirement, as ECC_RET_STS codes them. -/
def retDone : Nat := 0
def retInvalid : Nat := 1
def retNoDonor : Nat := 2
def retWrongMode : Nat := 3
def retAlready : Nat := 4
def retWithdrawn : Nat := 5

/-- Retire a physical frame (R559). -/
def State.retireFrame (s : State) (g f : Nat) : State × Nat :=
  if 640 ≤ g ∨ 32768 ≤ f then (s, retInvalid)
  else if s.dram.withdrawn.contains g then (s, retWithdrawn)
  else if s.dram.retired.contains (frameKey g f) then (s, retAlready)
  else
    match s.logFrame g f with
    | none => (s, retInvalid)
    | some lf =>
      match s.takeDonor g with
      | (t, none) => (t.modDram fun d => { d with waitRetire := if d.waitRetire.contains (g, f) then d.waitRetire else d.waitRetire ++ [(g, f)] }, retNoDonor)
      | (t, some p) =>
        let u := State.copyLines g t ((List.range 1024).map (lf * 1024 + ·))
        let v := u.modDram fun d => { d with
          frameMap := lset d.frameMap (frameKey g lf) p, retired := setIns d.retired (frameKey g f), waitRetire := d.waitRetire.filter (· != (g, f)) }
        (v.raise .ecc 0 0x4003 (words [g, f]), retDone)

/-- Retire a bank: 512 donors, and the bank's slice of every other frame redirected to a slice of a donor (R560). -/
def State.takeDonors (g : Nat) : Nat → State → List Nat → State × Option (List Nat)
  | 0, s, ds => (s, some ds)
  | n + 1, s, ds =>
    match s.takeDonor g with
    | (t, none) => (t, none)
    | (t, some d) => State.takeDonors g n t (ds ++ [d])

def State.retireBank (s : State) (g b : Nat) : State × Nat :=
  if 640 ≤ g ∨ 64 ≤ b then (s, retInvalid)
  else if s.dram.withdrawn.contains g then (s, retWithdrawn)
  else if s.dram.banks.contains (g * 64 + b) then (s, retAlready)
  else
    match State.takeDonors g 512 s [] with
    | (_, none) => (s.modDram fun d => { d with waitRetire := if d.waitRetire.contains (g, 32768 + b) then d.waitRetire else d.waitRetire ++ [(g, 32768 + b)] }, retNoDonor)
    | (t, some ds) =>
      let lines (f : Nat) : List Nat := match t.logFrame g f with
        | none => []
        | some lf => (List.range 16).map fun i => lf * 1024 + i * 64 + b
      let frames := (List.range 32768).filter fun f => ! ds.contains f && (t.logFrame g f).isSome
      let u := frames.foldl (fun u f => State.copyLines g u (lines f)) t
      let place (i : Nat) : Nat := (ds.getD (i / 63) 0) * 64 + (if i % 63 < b then i % 63 else i % 63 + 1)
      let v := u.modDram fun d => { d with
        slices := (frames.zipIdx).foldl (fun m e => lset m (frameKey g e.1 * 64 + b) (place e.2)) d.slices, banks := setIns d.banks (g * 64 + b)
        waitRetire := d.waitRetire.filter (· != (g, 32768 + b)) }
      (v.raise .ecc 0 0x4004 (words [g, b]), retDone)

/-- The records of a channel's last 24 h of local time, of this power-on (R558, log 101). -/
def State.recent (s : State) (g : Nat) : List LineRec := s.dram.recs.filter fun r => r.chan == g && ! r.old && decide (s.sys.now < r.time + 86400000000)

/-- Whether a frame is due for retirement; of a frame in a retired bank, the other banks count (R558). -/
def State.frameDue (s : State) (g f : Nat) : Bool :=
  let rs := (s.recent g).filter fun r => r.frame == f && ! s.dram.banks.contains (g * 64 + r.bank)
  rs.any (·.ue) || decide (max 1 (s.ecc.ceLimit.toNat % 256) ≤ ((rs.filter fun r => ! r.ue).map (·.line)).dedup.length)

/-- Whether a bank meets the bank test. -/
def State.bankDue (s : State) (g b : Nat) : Bool :=
  decide (max 1 (s.ecc.ceLimit.toNat / 256) ≤ (((s.recent g).filter (·.bank == b)).map (·.frame)).dedup.length)

/-- The module repairs its memory: it is powered and started, the firmware runs, and its DRAM is filled. -/
def State.repairs (s : State) : Bool := s.alive 5 && s.svy.run && ! s.svy.restart

/-- FRAME_RETIRE: a frame that is due, or that waited for a donor, is retired; in host-assisted mode the event that it is due is raised (R558,
R562). -/
def execFrameRetire (g f : Nat) (s : State) : Out :=
  guardUnit (chanOk g && frameOk f) <|
    if ! s.repairs || s.dram.retired.contains (frameKey g f) || s.dram.withdrawn.contains g || ! (s.frameDue g f || s.dram.waitRetire.contains (g, f)) then .next s
    else if s.hostMode .ecc && ! s.dram.waitRetire.contains (g, f) then .next (s.raise .ecc 0 0x4006 (words [g, f, 0]))
    else .next (s.retireFrame g f).1

/-- BANK_RETIRE: a bank that is due, or that waited for donors; a second one of a channel withdraws the channel instead, which CHANNEL_WITHDRAW does (R558, R561). -/
def execBankRetire (g b : Nat) (s : State) : Out :=
  guardUnit (chanOk g && bankOk b) <|
    if ! s.repairs || s.dram.withdrawn.contains g || ! (s.bankDue g b || s.dram.waitRetire.contains (g, 32768 + b)) || s.dram.banks.any (fun k => k / 64 == g) then .next s
    else if s.hostMode .ecc && ! s.dram.waitRetire.contains (g, 32768 + b) then .next (s.raise .ecc 0 0x4006 (words [g, b, 1]))
    else .next (s.retireBank g b).1

/-! ### Resurvey (R549 to R551) -/

/-- Retirements that wait for a donor are tried again after a pass (R559). -/
def State.retryRetire (s : State) : State :=
  s.dram.waitRetire.foldl (fun t e => if e.2 < 32768 then (t.retireFrame e.1 e.2).1 else (t.retireBank e.1 (e.2 - 32768)).1) s

/-- RESURVEY_VISIT: the line of the pass in channel g is read, which corrects it or finds it uncorrectable; after the last channel of the stack
the pass moves on (R549, log 31). -/
def execResurveyVisit (g : Nat) (s : State) : Out :=
  guardUnit (chanOk g) <|
    if ! s.alive 6 then .next s
    else
      let n := g / 32
      let l := (s.stack n).pos.toNat
      let t :=
        if s.dram.withdrawn.contains g || s.dram.absent.contains (frameKey g (l / 1024)) then s
        else match s.getLine g l with
          | (u, some _) => u
          | (u, none) => u.ueHandle g (l * 64)
      if g % 32 ≠ 31 then .next t
      else
        let u := t.modStack n fun k => { k with pos := k.pos + 1, passCnt := if l + 1 = 0x2000000 then satBv k.passCnt 1 else k.passCnt }
        .next (if l + 1 = 0x2000000 && u.repairs then u.retryRetire else u)

/-! ### Withdrawn cores (R570 to R572) -/

/-- The core in service that runs a withdrawn number: the next of the cluster, counting upward modulo 8 from the core that ran it. -/
def State.nextHost (s : State) (c : Nat) : Option Nat :=
  ((List.range 7).map fun i => c / 8 * 8 + (c % 8 + 1 + i) % 8).find? fun n => ! s.ecc.coreWd.contains n

/-- Give every withdrawn number of a cluster a host, where one is left. -/
def State.rehost (s : State) (k : Nat) : State :=
  (List.range 8).foldl (fun t j =>
    let n := k * 8 + j
    if t.ecc.coreWd.contains n && t.ecc.coreWd.contains (t.hostOf n) then
      match t.nextHost (t.hostOf n) with
      | some h => t.modEcc fun e => { e with host := lset e.host n h }
      | none => t.modEcc fun e => { e with host := ldel e.host n }
    else t) s

/-- The work on a core runs again: its context, or its filter invocation (06 R253, 10 R415, 11 R468). Work that needs a number left without a core
fails with status device failure. -/
def State.workAgain (s : State) (c : Nat) : State :=
  match s.ctxOn c with
  | some x =>
    (match s.ctx? x with
    | none => s
    | some cx =>
      match cx.kind with
      | .job =>
        if cx.cores.any s.numberDead then
          (match cx.cmd with
          | none => s.endCtx x cx
          | some r => (s.endCtx x cx).cmdFail r 0xFF [])
        else s.rerunCtx x cx 0
      | .entry e => s.entryAgain e
      | .index _ => s.ctxAgain x cx)
  | none =>
    match lget s.fch.invs c with
    | none => s
    | some v => (s.modCore c Core.scrubbed).modFch fun f => { f with
        invs := ldel f.invs c, reqs := f.reqs.filter (·.core != c)
        runs := f.runs.map fun x => if x.ref == v.ref then { x with again := lset x.again v.page c } else x }

/-- FL_RUNs with a page whose die has no flash-side core left fail (11 R468). -/
def State.flDeadRuns (s : State) : State :=
  s.fch.runs.foldl (fun t x => match t.cmd? x.ref with
    | none => t
    | some c => if t.flDead c (x.parts.map (·.page)) then (t.flDrop x.ref).cmdFail x.ref 0xFF [] else t) s

/-- The work of every number that a core holds runs again (R571). -/
def State.worksAgain (s : State) (ns : List Nat) : State := ns.foldl State.workAgain s

/-- Withdraw a core: the numbers it holds are hosted by others, their work runs again (R571). -/
def State.withdrawCore (s : State) (c : Nat) : State :=
  if s.ecc.coreWd.contains c then s
  else
    let t := s.modEcc fun e => { e with coreWd := e.coreWd ++ [c] }
    let u := if stackSide c then t.rehost (c / 8) else t
    ((u.worksAgain (s.sameHost c)).raise (.core c) 0 0x5003 (words [c, dieOf c])).flDeadRuns

/-- A core has failed: a spare core of the die takes its place, its memories filled with zeros; without a spare the core is withdrawn
(R570, R571). -/
def State.coreFailed (s : State) (c : Nat) : State :=
  if s.ecc.coreWd.contains c then s
  else
    let d := dieOf c
    let left := mget 0 s.ecc.spare d
    if left = 0 then s.withdrawCore c
    else
      let t := (s.modEcc fun e => { e with spare := mset 0 e.spare d (left - 1) }).worksAgain (s.sameHost c)
      let u := t.modCore c fun k => { k with arch := {}, patch := [], spmCe := 0 }
      u.raise (.core c) 0 0x5002 (words [c, d, left - 1])

/-- CORE_FAIL. -/
def execCoreFail (c : Nat) (s : State) : Out :=
  guardUnit (coreOk c) <| .next (if s.alive 6 then s.coreFailed c else s)

/-- Test the cores of a cluster one after another: what the test finds of each, the spec does not say, so that it is a free value; a core that fails is
replaced by a spare or withdrawn (R418, R570). The failed cores. -/
def State.testCores (s : State) (k : Nat) : State × List Nat :=
  (List.range 8).foldl (fun acc j =>
    let (n, t) := acc.1.takeFree
    let c := k * 8 + j
    if n % 2 = 1 ∧ ! t.ecc.coreWd.contains c then (t.coreFailed c, acc.2 ++ [c]) else (t, acc.2)) (s, [])

/-- ST_CLUSTER drains its cluster and saves the contexts on it; once they are saved, its cores are tested, its answer says of each whether it passed (0) or
was replaced (1) and how many spares its die has left, and the cluster is released (R418). The spec gives no layout of the answer (log 5). -/
def execStCluster (r : CmdRef) (s : State) : Out :=
  stepCmd r 0x72
    (fun c t =>
      let u := t.modSched fun d => { d with drained := setIns d.drained c.obj }
      (u.onCluster c.obj).foldl (fun v e => if e.2.place == .resident && e.2.todo == [] then v.preemptCtx e.1 e.2 else v) u)
    (fun c t =>
      if (t.onCluster c.obj).isEmpty then
        let (u, bad) := t.testCores c.obj
        let cores := (List.range 8).map fun j => leBytes 2 (c.obj * 8 + j) ++ [w8 (b2n (bad.contains (c.obj * 8 + j)))]
        (u.modSched fun d => { d with drained := setDel d.drained c.obj }).cmdDone r []
          (some ((Config.wire "ST_CLUSTER" (cores ++ [leBytes 1 (mget 0 u.ecc.spare (dieOfClu c.obj))])).take 4032))
      else
        (t.onCluster c.obj).foldl (fun v e => if e.2.place == .resident && e.2.todo == [] then v.preemptCtx e.1 e.2 else v) t) s

/-- A faulty line of a core scratchpad: a patch line serves it, and it becomes a pending repair; in a bank whose patch lines are all in use
the core has failed (R567). -/
def State.patchLine (s : State) (c line : Nat) : State :=
  let b := spmBank c (line * 64)
  let used := mget 0 (s.core c).patch b
  if used < 4 then
    (s.modCore c fun k => { k with patch := mset 0 k.patch b (used + 1) }).modEcc fun e => { e with pendRepair := e.pendRepair ++ [(c, line)] }
  else s.coreFailed c

/-- A faulty line of a cluster scratchpad: a patch line serves it, or its bank is withdrawn, which can then no longer be allotted (R567). -/
def State.patchClu (s : State) (k line : Nat) : State :=
  let b := cspmBank k (line * 64)
  let used := mget 0 (s.clu k).patch b
  if used < 4 then
    (s.modClu k fun y => { y with patch := mset 0 y.patch b (used + 1) }).modEcc fun e => { e with pendRepair := e.pendRepair ++ [(768 + k, line)] }
  else s.modClu k fun y => { y with wd := y.wd ||| BitVec.twoPow 16 b }

/-- TRANSPARENT_TEST: the region holds afterwards what it held (R568); a freeze holds the test, and PS3 and PS4 pause it. Whether a cell of the
region proves faulty, and in which of its four lines, is a free value. Regions number the core's scratchpad first, then that of its cluster, then its
other arrays, for which no rule says what a faulty cell changes (log 47). -/
def execTransparentTest (c region : Nat) (s : State) : Out :=
  guardUnit (coreOk c) <|
    let own := spmSize c / 256
    if ! s.alive 6 || s.asleep || s.ecc.coreWd.contains c then .next s
    else
      let (n, t) := s.takeFree
      let line (r : Nat) : Nat := r * 4 + n / 2 % 4
      .next (
        if n % 2 = 0 then t
        else if region < own then t.patchLine c (line region)
        else if region - own < cspmSize (clusterOf c) / 256 then t.patchClu (clusterOf c) (line (region - own))
        else t)

/-! ### Withdrawn channels and stacks (R561, R573, R574) -/

/-- Move a context's areas out of a channel, into that of the host core; without room its job fails, and its areas are gone. -/
def State.moveArea (s : State) (a : Alloc) (c : Nat) : State :=
  let t := s.dropAlloc a
  if t.numberDead c then t else (t.poolAlloc a.part (t.areaChan c) a.len a.cls a.use).getD t

/-- Every allocation of a channel has lost its lines (R561, R574 step 4). -/
def State.allocLost (s : State) (a : Alloc) : State :=
  match a.use with
  | .work x c => (s.moveArea a c).ctxLost x
  | .save x c => (s.moveArea a c).ctxLost x
  | .run r => s.runLost a r
  | .kvRun q _ => s.kvLost q
  | .atlas v =>
    (match s.tab? (v / 2 ^ 32) with
    | none => s
    | some t => (List.range (t.homeSlots + t.copySlots)).foldl (fun u k => u.atlasLost a (a.off + k * t.slotSize) v) s)
  | .optState v =>
    (match s.tab? (v / 2 ^ 32) with
    | none => s
    | some t => (List.range (t.homeSlots + t.copySlots)).foldl (fun u k => u.stateLost a (a.off + k * t.stateSize) v) s)
  | .hotList _ _ _ => s.ueHandle a.chan a.off
  | .model (e + 1) => (s.dropAlloc a).entryAgain e
  | _ => s

/-- Donor frames for the system-region frames of a channel, one after another from the channels given (R561, R574 step 2). -/
def State.sysDonors (gs : List Nat) : Nat → State → State
  | 0, s => s
  | n + 1, s =>
    match gs[n % max 1 gs.length]? with
    | none => s
    | some g => State.sysDonors gs n (s.takeDonor g).1

/-- Lines of the window whose other copy is bad when a channel goes are lost; of the lines that the host has written (11 R435, log 32). -/
def State.windowLoss (s : State) (g : Nat) : State :=
  let lines := (s.host.share.map fun e => e.1 / 64).dedup
  lines.foldl (fun t l =>
    let a := winPlace l false
    let b := winPlace l true
    if (a / 0x2000000 == g && t.copyBad l true) || (b / 0x2000000 == g && t.copyBad l false) then t.lineLost l
    else t) s

/-- Withdraw a channel (R561): its lines are lost to their holders, its pool share leaves the quota, its event is raised. -/
def State.withdrawChan (s : State) (g : Nat) : State :=
  let t := s.windowLoss g
  let u := t.modDram fun d => { d with withdrawn := setIns d.withdrawn g, bad := d.bad.filter fun e => e.1 / 0x2000000 != g }
  let v := (u.allocsOf g).foldl State.allocLost u
  v.raise .ecc 0 0x4005 (words [g])

/-- CHANNEL_WITHDRAW: a second bank meets the bank test, or the through-silicon path has failed, which the event itself says. Its core is withdrawn
and hosted, its system-region frames find donors in the stack. With no other channel left in the stack, STACK_OUT_OF_SERVICE applies (R561). -/
def execChannelWithdraw (g : Nat) (s : State) : Out :=
  guardUnit (chanOk g) <|
    let others := ((List.range 32).map (g / 32 * 32 + ·)).filter fun h => h != g && ! s.dram.withdrawn.contains h
    if ! s.alive 6 || s.dram.withdrawn.contains g || others.isEmpty then .next s
    else
      let t := (s.withdrawCore g).withdrawChan g
      .next (State.sysDonors others (s.sysFramesOf g) t)

/-- Create an index's context again on the clusters its partition still owns (R574 step 5). -/
def State.indexRehome (s : State) (k : Nat) : State :=
  match lget s.gz.ixs k with
  | none => s
  | some x =>
    let p := k / 65536
    let clus := x.search.filter fun c => s.ownerClu c == some p
    if clus = x.search then s
    else
      let t := match x.ctx.bind fun y => (s.ctx? y).map fun cy => (y, cy) with
        | none => s
        | some (y, cy) => s.endCtx y cy
      let u := t.freeAllocs fun a => a.use == .index k
      let x' := { x with search := clus, merge := if clus.contains x.merge then x.merge else clus.headD 0, ctx := none }
      let put (v : State) (y : Index) : State := v.modGz fun z => { z with ixs := lset z.ixs k y }
      if clus = [] then put u x'
      else
        match u.newCtx (indexCtx p (k % 65536) x' u.sys.now) with
        | none => put u { x' with search := [] }
        | some (v, c) =>
          match v.centroidAreas p (k % 65536) x' with
          | none => put v { x' with search := [] }
          | some w => put w { x' with ctx := some c }

/-- Create the entry points of the model again on the clusters its partition still owns: runs are dropped, KV is rebuilt (R574 steps 5 and 6). -/
def State.modelRehome (s : State) (was : List Nat) : State :=
  let m := s.mdl
  let now := s.clustersOf m.part
  if m.st = 0 ∨ was = now then s
  else
    let gone := s.sched.ctxs.filter fun e => match e.2.kind with
      | .entry _ => true
      | _ => false
    let t := m.entries.foldl (fun t e => t.stepUndo e.no) s
    let u := (gone.foldl (fun u e => u.endCtx e.1 e.2) t).freeAllocs fun a => match a.use with
      | .run _ => true
      | .kvRun _ _ => true
      | _ => false
    if now.length < m.nclu then
      let refs := (m.seqs.map (·.ref) ++ m.items.map (·.ref)).dedup
      (refs.foldl (fun u r => u.reqFail r 0xFF 0xFF []) u).modMdl fun y => { y with dead := true, kept := [] }
    else
      let clu (k : Nat) : Nat := now.getD (was.idxOf k) 0
      let chan (g : Nat) : Nat := clu (g / 8) * 8 + g % 8
      let v := u.modMdl fun y => { y with
        entries := y.entries.map fun e => { e with clus := e.clus.map clu, ctx := none }, runs := y.runs.map fun r => { r with chan := chan r.chan }
        kvl := y.kvl.map fun e => (chan e.1, e.2), kept := [], fresh := y.entries.map (·.no) }
      let w := (State.makeCtxs m.progs v v.mdl.entries).getD (v.modMdl fun y => { y with dead := true })
      w.mdl.seqs.foldl (fun w q =>
        match w.kvAlloc q.id (cdiv (q.prompt.length + q.maxNew) 32 * 32) w.mdl.kvl 0 with
        | some z => z.modSeq q.id fun y => { y with lost := true }
        | none => w.reqFail q.ref 0xFF 0xFF []) w

/-- Job contexts that name a number left without a core fail with status device failure (R571). -/
def State.jobsDead (s : State) : State :=
  s.sched.ctxs.foldl (fun t e =>
    if e.2.kind == .job && e.2.cores.any t.numberDead then
      (match e.2.cmd with
      | none => t.endCtx e.1 e.2
      | some r => (t.endCtx e.1 e.2).cmdFail r 0xFF [])
    else t) s

/-- STACK_OUT_OF_SERVICE (R574). -/
def execStackOutOfService (n : Nat) (s : State) : Out :=
  guardUnit (stackOk n) <|
    if ! s.alive 6 || s.dram.dead.contains n then .next s
    else
      let was := s.clustersOf s.mdl.part
      let cores := (List.range 32).map (n * 32 + ·)
      let t := { s with
        dram := { s.dram with dead := s.dram.dead ++ [n] }, ecc := { s.ecc with coreWd := (s.ecc.coreWd ++ cores).dedup, host := s.ecc.host.filter fun e => e.1 / 32 != n }
        sched := { s.sched with map := (List.range 4).foldl (fun m k => mset 0 m (n * 4 + k) 16) s.sched.map } }
      let u := cores.foldl (fun u c => if s.ecc.coreWd.contains c then u else u.raise (.core c) 0 0x5003 (words [c, dieOf c])) t
      let v := (u.jobsDead).modelRehome was
      let w := (v.gz.ixs.map (·.1)).foldl State.indexRehome v
      let x := cores.foldl (fun x g => if s.dram.withdrawn.contains g then x else x.withdrawChan g) w
      let others := (List.range 640).filter fun g => g / 32 != n && ! x.dram.withdrawn.contains g
      .next (State.sysDonors others ((cores.map s.sysFramesOf).sum) x)

/-- CHANNEL_DIE_FAIL: its flash channels are unreachable, their NAND dies are retired, its cores are withdrawn (R573, 12 R507). -/
def execChannelDieFail (n : Nat) (s : State) : Out :=
  guardUnit (cdNoOk n) <|
    let chans := (List.range 8).map (n * 8 + ·)
    if ! s.alive 6 || chans.all s.gr.deadChans.contains then .next s
    else
      let r := s.modGr fun g => { g with deadChans := g.deadChans ++ chans.filter fun h => ! g.deadChans.contains h }
      let t := chans.foldl (fun t h => t.withdrawCore (640 + h)) r
      let u := chans.foldl (fun u h => u.modFch fun f => { f with stopped := setIns f.stopped h, reqs := f.reqs.filter fun q => q.core != 640 + h }) t
      let dies := chans.flatMap fun h => (List.range 4).map (nandDie h)
      .next (dies.foldl (fun v d => match execDieRetire d v with
        | .next w => w
        | _ => v) u)

/-- HUB_FAIL: a link of a hub to a die, or the whole hub, leaves service; its event is raised (01 R33, 17 R686). Of a whole hub, the event's words
are the hub's own die and the hub's number (log 101). -/
def execHubFail (h : Nat) (die : Option Nat) (s : State) : Out :=
  guardUnit (hubOk h && (match die with
    | none => true
    | some d => decide (d < 40))) <|
    if ! s.alive 6 then .next s
    else
      let ds := match die with
        | none => List.range 40
        | some d => [d]
      let t := s.modSys fun y => { y with xbr := ds.foldl (fun m d => mset false m (h * 64 + d) false) y.xbr }
      .next (t.raise (.xbr h) 0 0x5004 (words [die.getD (36 + h), h]))

/-! ### Commands that need a unit of which none is left (R571, R574 step 6, 11 R468) -/

/-- Status device failure at admission. -/
def State.deadCheck (s : State) (c : Cmd) : Option (Nat × Bytes) :=
  let p := c.ref.part
  let tabDead (n : Nat) : Bool := decide (n < 256) && match s.tab? (tabKey p n) with
    | none => false
    | some t => t.place.all s.dram.withdrawn.contains
  let dead :=
    if 0x31 ≤ c.opcode ∧ c.opcode ≤ 0x37 then (match s.ix? p (gzTarget c) with
      | none => false
      | some x => x.search == [])
    else if 0x42 ≤ c.opcode ∧ c.opcode ≤ 0x4A then tabDead (atTarget c)
    else if c.opcode = 0x50 ∨ c.opcode = 0x51 then tabDead (atTarget c)
    else if c.opcode = 0x52 then (maskTabs c.data).any tabDead
    else if c.opcode = 0x64 ∨ c.opcode = 0x65 ∨ c.opcode = 0x66 then s.mdl.dead
    else if c.opcode = 0x22 then s.flDead c []
    else false
  if dead then some (0xFF, []) else none

/-! ### Tests of the checker (R552 to R555), requests of a host (R562) -/

/-- The logical device that ECC_RET_OWNER names, and the firmware, may use the tests and requests; the tests on a channel that the device's
partition owns (R555). -/
def State.mayRetire (s : State) (w : Agent) : Bool :=
  match w with
  | .surveyor => true
  | .scheduler => false
  | .ld p => s.ecc.retValid && s.ecc.retPart.toNat == p
def State.mayTest (s : State) (w : Agent) (g : Nat) : Bool :=
  match w with
  | .ld p => s.mayRetire w && decide (g < 640) && s.ownerClu (g / 8) == some p
  | _ => s.mayRetire w

/-- The registers act: the module is started and not frozen. -/
def State.regsLive (s : State) : Bool := s.alive 2

/-- ECC_FLIP_CTL: ARMED as written; HIT is cleared by 1 (R552). -/
def execEccFlipCtlArmed (w : Agent) (v : BitVec 32) (s : State) : Out :=
  guardUnit (agentOk w) <|
    if ! s.regsLive || ! s.mayTest w s.ecc.flipChan.toNat then .next s
    else .next (s.modEcc fun e => { e with flipArmed := v.getLsbD 0, flipHit := e.flipHit && ! v.getLsbD 8 })

/-- ECC_FLIP_ADDR: the write disarms (R553). A device's write of CHAN must name a channel of its own, its write of LINE finds one named
(log 33). -/
def execEccFlipAddrWrite (w : Agent) (hi : Bool) (v : BitVec 32) (s : State) : Out :=
  guardUnit (agentOk w) <|
    let g := if hi then v.toNat % 1024 else s.ecc.flipChan.toNat
    if ! s.regsLive || ! s.mayTest w g then .next s
    else .next (s.modEcc fun e => { e with
      flipArmed := false, flipChan := if hi then v.setWidth 10 else e.flipChan, flipLine := if hi then e.flipLine else v.setWidth 25 })

/-- ECC_FLIP_MASKi: the write disarms (R553). -/
def execEccFlipMaskWrite (w : Agent) (i : Nat) (v : BitVec 32) (s : State) : Out :=
  guardUnit (agentOk w && decide (i < 18)) <|
    if ! s.regsLive || ! s.mayTest w s.ecc.flipChan.toNat then .next s
    else .next (s.modEcc fun e => { e with flipArmed := false, flipMask := mset 0 e.flipMask i v })

/-- Whether the diagnostic address names a line that stands in DRAM. -/
def State.diagLineOk (s : State) : Bool :=
  let g := s.ecc.diagChan.toNat
  decide (g < 640) && ! s.dram.withdrawn.contains g && ! s.dram.absent.contains (frameKey g (s.ecc.diagLine.toNat / 1024))

/-- RAW_WRITE: data and check bytes go to the line as they stand in the registers, without encoding (R554). -/
def execRawWrite (w : Agent) (s : State) : Out :=
  guardUnit (agentOk w) <|
    let g := s.ecc.diagChan.toNat
    if ! s.regsLive || ! s.mayTest w g || ! s.diagLineOk then .next s
    else
      let k := lineKey g s.ecc.diagLine.toNat
      let data := (List.range 16).flatMap fun i => leBytes 4 (mget 0 s.ecc.diag i).toNat
      let chk := (List.range 2).flatMap fun i => leBytes 4 (mget 0 s.ecc.diagChk i).toNat
      let off := ((List.zipWith (· ^^^ ·) (rsCheck data) chk).filter (· != 0)).length
      let open6 := decide (6 ≤ off) && (rsDecode ((data ++ chk).map (·.toNat))).isNone
      .next (s.modDram fun d => { d with
        mem := wrBytes d.mem (k * 64) data, bad := lset d.bad k { data := data, chk := chk, noPromise := open6 } })

/-- RAW_READ: the 72 stored bytes go to the registers, without decoding or counting (R554). -/
def execRawRead (w : Agent) (s : State) : Out :=
  guardUnit (agentOk w) <|
    let g := s.ecc.diagChan.toNat
    if ! s.regsLive || ! s.mayTest w g || ! s.diagLineOk then .next s
    else
      let k := lineKey g s.ecc.diagLine.toNat
      let (data, chk) := match lget s.dram.bad k with
        | some b => (b.data, b.chk)
        | none => (rdBytes s.dram.mem (k * 64) 64, rsCheck (rdBytes s.dram.mem (k * 64) 64))
      .next (s.modEcc fun e => { e with
        diag := (List.range 16).foldl (fun m i => mset 0 m i (w32 (fld data (4 * i) 4))) e.diag
        diagChk := (List.range 2).foldl (fun m i => mset 0 m i (w32 (fld chk (4 * i) 4))) e.diagChk })

/-- ECC_RET_CMD.GO: in host-assisted mode the frame or bank of ECC_RET_ADDR is retired, and ECC_RET_STS has the result (R562). -/
def execEccRetCmdGo (w : Agent) (v : BitVec 32) (s : State) : Out :=
  guardUnit (agentOk w) <|
    if ! s.repairs || ! s.mayRetire w || ! v.getLsbD 0 then .next s
    else
      let a := s.ecc.retAddr.toNat
      let g := bits a 9 0
      let (t, res) :=
        if ! s.hostMode .ecc then (s, retWrongMode)
        else if bit a 31 then s.retireBank g (bits a 30 25) else s.retireFrame g (bits a 24 10)
      .next (t.modEcc fun e => { e with retResult := BitVec.ofNat 3 res })

/-! ### Repair at power-on (R563) -/

/-- The repair of one retired frame whose records show a single failing row in a single bank: a spare row is used; where the frame passes its test, which
is a free value, it returns to service and its donor's frame is restored (R563). -/
def State.pprFrame (s : State) (k : Nat) : State :=
  let g := k / 32768
  let f := k % 32768
  let banks := ((s.dram.recs.filter fun r => r.chan == g && r.frame == f).map (·.bank)).dedup
  if banks.length ≠ 1 || (s.stack (g / 32)).pprLeft = 0#16 then s
  else
    match s.dram.frameMap.find? fun e => e.1 == k with
    | none => s
    | some (lk, p) =>
      let back := s.dram.absent.filter fun d => ! (d / 32768 == g && s.physFrame g (d % 32768) == p)
      let (n, r) := s.takeFree
      let t := if n % 2 = 0 then r else r.modDram fun d => { d with frameMap := ldel d.frameMap lk, absent := back, retired := setDel d.retired k }
      (t.modStack (g / 32) fun x => { x with pprDone := x.pprDone + 1, pprLeft := x.pprLeft - 1 }).raise (.hbm (g / 32)) 0 0x4007
        (words [g, f, banks.headD 0])

def State.pprAll (s : State) : State := s.dram.retired.foldl State.pprFrame s

end Sys2Proof.Machine
end

