-- ==== Sys2Proof/Machine/FieldBookRows.lean ====
section
/-! DEFINITION. The Field Book: the rolling area's readiness, page programs, reading, host time marks and clears (16). -/

namespace Sys2Proof.Machine

def State.modSec (s : State) (f : Sec → Sec) : State := { s with sec := f s.sec }

/-! ### The rolling area becomes ready (R643 to R649) -/

/-- Offer records to the sideband and to the freeze triggers. -/
def State.fbSeen (s : State) (codes : List Nat) : State :=
  codes.foldl (fun t c =>
    let u := t.alert c
    match u.frz.hit c with
    | none => u
    | some n => u.freeze 3 n) s

/-- The numbers that a power loss may have cost: those between the newest record found and the resumed numbering (R649). -/
def FieldBook.gap (f : FieldBook) : Nat :=
  match (f.recs.map (·.1)).max? with
  | none => f.reserved
  | some h => f.reserved - h - 1

/-- The rolling area is ready: numbering resumes above the last reservation (R645); the epoch record is written, then a records-lost record where
a power loss cost records, then the buffered records, then a records-lost record where the buffer dropped any (R644, R647, R649). -/
def State.fbReady (s : State) : State :=
  let ha := s.hostMode .fbk
  let f := s.fbk
  let poc := s.sys.poc
  let now := s.sys.now
  let drops := mget 0 f.lost 0
  let g0 : FieldBook := { f with ready := true, next := f.reserved, programmed := f.reserved, startup := [], powerLost := false, lost := mset 0 f.lost 0 0 }
  let g1 := g0.epoch ha 0 poc now
  let g2 := if f.powerLost then g1.put ha now poc 0x0003 (words [f.gap, 2]) else g1
  let g3 := f.startup.foldl (fun g r => g.push ha 0x0002 r.time r.bytes) g2
  let g4 := if drops = 0 then g3 else g3.put ha now poc 0x0003 (words [drops, 0])
  let codes := [0x0001] ++ (if f.powerLost then [0x0003] else []) ++ f.startup.map (fun _ => 0x0002) ++ (if drops = 0 then [] else [0x0003])
  (s.modFbk fun _ => g4).fbSeen codes

/-- What a power loss leaves when the flush did not end: records not yet programmed are lost (R649). -/
def FieldBook.cut (f : FieldBook) : FieldBook :=
  { f with recs := f.recs.filter fun e => decide (e.1 < f.programmed), powerLost := f.powerLost || f.recs.any fun e => decide (f.programmed ≤ e.1) }

/-- What a power-on leaves of the Field Book: its stored records (R646, R653), and the registers at their reset values (17 R681). -/
def FieldBook.restart (f : FieldBook) : FieldBook :=
  { recs := f.recs, next := f.next, reserved := f.reserved, oldest := f.oldest, programmed := f.next, epochs := f.epochs, first := f.first, pinned := f.pinned
    ledger := f.ledger, exported := f.exported, powerLost := f.powerLost }

/-- FIELD_BOOK_PAGE_PROGRAM: the page of the oldest records not yet programmed is programmed; pages fill, and are due, in order (R648). -/
def execFieldBookPageProgram (page : Nat) (s : State) : Out :=
  .next (
    if ! s.alive 6 || ! s.fbk.ready then s
    else
      match s.fbk.recs.find? fun e => decide (s.fbk.programmed ≤ e.1) with
      | none => s
      | some e =>
        if e.1 / 16 % 16384 = page then s.modFbk fun f => { f with programmed := min f.next ((e.1 / 16 + 1) * 16) } else s)

/-! ### Clearing (R664, R665) -/

/-- A ledger entry (Table 16.6). -/
def ledgerEntry (idx poc time upto removed via : Nat) (owner : Bytes) : Bytes :=
  let b := leBytes 4 idx ++ leBytes 4 poc ++ leBytes 8 time ++ leBytes 8 upto ++ leBytes 4 removed ++ leBytes 4 via ++
    sub (Config.sha384 owner) 0 24 ++ zeros 4
  b ++ leBytes 4 (crc32c b)

/-- VIA of a connection. -/
def connVia (k : Conn) : Nat :=
  match k with
  | .sideband => 1
  | .doe p => 16 * p
  | .fm => 0

/-- Carry an accepted clear out: steps 2 to 5 of R665. -/
def State.clearNow (s : State) (c : Clearing) : State :=
  let gone := s.fbk.recs.filter fun e => decide (e.1 ≤ c.upto)
  let ent := ledgerEntry s.fbk.ledger.length s.sys.poc s.sys.now c.upto gone.length (connVia c.conn) c.owner
  let t := s.modFbk fun f => { f with
    ledger := f.ledger ++ [ent], recs := f.recs.filter fun e => decide (c.upto < e.1), exported := f.exported.filter fun n => decide (c.upto < n)
    oldest := max f.oldest (min (c.upto + 1) f.next) }
  (t.fbRecord 0x0005 ent).modSec fun e => { e with reply := some (c.conn, .data []) }

/-- Whether an FB_READ admitted before a clear still copies (step 1). -/
def State.clearWaits (s : State) (c : Clearing) : Bool :=
  s.host.cmds.any fun d => d.opcode == 0x0B && decide (d.adm ≤ c.adm) && (d.phase == .admitted || d.phase == .running)

/-- Carry out the clears that wait for nothing more. -/
def State.clearsRun (s : State) : State :=
  s.sec.clears.foldl (fun t c =>
    if t.clearWaits c then t else (t.modSec fun e => { e with clears := e.clears.filter (· != c) }).clearNow c) s

/-! ### Reading (R658 to R660) -/

def State.fbReadCheck (s : State) (c : Cmd) : Option (Nat × Bytes) :=
  let count := c.p1 % 8192
  let ack := bit c.p1 16
  if ! s.fbk.grant.getLsbD c.ref.part then some (5, [])
  else if 3 < c.obj ∨ count = 0 ∨ 4096 < count ∨ c.p1 ≠ count + 65536 * b2n ack then some (2, [])
  else if ack && (! s.hostMode .fbk || c.obj != 0 || c.ref.part != s.fbk.exportPart.toNat) then some (2, [])
  else none

def fbReadReserve (c : Cmd) : Nat := 64 + 1024 * (c.p1 % 8192)

/-- What an FB_READ notes at its admission: the next number, and of area 0 the first and the last number it may return, and how many (R659). -/
def State.fbAdmit (s : State) (c : Cmd) : List Nat :=
  let ns := ((s.fbk.recs.filter fun e => decide (c.p2 ≤ e.1)).take (c.p1 % 8192)).map (·.1)
  [s.fbk.next, ns.headD 0, ns.getLastD 0, ns.length]

/-- A record of the first-records part as stored: its payload cut to make LEN 992 (R651). -/
def storedFirst (seq : Nat) (r : FbRec) : Bytes :=
  if 976 < r.payload.length then ({ r with payload := r.payload.take 976 } : FbRec).bytes seq true else r.bytes seq false

/-- The stored entries of areas 1 to 3. -/
def FieldBook.slots (f : FieldBook) (area : Nat) : List Bytes :=
  match area with
  | 1 => f.first.map fun e => storedFirst e.1 e.2
  | 2 => f.pinned.map (·.bytes)
  | _ => f.ledger

/-- The answer body of an FB_READ: header and records, with FIRST, NEXT and what governs them as found (Table 16.5). -/
def fbBody (count area trimmed first next oldest newest base poc : Nat) (recs : Bytes) : Bytes :=
  leBytes 4 count ++ leBytes 4 (area + 256 * trimmed) ++ leBytes 8 first ++ leBytes 8 next ++ leBytes 8 oldest ++ leBytes 8 newest ++ leBytes 8 base ++
    leBytes 4 poc ++ leBytes 4 (first / 2 ^ 32) ++ leBytes 4 recs.length ++ zeros 4 ++ recs

/-- FB_READ: records readable at its admission, or stored slots; those of area 0 that have since been overwritten are left out. With no record
returned, the spec gives FIRST and NEXT, and what governs FIRST, no value: free values (log 44). -/
def execFbRead (r : CmdRef) (s : State) : Out :=
  startCmd r 0x0B (fun c t =>
    let f := t.fbk
    let newest := c.work.getD 0 0 - 1
    let t' :=
      if c.obj = 0 then
        let n := c.work.getD 3 0
        let rs := if n = 0 then [] else f.recs.filter fun e => decide (c.work.getD 1 0 ≤ e.1) && decide (e.1 ≤ c.work.getD 2 0)
        match rs with
        | [] =>
          let v (i : Nat) : Nat := Config.freeNat (t.free + i)
          ({ t with free := t.free + 4 }).cmdDone r []
            (some (fbBody 0 0 (b2n (n != 0)) (v 0 % 2 ^ 64) (v 1 % 2 ^ 64) f.oldest newest (v 2 % 2 ^ 64) (v 3 % 2 ^ 32) []))
        | (a, x) :: rest =>
          let ep := ((f.epochs.filter fun e => decide (e.1 ≤ a)).getLast?).getD (0, 0, 0)
          let out := ((a, x) :: rest).flatMap fun e => e.2.bytes e.1 false
          let last := (((a, x) :: rest).map (·.1)).getLastD a
          let u := if bit c.p1 16 then t.modFbk fun g => { g with exported := (rs.map (·.1)).foldl setIns g.exported } else t
          u.cmdDone r [] (some (fbBody rs.length 0 (b2n (decide (rs.length < n))) a (last + 1) f.oldest newest ep.2.1 ep.2.2 out))
      else
        let es := ((f.slots c.obj).drop c.p2).take (c.p1 % 8192)
        if es = [] then
          let v (i : Nat) : Nat := Config.freeNat (t.free + i)
          ({ t with free := t.free + 2 }).cmdDone r [] (some (fbBody 0 c.obj 0 (v 0 % 2 ^ 64) (v 1 % 2 ^ 64) f.oldest newest 0 0 []))
        else t.cmdDone r [] (some (fbBody es.length c.obj 0 c.p2 (c.p2 + es.length) f.oldest newest 0 0 es.flatten))
    t'.clearsRun) s

/-! ### Host time marks (R661) -/

/-- HOST_TIME: a mark is recorded, unless the partition's last one is less than 1 s old; Graticule uses the marks (12 R528). -/
def execHostTime (r : CmdRef) (s : State) : Out :=
  startCmd r 0x0A (fun c t =>
    let last := mget 0 t.fbk.mark r.part
    let u :=
      if last ≠ 0 && decide (t.sys.now + 1 < last + 1000000) then t
      else
        let v := t.fbRecord 0x0004 (words [r.part, c.p2 % 2 ^ 32, c.p2 / 2 ^ 32])
        let w := v.modFbk fun f => { f with mark := mset 0 f.mark r.part (t.sys.now + 1) }
        w.modGr fun g => { g with markAfter := if g.markAfter = 0 then c.p2 + 1 else g.markAfter, markLast := c.p2 + 1 }
    u.cmdDone r [] none) s

end Sys2Proof.Machine
end

