-- ==== Sys2Proof/Machine/BootFlash.lean ====
section
/-! DEFINITION. The boot flash: its controller, the layout of its sectors, LMS reservations, activation records and images (15 R613 to R618, R624
to R633, R638, R639). -/

namespace Sys2Proof.Machine

def State.modBfl (s : State) (f : Bfl → Bfl) : State := { s with bfl := f s.bfl }
def State.modFw (s : State) (f : Fw → Fw) : State := { s with fw := f s.fw }
def State.modSvy (s : State) (f : Svy → Svy) : State := { s with svy := f s.svy }

/-- The Surveyor firmware runs, and is not being restarted (14 R575, R577). -/
def State.svyActs (s : State) : Bool := s.alive 2 && s.svy.run && ! s.svy.restart

/-- ASCII bytes of a label. -/
def ascii (t : String) : Bytes := t.toList.map fun c => w8 c.toNat

/-! ### Words and sectors (R624, R628, R630) -/

def erasedWord : BitVec 64 := BitVec.allOnes 64
def validMark : BitVec 64 := 0x5AC33CA5A53CC35A
/-- The marker word of a sector. -/
def markWord (sec : Nat) : Nat := sec * 8192 + 8191
/-- Sectors without ECC (Table 15.3). -/
def counterSec (sec : Nat) : Bool := sec < 10

/-- First sector of a slot. -/
def slotSector (slot : Nat) : Nat := if slot = 0 then 128 else 320
/-- The cell of word i of a slot's image; the bytes of an image run through the sectors, and those that fall on a marker word stand apart
(log 45). -/
def slotCell (slot i : Nat) : Nat :=
  let sec := slotSector slot + i / 8192
  if i % 8192 = 8191 then 2 ^ 22 + sec else sec * 8192 + i % 8192
/-- A word as the manufacturer leaves it. An image that it leaves speaks protocol versions 2 and 1 (11 R485). -/
def factoryWord (k : Nat) : BitVec 64 :=
  let w := mget erasedWord Config.factoryFlash k
  if (k = slotCell 0 2 ∨ k = slotCell 1 2) ∧ w ≠ erasedWord then (w &&& 0xFFFF0000FFFFFFFF) ||| 0x0000010200000000 else w

/-- A word as the controller's cells hold it. -/
def State.bflRaw (s : State) (k : Nat) : BitVec 64 := (lget s.bfl.words k).getD (factoryWord k)
def State.sectorValid (s : State) (sec : Nat) : Bool := s.bflRaw (markWord sec) == validMark

/-- A stored word; the Field Book's permanent area and ledger hold their records (16 R651, R652, R664). -/
def State.bflWord (s : State) (w : Nat) : BitVec 64 :=
  let sec := w / 8192
  let off := w % 8192 * 8
  let pick (slots : List Bytes) (size n : Nat) : BitVec 64 :=
    match slots[n]? with
    | none => s.bflRaw w
    | some b => w64 (leNat (((b ++ List.replicate (size - b.length) 0xFF).drop (off % size)).take 8))
  if w = markWord sec then s.bflRaw w
  else if 20 ≤ sec ∧ sec ≤ 82 ∧ off / 992 < 66 then pick (s.fbk.slots 1) 992 ((sec - 20) * 66 + off / 992)
  else if sec = 83 then pick (s.fbk.slots 2) 32 (off / 32)
  else if (sec = 84 ∨ sec = 85) ∧ off / 64 < 256 then pick (s.fbk.slots 3) 64 (off / 64)
  else s.bflRaw w

/-- Put a word into the cells. -/
def State.bflPut (s : State) (k : Nat) (v : BitVec 64) : State := s.modBfl fun b => { b with words := lset b.words k v }

/-- A sector stands erased, its marker word as given. -/
def State.bflErased (s : State) (sec : Nat) (mark : BitVec 64) : State :=
  let ks := (List.range 8191).map (sec * 8192 + ·) ++ [2 ^ 22 + sec]
  let t := ks.foldl (fun t k => t.bflPut k erasedWord) s
  (t.bflPut (markWord sec) mark).modBfl fun b => { b with
    progs := b.progs.filter fun e => e.1 / 8192 != sec, unknown := setDel b.unknown sec }

/-- A word program takes effect; a third program of a counter word leaves it undefined (R628). -/
def State.bflProgrammed (s : State) (w : Nat) (v : BitVec 64) : State :=
  if counterSec (w / 8192) && decide (2 ≤ mget 0 s.bfl.progs w) then
    let (n, t) := s.takeFree
    t.bflPut w (w64 n)
  else
    let t := s.bflPut w v
    if counterSec (w / 8192) then t.modBfl fun b => { b with progs := mmod 0 b.progs w (· + 1) } else t

/-! ### The command sequence (R625 to R631) -/

/-- A break of the order: the sequence is cancelled. -/
def State.bflBreak (s : State) : State := s.modBfl fun b => { b with seq := .idle, seqErr := true }
/-- Another BFL write: it breaks a sequence that has begun. -/
def State.bflOther (s : State) : State := if s.bfl.seq == .idle then s else s.bflBreak

/-- Whether a program is refused (R628 to R630). -/
def State.bflRefusesProgram (s : State) (w : Nat) (v : BitVec 64) : Bool :=
  let sec := w / 8192
  let old := s.bflWord w
  s.bfl.op.isSome || (s.bfl.held.map (·.sector)) == some sec || ! s.sectorValid sec ||
    (if counterSec sec then v &&& ~~~old ≠ 0#64 else old ≠ erasedWord)

/-- Start the operation of a finished sequence: the final data write has been made. -/
def State.bflStart (s : State) (code : Nat) : State :=
  let w := s.bfl.word.toNat
  let v := s.bfl.data
  let sec := w / 8192
  let refuse : State := s.modBfl fun b => { b with opErr := true }
  if code = 1 then
    if s.bflRefusesProgram w v then refuse
    else s.modBfl fun b => { b with op := some { erase := false, sector := sec, word := w, value := v }, sector := BitVec.ofNat 9 sec }
  else if v ≠ 0#64 then s.bflBreak
  else if s.bfl.op.isSome || s.bfl.held.isSome || (Config.lockFuse && decide (sec < 8)) then refuse
  else (s.bflPut (markWord sec) 0).modBfl fun b => { b with op := some { erase := true, sector := sec }, sector := BitVec.ofNat 9 sec }

/-- A write of BFL_DATA_HI: with the sequence in order and in time, it starts the operation (R625). -/
def State.bflFinal (s : State) (ns : Nat) (v : BitVec 32) : State :=
  let t := s.modBfl fun b => { b with data := v ++ b.data.setWidth 32 }
  match s.bfl.seq with
  | .idle => t
  | .command at' code true true =>
    if ns ≤ at' + 10000 then (t.modBfl fun b => { b with seq := .idle }).bflStart code else t.bflBreak
  | _ => t.bflBreak

/-- A write of BFL_ADDR or of BFL_DATA_LO. -/
def State.bflStep3 (s : State) (isAddr : Bool) (v : BitVec 32) : State :=
  let t := s.modBfl fun b =>
    if isAddr then { b with word := (v >>> 3).setWidth 22 } else { b with data := (b.data >>> 32).setWidth 32 ++ v }
  match s.bfl.seq with
  | .idle => t
  | .command at' code a lo =>
    if (isAddr && a) || (! isAddr && lo) then t.bflBreak
    else t.modBfl fun b => { b with seq := .command at' code (a || isAddr) (lo || ! isAddr) }
  | _ => t.bflBreak

/-- READ: the stored word goes to BFL_RDATA. Words of a sector being erased or under a suspended erase, and words the spec does not lay out, are
free values (R626, R629, log 42). -/
def State.bflDoRead (s : State) : State :=
  let w := s.bfl.word.toNat
  let sec := w / 8192
  let erasing := (s.bfl.op.map (·.erase)) == some true
  if erasing || (s.bfl.held.map (·.sector)) == some sec || (s.bfl.unknown.contains sec && w ≠ markWord sec) then
    let (n, t) := s.takeFree
    t.modBfl fun b => { b with rdata := w64 n }
  else s.modBfl fun b => { b with rdata := s.bflWord w }

/-- SUSPEND halts a running erase; RESUME continues a suspended one (R629). -/
def State.bflDoSuspend (s : State) : State :=
  match s.bfl.op with
  | some o => if o.erase then s.modBfl fun b => { b with op := none, held := some o } else s
  | none => s
def State.bflDoResume (s : State) : State :=
  if s.bfl.op.isSome || s.bfl.held.isNone then s else s.modBfl fun b => { b with op := b.held, held := none }

/-- A write of BFL_CMD: SUSPEND, RESUME and READ act at once; program and erase are the second step of the sequence (R625, R626). -/
def State.bflCommand (s : State) (code : Nat) : State :=
  match code with
  | 3 => s.bflOther.bflDoSuspend
  | 4 => s.bflOther.bflDoResume
  | 5 => s.bflOther.bflDoRead
  | _ =>
    match s.bfl.seq with
    | .unlocked at' => if code = 1 ∨ code = 2 then s.modBfl fun b => { b with seq := .command at' code false false } else s.bflBreak
    | _ => s.bflBreak

/-- The writes of the firmware alone reach the BFL page. -/
def State.bflWrites (s : State) (w : Agent) : Bool := w == .surveyor && s.svyActs

/-- BFL_KEY: `ns` is the moment of the write (R625). -/
def execBflKey (w : Agent) (ns : Nat) (v : BitVec 32) (s : State) : Out :=
  guardUnit (agentOk w) <| .next (
    if ! s.bflWrites w then s
    else
      let key := v.toNat % 65536
      match s.bfl.seq with
      | .idle => if key = 0x5A3C then s.modBfl fun b => { b with seq := .key1 ns } else s.bflBreak
      | .key1 at' => if key = 0xC3A5 ∧ ns ≤ at' + 320 then s.modBfl fun b => { b with seq := .unlocked ns } else s.bflBreak
      | _ => s.bflBreak)

/-- BFL_PROGRAM: the final data write of a program's sequence. -/
def execBflProgram (w : Agent) (ns : Nat) (v : BitVec 32) (s : State) : Out :=
  guardUnit (agentOk w) <| .next (if s.bflWrites w then s.bflFinal ns v else s)

/-- BFL_ERASE: the final data write of an erase's sequence. -/
def execBflErase (w : Agent) (ns : Nat) (v : BitVec 32) (s : State) : Out :=
  guardUnit (agentOk w) <| .next (if s.bflWrites w then s.bflFinal ns v else s)

def execBflSuspend (w : Agent) (s : State) : Out :=
  guardUnit (agentOk w) <| .next (if s.bflWrites w then s.bflCommand 3 else s)

def execBflResume (w : Agent) (s : State) : Out :=
  guardUnit (agentOk w) <| .next (if s.bflWrites w then s.bflCommand 4 else s)

def execBflRead (w : Agent) (s : State) : Out :=
  guardUnit (agentOk w) <| .next (if s.bflWrites w then s.bflCommand 5 else s)

/-- The running operation ends: the word is programmed, or the sector is erased and valid (R627, R630). -/
def State.bflComplete (s : State) : State :=
  match s.bfl.op with
  | none => s
  | some o =>
    let t := s.modBfl fun b => { b with op := none }
    if o.erase then t.bflErased o.sector validMark else t.bflProgrammed o.word o.value

/-- BFL_OPERATION_COMPLETE. -/
def execBflOperationComplete (s : State) : Out := .next (if s.sys.powered && ! s.frz.frozen then s.bflComplete else s)

/-- A power loss: a program in progress completes, an erase is abandoned, and its sector stays invalid (R630, R631). -/
def State.bflPowerLoss (s : State) : State :=
  let t := match s.bfl.op with
    | some o => if o.erase then s else s.bflComplete
    | none => s
  let lost := (t.bfl.op.toList ++ t.bfl.held.toList).map (·.sector)
  t.modBfl fun b => { b with op := none, held := none, seq := .idle, unknown := lost.foldl setIns b.unknown }

/-! ### Reservation halves (R613 to R618) and activation records (R638, R639) -/

/-- Half h of the counter sectors from a first sector on. -/
def halfWord (first h : Nat) : Nat := (first + h / 16382) * 8192 + h % 16382 / 2
def State.halfVal (s : State) (first h : Nat) : Nat :=
  (s.bflRaw (halfWord first h)).toNat / (if h % 2 = 0 then 1 else 2 ^ 32) % 2 ^ 32
def State.halfUsed (s : State) (first h : Nat) : Bool := s.halfVal first h != 0xFFFFFFFF
/-- Program the next erased half of a range of sectors. -/
def State.appendHalf (s : State) (first count v : Nat) : State :=
  match (List.range count).find? fun h => ! s.halfUsed first h && s.sectorValid (first + h / 16382) with
  | none => s
  | some h =>
    let w := halfWord first h
    let old := (s.bflRaw w).toNat
    s.bflProgrammed w (w64 (if h % 2 = 0 then old / 2 ^ 32 * 2 ^ 32 + v else old % 2 ^ 32 + v * 2 ^ 32))

def lmsHalves : Nat := 131056
def lmsIndices : Nat := lmsHalves * 262144
def actHalves : Nat := 32764

/-- U: used halves of sectors 0 to 7 (R614). -/
def State.lmsCount (s : State) : Nat := ((List.range lmsHalves).filter fun h => s.halfUsed 0 h).length

/-- Take the next HSS index, with a new reservation programmed before its first signature; none is left at the end (R615, R617). -/
def State.hssIndex (s : State) : State × Option Nat :=
  let n := s.sec.lmsNext
  if lmsIndices ≤ n then
    (if s.sec.lmsOut then (s, none) else (((s.modSec fun e => { e with lmsOut := true }).raise .sec 0 0xB002 []), none))
  else
    let t := if n = s.sec.lmsUsed * 262144 then (s.appendHalf 0 lmsHalves 0).modSec fun e => { e with lmsUsed := e.lmsUsed + 1 } else s
    (t.modSec fun e => { e with lmsNext := n + 1, sigCnt := satBv e.sigCnt 1 }, some n)

/-- The kinds of present record (Table 15.5, R639); a CONFIRM and a REVERT both settle a slot. -/
inductive ActRec where
  | activate (slot : Nat)
  | tried (slot : Nat)
  | settled (slot : Nat)
deriving DecidableEq, Repr

/-- The used halves of sectors 8 and 9, in order. -/
def State.actVals (s : State) : List Nat := ((List.range actHalves).filter fun h => s.halfUsed 8 h).map fun h => s.halfVal 8 h
/-- Erased halves left. -/
def State.actLeft (s : State) : Nat := actHalves - s.actVals.length
/-- The last confirmed slot; slot A where none has been confirmed (log 41). -/
def State.confirmedSlot (s : State) : Nat := ((s.actVals.reverse.find? fun v => v / 2 = 0xC0000000 / 2).getD 0) % 2
/-- The present record. -/
def State.actNewest (s : State) : ActRec :=
  match s.actVals.reverse with
  | [] => .settled s.confirmedSlot
  | v :: rest =>
    if v / 2 = 0xA0000000 / 2 then .activate (v % 2)
    else if v / 2 = 0xC0000000 / 2 ∨ v / 2 = 0xE0000000 / 2 then .settled (v % 2)
    else
      match rest with
      | u :: _ => if v = 0 ∧ u / 2 = 0xA0000000 / 2 then .tried (u % 2) else .settled s.confirmedSlot
      | [] => .settled s.confirmedSlot
def State.actAppend (s : State) (v : Nat) : State := s.appendHalf 8 actHalves v

/-! ### Images (R632, R633) -/

def imageMax : Nat := 12517376
/-- Bytes of a slot from an offset on. -/
def State.slotBytes (s : State) (slot off len : Nat) : Bytes :=
  let w0 := off / 8
  let n := if len = 0 then 0 else (off + len - 1) / 8 + 1 - w0
  ((((List.range n).flatMap fun i => leBytes 8 (s.bflRaw (slotCell slot (w0 + i))).toNat).drop (off % 8)).take len)

/-- Stage bytes into a slot: each sector is erased before its first word is programmed (R635). -/
def State.slotWrite (s : State) (slot off : Nat) (bs : Bytes) : State :=
  if bs = [] then s
  else
    let secs := (List.range ((off + bs.length - 1) / 65536 + 1)).filter fun n => decide (off ≤ n * 65536)
    let t := secs.foldl (fun t n => t.bflErased (slotSector slot + n) validMark) s
    let w0 := off / 8
    let n := (off + bs.length - 1) / 8 + 1 - w0
    let body := t.slotBytes slot (w0 * 8) (off % 8) ++ bs
    let whole := body ++ t.slotBytes slot (w0 * 8 + body.length) (n * 8 - body.length)
    (List.range n).foldl (fun t i => t.bflPut (slotCell slot (w0 + i)) (w64 (fld whole (8 * i) 8))) t

/-- What stands in an image's header. -/
def State.imageOf (s : State) (slot : Nat) : Image :=
  let h := s.slotBytes slot 0 0x20
  { slot := slot, version := fld h 8 8, svn := fld h 0x10 4, n := fld h 0x14 1, old := fld h 0x15 1, fmt := fld h 0x18 2, oldest := fld h 0x1A 2
    digest := Config.sha384 (s.slotBytes slot 0 (fld h 0x1C 4)) }

/-- Why the image of a slot does not verify, as SEC_FW.REASON codes it; 0 where it does (R633). -/
def State.imageFault (s : State) (slot : Nat) : Nat :=
  let h := s.slotBytes slot 0 0x4000
  let len := fld h 0x1C 4
  let hss := fld h 0x150 4
  let ecKey := sub h 0x50 97
  let hssKey := sub h 0xB1 60
  let dig := sub h 0x20 48
  if fld h 0 4 ≠ 0x54583430 ∨ fld h 4 2 ≠ 1 ∨ 64 < fld h 0x10 4 ∨ len < 0x4000 ∨ 8192 < hss ∨ (sub h 0x2154 (0x4000 - 0x2154)).any (· != 0) ∨
    fld h 0x14 1 ≠ fld h 0x15 1 + 1 then 1
  else if imageMax < len then 7
  else if (List.range ((len + 65535) / 65536)).any fun n => ! s.sectorValid (slotSector slot + n) then 8
  else if Config.sha384 ecKey ≠ Config.signerDigest false ∨ Config.sha384 hssKey ≠ Config.signerDigest true then 2
  else if Config.sha384 (sub h 0 0x20 ++ s.slotBytes slot 0x4000 (len - 0x4000)) ≠ dig then 3
  else if ! Config.ecdsaVerify ecKey dig (sub h 0xF0 96) then 4
  else if ! Config.hssVerify hssKey dig (sub h 0x154 hss) then 5
  else if fld h 0x10 4 < s.fw.floor then 6
  else 0

/-- The alias certificate of an image is made at its first start: it spends one HSS index; its sector holds what the spec does not lay out
(R606, log 42). -/
def State.aliasMade (s : State) (slot : Nat) : State :=
  match s.hssIndex with
  | (t, none) => t
  | (t, some n) =>
    let sec := slotSector slot + 191
    ((t.bflErased sec validMark).modBfl fun b => { b with unknown := setIns b.unknown sec }).modFw fun f => { f with aliasIdx := mset 0 f.aliasIdx slot (n + 1) }

/-- Events of Table 16.4 for activation and return. -/
def imageWords (i : Image) : Bytes := words [i.slot, i.version % 2 ^ 32, i.version / 2 ^ 32]

/-- Start the image of a slot. -/
def State.startImage (s : State) (slot : Nat) (confirmed : Bool) : State :=
  s.modFw fun f => { f with run := some (s.imageOf slot), confirmed := confirmed, fmt := if confirmed then (s.imageOf slot).fmt else f.fmt }

/-- Append REVERT and go back to the last confirmed image (R639). -/
def State.revert (s : State) : State :=
  let k := s.confirmedSlot
  let t := (s.actAppend (0xE0000000 + k)).startImage k true
  t.raise .sec 0 0xB004 (imageWords (t.imageOf k))

/-- The ROM's choice at power-on (R639): the slot it starts, and the record it appends; the other slot where that image does not verify; none
where neither does. -/
def State.bootSlot (s : State) : State × Option Nat :=
  let (t, first) := match s.actNewest with
    | .activate k => (s.actAppend 0, k)
    | .tried _ => ((s.actAppend (0xE0000000 + s.confirmedSlot)).raise .sec 0 0xB004 (imageWords (s.imageOf s.confirmedSlot)), s.confirmedSlot)
    | .settled k => (s, k)
  if t.imageFault first = 0 then (t, some first)
  else if t.imageFault (1 - first) = 0 then (t, some (1 - first))
  else (t, none)

/-- Whether a slot's image starts for the first time: its ACTIVATE record was the present one. -/
def State.firstStart (s : State) (slot : Nat) : Bool := s.actNewest == .activate slot

end Sys2Proof.Machine
end

