-- ==== Sys2Proof/Machine/Power.lean ====
section
/-! DEFINITION. What a loss of power and a module restart leave, the power-up sequence, mount, freeze, power loss and thermal trip (14 R591 to R598;
18 R689 to R699; 12 R527 to R530; 17 R681 to R686). -/

namespace Sys2Proof.Machine

def State.modPwr (s : State) (f : Pwr → Pwr) : State := { s with pwr := f s.pwr }

/-! ### What is kept (R694, R695; 12 R497, R527; 07 R281; 05 R227) -/

/-- The state of Graticule that stands in flash, with the buffer's slots where a dump carries them; its registers at their reset values. -/
def Grat.cold (g : Grat) : Grat :=
  { g with
    slots := g.slots.filter fun e => e.2.pend.isNone
    awaits := [], handles := [], levelling := false, spreadSeen := false, spread5 := false, offClock := g.clock, markBefore := g.markLast
    markAfter := 0, minutes := g.minutesSaved, gc := 0x0A1E, slcHi := 0x32, refresh := 0xA, offTemp := 0x28, readLimit := 0x00C8
    wlSpread := 0x00C8, mountMs := 0, mountErases := 0 }

/-- An index as its list pages and its record give it. -/
def Index.cold (x : Index) : Index := { x with ctx := none, cached := [], builds := [], probes := [] }

/-- A flash-backed table: its descriptor, and the version and freeze ranges of its last completed AT_SYNC (07 R281, 08 R341). -/
def Table.cold (t : Table) : Table :=
  let v := ((t.vers.find? (·.no == t.syncVer)).or t.syncOld).getD { no := t.syncVer }
  { t with
    cur := t.syncVer, building := none, sealed := false
    vers := [{ v with fwd := [], ways := [], used := [], dirty := [] }]
    syncOld := none, frozen := t.syncFrozen, moves := [], misses := [], clock := 0, occ := [], chanOcc := [], routed := 0 }

/-- The module without power, or between a module restart's shutdown and its start-up: what flash, boot flash, fuses and repairs keep, and what
stands outside the module. -/
def State.cold (s : State) : State :=
  { sys := { poc := s.sys.poc, perstN := s.sys.perstN, pwrbrkN := s.sys.pwrbrkN, freezeN := s.sys.freezeN, switched := s.sys.switched, alertN := s.sys.alertN }
    dram := { frameMap := s.dram.frameMap, absent := s.dram.absent, retired := s.dram.retired, banks := s.dram.banks, slices := s.dram.slices
              withdrawn := s.dram.withdrawn, dead := s.dram.dead, recs := (s.dram.recs.filter fun r => s.dram.retired.contains (r.chan * 32768 + r.frame)).map fun r => { r with old := true }
              waitRetire := s.dram.waitRetire }
    hbm := s.hbm.foldl (fun m e => mset {} m e.1 { pprDone := e.2.pprDone, pprLeft := e.2.pprLeft }) []
    ecc := { spare := s.ecc.spare, coreWd := s.ecc.coreWd, host := s.ecc.host, pendRepair := s.ecc.pendRepair }
    clus := s.clus.foldl (fun m e => mset {} m e.1 { wd := e.2.wd }) []
    host := { hostMem := s.host.hostMem }
    fbk := s.fbk.restart
    gr := s.gr.cold
    gz := { ixs := s.gz.ixs.map fun e => (e.1, e.2.cold), dixs := s.gz.dixs.map fun e => (e.1, e.2.cold) }
    atl := { tabs := (s.atl.tabs.filter (·.2.backed)).map fun e => (e.1, e.2.cold) }
    svy := { bins := s.svy.binsSaved, binsSaved := s.svy.binsSaved, temp := s.svy.temp, alerts := s.svy.alerts }
    thm := { trips := s.thm.trips, tripClass := s.thm.tripClass }
    frz := { cause := s.frz.cause, trigNo := s.frz.trigNo, data := s.frz.data, count := s.frz.count }
    port := s.port
    side := s.side
    bfl := (s.bflPowerLoss).bfl
    fw := { floor := s.fw.floor, fmt := s.fw.fmt, aliasIdx := s.fw.aliasIdx }
    sec := { owner := s.sec.owner, mediaKey := s.sec.mediaKey }
    stored := s.stored
    free := s.free
    pending := s.pending }

/-! ### The power-up sequence (R689 to R693) -/

/-- The shares that fit the window, from logical device 0 on; the first that does not fit, and every later one, is 0 (11 R431). -/
def fitShares : Nat → List Nat → List Nat
  | _, [] => []
  | room, n :: r => if n ≤ room then n :: fitShares (room - n) r else List.replicate (r.length + 1) 0

/-- Step 5: spares and pending repairs are switched in, post-package repair runs, and links are trained (03 R158; 13 R563, R566, R567; 17 R686). -/
def State.switchIn (s : State) : State :=
  let t := if s.sys.poc ≤ 1 then
      (List.range 20).foldl (fun u n => u.modStack n fun k => { k with pprLeft := Config.pprLeft n })
        (s.modEcc fun e => { e with spare := (List.range 36).foldl (fun m d => mset 0 m d (Config.spareCores d).toNat) [] })
    else s
  let u := t.pprAll
  let v := { u with
    cores := (List.range 768).foldl (fun m c => mmod {} m c fun k => { k with mxeSpare := Config.mxeSpare c }) u.cores
    ecc := { u.ecc with pendRepair := [] } }
  v.modSys fun y => { y with
    xbr := [0, 1].foldl (fun m h => (List.range 40).foldl (fun m d => if d = 36 ∨ d = 37 then m else mset false m (h * 64 + d) true) m) [] }

/-- Step 6: the stored module state is loaded (17 R683), with the partition map (10 R389) and the window and its shares (11 R431). -/
def State.loadStored (s : State) : State :=
  let m := s.stored
  let n := m.winNext.toNat
  let size := if 1 ≤ n ∧ n ≤ 4 then n else 1
  let fit := fitShares (256 * size) m.shares
  let map := (List.range 80).foldl (fun a k => if s.dram.dead.contains (k / 4) then mset 0 a k 16 else a) m.map
  let t : State := { s with
    pages := m.modes.foldl (fun ps e => mmod {} ps e.1 fun g => { g with mode := e.2 }) s.pages
    gz := { s.gz with tailPct := m.tailPct, tombPct := m.tombPct }
    gr := { s.gr with gc := m.gc, slcHi := m.slcHi, refresh := m.refresh, readLimit := m.readLimit, wlSpread := m.wlSpread }
    ecc := { s.ecc with ceLimit := m.ceLimit }
    thm := { s.thm with jthr := m.jthr, dthr := m.dthr, nthr := m.nthr }
    fch := { s.fch with weight := m.weight }
    sched := { s.sched with map := map }
    host := { s.host with minEnergy := m.minEnergy, winNext := m.winNext, winSize := size, shares := fit } }
  if fit = m.shares then t else t.raiseBare .hst 0

/-- Steps 3 to 6, once an image runs. PWRBRK_N acts from the end of step 3 (R692); FREEZE_N is sampled at the end of step 5, before any core is
released, and an assertion found there is taken once (log 48). -/
def State.upFrom3 (s : State) : State :=
  let brk := ! s.sys.pwrbrkN
  let t := (s.modSys fun y => { y with recovery := false, upStep := 5 }).modPwr fun p => { p with asserted := brk, g := if brk then 8 else 16 }
  let u := t.switchIn
  if ! u.sys.freezeN && u.frz.pinEn then (u.modSys fun y => { y with freezeN := true }).freeze 1 0
  else
    let v := u.loadStored.modSys fun y => { y with upStep := 6 }
    if v.sys.perstN then v.modSys fun y => { y with linkUp := true } else v

/-- Start an image: its alias certificate is made at its first start (15 R606). -/
def State.bootImage (s : State) (slot : Nat) (first : Bool) : State :=
  let t := s.startImage slot (slot == s.confirmedSlot)
  (if first then t.aliasMade slot else t).modSvy fun v => { v with run := true }

/-- The power-up sequence from step 1 (R689). With no image that verifies it stops at step 2, and the ROM waits (15 R640). -/
def State.powerUp (s : State) : State :=
  let t := s.modSys fun y => { y with powered := true, tripped := false, upStep := 1, poc := y.poc + 1, now := 0 }
  let u := { t with
    svy := { t.svy with temp := [], peak := [] }
    sec := { t.sec with udsLock := true, lmsUsed := t.lmsCount, lmsNext := t.lmsCount * 262144 } }
  match u.bootSlot with
  | (v, none) =>
    ((v.modSys fun y => { y with recovery := true }).raise .sec 0 0xB006 (words [v.imageFault 0, v.imageFault 1]))
  | (v, some k) => (v.bootImage k (u.firstStart k)).upFrom3

/-! ### Mount (12 R527 to R529) -/

/-- Put a number in its place in a rising list. -/
def putNat (a : Nat) : List Nat → List Nat
  | [] => [a]
  | b :: l => if a ≤ b then a :: b :: l else b :: putNat a l
def sortNats (l : List Nat) : List Nat := l.foldr putNat []

/-- The off-time heat age of a package: the median over its 16 dies of what their datum sets show, less what they had gathered by power-off, or the
wall-time estimate where that is larger (R527, R528, log 46). Ages are in equivalent seconds × 2³². -/
def State.offAge (s : State) (p : Nat) : Nat :=
  let g := s.gr
  let got := mget 0 g.offClock p - mget 0 g.datum p
  let xs := sortNats ((List.range 16).map fun i => Config.datumAge (p * 16 + i) s.sys.poc)
  let med := (xs.getD 7 0 + xs.getD 8 0) * 2 ^ 31 - got
  let wall := if g.markBefore = 0 ∨ g.markAfter = 0 then 0 else (g.markAfter - g.markBefore) / 1000000000 * accel (4 * g.offTemp.toNat)
  if s.sys.poc ≤ 1 then 0 else max med wall

/-- Blocks of the reserve that a dump of so many bytes has used (R502). -/
def dumpBlocks (bytes : Nat) : Nat := min 1024 (cdiv bytes (625 * unitBytes))

/-- Block i of the hold-up reserve has been used: another erased SLC block of its die takes its place, and it is queued for erase (R502). -/
def Grat.renewReserve (g : Grat) (i : Nat) : Grat :=
  let d := i / 2
  let held := (lget g.reserve d).getD [8, 9]
  match g.pickBlk d false true with
  | none => g
  | some k =>
    { g with
      blks := mmod {} g.blks (blkKey d (held.getD (i % 2) 8)) fun b => { b with phase := .queued, jneed := g.jseq }
      reserve := lset g.reserve d (held.set (i % 2) (k % 12500)) }

/-- Steps 3 to 5: the dump is read back from the reserve, erases are queued again, clocks advance, and new datum sets are written (R527, R529). -/
def State.mountFlash (s : State) : State :=
  let erasing := s.gr.blks.filter fun e => e.2.phase == .erasing
  let ms := Config.freeNat s.free % 10001
  let clocks := (List.range 32).foldl (fun m p => mset 0 m p (mget 0 s.gr.clock p + s.offAge p)) []
  { s with
    free := s.free + 1
    gr := (List.range (dumpBlocks s.gr.dumpBytes)).foldl Grat.renewReserve { s.gr with
      blks := erasing.foldl (fun m e => mmod {} m e.1 fun b => { b with phase := .queued }) s.gr.blks
      mountMs := w16 ms, mountErases := w16 (min 65535 erasing.length), clock := clocks, datum := clocks } }

/-- The index contexts stand again (05 R203, R227). An index whose search set or memory is gone has no search set left (13 R574). -/
def State.mountIndex (s : State) (e : Nat × Index) : State :=
  let p := e.1 / 65536
  let n := e.1 % 65536
  let gone := s.setIx p n { e.2 with search := [], ctx := none }
  match s.newCtx (indexCtx p n e.2 s.sys.now) with
  | none => gone
  | some (t, k) =>
    match t.centroidAreas p n e.2 with
    | none => gone
    | some u => u.setIx p n { e.2 with ctx := some k }

/-- A flash-backed table has room in DRAM again (07 R281). -/
def State.mountTable (s : State) (e : Nat × Table) : State :=
  let t := (s.allocVer e.1 e.2.cur e.2).getD s
  if e.2.frozen = [] then t
  else (t.poolSpread (e.1 / 256) (2 * e.2.bitmapBytes) .state (.freezeMap e.1) (t.chansOf (e.1 / 256))).getD t

/-- The commands that were admitted before the media were ready now look up what they name, in the order of their admission (18 R691, log 56). -/
def State.heldBack (s : State) : State :=
  s.modHost fun h => { h with cmds := h.cmds.map fun c => if c.phase == .admitted && ! earlyOp c.opcode then { c with phase := .wantBlocks } else c }

/-- MEDIA_READY: Graticule mounts; the rolling area becomes ready, and its first records follow; then waiting commands proceed (R529; 16 R644,
R647, R649). What a dump brought back is programmed at once while the module is in write-through (11 R474). -/
def execMediaReady (s : State) : Out :=
  if ! s.alive 6 || s.sys.mediaReady then .next s
  else
    let flushed := s.gr.dump
    let t := s.mountFlash
    let u := t.gz.ixs.foldl State.mountIndex t
    let v := u.atl.tabs.foldl State.mountTable u
    let w := ((v.fbReady.modSys fun y => { y with mediaReady := true }).modSec fun e => { e with keys := true }).heldBack
    let x := if flushed then
        ({ w with free := w.free + 1 }).raise .pwr 0 0x9004 (words [w.gr.dumpBytes % 2 ^ 32, Config.freeNat w.free % 256])
      else w
    let y := x.modGr fun g => { g with dump := false, dumpBytes := 0 }
    .next (if y.host.wt then y.destageAll.journalPage else y)

/-! ### Shutting down -/

/-- The shutdown of a module restart: the write buffer and the journal are programmed from the supply, and the open page of the Field Book's window
with them (R591, R597; 16 R649). -/
def State.shutDown (s : State) : State :=
  let t := s.dropHost
  let u := t.gr.handles.foldl (fun v e => v.closeHandle e.1) t
  if u.sys.mediaReady then (u.destageAll.journalPage).modGr fun g => { g with jdur := g.jseq } else u

/-- The pages of a version's flash copy that the map has. -/
def State.pagesLeft (s : State) (tk : Nat) (t : Table) (v : AtVer) : AtVer :=
  { v with flashed := v.flashed.filter fun pg =>
      (s.peekUnit (t.nsOf tk) (v.area * (t.n * t.runPages) + pg)).any fun m => rdBytes m versionAt 8 == leBytes 8 (v.no + 1) }

/-- What a power loss leaves of the maps when the flush does not end: what flash alone gives (12 R497). -/
def State.rollBack (s : State) : State :=
  let t := s.modGr fun g => { g with map := g.dmap, ns := g.dns, slots := [] }
  let u := t.modAtl fun a => { a with tabs := a.tabs.map fun e =>
    (e.1, { e.2 with vers := e.2.vers.map (t.pagesLeft e.1 e.2), syncOld := e.2.syncOld.map (t.pagesLeft e.1 e.2) }) }
  (u.modGz fun g => { g with ixs := g.dixs }).modFbk FieldBook.cut

/-- POWER_LOSS: the link drops, cores stop, and the hold-up flush runs, whatever the power state, cap or freeze (R598, R697 to R699). While the
module is in write-through the spec does not say that the bank's charge suffices: whether the flush ends is a free value (log 50). -/
def execPowerLoss (s : State) : Out :=
  if ! s.sys.powered then .next (s.modSys fun y => { y with tripped := false })
  else
    let t := s.dropHost
    let u := t.gr.handles.foldl (fun v e => v.closeHandle e.1) t
    let (n, v) := u.takeFree
    let ends := ! s.host.wt || n % 2 = 0
    let bytes := (v.gr.slots.filter fun e => e.2.pend.isNone).length * unitBytes
    let w :=
      if ends then
        v.modGr fun g => { g with losses := g.losses + 1, dump := true, dumpBytes := if s.sys.mediaReady then bytes else g.dumpBytes, jdur := g.jseq }
      else if s.sys.mediaReady then v.rollBack
      else v
    let c := w.cold
    .next { c with frz := {}, port := {}, side := {}, svy := { c.svy with alerts := [] }, sys := { c.sys with alertN := true } }

/-- POWER_ON: the power-up sequence runs from step 1. -/
def execPowerOn (s : State) : Out :=
  .next (if s.sys.powered || s.sys.tripped then s else ({ s.cold with frz := {} }).powerUp)

/-! ### Thermal trip (R591) -/

/-- The class of a sensor (R578). -/
def sensorClass (n : Nat) : Nat := if n < 40 then 0 else if n < 60 then 1 else 2
/-- A reading in quarters of a degree, signed. -/
def State.tempOf (s : State) (n : Nat) : Int := (mget 0 s.svy.temp n).toInt
def sensorsOf (cls : Nat) : List Nat := (List.range 92).filter fun n => sensorClass n == cls

/-- THERMAL_TRIP: the trip is recorded and counted, the link drops, the buffer is programmed, and the rails are switched off. -/
def execThermalTrip (sensor : Nat) (s : State) : Out :=
  guardUnit (sensorOk sensor) <|
    if ! s.sys.powered then .next s
    else
      let t := { s with thm := { s.thm with trips := satBv s.thm.trips 1, tripClass := sensorClass sensor } }
      let u := t.raise .thm 0 0x9003 (words [sensor, (mget 0 t.svy.temp sensor).toNat])
      .next ((u.shutDown.cold).modSys fun y => { y with tripped := true })

/-- THERMAL_TRIP_RELEASE: every sensor of the class that tripped is 15 °C below its trip point (Table 18.6), and the power-up sequence begins. -/
def execThermalTripRelease (s : State) : Out :=
  let limit : Int := if s.thm.tripClass = 0 then 380 else if s.thm.tripClass = 1 then 340 else 300
  .next (if s.sys.tripped && (sensorsOf s.thm.tripClass).all fun n => decide (s.tempOf n ≤ limit) then s.powerUp else s)

/-! ### Freeze (R593 to R597) -/

/-- FREEZE_N low for 20 ns: it freezes the module while PIN_EN is 1; it is first sampled at the end of step 5 (R692), and low before then it
takes effect there. -/
def execFreezeNAssert (s : State) : Out :=
  .next (
    if s.alive 5 then whenS s.frz.pinEn s (s.freeze 1 0)
    else if s.frz.frozen then s
    else s.modSys fun y => { y with freezeN := false })

/-- A write of 1 to FRZ_CTL.FREEZE by the Surveyor firmware. -/
def execFrzCtlFreeze (w : Agent) (s : State) : Out :=
  guardUnit (agentOk w) <| .next (whenS (w == .surveyor && s.svyActs) s (s.freeze 2 0))

/-- A freeze exit: the buffer and the journal are programmed, and the power-up sequence begins (R597). -/
def State.freezeExit (s : State) : State := (s.shutDown.cold).powerUp

/-- PERST_N held low for 1 ms during a freeze. -/
def execPerstFreezeExit (s : State) : Out :=
  .next (if s.sys.powered && s.frz.frozen then (s.modSys fun y => { y with perstN := false }).freezeExit else s)

/-- The test port's EXIT, on Update-DR; outside a freeze it acts as BYPASS. -/
def execExit (s : State) : Out :=
  .next (
    let t : State := { s with port := { s.port with ir := 0x25, drive := false } }
    if s.sys.powered && s.frz.frozen then t.freezeExit else { t with port := { t.port with dr := [false] } })

end Sys2Proof.Machine
end

