-- ==== Sys2Proof/Machine/Surveyor.lean ====
section
/-! DEFINITION. The Surveyor: restarts, sensors, droop, power caps, the thermal governor, and the sideband (14 R575 to R592, R599 to R601). -/

namespace Sys2Proof.Machine

/-! ### Sensors (R578, R579) -/

/-- SENSOR_UPDATE: a reading and its peak since power-on; a stack above 85 °C refreshes at twice the normal rate (01 R27). The firmware's peaks
wait for a restart of it to end; during a freeze clock domains are stopped. -/
def execSensorUpdate (sensor : Nat) (temp : BitVec 16) (s : State) : Out :=
  guardUnit (sensorOk sensor) <|
    if s.frz.frozen || ! (s.sys.powered || s.sys.tripped) then .next s
    else
      let t := s.modSvy fun v => { v with
        temp := mset 0 v.temp sensor temp
        peak := if v.restart then v.peak
          else match mfind v.peak sensor with
            | none => mins sensor temp v.peak
            | some p => if p.toInt < temp.toInt then mins sensor temp v.peak else v.peak }
      .next (if 40 ≤ sensor ∧ sensor < 60 then t.modStack (sensor - 40) fun k => { k with hot := decide (340 < temp.toInt) } else t)

/-- The hottest reading of a class, and its lowest-numbered sensor. -/
def State.hottest (s : State) (cls : Nat) : Int := ((sensorsOf cls).map s.tempOf).foldl max (s.tempOf ((sensorsOf cls).headD 0))

/-- The bin of a reading of the die and DRAM classes (R579), and of the NAND class (12 Table 12.5). -/
def binOf (q : Int) : Nat := ([40, 55, 70, 85, 95, 100, 105].filter fun (d : Int) => decide (4 * d ≤ q)).length
def nandBinOf (q : Int) : Nat := ([25, 40, 55, 70, 80, 85, 90].filter fun (d : Int) => decide (4 * d ≤ q)).length

/-- Write the minute counters to the stored module state. -/
def State.saveBins (s : State) : State :=
  (s.modSvy fun v => { v with binsSaved := v.bins, savedAt := s.sys.now }).modGr fun g => { g with minutesSaved := g.minutes }

/-- Count minutes for each class by its hottest reading. -/
def State.countBins (s : State) (n : Nat) : State :=
  let add (m : NMap (BitVec 64)) (cls : Nat) : NMap (BitVec 64) := mmod 0 m (cls * 8 + binOf (s.hottest cls)) (· + w64 n)
  let t := s.modSvy fun v => { v with bins := add (add v.bins 0) 1 }
  t.modGr fun g => { g with minutes := mmod 0 g.minutes (nandBinOf (s.hottest 2)) (· + n) }

/-- TIME_IN_BIN_TICK: a minute passes, and is counted; once an hour the counters are saved. During a restart of the firmware it waits (R577). -/
def execTimeInBinTick (s : State) : Out :=
  if ! s.sys.powered || s.frz.frozen then .next s
  else
    let due := s.sys.lastBin + 60000000
    let t := (s.advance due).modSys fun y => { y with lastBin := due }
    if t.svy.restart then .next (t.modSvy fun v => { v with binWait := v.binWait + 1 })
    else if ! t.svyActs then .next t
    else
      let u := t.countBins 1
      .next (if u.svy.savedAt + 3600000000 ≤ u.sys.now then u.saveBins else u)

/-! ### Restarts (R575 to R577) -/

/-- The pair is reset and its firmware restarts; what waits for the firmware waits. -/
def State.svyRestart (s : State) (wd : Bool) : State :=
  s.modSvy fun v => { v with
    run := false, restart := true, byWatchdog := wd
    mismatch := if wd then v.mismatch else satBv v.mismatch 1
    wdt := if wd then satBv v.wdt 1 else v.wdt }

def execLockstepMismatch (s : State) : Out := .next (if s.alive 2 then s.svyRestart false else s)
def execWatchdogExpiry (s : State) : Out := .next (if s.alive 2 then s.svyRestart true else s)

/-- SURVEYOR_RESTART_END: the firmware runs again and records the cause (R577). Before an image is confirmed, REVERT is appended and the last
confirmed image is started (15 R639). -/
def execSurveyorRestartEnd (s : State) : Out :=
  .next (
    if ! s.alive 2 || ! s.svy.restart then s
    else
      let t := (s.countBins s.svy.binWait).modSvy fun v => { v with run := true, restart := false, binWait := 0 }
      let u := if t.fw.confirmed then t else t.revert
      u.raise .svy 0 0xA001 (words [b2n s.svy.byWatchdog]))

/-! ### The effective cap (R584 to R589) -/

/-- Values outside 300 to 1,000 W act as the nearer bound. -/
def clampW (n : Nat) : Nat := max 300 (min 1000 n)

/-- The cap of the present power state (11 Table 11.12). -/
def State.stateCap (s : State) : Nat :=
  match s.host.power with
  | 0 => 1000
  | 1 => 700
  | 2 => 350
  | _ => 60

/-- The effective cap and its source; of equal figures, the earlier source (R584). -/
def State.effCap (s : State) : Nat × Nat :=
  let least (a b : Nat × Nat) : Nat × Nat := if b.1 < a.1 then b else a
  let brk := if s.pwr.asserted then [(clampW s.pwr.brkLimit.toNat, 2)] else []
  ([(clampW s.pwr.capW.toNat, 1)] ++ brk ++ [(s.pwr.thermalCap, 3)]).foldl least (s.stateCap, 0)

/-- A ratio G that the firmware may choose under a cap: a free value from 1 to 16; 16 where no cap is below 1,000 W (R586, log 51). -/
def State.chooseG (s : State) : State :=
  if s.effCap.1 = 1000 then s.modPwr fun p => { p with g := 16 }
  else
    let (n, t) := s.takeFree
    t.modPwr fun p => { p with g := BitVec.ofNat 5 (1 + n % 16) }

/-- Change something the effective cap depends on; G follows where the cap changes. -/
def State.capStep (s : State) (f : State → State) : State :=
  let t := f s
  if t.effCap.1 = s.effCap.1 then t else t.chooseG

/-- GAP as it acts. -/
def Pwr.gapActs (p : Pwr) : BitVec 5 := BitVec.ofNat 5 (max 1 p.gap.toNat)

/-- PWRBRK_N_ASSERT: G is set in hardware to GAP, and LIMIT applies (R588); the pin acts from the end of step 3 on (18 R692). -/
def execPwrbrkNAssert (s : State) : Out :=
  let t := s.modSys fun y => { y with pwrbrkN := false }
  .next (if t.alive 3 then t.modPwr fun p => { p with asserted := true, g := p.gapActs } else t)

/-- PWRBRK_N_RELEASE lifts the limit, and with it the ratio that the assertion set. -/
def execPwrbrkNRelease (s : State) : Out :=
  let t := s.modSys fun y => { y with pwrbrkN := true }
  .next (if t.alive 3 then (t.modPwr fun p => { p with asserted := false }).chooseG else t)

/-- PWR_CAP_W_WRITE: by the Surveyor firmware alone; a host's writes are ignored (R589). -/
def execPwrCapWWrite (w : Agent) (v : BitVec 32) (s : State) : Out :=
  guardUnit (agentOk w) <|
    .next (if w == .surveyor && s.svyActs then s.capStep fun t => t.modPwr fun p => { p with capW := BitVec.ofNat 11 v.toNat } else s)

/-! ### Droop (R580 to R583) -/

/-- DROOP_TRIP: a response starts, and is counted. -/
def execDroopTrip (s : State) : Out :=
  .next (
    if ! s.alive 3 || s.pwr.droop then s
    else (s.modPwr fun p => { p with droop := true, droopCnt := satBv p.droopCnt 1 }).modSvy fun v => { v with droops := v.droops + 1 })

/-- The droop summary, at most once a second (R583). -/
def State.droopRecord (s : State) : State :=
  if s.svy.droops = 0 || s.pwr.droop || ! s.svyActs || (s.svy.droopRec ≠ 0 && decide (s.sys.now + 1 < s.svy.droopRec + 1000000)) then s
  else
    (s.modSvy fun v => { v with droops := 0, droopNs := 0, droopRec := s.sys.now + 1 }).raise .pwr 0 0x9001 (words [s.svy.droops, s.svy.droopNs])

/-- DROOP_RELEASE: the response has lasted `ns`. -/
def execDroopRelease (ns : Nat) (s : State) : Out :=
  .next (
    if ! s.alive 3 || ! s.pwr.droop then s
    else ((s.modPwr fun p => { p with droop := false }).modSvy fun v => { v with droopNs := v.droopNs + ns }).droopRecord)

/-! ### The thermal governor (R590) -/

/-- The threshold of a sensor in °C. -/
def Thm.limitOf (t : Thm) (n : Nat) : Int :=
  match sensorClass n with
  | 0 => min 100 t.jthr.toNat
  | 1 => min 95 t.dthr.toNat
  | _ => min 80 t.nthr.toNat

/-- Sensors at or above their thresholds. -/
def State.overs (s : State) : List Nat := (List.range 92).filter fun n => decide (4 * s.thm.limitOf n ≤ s.tempOf n)
/-- Every sensor is at least 3 °C below its threshold. -/
def State.allCool (s : State) : Bool := (List.range 92).all fun n => decide (s.tempOf n ≤ 4 * (s.thm.limitOf n - 3))

/-- The cap after one tick of 10 ms. -/
def State.governed (s : State) : State :=
  if ! s.overs.isEmpty then s.modPwr fun p => { p with thermalCap := max 300 (p.thermalCap - 25), riseTicks := 0 }
  else if s.allCool then
    if s.pwr.riseTicks + 1 < 10 then s.modPwr fun p => { p with riseTicks := p.riseTicks + 1 }
    else s.modPwr fun p => { p with thermalCap := min 1000 (p.thermalCap + 25), riseTicks := 0 }
  else s.modPwr fun p => { p with riseTicks := 0 }

/-- THERMAL_GOVERNOR_TICK: 10 ms pass, and the thermal cap is governed. Throttling starts and ends with a record; the sensor named at its end is a
free value (log 51). The firmware sets G anew for the cap in force (R586). -/
def execThermalGovernorTick (s : State) : Out :=
  if ! s.sys.powered || s.frz.frozen then .next s
  else
    let due := s.sys.lastGov + 10000
    let t := (s.advance due).modSys fun y => { y with lastGov := due }
    if ! t.svyActs || ! t.alive 3 then .next t
    else
      let u := (t.capStep State.governed).droopRecord
      let w := if u.effCap.1 = t.effCap.1 then u.chooseG else u
      let on := decide (w.pwr.thermalCap < 1000)
      let z := w.modPwr fun p => { p with throttling := on }
      if on && ! w.pwr.throttling then
        let n := w.overs.headD 0
        .next (z.raise .thm 0 0x9002 (words [1, n, (mget 0 w.svy.temp n).toNat]))
      else if ! on && w.pwr.throttling then
        let (f, y) := z.takeFree
        let n := f % 92
        .next (y.raise .thm 0 0x9002 (words [0, n, (mget 0 w.svy.temp n).toNat]))
      else .next z

/-- WINDOW_SELF_REFRESH_ENTRY: in PS3 and PS4 a channel that holds the window enters self-refresh again after 100 µs without an access (R592). -/
def execWindowSelfRefreshEntry (g : Nat) (s : State) : Out :=
  guardUnit (chanOk g) <|
    .next (if s.alive 6 && s.asleep then s.modDram fun d => { d with selfRefresh := setIns d.selfRefresh g } else s)

/-! ### The sideband (R599 to R601) -/

/-- The sideband answers: in every power state, but not during a freeze or a Surveyor restart; in the ROM's recovery too (15 R640). -/
def State.sideUp (s : State) : Bool := s.sys.powered && ! s.frz.frozen && (s.sys.recovery || (s.alive 2 && s.svy.run && ! s.svy.restart))

/-- Answer over the sideband; none where it does not answer, or refuses. -/
def State.sideReply (s : State) (r : Option Bytes) : State := { s with side := { s.side with reply := r } }

/-- I3C_DYNAMIC_ADDRESS: the module is an I3C target from now on, until power is removed; ALERT_N stays high then (R601). -/
def execI3cDynamicAddress (addr : BitVec 7) (s : State) : Out :=
  .next (
    if ! s.sideUp then s
    else
      let t : State := { s with side := { s.side with i3cAddr := some addr, ibi := s.side.ibi + (if s.svy.alerts = [] then 0 else 1) } }
      t.modSys fun y => { y with alertN := true })

/-- MCTP_CONTROL: the endpoint ID is the one the bus owner assigns; the message types are those of R600, in MCTP's numbering: control 0, PLDM 1, SPDM 5
and 6 (log 52). -/
def execMctpControl (m : MctpMsg) (s : State) : Out :=
  .next (
    if ! s.sideUp then s.sideReply none
    else
      match m with
      | .setEid e => ({ s with side := { s.side with eid := e } }).sideReply (some [e])
      | .getEid => s.sideReply (some [s.side.eid])
      | .getTypes => s.sideReply (some (if s.sys.recovery then [0, 1] else [0, 1, 5, 6])))

/-- The warnings of Table 12.5. -/
def State.warnings (s : State) : Nat := fld s.health 1 1

/-- PLDM_PLATFORM: sensors and effecters of R600. Input voltage, current and power have no source in the model: free values (log 53). -/
def execPldmPlatform (m : PldmOp) (s : State) : Out :=
  .next (
    if ! s.sideUp || s.sys.recovery then s.sideReply none
    else
      match m with
      | .readTemp n => s.sideReply (if n < 92 then some (leBytes 2 (mget 0 s.svy.temp n).toNat) else none)
      | .readVolt =>
        let (v, t) := s.takeFree
        t.sideReply (some (leBytes 4 v))
      | .readCurrent =>
        let (v, t) := s.takeFree
        t.sideReply (some (leBytes 4 v))
      | .readPower =>
        let (v, t) := s.takeFree
        t.sideReply (some (leBytes 4 v))
      | .readCap => s.sideReply (some (leBytes 4 s.effCap.1))
      | .readPowerState => s.sideReply (some [w8 s.host.power])
      | .readWarnings => s.sideReply (some [w8 s.warnings])
      | .readEvent =>
        match s.svy.alerts with
        | [] => s.sideReply none
        | c :: r =>
          let t := (s.modSvy fun v => { v with alerts := r }).sideReply (some (leBytes 2 c))
          if r = [] then t.modSys fun y => { y with alertN := true } else t
      | .setCap w => (s.capStep fun t => t.modPwr fun p => { p with capW := BitVec.ofNat 11 (min 2047 w.toNat) }).sideReply (some [])
      | .setBrake w => (s.capStep fun t => t.modPwr fun p => { p with brkLimit := BitVec.ofNat 11 (min 2047 w.toNat) }).sideReply (some [])
      | .requestFreeze => (s.freeze 2 0).sideReply (some [])
      | .setDataEn on => ({ s with frz := { s.frz with dataEn := on } }).sideReply (some []))

end Sys2Proof.Machine
end

