-- ==== Sys2Proof/Machine/Firmware.lean ====
section
/-! DEFINITION. Firmware staging, activation and confirmation, by commands and over PLDM Type 5 (15 R634 to R641; 11 R486). -/

namespace Sys2Proof.Machine

/-! ### Staging (R634, R635) -/

/-- The slot that a staging targets: the inactive one; slot A in recovery (R640). -/
def State.stageSlot (s : State) : Nat :=
  match s.fw.run with
  | none => 0
  | some i => 1 - i.slot

/-- No boot flash operation is in hand. -/
def State.bflFree (s : State) : Bool := s.bfl.op.isNone && s.bfl.held.isNone

/-- FIRST: earlier staging is abandoned. -/
def State.stageFirst (s : State) (pldm : Bool) : State := s.modFw fun f => { f with stage := 1, reason := 0, staged := 0, pldm := pldm }

/-- Staging has failed. -/
def State.stageFail (s : State) (reason : Nat) : State := s.modFw fun f => { f with stage := 3, reason := reason }

/-- Stage the next bytes; too long an image ends the staging. -/
def State.stageBytes (s : State) (bs : Bytes) : State :=
  if imageMax < s.fw.staged + bs.length then s.stageFail 7
  else (s.slotWrite s.stageSlot s.fw.staged bs).modFw fun f => { f with staged := f.staged + bs.length }

/-- LAST: the whole image is checked. -/
def State.stageLast (s : State) : State :=
  match s.imageFault s.stageSlot with
  | 0 => s.modFw fun f => { f with stage := 2, reason := 0 }
  | n => s.stageFail n

/-- FW_STAGE: a chunk of an image (R635). It waits while a boot flash operation of the BFL page is in hand (log 54). A FIRST chunk at an offset other
than 0 fails and leaves earlier staging as it is; a chunk with no staging under way fails too. -/
def execFwStage (r : CmdRef) (s : State) : Out :=
  startWhen r 0x04 (fun _ t => t.bflFree) (fun c t =>
    let first := bit c.p1 0
    if ! t.fw.confirmed || (t.fw.stage = 1 && t.fw.pldm) then t.cmdFail r 7 []
    else if c.p2 ≠ (if first then 0 else t.fw.staged) || (! first && t.fw.stage ≠ 1) then t.cmdFail r 2 []
    else
      let u := (if first then t.stageFirst false else t).stageBytes c.data
      let v := if bit c.p1 1 && u.fw.stage = 1 then u.stageLast else u
      if v.fw.stage = 3 then v.cmdFail r 2 [] else v.cmdDone r [] none) s

/-! ### Activation (R636 to R641) -/

/-- Whether an image speaks the version of every queue pair (11 R486). -/
def State.speaksAll (s : State) (i : Image) : Bool := s.host.qps.all fun e => e.2.desc.ver == i.n || e.2.desc.ver == i.old

/-- Why the staged slot cannot be activated, as a status; 0 where it can (R636). -/
def State.activateStatus (s : State) : Nat :=
  let i := s.imageOf s.stageSlot
  if s.fw.stage ≠ 2 then 2
  else if ! s.speaksAll i then 7
  else if s.fw.fmt < i.oldest ∨ i.fmt < s.fw.fmt then 5
  else if s.actLeft = 0 then 6
  else 0

/-- Activate the staged slot: ACTIVATE is appended, the new image runs, its alias certificate is made, and TRIED is appended (R636, R638). Commands in
progress carry on; the quiesce is timing, which the model leaves out. -/
def State.activate (s : State) : State :=
  let k := s.stageSlot
  let t := (s.actAppend (0xA0000000 + k)).startImage k false
  let u := (t.aliasMade k).actAppend 0
  (u.modFw fun f => { f with stage := 0, reason := 0, staged := 0, pldm := false }).raise .sec 0 0xB003 (imageWords (u.imageOf k))

/-- Raise the rollback floor to the running image's SVN (R637). -/
def State.raiseFloor (s : State) : State :=
  let n := ((s.fw.run.map (·.svn)).getD 0)
  if n ≤ s.fw.floor then s else (s.modFw fun f => { f with floor := n }).raise .sec 0 0xB005 (words [n])

/-- FW_ACTIVATE. -/
def execFwActivate (r : CmdRef) (s : State) : Out :=
  startWhen r 0x05 (fun _ t => t.bflFree) (fun c t =>
    if 1 < c.obj then t.cmdFail r 2 []
    else if c.obj = 1 then
      if t.fw.confirmed then t.raiseFloor.cmdDone r [] none else t.cmdFail r 7 []
    else
      match t.activateStatus with
      | 0 => t.activate.cmdDone r [] none
      | n => t.cmdFail r n []) s

/-- IMAGE_CONFIRM: the image has run 60 s with no Surveyor restart; from now on it writes its own format (R639, R641). -/
def execImageConfirm (s : State) : Out :=
  .next (
    match s.fw.run with
    | none => s
    | some i =>
      if ! s.svyActs || ! s.sys.mediaReady || s.fw.confirmed then s
      else (s.actAppend (0xC0000000 + i.slot)).modFw fun f => { f with confirmed := true, fmt := i.fmt })

/-! ### PLDM Type 5 (R634, R635, R640): the completion code is the answer -/

def pldmOk : Nat := 0x00
def pldmNotInUpdate : Nat := 0x80
def pldmAlready : Nat := 0x81
def pldmIncomplete : Nat := 0x85
def pldmBusy : Nat := 0x86
def pldmUnable : Nat := 0x8A

def State.pldmReply (s : State) (code : Nat) : State := s.sideReply (some [w8 code])

/-- A PLDM Type 5 request, where the sideband answers. -/
def pldmRequest (f : State → State) (s : State) : Out :=
  .next (if s.sideUp then (if s.bflFree then f s else s.pldmReply pldmBusy) else s.sideReply none)

/-- REQUEST_UPDATE acts as FIRST; an update that runs answers ALREADY_IN_UPDATE_MODE (R634). The other completion codes are DSP0267's (log 52). -/
def execRequestUpdate (s : State) : Out :=
  pldmRequest (fun t =>
    if t.fw.stage = 1 then t.pldmReply pldmAlready
    else if ! t.sys.recovery && ! t.fw.confirmed then t.pldmReply pldmUnable
    else (t.stageFirst true).pldmReply pldmOk) s

/-- PLDM_FIRMWARE_DATA: the next bytes of the image. -/
def execPldmFirmwareData (data : Bytes) (s : State) : Out :=
  pldmRequest (fun t =>
    if t.fw.stage ≠ 1 || ! t.fw.pldm then t.pldmReply pldmNotInUpdate
    else
      let u := t.stageBytes data
      u.pldmReply (if u.fw.stage = 3 then pldmUnable else pldmOk)) s

/-- APPLY_COMPLETE acts as LAST; in recovery an image that verifies is started, and the power-up sequence goes on (R640). -/
def execApplyComplete (s : State) : Out :=
  pldmRequest (fun t =>
    if t.fw.stage ≠ 1 || ! t.fw.pldm then t.pldmReply pldmNotInUpdate
    else
      let u := t.stageLast
      if u.fw.stage = 3 then u.pldmReply pldmIncomplete
      else if u.sys.recovery then
        ((u.modFw fun f => { f with stage := 0, staged := 0, pldm := false }).pldmReply pldmOk |>.bootImage 0 true).upFrom3
      else u.pldmReply pldmOk) s

/-- ACTIVATE_FIRMWARE does as FW_ACTIVATE with OBJECT 0. -/
def execActivateFirmware (s : State) : Out :=
  pldmRequest (fun t =>
    if t.sys.recovery then t.pldmReply pldmIncomplete
    else
      match t.activateStatus with
      | 0 => t.activate.pldmReply pldmOk
      | 2 => t.pldmReply pldmIncomplete
      | _ => t.pldmReply pldmUnable) s

end Sys2Proof.Machine
end

