-- ==== Sys2Proof/Machine/Trust.lean ====
section
/-! DEFINITION. Attestation, sessions, the owner's requests and IDE keys (15 R602 to R623; 16 R663 to R665). Messages whose wire layout an outside
standard gives are built by `Config.wire` of their contents (log 5). -/

namespace Sys2Proof.Machine

/-! ### Connections -/

/-- The responder answers on a connection: the sideband (14 R601), the DOE mailbox of a logical device, or that of the FM-owned logical device, which
a port attached to a switch has (11 R427). -/
def State.connUp (s : State) (k : Conn) : Bool :=
  match k with
  | .sideband => s.sideUp && ! s.sys.recovery
  | .doe p => s.ldUp p
  | .fm => s.fmUp

def State.spdmReply (s : State) (k : Conn) (b : SpdmBody) : State := s.modSec fun e => { e with reply := some (k, b) }
def State.spdmError (s : State) (k : Conn) (e : SpdmErr) : State := s.spdmReply k (.error e)

/-- An SPDM request on a connection that answers. -/
def spdmRequest (k : Conn) (f : State → State) (s : State) : Out :=
  guardUnit (connOk k) <| .next (if s.connUp k then f s else s.modSec fun e => { e with reply := none })

def State.session? (s : State) (k : Conn) : Option Session := s.sec.sess.find? (·.conn == k)
def State.ownerSession (s : State) (k : Conn) : Bool := s.sec.sess.any fun x => x.conn == k && x.owner

/-! ### Keys (R603) -/

/-- The digest of the running image. -/
def State.runDigest (s : State) : Bytes := (s.fw.run.map (·.digest)).getD []
def deviceKey : Bytes := Config.hkdf384 Config.uds (ascii "TX40 ID")
def hssKey : Bytes := Config.hkdf384 Config.uds (ascii "TX40 HSS")
def State.aliasKey (s : State) : Bytes := Config.hkdf384 (Config.hkdf384 Config.uds s.runDigest) (ascii "TX40 ALIAS")

/-! ### Signed responses (R610, R615, R617, R618) -/

/-- Bottom-level tree of an index, as a number plus 1. -/
def treeOf (n : Nat) : Nat := n / 32768 + 1

/-- Keep the HSS signature of a signed response: the last 16 of each connection, numbered from 0. -/
def keepSig (sigs : List (Conn × Nat × Bytes)) (k : Conn) (sig : Bytes) : List (Conn × Nat × Bytes) :=
  let mine := sigs.filter fun e => e.1 == k
  let n := match mine.getLast? with
    | none => 0
    | some e => e.2.1 + 1
  (sigs.filter fun e => e.1 != k || decide (n < e.2.1 + 16)) ++ [(k, n, sig)]

/-- Sign a response, or let it wait for its bottom-level tree; with no index left it fails. -/
def State.signResponse (s : State) (w : SigWait) : State :=
  let b := treeOf s.sec.lmsNext
  if s.sec.lmsNext < lmsIndices ∧ s.sec.tree ≠ b ∧ s.sec.nextTree ≠ b then s.modSec fun e => { e with waiting := e.waiting ++ [w] }
  else
    match s.hssIndex with
    | (t, none) => t.spdmError w.conn .unspecified
    | (t, some n) =>
      let u := t.modSec fun e => { e with
        tree := b, nextTree := if e.nextTree = b then 0 else e.nextTree, sigs := keepSig e.sigs w.conn (Config.hssSign hssKey n w.hash) }
      u.spdmReply w.conn (.data (w.body ++ Config.ecdsaSign u.aliasKey w.hash))

/-- Send a signed response with the given contents. -/
def State.signed (s : State) (k : Conn) (name : String) (parts : List Bytes) : State :=
  let body := Config.wire name parts
  s.signResponse { conn := k, body := body, hash := Config.sha384 body }

/-- BOTTOM_LEVEL_TREE_BUILT: the tree that signs next is built, then the one after it; what waited for it is signed (R618). -/
def execBottomLevelTreeBuilt (s : State) : Out :=
  .next (
    if ! s.alive 2 then s
    else
      let b := treeOf s.sec.lmsNext
      let t := s.modSec fun e => { e with
        tree := if e.tree = b ∨ e.nextTree = b then e.tree else b
        nextTree := if e.tree = b then b + 1 else e.nextTree
        waiting := [] }
      s.sec.waiting.foldl (fun u w => u.signResponse w) t)

/-! ### Negotiation, certificates, measurements (R606 to R611) -/

/-- NEGOTIATE_ALGORITHMS: the algorithms of R609, and no others. -/
def execNegotiateAlgorithms (k : Conn) (m : AlgSet) (s : State) : Out :=
  spdmRequest k (fun t =>
    if m.ecdsaP384 && m.sha384 && m.secp384r1 && m.aes256Gcm then
      (t.modSec fun e => { e with agreed := if e.agreed.contains k then e.agreed else k :: e.agreed }).spdmReply k (.data (Config.wire "ALGORITHMS" []))
    else (t.modSec fun e => { e with agreed := e.agreed.filter (· != k) }).spdmError k .invalidRequest) s

/-- A request that needs negotiated algorithms (log 52). -/
def afterAgreed (k : Conn) (f : State → State) (s : State) : Out :=
  spdmRequest k (fun t => if t.sec.agreed.contains k then f t else t.spdmError k .unexpectedRequest) s

/-- The DER of the certificate of a level (R606); its bytes are an outside standard's. -/
def State.certDer (s : State) (level : Nat) : Bytes :=
  let i := s.fw.run
  match level with
  | 0 => Config.wire "PRODUCT_CA" []
  | 1 => Config.wire "DEVICE_ID" [Config.ecdsaPublic deviceKey, Config.hssPublic hssKey,
      Config.sha384 ((List.range 40).flatMap fun d => leBytes 8 (Config.dieId d).toNat)]
  | _ => Config.wire "ALIAS" [Config.ecdsaPublic s.aliasKey, leBytes 8 ((i.map (·.version)).getD 0), leBytes 4 ((i.map (·.svn)).getD 0), s.runDigest]

/-- The certificate chain of slot 0. -/
def State.chain (s : State) : Bytes := s.certDer 0 ++ s.certDer 1 ++ s.certDer 2

/-- GET_CERTIFICATE: only slot 0 is populated. -/
def execGetCertificate (k : Conn) (slot : Nat) (s : State) : Out :=
  afterAgreed k (fun t => if slot = 0 then t.spdmReply k (.data (Config.wire "CERTIFICATE" [t.chain])) else t.spdmError k .invalidRequest) s

/-- The blocks of R611. -/
def State.measurement (s : State) (n : Nat) : Bytes :=
  match n with
  | 1 => Config.sha384 Config.bootRom
  | 2 => s.runDigest
  | 3 => leBytes 4 ((s.fw.run.map (·.svn)).getD 0) ++ leBytes 4 s.fw.floor
  | 4 => Config.sha384 ((List.range 40).flatMap fun d => leBytes 8 (Config.dieId d).toNat)
  | 5 => Config.sha384 Config.fuseMap
  | _ => Config.sha384 (Config.wire "PARTITION_MAP" ((List.range 80).map fun k => [w8 ((s.ownerClu k).getD 255)]))

/-- CHALLENGE. -/
def execChallenge (k : Conn) (slot : Nat) (nonce : Bytes) (s : State) : Out :=
  afterAgreed k (fun t =>
    if slot = 0 then t.signed k "CHALLENGE_AUTH" [Config.sha384 t.chain, ((List.range 6).flatMap fun i => t.measurement (i + 1)), nonce]
    else t.spdmError k .invalidRequest) s

/-- GET_MEASUREMENTS: index 0 asks for their number, 255 for all; a signed response for all blocks is the identity statement. -/
def execGetMeasurements (k : Conn) (idx : Nat) (sign : Bool) (nonce : Bytes) (s : State) : Out :=
  afterAgreed k (fun t =>
    let blocks : Option (List Bytes) :=
      if idx = 0 then some [[6]]
      else if idx = 255 then some ((List.range 6).map fun i => t.measurement (i + 1))
      else if idx ≤ 6 then some [t.measurement idx]
      else none
    match blocks with
    | none => t.spdmError k .invalidRequest
    | some bs =>
      if sign then t.signed k "MEASUREMENTS" (bs ++ [nonce]) else t.spdmReply k (.data (Config.wire "MEASUREMENTS" (bs ++ [nonce])))) s

/-! ### Sessions (R609, R612) -/

/-- KEY_EXCHANGE: a secured session; mutual authentication by a chain rooted in the owner's key gives it the owner role. The module's exchange data is
a free value. -/
def execKeyExchange (k : Conn) (m : KeyExch) (s : State) : Out :=
  afterAgreed k (fun t =>
    let (mine, u) := t.takeBytes 96
    let x : Session :=
      { conn := k, secret := Config.sessionSecret m.data mine (ascii "EXPORT MASTER"), owner := m.mutualRoot.isSome && m.mutualRoot == u.sec.owner }
    (u.modSec fun e => { e with sess := e.sess.filter (·.conn != k) ++ [x], nonces := e.nonces.filter (·.conn != k) }).signed k "KEY_EXCHANGE_RSP"
      [m.data, mine]) s

/-- A request inside a session (log 52). -/
def inSession (k : Conn) (f : State → State) (s : State) : Out :=
  spdmRequest k (fun t => if (t.session? k).isSome then f t else t.spdmError k .unexpectedRequest) s

def execHeartbeat (k : Conn) (s : State) : Out := inSession k (fun t => t.spdmReply k (.data (Config.wire "HEARTBEAT_ACK" []))) s

def execKeyUpdate (k : Conn) (s : State) : Out :=
  inSession k (fun t =>
    (t.modSec fun e => { e with sess := e.sess.map fun x => if x.conn == k then { x with updates := x.updates + 1 } else x }).spdmReply k
      (.data (Config.wire "KEY_UPDATE_ACK" []))) s

/-! ### HSS companions and signatures (R607, R610) -/

/-- The companion of a level: 112 bytes and the issuer's signature. -/
def State.companion (s : State) (level : Nat) : Bytes :=
  let dig := Config.sha384 (s.certDer level)
  let slot := (s.fw.run.map (·.slot)).getD 0
  let key := match level with
    | 0 => sub (Config.wire "PRODUCT_CA_HSS" []) 0 60
    | 1 => sub (Config.hssPublic hssKey) 0 60
    | _ => zeros 60
  let sig := if level = 2 then
      (match mget 0 s.fw.aliasIdx slot with
      | 0 => Config.wire "COMPANION_SIG" [leBytes 4 2, dig]
      | n + 1 => Config.hssSign hssKey n dig)
    else Config.wire "COMPANION_SIG" [leBytes 4 level, dig]
  leBytes 4 level ++ leBytes 4 sig.length ++ sub dig 0 48 ++ key ++ sig

def execHssCompanionRequest (k : Conn) (level : Nat) (s : State) : Out :=
  spdmRequest k (fun t => if level ≤ 2 then t.spdmReply k (.data (t.companion level)) else t.spdmError k .invalidRequest) s

def execHssSignatureRequest (k : Conn) (n : Nat) (s : State) : Out :=
  spdmRequest k (fun t =>
    match t.sec.sigs.find? fun e => e.1 == k && e.2.1 == n with
    | some e => t.spdmReply k (.data e.2.2)
    | none => t.spdmError k .invalidRequest) s

/-! ### The owner (R612, R623; 16 R663 to R665) -/

/-- STORE_OWNER: the first owner over the sideband, a new one in a session of the present owner's. Sessions of the former owner lose the role. -/
def execStoreOwner (k : Conn) (key : Bytes) (s : State) : Out :=
  spdmRequest k (fun t =>
    let ok := match t.sec.owner with
      | none => k == Conn.sideband
      | some _ => t.ownerSession k
    if ok then
      let u := t.modSec fun e => { e with owner := some key, sess := e.sess.map fun x => { x with owner := false } }
      (u.modBfl fun b => { b with unknown := [16, 17, 18, 19].foldl setIns b.unknown }).spdmReply k (.data [])
    else t.spdmError k .invalidRequest) s

/-- A request that needs the owner role. -/
def asOwner (k : Conn) (f : State → State) (s : State) : Out :=
  spdmRequest k (fun t => if t.ownerSession k then f t else t.spdmError k .invalidRequest) s

/-- Destroy a partition's media key: every mapping unit of it reads as zeros, so its list pages hold no entry. -/
def State.cryptoErased (s : State) (p : Nat) : State :=
  let mine (ns : Nat) : Bool := ns / 2 ^ 20 == p
  let t := s.trimUnits fun ns _ => mine ns
  let u := t.modGr fun g => { g with
    dmap := g.dmap.filter fun e => ! mine (e.1 / 2 ^ 48), slots := g.slots.filter fun e => ! (mine e.2.ns && e.2.pend.isNone) }
  let v := u.modGz fun g => { g with
    ixs := g.ixs.map fun e => if e.1 / 65536 == p then (e.1, { e.2 with lists := [], builds := [], cached := [] }) else e
    dixs := g.dixs.map fun e => if e.1 / 65536 == p then (e.1, { e.2 with lists := [], builds := [], cached := [] }) else e }
  v.modSec fun e => { e with mediaKey := mmod 0 e.mediaKey p (· + 1) }

/-- CRYPTO_ERASE; before the media keys are loaded it fails (log 55). -/
def execCryptoErase (k : Conn) (p : Nat) (s : State) : Out :=
  guardUnit (partOk p) <|
    asOwner k (fun t => if t.media then (t.cryptoErased p).spdmReply k (.data []) else t.spdmError k .unspecified) s

/-- CLEAR_NONCE: a nonce for one clear of the same session; its 32 bytes are free values (log 52). -/
def execClearNonce (k : Conn) (s : State) : Out :=
  inSession k (fun t =>
    let (n, u) := t.takeBytes 32
    (u.modSec fun e => { e with nonces := e.nonces ++ [{ conn := k, nonce := n, time := t.sys.now }] }).spdmReply k (.data n)) s

/-- CLEAR (16 R663 to R665). -/
def execClear (k : Conn) (nonce token : Bytes) (upto : BitVec 64) (s : State) : Out :=
  asOwner k (fun t =>
    let fresh (x : Nonce) : Bool := x.conn == k && x.nonce == nonce && ! x.used && decide (t.sys.now ≤ x.time + 60000000)
    let secret := ((t.session? k).map (·.secret)).getD []
    if 256 ≤ t.fbk.ledger.length then t.spdmError k .ledgerFull
    else if ! t.sec.nonces.any fresh || token != (Config.hmac384 secret (nonce ++ leBytes 8 upto.toNat)).take 16 then t.spdmError k .invalidRequest
    else
      let c : Clearing := { conn := k, upto := upto.toNat, owner := t.sec.owner.getD [], adm := t.host.admissions }
      (t.modSec fun e => { e with
        nonces := e.nonces.map fun x => if fresh x then { x with used := true } else x
        clears := e.clears ++ [c] }).clearsRun) s

/-! ### IDE (R619) -/

def IdeStream.setKey (x : IdeStream) (set : Bool) (key : Bytes) : IdeStream := if set then { x with key1 := some key } else { x with key0 := some key }
def IdeStream.keyOf (x : IdeStream) (set : Bool) : Option Bytes := if set then x.key1 else x.key0

def State.ide (s : State) (stream : Bool) : IdeStream := if stream then s.sec.memIde else s.sec.ioIde
def State.setIde (s : State) (stream : Bool) (x : IdeStream) : State := s.modSec fun e => if stream then { e with memIde := x } else { e with ioIde := x }

/-- IDE_KM: only in a session on the FM-owned logical device's mailbox, or on that of logical device 0 of a port attached directly. A key set that has
no key is not made active (log 52). -/
def execIdeKm (k : Conn) (m : IdeKm) (s : State) : Out :=
  inSession k (fun t =>
    if k != (if t.sys.switched then Conn.fm else Conn.doe 0) then t.spdmError k .unexpectedRequest
    else
      match m with
      | .keyProg st set key => (t.setIde st ((t.ide st).setKey set key)).spdmReply k (.data [])
      | .kSetGo st set =>
        if ((t.ide st).keyOf set).isSome then (t.setIde st { t.ide st with active := some set }).spdmReply k (.data [])
        else t.spdmError k .invalidRequest
      | .kSetStop st => (t.setIde st { t.ide st with active := none }).spdmReply k (.data [])) s

end Sys2Proof.Machine
end

