-- ==== Sys2Proof/Machine/PacketOps.lean ====
section
/-! DEFINITION. Packets, descriptors, admission, and what stops a command (11 R437 to R462, R476 to R479, R485). -/

namespace Sys2Proof.Machine

/-! ### Packets (R444, R445) -/

/-- The opcodes of Table 11.7 that are commands; version 1 lacks three of them (R485). -/
def knownOp (ver op : Nat) : Bool :=
  ([1, 2, 3, 4, 5, 8, 9, 0xA, 0xB, 0x10, 0x11, 0x12, 0x13, 0x20, 0x21, 0x22, 0x70, 0x71, 0x72].contains op || (decide (0x14 ≤ op) && decide (op ≤ 0x1C)) ||
    (decide (0x30 ≤ op) && decide (op ≤ 0x38)) || (decide (0x40 ≤ op) && decide (op ≤ 0x4A)) || (decide (0x50 ≤ op) && decide (op ≤ 0x54)) ||
    (decide (0x60 ≤ op) && decide (op ≤ 0x68))) && ! (ver == 1 && [0x35, 0x66, 0x0A].contains op)

/-- The opcodes of queue pair 0 alone. -/
def qp0Op (op : Nat) : Bool := decide (1 ≤ op) && decide (op ≤ 5)

/-- The largest DLEN of an opcode: none for a command without data (Table 11.7 and the chapters' tables). -/
def dlenMax (op : Nat) : Nat :=
  if [0x01, 0x14, 0x30, 0x40, 0x50, 0x60].contains op then 64
  else if [0x04, 0x11, 0x20, 0x21, 0x22, 0x31, 0x32, 0x33, 0x34, 0x35, 0x36, 0x42, 0x43, 0x44, 0x49, 0x51, 0x52, 0x53, 0x64, 0x65, 0x66, 0x70].contains op then
    0x400000
  else 0

/-- A command of a partition's queue pair, as its packet gives it (Table 11.6). -/
def cmdOf (p q ver seq head : Nat) (b : Bytes) : Cmd :=
  let w0 := fld b 0 4
  let w1 := fld b 4 4
  { ref := { part := p, qp := q, tag := bits w0 31 16 }, opcode := bits w0 7 0, ver := ver, fua := bit w1 16, embed := bit w1 17, ordered := bit w1 18
    dlen := fld b 8 4, obj := fld b 0x10 4, p1 := fld b 0x14 4, p2 := fld b 0x18 8, p3 := sub b 0x20 32, phase := .wantBlocks, seq := seq, sqHead := head }

/-- What the check of a packet gives; 0 where it passes. -/
def packetStatus (q : Nat) (c : Cmd) (b : Bytes) : Nat :=
  let w0 := fld b 0 4
  let w1 := fld b 4 4
  if ! knownOp c.ver c.opcode ∨ (qp0Op c.opcode ∧ q ≠ 0) ∨ bits w1 5 0 ≠ q then 1
  else if bits w0 15 8 ≠ 0 ∨ bits w1 15 6 ≠ 0 ∨ bits w1 31 19 ≠ 0 ∨ fld b 0xC 4 ≠ 0 ∨ (c.ver = 1 ∧ c.ordered) ∨ (c.fua ∧ c.opcode ≠ 0x11 ∧ c.opcode ≠ 0x32) ∨ (c.embed ∧ c.opcode ≠ 0x11) ∨
    dlenMax c.opcode < c.dlen then 2
  else 0

/-- Slots of inline data (R444). -/
def inlineSlots (dlen : Nat) : Nat := if 1 ≤ dlen ∧ dlen ≤ 192 then cdiv dlen 64 else 0

/-- Slots that the doorbell has announced and the module has not read (R717). -/
def Qp.waiting (k : Qp) : Nat := (k.sqTail + k.desc.sqSize - k.sqHead) % k.desc.sqSize

/-- Read a slot of a submission ring: its bytes, and whether its line is lost. -/
def State.readSlot (s : State) (p : Nat) (k : Qp) (i : Nat) : State × Bytes × Bool :=
  let key := shareKey p (k.desc.sqOff + 64 * (i % k.desc.sqSize))
  let (t, lost) := s.readLine (key / 64)
  (t, t.shareRaw key 64, lost)

/-- Read `n` slots one after the other. -/
def State.readSlots (p : Nat) (k : Qp) : Nat → State → Nat → State × Bytes × Bool
  | 0, s, _ => (s, [], false)
  | n + 1, s, i =>
    let (t, b, x) := s.readSlot p k i
    let (u, d, y) := State.readSlots p k n t (i + 1)
    (u, b ++ d, x || y)

/-- Whether the module reads packets of a queue pair now: not while a command of it waits for its slot or its blocks (R456, R458). -/
def State.reads (s : State) (p q : Nat) (k : Qp) : Bool :=
  s.alive 6 && ! s.asleep && ! k.deleting && k.sqHead != k.sqTail && (s.cmdsOf p q).all fun c => c.phase != .wantSlot && c.phase != .wantBlocks

/-- A DATA_DONE: its command goes on to its admission; one that matches no command waiting for data is counted (R457). -/
def State.dataDone (s : State) (p q tag : Nat) (token : BitVec 16) : State :=
  match s.cmd? { part := p, qp := q, tag := tag } with
  | none => s.countErr (.nqp p)
  | some c =>
    if c.phase == .wantData && c.token == some token then s.modCmd c.ref fun d => { d with phase := .wantBlocks, token := none }
    else s.countErr (.nqp p)

/-- Write the completions of repeated tags for which the ring has room (R446). -/
def State.flushDups : Nat → State → Nat → Nat → State
  | 0, s, _, _ => s
  | n + 1, s, p, q =>
    match s.qp? p q with
    | none => s
    | some k =>
      match k.dups with
      | [] => s
      | (tag, head, _) :: r =>
        if k.room = 0 then s
        else State.flushDups n ((s.putEntry p q (entryBytes tag q 0 3 head 0 0 0 [])).modQp p q fun k => { k with dups := r }) p q

/-- Write what waits for ring space and belongs to no outstanding command. -/
def State.flushRing (s : State) (p q : Nat) : State :=
  let n (f : Qp → Nat) := ((s.qp? p q).map f).getD 0
  State.flushDups (n fun k => k.dups.length) (State.flushLost (n fun k => k.lost.length) s p q) p q

/-- Take the next packet of a ring: DATA_DONE, a repeated tag, a packet that fails its check, or a new outstanding command. -/
def State.takePacket (s : State) (p q : Nat) (k : Qp) : State :=
  let (t, b, lost) := s.readSlot p k k.sqHead
  let move (u : State) (n : Nat) : State := u.modQp p q fun y => { y with sqHead := (k.sqHead + n) % k.desc.sqSize, seq := k.seq + 1 }
  let lose (u : State) (n : Nat) : State :=
    ((move u n).modQp p q fun y => { y with lost := y.lost ++ [(k.sqHead, (k.sqHead + n) % k.desc.sqSize, s.sys.now)] }).flushRing p q
  if lost then lose t 1
  else
    let n := inlineSlots (fld b 8 4)
    if k.waiting < 1 + n then s
    else
      let (u, d, gone) := State.readSlots p k n t (k.sqHead + 1)
      if gone then lose u (1 + n)
      else
        let head := (k.sqHead + 1 + n) % k.desc.sqSize
        let v := move u (1 + n)
        let c := cmdOf p q k.desc.ver k.seq head b
        let bad := packetStatus q c b
        if c.opcode = 0x0F then
          if bits (fld b 0 4) 15 8 ≠ 0 ∨ fld b 4 4 ≠ q ∨ c.dlen ≠ 0 ∨ fld b 0xC 4 ≠ 0 then v.countErr (.nqp p)
          else if 65536 ≤ c.obj then v.countErr (.nqp p) else v.dataDone p q c.ref.tag (w16 c.obj)
        else if (v.cmd? c.ref).isSome then (v.modQp p q fun y => { y with dups := y.dups ++ [(c.ref.tag, head, s.sys.now)] }).flushRing p q
        else
          let c' : Cmd :=
            if bad ≠ 0 then { c with phase := .done, status := bad, since := s.sys.now }
            else if 192 < c.dlen then { c with phase := .wantSlot } else { c with data := d.take c.dlen }
          v.modHost fun h => { h with cmds := h.cmds ++ [c'] }

/-! ### Admission (R458, R462, R718) -/

/-- The failures of a command before its admission: status and RESULT. -/
def State.opCheck (s : State) (c : Cmd) : Option (Nat × Bytes) :=
  match c.opcode with
  | 0x03 => if c.ref.part ≠ s.host.owner.toNat then some (5, []) else if 4 < c.obj then some (2, []) else none
  | 0x04 => if c.ref.part ≠ s.host.owner.toNat then some (5, []) else none
  | 0x05 => if c.ref.part ≠ s.host.owner.toNat then some (5, []) else none
  | 0x09 => if 63 < c.obj ∨ 65536 ≤ c.p1 then some (2, []) else none
  | 0x0B => s.fbReadCheck c
  | 0x10 => s.rangeCheck c
  | 0x11 => if c.embed then s.embedCheck c else s.wrCheck c
  | 0x12 => s.grNsCheck c
  | 0x13 => s.trimCheck c
  | 0x14 => s.grNsCreateCheck c
  | 0x15 => s.grNsCheck c
  | 0x16 => s.grNsCheck c
  | 0x19 => s.grNsCheck c
  | 0x20 => flLoadCheck c
  | 0x21 => s.flUnloadCheck c
  | 0x22 => s.flRunCheck c
  | 0x30 => s.gzCreateCheck c
  | 0x31 => s.gzCentroidsCheck c
  | 0x32 => s.gzInsertCheck c
  | 0x33 => s.gzDeleteCheck c
  | 0x34 => s.gzQueryCheck c
  | 0x35 => s.gzSampleCheck c
  | 0x36 => s.gzCompactCheck c
  | 0x37 => s.gzCheck c
  | 0x38 => s.gzCheck c
  | 0x40 => s.atCreateCheck c
  | 0x41 => s.atCheck c
  | 0x42 => s.atScatterCheck c
  | 0x43 => s.atGatherCheck c
  | 0x44 => s.atPrefetchCheck c
  | 0x45 => s.atCheck c
  | 0x46 => s.atVbeginCheck c
  | 0x47 => s.atCheck c
  | 0x48 => s.atCheck c
  | 0x49 => s.atMigrateCheck c
  | 0x4A => s.atCheck c
  | 0x50 => s.upSetoptCheck c
  | 0x51 => s.upFreezeCheck c
  | 0x52 => s.upBeginCheck c
  | 0x53 => s.upGradCheck c
  | 0x54 => s.upEndCheck c
  | 0x60 => s.mdLoadCheck c
  | 0x61 => s.holderCheck c
  | 0x62 => s.mdGrantCheck c
  | 0x63 => s.mdRevokeCheck c
  | 0x64 => s.mdGenCheck c
  | 0x65 => s.itemsCheck c
  | 0x66 => s.itemsCheck c
  | 0x67 => s.dropkvCheck c
  | 0x70 => s.cxRunCheck c
  | 0x71 => cxPostCheck c
  | 0x72 => s.stClusterCheck c
  | _ => none

/-- The same, with device failure where no unit of a needed kind is left (R468). -/
def State.admitCheck (s : State) (c : Cmd) : Option (Nat × Bytes) :=
  match s.opCheck c with
  | some f => some f
  | none => s.deadCheck c

/-- The largest answer body that a command's parameters allow; none for a command without an answer. -/
def State.bodyMax (s : State) (c : Cmd) : Option Nat :=
  match c.opcode with
  | 0x08 => some 64
  | 0x0B => some (fbReadReserve c)
  | 0x10 => some c.p1
  | 0x17 => some (64 + 32 * 64)
  | 0x18 => some 192
  | 0x1B => some (64 + 8 * 196800)
  | 0x22 => some (flRunReserve c)
  | 0x32 => some (16 * (c.dlen / (16 + ((s.ix? c.ref.part c.obj).map (·.nb)).getD 0)))
  | 0x33 => some (4 * (c.dlen / 16))
  | 0x34 => some (s.gzQueryReserve c)
  | 0x35 => some (gzSampleReserve c)
  | 0x37 => some 4032
  | 0x43 => some (s.atGatherReserve c)
  | 0x47 => some 64
  | 0x49 => some (2 * (c.dlen / 16))
  | 0x4A => some 4032
  | 0x54 => some 64
  | 0x64 => some (64 + 4 * genMax c)
  | 0x65 => some (s.itemsReserve c)
  | 0x66 => some (s.itemsReserve c)
  | 0x68 => some 4032
  | 0x70 => some (cxRunReserve c)
  | 0x72 => some 4032
  | _ => none

/-- What the admission binds a command to: progress numbers of an index command or an FB_READ, and the sequence of a table (05 R206, 07 R289,
16 R659). -/
def State.bindCmd (s : State) (c : Cmd) : State :=
  if 0x31 ≤ c.opcode ∧ c.opcode ≤ 0x37 then s.modCmd c.ref fun d => { d with work := s.gzBind c }
  else if c.opcode = 0x0B then s.modCmd c.ref fun d => { d with work := s.fbAdmit c }
  else s.atAdmit c

/-- Admit a command, with its data and its blocks. A command that kept its admission keeps its number and what it was bound to (R460). -/
def State.admitIt (s : State) (c : Cmd) (res : Option (Nat × Nat)) : State :=
  let n := if c.adm = 0 then s.host.admissions + 1 else c.adm
  let t := s.modHost fun h => { h with admissions := max h.admissions n }
  let u := t.modCmd c.ref fun d => { d with data := c.data, adm := n, res := res, phase := .admitted }
  if c.adm ≠ 0 ∧ c.work ≠ [] then u else u.bindCmd c

/-- The command as admission finds it: staged data is read from its slot, and lost lines show (R457, R460). -/
def State.withData (s : State) (c : Cmd) (k : Qp) : State × Cmd × Bool :=
  match c.slot with
  | none => (s, c, false)
  | some (g, _) =>
    let key := shareKey c.ref.part (k.desc.stgOff + g * 65536)
    let (a, n) := lineSpan key c.dlen
    let (t, lost) := State.checkLines n s a
    (t, { c with data := t.shareRaw key c.dlen }, lost)

/-- Look at a command that waits for its admission. Where a line of its data is lost it keeps its admission, bound to what the data that can be read
name (R460, log 58). -/
def State.admitGo (s : State) (c0 : Cmd) (k : Qp) : State :=
  let (t, c, lost) := s.withData c0 k
  if lost then
    let n := if c.adm = 0 then t.host.admissions + 1 else c.adm
    let u := (t.modHost fun h => { h with admissions := max h.admissions n }).modCmd c.ref fun d => { d with phase := .wantSlot, slot := none, adm := n }
    if c.adm = 0 ∧ (t.opCheck c).isNone then u.bindCmd c else u
  else
    match t.admitCheck c with
    | some (st, r) => t.cmdFail c.ref st r
    | none =>
      match t.bodyMax c with
      | none => t.admitIt c none
      | some m =>
        let n := cdiv (m + 64) 4096
        if k.desc.ansBlocks < n then t.cmdFail c.ref 2 []
        else
          match fitFrom (t.answerUsed c.ref.part c.ref.qp k) k.desc.ansBlocks n with
          | none => t
          | some a =>
            (t.admitIt c (some (a, n))).modHost fun h => { h with undef := h.undef ++ [(shareKey c.ref.part (k.desc.ansOff + a * 4096), n * 4096)] }

/-! ### Queue-pair descriptors (R437 to R439) -/

/-- A descriptor (Table 11.4). -/
def qpDesc (d : Bytes) : QpDesc :=
  let sz := fld d 4 4
  { ver := fld d 1 1, sqSize := 2 ^ (bits sz 3 0 + 4), cqSize := 2 ^ (bits sz 11 8 + 4), sqOff := fld d 8 8, cqAddr := fld d 0x10 8, ansOff := fld d 0x18 8
    ansBlocks := fld d 0x20 4, stgGran := fld d 0x24 4, stgOff := fld d 0x28 8, int := bits (fld d 0x30 4) 6 0, intEn := bit (fld d 0x30 4) 7 }

/-- The ring and areas of a queue pair in the share: offset, bytes. -/
def QpDesc.areas (x : QpDesc) : List (Nat × Nat) := [(x.sqOff, 64 * x.sqSize), (x.ansOff, 4096 * x.ansBlocks), (x.stgOff, 65536 * x.stgGran)]

def apart (a b : Nat × Nat) : Bool := decide (a.1 + a.2 ≤ b.1) || decide (b.1 + b.2 ≤ a.1)

/-- Whether the module speaks a version. -/
def State.speaks (s : State) (v : Nat) : Bool :=
  match s.fw.run with
  | none => false
  | some i => v == i.n || v == i.old

/-- The queue pairs of a partition. -/
def State.qpsOf (s : State) (p : Nat) : List (Nat × Qp) := s.host.qps.filter fun e => e.1 / 64 == p

/-- Whether a descriptor is rejected, its version apart (R438). -/
def State.descBad (s : State) (p q : Nat) (d : Bytes) : Bool :=
  let x := qpDesc d
  let w := fld d 0 4
  let sz := fld d 4 4
  let others := (s.qpsOf p).map (·.2.desc)
  bits w 5 0 != q || bits w 7 6 != 0 || bits w 31 16 != 0 || decide (8 < bits sz 3 0) || bits sz 7 4 != 0 || decide (8 < bits sz 11 8) || bits sz 31 12 != 0 ||
  x.sqOff % 4096 != 0 || x.cqAddr % 4096 != 0 || x.ansOff % 4096 != 0 || x.stgOff % 65536 != 0 || x.ansBlocks == 0 || decide (2 ^ 20 < x.ansBlocks) ||
  decide (x.stgGran < 64) || decide (65536 < x.stgGran) || decide (64 ≤ x.int) || bits (fld d 0x30 4) 31 8 != 0 || (sub d 0x34 12).any (· != 0) ||
  x.areas.any (fun a => decide (a.1 < hostArea) || decide (s.shareSize p < a.1 + a.2)) ||
  (x.areas.zipIdx).any (fun a => (x.areas.zipIdx).any fun b => decide (a.2 < b.2) && ! apart a.1 b.1) ||
  others.any fun y => (x.areas.any fun a => y.areas.any fun b => ! apart a b) || ! apart (x.cqAddr, 64 * x.cqSize) (y.cqAddr, 64 * y.cqSize)

/-- Set up a queue pair: heads and tails 0, empty areas, phase 1 (R439). -/
def State.newQp (s : State) (p q : Nat) (x : QpDesc) : State :=
  s.modHost fun h => { h with qps := lset h.qps (qpKey p q) { desc := x }, share := mclear h.share (shareKey p (64 * q)) 64 }

/-- Take a queue pair away; its answers become undefined (R440, R465). -/
def State.delQp (s : State) (p q : Nat) : State :=
  match s.qp? p q with
  | none => s
  | some k =>
    s.modHost fun h => { h with
      qps := ldel h.qps (qpKey p q), share := mclear h.share (shareKey p (64 * q)) 64
      undef := h.undef ++ k.published.map fun r => (shareKey p (k.desc.ansOff + r.1 * 4096), r.2 * 4096) }

/-! ### Doorbells (R441, R442, R481, R482, R717) -/

/-- Leave PS3 or PS4 for PS0; a return from PS4 raises the event (R482). -/
def State.wake (s : State) (p : Nat) : State :=
  if ! s.asleep then s
  else
    let t := (s.capStep fun u => u.modHost fun h => { h with power := 0 }).modDram fun d => { d with selfRefresh := [] }
    if s.host.power = 4 then t.raise .hst 0 0x8003 (words [p]) else t

/-- Act on a SQ_TAIL value. -/
def State.actTail (s : State) (p q v : Nat) : State := (s.wake p).modQp p q fun k => { k with sqTail := v }

/-- A SQ_TAIL write (R442, R481). -/
def State.putTail (s : State) (p q v : Nat) : State :=
  match s.qp? p q with
  | none => s
  | some k =>
    if k.desc.sqSize ≤ v then s.countErr (.nqp p)
    else if s.host.tailHeld then s.modQp p q fun k => { k with heldTail := some v }
    else s.actTail p q v

/-- Act on the SQ_TAIL writes that were held (R481). -/
def State.releaseTails (s : State) : State :=
  s.host.qps.foldl (fun t e => match e.2.heldTail with
    | none => t
    | some v => (t.actTail (e.1 / 64) (e.1 % 64) v).modQp (e.1 / 64) (e.1 % 64) fun k => { k with heldTail := none })
    (s.modHost fun h => { h with entering := none, tailHeld := false })

/-- A CQ_HEAD write (R442, R717). -/
def State.putHead (s : State) (p q v : Nat) : State :=
  match s.qp? p q with
  | none => s
  | some k =>
    let n := (v + k.desc.cqSize - k.cqHead) % k.desc.cqSize
    if k.desc.cqSize ≤ v ∨ k.cqUsed < n then s.countErr (.nqp p)
    else (s.modQp p q fun k => { k with cqHead := v, cqUsed := k.cqUsed - n }).flushRing p q

/-- A release (R442, R465). -/
def State.putRelease (s : State) (p q first count : Nat) : State :=
  match s.qp? p q with
  | none => s
  | some k =>
    if k.published.contains (first, count) then
      (s.modQp p q fun k => { k with published := k.published.filter (· != (first, count)) }).modHost fun h => { h with
        undef := h.undef ++ [(shareKey p (k.desc.ansOff + first * 4096), count * 4096)] }
    else s.countErr (.nqp p)

/-! ### Stopping a command (R476 to R479, R483) -/

/-- The job context of a command. -/
def State.jobOf (s : State) (r : CmdRef) : Option (Nat × Ctx) := s.sched.ctxs.find? fun e => e.2.cmd == some r

/-- What an abort of a command that runs comes to (R476; 06 R266, 08 R346, 09 R354, R382, 10 R404). -/
def State.caughtRunning (s : State) (c : Cmd) : Nat :=
  if s.gr.awaits.any fun a => a.ref == c.ref then (if ([0x11, 0x12, 0x13, 0x45].contains c.opcode) && ! c.embed then 2 else 0)
  else if [0x02, 0x54, 0x61].contains c.opcode then 0
  else if c.opcode = 0x64 then (if s.mdl.seqs.any fun q => q.ref == c.ref then 2 else 1)
  else if c.opcode = 0x65 ∨ c.opcode = 0x66 then
    (if (s.mdl.items.any fun i => i.ref == c.ref && i.out.isSome) || s.mdl.steps.any fun e => e.2.slots.any fun x => (x.item.map (·.1)) == some c.ref then 2 else 1)
  else if c.opcode = 0x70 then
    (match s.jobOf c.ref with
    | none => 0
    | some (_, x) => if x.begun then 2 else 1)
  else 2

/-- The outcome of an ABORT: 0 too late, 1 caught before it started, 2 caught while running and stopped (R476). -/
def State.caught (s : State) (c : Cmd) : Nat :=
  match c.phase with
  | .running => s.caughtRunning c
  | .worked => 0
  | .done => 0
  | _ => 1

/-- Stop the work of a command that has been caught, and undo what its chapter says (R478). -/
def State.stopWork (s : State) (c : Cmd) : State :=
  if c.phase != .running then s
  else
    let t := s.modGr fun g => { g with awaits := g.awaits.filter fun a => a.ref != c.ref }
    match c.opcode with
    | 0x03 => t.releaseTails
    | 0x11 => if c.embed then t.embedDrop c.ref else t
    | 0x22 => t.flDrop c.ref
    | 0x36 =>
      (match t.ix? c.ref.part c.obj with
      | none => t
      | some x => t.setIx c.ref.part c.obj { x with builds := x.builds.filter fun b => ! ((compactLists x c).contains b.1) })
    | 0x43 => t.untake c.ref
    | 0x49 => t.modTab (tabKey c.ref.part c.obj) fun y => { y with moves := y.moves.filter fun m => m.cmd != some c.ref }
    | 0x53 => t.gradStop c
    | 0x60 => t.loadStop
    | 0x64 => t.genStop c.ref
    | 0x65 => t.itemsStop c.ref
    | 0x66 => t.itemsStop c.ref
    | 0x70 =>
      (match t.jobOf c.ref with
      | none => t
      | some (x, cx) => if cx.begun then t.teardown x cx else t.endCtx x cx)
    | 0x72 => t.modSched fun d => { d with drained := setDel d.drained c.obj }
    | _ => t

/-- RESULT of a stopped command (Table 11.10). -/
def stopResult (c : Cmd) : Bytes :=
  if c.phase != .running then []
  else if c.opcode = 0x42 then leBytes 4 (c.work.getD 1 0) ++ leBytes 4 (c.work.headD 0)
  else if c.opcode = 0x49 then leBytes 4 (c.work.filter (· == 0)).length
  else []

/-- Abort a command that is caught: it completes with status aborted (R476). -/
def State.abortCmd (s : State) (c : Cmd) : State :=
  if s.caught c = 0 then s else (s.stopWork c).cmdFail c.ref 9 (stopResult c)

/-- An UP_END whose work has ended closes its step (08 R338). -/
def State.closeCmd (s : State) (c : Cmd) : State := if c.opcode = 0x54 ∧ c.status = 0 then s.upClose c.ref else s

def State.forget (s : State) (r : CmdRef) : State := s.modHost fun h => { h with cmds := h.cmds.filter (·.ref != r) }

/-- Stop a command without a completion (R440, R483). Pass 2 of an UP_END runs to its end (08 R346). -/
def State.dropCmd (s : State) (c : Cmd) : State :=
  if s.caught c ≠ 0 then (s.stopWork c).forget c.ref
  else if c.phase == .running && c.opcode == 0x54 && ! (s.gr.awaits.any fun a => a.ref == c.ref) then s.modCmd c.ref fun d => { d with silent := true, res := none }
  else ((s.modGr fun g => { g with awaits := g.awaits.filter fun a => a.ref != c.ref }).closeCmd c).forget c.ref

/-- Drop commands, and then take their queue pair away. -/
def State.dropQp (s : State) (p q : Nat) : State := ((s.cmdsOf p q).foldl State.dropCmd s).delQp p q

/-- Drop queue pair 0, and the queue pairs that it was deleting. -/
def State.dropQp0 (s : State) (p : Nat) : State :=
  let gone := ((s.qpsOf p).filter fun e => e.2.deleting).map fun e => e.1 % 64
  gone.foldl (fun t q => t.dropQp p q) (s.dropQp p 0)

end Sys2Proof.Machine
end

