-- ==== Sys2Proof/Machine/Packets.lean ====
section
/-! DEFINITION. The host link's commands: packets, transfers, admission, answers, completions, doorbells, the window share, queue pairs, power
states, IDENTIFY, ABORT (11 R432 to R482). -/

namespace Sys2Proof.Machine

/-! ### From the packet to the admission -/

/-- COMMAND_PACKET: the next packet of a ring is read and checked (R445). -/
def execCommandPacket (p q : Nat) (s : State) : Out :=
  guardUnit (partOk p && qpOk q) <|
    match s.qp? p q with
    | none => .next s
    | some k => .next (if s.reads p q k then s.takePacket p q k else s)

/-- TRANSFER_READY: a slot is allocated, and its entry is written (R456). The token is a free value (log 30). -/
def execTransferReady (r : CmdRef) (s : State) : Out :=
  guardUnit (refOk r) <|
    match s.cmd? r, s.qp? r.part r.qp with
    | some c, some k =>
      let n := cdiv c.dlen 65536
      if c.phase != .wantSlot || ! s.alive 6 || s.asleep || k.room == 0 then .next s
      else
        match fitFrom (s.stagingUsed r.part r.qp) k.desc.stgGran n with
        | none => .next s
        | some g =>
          let (x, t) := s.takeFree
          let u := t.modCmd r fun d => { d with phase := .wantData, slot := some (g, n), token := some (w16 x), since := s.sys.now }
          .next (u.putEntry r.part r.qp (entryBytes r.tag r.qp 1 0 c.sqHead (k.desc.stgOff + g * 65536) (n * 65536) (x % 65536) []))
    | _, _ => .next s

/-- DATA_DONE: the reading of a DATA_DONE packet that stands next in the ring and that a doorbell write has covered (R443, R457, log 57). -/
def execDataDone (r : CmdRef) (token : BitVec 16) (s : State) : Out :=
  guardUnit (refOk r) <|
    match s.qp? r.part r.qp with
    | none => .next s
    | some k =>
      if ! s.alive 6 || s.asleep || k.deleting || (s.cmdsOf r.part r.qp).any fun c => c.phase == .wantSlot || c.phase == .wantBlocks then .next s
      else
        let b := (s.readSlot r.part k k.sqHead).2.1
        let here := k.sqHead != k.sqTail && fld b 0 1 == 0x0F && fld b 2 2 == r.tag && fld b 0x10 4 == token.toNat
        .next (if here then s.takePacket r.part r.qp k else s)

/-- ADMISSION (R458). -/
def execAdmission (r : CmdRef) (s : State) : Out :=
  guardUnit (refOk r) <|
    match s.cmd? r, s.qp? r.part r.qp with
    | some c, some k => .next (if c.phase == .wantBlocks && s.alive 6 && ! s.asleep then (s.admitGo c k).unstall r.part else s)
    | _, _ => .next s

/-! ### Answers and completions (R462 to R466) -/

/-- The answer record of a command: header and body (Table 11.11). -/
def answerRecord (c : Cmd) (seq : Nat) (body : Bytes) : Bytes :=
  let rest := leBytes 4 (64 + body.length) ++ leBytes 1 c.opcode ++ zeros 1 ++ leBytes 2 c.ref.tag ++ leBytes 4 c.ref.qp ++
    leBytes 8 (if c.ver = 1 then 0 else seq) ++ zeros 40 ++ body
  leBytes 4 (crc32c rest) ++ rest

/-- Publish an answer in its blocks: the blocks beyond the record are freed; the bytes stay undefined until the completion entry is visible (R463). -/
def State.publish (s : State) (c : Cmd) (k : Qp) (body : Bytes) : State :=
  let seq := mget 0 s.host.ansSeq c.ref.part + 1
  let rcd := answerRecord c seq body
  let (a, n) := c.res.getD (0, 0)
  let off := k.desc.ansOff + a * 4096
  let m := min n (cdiv rcd.length 4096)
  let t := (s.modHost fun h => { h with ansSeq := mset 0 h.ansSeq c.ref.part seq }).sharePut (shareKey c.ref.part off) rcd
  let u := t.modHost fun h => { h with undef := h.undef ++ [(shareKey c.ref.part off, rcd.length)] }
  u.modCmd c.ref fun d => { d with phase := .done, res := some (a, m), ansRec := some (off, rcd.length, fld rcd 0 4), since := s.sys.now }

/-- ANSWER_PUBLISH: once all parts of the work are complete. -/
def execAnswerPublish (r : CmdRef) (s : State) : Out :=
  guardUnit (refOk r) <|
    match s.cmd? r with
    | none => .next s
    | some c =>
      if c.phase != .worked || ! s.alive 6 then .next s
      else if c.silent then .next (s.modCmd r fun d => { d with phase := .done })
      else
        match c.body, s.qp? r.part r.qp with
        | some b, some k => .next ((s.publish c k b).clearsRun)
        | _, _ => .next s

/-- A command has its completion entry: its answer, if it has one, is published; its tag, slot and step go (R446, R459). -/
def State.complete (s : State) (c : Cmd) : State :=
  let p := c.ref.part
  let t := match c.ansRec, c.res with
    | some (off, len, _), some x =>
      let u := s.modQp p c.ref.qp fun k => { k with published := k.published ++ [x] }
      if c.spoiled then u else u.modHost fun h => { h with undef := undefSub h.undef (shareKey p off) len }
    | _, _ => s
  (((t.closeCmd c).forget c.ref).unstall p).clearsRun

/-- COMPLETION_ENTRY_WRITE: once the ring has room (R454). A command whose queue pair is gone ends with no entry. -/
def execCompletionEntryWrite (r : CmdRef) (s : State) : Out :=
  guardUnit (refOk r) <|
    match s.cmd? r with
    | none => .next s
    | some c =>
      if c.phase != .done || ! s.alive 6 then .next s
      else if c.silent then .next ((s.closeCmd c).forget r)
      else
        match s.qp? r.part r.qp with
        | none => .next s
        | some k =>
          if k.room = 0 then .next s
          else
            let (off, len, crc) := c.ansRec.getD (0, 0, 0)
            .next ((s.putEntry r.part r.qp (entryBytes r.tag r.qp 0 c.status c.sqHead off len crc c.result)).complete c)

/-- The cores that run parts of a command now. -/
def State.unitsOf (s : State) (c : Cmd) : List Nat :=
  match c.opcode with
  | 0x70 => (match s.jobOf c.ref with
    | none => []
    | some (_, cx) => if cx.place == .resident then cx.cores else [])
  | 0x22 => (s.fch.invs.filter fun e => e.2.ref == c.ref).map (·.1)
  | _ => (s.mdl.entries.filter fun e => (s.mdl.stepRefs e.no).contains c.ref).flatMap fun e =>
      (s.sched.ctxs.filter fun x => x.2.kind == .entry e.no && x.2.place == .resident).flatMap (·.2.cores)

/-- UNIT_RERUN: the unit that ran a part of a command has failed: of its cores one, as a free value. It leaves service as a failed core does, and the part runs
again on another; with no unit left the command fails (R468, 06 R253, 10 R415, 13 R570). -/
def State.rerunPart (s : State) (c : Cmd) : State :=
  let us := s.unitsOf c
  let (n, t) := s.takeFree
  match us[n % max 1 us.length]? with
  | none => s
  | some u => t.coreFailed u

def execUnitRerun (r : CmdRef) (s : State) : Out :=
  guardUnit (refOk r) <|
    match s.cmd? r with
    | none => .next s
    | some c => .next (if c.phase == .running && s.serves c.opcode then s.rerunPart c else s)

/-! ### Doorbell lines and the window share (R432 to R436, R441) -/

/-- The ring pointers of a queue pair as free values: what becomes of a partition's queues is undefined (10 R424). -/
def Qp.wild (k : Qp) (n : Nat) : Qp :=
  let sq (i : Nat) : Nat := Config.freeNat (n + i) % k.desc.sqSize
  let cq (i : Nat) : Nat := Config.freeNat (n + i) % k.desc.cqSize
  { k with sqTail := sq 0, sqHead := sq 1, cqHead := cq 2, cqWr := cq 3, cqUsed := cq 4, phase := Config.freeNat (n + 5) % 2 == 1 }

/-- A host that breaks condition 3 of R422 makes the behaviour of its own partition's queues undefined, and nothing else (10 R424): their ring pointers
are free values from then on, and so are the bytes of their answers (log 102). -/
def State.queuesWild (s : State) (p : Nat) : State :=
  let t := s.modHost fun h => { h with
    qps := h.qps.zipIdx.map fun e => if e.1.1 / 64 == p then (e.1.1, e.1.2.wild (s.free + 6 * e.2)) else e.1
    cmds := h.cmds.map fun c => if c.ref.part == p then { c with spoiled := true } else c
    undef := h.undef ++ (h.qps.filter fun e => e.1 / 64 == p).flatMap fun e =>
      e.2.published.map fun r => (shareKey p (e.2.desc.ansOff + r.1 * 4096), r.2 * 4096) }
  { t with free := s.free + 6 * s.host.qps.length }

/-- Keep what the host wrote in a host field of a doorbell line. -/
def State.keepBell (s : State) (p q o : Nat) (bs : Bytes) : State :=
  s.modHost fun h => { h with share := wrBytes h.share (shareKey p (64 * q + o)) bs }

/-- A doorbell write. Where no queue pair is set up the partition's queues become undefined (10 R424). -/
def bellWrite (p q : Nat) (f : State → State) (s : State) : Out :=
  guardUnit (partOk p && qpOk q) <|
    if ! s.ldUp p then .next s
    else if (s.qp? p q).isNone then .next (s.queuesWild p)
    else .next ((f s).unstall p)

def execSqTail (p q : Nat) (v : BitVec 16) (s : State) : Out := bellWrite p q (fun t => (t.keepBell p q 0 (leBytes 2 v.toNat)).putTail p q v.toNat) s
def execCqHead (p q : Nat) (v : BitVec 16) (s : State) : Out := bellWrite p q (fun t => (t.keepBell p q 4 (leBytes 2 v.toNat)).putHead p q v.toNat) s
def execAnswerRelease (p q : Nat) (first count : BitVec 32) (s : State) : Out :=
  bellWrite p q (fun t => (t.keepBell p q 8 (leBytes 4 first.toNat ++ leBytes 4 count.toNat)).putRelease p q first.toNat count.toNat) s

/-- The bytes of the share-information page (Table 11.3). -/
def State.shareInfo (s : State) (p : Nat) : Bytes :=
  let (n, old) := (s.fw.run.map fun i => (i.n, i.old)).getD (0, 0)
  leBytes 2 p ++ zeros 6 ++ leBytes 8 (s.shareSize p) ++ leBytes 1 n ++ leBytes 1 old

/-- Whether an offset in a doorbell line lies in a host field. -/
def bellHost (o : Nat) : Bool := [0, 1, 4, 5, 8, 9, 10, 11, 12, 13, 14, 15].contains o

/-- A byte of a doorbell line: the last value written in a host field, the present value in a module field (R441). -/
def State.bellByte (s : State) (p q o : Nat) : Byte :=
  match s.qp? p q with
  | none => 0
  | some k =>
    if bellHost o then rdByte s.host.share (shareKey p (64 * q + o))
    else if o = 0x10 ∨ o = 0x11 then (leBytes 2 k.sqHead).getD (o - 0x10) 0
    else if 0x14 ≤ o ∧ o < 0x18 then (leBytes 4 (s.ansFree p q k)).getD (o - 0x14) 0
    else 0

/-- The bytes that a read of a share returns. -/
def State.shareLook (s : State) (p off len : Nat) : Bytes :=
  let raw := s.shareRaw (shareKey p off) len
  (List.range len).map fun i =>
    let a := off + i
    if a < 0x1000 then s.bellByte p (a / 64) (a % 64)
    else if a < 0x2000 then (s.shareInfo p).getD (a - 0x1000) 0
    else if a < hostArea then 0
    else raw.getD i 0

/-- In PS3 and PS4 the channels of the lines that an access touches leave self-refresh (14 R592). -/
def State.touchLines (s : State) (key len : Nat) : State :=
  if s.asleep then
    let (l, n) := lineSpan key len
    let gs := (List.range n).flatMap fun i => [winPlace (l + i) false / 2 ^ 25, winPlace (l + i) true / 2 ^ 25]
    s.modDram fun d => { d with selfRefresh := d.selfRefresh.filter fun g => ! gs.contains g }
  else s

/-- SHARE_READ (R433 to R435, R441). -/
def execShareRead (p off len : Nat) (s : State) : Out :=
  guardUnit (partOk p) <|
    if ! s.ldUp p then .next s
    else if s.shareSize p < off + len then .fault .outsideShare
    else
      let a := max off hostArea
      let (l, n) := lineSpan (shareKey p a) (off + len - a)
      let t := (State.checkLines (if off + len ≤ a then 0 else n) (s.touchLines (shareKey p off) len) l).1
      .next (({ t with free := t.free + len }).modHost fun h => { h with reply := t.shareLook p off len })

/-- One piece of a host write that lies in one doorbell line. -/
def State.bellPut (s : State) (p q o : Nat) (bs : Bytes) : State :=
  let en (i : Nat) : Bool := decide (o ≤ i) && decide (i < o + bs.length)
  let val (i n : Nat) : Nat := fld bs (i - o) n
  let t := ((List.range bs.length).filter fun i => bellHost (o + i)).foldl (fun t i => t.keepBell p q (o + i) (sub bs i 1)) s
  let u := if en 0 && en 1 then t.putTail p q (val 0 2) else t
  let v := if en 4 && en 5 then u.putHead p q (val 4 2) else u
  if en 8 && en 15 then v.putRelease p q (val 8 4) (val 12 4) else v

/-- The answer whose blocks hold an offset of a share: that of a command, or a published one, as its range of bytes (R436). -/
def State.answerAt (s : State) (p off : Nat) : Option (Option CmdRef × Nat × Nat) :=
  (s.qpsOf p).findSome? fun e =>
    let k := e.2
    let rng (r : Nat × Nat) : Nat × Nat := (k.desc.ansOff + r.1 * 4096, r.2 * 4096)
    let hit (r : Nat × Nat) : Bool := decide ((rng r).1 ≤ off) && decide (off < (rng r).1 + (rng r).2)
    match (s.cmdsOf p (e.1 % 64)).find? fun c => (c.res.map hit).getD false with
    | some c => some (some c.ref, 0, 0)
    | none => (k.published.find? hit).map fun r => (none, (rng r).1, (rng r).2)

/-- One line of a host write to the host area. A store into a reserved block makes that answer undefined, and does nothing else (R436). -/
def State.areaPut (s : State) (p off : Nat) (bs : Bytes) : State :=
  match s.answerAt p off with
  | some (some r, _, _) => s.modCmd r fun c => { c with spoiled := true }
  | some (none, a, n) => s.modHost fun h => { h with undef := undefSub h.undef (shareKey p a) n ++ [(shareKey p a, n)] }
  | none => s.hostPutLine (shareKey p off) bs

/-- A host write, line by line. -/
def State.hostWrite (p : Nat) : Nat → State → Nat → Bytes → State
  | 0, s, _, _ => s
  | n + 1, s, off, bs =>
    if bs = [] then s else
      let m := min bs.length (64 - off % 64)
      let t := if off < 0x1000 then s.bellPut p (off / 64) (off % 64) (bs.take m) else if off < hostArea then s else s.areaPut p off (bs.take m)
      State.hostWrite p n t (off + m) (bs.drop m)

/-- SHARE_WRITE: doorbells act, reserved and read-only parts ignore it, the host area stores it in two copies (R432, R433, R441). -/
def execShareWrite (p off : Nat) (data : Bytes) (s : State) : Out :=
  guardUnit (partOk p) <|
    if ! s.ldUp p then .next s
    else if s.shareSize p < off + data.length then .fault .outsideShare
    else
      let (l, n) := lineSpan off data.length
      if data ≠ [] ∧ (List.range n).any fun i => decide (l + i < 64) && (s.qp? p (l + i)).isNone then .next (s.queuesWild p)
      else .next ((State.hostWrite p (n + 1) (s.touchLines (shareKey p off) data.length) off data).unstall p)

/-! ### Queue pairs (R437 to R440) -/

/-- QP_CREATE. -/
def execQpCreate (r : CmdRef) (s : State) : Out :=
  startCmd r 0x01 (fun c t =>
    let q := bits (fld c.data 0 4) 5 0
    if c.dlen ≠ 64 ∨ q = 0 then t.cmdFail r 2 []
    else if (t.qp? r.part q).isSome then t.cmdFail r 7 []
    else if ! t.speaks (qpDesc c.data).ver then t.cmdFail r 4 []
    else if t.descBad r.part q c.data then t.cmdFail r 2 []
    else (t.newQp r.part q (qpDesc c.data)).cmdDone r [] none) s

/-- QP_DELETE: every command of the queue pair is aborted; when all have completed, the queue pair goes (R440). -/
def execQpDelete (r : CmdRef) (s : State) : Out :=
  stepCmd r 0x02
    (fun c t =>
      match t.qp? r.part c.obj with
      | none => t.cmdFail r 2 []
      | some k =>
        if c.obj = 0 ∨ 63 < c.obj ∨ k.deleting then t.cmdFail r 2 []
        else (t.cmdsOf r.part c.obj).foldl State.abortCmd (t.modQp r.part c.obj fun k => { k with deleting := true }))
    (fun c t => if (t.cmdsOf r.part c.obj).isEmpty then (t.delQp r.part c.obj).cmdDone r [] none else t) s

/-- The descriptor of queue pair 0 as its registers hold it. -/
def State.qp0Bytes (s : State) (p : Nat) : Bytes := (List.range 16).flatMap fun i => leBytes 4 (mget 0 s.host.qp0Desc (p * 16 + i)).toNat

/-- NQP_QP0_CTL_EN: EN sets up queue pair 0 or takes it away; each write clears ERR (R437, R438, R440). -/
def execNqpQp0CtlEn (p : Nat) (v : BitVec 32) (s : State) : Out :=
  guardUnit (partOk p) <|
    if ! s.ldUp p then .next s
    else
      let m : BitVec 16 := BitVec.ofNat 16 (2 ^ p)
      let t := s.modHost fun h => { h with qp0Err := h.qp0Err &&& ~~~m }
      let d := t.qp0Bytes p
      .next (
        if v.getLsbD 0 then
          if (t.qp? p 0).isSome then t
          else if ! t.speaks (qpDesc d).ver || t.descBad p 0 d then t.modHost fun h => { h with qp0Err := h.qp0Err ||| m }
          else t.newQp p 0 (qpDesc d)
        else if (t.qp? p 0).isSome then t.dropQp0 p else t)

/-! ### Power states (R480 to R482) -/

/-- PWR_SET: a cap is in force at once; the entry ends with POWER_STATE_ENTERED (R480, R481). -/
def execPwrSet (r : CmdRef) (s : State) : Out :=
  startCmd r 0x03 (fun c t =>
    if t.host.entering.isSome then t.cmdFail r 7 []
    else
      let u := t.modHost fun h => { h with entering := some (c.obj, r) }
      if c.obj ≤ 2 then u.capStep fun x => x.modHost fun h => { h with power := c.obj } else u) s

/-- Whether the entry condition of Table 11.12 holds: no other command outstanding, and no packet that was announced
unread (R481); for PS4 the buffer empty and the journal committed. -/
def State.mayEnter (s : State) (k : Nat) (r : CmdRef) : Bool :=
  (s.host.cmds.all fun c => c.ref == r) && (s.host.qps.all fun e => e.2.sqHead == e.2.sqTail) && (k != 4 || (s.gr.slots.isEmpty && decide (s.gr.jseq ≤ s.gr.jdur)))

/-- POWER_STATE_ENTERED. -/
def execPowerStateEntered (s : State) : Out :=
  match s.host.entering with
  | none => .next s
  | some (k, r) =>
    if ! s.alive 6 || ! s.mayEnter k r then .next s
    else
      let t := s.capStep fun x => x.modHost fun h => { h with power := k }
      let u := if 3 ≤ k then t.modDram fun d => { d with selfRefresh := List.range 640 } else t
      let v := if k = 4 then u.saveBins else u
      .next ((v.cmdDone r (leBytes 4 k) none).releaseTails)

/-- ENTRY_LIMIT: the entry has lasted HST_PWR.ENTRY_LIMIT; SQ_TAIL writes are held (R481). -/
def execEntryLimit (s : State) : Out := .next (if s.alive 6 && s.host.entering.isSome then s.modHost fun h => { h with tailHeld := true } else s)

/-! ### IDENTIFY and ABORT (R449, R476, R477) -/

/-- The IDENTIFY answer body. -/
def State.identity (s : State) (p : Nat) : Bytes :=
  let (n, old, ver) := (s.fw.run.map fun i => (i.n, i.old, i.version)).getD (0, 0, 0)
  leBytes 1 n ++ leBytes 1 old ++ zeros 2 ++ leBytes 4 p ++ leBytes 16 ((s.clustersOf p).map (2 ^ ·)).sum ++ leBytes 8 (s.quota p / 0x100000) ++
    leBytes 8 (s.shareSize p) ++ leBytes 8 ver ++ zeros 16

def execIdentify (r : CmdRef) (s : State) : Out := startCmd r 0x08 (fun _ t => t.cmdDone r [] (some (t.identity r.part))) s

/-- An ABORT answers when the command it found is no longer outstanding: its completion goes first (R477). -/
def State.abortWait (s : State) (c : Cmd) : State :=
  let target : CmdRef := { part := c.ref.part, qp := c.obj, tag := c.p1 }
  if target != c.ref && s.host.cmds.any fun d => d.ref == target && d.seq == c.work.getD 1 0 && ! d.silent then s
  else s.cmdDone c.ref (leBytes 1 (c.work.headD 0)) none

/-- ABORT. -/
def execAbort (r : CmdRef) (s : State) : Out :=
  stepCmd r 0x09
    (fun c t =>
      match t.cmd? { part := r.part, qp := c.obj, tag := c.p1 } with
      | none => t.cmdDone r [0] none
      | some d =>
        if d.ref == r then t.cmdDone r [0] none
        else
          let work := [t.caught d, d.seq]
          ((t.abortCmd d).modCmd r fun x => { x with work := work }).abortWait { c with work := work })
    (fun c t => t.abortWait c) s

end Sys2Proof.Machine
end

