-- ==== Sys2Proof/Machine/Reset.lean ====
section
/-! DEFINITION. Resets and the link (11 R427, R483, R484; 15 R620; 18 R690), and the fabric manager's commands (10 R389, R390; 11 R430, R431). -/

namespace Sys2Proof.Machine

/-! ### Resets of logical devices -/

/-- Reset one logical device: its commands stop without completions; its queue pairs, answers, staging slots and NQP registers go (11 R483; 17
R681). -/
def State.resetLd (s : State) (p : Nat) : State :=
  let t := (s.host.cmds.filter fun c => c.ref.part == p && ! c.silent).foldl State.dropCmd s
  let u := (t.qpsOf p).foldl (fun v e => v.delQp p (e.1 % 64)) t
  let v := u.modHost fun h => { h with
    qp0Desc := h.qp0Desc.filter fun e => e.1 / 16 != p, qp0Err := h.qp0Err &&& ~~~ (BitVec.ofNat 16 (2 ^ p))
    msixDue := h.msixDue.filter (fun k => k / 65 != p), msixMask := h.msixMask.filter (fun k => k / 65 != p)
    msixPend := h.msixPend.filter fun k => k / 65 != p }
  (({ v with pages := v.pages.filter fun e => e.1 != pageNo (.nqp p) }).unstall p).clearsRun

/-- FUNCTION_LEVEL_RESET (R483). -/
def execFunctionLevelReset (p : Nat) (s : State) : Out := guardUnit (partOk p) <| .next (if s.ldUp p then s.resetLd p else s)

/-- Every logical device is reset, and the link is down (R484). -/
def State.linkDown (s : State) : State :=
  let t := (List.range 16).foldl State.resetLd s
  (t.modHost fun h => { h with rate := 0, width := 0 }).modSys fun y => { y with linkUp := false, ready := false }

/-- LINK_RESET: loss of the link, a hot reset, or PERST_N low. -/
def execLinkReset (perst : Bool) (s : State) : Out :=
  let t := if perst then s.modSys fun y => { y with perstN := false } else s
  .next (if t.alive 6 then t.linkDown else t)

/-- PERST_N_RELEASE: the port trains once step 6 has ended (18 R690). -/
def execPerstNRelease (s : State) : Out :=
  let t := s.modSys fun y => { y with perstN := true }
  .next (if t.alive 6 then t.modSys fun y => { y with linkUp := true } else t)

/-- LINK_READY: the link is ready for configuration; the rate and the width it trained to are free values among those of Table 11.1,
and it is free whether it is attached to a switch or to a root port (R427, log 70). -/
def execLinkReady (s : State) : Out :=
  .next (
    if s.alive 6 && s.sys.perstN then
      let a := Config.freeNat s.free
      let b := Config.freeNat (s.free + 1)
      (({ s with free := s.free + 3 }).modSys fun y => { y with linkUp := true, ready := true, switched := Config.freeNat (s.free + 2) % 2 == 1 }).modHost fun h => { h with
        rate := BitVec.ofNat 2 (1 + a % 3), width := BitVec.ofNat 5 ([16, 8, 4].getD (b % 3) 16) }
    else s)

/-- CONFIGURATION_REQUEST: configuration-retry until the link is ready (18 R690). Attached to a root port, the module has logical device 0 alone
(11 R427). `refused` is the answer configuration-retry. -/
def execConfigurationRequest (p : Nat) (s : State) : Out :=
  guardUnit (partOk p) <|
    .next (if s.alive 6 && s.sys.linkUp && (s.sys.switched || p == 0) then s.modHost fun h => { h with refused := ! s.sys.ready } else s)

/-- IDE_INTEGRITY_FAILURE: the stream is insecure, the failure counted and recorded, the link dropped (15 R620). -/
def execIdeIntegrityFailure (stream : Nat) (s : State) : Out :=
  guardUnit (decide (stream < 2)) <|
    let b := stream == 1
    .next (
      if s.ldUp 0 && (s.ide b).active.isSome then
        let t := (s.setIde b { s.ide b with active := none }).modSec fun e => { e with ideErr := satBv e.ideErr 1 }
        (t.raise .sec 0 0xB001 (words [stream])).linkDown
      else s)

/-! ### The fabric manager (11 R430, R431) -/

/-- GET_PARTITION_MAP: the map, one number for each cluster, 16 for none; the spec gives no layout (log 19). -/
def execGetPartitionMap (s : State) : Out :=
  .next (if s.fmUp then s.modHost fun h => { h with reply := Config.wire "PARTITION_MAP" [(List.range 80).map fun k => w8 (min 16 (mget 0 s.sched.map k))], refused := false }
    else s)

/-- Whether a cluster is held: a context's core set includes a core of it, or the pool has an allocation in its channels (10 R390). -/
def State.cluHeld (s : State) (k : Nat) : Bool :=
  (s.sched.ctxs.any fun e => e.2.cores.any fun c => clusterOf c == k) || s.dram.alloc.any fun a => a.chan / 8 == k

/-- SET_PARTITION_MAP: refused whole where it takes a held cluster from its partition (10 R390). The clusters of a stack out of service stay
unowned (13 R574). -/
def execSetPartitionMap (map : List (Option Nat)) (s : State) : Out :=
  let want (k : Nat) : Nat := if s.dram.dead.contains (k / 4) then 16 else (map.getD k none).getD 16
  let bad := map.length != 80 || map.any (fun x => decide (16 ≤ x.getD 0)) ||
    (List.range 80).any fun k => min 16 (mget 0 s.sched.map k) != want k && decide (mget 0 s.sched.map k < 16) && s.cluHeld k
  .next (
    if ! s.fmUp then s
    else if bad then s.modHost fun h => { h with refused := true }
    else
      let m := (List.range 80).foldl (fun m k => mset 0 m k (want k)) ([] : NMap Nat)
      ({ s.modSched fun d => { d with map := m } with stored := { s.stored with map := m } }).modHost fun h => { h with refused := false })

/-- SET_POWER_OWNER. -/
def execSetPowerOwner (p : Nat) (s : State) : Out :=
  guardUnit (partOk p) <| .next (if s.fmUp then s.modHost fun h => { h with owner := BitVec.ofNat 4 p, refused := false } else s)

/-- SET_LD_ALLOCATIONS: one share for each logical device, in bytes; each a multiple of 256 MiB, all within the window; a share that shrinks has no
queue pair set up; otherwise every share stays as it was (11 R431). What a share loses is gone. -/
def execSetLdAllocations (shares : List Nat) (s : State) : Out :=
  let units := shares.map (· / 0x10000000)
  let bad := shares.length != 16 || shares.any (· % 0x10000000 != 0) || decide (s.host.winSize * 0x1000000000 < shares.sum) ||
    (List.range 16).any fun p => decide (shares.getD p 0 < s.shareSize p) && ! (s.qpsOf p).isEmpty
  .next (
    if ! s.fmUp then s
    else if bad then s.modHost fun h => { h with refused := true }
    else
      ({ s with stored := { s.stored with shares := units } }).modHost fun h => { h with
        shares := units, refused := false
        share := h.share.filter fun e => decide (e.1 % 2 ^ 38 < shares.getD (e.1 / 2 ^ 38) 0) })

end Sys2Proof.Machine
end

