-- ==== Sys2Proof/Machine/Registers.lean ====
section
/-! DEFINITION. The register pages: what every register reads as, what a write does, soft reset, modes and forced events (00 R11 to R15; 17 R666 to
R686; the register tables of every chapter). -/

namespace Sys2Proof.Machine

/-! ### Units out of service (17 R675) -/

/-- Die index of the die that holds a block's circuit (17 R719). -/
def blkDie (b : Blk) : Nat :=
  match b with
  | .core c => dieOf c
  | .spm c => dieOf c
  | .mxe c => dieOf c
  | .vxe c => dieOf c
  | .sle c => dieOf c
  | .tme c => dieOf c
  | .qnt c => dieOf c
  | .clu k => dieOfClu k
  | .rsy n => n
  | .hbm n => n
  | .fch k => 20 + k
  | .xbr h => 36 + h
  | .grt _ => 20
  | .ecc => 39
  | .pwr => 39
  | .thm => 39
  | .frz => 39
  | .svy => 39
  | .bfl => 39
  | .fbk => 39
  | _ => 38

/-- A stack die, a channel die or a hub die out of service: its channels are, and of a hub, started with its links trained, all its links (log 101). -/
def State.dieDead (s : State) (d : Nat) : Bool :=
  if d < 20 then s.dram.dead.contains d
  else if d < 36 then (List.range 8).all fun i => s.gr.deadChans.contains ((d - 20) * 8 + i)
  else if d < 38 then decide (6 ≤ s.sys.upStep) && (List.range 40).all fun e => ! mget false s.sys.xbr ((d - 36) * 64 + e)
  else false

/-- The core number of a per-core page. -/
def blkCore (b : Blk) : Option Nat :=
  match b with
  | .core c => some c
  | .spm c => some c
  | .mxe c => some c
  | .vxe c => some c
  | .sle c => some c
  | .tme c => some c
  | .qnt c => some c
  | _ => none

/-- EN reads 0: no core runs the page's number, or its die is out of service. -/
def State.unitOut (s : State) (b : Blk) : Bool := s.dieDead (blkDie b) || ((blkCore b).map s.numberDead).getD false

/-! ### The common header (17 R677 to R679) -/

/-- Whether the unit has work in progress, as far as the state shows it (log 58). -/
def State.blkBusy (s : State) (b : Blk) : Bool :=
  let running (lo hi : Nat) : Bool := s.host.cmds.any fun c => c.phase == .running && decide (lo ≤ c.opcode) && decide (c.opcode ≤ hi)
  match b with
  | .core c => [CoreRun.running, .stopping, .saving, .restoring].contains (s.core c).run || (s.core c).arch.engineBusy
  | .mxe c => (s.core c).arch.mxe != []
  | .vxe c => (s.core c).arch.vxe.isSome
  | .sle c => (s.core c).arch.sleOp.isSome
  | .tme c => (s.core c).arch.tme.isSome
  | .qnt c => ((s.core c).arch.vxe.map fun o => [EOp.quantise, .slotLoad, .slotStore, .slotClose].contains o.op).getD false
  | .clu k => (s.clu k).rounds.any fun e => e.2.arrived != []
  | .gzt => running 0x30 0x38 || s.gz.ixs.any fun e => e.2.builds != []
  | .atl i => i == 0 && (running 0x40 0x4A || s.atl.tabs.any fun e => e.2.moves != [])
  | .upd => s.upBusy != 0
  | .tir => s.mdl.st == 1 || s.mdl.st == 4 || s.mdl.steps != []
  | .sch => s.sched.ctxs.any fun e => e.2.place == .saving || e.2.todo != []
  | .grt i => i == 0 && (s.gr.awaits != [] || s.gr.blks.any fun e => e.2.phase == .erasing)
  | .fch k => s.fch.invs.any (fun e => (e.1 - 640) / 8 == k) || s.fch.reqs.any fun q => (q.core - 640) / 8 == k
  | .rsy n => ! s.dram.dead.contains n
  | .hst => s.host.cmds != []
  | .nqp p => s.host.cmds.any fun c => c.ref.part == p
  | .frz => false
  | .svy => s.svy.run
  | .bfl => s.bfl.op.isSome
  | .sec => s.sec.waiting != []
  | _ => false

/-- The start-up step that releases a unit (18 Table 18.2): the management pages with the firmware, the others with the cores. -/
def readyStep (b : Blk) : Nat :=
  match b with
  | .pwr => 2
  | .thm => 2
  | .frz => 2
  | .svy => 2
  | .bfl => 2
  | .fbk => 2
  | .sec => 2
  | _ => 6

/-- A register of the common header. -/
def State.headReg (s : State) (b : Blk) (o : Nat) : Nat :=
  let g := s.page (pageNo b)
  let out := s.unitOut b
  let (ty, inst) := blkId b
  let id := (Config.dieId (blkDie b)).toNat
  let fault : Bool := out || (match b with
    | .core c => (s.core c).fault.isSome
    | _ => g.errCnt != 0#32)
  match o with
  | 0x000 => inst + 65536 * ty
  | 0x004 => 0x100
  | 0x008 => b2n (! out) + 2 * g.mode.toNat
  | 0x00C => b2n (! out && decide (readyStep b ≤ s.sys.upStep)) + 2 * b2n (! out && s.blkBusy b) + 4 * b2n fault + 16 * g.mode.toNat
  | 0x010 => g.evtSts.toNat
  | 0x014 => (evtBits b &&& ~~~g.evtOff).toNat
  | 0x01C => g.errCnt.toNat
  | 0x020 => 1 + 2 * b2n (modeHa b)
  | 0x024 => id % 2 ^ 32
  | 0x028 => id / 2 ^ 32
  | _ => 0

/-! ### Block-specific registers -/

/-- Index of a register in a run of registers. -/
def regIdx (o base n : Nat) : Option Nat := if base ≤ o ∧ o < base + 4 * n ∧ (o - base) % 4 = 0 then some ((o - base) / 4) else none

def lo (n : Nat) : Nat := n % 2 ^ 32
def hi (n : Nat) : Nat := n / 2 ^ 32 % 2 ^ 32

/-- CORE_STS.STATE. -/
def runCode (r : CoreRun) : Nat :=
  match r with
  | .idle => 0
  | .running => 1
  | .stopping => 2
  | .saving => 3
  | .saved => 4
  | .restoring => 5
  | .faulted => 6
  | .held => 7

/-- A register of a core's page. -/
def coreReg (k : Core) (o : Nat) : Nat :=
  let f := k.fault
  match o with
  | 0x100 => b2n k.hold + 2 * b2n k.preempt + 4 * b2n k.restore + 8 * b2n k.scrub
  | 0x104 => runCode k.run + 8 * b2n (k.arch.mxe != []) + 16 * b2n k.arch.vxe.isSome + 32 * b2n k.arch.sleOp.isSome + 64 * b2n k.arch.tme.isSome +
      128 * b2n k.halted + 65536 * k.ctx.toNat
  | 0x108 => k.arch.pc.toNat % 16384
  | 0x10C => k.progLen.toNat
  | 0x110 => (f.map CoreFault.word).getD 0
  | 0x118 => lo ((f.map (·.addr.toNat)).getD 0)
  | 0x11C => hi ((f.map (·.addr.toNat)).getD 0)
  | 0x120 => lo k.steps.toNat
  | 0x124 => hi k.steps.toNat
  | 0x128 => lo k.saveBase.toNat
  | 0x12C => hi k.saveBase.toNat
  | 0x130 => k.trap.toNat
  | 0x134 => k.bankWait.toNat
  | _ => 0

def cluReg (k : Cluster) (o : Nat) : Nat :=
  match regIdx o 0x100 16, regIdx o 0x180 16, regIdx o 0x1C0 4 with
  | some b, _, _ => (mget 0 k.barMask b).toNat
  | _, some n, _ => (mget 0 k.spmOwn n).toNat
  | _, _, some m => (mget 0 k.mslotOwn m).toNat
  | _, _, _ =>
    if o = 0x1D0 then ((List.range 4).map fun m => ((mget {} k.rounds m).arrived.map fun c => 2 ^ (8 * m + c % 8)).sum).sum else 0

def State.gztReg (s : State) (o : Nat) : Nat :=
  let g := s.gz
  match o with
  | 0x100 => g.passQ.toNat
  | 0x104 => g.tailPct.toNat + 256 * g.tombPct.toNat + 65536 * b2n g.auto
  | 0x108 => lo g.commits.toNat
  | 0x10C => hi g.commits.toNat
  | 0x110 => lo g.copies
  | 0x114 => hi g.copies
  | 0x118 => lo g.queries.toNat
  | 0x11C => hi g.queries.toNat
  | 0x120 => g.skips.toNat
  | 0x124 => g.fails.toNat
  | 0x128 =>
    min 0xFFFF ((g.ixs.map fun e => (e.2.lists.map fun l => l.2.length - 1).sum).sum) +
      65536 * min 0xFFFF ((g.ixs.map fun e => (e.2.lists.map fun l =>
        ((l.2.flatMap fun v => (v.ents.filter fun x => x.del.isSome && ! x.tomb).map fun x => (x.id, x.ep, x.del)).dedup).length).sum).sum / 1000)
  | 0x12C => g.embedFail.toNat
  | 0x130 => lo g.embedCnt.toNat
  | 0x134 => hi g.embedCnt.toNat
  | _ => 0

def State.fchReg (s : State) (die o : Nat) : Nat :=
  match regIdx o 0x100 8, regIdx o 0x140 16 with
  | some j, _ => (mget 0 s.fch.ring (die * 8 + j)).toNat
  | _, some p => (mget 1 s.fch.weight (die * 16 + p)).toNat
  | _, _ =>
    match o with
    | 0x120 => (mget 0x3219 s.fch.svcCtl die).toNat
    | 0x124 => (mget 0x400 s.fch.limit die).toNat
    | 0x128 => (mget 0 s.fch.faults die).toNat
    | _ => 0

def State.atlReg (s : State) (i o : Nat) : Nat :=
  let a := s.atl
  if i = 0 then
    match o with
    | 0x100 => a.rate.toNat + 65536 * a.maxRepl.toNat
    | 0x104 => a.tries.toNat
    | 0x108 => s.fwdUsed
    | 0x110 => lo a.idxCnt.toNat
    | 0x114 => hi a.idxCnt.toNat
    | 0x118 => a.dropCnt.toNat
    | 0x11C => a.missCnt.toNat
    | 0x120 => a.lostCnt.toNat
    | _ => 0
  else if o = 0x100 then
    ((a.tabs.map fun e => (e.2.vers.filter fun v => v.no != e.2.cur && some v.no != e.2.building).length).sum) % 65536 +
      65536 * (a.tabs.filter fun e => e.2.building.isSome).length
  else 0

def State.updReg (s : State) (o : Nat) : Nat :=
  let u := s.upd
  match o with
  | 0x100 => u.steps.length
  | 0x104 => u.stepCnt.toNat
  | 0x108 => lo u.recCnt.toNat
  | 0x10C => hi u.recCnt.toNat
  | 0x110 => u.frozenCnt.toNat
  | 0x114 => u.dropCnt.toNat
  | 0x118 => u.inSvc.toNat + 256 * s.upBusy
  | _ => 0

def State.tirReg (s : State) (o : Nat) : Nat :=
  let m := s.mdl
  match regIdx o 0x140 16, regIdx o 0x180 16 with
  | some p, _ => s.quota p / 0x100000
  | _, some p => cdiv (s.poolUsed p) 0x100000
  | _, _ =>
    match o with
    | 0x100 => s.sysFrames / 16
    | 0x104 => m.lead.toNat
    | 0x108 => m.chunkReg.toNat + 65536 * m.budgetReg.toNat
    | 0x10C => m.st + 8 * b2n m.degraded + 65536 * (if m.st = 0 then 0 else m.part)
    | 0x110 => lo m.fetchCnt.toNat
    | 0x114 => hi m.fetchCnt.toNat
    | 0x118 => s.dram.evictCnt.toNat
    | 0x11C => m.waitCnt.toNat
    | 0x120 => m.rebuildCnt.toNat
    | _ => 0

/-- A word of SCH_CLU_OWN. -/
def State.ownReg (s : State) (k : Nat) : Nat := let p := mget 0 s.sched.map k; if p < 16 then p + 0x80000000 else p % 16

def State.schReg (s : State) (o : Nat) : Nat :=
  let d := s.sched
  match regIdx o 0x100 80 with
  | some k => s.ownReg k
  | none =>
    match o with
    | 0x240 => d.ctxs.length + 65536 * (d.ctxs.filter fun e => e.2.place == .resident).length
    | 0x244 => d.slice.toNat
    | 0x248 => d.block.toNat
    | 0x24C => d.preemptCnt.toNat
    | 0x250 => d.rerunCnt.toNat
    | 0x254 => d.teardownCnt.toNat
    | 0x258 => d.stall.toNat
    | 0x25C => d.bg.toNat
    | _ => 0

/-- The GRT pages; their figures read 0 until Graticule has mounted. -/
def State.grtReg (s : State) (i o : Nat) : Nat :=
  let g := s.gr
  let up (n : Nat) : Nat := if s.sys.mediaReady then n else 0
  if i = 0 then
    match o with
    | 0x100 => up (s.freeSpace % 1024 + 65536 * (g.sparePct % 256) + 2 ^ 24 * b2n g.throttle + 2 ^ 25 * b2n g.ronly + 2 ^ 26 * b2n s.spaceCritical)
    | 0x104 => g.gc.toNat
    | 0x108 => g.slcHi.toNat + 65536 * up (g.fill % 256)
    | 0x10C => g.refresh.toNat + 16 * g.offTemp.toNat + 65536 * g.readLimit.toNat
    | 0x110 => up (min 0xFFFFFFFF (g.blks.filter fun e => e.2.phase == .retired).length)
    | 0x114 => up (min 0xFFFFFFFF g.uncorr)
    | 0x118 => g.mountMs.toNat + 65536 * g.mountErases.toNat
    | _ => 0
  else
    match o with
    | 0x100 => g.wlSpread.toNat
    | 0x104 => up (min 0xFFFF g.spread + 65536 * min 0xFFFF g.wear)
    | _ => 0

def State.eccReg (s : State) (o : Nat) : Nat :=
  let e := s.ecc
  match regIdx o 0x140 18, regIdx o 0x1A0 16, regIdx o 0x1E0 2, regIdx o 0x200 3, regIdx o 0x240 24 with
  | some i, _, _, _, _ => (mget 0 e.flipMask i).toNat
  | _, some i, _, _, _ => (mget 0 e.diag i).toNat
  | _, _, some i, _, _ => (mget 0 e.diagChk i).toNat
  | _, _, _, some i, _ => ((List.range 16).map fun k => if 16 * i + k < 36 then mget 0 e.spare (16 * i + k) % 4 * 4 ^ k else 0).sum
  | _, _, _, _, some i => ((List.range 32).map fun k => if e.coreWd.contains (32 * i + k) then 2 ^ k else 0).sum
  | _, _, _, _, _ =>
    match o with
    | 0x100 => e.ceLimit.toNat
    | 0x104 => e.retPart.toNat + 0x80000000 * b2n e.retValid
    | 0x108 => e.retAddr.toNat
    | 0x110 => 2 * e.retResult.toNat
    | 0x120 => e.flipLine.toNat
    | 0x124 => e.flipChan.toNat
    | 0x128 => b2n e.flipArmed + 256 * b2n e.flipHit
    | 0x190 => e.diagLine.toNat
    | 0x194 => e.diagChan.toNat
    | 0x2A0 => e.sramCe.toNat + 65536 * e.sramUe.toNat
    | 0x2A4 => e.sramTest.toNat
    | _ => 0

def State.rsyReg (s : State) (n o : Nat) : Nat :=
  let x := s.stack n
  match o with
  | 0x100 => x.period.toNat
  | 0x104 => x.pos.toNat
  | 0x108 => x.passCnt.toNat
  | 0x10C => x.ceCnt.toNat
  | 0x110 => x.ueCnt.toNat
  | _ => 0

def State.hbmReg (s : State) (n o : Nat) : Nat :=
  let x := s.stack n
  let d := s.dram
  match o with
  | 0x100 => (d.retired.filter fun k => k / 32768 / 32 == n).length % 65536 + 65536 * ((d.banks.filter fun k => k / 64 / 32 == n).length % 256) +
      2 ^ 24 * (d.withdrawn.filter fun g => g / 32 == n).length
  | 0x104 => x.pprDone.toNat + 65536 * x.pprLeft.toNat
  | _ => 0

def State.hstReg (s : State) (o : Nat) : Nat :=
  let h := s.host
  let (n, old) := (s.fw.run.map fun i => (i.n, i.old)).getD (2, 1)
  match o with
  | 0x100 => h.rate.toNat + 4 * h.width.toNat + 128 * b2n (s.sec.ioIde.active.isSome || s.sec.memIde.active.isSome)
  | 0x104 => h.winNext.toNat + 16 * h.winSize
  | 0x108 => h.energy.toNat + 256 * h.minEnergy.toNat + 65536 * b2n h.wt
  | 0x10C => h.power + 8 * b2n h.entering.isSome + 256 * h.owner.toNat + 65536 * h.entryLimit.toNat
  | 0x110 => h.winLost.toNat + 65536 * h.winFixed.toNat
  | 0x114 => n + 256 * old
  | _ => 0

def State.nqpReg (s : State) (p o : Nat) : Nat :=
  match regIdx o 0x100 16 with
  | some i => (mget 0 s.host.qp0Desc (p * 16 + i)).toNat
  | none =>
    let up (a : Nat) : Nat := ((List.range 32).map fun i => if (s.qp? p (a + i)).isSome then 2 ^ i else 0).sum
    match o with
    | 0x140 => 3 * b2n (s.qp? p 0).isSome + 4 * b2n (s.host.qp0Err.getLsbD p)
    | 0x148 => up 0
    | 0x14C => up 32
    | _ => 0

/-- The PWR page; PWR_IN is what the sensors measure, free values. -/
def State.pwrReg (s : State) (seed o : Nat) : Nat :=
  let p := s.pwr
  match o with
  | 0x100 => p.capW.toNat
  | 0x104 => p.brkLimit.toNat + 65536 * p.gap.toNat + 0x80000000 * b2n p.asserted
  | 0x108 => s.effCap.1 + 2048 * s.effCap.2 + 16384 * b2n p.droop + 65536 * p.g.toNat
  | 0x10C => Config.freeNat seed % 2048 + 65536 * (Config.freeNat (seed + 1) % 8192)
  | 0x110 => p.droopCnt.toNat
  | _ => 0

def State.thmReg (s : State) (o : Nat) : Nat :=
  let t := s.thm
  let sel := t.sel.toNat
  let bin := (mget 0 s.svy.bins ((if t.cls then 8 else 0) + t.bin.toNat)).toNat
  let isOver (k : Nat) : Nat := b2n (s.overs.any fun n => sensorClass n == k)
  match o with
  | 0x100 => t.jthr.toNat + 256 * t.dthr.toNat + 65536 * t.nthr.toNat
  | 0x104 => sel + 256 * t.bin.toNat + 2048 * b2n t.cls
  | 0x108 => if sel < 92 then (mget 0 s.svy.temp sel).toNat + 65536 * (mget 0 s.svy.peak sel).toNat else 0
  | 0x10C => lo bin
  | 0x110 => hi bin
  | 0x114 => b2n (decide (s.pwr.thermalCap < 1000)) + 2 * isOver 0 + 4 * isOver 1 + 8 * isOver 2 + 256 * t.trips.toNat
  | _ => 0

def State.frzReg (s : State) (o : Nat) : Nat :=
  let f := s.frz
  match regIdx o 0x110 4 with
  | some n => (mget 0 f.trig n).toNat
  | none =>
    match o with
    | 0x100 => b2n (f.frozen && f.cause == 2#2) + 2 * b2n f.pinEn + 4 * b2n f.evtEn + 8 * b2n f.dataEn
    | 0x120 => f.cause.toNat + 4 * (if f.cause = 3#2 then f.trigNo.toNat else 0) + 16 * b2n f.data + 256 * f.count.toNat
    | _ => 0

def State.svyReg (s : State) (o : Nat) : Nat :=
  match o with
  | 0x100 => b2n s.svy.run + 2 * b2n s.svy.restart + 4 * b2n s.side.i3cAddr.isSome + 256 * s.svy.mismatch.toNat + 65536 * s.svy.wdt.toNat
  | 0x104 => s.svy.alertClass.toNat
  | _ => 0

def State.secReg (s : State) (o : Nat) : Nat :=
  let e := s.sec
  let i := s.fw.run
  match o with
  | 0x100 => b2n e.udsLock + 2 * b2n e.owner.isSome + 4 * b2n e.keys + 8 * b2n e.ioIde.active.isSome + 16 * b2n e.memIde.active.isSome +
      32 * b2n e.lmsOut + 256 * (s.fw.floor % 256) + 65536 * ((i.map (·.svn)).getD 0 % 256)
  | 0x104 => (i.map (·.slot)).getD 0 + 2 * b2n s.fw.confirmed + 4 * s.fw.stage + 16 * s.fw.reason + 65536 * s.actLeft
  | 0x108 => lo ((i.map (·.version)).getD 0)
  | 0x10C => hi ((i.map (·.version)).getD 0)
  | 0x110 => lo (lmsIndices - e.lmsNext)
  | 0x114 => hi (lmsIndices - e.lmsNext)
  | 0x118 => e.sigCnt.toNat
  | 0x11C => e.ideErr.toNat
  | _ => 0

def State.bflReg (s : State) (o : Nat) : Nat :=
  let b := s.bfl
  match o with
  | 0x108 => 8 * b.word.toNat
  | 0x10C => lo b.data.toNat
  | 0x110 => hi b.data.toNat
  | 0x114 => b2n b.op.isSome + 2 * b2n b.held.isSome + 4 * b2n b.seqErr + 8 * b2n b.opErr + 16 * b.sector.toNat + 0x80000000 * b2n Config.lockFuse
  | 0x118 => lo b.rdata.toNat
  | 0x11C => hi b.rdata.toNat
  | _ => 0

def State.fbkReg (s : State) (o : Nat) : Nat :=
  let f := s.fbk
  match o with
  | 0x100 => b2n f.ready + 2 * b2n (decide (4096 ≤ f.first.length)) + 4 * b2n (decide (2047 ≤ f.pinned.length)) + 8 * b2n (decide (256 ≤ f.ledger.length))
  | 0x104 => f.first.length + 65536 * f.pinned.length
  | 0x108 => f.ledger.length
  | 0x110 => lo f.next
  | 0x114 => hi f.next
  | 0x118 => lo f.oldest
  | 0x11C => hi f.oldest
  | 0x120 => f.dropProg.toNat + 65536 * f.dropStart.toNat
  | 0x124 => f.grant.toNat
  | 0x128 => f.rate.toNat
  | 0x12C => f.exportPart.toNat + 16 * f.backlog
  | 0x130 => f.exportLost.toNat
  | _ => 0

/-- The XBR page. The reduced bandwidth that a failed link leaves shows in XBR_LINK alone: of the health figures, which 01 R33 names, Table 12.5 has no field
for it (log 101). -/
def State.xbrReg (s : State) (h o : Nat) : Nat :=
  let up (d : Nat) : Nat := b2n (mget false s.sys.xbr (h * 64 + d))
  match o with
  | 0x100 => ((List.range 32).map fun d => up d * 2 ^ d).sum
  | 0x104 => ((List.range 4).map fun d => up (32 + d) * 2 ^ d).sum + 64 * up 38 + 128 * up 39
  | _ => 0

/-- A block-specific register. `seed` is where the free values of a reading begin. -/
def State.blkReg (s : State) (b : Blk) (seed o : Nat) : Nat :=
  match b with
  | .core c => coreReg (s.core c) o
  | .clu k => cluReg (s.clu k) o
  | .spm c => if o = 0x100 then ((s.core c).patch.map (·.2)).sum + 65536 * (s.core c).spmCe.toNat else 0
  | .mxe c =>
    let k := s.core c
    if o = 0x100 then k.mxeSpare.toNat else if o = 0x104 then k.arch.pass.toNat + 65536 * b2n k.arch.active + 131072 * b2n k.arch.pending else 0
  | .vxe _ => 0
  | .tme _ => 0
  | .sle c =>
    let k := s.core c
    let l := k.arch.sle
    (match o with
    | 0x100 => l.k + 8192 * l.vt.toNat + 65536 * b2n l.dir + 131072 * b2n l.conf + 262144 * min l.kept.length l.k
    | 0x104 => k.sleAdmit.toNat
    | 0x108 => k.sleDup.toNat
    | 0x10C => k.sleInexact.toNat
    | _ => 0)
  | .sleG => 0
  | .qnt c =>
    let k := s.core c
    (match o with
    | 0x100 => k.satLimit.toNat
    | 0x104 => k.replayCnt.toNat
    | 0x108 => k.qntLast.toNat
    | _ => 0)
  | .gzt => s.gztReg o
  | .atl i => s.atlReg i o
  | .upd => s.updReg o
  | .tir => s.tirReg o
  | .sch => s.schReg o
  | .grt i => s.grtReg i o
  | .fch k => s.fchReg k o
  | .hbm n => s.hbmReg n o
  | .ecc => s.eccReg o
  | .rsy n => s.rsyReg n o
  | .hst => s.hstReg o
  | .nqp p => s.nqpReg p o
  | .pwr => s.pwrReg seed o
  | .thm => s.thmReg o
  | .frz => s.frzReg o
  | .svy => s.svyReg o
  | .bfl => s.bflReg o
  | .sec => s.secReg o
  | .fbk => s.fbkReg o
  | .xbr h => s.xbrReg h o

/-- The register at an offset of a page; a unit out of service shows its header alone (17 R675). -/
def State.pageReg (s : State) (b : Blk) (o : Nat) : BitVec 32 :=
  if o < 0x100 then w32 (s.headReg b o)
  else if s.unitOut b then 0
  else w32 (s.blkReg b s.free o)

/-! ### Reading (17 R668 to R670) -/

/-- The HI registers of LO/HI pairs: the offset of the LO half stands 4 below. -/
def isHi (b : Blk) (o : Nat) : Bool :=
  if o = 0x028 then true
  else
    match b with
    | .core _ => [0x11C, 0x124, 0x12C].contains o
    | .gzt => [0x10C, 0x114, 0x11C, 0x134].contains o
    | .atl i => i == 0 && o == 0x114
    | .upd => o == 0x10C
    | .tir => o == 0x114
    | .ecc => [0x124, 0x194].contains o
    | .nqp _ => o == 0x14C
    | .thm => o == 0x110
    | .sec => [0x10C, 0x114].contains o
    | .bfl => [0x110, 0x11C].contains o
    | .fbk => [0x114, 0x11C].contains o
    | .xbr _ => o == 0x104
    | _ => false

/-- The logical device of an agent. -/
def agentLd (w : Agent) : Option Nat :=
  match w with
  | .ld p => some p
  | _ => none

/-- The page an agent reaches at a page number, where it may see it. -/
def State.pageFor (s : State) (w : Agent) (n : Nat) : Option Blk :=
  match blkOf (agentLd w) n with
  | none => none
  | some b =>
    match w with
    | .ld p => if s.mayRead p b then some b else none
    | _ => some b

/-- Whether an agent can make register accesses now. -/
def State.acts (s : State) (w : Agent) : Bool :=
  match w with
  | .surveyor => s.svyActs
  | .scheduler => s.alive 6
  | .ld p => s.ldUp p

/-- The key of a register's HI latch: that of the LO register. -/
def latchKey (b : Blk) (o : Nat) : Nat := pageNo b * 4096 + o

/-- What time has done to a core's page since it was last read: stalled steps are counted (R40, log 7), a longer wait at a bank than the longest since
the last SCRUB may have been seen, of at most 16 steps (R86, R87, log 37), and a core that stops may have come to the saving of its image (R93). How much
of each, no rule says: free values, kept. -/
def State.coreSeen (s : State) (c : Nat) : State :=
  let k := s.core c
  let t := if k.run = .idle ∧ k.steps = 0 then s else s.countSteps c
  { t.modCore c fun k => { k with
      bankWait := if k.ran then BitVec.ofNat 5 (max k.bankWait.toNat (Config.freeNat t.free % 17)) else k.bankWait
      run := if k.run == .stopping && Config.freeNat (t.free + 1) % 2 == 1 then .saving else k.run } with free := t.free + 2 }

/-- A page as it is when it is read. -/
def State.seen (s : State) (b : Blk) : State :=
  match b with
  | .core c => s.coreSeen c
  | _ => s

/-- Read a register: a LO register latches its HI half, and a HI register reads the half latched, or the present one where none is (R670). -/
def State.readReg (s : State) (b : Blk) (o : Nat) : State × BitVec 32 :=
  let v := s.pageReg b o
  if isHi b (o + 4) then ({ s with latch := lset s.latch (latchKey b o) (s.pageReg b (o + 4)) }, v)
  else if isHi b o then (s, (lget s.latch (latchKey b (o - 4))).getD v)
  else (s, v)

/-- REGISTER_LO_READ: a 32-bit read of a register; its value goes to the reader (R668, R669). -/
def execRegisterLoRead (w : Agent) (off : Nat) (s : State) : Out :=
  guardUnit (agentOk w) <|
    if ! s.acts w then .next s
    else
      let (t, v) := match s.pageFor w (off / 4096) with
        | none => (s, 0#32)
        | some b => (s.seen b).readReg b (off % 4096 / 4 * 4)
      .next ({ t with free := t.free + 2 }.modHost fun h => { h with reply := leBytes 4 v.toNat })

/-! ### Modes, soft reset, forced events (17 R678, R680 to R684) -/

/-- A write of MODE: a reserved or unsupported value is counted and changes nothing (R682); the setting is kept but for QNT pages (R683); the
placement handles close when GRT 0 leaves host-assisted mode (12 R539). -/
def State.putMode (s : State) (b : Blk) (m : Nat) : State :=
  if 2 ≤ m ∨ (m = 1 ∧ ! modeHa b) then s.countErr b
  else
    let t := s.modPage (pageNo b) fun g => { g with mode := BitVec.ofNat 2 m }
    let u := if b == .grt 0 && s.hostMode b && m == 0 then t.gr.handles.foldl (fun u h => u.closeHandle h.1) t else t
    match b with
    | .qnt _ => u
    | _ => { u with stored := { u.stored with modes := mset 0 u.stored.modes (pageNo b) (BitVec.ofNat 2 m) } }

/-- What a row does to the state, inside another command. -/
def rowState (f : State → Out) (s : State) : State :=
  match f s with
  | .next t => t
  | _ => s

/-- The block-specific part of a soft reset: registers that neither count since manufacture nor show hardware or work in progress (R680, log 59). -/
def State.srstBlk (s : State) (b : Blk) : State :=
  match b with
  | .core c =>
    let t := rowState (execHold c false) s
    t.modCore c fun k => { k with
      steps := 0, trap := 0, bankWait := 0, ran := false, fault := none, progLen := if k.bound then k.progLen else 0, saveBase := if k.bound then k.saveBase else 0 }
  | .clu k => s.modClu k fun y => { y with
      spmOwn := y.spmOwn.filter (·.2.getLsbD 31), barMask := y.barMask.filter (·.2.getLsbD 31), mslotOwn := y.mslotOwn.filter (·.2.getLsbD 31) }
  | .spm c => s.modCore c fun k => { k with spmCe := 0 }
  | .sle c => s.modCore c fun k => { k with sleAdmit := 0, sleDup := 0, sleInexact := 0 }
  | .qnt c => s.modCore c fun k => { k with satLimit := 0x0400, replayCnt := 0, qntLast := 0 }
  | .gzt => s.modGz fun g => { g with
      passQ := 0x10, tailPct := 0x19, tombPct := 0x14, auto := true, commits := 0, queries := 0, skips := 0, fails := 0, embedFail := 0, embedCnt := 0 }
  | .atl i =>
    if i = 0 then s.modAtl fun a => { a with rate := 0x40, maxRepl := 7, tries := 4, idxCnt := 0, dropCnt := 0, missCnt := 0, lostCnt := 0 } else s
  | .upd => s.modUpd fun u => { u with stepCnt := 0, recCnt := 0, frozenCnt := 0, dropCnt := 0 }
  | .tir => (s.modMdl fun m => { m with lead := 4, chunkReg := 0x200, budgetReg := 0x800, fetchCnt := 0, waitCnt := 0, rebuildCnt := 0 }).modDram fun d =>
      { d with evictCnt := 0 }
  | .sch => s.modSched fun d => { d with
      slice := 0x3E8, block := 0xC8, preemptCnt := 0, rerunCnt := 0, teardownCnt := 0, bg := 0x14
      map := (List.range 80).foldl (fun m k => if s.cluHeld k || s.dram.dead.contains (k / 4) then m else mset 0 m k 0) d.map }
  | .grt i =>
    if i = 0 then s.modGr fun g => { g with gc := 0x0A1E, slcHi := 0x32, refresh := 0xA, offTemp := 0x28, readLimit := 0xC8, mountMs := 0, mountErases := 0 }
    else s.modGr fun g => { g with wlSpread := 0xC8 }
  | .fch k => s.modFch fun f => { f with
      ring := f.ring.filter fun e => e.1 / 8 != k || e.2.getLsbD 31, svcCtl := f.svcCtl.filter (·.1 != k), limit := f.limit.filter (·.1 != k)
      faults := f.faults.filter (·.1 != k), weight := f.weight.filter fun e => e.1 / 16 != k }
  | .rsy n => s.modStack n fun x => { x with period := 0xC, passCnt := 0, ceCnt := 0, ueCnt := 0 }
  | .ecc => s.modEcc fun e => { e with
      ceLimit := 0x0804, retPart := 0, retValid := true, retAddr := 0, retResult := 0, flipLine := 0, flipChan := 0, flipArmed := false, flipHit := false
      flipMask := [], diagLine := 0, diagChan := 0, diag := [], diagChk := [], sramCe := 0, sramUe := 0, sramTest := 0x3C }
  | .hst => (s.modHost fun h => { h with winNext := 1, minEnergy := 0x3C, owner := 0, entryLimit := 0x3E8, winLost := 0, winFixed := 0 }).wtCheck
  | .pwr => s.capStep fun t => t.modPwr fun p => { p with capW := 0x3E8, brkLimit := 0x1F4, gap := 8, droopCnt := 0 }
  | .thm => { s with thm := { s.thm with jthr := 0x64, dthr := 0x5F, nthr := 0x50, sel := 0, bin := 0, cls := false } }
  | .frz => { s with frz := { s.frz with pinEn := true, evtEn := false, dataEn := false, trig := [] } }
  | .svy => s.modSvy fun v => { v with mismatch := 0, wdt := 0, alertClass := 0 }
  | .bfl => s.modBfl fun x => { x with seq := .idle, word := 0, data := 0, rdata := 0, seqErr := false, opErr := false }
  | .sec => s.modSec fun e => { e with sigCnt := 0, ideErr := 0 }
  | .fbk => s.modFbk fun f => { f with dropProg := 0, dropStart := 0, grant := 1, rate := 0x40, exportPart := 0, exportLost := 0 }
  | _ => s

/-- Soft reset of a page: MODE stays (R680). -/
def State.softReset (s : State) (b : Blk) : State :=
  let t := s.modPage (pageNo b) fun g => { g with evtSts := 0, evtOff := 0, errCnt := 0 }
  if s.unitOut b then t else t.srstBlk b

/-- Write BLK_CTL: the firmware writes all of it, the scheduler MODE of QNT pages (R682). -/
def State.putCtl (s : State) (w : Agent) (b : Blk) (v : BitVec 32) : State :=
  match w, b with
  | .surveyor, _ => let t := s.putMode b (v.toNat / 2 % 4); if v.getLsbD 31 then t.softReset b else t
  | .scheduler, .qnt _ => s.putMode b (v.toNat / 2 % 4)
  | _, _ => s

/-- A command on a page, by an agent that can act. -/
def onPage (w : Agent) (page : Nat) (f : Blk → State → State) (s : State) : Out :=
  guardUnit (agentOk w) <|
    match s.pageFor w page with
    | none => .next s
    | some b => .next (if s.acts w then f b s else s)

/-- MODE_WRITE: a write of BLK_CTL. -/
def execModeWrite (w : Agent) (page : Nat) (v : BitVec 32) (s : State) : Out := onPage w page (fun b t => t.putCtl w b v) s

/-- SRST: BLK_CTL.SRST written 1 by the firmware. -/
def execSrst (w : Agent) (page : Nat) (s : State) : Out := onPage w page (fun b t => if w == .surveyor then t.softReset b else t) s

/-- Who may write a page's registers beside what R555 and R562 give a logical device: the firmware, and the scheduler those of the cores, clusters
and device services (the register sections of 02 to 16). -/
def mayWrite (w : Agent) (b : Blk) : Bool :=
  match w with
  | .surveyor => true
  | .scheduler =>
    (match b with
    | .core _ => true
    | .clu _ => true
    | .mxe _ => true
    | .qnt _ => true
    | .sle _ => true
    | .sleG => true
    | .gzt => true
    | .fch _ => true
    | .atl _ => true
    | .tir => true
    | _ => false)
  | .ld _ => false

/-- Force events: the defined bits written 1 are set, with their messages and no record (R678). -/
def State.forceEvt (s : State) (b : Blk) (v : BitVec 32) : State :=
  ((List.range 32).filter fun i => (evtBits b &&& v).getLsbD i).foldl (fun t i => t.setEvt b i) s

/-- EVT_FORCE. -/
def execEvtForce (w : Agent) (page : Nat) (v : BitVec 32) (s : State) : Out := onPage w page (fun b t => if mayWrite w b then t.forceEvt b v else t) s

/-! ### Writing (00 R11, R14; 17 R669) -/

/-- Writes of the header: BLK_CTL, EVT_STS (W1C), EVT_EN, EVT_FORCE. -/
def State.putHead' (s : State) (w : Agent) (b : Blk) (o : Nat) (v : BitVec 32) : State :=
  match o with
  | 0x008 => s.putCtl w b v
  | 0x010 => if mayWrite w b then s.modPage (pageNo b) fun g => { g with evtSts := g.evtSts &&& ~~~v } else s
  | 0x014 => if w == .surveyor then s.modPage (pageNo b) fun g => { g with evtOff := evtBits b &&& ~~~v } else s
  | 0x018 => if mayWrite w b then s.forceEvt b v else s
  | _ => s

/-- Set the low or the high half of a 64-bit register. -/
def half (old : BitVec 64) (isH : Bool) (v : BitVec 32) : BitVec 64 :=
  if isH then v ++ old.setWidth 32 else (old >>> 32).setWidth 32 ++ v

def State.putCore (s : State) (c o : Nat) (v : BitVec 32) : State :=
  match o with
  | 0x100 =>
    let t := rowState (execHold c (v.getLsbD 0)) s
    let u := if v.getLsbD 1 then rowState (execPreempt c) t else t
    let x := if v.getLsbD 2 then rowState (execRestore c) u else u
    if v.getLsbD 3 then rowState (execScrub c) x else x
  | 0x10C => s.modCore c fun k => { k with progLen := v.setWidth 15 }
  | 0x128 => s.modCore c fun k => { k with saveBase := half k.saveBase false v }
  | 0x12C => s.modCore c fun k => { k with saveBase := half k.saveBase true v }
  | _ => s

/-- A write of a cluster's page; a withdrawn bank cannot be set VALID (13 R567). -/
def State.putClu (s : State) (k o : Nat) (v : BitVec 32) : State :=
  match regIdx o 0x100 16, regIdx o 0x180 16, regIdx o 0x1C0 4 with
  | some b, _, _ => rowState (execCluBarMaskWrite k b v) s
  | _, some n, _ => s.modClu k fun y => { y with spmOwn := mset 0 y.spmOwn n (if y.wd.getLsbD n then v &&& 0x3FF else v &&& 0x800003FF) }
  | _, _, some m => s.modClu k fun y => { y with mslotOwn := mset 0 y.mslotOwn m (v &&& 0x800003FF) }
  | _, _, _ => s

def State.putGzt (s : State) (o : Nat) (v : BitVec 32) : State :=
  match o with
  | 0x100 => s.modGz fun g => { g with passQ := v.setWidth 7 }
  | 0x104 =>
    let t := s.modGz fun g => { g with tailPct := v.setWidth 8, tombPct := (v >>> 8).setWidth 8, auto := v.getLsbD 16 }
    { t with stored := { t.stored with tailPct := v.setWidth 8, tombPct := (v >>> 8).setWidth 8 } }
  | _ => s

def State.putFch (s : State) (die o : Nat) (v : BitVec 32) : State :=
  match regIdx o 0x100 8, regIdx o 0x140 16 with
  | some j, _ => rowState (execFchReqRingEn (20 + die) j v) s
  | _, some p =>
    let t := s.modFch fun f => { f with weight := mset 1 f.weight (die * 16 + p) (v.setWidth 8) }
    { t with stored := { t.stored with weight := mset 1 t.stored.weight (die * 16 + p) (v.setWidth 8) } }
  | _, _ =>
    match o with
    | 0x120 => s.modFch fun f => { f with svcCtl := mset 0x3219 f.svcCtl die (v.setWidth 16) }
    | 0x124 => s.modFch fun f => { f with limit := mset 0x400 f.limit die (v.setWidth 20) }
    | _ => s

def State.putAtl (s : State) (i o : Nat) (v : BitVec 32) : State :=
  if i = 0 then
    match o with
    | 0x100 => s.modAtl fun a => { a with rate := v.setWidth 16, maxRepl := (v >>> 16).setWidth 4 }
    | 0x104 => s.modAtl fun a => { a with tries := v.setWidth 4 }
    | _ => s
  else s

def State.putTir (s : State) (o : Nat) (v : BitVec 32) : State :=
  match o with
  | 0x104 => s.modMdl fun m => { m with lead := v.setWidth 4 }
  | 0x108 => s.modMdl fun m => { m with chunkReg := v.setWidth 14, budgetReg := (v >>> 16).setWidth 16 }
  | _ => s

/-- A write of the scheduler's page. SCH_CLU_OWN does not take a held cluster from its partition: the write is refused (10 R390). -/
def State.putSch (s : State) (o : Nat) (v : BitVec 32) : State :=
  match regIdx o 0x100 80 with
  | some k =>
    let p := if v.getLsbD 31 then v.toNat % 16 else 16 + v.toNat % 16
    let was := mget 0 s.sched.map k
    if was < 16 && p != was && s.cluHeld k then s
    else
      let t := s.modSched fun d => { d with map := mset 0 d.map k p }
      { t with stored := { t.stored with map := mset 0 t.stored.map k p } }
  | none =>
    match o with
    | 0x244 => s.modSched fun d => { d with slice := v.setWidth 16 }
    | 0x248 => s.modSched fun d => { d with block := v.setWidth 16 }
    | 0x25C => s.modSched fun d => { d with bg := v.setWidth 5 }
    | _ => s

def State.putGrt (s : State) (i o : Nat) (v : BitVec 32) : State :=
  if i = 0 then
    match o with
    | 0x104 => { s.modGr fun g => { g with gc := v.setWidth 16 } with stored := { s.stored with gc := v.setWidth 16 } }
    | 0x108 => { s.modGr fun g => { g with slcHi := v.setWidth 8 } with stored := { s.stored with slcHi := v.setWidth 8 } }
    | 0x10C =>
      { s.modGr fun g => { g with refresh := v.setWidth 4, offTemp := (v >>> 4).setWidth 8, readLimit := (v >>> 16).setWidth 16 } with
        stored := { s.stored with refresh := v.setWidth 4, readLimit := (v >>> 16).setWidth 16 } }
    | _ => s
  else if o = 0x100 then { s.modGr fun g => { g with wlSpread := v.setWidth 16 } with stored := { s.stored with wlSpread := v.setWidth 16 } }
  else s

/-- The ECC page: the firmware writes all of it; a logical device the registers of R555 and R562, as far as they let it. -/
def State.putEcc (s : State) (w : Agent) (o : Nat) (v : BitVec 32) : State :=
  let fw := w == .surveyor
  match regIdx o 0x140 18, regIdx o 0x1A0 16, regIdx o 0x1E0 2 with
  | some i, _, _ => rowState (execEccFlipMaskWrite w i v) s
  | _, some i, _ => if s.mayTest w s.ecc.diagChan.toNat then s.modEcc fun e => { e with diag := mset 0 e.diag i v } else s
  | _, _, some i => if s.mayTest w s.ecc.diagChan.toNat then s.modEcc fun e => { e with diagChk := mset 0 e.diagChk i v } else s
  | _, _, _ =>
    match o with
    | 0x100 => if fw then { s.modEcc fun e => { e with ceLimit := v.setWidth 16 } with stored := { s.stored with ceLimit := v.setWidth 16 } } else s
    | 0x104 => if fw then s.modEcc fun e => { e with retPart := v.setWidth 4, retValid := v.getLsbD 31 } else s
    | 0x108 => if s.mayRetire w then s.modEcc fun e => { e with retAddr := v } else s
    | 0x10C => rowState (execEccRetCmdGo w v) s
    | 0x120 => rowState (execEccFlipAddrWrite w false v) s
    | 0x124 => rowState (execEccFlipAddrWrite w true v) s
    | 0x128 => rowState (execEccFlipCtlArmed w v) s
    | 0x190 => if s.mayTest w s.ecc.diagChan.toNat then s.modEcc fun e => { e with diagLine := v.setWidth 25 } else s
    | 0x194 => if s.mayTest w (v.toNat % 1024) then s.modEcc fun e => { e with diagChan := v.setWidth 10 } else s
    | 0x198 => if v.toNat % 4 = 1 then rowState (execRawRead w) s else if v.toNat % 4 = 2 then rowState (execRawWrite w) s else s
    | 0x2A4 => if fw then s.modEcc fun e => { e with sramTest := v.setWidth 16 } else s
    | _ => s

def State.putHst (s : State) (o : Nat) (v : BitVec 32) : State :=
  match o with
  | 0x104 => { s.modHost fun h => { h with winNext := v.setWidth 3 } with stored := { s.stored with winNext := v.setWidth 3 } }
  | 0x108 =>
    let m : BitVec 8 := (v >>> 8).setWidth 8
    { (s.modHost fun h => { h with minEnergy := m }).wtCheck with stored := { s.stored with minEnergy := m } }
  | 0x10C => s.modHost fun h => { h with owner := (v >>> 8).setWidth 4, entryLimit := (v >>> 16).setWidth 16 }
  | _ => s

def State.putPwr (s : State) (w : Agent) (o : Nat) (v : BitVec 32) : State :=
  match o with
  | 0x100 => rowState (execPwrCapWWrite w v) s
  | 0x104 => s.capStep fun t => t.modPwr fun p => { p with brkLimit := v.setWidth 11, gap := (v >>> 16).setWidth 4 }
  | _ => s

def State.putThm (s : State) (o : Nat) (v : BitVec 32) : State :=
  match o with
  | 0x100 =>
    let j : BitVec 8 := v.setWidth 8
    let d : BitVec 8 := (v >>> 8).setWidth 8
    let n : BitVec 8 := (v >>> 16).setWidth 8
    { s with thm := { s.thm with jthr := j, dthr := d, nthr := n }, stored := { s.stored with jthr := j, dthr := d, nthr := n } }
  | 0x104 => { s with thm := { s.thm with sel := v.setWidth 7, bin := (v >>> 8).setWidth 3, cls := v.getLsbD 11 } }
  | _ => s

def State.putFrz (s : State) (w : Agent) (o : Nat) (v : BitVec 32) : State :=
  match regIdx o 0x110 4 with
  | some n => { s with frz := { s.frz with trig := mset 0 s.frz.trig n (v &&& 0x8000FFFF) } }
  | none =>
    if o = 0x100 then
      let t := { s with frz := { s.frz with pinEn := v.getLsbD 1, evtEn := v.getLsbD 2, dataEn := v.getLsbD 3 } }
      if v.getLsbD 0 then rowState (execFrzCtlFreeze w) t else t
    else s

/-- The BFL page. The moment of a write is local time in ns. A write of BFL_STS inside a sequence cancels it, and the bit it sets wins over the clear
(R625; 00 R15). -/
def State.putBfl (s : State) (w : Agent) (o : Nat) (v : BitVec 32) : State :=
  let ns := s.sys.now * 1000
  match o with
  | 0x100 => rowState (execBflKey w ns v) s
  | 0x104 => s.bflCommand (v.toNat % 256)
  | 0x108 => s.bflStep3 true v
  | 0x10C => s.bflStep3 false v
  | 0x110 => s.bflFinal ns v
  | 0x114 => (s.modBfl fun b => { b with seqErr := b.seqErr && ! v.getLsbD 2, opErr := b.opErr && ! v.getLsbD 3 }).bflOther
  | _ => s

def State.putFbk (s : State) (o : Nat) (v : BitVec 32) : State :=
  match o with
  | 0x124 => s.modFbk fun f => { f with grant := v.setWidth 16 }
  | 0x128 => s.modFbk fun f => { f with rate := v.setWidth 16 }
  | 0x12C => s.modFbk fun f => { f with exportPart := v.setWidth 4 }
  | _ => s

/-- A write of a block-specific register; the registers with rows of their own do what those rows do. -/
def State.putBlk (s : State) (w : Agent) (b : Blk) (o : Nat) (v : BitVec 32) : State :=
  match b with
  | .ecc => s.putEcc w o v
  | .nqp p =>
    (match regIdx o 0x100 16 with
    | some i => s.modHost fun h => { h with qp0Desc := mset 0 h.qp0Desc (p * 16 + i) v }
    | none => if o = 0x140 then rowState (execNqpQp0CtlEn p v) s else s)
  | _ =>
    if ! mayWrite w b then s
    else
      match b with
      | .core c => s.putCore c o v
      | .clu k => s.putClu k o v
      | .qnt c => if o = 0x100 then s.modCore c fun k => { k with satLimit := v.setWidth 16 } else s
      | .gzt => s.putGzt o v
      | .fch k => s.putFch k o v
      | .atl i => s.putAtl i o v
      | .tir => s.putTir o v
      | .sch => s.putSch o v
      | .grt i => s.putGrt i o v
      | .rsy n => if o = 0x100 then s.modStack n fun x => { x with period := v.setWidth 16 } else s
      | .hst => s.putHst o v
      | .pwr => s.putPwr w o v
      | .thm => s.putThm o v
      | .frz => s.putFrz w o v
      | .svy => if o = 0x104 then s.modSvy fun y => { y with alertClass := v.setWidth 16 } else s
      | .bfl => s.putBfl w o v
      | .fbk => s.putFbk o v
      | _ => s

/-- A write of a HI or LO register drops the half latched. -/
def State.unlatch (s : State) (b : Blk) (o : Nat) : State :=
  { s with latch := s.latch.filter fun e => e.1 != latchKey b o && e.1 + 4 != latchKey b o }

/-- REGISTER_WRITE: a 32-bit write at a BAR0 offset. -/
def execRegisterWrite (w : Agent) (off : Nat) (v : BitVec 32) (s : State) : Out :=
  guardUnit (agentOk w) <|
    match s.pageFor w (off / 4096) with
    | none => .next s
    | some b =>
      let o := off % 4096
      .next (
        if ! s.acts w ∨ o % 4 ≠ 0 then s
        else if o < 0x100 then s.putHead' w b o v
        else if s.unitOut b then s
        else (s.unlatch b o).putBlk w b o v)

end Sys2Proof.Machine
end

