-- ==== Sys2Proof/Machine/Scalar.lean ====
section
/-! DEFINITION. The scalar class (02 Table 2.7, R69, R706). -/

namespace Sys2Proof.Machine

/-- The checks every scalar instruction has at issue: reserved bits, SB with I = 1, IMM with I = 0 (R65, Table 2.6, log 13), and one of its own. -/
def scalarPre (f : ScalarF) (own : Bool) : Option Nat :=
  firstFault [(f.rsv != 0, 0x01), (f.i && f.sb != 0, 0x01), (! f.i && f.imm != 0, 0x01), (own, 0x01)]

/-- An operation on two scalar operands that writes a scalar register. -/
def scalarBin (i : Instr) (c : Nat) (f : ScalarF) (op : BitVec 64 → BitVec 64 → BitVec 64) (s : State) : Out :=
  s.issue i c f.g (scalarPre f false) id false fun t =>
    (t.next c).modArch c fun a => a.wrS f.sd (op (a.rdS f.sa) (a.opB f))

/-- A compare of two scalar operands that writes predicate SD[2:0]; SD[4:3] must be 0 (R69). -/
def scalarCmp (i : Instr) (c : Nat) (f : ScalarF) (rel : BitVec 64 → BitVec 64 → Bool) (s : State) : Out :=
  s.issue i c f.g (scalarPre f (predField f.sd)) id false fun t =>
    (t.next c).modArch c fun a => a.wrP (f.sd.setWidth 3) (predOf (rel (a.rdS f.sa) (a.opB f)))

/-- Logic on predicates SA[2:0] and SB[2:0] (R706). -/
def predBin (i : Instr) (c : Nat) (f : ScalarF) (op : BitVec 64 → BitVec 64 → BitVec 64) (s : State) : Out :=
  s.issue i c f.g (scalarPre f (predField f.sd || predField f.sa || predField f.sb)) id false fun t =>
    (t.next c).modArch c fun a => a.wrP (f.sd.setWidth 3) (op (a.rdP (f.sa.setWidth 3)) (a.rdP (f.sb.setWidth 3)))

/-- The shift count: the low 6 bits (R69). -/
def shiftCount (b : BitVec 64) : Nat := b.toNat % 64

/-- Ones count and leading zeros. -/
def popCount {n : Nat} (v : BitVec n) : Nat := ((List.range n).filter fun i => v.getLsbD i).length
def leadZeros (v : BitVec 64) : Nat := if v = 0 then 64 else 63 - Nat.log2 v.toNat

def execAdd (c : Nat) (f : ScalarF) (s : State) : Out := scalarBin (.add c f) c f (fun x y => x + y) s
def execSub (c : Nat) (f : ScalarF) (s : State) : Out := scalarBin (.sub c f) c f (fun x y => x - y) s
def execAnd (c : Nat) (f : ScalarF) (s : State) : Out := scalarBin (.and c f) c f (fun x y => x &&& y) s
def execOr (c : Nat) (f : ScalarF) (s : State) : Out := scalarBin (.or c f) c f (fun x y => x ||| y) s
def execXor (c : Nat) (f : ScalarF) (s : State) : Out := scalarBin (.xor c f) c f (fun x y => x ^^^ y) s
def execShl (c : Nat) (f : ScalarF) (s : State) : Out := scalarBin (.shl c f) c f (fun x y => x <<< shiftCount y) s
def execShr (c : Nat) (f : ScalarF) (s : State) : Out := scalarBin (.shr c f) c f (fun x y => x >>> shiftCount y) s
def execSar (c : Nat) (f : ScalarF) (s : State) : Out := scalarBin (.sar c f) c f (fun x y => x.sshiftRight (shiftCount y)) s
def execMul (c : Nat) (f : ScalarF) (s : State) : Out := scalarBin (.mul c f) c f (fun x y => x * y) s
/-- MULHU: bits [127:64] of the unsigned product. -/
def execMulhu (c : Nat) (f : ScalarF) (s : State) : Out := scalarBin (.mulhu c f) c f (fun x y => w64 (x.toNat * y.toNat / 2 ^ 64)) s
/-- MULHS: bits [127:64] of the signed product. -/
def execMulhs (c : Nat) (f : ScalarF) (s : State) : Out := scalarBin (.mulhs c f) c f (fun x y => BitVec.ofInt 64 (x.toInt * y.toInt / 2 ^ 64)) s
def execMin (c : Nat) (f : ScalarF) (s : State) : Out := scalarBin (.min c f) c f (fun x y => if x.slt y then x else y) s
def execMax (c : Nat) (f : ScalarF) (s : State) : Out := scalarBin (.max c f) c f (fun x y => if x.slt y then y else x) s
def execMinu (c : Nat) (f : ScalarF) (s : State) : Out := scalarBin (.minu c f) c f (fun x y => if x.ult y then x else y) s
def execMaxu (c : Nat) (f : ScalarF) (s : State) : Out := scalarBin (.maxu c f) c f (fun x y => if x.ult y then y else x) s

/-- MOVHI: sd[63:32] = IMM, the low half of sd kept; I must be 1. -/
def execMovhi (c : Nat) (f : ScalarF) (s : State) : Out :=
  s.issue (.movhi c f) c f.g (scalarPre f (! f.i)) id false fun t =>
    (t.next c).modArch c fun a => a.wrS f.sd (f.imm ++ (a.rdS f.sd).setWidth 32)

def execPopc (c : Nat) (f : ScalarF) (s : State) : Out := scalarBin (.popc c f) c f (fun x _ => w64 (popCount x)) s
def execClz (c : Nat) (f : ScalarF) (s : State) : Out := scalarBin (.clz c f) c f (fun x _ => w64 (leadZeros x)) s

def execCmpeq (c : Nat) (f : ScalarF) (s : State) : Out := scalarCmp (.cmpeq c f) c f (fun x y => x == y) s
def execCmpne (c : Nat) (f : ScalarF) (s : State) : Out := scalarCmp (.cmpne c f) c f (fun x y => x != y) s
def execCmplt (c : Nat) (f : ScalarF) (s : State) : Out := scalarCmp (.cmplt c f) c f (fun x y => x.slt y) s
def execCmpltu (c : Nat) (f : ScalarF) (s : State) : Out := scalarCmp (.cmpltu c f) c f (fun x y => x.ult y) s
def execCmple (c : Nat) (f : ScalarF) (s : State) : Out := scalarCmp (.cmple c f) c f (fun x y => x.sle y) s
def execCmpleu (c : Nat) (f : ScalarF) (s : State) : Out := scalarCmp (.cmpleu c f) c f (fun x y => x.ule y) s

def execPand (c : Nat) (f : ScalarF) (s : State) : Out := predBin (.pand c f) c f (fun x y => x &&& y) s
def execPor (c : Nat) (f : ScalarF) (s : State) : Out := predBin (.por c f) c f (fun x y => x ||| y) s

/-- PNOT: the complement of predicate SA[2:0]. -/
def execPnot (c : Nat) (f : ScalarF) (s : State) : Out :=
  s.issue (.pnot c f) c f.g (scalarPre f (predField f.sd || predField f.sa)) id false fun t =>
    (t.next c).modArch c fun a => a.wrP (f.sd.setWidth 3) (~~~ a.rdP (f.sa.setWidth 3))

/-- PFROMS: predicate SD[2:0] takes scalar sa. -/
def execPfroms (c : Nat) (f : ScalarF) (s : State) : Out :=
  s.issue (.pfroms c f) c f.g (scalarPre f (predField f.sd)) id false fun t =>
    (t.next c).modArch c fun a => a.wrP (f.sd.setWidth 3) (a.rdS f.sa)

/-- PTOS: scalar sd takes predicate SA[2:0]. -/
def execPtos (c : Nat) (f : ScalarF) (s : State) : Out :=
  s.issue (.ptos c f) c f.g (scalarPre f (predField f.sa)) id false fun t =>
    (t.next c).modArch c fun a => a.wrS f.sd (a.rdP (f.sa.setWidth 3))

end Sys2Proof.Machine
end

