-- ==== Sys2Proof/Machine/TestPortRows.lean ====
section
/-! DEFINITION. The test port (14 R595, R596; 18 R694): the boundary instructions, and the vendor instructions of a freeze. -/

namespace Sys2Proof.Machine

/-! ### What the port shifts -/

/-- The bits of bytes, least significant first (00 R5; log 60). -/
def bitsOf (bs : Bytes) : List Bool := bs.flatMap fun b => (List.range 8).map fun i => b.getLsbD i

/-- The levels at the boundary cells: ALERT_N, FREEZE_N, PERST_N, PWRBRK_N, SCL, SDA. The lines of the sideband are the bus's: free values. -/
def State.pins (s : State) : List Bool :=
  [s.sys.alertN, s.sys.freezeN, s.sys.perstN, s.sys.pwrbrkN, Config.freeNat s.free % 2 == 1, Config.freeNat (s.free + 1) % 2 == 1]

/-- Put an instruction into the instruction register; the pins follow the cells only under EXTEST. -/
def State.load (s : State) (ir : BitVec 8) : State := { s with port := { s.port with ir := ir, drive := ir == 0 } }

/-- A scan through the bypass bit, which captures 0: the bits come out one shift later. -/
def State.throughBypass (s : State) (bits : List Bool) : State :=
  { s with port := { s.port with dr := (false :: bits).take bits.length } }

/-- What a boundary scan shifts out: the levels captured. -/
def State.capture (s : State) : State := { s with port := { s.port with dr := s.pins }, free := s.free + 2 }

/-- The cells that a scan leaves: the last bits shifted in, one for each cell. -/
def cellsOf (old bits : List Bool) : List Bool := if bits = [] then old else (bits ++ old).take 6

/-! ### The boundary instructions -/

/-- BYPASS. -/
def execBypass (bits : List Bool) (s : State) : Out := .next (whenS s.sys.powered s ((s.load 0xFF).throughBypass bits))

/-- SAMPLE: the levels at the pins are captured. -/
def execSample (s : State) : Out := .next (whenS s.sys.powered s ((s.load 0x01).capture))

/-- PRELOAD: the cells take the bits shifted in; the pins do not follow them. -/
def execPreload (bits : List Bool) (s : State) : Out :=
  .next (whenS s.sys.powered s (let t := s.load 0x01; { t with port := { t.port with cells := cellsOf t.port.cells bits } }))

/-- EXTEST: the levels are captured, the cells take the bits shifted in and drive the output pins. -/
def execExtest (bits : List Bool) (s : State) : Out :=
  .next (whenS s.sys.powered s (let t := (s.load 0x00).capture; { t with port := { t.port with cells := cellsOf t.port.cells bits } }))

/-! ### The vendor instructions (Table 14.3) -/

/-- A vendor instruction: during a freeze it acts; outside one it acts as BYPASS, here with one bit shifted. -/
def State.vendor (s : State) (ir : BitVec 8) (f : State → State) : State :=
  if ! s.sys.powered then s
  else
    let t := s.load ir
    if s.frz.frozen then f t else t.throughBypass [false]

/-- SELECT. -/
def execSelect (v : BitVec 16) (s : State) : Out :=
  .next (s.vendor 0x20 fun t => { t with port := { t.port with dr := bitsOf (leBytes 2 t.port.sel.toNat), sel := v } })

/-- The core that the selected unit is. -/
def TestPort.core? (p : TestPort) : Option Nat :=
  let d := p.sel.toNat % 64
  let n := p.sel.toNat / 64
  if d < 20 ∧ n < 32 then some (32 * d + n)
  else if 20 ≤ d ∧ d < 36 ∧ n < 8 then some (640 + 8 * (d - 20) + n)
  else none

/-- STAGE_SCAN: the chain's length and layout are not stated; its bits are a free value of the unit, its sequencer's record and the moment. -/
def execStageScan (s : State) : Out :=
  .next (s.vendor 0x21 fun t =>
    let r : List Bytes := match t.port.core? with
      | none => []
      | some c => [leBytes 2 (t.core c).arch.pc.toNat, [w8 (runCode (t.core c).run)]]
    { t with
      port := { t.port with dr := bitsOf (Config.wire "STAGE_SCAN" ([leBytes 2 t.port.sel.toNat, leBytes 8 t.free] ++ r)) }, free := t.free + 1 })

/-- REG_READ: the value of a register, as the firmware sees its page. -/
def execRegRead (off : BitVec 32) (s : State) : Out :=
  .next (s.vendor 0x22 fun t =>
    let (u, v) := match t.pageFor .surveyor (off.toNat / 4096) with
      | none => (t, 0#32)
      | some b => t.readReg b (off.toNat % 4096 / 4 * 4)
    { u with port := { u.port with dr := bitsOf (leBytes 4 v.toNat) }, free := u.free + 2 })

/-- A byte as it stands stored at a logical address of a DRAM channel: no decoding; none where no stored frame answers. -/
def State.storedDram (s : State) (g off : Nat) : Option Byte :=
  let l := off / 64
  if s.dram.withdrawn.contains g || s.dram.absent.contains (g * 32768 + l / 1024) then none
  else
    match lget s.dram.bad (lineKey g l) with
    | some b => some (b.data.getD (off % 64) 0)
    | none => some (rdByte s.dram.mem (g * 0x80000000 + off))

/-- A byte as it stands stored at an address of Table 2.11; the core-local rows are those of the selected core. -/
def State.storedByte (s : State) (a : Nat) : Option Byte :=
  let spm (c o : Nat) : Option Byte := if o < spmSize c then some (rdByte (s.core c).arch.spm o) else none
  let cspm (k o : Nat) : Option Byte := if o < cspmSize k then some (rdByte (s.clu k).spm o) else none
  if a < 0x10000000 + 0x80000000 then
    match s.port.core? with
    | none => none
    | some c =>
      if a < 0x200000 then spm c a
      else if 0x04000000 ≤ a ∧ a < 0x04800000 then cspm (c / 8) (a - 0x04000000)
      else if 0x10000000 ≤ a ∧ stackSide c then s.storedDram c (a - 0x10000000)
      else none
  else if 0x010000000000 ≤ a ∧ a < 0x010000000000 + 640 * 0x80000000 then
    s.storedDram ((a - 0x010000000000) / 0x80000000) ((a - 0x010000000000) % 0x80000000)
  else if 0x030000000000 ≤ a ∧ a < 0x030000000000 + 768 * 0x200000 then spm ((a - 0x030000000000) / 0x200000) ((a - 0x030000000000) % 0x200000)
  else if 0x040000000000 ≤ a ∧ a < 0x040000000000 + 96 * 0x800000 then cspm ((a - 0x040000000000) / 0x800000) ((a - 0x040000000000) % 0x800000)
  else none

/-- MEM_READ: the stored bytes, zeros where DATA_EN was 0 when the freeze began; an address the table gives no memory reads a free value (R596, log 61). -/
def execMemRead (addr : BitVec 64) (len : BitVec 32) (s : State) : Out :=
  .next (s.vendor 0x23 fun t =>
    let n := len.toNat
    let bs : Bytes :=
      if ! t.frz.data then zeros n
      else (List.range n).map fun i => (t.storedByte ((addr.toNat + i) % 2 ^ 64)).getD (BitVec.ofNat 8 (Config.freeNat (t.free + i)))
    { t with port := { t.port with dr := bitsOf bs }, free := t.free + n })

/-- FRZ_STATUS: FRZ_STS. -/
def execFrzStatus (s : State) : Out :=
  .next (s.vendor 0x24 fun t => { t with port := { t.port with dr := bitsOf (leBytes 4 (t.frzReg 0x120)) } })

/-- TEST_PORT_RESET: the test access port goes back to its reset state, and everything else stays (R694). -/
def execTestPortReset (s : State) : Out := .next { s with port := {} }

end Sys2Proof.Machine
end

