-- ==== Sys2Proof/Machine/Dispatch.lean ====
section
/-! DEFINITION. The meaning of every command: one arm per constructor of Instr. -/

namespace Sys2Proof.Machine

def exec (i : Instr) (s : State) : Host.Outcome State Fault Refusal :=
  match i with
  | .add c f => Sys2Proof.Machine.execAdd c f s
  | .sub c f => Sys2Proof.Machine.execSub c f s
  | .and c f => Sys2Proof.Machine.execAnd c f s
  | .or c f => Sys2Proof.Machine.execOr c f s
  | .xor c f => Sys2Proof.Machine.execXor c f s
  | .shl c f => Sys2Proof.Machine.execShl c f s
  | .shr c f => Sys2Proof.Machine.execShr c f s
  | .sar c f => Sys2Proof.Machine.execSar c f s
  | .mul c f => Sys2Proof.Machine.execMul c f s
  | .mulhu c f => Sys2Proof.Machine.execMulhu c f s
  | .mulhs c f => Sys2Proof.Machine.execMulhs c f s
  | .min c f => Sys2Proof.Machine.execMin c f s
  | .max c f => Sys2Proof.Machine.execMax c f s
  | .minu c f => Sys2Proof.Machine.execMinu c f s
  | .maxu c f => Sys2Proof.Machine.execMaxu c f s
  | .movhi c f => Sys2Proof.Machine.execMovhi c f s
  | .popc c f => Sys2Proof.Machine.execPopc c f s
  | .clz c f => Sys2Proof.Machine.execClz c f s
  | .cmpeq c f => Sys2Proof.Machine.execCmpeq c f s
  | .cmpne c f => Sys2Proof.Machine.execCmpne c f s
  | .cmplt c f => Sys2Proof.Machine.execCmplt c f s
  | .cmpltu c f => Sys2Proof.Machine.execCmpltu c f s
  | .cmple c f => Sys2Proof.Machine.execCmple c f s
  | .cmpleu c f => Sys2Proof.Machine.execCmpleu c f s
  | .pand c f => Sys2Proof.Machine.execPand c f s
  | .por c f => Sys2Proof.Machine.execPor c f s
  | .pnot c f => Sys2Proof.Machine.execPnot c f s
  | .pfroms c f => Sys2Proof.Machine.execPfroms c f s
  | .ptos c f => Sys2Proof.Machine.execPtos c f s
  | .br c f => Sys2Proof.Machine.execBr c f s
  | .brz c f => Sys2Proof.Machine.execBrz c f s
  | .brnz c f => Sys2Proof.Machine.execBrnz c f s
  | .call c f => Sys2Proof.Machine.execCall c f s
  | .jr c f => Sys2Proof.Machine.execJr c f s
  | .loop c f => Sys2Proof.Machine.execLoop c f s
  | .ld8u c f => Sys2Proof.Machine.execLd8u c f s
  | .ld16u c f => Sys2Proof.Machine.execLd16u c f s
  | .ld32u c f => Sys2Proof.Machine.execLd32u c f s
  | .ld64 c f => Sys2Proof.Machine.execLd64 c f s
  | .ld8s c f => Sys2Proof.Machine.execLd8s c f s
  | .ld16s c f => Sys2Proof.Machine.execLd16s c f s
  | .ld32s c f => Sys2Proof.Machine.execLd32s c f s
  | .st8 c f => Sys2Proof.Machine.execSt8 c f s
  | .st16 c f => Sys2Proof.Machine.execSt16 c f s
  | .st32 c f => Sys2Proof.Machine.execSt32 c f s
  | .st64 c f => Sys2Proof.Machine.execSt64 c f s
  | .vld c f => Sys2Proof.Machine.execVld c f s
  | .vst c f => Sys2Proof.Machine.execVst c f s
  | .vstp c f => Sys2Proof.Machine.execVstp c f s
  | .pld c f => Sys2Proof.Machine.execPld c f s
  | .pst c f => Sys2Proof.Machine.execPst c f s
  | .tmov c f => Sys2Proof.Machine.execTmov c f s
  | .tgath c f => Sys2Proof.Machine.execTgath c f s
  | .tscat c f => Sys2Proof.Machine.execTscat c f s
  | .tfill c f => Sys2Proof.Machine.execTfill c f s
  | .tdset c f => Sys2Proof.Machine.execTdset c f s
  | .tdget c f => Sys2Proof.Machine.execTdget c f s
  | .mop c f => Sys2Proof.Machine.execMop c f s
  | .msld c f => Sys2Proof.Machine.execMsld c f s
  | .mws c f => Sys2Proof.Machine.execMws c f s
  | .mrd c f => Sys2Proof.Machine.execMrd c f s
  | .mclr c f => Sys2Proof.Machine.execMclr c f s
  | .mxeOperationComplete c => Sys2Proof.Machine.execMxeOperationComplete c s
  | .vadd c f => Sys2Proof.Machine.execVadd c f s
  | .vsub c f => Sys2Proof.Machine.execVsub c f s
  | .vmul c f => Sys2Proof.Machine.execVmul c f s
  | .vmin c f => Sys2Proof.Machine.execVmin c f s
  | .vmax c f => Sys2Proof.Machine.execVmax c f s
  | .vminu c f => Sys2Proof.Machine.execVminu c f s
  | .vmaxu c f => Sys2Proof.Machine.execVmaxu c f s
  | .vand c f => Sys2Proof.Machine.execVand c f s
  | .vor c f => Sys2Proof.Machine.execVor c f s
  | .vxor c f => Sys2Proof.Machine.execVxor c f s
  | .vshl c f => Sys2Proof.Machine.execVshl c f s
  | .vshr c f => Sys2Proof.Machine.execVshr c f s
  | .vsar c f => Sys2Proof.Machine.execVsar c f s
  | .vadds c f => Sys2Proof.Machine.execVadds c f s
  | .vcmpeq c f => Sys2Proof.Machine.execVcmpeq c f s
  | .vcmplt c f => Sys2Proof.Machine.execVcmplt c f s
  | .vcmpltu c f => Sys2Proof.Machine.execVcmpltu c f s
  | .vsel c f => Sys2Proof.Machine.execVsel c f s
  | .vbcast c f => Sys2Proof.Machine.execVbcast c f s
  | .vrsum c f => Sys2Proof.Machine.execVrsum c f s
  | .vrmin c f => Sys2Proof.Machine.execVrmin c f s
  | .vrmax c f => Sys2Proof.Machine.execVrmax c f s
  | .vxpop c f => Sys2Proof.Machine.execVxpop c f s
  | .vxpopa c f => Sys2Proof.Machine.execVxpopa c f s
  | .vpopc c f => Sys2Proof.Machine.execVpopc c f s
  | .vlut c f => Sys2Proof.Machine.execVlut c f s
  | .vcvt c f => Sys2Proof.Machine.execVcvt c f s
  | .vqnt c f => Sys2Proof.Machine.execVqnt c f s
  | .vfadd c f => Sys2Proof.Machine.execVfadd c f s
  | .vfmul c f => Sys2Proof.Machine.execVfmul c f s
  | .vfma c f => Sys2Proof.Machine.execVfma c f s
  | .vsxp c f => Sys2Proof.Machine.execVsxp c f s
  | .vstlk c f => Sys2Proof.Machine.execVstlk c f s
  | .vsqntQuantise c f => Sys2Proof.Machine.execVsqntQuantise c f s
  | .vsqntLoad c f => Sys2Proof.Machine.execVsqntLoad c f s
  | .vsqntStore c f => Sys2Proof.Machine.execVsqntStore c f s
  | .vsqntClose c f => Sys2Proof.Machine.execVsqntClose c f s
  | .vxeStreamComplete c => Sys2Proof.Machine.execVxeStreamComplete c s
  | .sclr c f => Sys2Proof.Machine.execSclr c f s
  | .stopk c f => Sys2Proof.Machine.execStopk c f s
  | .ssort c f => Sys2Proof.Machine.execSsort c f s
  | .smerge c f => Sys2Proof.Machine.execSmerge c f s
  | .semit c f => Sys2Proof.Machine.execSemit c f s
  | .scmrg c f => Sys2Proof.Machine.execScmrg c f s
  | .sleOperationComplete c => Sys2Proof.Machine.execSleOperationComplete c s
  | .mergeRoundComplete k slot => Sys2Proof.Machine.execMergeRoundComplete k slot s
  | .tmeOperationComplete c => Sys2Proof.Machine.execTmeOperationComplete c s
  | .wait c f => Sys2Proof.Machine.execWait c f s
  | .post c f => Sys2Proof.Machine.execPost c f s
  | .postc c f => Sys2Proof.Machine.execPostc c f s
  | .bar c f => Sys2Proof.Machine.execBar c f s
  | .fence c f => Sys2Proof.Machine.execFence c f s
  | .halt c f => Sys2Proof.Machine.execHalt c f s
  | .evt c f => Sys2Proof.Machine.execEvt c f s
  | .trap c f => Sys2Proof.Machine.execTrap c f s
  | .rdstep c f => Sys2Proof.Machine.execRdstep c f s
  | .rdcore c f => Sys2Proof.Machine.execRdcore c f s
  | .rdctx c f => Sys2Proof.Machine.execRdctx c f s
  | .hold c on => Sys2Proof.Machine.execHold c on s
  | .preempt c => Sys2Proof.Machine.execPreempt c s
  | .contextSaved c => Sys2Proof.Machine.execContextSaved c s
  | .restore c => Sys2Proof.Machine.execRestore c s
  | .restoreDone c => Sys2Proof.Machine.execRestoreDone c s
  | .scrub c => Sys2Proof.Machine.execScrub c s
  | .cluBarMaskWrite k b v => Sys2Proof.Machine.execCluBarMaskWrite k b v s
  | .pageReadRequest c => Sys2Proof.Machine.execPageReadRequest c s
  | .pageReadComplete c m o => Sys2Proof.Machine.execPageReadComplete c m o s
  | .fchReqRingEn die j v => Sys2Proof.Machine.execFchReqRingEn die j v s
  | .gzCreate r => Sys2Proof.Machine.execGzCreate r s
  | .gzSetCentroids r => Sys2Proof.Machine.execGzSetCentroids r s
  | .gzInsert r => Sys2Proof.Machine.execGzInsert r s
  | .gzDelete r => Sys2Proof.Machine.execGzDelete r s
  | .gzQuery r => Sys2Proof.Machine.execGzQuery r s
  | .gzSample r => Sys2Proof.Machine.execGzSample r s
  | .gzCompact r => Sys2Proof.Machine.execGzCompact r s
  | .gzStat r => Sys2Proof.Machine.execGzStat r s
  | .gzDrop r => Sys2Proof.Machine.execGzDrop r s
  | .scanRequest p c req => Sys2Proof.Machine.execScanRequest p c req s
  | .compactionStart p ix list => Sys2Proof.Machine.execCompactionStart p ix list s
  | .listVersionSwitch p ix list => Sys2Proof.Machine.execListVersionSwitch p ix list s
  | .tombstoneApply p ix => Sys2Proof.Machine.execTombstoneApply p ix s
  | .listVersionFree p ix list ver => Sys2Proof.Machine.execListVersionFree p ix list ver s
  | .flLoad r => Sys2Proof.Machine.execFlLoad r s
  | .flUnload r => Sys2Proof.Machine.execFlUnload r s
  | .flRun r => Sys2Proof.Machine.execFlRun r s
  | .filterInvocation r page c => Sys2Proof.Machine.execFilterInvocation r page c s
  | .filterOverrun c => Sys2Proof.Machine.execFilterOverrun c s
  | .quantumStart c => Sys2Proof.Machine.execQuantumStart c s
  | .embedEncodeDone r v => Sys2Proof.Machine.execEmbedEncodeDone r v s
  | .atCreate r => Sys2Proof.Machine.execAtCreate r s
  | .atDrop r => Sys2Proof.Machine.execAtDrop r s
  | .atScatter r => Sys2Proof.Machine.execAtScatter r s
  | .atGather r => Sys2Proof.Machine.execAtGather r s
  | .atPrefetch r => Sys2Proof.Machine.execAtPrefetch r s
  | .atSync r => Sys2Proof.Machine.execAtSync r s
  | .atVbegin r => Sys2Proof.Machine.execAtVbegin r s
  | .atVseal r => Sys2Proof.Machine.execAtVseal r s
  | .atVswitch r => Sys2Proof.Machine.execAtVswitch r s
  | .atMigrate r => Sys2Proof.Machine.execAtMigrate r s
  | .atStat r => Sys2Proof.Machine.execAtStat r s
  | .rowFlashFill p tab row o => Sys2Proof.Machine.execRowFlashFill p tab row o s
  | .hotRowEvaluation p tab => Sys2Proof.Machine.execHotRowEvaluation p tab s
  | .migrationCopyDone p tab row => Sys2Proof.Machine.execMigrationCopyDone p tab row s
  | .tableVersionFree p tab ver => Sys2Proof.Machine.execTableVersionFree p tab ver s
  | .copySlotFree p tab row chan => Sys2Proof.Machine.execCopySlotFree p tab row chan s
  | .upSetopt r => Sys2Proof.Machine.execUpSetopt r s
  | .upFreeze r => Sys2Proof.Machine.execUpFreeze r s
  | .upBegin r => Sys2Proof.Machine.execUpBegin r s
  | .upGrad r => Sys2Proof.Machine.execUpGrad r s
  | .upEnd r => Sys2Proof.Machine.execUpEnd r s
  | .gradientRecord r => Sys2Proof.Machine.execGradientRecord r s
  | .updateUnitFail u => Sys2Proof.Machine.execUpdateUnitFail u s
  | .mdLoad r => Sys2Proof.Machine.execMdLoad r s
  | .mdUnload r => Sys2Proof.Machine.execMdUnload r s
  | .unloadFinish => Sys2Proof.Machine.execUnloadFinish s
  | .mdGrant r => Sys2Proof.Machine.execMdGrant r s
  | .mdRevoke r => Sys2Proof.Machine.execMdRevoke r s
  | .mdGen r => Sys2Proof.Machine.execMdGen r s
  | .mdEncode r => Sys2Proof.Machine.execMdEncode r s
  | .mdRank r => Sys2Proof.Machine.execMdRank r s
  | .mdDropkv r => Sys2Proof.Machine.execMdDropkv r s
  | .mdStat r => Sys2Proof.Machine.execMdStat r s
  | .sequenceEntry e => Sys2Proof.Machine.execSequenceEntry e s
  | .genStepStart e => Sys2Proof.Machine.execGenStepStart e s
  | .begin c leg => Sys2Proof.Machine.execBegin c leg s
  | .demand c leg => Sys2Proof.Machine.execDemand c leg s
  | .release c leg => Sys2Proof.Machine.execRelease c leg s
  | .stepDone c => Sys2Proof.Machine.execStepDone c s
  | .runFetchDone e leg idx => Sys2Proof.Machine.execRunFetchDone e leg idx s
  | .kvRebuild e slot => Sys2Proof.Machine.execKvRebuild e slot s
  | .cxRun r => Sys2Proof.Machine.execCxRun r s
  | .cxPost r => Sys2Proof.Machine.execCxPost r s
  | .stCluster r => Sys2Proof.Machine.execStCluster r s
  | .contextPlace x => Sys2Proof.Machine.execContextPlace x s
  | .blockedSave p => Sys2Proof.Machine.execBlockedSave p s
  | .slicePreempt x => Sys2Proof.Machine.execSlicePreempt x s
  | .jobRestart x cause => Sys2Proof.Machine.execJobRestart x cause s
  | .stallDetect p => Sys2Proof.Machine.execStallDetect p s
  | .hostedNumberSwitch c => Sys2Proof.Machine.execHostedNumberSwitch c s
  | .transparentTest c region => Sys2Proof.Machine.execTransparentTest c region s
  | .commandPacket p q => Sys2Proof.Machine.execCommandPacket p q s
  | .admission r => Sys2Proof.Machine.execAdmission r s
  | .transferReady r => Sys2Proof.Machine.execTransferReady r s
  | .dataDone r token => Sys2Proof.Machine.execDataDone r token s
  | .completionEntryWrite r => Sys2Proof.Machine.execCompletionEntryWrite r s
  | .answerPublish r => Sys2Proof.Machine.execAnswerPublish r s
  | .unitRerun r => Sys2Proof.Machine.execUnitRerun r s
  | .sqTail p q v => Sys2Proof.Machine.execSqTail p q v s
  | .cqHead p q v => Sys2Proof.Machine.execCqHead p q v s
  | .answerRelease p q first count => Sys2Proof.Machine.execAnswerRelease p q first count s
  | .shareRead p off len => Sys2Proof.Machine.execShareRead p off len s
  | .shareWrite p off data => Sys2Proof.Machine.execShareWrite p off data s
  | .qpCreate r => Sys2Proof.Machine.execQpCreate r s
  | .qpDelete r => Sys2Proof.Machine.execQpDelete r s
  | .nqpQp0CtlEn p v => Sys2Proof.Machine.execNqpQp0CtlEn p v s
  | .pwrSet r => Sys2Proof.Machine.execPwrSet r s
  | .powerStateEntered => Sys2Proof.Machine.execPowerStateEntered s
  | .entryLimit => Sys2Proof.Machine.execEntryLimit s
  | .identify r => Sys2Proof.Machine.execIdentify r s
  | .abort r => Sys2Proof.Machine.execAbort r s
  | .hostTime r => Sys2Proof.Machine.execHostTime r s
  | .fbRead r => Sys2Proof.Machine.execFbRead r s
  | .rd r => Sys2Proof.Machine.execRd r s
  | .wr r => Sys2Proof.Machine.execWr r s
  | .flush r => Sys2Proof.Machine.execFlush r s
  | .trim r => Sys2Proof.Machine.execTrim r s
  | .functionLevelReset p => Sys2Proof.Machine.execFunctionLevelReset p s
  | .linkReset perst => Sys2Proof.Machine.execLinkReset perst s
  | .linkReady => Sys2Proof.Machine.execLinkReady s
  | .holdupMeasure joules => Sys2Proof.Machine.execHoldupMeasure joules s
  | .getPartitionMap => Sys2Proof.Machine.execGetPartitionMap s
  | .setPartitionMap map => Sys2Proof.Machine.execSetPartitionMap map s
  | .setPowerOwner p => Sys2Proof.Machine.execSetPowerOwner p s
  | .setLdAllocations shares => Sys2Proof.Machine.execSetLdAllocations shares s
  | .grNsCreate r => Sys2Proof.Machine.execGrNsCreate r s
  | .grNsDelete r => Sys2Proof.Machine.execGrNsDelete r s
  | .grNsSet r => Sys2Proof.Machine.execGrNsSet r s
  | .grNsList r => Sys2Proof.Machine.execGrNsList r s
  | .grHealth r => Sys2Proof.Machine.execGrHealth r s
  | .grPhOpen r => Sys2Proof.Machine.execGrPhOpen r s
  | .grPhClose r => Sys2Proof.Machine.execGrPhClose r s
  | .grPhStat r => Sys2Proof.Machine.execGrPhStat r s
  | .grWl r => Sys2Proof.Machine.execGrWl r s
  | .destage p ns unit slc => Sys2Proof.Machine.execDestage p ns unit slc s
  | .journalProgram => Sys2Proof.Machine.execJournalProgram s
  | .checkpoint => Sys2Proof.Machine.execCheckpoint s
  | .superblockVerify sb bad => Sys2Proof.Machine.execSuperblockVerify sb bad s
  | .programFail sb pos => Sys2Proof.Machine.execProgramFail sb pos s
  | .dieRetire die => Sys2Proof.Machine.execDieRetire die s
  | .garbageCollection => Sys2Proof.Machine.execGarbageCollection s
  | .readDisturbRelocate die blk => Sys2Proof.Machine.execReadDisturbRelocate die blk s
  | .eraseDone die blk ok => Sys2Proof.Machine.execEraseDone die blk ok s
  | .wearLevelling => Sys2Proof.Machine.execWearLevelling s
  | .heatAgeTick => Sys2Proof.Machine.execHeatAgeTick s
  | .mediaReady => Sys2Proof.Machine.execMediaReady s
  | .resurveyVisit g => Sys2Proof.Machine.execResurveyVisit g s
  | .frameRetire g fr => Sys2Proof.Machine.execFrameRetire g fr s
  | .bankRetire g bank => Sys2Proof.Machine.execBankRetire g bank s
  | .channelWithdraw g => Sys2Proof.Machine.execChannelWithdraw g s
  | .eccRetCmdGo w v => Sys2Proof.Machine.execEccRetCmdGo w v s
  | .eccFlipCtlArmed w v => Sys2Proof.Machine.execEccFlipCtlArmed w v s
  | .eccFlipAddrWrite w hi v => Sys2Proof.Machine.execEccFlipAddrWrite w hi v s
  | .eccFlipMaskWrite w idx v => Sys2Proof.Machine.execEccFlipMaskWrite w idx v s
  | .rawWrite w => Sys2Proof.Machine.execRawWrite w s
  | .rawRead w => Sys2Proof.Machine.execRawRead w s
  | .coreFail c => Sys2Proof.Machine.execCoreFail c s
  | .stackOutOfService n => Sys2Proof.Machine.execStackOutOfService n s
  | .channelDieFail n => Sys2Proof.Machine.execChannelDieFail n s
  | .hubFail hub die => Sys2Proof.Machine.execHubFail hub die s
  | .lockstepMismatch => Sys2Proof.Machine.execLockstepMismatch s
  | .watchdogExpiry => Sys2Proof.Machine.execWatchdogExpiry s
  | .timeInBinTick => Sys2Proof.Machine.execTimeInBinTick s
  | .droopTrip => Sys2Proof.Machine.execDroopTrip s
  | .droopRelease ns => Sys2Proof.Machine.execDroopRelease ns s
  | .pwrbrkNAssert => Sys2Proof.Machine.execPwrbrkNAssert s
  | .pwrbrkNRelease => Sys2Proof.Machine.execPwrbrkNRelease s
  | .pwrCapWWrite w v => Sys2Proof.Machine.execPwrCapWWrite w v s
  | .thermalGovernorTick => Sys2Proof.Machine.execThermalGovernorTick s
  | .thermalTrip sensor => Sys2Proof.Machine.execThermalTrip sensor s
  | .thermalTripRelease => Sys2Proof.Machine.execThermalTripRelease s
  | .freezeNAssert => Sys2Proof.Machine.execFreezeNAssert s
  | .frzCtlFreeze w => Sys2Proof.Machine.execFrzCtlFreeze w s
  | .perstFreezeExit => Sys2Proof.Machine.execPerstFreezeExit s
  | .bypass bits => Sys2Proof.Machine.execBypass bits s
  | .sample => Sys2Proof.Machine.execSample s
  | .preload bits => Sys2Proof.Machine.execPreload bits s
  | .extest bits => Sys2Proof.Machine.execExtest bits s
  | .select v => Sys2Proof.Machine.execSelect v s
  | .stageScan => Sys2Proof.Machine.execStageScan s
  | .regRead off => Sys2Proof.Machine.execRegRead off s
  | .memRead addr len => Sys2Proof.Machine.execMemRead addr len s
  | .frzStatus => Sys2Proof.Machine.execFrzStatus s
  | .exit => Sys2Proof.Machine.execExit s
  | .testPortReset => Sys2Proof.Machine.execTestPortReset s
  | .powerLoss => Sys2Proof.Machine.execPowerLoss s
  | .powerOn => Sys2Proof.Machine.execPowerOn s
  | .i3cDynamicAddress addr => Sys2Proof.Machine.execI3cDynamicAddress addr s
  | .mctpControl m => Sys2Proof.Machine.execMctpControl m s
  | .pldmPlatform m => Sys2Proof.Machine.execPldmPlatform m s
  | .requestUpdate => Sys2Proof.Machine.execRequestUpdate s
  | .applyComplete => Sys2Proof.Machine.execApplyComplete s
  | .activateFirmware => Sys2Proof.Machine.execActivateFirmware s
  | .fwStage r => Sys2Proof.Machine.execFwStage r s
  | .fwActivate r => Sys2Proof.Machine.execFwActivate r s
  | .imageConfirm => Sys2Proof.Machine.execImageConfirm s
  | .getCertificate k slot => Sys2Proof.Machine.execGetCertificate k slot s
  | .challenge k slot nonce => Sys2Proof.Machine.execChallenge k slot nonce s
  | .getMeasurements k idx sign nonce => Sys2Proof.Machine.execGetMeasurements k idx sign nonce s
  | .keyExchange k m => Sys2Proof.Machine.execKeyExchange k m s
  | .heartbeat k => Sys2Proof.Machine.execHeartbeat k s
  | .keyUpdate k => Sys2Proof.Machine.execKeyUpdate k s
  | .hssCompanionRequest k level => Sys2Proof.Machine.execHssCompanionRequest k level s
  | .hssSignatureRequest k n => Sys2Proof.Machine.execHssSignatureRequest k n s
  | .storeOwner k key => Sys2Proof.Machine.execStoreOwner k key s
  | .cryptoErase k p => Sys2Proof.Machine.execCryptoErase k p s
  | .clearNonce k => Sys2Proof.Machine.execClearNonce k s
  | .clear k nonce token upto => Sys2Proof.Machine.execClear k nonce token upto s
  | .ideKm k m => Sys2Proof.Machine.execIdeKm k m s
  | .ideIntegrityFailure stream => Sys2Proof.Machine.execIdeIntegrityFailure stream s
  | .bflKey w ns v => Sys2Proof.Machine.execBflKey w ns v s
  | .bflProgram w ns v => Sys2Proof.Machine.execBflProgram w ns v s
  | .bflErase w ns v => Sys2Proof.Machine.execBflErase w ns v s
  | .bflSuspend w => Sys2Proof.Machine.execBflSuspend w s
  | .bflResume w => Sys2Proof.Machine.execBflResume w s
  | .bflRead w => Sys2Proof.Machine.execBflRead w s
  | .bflOperationComplete => Sys2Proof.Machine.execBflOperationComplete s
  | .fieldBookPageProgram page => Sys2Proof.Machine.execFieldBookPageProgram page s
  | .evtForce w page v => Sys2Proof.Machine.execEvtForce w page v s
  | .srst w page => Sys2Proof.Machine.execSrst w page s
  | .modeWrite w page v => Sys2Proof.Machine.execModeWrite w page v s
  | .registerLoRead w off => Sys2Proof.Machine.execRegisterLoRead w off s
  | .registerWrite w off v => Sys2Proof.Machine.execRegisterWrite w off v s
  | .surveyorRestartEnd => Sys2Proof.Machine.execSurveyorRestartEnd s
  | .eraseBegin die blk => Sys2Proof.Machine.execEraseBegin die blk s
  | .slcCacheFold p ns unit => Sys2Proof.Machine.execSlcCacheFold p ns unit s
  | .negotiateAlgorithms k m => Sys2Proof.Machine.execNegotiateAlgorithms k m s
  | .pldmFirmwareData data => Sys2Proof.Machine.execPldmFirmwareData data s
  | .configurationRequest p => Sys2Proof.Machine.execConfigurationRequest p s
  | .sensorUpdate sensor temp => Sys2Proof.Machine.execSensorUpdate sensor temp s
  | .hotListCacheUpdate p ix => Sys2Proof.Machine.execHotListCacheUpdate p ix s
  | .bottomLevelTreeBuilt => Sys2Proof.Machine.execBottomLevelTreeBuilt s
  | .windowSelfRefreshEntry g => Sys2Proof.Machine.execWindowSelfRefreshEntry g s
  | .perstNRelease => Sys2Proof.Machine.execPerstNRelease s

end Sys2Proof.Machine
end

