-- ==== Sys2Proof/Safety.lean ====
section
/-! DEFINITION. What a safe run is: no step of it stops with a fault or a refusal. -/

namespace Sys2Proof

/-- `n` steps from a state, each answering a next state. -/
def safeFor : Nat → Machine.State → Prop
  | 0, _ => True
  | n + 1, s => ∃ t, Machine.step s = .next t ∧ safeFor n t

/-- Every command that waits is well-formed. -/
def wellFormedQueue (s : Machine.State) : Prop := ∀ i ∈ s.pending, i.wf = true

end Sys2Proof
end

