-- ==== Sys2Proof/Certificates/Slice0/Obligations.lean ====
section
/-! DEFINITION. What is claimed of the model: one `Obligations.<Name>` for each statement. The hypotheses and the shapes that several statements
share stand first, under `Sys2Proof.Claims`. -/

namespace Sys2Proof.Claims

open Sys2Proof Sys2Proof.Machine


/-! ### What the statements about a core share -/

/-- The outcome "this next state". -/
abbrev next (t : State) : Out := .next t

/-- The sequencer of core `c` runs, and no instruction stalls it (02 R49). -/
def fetches (s : State) (c : Nat) : Prop := c < 768 ∧ s.canIssue c = true ∧ (s.core c).arch.stall = none

/-- The PC lies in the program, and the word there is an instruction (02 R65, R70). -/
def inProgram (s : State) (c : Nat) : Prop := s.pcOf c < (s.core c).progLen.toNat ∧ s.noInstr c = false

/-- A core that issues now: its sequencer runs, its PC lies in the program, and the guard lets the instruction execute (02 R49, R57, R70). -/
def issues (s : State) (c : Nat) (g : Guard) : Prop := fetches s c ∧ inProgram s c ∧ (s.core c).arch.guardOn g = true

/-- The same of one instruction, which may be the one that the sequencer already waits at: it tries again (02 R49). -/
def issuesAt (s : State) (c : Nat) (g : Guard) (i : Instr) : Prop :=
  c < 768 ∧ s.canIssue c = true ∧ s.turnOf c i = true ∧ inProgram s c ∧ (s.core c).arch.guardOn g = true

/-- The same with the guard off. -/
def guardedOff (s : State) (c : Nat) (g : Guard) : Prop :=
  fetches s c ∧ inProgram s c ∧ (s.core c).arch.guardOn g = false

/-- Core `c` takes one step: its PC and its count of steps rise by one, and `upd` changes its image state. -/
def retire (s : State) (c : Nat) (upd : Arch → Arch) : State := (s.next c).modArch c upd

/-- The second operand of a scalar instruction (02 Table 2.6). -/
def second (a : Arch) (f : ScalarF) : BitVec 64 := if f.i then f.imm.signExtend 64 else a.rdS f.sb

/-- A scalar encoding without a reserved or unused bit set (02 R65). -/
def scalarClean (f : ScalarF) : Prop := f.rsv = 0 ∧ (f.i = true → f.sb = 0) ∧ (f.i = false → f.imm = 0)

/-- Lane `i` of width `w` bytes of a vector. -/
def lane (w i : Nat) (v : BitVec 512) : Nat := v.toNat / 2 ^ (8 * w * i) % 2 ^ (8 * w)

/-- A lane read as a signed integer. -/
def slane (w i : Nat) (v : BitVec 512) : Int := (BitVec.ofNat (8 * w) (lane w i v)).toInt

/-- A vector instruction completes with the lanes of `vd` that PM enables taken from `op`, the others kept (02 R60). -/
def lanewise (s : State) (c : Nat) (f : VecF) (o : Out) (op : Nat → Nat) : Prop :=
  ∃ r : BitVec 512, o = next (retire s c fun a => a.wrV f.vd r) ∧
    ∀ i, i < 64 / 2 ^ f.w.toNat →
      lane (2 ^ f.w.toNat) i r =
        if ((s.core c).arch.rdP f.pm).getLsbD (i * 2 ^ f.w.toNat) then op i % 2 ^ (8 * 2 ^ f.w.toNat)
        else lane (2 ^ f.w.toNat) i ((s.core c).arch.rdV f.vd)

/-- A TK field that names a token or none (02 R68). -/
def tkFine (tk : BitVec 6) : Prop := tk.toNat < 32 ∨ tk = 63

/-- The token that an engine operation names (02 R52). -/
def token (tk : BitVec 6) : Option Nat := if tk = 63 then none else some tk.toNat

/-- The stack-side scratchpad bytes of a core that no facility of a cluster holds: what it takes for an address to lie in the scratchpad. -/
def inSpm (c a len : Nat) : Prop := 0 < len ∧ a + len ≤ spmSize c

/-- Nothing else of the state is changed but the core table. -/
def onlyCores (s t : State) : Prop := { t with cores := s.cores } = s

/-- A VSQNT names the effect that its SUBOP says (03 R141); every other instruction is free of this. -/
def subopFits : Instr → Prop
  | .vsqntQuantise _ f => f.subop = 0
  | .vsqntLoad _ f => f.subop = 1
  | .vsqntStore _ f => f.subop = 2
  | .vsqntClose _ f => f.subop = 3
  | _ => True

end Sys2Proof.Claims



open Sys2Proof Sys2Proof.Machine Sys2Proof.Claims

/-! ### Instruction words -/

/-- The 64-bit word of a core instruction decodes to that instruction with every field at every value, and a word that decodes to an instruction is that
instruction's word: CLASS, guard, OP and the fields of the class stand where Tables 2.5 to 2.9 put them, no bit is dropped, and no two instructions share a
word (02 R64 to R66; 03 R141). -/
def Obligations.InstructionWords : Prop :=
  (∀ (i : Instr) (c : Nat) (w : BitVec 64), i.word = some (c, w) → subopFits i → decodeWord c w = some i) ∧
  (∀ (i : Instr) (c : Nat) (w : BitVec 64), decodeWord c w = some i → i.word = some (c, w) ∧ subopFits i) ∧
  (∀ (c : Nat) (w : BitVec 64), 9 ≤ (w >>> 60).toNat → decodeWord c w = none)

/-! ### The step -/

/-- A step takes the command at the front of the queue and runs it with the queue's rest; on an empty queue the block idles, which is the model's choice (log
8). -/
def Obligations.StepTakesTheFront : Prop :=
  (∀ (s : State) (i : Instr) (rest : List Instr), step { s with pending := i :: rest } = exec i { s with pending := rest }) ∧
  (∀ s : State, s.pending = [] → step s = next s)

/-! ### Cores: registers and frames -/

/-- Register files: what is written reads back, s0 reads 0 and p0 all ones whatever is written, and no other register changes (02 R58). The frame of an
instruction that retires: every other core, and everything that is not a core, is as before; of its own core the step count and the PC rise by one, the
stall ends, the core counts as having run, and the image is otherwise what the instruction makes of it; registers of the core outside its image keep their
values. -/
def Obligations.RegisterFilesAndFrame : Prop :=
  ((∀ (a : Arch) (r q : BitVec 5) (v : BitVec 64),
     (a.wrS r v).rdS q = if q = 0 then 0 else if q = r then v else a.rdS q) ∧
   (∀ (a : Arch) (r q : BitVec 3) (v : BitVec 64),
     (a.wrP r v).rdP q = if q = 0 then BitVec.allOnes 64 else if q = r then v else a.rdP q) ∧
   (∀ (a : Arch) (r q : BitVec 4) (v : BitVec 512), (a.wrV r v).rdV q = if q = r then v else a.rdV q) ∧
   (∀ (a : Arch) (r q : BitVec 4) (v : BitVec 256), (a.wrT r v).rdT q = if q = r then v else a.rdT q) ∧
   (∀ (a : Arch) (r : BitVec 5) (v : BitVec 64), a.wrS 0 v = a ∧ { a.wrS r v with s := a.s } = a) ∧
   (∀ (a : Arch) (r : BitVec 3) (v : BitVec 64), a.wrP 0 v = a ∧ { a.wrP r v with p := a.p } = a) ∧
   (∀ (a : Arch) (r : BitVec 4) (v : BitVec 512), { a.wrV r v with v := a.v } = a) ∧
   (∀ (a : Arch) (r : BitVec 4) (v : BitVec 256), { a.wrT r v with t := a.t } = a)) ∧
  (∀ (s : State) (c : Nat) (upd : Arch → Arch),
     onlyCores s (retire s c upd) ∧ (∀ d, d ≠ c → (retire s c upd).core d = s.core d) ∧
     (retire s c upd).core c =
       { s.core c with
         steps := (s.core c).steps + 1
         ran := true
         arch := upd { (s.core c).arch with pc := (s.core c).arch.pc + 1, stall := none } })

/-- A guarded-off instruction takes one issue step and changes nothing else; a guarded-off engine operation adds 1 to the token it names (02 R57). -/
def Obligations.GuardedOffInstructions : Prop :=
  (∀ (s : State) (c : Nat) (f : ScalarF), guardedOff s c f.g → scalarClean f →
    exec (.add c f) s = next (retire s c id) ∧ exec (.clz c f) s = next (retire s c id) ∧
    (f.sd.toNat < 8 → exec (.cmpltu c f) s = next (retire s c id))) ∧
  (∀ (s : State) (c : Nat) (f : BranchF), guardedOff s c f.g → f.rsv = 0 →
    exec (.br c f) s = next (retire s c id) ∧ exec (.loop c f) s = next (retire s c id)) ∧
  (∀ (s : State) (c : Nat) (f : TileF), guardedOff s c f.g → f.rsv = 0 → f.tk = 63 →
    exec (.tmov c f) s = next ((retire s c id).refreshOn c) ∧ exec (.tdset c f) s = next ((retire s c id).refreshOn c)) ∧
  (∀ (s : State) (c : Nat) (f : TileF), guardedOff s c f.g → f.rsv = 0 → f.tk.toNat < 32 →
    (s.core c).arch.rdK f.tk.toNat < 65535 →
    exec (.tmov c f) s =
      next ((retire s c fun a => { a with k := mset 0 a.k f.tk.toNat (BitVec.ofNat 16 (a.rdK f.tk.toNat + 1)) }).refreshOn c))

/-- What an instruction raises at issue, in the core that issues it: a PC past the program is a PC range fault (0x08, R70); a reserved bit, an unused field, a
TK that names no token or a predicate field above 7 is an illegal instruction (0x01, R65, R68, R706). The fault is precise: nothing of the instruction takes
effect, and the core's fault record holds its PC (R101, R102). A core's first fault is recorded, its engines abandon their operations without posting a
token, and it stops issuing; a later fault before teardown changes nothing but the count in ERR_CNT. The first fault is a record of the Field Book too (02
R102). The conventions that the model chose for it are those of logs 34 and 101. -/
def Obligations.FaultsAtIssue : Prop :=
  ((∀ (s : State) (c : Nat) (f : ScalarF), fetches s c → (s.core c).progLen.toNat ≤ s.pcOf c →
     exec (.add c f) s = next (s.coreFault c 0x08 true 0 (s.pcOf c) 0)) ∧
   (∀ (s : State) (c : Nat) (f : ScalarF), fetches s c → inProgram s c →
     (f.rsv ≠ 0 ∨ (f.i = true ∧ f.sb ≠ 0) ∨ (f.i = false ∧ f.imm ≠ 0) →
       exec (.add c f) s = next (s.coreFault c 0x01 true 0 (s.pcOf c) 0) ∧ exec (.pfroms c f) s = next (s.coreFault c 0x01 true 0 (s.pcOf c) 0)) ∧
     (8 ≤ f.sd.toNat → exec (.cmpeq c f) s = next (s.coreFault c 0x01 true 0 (s.pcOf c) 0)) ∧
     (f.i = false → exec (.movhi c f) s = next (s.coreFault c 0x01 true 0 (s.pcOf c) 0))) ∧
   (∀ (s : State) (c : Nat) (f : TileF), fetches s c → inProgram s c →
     (f.rsv ≠ 0 ∨ (32 ≤ f.tk.toNat ∧ f.tk ≠ 63) → exec (.tmov c f) s = next (s.coreFault c 0x01 true 0 (s.pcOf c) 0)) ∧
     (f.tk ≠ 63 → exec (.tdset c f) s = next (s.coreFault c 0x01 true 0 (s.pcOf c) 0))) ∧
   (∀ (s : State) (c : Nat) (f : SyncF), fetches s c → inProgram s c →
     (f.n = 0 ∨ 32 ≤ f.tk.toNat → exec (.wait c f) s = next (s.coreFault c 0x01 true 0 (s.pcOf c) 0) ∧
       exec (.post c f) s = next (s.coreFault c 0x01 true 0 (s.pcOf c) 0)) ∧
     (f.n ≠ 0 ∨ f.tk ≠ 0 → exec (.bar c f) s = next (s.coreFault c 0x01 true 0 (s.pcOf c) 0) ∧
       exec (.fence c f) s = next (s.coreFault c 0x01 true 0 (s.pcOf c) 0)))) ∧
  (∀ (s : State) (c code src pc addr : Nat) (precise : Bool),
     ((s.core c).run = .faulted →
       s.coreFault c code precise src pc addr = s.countErr (.core c)) ∧
     ((s.core c).run ≠ .faulted → (s.core c).bound = false → lget s.fch.invs c = none →
       let t := s.coreFault c code precise src pc addr
       (t.core c).fault = some { code := code, precise := precise, src := src, pc := pc, addr := BitVec.ofNat 64 addr } ∧
       t.canIssue c = false ∧ (t.core c).arch.engineBusy = false ∧ (t.core c).arch.k = (s.core c).arch.k ∧ (t.core c).arch.s = (s.core c).arch.s ∧
       (t.core c).arch.spm = (s.core c).arch.spm ∧ (t.core c).arch.pc = (s.core c).arch.pc ∧ (∀ d, d ≠ c → t.core d = s.core d) ∧
       ∃ u : State, onlyCores s u ∧ t = u.fbRecord 0x2001 (words [c, (s.core c).ctx.toNat, code + b2n precise * 256 + src * 512 + pc % 16384 * 65536 + 0x80000000,
         addr % 2 ^ 32, addr % 2 ^ 64 / 2 ^ 32])))

/-! ### Cores: the scalar class -/

/-- The eighteen scalar instructions that write a scalar register: each writes sd with the value the table gives, and changes nothing else (02 Table 2.7, R69). -/
def Obligations.ScalarResults : Prop :=
  ∀ (s : State) (c : Nat) (f : ScalarF), issues s c f.g → scalarClean f →
    let a := (s.core c).arch
    let x := a.rdS f.sa
    let y := second a f
    let put (v : BitVec 64) : Out := next (retire s c fun b => b.wrS f.sd v)
    exec (.add c f) s = put (x + y) ∧ exec (.sub c f) s = put (x - y) ∧ exec (.and c f) s = put (x &&& y) ∧
    exec (.or c f) s = put (x ||| y) ∧ exec (.xor c f) s = put (x ^^^ y) ∧ exec (.shl c f) s = put (x <<< (y.toNat % 64)) ∧
    exec (.shr c f) s = put (x >>> (y.toNat % 64)) ∧ exec (.sar c f) s = put (x.sshiftRight (y.toNat % 64)) ∧
    exec (.mul c f) s = put (x * y) ∧
    exec (.mulhu c f) s = put ((x.setWidth 128 * y.setWidth 128).extractLsb' 64 64) ∧
    exec (.mulhs c f) s = put ((x.signExtend 128 * y.signExtend 128).extractLsb' 64 64) ∧
    exec (.min c f) s = put (if x.toInt ≤ y.toInt then x else y) ∧ exec (.max c f) s = put (if x.toInt ≤ y.toInt then y else x) ∧
    exec (.minu c f) s = put (if x.toNat ≤ y.toNat then x else y) ∧ exec (.maxu c f) s = put (if x.toNat ≤ y.toNat then y else x) ∧
    (f.i = true → exec (.movhi c f) s = put (f.imm ++ (a.rdS f.sd).extractLsb' 0 32)) ∧
    exec (.popc c f) s = put (BitVec.ofNat 64 ((List.range 64).countP fun i => x.getLsbD i)) ∧
    ∃ n, n ≤ 64 ∧ exec (.clz c f) s = put (BitVec.ofNat 64 n) ∧ (∀ i, i < 64 → x.getLsbD i = true → i + n < 64) ∧
      (n < 64 → x.getLsbD (63 - n) = true)

/-- The eleven instructions of compares and predicates (02 Table 2.7, R69, R706). -/
def Obligations.ComparesAndPredicates : Prop :=
  ∀ (s : State) (c : Nat) (f : ScalarF), issues s c f.g → scalarClean f →
    let a := (s.core c).arch
    let x := a.rdS f.sa
    let y := second a f
    let p (r : BitVec 5) : BitVec 64 := a.rdP (r.extractLsb' 0 3)
    let put (v : BitVec 64) : Out := next (retire s c fun b => b.wrP (f.sd.extractLsb' 0 3) v)
    let flag (b : Prop) [Decidable b] : Out := put (if b then BitVec.allOnes 64 else 0)
    (f.sd.toNat < 8 →
      exec (.cmpeq c f) s = flag (x = y) ∧ exec (.cmpne c f) s = flag (x ≠ y) ∧ exec (.cmplt c f) s = flag (x.toInt < y.toInt) ∧
      exec (.cmpltu c f) s = flag (x.toNat < y.toNat) ∧ exec (.cmple c f) s = flag (x.toInt ≤ y.toInt) ∧
      exec (.cmpleu c f) s = flag (x.toNat ≤ y.toNat) ∧ exec (.pfroms c f) s = put x ∧
      (f.sa.toNat < 8 → exec (.pnot c f) s = put (~~~ p f.sa) ∧
        (f.sb.toNat < 8 → exec (.pand c f) s = put (p f.sa &&& p f.sb) ∧ exec (.por c f) s = put (p f.sa ||| p f.sb)))) ∧
    (f.sa.toNat < 8 → exec (.ptos c f) s = next (retire s c fun b => b.wrS f.sd (p f.sa)))

/-- Branches: with a target in range the PC becomes the target and the register update happens; without a branch the PC moves on by one; a target out of range
raises a PC range fault, and the branch has no effect. Issue at a PC past the last instruction raises it for every instruction (02 Table 2.7, R70), issue at
a word of a reserved CLASS or an unlisted OP is an illegal instruction (R65), and while one instruction stalls the sequencer no other issues (R49). -/
def Obligations.Branches : Prop :=
  (∀ (s : State) (c : Nat) (f : BranchF), issues s c f.g → f.rsv = 0 →
    let a := (s.core c).arch
    let target : Int := (s.pcOf c : Int) + f.off.toInt
    let inside : Prop := 0 ≤ target ∧ target < (s.core c).progLen.toNat
    let go (o : Out) (upd : Arch → Arch) : Prop :=
      (inside → ∃ t, o = next t ∧ (t.core c).arch = { upd a with pc := BitVec.ofInt 15 target, stall := none } ∧ onlyCores s t ∧
        (t.core c).steps = (s.core c).steps + 1 ∧ ∀ d, d ≠ c → t.core d = s.core d) ∧
      (¬ inside → o = next (s.coreFault c 0x08 true 0 (s.pcOf c) 0))
    go (exec (.br c f) s) id ∧
    (a.rdS f.sa = 0 → go (exec (.brz c f) s) id) ∧ (a.rdS f.sa ≠ 0 → exec (.brz c f) s = next (retire s c id)) ∧
    (a.rdS f.sa ≠ 0 → go (exec (.brnz c f) s) id) ∧ (a.rdS f.sa = 0 → exec (.brnz c f) s = next (retire s c id)) ∧
    go (exec (.call c f) s) (fun b => b.wrS 31 (BitVec.ofNat 64 (s.pcOf c + 1))) ∧
    (a.rdS f.sa ≠ 1 → go (exec (.loop c f) s) fun b => b.wrS f.sa (a.rdS f.sa - 1)) ∧
    (a.rdS f.sa = 1 → exec (.loop c f) s = next (retire s c fun b => b.wrS f.sa 0))) ∧
  (∀ (s : State) (c : Nat) (f : BranchF), issues s c f.g → f.rsv = 0 → f.off = 0 → lget s.fch.invs c = none →
    let target := ((s.core c).arch.rdS f.sa).toNat % 16384
    (target < (s.core c).progLen.toNat → ∃ t, exec (.jr c f) s = next t ∧ (t.core c).arch = { (s.core c).arch with pc := BitVec.ofNat 15 target, stall := none } ∧
      (t.core c).steps = (s.core c).steps + 1 ∧ onlyCores s t ∧ ∀ d, d ≠ c → t.core d = s.core d) ∧
    ((s.core c).progLen.toNat ≤ target → exec (.jr c f) s = next (s.coreFault c 0x08 true 0 (s.pcOf c) 0))) ∧
  (∀ (s : State) (c : Nat), c < 768 → s.canIssue c = true →
     let out (i : Instr) : Prop := (s.turnOf c i = false → exec i s = next s) ∧
       (s.turnOf c i = true →
         ((s.core c).progLen.toNat ≤ s.pcOf c → exec i s = next (s.coreFault c 0x08 true 0 (s.pcOf c) 0)) ∧
         (s.pcOf c < (s.core c).progLen.toNat → s.noInstr c = true → exec i s = next (s.coreFault c 0x01 true 0 (s.pcOf c) 0)))
     (∀ f : ScalarF, ∀ i ∈ ([.add c f, .sub c f, .and c f, .or c f, .xor c f, .shl c f, .shr c f, .sar c f, .mul c f, .mulhu c f, .mulhs c f,
       .min c f, .max c f, .minu c f, .maxu c f, .movhi c f, .popc c f, .clz c f, .cmpeq c f, .cmpne c f, .cmplt c f, .cmpltu c f, .cmple c f,
       .cmpleu c f, .pand c f, .por c f, .pnot c f, .pfroms c f, .ptos c f] : List Instr), out i) ∧
     (∀ f : BranchF, ∀ i ∈ ([.br c f, .brz c f, .brnz c f, .call c f, .jr c f, .loop c f] : List Instr), out i) ∧
     (∀ f : LdStF, ∀ i ∈ ([.ld8u c f, .ld16u c f, .ld32u c f, .ld64 c f, .ld8s c f, .ld16s c f, .ld32s c f, .st8 c f, .st16 c f, .st32 c f,
       .st64 c f, .vld c f, .vst c f, .vstp c f, .pld c f, .pst c f] : List Instr), out i) ∧
     (∀ f : TileF, ∀ i ∈ ([.tmov c f, .tgath c f, .tscat c f, .tfill c f, .tdset c f, .tdget c f] : List Instr), out i) ∧
     (∀ f : MatrixF, ∀ i ∈ ([.mop c f, .msld c f, .mws c f, .mrd c f, .mclr c f] : List Instr), out i) ∧
     (∀ f : VecF, ∀ i ∈ ([.vadd c f, .vsub c f, .vmul c f, .vmin c f, .vmax c f, .vminu c f, .vmaxu c f, .vand c f, .vor c f, .vxor c f, .vshl c f,
       .vshr c f, .vsar c f, .vadds c f, .vcmpeq c f, .vcmplt c f, .vcmpltu c f, .vsel c f, .vbcast c f, .vrsum c f, .vrmin c f, .vrmax c f,
       .vxpop c f, .vxpopa c f, .vpopc c f, .vlut c f, .vcvt c f, .vqnt c f, .vfadd c f, .vfmul c f, .vfma c f] : List Instr), out i) ∧
     (∀ f : StreamF, ∀ i ∈ ([.vsxp c f, .vstlk c f, .vsqntQuantise c f, .vsqntLoad c f, .vsqntStore c f, .vsqntClose c f] : List Instr), out i) ∧
     (∀ f : SelF, ∀ i ∈ ([.sclr c f, .stopk c f, .ssort c f, .smerge c f, .semit c f, .scmrg c f] : List Instr), out i) ∧
     (∀ f : SyncF, ∀ i ∈ ([.wait c f, .post c f, .postc c f, .bar c f, .fence c f] : List Instr), out i) ∧
     (∀ f : SysF, ∀ i ∈ ([.halt c f, .evt c f, .trap c f, .rdstep c f, .rdcore c f, .rdctx c f] : List Instr), out i))

namespace Sys2Proof.Claims

/-- The core-local address of a load or store: base plus OFF, modulo 2⁶⁴ (02 R72). -/
def address (s : State) (c : Nat) (f : LdStF) : Nat := ((s.core c).arch.rdS f.sa + f.off.signExtend 64).toNat

/-- A load finds these bytes, and no incomplete engine operation writes others there (02 R80). -/
def finds (s : State) (c a len : Nat) (bs : Bytes) : Prop :=
  s.rdLocal c a len = some bs ∧ ∀ u ∈ s.views c, ∀ x, u.rdLocal c a len = some x → x = bs

/-- What a store into the scratchpad leaves: byte `b` of the scratchpad is `new b` in the stored range and as before outside it; of the core only the
scratchpad, the PC, the step count, the stall, the sign that it ran and the mark of a touched list differ, and nothing but the core and, of a filter's
invocation on it, the mark of a store outside its area. -/
def storedTo (s t : State) (c a len : Nat) (new : Nat → Byte) : Prop :=
  let x := (s.core c).arch
  let y := (t.core c).arch
  (∀ b, rdByte y.spm b = if a ≤ b ∧ b < a + len then new b else rdByte x.spm b) ∧
  y.pc = x.pc + 1 ∧ y.stall = none ∧ (t.core c).steps = (s.core c).steps + 1 ∧
  { y with spm := x.spm, pc := x.pc, stall := x.stall, sle := { y.sle with touched := x.sle.touched } } = x ∧
  onlyCores s { t with fch := s.fch } ∧ (lget s.fch.invs c = none → t.fch = s.fch) ∧ ∀ d, d ≠ c → t.core d = s.core d

/-- Byte `i` of a value, lowest first (00 R5). -/
def byteOf {n : Nat} (v : BitVec n) (i : Nat) : Byte := (v >>> (8 * i)).setWidth 8

end Sys2Proof.Claims

/-! ### Cores: loads and stores -/

/-- Where a load finds bytes: in the core's own scratchpad, and in banks of its cluster's scratchpad that its context owns; nowhere else in the alias ranges,
where a load raises an address fault (02 R72, R77, R88). -/
def Obligations.LocalReads : Prop :=
  (∀ (s : State) (c a len : Nat), c < 768 → 0 < len → len ≤ 64 →
    (a + len ≤ spmSize c → s.rdLocal c a len = some (rdBytes (s.core c).arch.spm a len)) ∧
    (0x1000000 ≤ a → a < 0x4000000 → s.rdLocal c a len = none) ∧
    (0x4000000 ≤ a → a + len ≤ 0x4000000 + cspmSize (clusterOf c) →
      (s.banksOwned c (clusterOf c) (a - 0x4000000) len = true →
        s.rdLocal c a len = some (rdBytes (s.clu (clusterOf c)).spm (a - 0x4000000) len)) ∧
      (s.banksOwned c (clusterOf c) (a - 0x4000000) len = false → s.rdLocal c a len = none)) ∧
    (0x10000000 ≤ a → s.rdLocal c a len = none)) ∧
  (∀ (s : State) (c : Nat) (f : LdStF), issues s c f.g → f.rsv = 0 → f.pm = 0 →
    let a := address s c f
    let bad (o : Out) : Prop := o = next (s.coreFault c 0x02 true 0 (s.pcOf c) a)
    0x1000000 ≤ a → a < 0x3000000 →
      bad (exec (.ld8u c f) s) ∧ bad (exec (.ld8s c f) s) ∧ (a % 2 = 0 → bad (exec (.ld16u c f) s) ∧ bad (exec (.ld16s c f) s)) ∧
      (a % 4 = 0 → bad (exec (.ld32u c f) s) ∧ bad (exec (.ld32s c f) s)) ∧
      (a % 8 = 0 → bad (exec (.ld64 c f) s) ∧ (f.rd.toNat < 8 → bad (exec (.pld c f) s))) ∧ (a % 64 = 0 → f.rd.toNat < 16 → bad (exec (.vld c f) s)))

/-- Loads write what they find into their register, zero-extended or sign-extended, and change nothing else; a misaligned address raises an alignment fault
(0x03), an address where nothing can be read an address fault (0x02), and the fault holds the address (02 R72, R75, R80). A load beside an incomplete engine
operation that writes the same bytes: each byte loaded is the old one, or one that such an operation writes (02 R80). The conventions that the model chose
for it are those of logs 6 and 35. -/
def Obligations.Loads : Prop :=
  (∀ (s : State) (c : Nat) (f : LdStF) (bs : Bytes), issues s c f.g → f.rsv = 0 → f.pm = 0 →
     let a := address s c f
     let n := leNat bs
     let put (len : Nat) (upd : Arch → Arch) : Out := next (retire (s.touchLocal c a len) c upd)
     let bad (code : Nat) : Out := next (s.coreFault c code true 0 (s.pcOf c) a)
     (finds s c a 1 bs → exec (.ld8u c f) s = put 1 (fun b => b.wrS f.rd (BitVec.ofNat 64 n)) ∧
       exec (.ld8s c f) s = put 1 (fun b => b.wrS f.rd ((BitVec.ofNat 8 n).signExtend 64))) ∧
     (a % 2 = 0 → finds s c a 2 bs → exec (.ld16u c f) s = put 2 (fun b => b.wrS f.rd (BitVec.ofNat 64 n)) ∧
       exec (.ld16s c f) s = put 2 (fun b => b.wrS f.rd ((BitVec.ofNat 16 n).signExtend 64))) ∧
     (a % 4 = 0 → finds s c a 4 bs → exec (.ld32u c f) s = put 4 (fun b => b.wrS f.rd (BitVec.ofNat 64 n)) ∧
       exec (.ld32s c f) s = put 4 (fun b => b.wrS f.rd ((BitVec.ofNat 32 n).signExtend 64))) ∧
     (a % 8 = 0 → finds s c a 8 bs → exec (.ld64 c f) s = put 8 (fun b => b.wrS f.rd (BitVec.ofNat 64 n)) ∧
       (f.rd.toNat < 8 → exec (.pld c f) s = put 8 (fun b => b.wrP (f.rd.extractLsb' 0 3) (BitVec.ofNat 64 n)))) ∧
     (a % 64 = 0 → f.rd.toNat < 16 → finds s c a 64 bs →
       exec (.vld c f) s = put 64 (fun b => b.wrV (f.rd.extractLsb' 0 4) (BitVec.ofNat 512 n))) ∧
     (a % 8 ≠ 0 → exec (.ld64 c f) s = bad 0x03) ∧ (a % 4 ≠ 0 → exec (.ld32s c f) s = bad 0x03) ∧ (a % 2 ≠ 0 → exec (.ld16u c f) s = bad 0x03) ∧
     (a % 64 ≠ 0 → f.rd.toNat < 16 → exec (.vld c f) s = bad 0x03) ∧ (a % 8 ≠ 0 → f.rd.toNat < 8 → exec (.pld c f) s = bad 0x03) ∧
     (s.rdLocal c a 1 = none → exec (.ld8u c f) s = bad 0x02 ∧ exec (.ld8s c f) s = bad 0x02) ∧
     (a % 64 = 0 → f.rd.toNat < 16 → s.rdLocal c a 64 = none → exec (.vld c f) s = bad 0x02)) ∧
  (∀ (s : State) (c : Nat) (f : LdStF) (old : Bytes), issues s c f.g → f.rsv = 0 → f.pm = 0 →
     address s c f % 8 = 0 → s.rdLocal c (address s c f) 8 = some old →
     ∃ (bs : Bytes) (k : Nat), bs.length = 8 ∧
       exec (.ld64 c f) s = next (retire { s.touchLocal c (address s c f) 8 with free := k } c fun b => b.wrS f.rd (BitVec.ofNat 64 (leNat bs))) ∧
       ∀ i, i < 8 → bs.getD i 0 = old.getD i 0 ∨ ∃ u ∈ s.views c, ∃ x, u.rdLocal c (address s c f) 8 = some x ∧ bs.getD i 0 = x.getD i 0)

/-- Stores into the scratchpad: the bytes of the register stand at the address, lowest first, and every other byte is as before; through the alias ranges the
bytes become old OR V, or old AND NOT V; VSTP stores the bytes that PM enables; a misaligned address raises an alignment fault (02 R72, R75, R76, R78). A
store into the cluster's scratchpad: in a bank of the core's context the bytes are stored there and nowhere else; in any other bank it raises an address
fault (02 R72, R88). The conventions that the model chose for it are those of log 35. -/
def Obligations.Stores : Prop :=
  (∀ (s : State) (c : Nat) (f : LdStF), issues s c f.g → f.rsv = 0 →
     let x := (s.core c).arch
     let a := address s c f
     let old (b : Nat) : Byte := rdByte x.spm b
     let plain (o : Out) (len : Nat) (v : Nat → Byte) : Prop :=
       (inSpm c a len → a % len = 0 → ∃ t, o = next t ∧ storedTo s t c a len fun b => v (b - a)) ∧
       (a % len ≠ 0 → o = next (s.coreFault c 0x03 true 0 (s.pcOf c) a))
     let aliased (o : Out) (len : Nat) (v : Nat → Byte) : Prop :=
       (0x1000000 ≤ a → inSpm c (a - 0x1000000) len → a % len = 0 → ∃ t, o = next t ∧
         storedTo s t c (a - 0x1000000) len fun b => old b ||| v (b - (a - 0x1000000))) ∧
       (0x2000000 ≤ a → inSpm c (a - 0x2000000) len → a % len = 0 → ∃ t, o = next t ∧
         storedTo s t c (a - 0x2000000) len fun b => old b &&& ~~~ v (b - (a - 0x2000000)))
     let reg := byteOf (x.rdS f.rd)
     (f.pm = 0 → plain (exec (.st8 c f) s) 1 reg ∧ plain (exec (.st16 c f) s) 2 reg ∧ plain (exec (.st32 c f) s) 4 reg ∧
       plain (exec (.st64 c f) s) 8 reg ∧ aliased (exec (.st8 c f) s) 1 reg ∧ aliased (exec (.st16 c f) s) 2 reg ∧
       aliased (exec (.st32 c f) s) 4 reg ∧ aliased (exec (.st64 c f) s) 8 reg) ∧
     (f.pm = 0 → f.rd.toNat < 16 → plain (exec (.vst c f) s) 64 (byteOf (x.rdV (f.rd.extractLsb' 0 4))) ∧
       aliased (exec (.vst c f) s) 64 (byteOf (x.rdV (f.rd.extractLsb' 0 4)))) ∧
     (f.pm = 0 → f.rd.toNat < 8 → plain (exec (.pst c f) s) 8 (byteOf (x.rdP (f.rd.extractLsb' 0 3)))) ∧
     (f.rd.toNat < 16 → plain (exec (.vstp c f) s) 64 fun i =>
       if (x.rdP f.pm).getLsbD i then byteOf (x.rdV (f.rd.extractLsb' 0 4)) i else old (a + i))) ∧
  (∀ (s : State) (c : Nat) (f : LdStF), issues s c f.g → f.rsv = 0 → f.pm = 0 →
     let a := address s c f
     let k := clusterOf c
     a % 8 = 0 → 0x4000000 ≤ a → a + 8 ≤ 0x4000000 + cspmSize k →
     (s.banksOwned c k (a - 0x4000000) 8 = true → ∃ t, exec (.st64 c f) s = next t ∧
       (∀ b, rdByte (t.clu k).spm b = if a - 0x4000000 ≤ b ∧ b < a - 0x4000000 + 8 then byteOf ((s.core c).arch.rdS f.rd) (b - (a - 0x4000000))
         else rdByte (s.clu k).spm b) ∧
       (∀ m, m ≠ k → t.clu m = s.clu m) ∧ (∀ d r, (t.core d).arch.rdS r = (s.core d).arch.rdS r) ∧
       (∀ d, (t.core d).arch.spm = (s.core d).arch.spm) ∧ { t with cores := s.cores, clus := s.clus } = s) ∧
     (s.banksOwned c k (a - 0x4000000) 8 = false → exec (.st64 c f) s = next (s.coreFault c 0x02 true 0 (s.pcOf c) a)))

/-! ### Cores: vector register instructions -/

/-- Lane by lane integer instructions (02 Table 2.9, R60, R707): each lane that PM enables takes the value the table gives, the others are kept. -/
def Obligations.VectorLanes : Prop :=
  ∀ (s : State) (c : Nat) (f : VecF), issues s c f.g → (s.core c).arch.vxe = none →
    let a := (s.core c).arch
    let w := 2 ^ f.w.toNat
    let x (i : Nat) : Nat := lane w i (a.rdV f.va)
    let y (i : Nat) : Nat := lane w i (a.rdV f.vb)
    let d (i : Nat) : Nat := lane w i (a.rdV f.vd)
    let sx (i : Nat) : Int := slane w i (a.rdV f.va)
    let sy (i : Nat) : Int := slane w i (a.rdV f.vb)
    let bitsOf (n : Int) : Nat := (BitVec.ofInt (8 * w) n).toNat
    let top : Int := 2 ^ (8 * w - 1)
    let ones (n : Nat) : Nat := (List.range (8 * w)).countP n.testBit
    let lw := lanewise s c f
    lw (exec (.vadd c f) s) (fun i => x i + y i) ∧ lw (exec (.vsub c f) s) (fun i => bitsOf (x i - y i : Int)) ∧
    lw (exec (.vmul c f) s) (fun i => x i * y i) ∧ lw (exec (.vmin c f) s) (fun i => if sx i ≤ sy i then x i else y i) ∧
    lw (exec (.vmax c f) s) (fun i => if sx i ≤ sy i then y i else x i) ∧ lw (exec (.vminu c f) s) (fun i => Nat.min (x i) (y i)) ∧
    lw (exec (.vmaxu c f) s) (fun i => Nat.max (x i) (y i)) ∧ lw (exec (.vand c f) s) (fun i => x i &&& y i) ∧
    lw (exec (.vor c f) s) (fun i => x i ||| y i) ∧ lw (exec (.vxor c f) s) (fun i => x i ^^^ y i) ∧
    lw (exec (.vshl c f) s) (fun i => x i <<< (y i % (8 * w))) ∧ lw (exec (.vshr c f) s) (fun i => x i >>> (y i % (8 * w))) ∧
    lw (exec (.vsar c f) s) (fun i => ((BitVec.ofNat (8 * w) (x i)).sshiftRight (y i % (8 * w))).toNat) ∧
    lw (exec (.vadds c f) s) (fun i => bitsOf (if sx i + sy i < -top then -top else if top ≤ sx i + sy i then top - 1 else sx i + sy i)) ∧
    lw (exec (.vxpop c f) s) (fun i => ones (x i ^^^ y i)) ∧ lw (exec (.vxpopa c f) s) (fun i => d i + ones (x i ^^^ y i)) ∧
    lw (exec (.vpopc c f) s) (fun i => ones (x i)) ∧ lw (exec (.vbcast c f) s) (fun _ => (a.rdS f.sx).toNat)

/-- Vector compares write the predicate bits of enabled lanes and keep the others; VSEL writes every lane; reductions write s[SX] with the sum, the smallest or
the largest of the enabled lanes (02 R60, R707, R708). Function tables, format conversions and FP32 arithmetic by lanes: VLUT takes table entries; VCVT
converts packed elements and writes zeros above them; the FP32 instructions round the exact result once; VQNT quantises its enabled lanes through a slot of
which it changes the statistics alone (02 R709 to R711; 03 R133, R149). The conventions that the model chose for it are those of logs 16 and 96. -/
def Obligations.VectorReductionsTablesFloats : Prop :=
  (∀ (s : State) (c : Nat) (f : VecF), issues s c f.g → (s.core c).arch.vxe = none →
     let a := (s.core c).arch
     let w := 2 ^ f.w.toNat
     let on (i : Nat) : Bool := (a.rdP f.pm).getLsbD (i * w)
     let x (i : Nat) : Nat := lane w i (a.rdV f.va)
     let y (i : Nat) : Nat := lane w i (a.rdV f.vb)
     let sx (i : Nat) : Int := slane w i (a.rdV f.va)
     let sy (i : Nat) : Int := slane w i (a.rdV f.vb)
     let pd : BitVec 3 := f.vd.extractLsb' 0 3
     let cmp (o : Out) (rel : Nat → Prop) : Prop := ∃ q : BitVec 64, o = next (retire s c fun b => b.wrP pd q) ∧
       ∀ b, b < 64 → (q.getLsbD b = true ↔ if on (b / w) then rel (b / w) else (a.rdP pd).getLsbD b = true)
     let val (i : Nat) : Int := if f.aux.getLsbD 0 then (x i : Int) else sx i
     let enabled : List Nat := (List.range (64 / w)).filter on
     (f.vd.toNat < 8 → cmp (exec (.vcmpeq c f) s) (fun i => x i = y i) ∧ cmp (exec (.vcmplt c f) s) (fun i => sx i < sy i) ∧
       cmp (exec (.vcmpltu c f) s) (fun i => x i < y i)) ∧
     (∃ r : BitVec 512, exec (.vsel c f) s = next (retire s c fun b => b.wrV f.vd r) ∧
       ∀ i, i < 64 / w → lane w i r = if on i then x i else y i) ∧
     (f.aux.toNat < 2 →
       exec (.vrsum c f) s = next (retire s c fun b => b.wrS f.sx (BitVec.ofInt 64 (enabled.map val).sum)) ∧
       (∃ m : Int, exec (.vrmin c f) s = next (retire s c fun b => b.wrS f.sx (BitVec.ofInt 64 m)) ∧ (∀ i ∈ enabled, m ≤ val i) ∧
         (enabled ≠ [] → ∃ i ∈ enabled, m = val i)) ∧
       (∃ m : Int, exec (.vrmax c f) s = next (retire s c fun b => b.wrS f.sx (BitVec.ofInt 64 m)) ∧ (∀ i ∈ enabled, val i ≤ m) ∧
         (enabled ≠ [] → ∃ i ∈ enabled, m = val i)))) ∧
  (∀ (s : State) (c : Nat) (f : VecF), issues s c f.g → (s.core c).arch.vxe = none →
     let a := (s.core c).arch
     let w := 2 ^ f.w.toNat
     let x (i : Nat) : Nat := lane w i (a.rdV f.va)
     let y (i : Nat) : Nat := lane w i (a.rdV f.vb)
     let d (i : Nat) : Nat := lane w i (a.rdV f.vd)
     let fromF := f.aux.toNat / 16 % 16
     let toF := f.aux.toNat % 16
     let n := 512 / Nat.max (fmtBits fromF) (fmtBits toF)
     let cfg := a.slotCfg (f.aux.toNat % 16)
     (f.aux.toNat < 8 → lanewise s c f (exec (.vlut c f) s) fun i => (mget 0 a.ftab (f.aux.toNat * 256 + x i % 256)).toNat) ∧
     (f.w = 2 → lanewise s c f (exec (.vfadd c f) s) (fun i => fp32.rnd ((fp32.dec (x i)).add (fp32.dec (y i)))) ∧
       lanewise s c f (exec (.vfmul c f) s) (fun i => fp32.rnd ((fp32.dec (x i)).mul (fp32.dec (y i)))) ∧
       lanewise s c f (exec (.vfma c f) s) (fun i => fp32.rnd (((fp32.dec (x i)).mul (fp32.dec (y i))).add (fp32.dec (d i))))) ∧
     (f.w ≠ 2 → exec (.vfadd c f) s = next (s.coreFault c 0x01 true 0 (s.pcOf c) 0)) ∧
     (f.w = 0 → fmtIsMx fromF = false → fmtIsMx toF = false → fromF ≠ 15 → toF ≠ 15 → f.pm = 0 →
       ∃ r : BitVec 512, exec (.vcvt c f) s = next (retire s c fun b => b.wrV f.vd r) ∧ r.toNat < 2 ^ (n * fmtBits toF) ∧
         ∀ k, k < n → r.toNat / 2 ^ (k * fmtBits toF) % 2 ^ fmtBits toF =
           cvtElem toF (decElem fromF ((a.rdV f.va).toNat / 2 ^ (k * fmtBits fromF) % 2 ^ fmtBits fromF)) % 2 ^ fmtBits toF) ∧
     (f.w = 0 → fmtIsMx toF = true ∨ toF = 15 → exec (.vcvt c f) s = next (s.coreFault c 0x06 true 0 (s.pcOf c) 0)) ∧
     (∃ (r : BitVec 512) (st : Mem) (k : Nat),
       exec (.vqnt c f) s = next (retire { s with free := k } c fun b => { b.wrV f.vd r with slots := st }) ∧
       (∀ m, m / 1024 ≠ f.aux.toNat % 16 → rdByte st m = rdByte a.slots m) ∧
       (fmtIsMx cfg.fmt = false → cfg.fmt < 15 → cfg.zpEn = false → ∀ i, i < 16 → (a.rdP f.pm).getLsbD (4 * i) = true →
         r.toNat / 2 ^ (i * fmtBits cfg.fmt) % 2 ^ fmtBits cfg.fmt =
           (quantOne cfg.fmt 0 (f32div f32one (scaleUse (a.slotGet (f.aux.toNat % 16) 8 4))) (fp32.dec (lane 4 i (a.rdV f.va)))).pat % 2 ^ fmtBits cfg.fmt)))

namespace Sys2Proof.Claims

/-- The engine operation that an instruction leaves in its engine, as far as every class fixes it. -/
def opAs (o : EngOp) (op : EOp) (pc : Nat) (tk : BitVec 6) (ta tb : BitVec 256) : Prop :=
  o.op = op ∧ o.pc = pc ∧ o.tk = token tk ∧ o.ta = ta ∧ o.tb = tb

/-- The rows of a descriptor's source lie in the core's scratchpad. -/
def srcInside (c : Nat) (t : BitVec 256) : Prop :=
  (descOf t).ok = true ∧ ∀ i, i < (descOf t).rows → inSpm c ((descOf t).srcRow i) (descOf t).rowLen

/-- The rows of a descriptor's destination lie in the core's scratchpad. -/
def dstInside (c : Nat) (t : BitVec 256) : Prop :=
  (descOf t).ok = true ∧ ∀ i, i < (descOf t).rows → inSpm c ((descOf t).dstRow i) (descOf t).rowLen

/-- An operation that an engine has run to its end has left it, and the token it names counts one more (02 R52). -/
def posts (s t : State) (c : Nat) (tk : Option Nat) : Prop :=
  match tk with
  | none => True
  | some k => (t.core c).arch.rdK k = (s.core c).arch.rdK k + 1

/-- No context is on the core, and no filter invocation: what a test bench has loaded. -/
def bare (s : State) (c : Nat) : Prop := (s.core c).bound = false ∧ lget s.fch.invs c = none

end Sys2Proof.Claims

/-! ### Cores: engine operations -/

/-- A tile move enters a free TME with its descriptor and scalar operand as they stand, and the sequencer goes on; TMOV, TGATH, TSCAT and TFILL need a
descriptor in order (else a descriptor fault, 0x05, which is not precise), and TDSET and TDGET need TK = 63 (02 R51, R62, R68, R71, R714, R715). Stream
instructions enter a free VXE (02 R51, R67, R712; 03 R141, R142; 05 R199). The conventions that the model chose for it are those of log 36. -/
def Obligations.TileAndStreamIssue : Prop :=
  (∀ (s : State) (c : Nat) (f : TileF), issues s c f.g → f.rsv = 0 → tkFine f.tk → (s.core c).arch.tme = none →
     let a := (s.core c).arch
     let enters (o : Out) (op : EOp) : Prop := ∃ x : EngOp, o = next (retire s c fun b => { b with tme := some x }) ∧
       x.op = op ∧ x.pc = s.pcOf c ∧ x.tk = token f.tk ∧ x.ta = a.rdT f.td ∧ x.td = f.td.toNat ∧ x.x = (a.rdS f.sa).setWidth 512 ∧ x.n = f.cnt.toNat
     ((descOf (a.rdT f.td)).ok = true → enters (exec (.tmov c f) s) .tmov ∧ enters (exec (.tfill c f) s) .tfill ∧
       (inSpm c (a.rdS f.sa).toNat (Nat.max 1 (4 * f.cnt.toNat)) →
         enters (exec (.tgath c f) s) .tgath ∧ enters (exec (.tscat c f) s) .tscat)) ∧
     ((descOf (a.rdT f.td)).ok = false →
       exec (.tmov c f) s = next ((s.next c).coreFault c 0x05 false 4 (s.pcOf c) 0) ∧
       exec (.tfill c f) s = next ((s.next c).coreFault c 0x05 false 4 (s.pcOf c) 0)) ∧
     (f.tk = 63 → inSpm c (a.rdS f.sa).toNat 32 → enters (exec (.tdset c f) s) .tdset ∧ enters (exec (.tdget c f) s) .tdget)) ∧
  (∀ (s : State) (c : Nat) (f : StreamF), issues s c f.g → tkFine f.tk → (s.core c).arch.vxe = none → (s.core c).arch.tme = none →
     let a := (s.core c).arch
     let ta := a.rdT f.ta
     let tb := a.rdT f.tb
     let enters (o : Out) (op : EOp) (fine : EngOp → Prop) : Prop := ∃ x : EngOp, o = next (retire s c fun b => { b with vxe := some x }) ∧
       opAs x op (s.pcOf c) f.tk ta tb ∧ x.n = f.cl.toNat ∧ fine x
     let scans : Prop := 0 < f.cl.toNat ∧ srcInside c ta ∧ dstInside c tb ∧ (descOf ta).size % (8 * f.cl.toNat) = 0 ∧
       2 * ((descOf ta).size / (8 * f.cl.toNat)) ≤ (descOf tb).size
     (scans → f.cl.toNat ≤ 8 → enters (exec (.vsxp c f) s) .vsxp fun x => x.x = a.rdV f.va) ∧
     (f.cl = 0 → exec (.vsxp c f) s = next (s.coreFault c 0x01 true 0 (s.pcOf c) 0)) ∧
     (scans → f.cl.toNat ≤ 16 → f.va = 0 → f.aux.getLsbD 7 = false → f.aux.getLsbD 23 = false →
       f.aux.toNat % 128 + 1 ≤ 8 * f.cl.toNat → f.aux.toNat / 256 % 32768 * 64 + (f.aux.toNat % 128 + 1) * 256 ≤ spmSize c →
       enters (exec (.vstlk c f) s) .vstlk fun x => x.a = f.aux.toNat % 128 + 1 ∧ x.b = f.aux.toNat / 256 % 32768 * 64) ∧
     (f.aux.toNat < 128 → f.aux.toNat / 16 % 4 = 1 → inSpm c (descOf ta).src 1024 → enters (exec (.vsqntLoad c f) s) .slotLoad fun x => x.a = f.aux.toNat % 16) ∧
     (f.aux.toNat < 128 → f.aux.toNat / 16 % 4 = 2 → inSpm c (descOf tb).dst 1024 → enters (exec (.vsqntStore c f) s) .slotStore fun x => x.a = f.aux.toNat % 16) ∧
     (f.aux.toNat < 128 → f.aux.toNat / 16 % 4 = 3 → enters (exec (.vsqntClose c f) s) .slotClose fun x => x.a = f.aux.toNat % 16) ∧
     (f.aux.toNat < 128 → f.aux.toNat / 16 % 4 = 0 → (a.slotCfg (f.aux.toNat % 16)).fmt = 2 → (a.slotCfg (f.aux.toNat % 16)).zpEn = false →
       (a.slotCfg (f.aux.toNat % 16)).epi = false → srcInside c ta → dstInside c tb → (descOf ta).fmt = 0xE → (descOf tb).fmt = 2 →
       enters (exec (.vsqntQuantise c f) s) .quantise fun x => x.a = f.aux.toNat % 16 ∧
         x.scale.toNat = a.slotGet (f.aux.toNat % 16) 8 4))

/-- Matrix instructions enter an MXE that holds at most one operation (02 R51; 03 R104, R109, R111, R112, R119): MCLR and, for INT8 operands and a destination
in the scratchpad, MOP, MSLD, MWS and MRD of an INT32 bank; a format pair that Table 3.1 does not list is a format fault (0x06, R105). Select instructions
enter a free SLE (02 R51; 04 R161, R164, R168, R177, R181, R182, R184). The conventions that the model chose for it are those of logs 39 and 104. -/
def Obligations.MatrixAndSelectIssue : Prop :=
  (∀ (s : State) (c : Nat) (f : MatrixF), issues s c f.g → f.rsv = 0 → tkFine f.tk → (s.core c).arch.mxe = [] → (s.core c).arch.tme = none →
     let a := (s.core c).arch
     let enters (o : Out) (op : EOp) : Prop := ∃ x : EngOp, o = next (retire { s with free := s.free + 1 } c fun b => { b with mxe := [x] }) ∧
       opAs x op (s.pcOf c) f.tk (a.rdT f.ta) (a.rdT f.tb) ∧ x.tc = a.rdT f.tc ∧ x.n = f.len.toNat ∧ x.bank = b2n f.bank ∧ x.acc = f.acc
     let int8 (t : BitVec 256) (k : Nat) : Prop := (descOf t).fmt = 2 ∧ (descOf t).rowLen = 32 ∧ k ≤ (descOf t).rows ∧ srcInside c t
     (enters (exec (.mclr c f) s) .mclr) ∧
     (f.fa = 2 → f.fb = 2 → f.acc = false → f.len ≠ 0 → int8 (a.rdT f.ta) f.len.toNat → int8 (a.rdT f.tb) f.len.toNat →
       enters (exec (.mop c f) s) .mop) ∧
     (f.fa = 2 → f.fb = 2 → int8 (a.rdT f.ta) 32 → enters (exec (.msld c f) s) .msld) ∧
     (f.fa = 2 → f.fb = 2 → f.acc = false → 0 < f.len.toNat → f.len.toNat ≤ 32 → int8 (a.rdT f.tb) f.len.toNat →
       a.pending = true → (mget {} a.sets (b2n (! a.active))).pair = some (2, 2) → enters (exec (.mws c f) s) .mws) ∧
     (f.fa = 0xD → f.acc = false → f.len.toNat = 4 → mget .empty a.accKind (b2n f.bank) = .int32 →
       (descOf (a.rdT f.tc)).fmt = 0xD → (descOf (a.rdT f.tc)).rowLen = 128 → 32 ≤ (descOf (a.rdT f.tc)).rows → dstInside c (a.rdT f.tc) →
       enters (exec (.mrd c f) s) .mrd) ∧
     (f.fa = 2 → f.fb = 4 → exec (.mop c f) s = next (s.coreFault c 0x06 true 0 (s.pcOf c) 0))) ∧
  (∀ (s : State) (c : Nat) (f : SelF), issues s c f.g → f.rsv = 0 → tkFine f.tk → f.vt.toNat < 5 → 0 < f.k.toNat → f.k.toNat ≤ 4096 →
     (s.core c).arch.sleOp = none → (s.core c).arch.tme = none →
     let a := (s.core c).arch
     let ta := a.rdT f.ta
     let tb := a.rdT f.tb
     let l := a.sle
     let enters (o : Out) (op : EOp) : Prop := ∃ x : EngOp, o = next (retire s c fun b => { b with sleOp := some x }) ∧
       opAs x op (s.pcOf c) f.tk ta tb ∧ x.n = f.k.toNat ∧ x.a = f.vt.toNat ∧ x.b = b2n f.dir
     (∀ n, n = (descOf ta).size / vtBytes f.vt.toNat → srcInside c ta → (descOf ta).rowLen % vtBytes f.vt.toNat = 0 →
       (0 < n → n ≤ 4096 → dstInside c tb → recordSize f.k.toNat 0 ≤ (descOf tb).size → enters (exec (.ssort c f) s) .ssort) ∧
       (n ≤ 65536 → l.conf = true → l.k = f.k.toNat → l.dir = f.dir → l.vt = f.vt → l.next.toNat + n ≤ padId →
         (l.explicitIds = true → srcInside c tb ∧ (descOf tb).size = 8 * n) → enters (exec (.stopk c f) s) .stopk)) ∧
     (l.conf = true → dstInside c tb → recordSize l.k l.rsv ≤ (descOf tb).size → enters (exec (.semit c f) s) .semit) ∧
     (l.conf = false → exec (.semit c f) s = next ((s.next c).coreFault c 0x05 false 3 (s.pcOf c) 0)) ∧
     ((descOf ta).fmt ≠ 15 → inSpm c (descOf ta).src 64 → (ctlOf (rdBytes a.spm (descOf ta).src 64)).bad = false →
       (ctlOf (rdBytes a.spm (descOf ta).src 64)).rsv ≤ 64 → (ctlOf (rdBytes a.spm (descOf ta).src 64)).addr % 64 = 0 →
       inSpm c (ctlOf (rdBytes a.spm (descOf ta).src 64)).addr (recordSize f.k.toNat (ctlOf (rdBytes a.spm (descOf ta).src 64)).rsv) →
       enters (exec (.sclr c f) s) .sclr) ∧
     (∀ bs, srcInside c ta → bs = s.rdStream c ((descOf ta).srcRows (descOf ta).rows) → 64 ≤ (descOf ta).size → l.conf = true →
       fld bs 2 2 = l.k → fld bs 6 2 % 16 = b2n l.dir + 2 * l.vt.toNat → recordSize l.k (fld bs 4 1) ≤ (descOf ta).size →
       enters (exec (.smerge c f) s) .smerge) ∧
     (l.conf = true → (s.scmrgFault c { op := .scmrg, pc := s.pcOf c, tk := token f.tk, ta := ta, tb := tb, n := f.k.toNat, a := f.vt.toNat, b := b2n f.dir }) = none →
       ∃ t, exec (.scmrg c f) s = next t ∧ (t.core c).arch.pc = a.pc + 1 ∧ ∃ x, (t.core c).arch.sleOp = some x ∧ x.op = .scmrg ∧
         ((s.roundOf c).full = false → x.arrived = true ∧ c ∈ (t.roundOf c).arrived)))

/-- What an engine does when its operation completes: TDSET and TDGET move one descriptor, TMOV copies its row in the scratchpad, MCLR empties a bank, VSQNT
stores a tensor slot, SCLR leaves an empty list of the given shape; each leaves its engine and adds 1 to its token (02 R52, R714; 03 R109, R141; 04 R164).
On a core without a context every operation of the four engines completes: it leaves its engine, and either adds 1 to its token or ends in a fault of the
core (R101). The conventions that the model chose for it are those of log 6. -/
def Obligations.EngineCompletion : Prop :=
  (∀ (s : State) (c : Nat) (o : EngOp), c < 768 → s.engineRuns c = true → bare s c →
    let ends (out : Out) (left : Arch → Prop) : Prop := ∃ t, out = next t ∧ left (t.core c).arch ∧ ((t.core c).run = .faulted ∨ posts s t c o.tk)
    ((s.core c).arch.tme = some o → ends (exec (.tmeOperationComplete c) s) fun a => a.tme = none) ∧
    ((s.core c).arch.vxe = some o → ends (exec (.vxeStreamComplete c) s) fun a => a.vxe = none) ∧
    ((s.core c).arch.sleOp = some o → o.op ≠ .scmrg → ends (exec (.sleOperationComplete c) s) fun a => a.sleOp = none) ∧
    (∀ r, (s.core c).arch.mxe = o :: r → ends (exec (.mxeOperationComplete c) s) fun a => a.mxe = r ∨ a.mxe = [])) ∧
  ∀ (s : State) (c : Nat) (o : EngOp), c < 768 → s.engineRuns c = true →
    (∀ k, o.tk = some k → (s.core c).arch.rdK k < 65535) →
    ((s.core c).arch.tme = some o → o.op = .tdset → inSpm c o.x.toNat 32 → o.td < 16 →
      ∃ t, exec (.tmeOperationComplete c) s = next t ∧ (t.core c).arch.tme = none ∧ posts s t c o.tk ∧
        (t.core c).arch.rdT (BitVec.ofNat 4 o.td) = BitVec.ofNat 256 (leNat (rdBytes (s.core c).arch.spm o.x.toNat 32)) ∧
        (t.core c).arch.s = (s.core c).arch.s ∧ (t.core c).arch.spm = (s.core c).arch.spm) ∧
    ((s.core c).arch.tme = some o → o.op = .tmov → (descOf o.ta).rows = 1 → inSpm c ((descOf o.ta).srcRow 0) (descOf o.ta).rowLen →
      inSpm c ((descOf o.ta).dstRow 0) (descOf o.ta).rowLen →
      ((descOf o.ta).srcRow 0 = (descOf o.ta).dstRow 0 ∨ (descOf o.ta).srcRow 0 + (descOf o.ta).rowLen ≤ (descOf o.ta).dstRow 0 ∨
        (descOf o.ta).dstRow 0 + (descOf o.ta).rowLen ≤ (descOf o.ta).srcRow 0) →
      ∃ t, exec (.tmeOperationComplete c) s = next t ∧ (t.core c).arch.tme = none ∧ posts s t c o.tk ∧
        ∀ b, rdByte (t.core c).arch.spm b =
          if (descOf o.ta).dstRow 0 ≤ b ∧ b < (descOf o.ta).dstRow 0 + (descOf o.ta).rowLen then
            rdByte (s.core c).arch.spm ((descOf o.ta).srcRow 0 + (b - (descOf o.ta).dstRow 0))
          else rdByte (s.core c).arch.spm b) ∧
    ((s.core c).arch.mxe = [o] → o.op = .mclr →
      ∃ t, exec (.mxeOperationComplete c) s = next t ∧ (t.core c).arch.mxe = [] ∧ posts s t c o.tk ∧
        mget .empty (t.core c).arch.accKind o.bank = .empty ∧ ∀ i j, i < 32 → j < 32 →
          (t.core c).arch.cell o.bank i j = 0 ∧ ∀ b, b ≠ o.bank → (t.core c).arch.cell b i j = (s.core c).arch.cell b i j) ∧
    ((s.core c).arch.vxe = some o → o.op = .slotStore → inSpm c (descOf o.tb).dst 1024 →
      ∃ t, exec (.vxeStreamComplete c) s = next t ∧ (t.core c).arch.vxe = none ∧ posts s t c o.tk ∧
        ∀ b, rdByte (t.core c).arch.spm b =
          if (descOf o.tb).dst ≤ b ∧ b < (descOf o.tb).dst + 1024 then rdByte (s.core c).arch.slots (o.a * 1024 + (b - (descOf o.tb).dst))
          else rdByte (s.core c).arch.spm b) ∧
    ((s.core c).arch.sleOp = some o → o.op = .sclr →
      ∃ t, exec (.sleOperationComplete c) s = next t ∧ (t.core c).arch.sleOp = none ∧ posts s t c o.tk ∧
        (t.core c).arch.sle.conf = true ∧ (t.core c).arch.sle.k = o.n ∧ (t.core c).arch.sle.kept = [] ∧ (t.core c).arch.sle.offered = 0)

/-- An outer-product pass of INT8 operands (03 R104, R129): when it completes, each cell of the bank holds the sum over k of A[i][k] × B[k][j] modulo 2³², added
to what the cell held where ACC is 1 and the bank was not empty; the other bank is unchanged and the bank holds integers. The conventions that the model
chose for it are those of logs 6 and 38. -/
def Obligations.OuterProduct : Prop :=
  ∀ (s : State) (c : Nat) (o : EngOp), c < 768 → s.engineRuns c = true → (s.core c).arch.mxe = [o] → o.op = .mop → o.a = 2 → o.b = 2 → o.tk = none →
    (∀ i, i < o.n → inSpm c ((descOf o.ta).srcRow i) 32 ∧ inSpm c ((descOf o.tb).srcRow i) 32) → o.bank < 2 →
    let spm := (s.core c).arch.spm
    let at8 (d : Desc) (k i : Nat) : Int := (rdByte spm (d.srcRow k + i)).toInt
    let start (i j : Nat) : Int := if o.acc = true ∧ mget .empty (s.core c).arch.accKind o.bank ≠ .empty then (s.core c).arch.cell o.bank i j else 0
    ∃ t, exec (.mxeOperationComplete c) s = next t ∧ (t.core c).arch.mxe = [] ∧ mget .empty (t.core c).arch.accKind o.bank = .int32 ∧
      (t.core c).arch.spm = spm ∧ ∀ i j, i < 32 → j < 32 →
        ((t.core c).arch.cell o.bank i j : Int) =
          (start i j + ((List.range o.n).map fun k => at8 (descOf o.ta) k i * at8 (descOf o.tb) k j).sum) % 2 ^ 32 ∧
        (t.core c).arch.cell (1 - o.bank) i j = (s.core c).arch.cell (1 - o.bank) i j

/-! ### Cores: tokens, barriers, system instructions -/

/-- WAIT stalls until its token counts N and then subtracts N in one act; POST adds N to a token, and an overflow leaves the count and faults the core (0x04);
FENCE only retires (02 R53, R54, R78). POSTC adds N to a token of a core of the same context in the same cluster, and faults the core that issues it where
the target is no core of its context (02 R54, R82). The conventions that the model chose for it are those of log 101. -/
def Obligations.TokensAndPosts : Prop :=
  ((∀ (s : State) (c : Nat) (f : SyncF), issuesAt s c f.g (.wait c f) → f.rsv = 0 →
     let k := f.tk.toNat
     let n := f.n.toNat
     (k < 32 → 0 < n → (s.core c).bound = false →
       (n ≤ (s.core c).arch.rdK k → exec (.wait c f) s = next (retire s c fun a => { a with k := mset 0 a.k k (BitVec.ofNat 16 (a.rdK k - n)) })) ∧
       ((s.core c).arch.rdK k < n → ∃ t, exec (.wait c f) s = next t ∧
         (t.core c).arch = { (s.core c).arch with stall := some ⟨.wait c f, .wait k n⟩ } ∧ onlyCores s { t with free := s.free }))) ∧
   ∀ (s : State) (c : Nat) (f : SyncF), issues s c f.g → f.rsv = 0 →
     let k := f.tk.toNat
     let n := f.n.toNat
     (k < 32 → 0 < n → (s.core c).bound = false →
       ((s.core c).arch.rdK k + n ≤ 65535 →
         exec (.post c f) s = next (retire s c fun a => { a with k := mset 0 a.k k (BitVec.ofNat 16 (a.rdK k + n)) })) ∧
       (65535 < (s.core c).arch.rdK k + n → exec (.post c f) s = next ((s.next c).coreFault c 0x04 false 0 (s.pcOf c) 0))) ∧
     (k = 0 → n = 0 → exec (.fence c f) s = next (retire s c id))) ∧
  (∀ (s : State) (c x : Nat) (f : SyncF) (cx : Ctx), issues s c f.g → f.rsv = 0 → f.tk.toNat < 32 → 0 < f.n.toNat →
     s.ctxOn c = some x → s.ctx? x = some cx →
     let d := clusterOf c * 8 + f.ci.toNat
     (cx.cores.contains d = false → d ≠ c → exec (.postc c f) s = next (s.coreFault c 0x02 true 0 (s.pcOf c) 0)) ∧
     (cx.cores.contains d = true → cx.images = [] → cx.started = true → s.ctxOn d = some x → d ≠ c →
       (s.core d).arch.rdK f.tk.toNat + f.n.toNat ≤ 65535 →
       ∃ t, exec (.postc c f) s = next t ∧ (t.core d).arch.rdK f.tk.toNat = (s.core d).arch.rdK f.tk.toNat + f.n.toNat ∧
         (t.core c).arch.pc = (s.core c).arch.pc + 1 ∧ (t.core d).arch.s = (s.core d).arch.s ∧ (t.core d).arch.pc = (s.core d).arch.pc))

/-- BAR: a core that the barrier's mask does not hold, or whose context does not own the barrier, takes a barrier fault (0x07); a participant that is not the
last to arrive stalls with its arrival noted; when a core arrives alone in the mask it passes at once and the arrivals are clear (02 R89, R90). A full round
of a merge slot writes its record, frees the slot and ends the operation of every participant (04 R185). -/
def Obligations.BarriersAndMergeRounds : Prop :=
  ((∀ (s : State) (c : Nat) (f : SyncF), issuesAt s c f.g (.bar c f) → f.rsv = 0 → f.tk = 0 → f.n = 0 →
     let w := mget 0 (s.clu (clusterOf c)).barMask f.b.toNat
     (∀ x, s.ctxOn c = some x → barOwnedBy w x = false) ∨ w.getLsbD (c % 8) = false →
       exec (.bar c f) s = next (s.coreFault c 0x07 true 0 (s.pcOf c) 0)) ∧
   ∀ (s : State) (c x : Nat) (f : SyncF) (cx : Ctx), issuesAt s c f.g (.bar c f) → f.rsv = 0 → f.tk = 0 → f.n = 0 → s.ctxOn c = some x → s.ctx? x = some cx → cx.images = [] →
     let k := clusterOf c
     let b := f.b.toNat
     let w := mget 0 (s.clu k).barMask b
     let arr := mget 0 (s.clu k).arrivals b
     (barOwnedBy w x = false ∨ w.getLsbD (c % 8) = false → exec (.bar c f) s = next (s.coreFault c 0x07 true 0 (s.pcOf c) 0)) ∧
     (barOwnedBy w x = true → w.getLsbD (c % 8) = true → (∃ j, j < 8 ∧ j ≠ c % 8 ∧ w.getLsbD j = true ∧ arr.getLsbD j = false) →
       ∃ t, exec (.bar c f) s = next t ∧ (t.core c).arch.stall = some ⟨.bar c f, .bar b⟩ ∧ (t.core c).arch.pc = (s.core c).arch.pc ∧
         mget 0 (t.clu k).arrivals b = arr ||| BitVec.ofNat 8 (2 ^ (c % 8))) ∧
     (barOwnedBy w x = true → (w.setWidth 8 : BitVec 8) = BitVec.ofNat 8 (2 ^ (c % 8)) →
       ∃ t, exec (.bar c f) s = next t ∧ (t.core c).arch.stall = none ∧ (t.core c).arch.pc = (s.core c).arch.pc + 1 ∧
         mget 0 (t.clu k).arrivals b = 0)) ∧
  (∀ (s : State) (k slot : Nat), k < 96 → slot < 4 →
     let r := mget {} (s.clu k).rounds slot
     (r.full = true → (∀ c ∈ r.arrived, s.engineRuns c = true ∧ ∃ o, (s.core c).arch.sleOp = some o ∧ o.tk = none) → r.waiting = [] →
       ∃ t, exec (.mergeRoundComplete k slot) s = next t ∧ (mget {} (t.clu k).rounds slot).arrived = [] ∧
         ∀ c ∈ r.arrived, (t.core c).arch.sleOp = none ∧ (t.core c).arch.s = (s.core c).arch.s) ∧
     (r.full = false → exec (.mergeRoundComplete k slot) s = next s))

/-- System instructions: HALT ends the program with its status, EVT writes a program event (or, in a model's context, leaves a route mark), TRAP takes a trap
fault with its code, and RDSTEP, RDCORE and RDCTX read the core's registers (02 Table 2.10, R100; 09 R369; 10 R403; 16 R656). RDSTEP's value is the step
count, to which the steps of stalls since the last reading are added first; the spec gives them no number (log 7): any number. -/
def Obligations.SystemInstructions : Prop :=
  ∀ (s : State) (c : Nat) (f : SysF), issues s c f.g → f.rsv = 0 →
    let v := (s.core c).arch.rdS f.sa
    ((s.core c).arch.engineBusy = false → (s.core c).bound = false → ∃ t, exec (.halt c f) s = next t ∧ (t.core c).halted = true ∧
      (t.core c).run = .idle ∧ (t.core c).haltStatus = v ∧ t.canIssue c = false ∧ onlyCores s t ∧ ∀ d, d ≠ c → t.core d = s.core d) ∧
    ((s.core c).arch.engineBusy = true → ∃ t, exec (.halt c f) s = next t ∧
      (t.core c).arch = { (s.core c).arch with stall := some ⟨.halt c f, .busy⟩ } ∧ onlyCores s { t with free := s.free, sched := s.sched }) ∧
    (s.onModel c = false → exec (.evt c f) s = next ((s.next c).progEvent c f.code.toNat v)) ∧
    (s.onModel c = true → 0xFE01 ≤ f.code.toNat → f.code.toNat ≤ 0xFE04 → ∃ t, exec (.evt c f) s = next t ∧
      t.sched.marks = s.sched.marks ++ [(c, f.code.toNat, v.toNat % 2 ^ 24)] ∧ t.fbk = s.fbk ∧ t.core c = (s.next c).core c) ∧
    exec (.trap c f) s = next ((s.modCore c fun k => { k with trap := f.code }).coreFault c 0x09 true 0 (s.pcOf c) 0) ∧
    (s.onModel c = true → 0xFE00 ≤ f.code.toNat → f.code.toNat ≤ 0xFEFF → ¬ (0xFE01 ≤ f.code.toNat ∧ f.code.toNat ≤ 0xFE04) →
      exec (.evt c f) s = next (retire s c id)) ∧
    (s.onModel c = true → f.code.toNat < 0xFE00 ∨ 0xFEFF < f.code.toNat → exec (.evt c f) s = next ((s.next c).progEvent c f.code.toNat v)) ∧
    (∃ n k : Nat, (s.core c).steps.toNat + n < 2 ^ 64 ∧
      let u : State := { s.modCore c fun y => { y with steps := y.steps + BitVec.ofNat 64 n } with free := k }
      exec (.rdstep c f) s = next (retire u c fun a => a.wrS f.sa (u.core c).steps)) ∧
    exec (.rdcore c f) s = next (retire s c fun a => a.wrS f.sa (BitVec.ofNat 64 c)) ∧
    exec (.rdctx c f) s = next (retire s c fun a => a.wrS f.sa ((s.core c).ctx.setWidth 64))

namespace Sys2Proof.Claims

/-- Command `r` has ended: it waits for its completion entry with this status and RESULT. -/
def ended (t : State) (r : CmdRef) (status : Nat) (result : Bytes) : Prop :=
  ∃ d, t.cmd? r = some d ∧ d.phase = .done ∧ d.status = status ∧ d.result = result ∧ d.body = none

/-- Command `r` has done its work: its answer with this body waits to be published. -/
def answered (t : State) (r : CmdRef) (body : Bytes) : Prop :=
  ∃ d, t.cmd? r = some d ∧ d.phase = .worked ∧ d.status = 0 ∧ d.body = some body

/-- Command `r` starts: it is admitted, its opcode is `op`, and the module serves it (11 R447, R458). -/
def starts (s : State) (r : CmdRef) (op : Nat) (c : Cmd) : Prop :=
  r.part < 16 ∧ r.qp < 64 ∧ r.tag < 65536 ∧ c.ref = r ∧ s.startable r op = some c

/-- The state as a command's work begins. -/
def running (s : State) (r : CmdRef) : State := s.modCmd r fun d => { d with phase := .running }

end Sys2Proof.Claims

/-! ### Cores and clusters under the scheduler -/

/-- CORE_CTL.HOLD stops and resumes issue and keeps the core's image; SCRUB returns a core that no context holds to the zero state and clears its fault; a write
of a barrier mask stores the defined bits and discards the arrivals (02 R61, R91, R103). Pre-emption: PREEMPT stops every core of the resident context that
has not halted and puts the context in saving; a stopping core's image is kept and the core left zero; RESTORE brings a saved core to restoring, and the
restore ends with what the save area holds back on the core, or, where a line of it is uncorrectable, with the job started again (02 R93, R97, R98; 10 R409,
R415). The conventions that the model chose for it are those of logs 11 and 62. -/
def Obligations.CoreControlAndContexts : Prop :=
  (∀ (s : State) (c : Nat), c < 768 → s.alive 6 = true →
     ((s.core c).run = .running → ∃ t, exec (.hold c true) s = next t ∧ (t.core c).hold = true ∧ (t.core c).run = .held ∧ t.canIssue c = false ∧
       (t.core c).arch = (s.core c).arch ∧ onlyCores s t ∧ ∀ d, d ≠ c → t.core d = s.core d) ∧
     ((s.core c).run = .held → ∃ t, exec (.hold c false) s = next t ∧ (t.core c).hold = false ∧ (t.core c).run = .running ∧
       (t.core c).arch = (s.core c).arch ∧ onlyCores s t ∧ ∀ d, d ≠ c → t.core d = s.core d) ∧
     ((s.core c).bound = false → ∃ t, exec (.scrub c) s = next t ∧ (t.core c).arch = {} ∧ (t.core c).fault = none ∧ (t.core c).bankWait = 0 ∧
       (t.core c).run = .idle ∧ (t.core c).steps = (s.core c).steps ∧ onlyCores s t ∧ ∀ d, d ≠ c → t.core d = s.core d) ∧
     (∀ (k b : Nat) (v : BitVec 32), k < 96 → b < 16 → ∃ t, exec (.cluBarMaskWrite k b v) s = next t ∧
       mget 0 (t.clu k).barMask b = v &&& 0x8003FFFF ∧ mget 0 (t.clu k).arrivals b = 0 ∧ (t.clu k).spm = (s.clu k).spm ∧
       (∀ j, j ≠ b → mget 0 (t.clu k).barMask j = mget 0 (s.clu k).barMask j ∧ mget 0 (t.clu k).arrivals j = mget 0 (s.clu k).arrivals j) ∧
       (∀ m, m ≠ k → t.clu m = s.clu m) ∧ { t with clus := s.clus } = s)) ∧
  (∀ (s : State) (c x : Nat) (cx : Ctx), c < 768 → s.coresLive = true → s.ctxOn c = some x → s.ctx? x = some cx → cx.cores.contains c = true →
     ((s.core c).halted = false → cx.place = .resident → cx.todo = [] → cx.halted = [] → ∃ t, exec (.preempt c) s = next t ∧
       (∀ d ∈ cx.cores, (t.core d).run = .stopping ∧ (t.core d).preempt = true ∧ (t.core d).arch = (s.core d).arch) ∧
       (∃ cy, t.ctx? x = some cy ∧ cy.place = .saving ∧ cy.todo = cx.cores) ∧ t.sched.preemptCnt = satBv s.sched.preemptCnt 1) ∧
     ((s.core c).run = .stopping → (s.core c).halted = false → cx.heldFault = none → ∃ t, exec (.contextSaved c) s = next t ∧ (t.core c).run = .saved ∧
       (t.core c).arch = {} ∧ ∃ cy, t.ctx? x = some cy ∧ lget cy.images c = some (s.core c).arch) ∧
     (∀ img, lget cx.images c = some img → (s.core c).run = .saved → ∃ t, exec (.restore c) s = next t ∧ (t.core c).run = .restoring ∧
       t.ctx? x = some cx) ∧
     (∀ img, lget cx.images c = some img → (s.core c).run = .restoring → (s.core c).hold = false →
       (∀ u a, s.loadImage c img = (u, some a) → ∃ t, exec (.restoreDone c) s = next t ∧ (t.core c).arch = a ∧ (t.core c).run = .running ∧
         (t.core c).restore = false) ∧
       (∀ u, s.loadImage c img = (u, none) → exec (.restoreDone c) s = next (u.ctxLost x))))

/-- CX_RUN makes a waiting job context of the partition with the cores of its descriptor; CX_POST to a context that is not on its cores yet notes the post and
succeeds, and fails with status no such context (0x22) where there is none (10 R393, R397, R402). A waiting context whose cores are free and that goes first
becomes resident: its cores run its program from PC 0 with zero registers and its parameters at the start of the scratchpad (02 R61; 10 R400, R406). The
conventions that the model chose for it are those of log 10. -/
def Obligations.JobContexts : Prop :=
  ((∀ (s : State) (r : CmdRef) (c : Cmd), starts s r 0x70 c → (running s r).cxRunCheck c = none →
     (∀ u x, (running s r).newCtx (cxOf c s.sys.now) = some (u, x) → u.bankGrantsOk x (cxOf c s.sys.now) = true →
       ∃ t cx, exec (.cxRun r) s = next t ∧ s.ctx? x = none ∧ t.ctx? x = some cx ∧ cx.place = .waiting ∧ cx.part = r.part ∧
         cx.cores = (cxDesc c.data).cores ∧ cx.cmd = some r) ∧
     ((running s r).newCtx (cxOf c s.sys.now) = none → ∃ t, exec (.cxRun r) s = next t ∧ ended t r 6 [])) ∧
   (∀ (s : State) (r : CmdRef) (c : Cmd), starts s r 0x71 c →
     (s.jobTagged r.part c.obj = none → ∃ t, exec (.cxPost r) s = next t ∧ ended t r 0x22 [] ∧ t.sched = s.sched) ∧
     (∀ x cx, s.jobTagged r.part c.obj = some (x, cx) → s.ctx? x = some cx → cx.cores.contains (c.p1 % 1024) = true → cx.started = false → cx.images = [] →
       ∃ t, exec (.cxPost r) s = next t ∧ ended t r 0 [] ∧ ∃ cy, t.ctx? x = some cy ∧
         cy.posts = cx.posts ++ [{ core := c.p1 % 1024, tok := c.p1 / 65536 % 32, n := c.p2 }]))) ∧
  (∀ (s : State) (x : Nat) (cx : Ctx) (since : Nat), x < 1024 → s.coresLive = true → s.ctx? x = some cx → cx.waits = some since →
     cx.cores.all (s.coreFree x) = true → s.goesFirst x cx since = true → cx.heldFault = none → cx.started = false → cx.posts = [] →
     ∃ t, exec (.contextPlace x) s = next t ∧ (∃ cy, t.ctx? x = some cy ∧ cy.place = .resident ∧ cy.started = true) ∧
       ∀ c ∈ cx.cores, (t.core c).run = .running ∧ (t.core c).bound = true ∧ (t.core c).ctx.toNat = x ∧ (t.core c).arch.pc = 0 ∧ (t.core c).arch.imem = cx.prog ∧
         (∀ r, (t.core c).arch.rdS r = 0) ∧ (∀ k, (t.core c).arch.rdK k = 0) ∧
         ∀ a, rdByte (t.core c).arch.spm a = cx.params.getD a 0)

/-- The scheduler's own acts: with every resident context of a partition blocked long enough, one that holds cores of the longest waiting context and has been
blocked no shorter than any other such is saved (R407); a job whose part failed starts again from nothing (R415); a completion that waited more than 1 s
sets the partition's STALL bit (R425); a host core runs another number it holds (13 R571); ST_CLUSTER drains its cluster and answers when nothing is on it
(R418); UNIT_RERUN takes a core of the command out of service as a failed core, and its work runs again (11 R468; 13 R570). The conventions that the model
chose for it are those of log 98. -/
def Obligations.SchedulerActs : Prop :=
  (∀ (s : State) (p : Nat) (w : Nat × Nat × Ctx) (e : Nat × Ctx), p < 16 → s.coresLive = true →
    (∀ q ∈ s.residents p, ∃ b, q.2.blockedSince = some b ∧ b + s.sched.block.toNat ≤ s.sys.now) →
    oldest ((s.sched.ctxs.filter fun q => q.2.part == p).filterMap fun q => q.2.waits.map fun t => (q.1, t, q.2)) = some w →
    e ∈ s.residents p → s.clash e.2.cores w.2.2.cores = true → e.2.todo = [] →
    ∃ q ∈ s.residents p, s.clash q.2.cores w.2.2.cores = true ∧ exec (.blockedSave p) s = next (s.preemptCtx q.1 q.2) ∧
      ∀ b d, e.2.blockedSince = some b → q.2.blockedSince = some d → d ≤ b) ∧
  (∀ (s : State) (x : Nat) (cx : Ctx) (e : Nat × Ctx) (since : Nat), x < 1024 → s.coresLive = true → s.ctx? x = some cx → cx.waits = some since →
    since + s.sliceTime < s.sys.now → (s.residents cx.part).filter (fun q => s.clash q.2.cores cx.cores && q.2.todo == [] &&
      decide (q.2.residentSince + s.sliceTime ≤ s.sys.now)) = [e] →
    exec (.slicePreempt x) s = next ((s.preemptCtx e.1 e.2).modCtx x fun y => { y with sliced := true })) ∧
  (∀ (s : State) (x cause : Nat) (cx : Ctx), x < 1024 → s.coresLive = true → s.ctx? x = some cx → cx.kind = .job →
    ∃ t, exec (.jobRestart x cause) s = next t ∧ t.sched.rerunCnt = satBv s.sched.rerunCnt 1 ∧
      ∃ cy, t.ctx? x = some cy ∧ cy.place = .waiting ∧ cy.started = false ∧ cy.images = [] ∧ cy.reruns = cx.reruns + 1) ∧
  (∀ (s : State) (p : Nat), p < 16 → s.alive 6 = true → s.stalled p = true → s.sched.stall.getLsbD p = false →
    ∃ t, exec (.stallDetect p) s = next t ∧ t.sched.stall.getLsbD p = true) ∧
  (∀ (s : State) (c n : Nat), c < 768 → s.coresLive = true → (s.sameHost c).filter (fun m => (s.core m).bound) = [n] →
    ∃ t, exec (.hostedNumberSwitch c) s = next t ∧ lget t.ecc.hosting (s.hostOf c) = some n ∧ t.cores = s.cores) ∧
  (∀ (s : State) (r : CmdRef) (c : Cmd), starts s r 0x72 c → (s.cmd? r = some c) → (running s r).onCluster c.obj = [] →
    ∃ t, exec (.stCluster r) s = next t ∧ t.sched.drained.contains c.obj = true ∧ t.cores = s.cores) ∧
  (∀ (s : State) (r : CmdRef) (c : Cmd), r.part < 16 → r.qp < 64 → r.tag < 65536 → s.cmd? r = some c → c.opcode = 0x72 → c.phase = .running →
    s.serves 0x72 = true → s.onCluster c.obj = [] → s.frz.evtEn = false →
    ∃ t b, exec (.stCluster r) s = next t ∧ answered t r b ∧ t.sched.drained.contains c.obj = false) ∧
  (∀ (s : State) (r : CmdRef) (c : Cmd) (x : Nat) (cx : Ctx), r.part < 16 → r.qp < 64 → r.tag < 65536 → s.cmd? r = some c → c.ref = r → c.phase = .running →
    c.opcode = 0x70 → s.serves 0x70 = true → s.jobOf r = some (x, cx) → cx.place = .resident → cx.cores ≠ [] →
    ∃ n ∈ cx.cores, exec (.unitRerun r) s = next ({ s with free := s.free + 1 }.coreFailed n)) ∧
  (∀ (s : State) (r : CmdRef) (c : Cmd), r.part < 16 → r.qp < 64 → r.tag < 65536 → s.cmd? r = some c → c.phase = .running → s.serves c.opcode = true →
    (s.unitsOf c = [] → exec (.unitRerun r) s = next s) ∧
    (s.unitsOf c ≠ [] → ∃ n ∈ s.unitsOf c, exec (.unitRerun r) s = next ({ s with free := s.free + 1 }.coreFailed n)))

namespace Sys2Proof.Claims

/-- Nothing else of the state is changed but the host link. -/
def onlyHost (s t : State) : Prop := { t with host := s.host } = s

/-- Nothing else of the state is changed but the outstanding command `r`. -/
def onlyCmd (s t : State) (r : CmdRef) : Prop :=
  { t with host := { t.host with cmds := s.host.cmds } } = s ∧ ∀ q, q ≠ r → t.cmd? q = s.cmd? q

/-- The next slot of a ring that the module reads: its line is clean, and no inline data follows it (11 R443, R444). -/
def packet (s : State) (p q : Nat) (k : Qp) (b : Bytes) : Prop :=
  p < 16 ∧ q < 64 ∧ s.qp? p q = some k ∧ s.reads p q k = true ∧ 0 < k.waiting ∧ s.readSlot p k k.sqHead = (s, b, false) ∧ inlineSlots (fld b 8 4) = 0

/-- The command that a packet makes outstanding. -/
def cmdIn (p q : Nat) (k : Qp) (b : Bytes) : Cmd := cmdOf p q k.desc.ver k.seq ((k.sqHead + 1) % k.desc.sqSize) b

/-- Where the next completion entry of a ring goes in host memory, as the model keys it. -/
def entryAt (p : Nat) (k : Qp) : Nat := p * 2 ^ 64 + (k.desc.cqAddr + 64 * k.cqWr) % 2 ^ 64

/-- The ring after an entry: the write index moves on, and the phase flips where it wraps (11 R453). -/
def entryTaken (k k' : Qp) : Prop :=
  k'.cqUsed = k.cqUsed + 1 ∧ k'.desc = k.desc ∧
  (k.cqWr + 1 ≠ k.desc.cqSize → k'.cqWr = k.cqWr + 1 ∧ k'.phase = k.phase) ∧ (k.cqWr + 1 = k.desc.cqSize → k'.cqWr = 0 ∧ k'.phase = ! k.phase)

/-- Command `r` stands outstanding as `c`, on queue pair `k`. -/
def outstanding (s : State) (r : CmdRef) (c : Cmd) (k : Qp) : Prop :=
  r.part < 16 ∧ r.qp < 64 ∧ r.tag < 65536 ∧ s.cmd? r = some c ∧ s.qp? r.part r.qp = some k

end Sys2Proof.Claims

/-! ### The host link -/

/-- COMMAND_PACKET: the packet makes a command outstanding; one that passes its check waits for its staging slot where DLEN is above 192 and for its admission
otherwise, one that fails it is done with the status of the check; the head moves on by one slot; the packet of an unknown opcode fails with status 1 and
one with a reserved bit set with status 2 (11 R445, R447, R717). A packet that repeats a tag leaves the outstanding command as it is, and its completion has
status 3 (R446). The conventions that the model chose for it are those of log 63. -/
def Obligations.PacketsAreChecked : Prop :=
  ∀ (s : State) (p q : Nat) (k : Qp) (b : Bytes), packet s p q k b → (cmdIn p q k b).opcode ≠ 0x0F →
    let c := cmdIn p q k b
    (s.cmd? c.ref = none → ∃ t, exec (.commandPacket p q) s = next t ∧
      t.cmd? c.ref = some (if packetStatus q c b ≠ 0 then { c with phase := .done, status := packetStatus q c b, since := s.sys.now }
        else if 192 < c.dlen then { c with phase := .wantSlot } else c) ∧
      t.qp? p q = some { k with sqHead := (k.sqHead + 1) % k.desc.sqSize, seq := k.seq + 1 } ∧ (∀ r, r ≠ c.ref → t.cmd? r = s.cmd? r) ∧ onlyHost s t) ∧
    (knownOp c.ver c.opcode = false → packetStatus q c b = 1) ∧
    (knownOp c.ver c.opcode = true → qp0Op c.opcode = false → fld b 4 4 % 64 = q → fld b 0 4 / 2 ^ 8 % 2 ^ 8 ≠ 0 → packetStatus q c b = 2) ∧
    (∀ d, s.cmd? c.ref = some d → k.dups = [] → k.lost = [] → 0 < k.room → ∃ t, exec (.commandPacket p q) s = next t ∧ t.cmd? c.ref = some d ∧
      lget t.host.hostMem (entryAt p k) = some (entryBytes c.ref.tag q 0 3 ((k.sqHead + 1) % k.desc.sqSize) 0 0 0 [] k.phase))

/-- TRANSFER_READY gives a waiting command a staging slot and a token, and writes the entry that names them; a DATA_DONE packet that a doorbell write has
covered, with the tag and that token, lets it go on to its admission, with another token it is ignored and counted, and without such a packet nothing is
read; ADMISSION of a command without an answer admits it under the next number, and that of a command with one reserves the blocks of its largest answer or
waits (11 R443, R456 to R458, R462). The conventions that the model chose for it are those of logs 30 and 64. -/
def Obligations.TransfersAndAdmission : Prop :=
  ∀ (s : State) (r : CmdRef) (c : Cmd) (k : Qp), outstanding s r c k → s.alive 6 = true → s.asleep = false →
    (∀ g, c.phase = .wantSlot → 0 < k.room → fitFrom (s.stagingUsed r.part r.qp) k.desc.stgGran (cdiv c.dlen 65536) = some g →
      ∃ t d x, exec (.transferReady r) s = next t ∧ t.cmd? r = some d ∧ d.phase = .wantData ∧ d.slot = some (g, cdiv c.dlen 65536) ∧ d.token = some (BitVec.ofNat 16 x) ∧
        lget t.host.hostMem (entryAt r.part k) = some (entryBytes r.tag r.qp 1 0 c.sqHead (k.desc.stgOff + g * 65536) (cdiv c.dlen 65536 * 65536)
          (x % 65536) [] k.phase) ∧ t.free = s.free + 1 ∧ { t with host := s.host, free := s.free } = s) ∧
    (∀ (b : Bytes) (tok : BitVec 16), packet s r.part r.qp k b → fld b 0 4 = 0x0F + r.tag * 2 ^ 16 → fld b 4 4 = r.qp → fld b 8 8 = 0 → fld b 0x10 4 = tok.toNat →
      c.phase = .wantData → ∃ t, exec (.dataDone r tok) s = next t ∧ exec (.commandPacket r.part r.qp) s = next t ∧
        t.qp? r.part r.qp = some { k with sqHead := (k.sqHead + 1) % k.desc.sqSize, seq := k.seq + 1 } ∧ (∀ q, q ≠ r → t.cmd? q = s.cmd? q) ∧
        (c.token = some tok → t.cmd? r = some { c with phase := .wantBlocks, token := none } ∧ onlyHost s t) ∧
        (c.token ≠ some tok → t.cmd? r = some c ∧ (t.page (0x10000 + r.part)).errCnt = satBv (s.page (0x10000 + r.part)).errCnt 1)) ∧
    (∀ tok : BitVec 16, k.sqHead = k.sqTail → exec (.dataDone r tok) s = next s) ∧
    (c.phase = .wantBlocks → c.slot = none → c.adm = 0 → s.admitCheck c = none → c.opcode < 0x30 → c.opcode ≠ 0x0B →
      (s.bodyMax c = none → ∃ t d, exec (.admission r) s = next t ∧ t.cmd? r = some d ∧ d.phase = .admitted ∧ d.adm = s.host.admissions + 1 ∧
        t.host.admissions = s.host.admissions + 1 ∧ d.data = c.data ∧ d.res = none) ∧
      (∀ m a, s.bodyMax c = some m → fitFrom (s.answerUsed r.part r.qp k) k.desc.ansBlocks (cdiv (m + 64) 4096) = some a → cdiv (m + 64) 4096 ≤ k.desc.ansBlocks →
        ∃ t d, exec (.admission r) s = next t ∧ t.cmd? r = some d ∧ d.phase = .admitted ∧ d.adm = s.host.admissions + 1 ∧ d.res = some (a, cdiv (m + 64) 4096)) ∧
      (∀ m, s.bodyMax c = some m → k.desc.ansBlocks < cdiv (m + 64) 4096 → ∃ t, exec (.admission r) s = next t ∧
        ∃ d, t.cmd? r = some d ∧ d.phase = .done ∧ d.status = 2 ∧ d.res = none))

/-- ANSWER_PUBLISH stores the header and the body in the reserved blocks, with their CRC in front, and frees the blocks beyond; COMPLETION_ENTRY_WRITE writes
the entry with the ring's phase, and the command is outstanding no longer (11 R447, R453, R463, R464; Table 11.11). The conventions that the model chose for
it are those of log 65. -/
def Obligations.AnswersAndCompletions : Prop :=
  ∀ (s : State) (r : CmdRef) (c : Cmd) (k : Qp), outstanding s r c k → s.alive 6 = true → c.silent = false → s.sec.clears = [] → (∀ l, s.copiesClean l = true) →
    (∀ b a n, c.phase = .worked → c.body = some b → c.res = some (a, n) →
      let rcd := answerRecord c (mget 0 s.host.ansSeq r.part + 1) b
      let off := k.desc.ansOff + a * 4096
      rcd.length = 64 + b.length ∧ fld rcd 0 4 = crc32c (rcd.drop 4) ∧ rcd.drop 64 = b ∧
      ∃ t, exec (.answerPublish r) s = next t ∧ mget 0 t.host.ansSeq r.part = mget 0 s.host.ansSeq r.part + 1 ∧
        t.cmd? r = some { c with phase := .done, res := some (a, min n (cdiv (64 + b.length) 4096)), ansRec := some (off, 64 + b.length, fld rcd 0 4), since := s.sys.now } ∧
        (∀ i, i < 64 + b.length → rdByte t.host.share (shareKey r.part off + i) = rcd.getD i 0) ∧
        (∀ i, i < shareKey r.part off ∨ shareKey r.part off + 64 + b.length ≤ i → rdByte t.host.share i = rdByte s.host.share i) ∧
        t.host.qps = s.host.qps ∧ ∀ q, q ≠ r → t.cmd? q = s.cmd? q) ∧
    (c.phase = .done → 0 < k.room → c.opcode ≠ 0x54 →
      let (off, len, crc) := c.ansRec.getD (0, 0, 0)
      ∃ t k', exec (.completionEntryWrite r) s = next t ∧ t.cmd? r = none ∧ (∀ q, q ≠ r → t.cmd? q = s.cmd? q) ∧
        lget t.host.hostMem (entryAt r.part k) = some (entryBytes r.tag r.qp 0 c.status c.sqHead off len crc c.result k.phase) ∧
        (∀ j, j ≠ entryAt r.part k → lget t.host.hostMem j = lget s.host.hostMem j) ∧ t.qp? r.part r.qp = some k' ∧ entryTaken k k' ∧
        (k'.published = k.published ∨ ∃ x, c.res = some x ∧ k'.published = k.published ++ [x]) ∧ t.host.share = s.host.share ∧ t.dram = s.dram ∧ t.cores = s.cores) ∧
    (c.phase = .done → k.room = 0 → exec (.completionEntryWrite r) s = next s)

/-- A doorbell store acts on a queue pair that is set up: SQ_TAIL and CQ_HEAD take values below the ring's size (and no further than the entries written), a
release frees exactly one published answer; each other value is ignored and counted in ERR_CNT (11 R441, R442, R465). The conventions that the model chose
for it are those of logs 66 and 102. -/
def Obligations.Doorbells : Prop :=
  ∀ (s : State) (p q : Nat) (k : Qp), p < 16 → q < 64 → s.ldUp p = true → s.qp? p q = some k → s.sched.stall.getLsbD p = false →
    (∀ v : BitVec 16, v.toNat < k.desc.sqSize → s.host.tailHeld = false → s.asleep = false → ∃ t, exec (.sqTail p q v) s = next t ∧
      t.qp? p q = some { k with sqTail := v.toNat } ∧ t.host.cmds = s.host.cmds ∧ onlyHost s t) ∧
    (∀ v : BitVec 16, k.desc.sqSize ≤ v.toNat → ∃ t, exec (.sqTail p q v) s = next t ∧ t.qp? p q = some k ∧
      (t.page (0x10000 + p)).errCnt = satBv (s.page (0x10000 + p)).errCnt 1) ∧
    (∀ v : BitVec 16, v.toNat < k.desc.cqSize → (v.toNat + k.desc.cqSize - k.cqHead) % k.desc.cqSize ≤ k.cqUsed → k.lost = [] → k.dups = [] →
      ∃ t, exec (.cqHead p q v) s = next t ∧ t.host.cmds = s.host.cmds ∧ onlyHost s t ∧
        t.qp? p q = some { k with cqHead := v.toNat, cqUsed := k.cqUsed - (v.toNat + k.desc.cqSize - k.cqHead) % k.desc.cqSize }) ∧
    (∀ v : BitVec 16, k.desc.cqSize ≤ v.toNat → ∃ t, exec (.cqHead p q v) s = next t ∧ t.qp? p q = some k ∧
      (t.page (0x10000 + p)).errCnt = satBv (s.page (0x10000 + p)).errCnt 1) ∧
    (∀ a n : BitVec 32, (a.toNat, n.toNat) ∈ k.published → ∃ t, exec (.answerRelease p q a n) s = next t ∧ t.host.cmds = s.host.cmds ∧ onlyHost s t ∧
      t.qp? p q = some { k with published := k.published.filter (· != (a.toNat, n.toNat)) }) ∧
    (∀ a n : BitVec 32, (a.toNat, n.toNat) ∉ k.published → ∃ t, exec (.answerRelease p q a n) s = next t ∧ t.qp? p q = some k ∧
      (t.page (0x10000 + p)).errCnt = satBv (s.page (0x10000 + p)).errCnt 1)

/-- The window share: a host write of whole clean lines of the host area that no answer holds is kept, and a read returns the bytes written last; a line of
which one copy fails reads as the other, and the copy that failed is written again; one of which both are lost reads all ones (11 R432, R433, R435). An
access past the share stops; a store to a doorbell line of no queue pair touches the queues of its own partition alone (10 R424). The conventions that the
model chose for it are those of logs 18, 65 and 102. -/
def Obligations.WindowShare : Prop :=
  (∀ (s : State) (p off : Nat) (data : Bytes), p < 16 → s.ldUp p = true → s.asleep = false → s.ecc.flipArmed = false → hostArea ≤ off → off + data.length ≤ s.shareSize p →
    off % 64 = 0 → data.length = 64 → s.answerAt p off = none → s.sched.stall.getLsbD p = false →
    ∃ t, exec (.shareWrite p off data) s = next t ∧ (∀ i, i < 64 → rdByte t.host.share (shareKey p off + i) = data.getD i 0) ∧
      (∀ i, i < shareKey p off ∨ shareKey p off + 64 ≤ i → rdByte t.host.share i = rdByte s.host.share i) ∧ t.host.lost.contains (shareKey p off / 64) = false ∧
      t.copiesClean (shareKey p off / 64) = true ∧
      t.host.qps = s.host.qps ∧ t.host.cmds = s.host.cmds ∧ { t with host := s.host, dram := s.dram } = s) ∧
  (∀ (s : State) (p off : Nat), p < 16 → s.ldUp p = true → s.asleep = false → hostArea ≤ off → off + 64 ≤ s.shareSize p → off % 64 = 0 →
    let l := shareKey p off / 64
    let stored : Bytes := (List.range 64).map fun i => rdByte s.host.share (shareKey p off + i)
    (s.copiesClean l = true → s.host.lost.contains l = false → s.host.undef = [] → ∃ t, exec (.shareRead p off 64) s = next t ∧
      t.host.reply = stored ∧ t.host.share = s.host.share) ∧
    (∀ b, lget s.dram.bad (winPlace l false) = some b → b.noPromise = false → rsDecode ((b.data ++ b.chk).map (·.toNat)) = none →
      lget s.dram.bad (winPlace l true) = none → s.host.lost.contains l = false → s.host.undef = [] → s.ecc.flipArmed = false →
      ∃ t, exec (.shareRead p off 64) s = next t ∧ t.host.reply = stored ∧ t.host.share = s.host.share ∧ t.copiesClean l = true ∧
        t.host.winFixed = satBv s.host.winFixed 1) ∧
    (s.host.lost.contains (shareKey p off / 64) = true → ∃ t, exec (.shareRead p off 64) s = next t ∧ t.host.reply = List.replicate 64 0xFF ∧
      t.host.winLost = satBv s.host.winLost 1)) ∧
  (∀ (s : State) (p off len : Nat) (data : Bytes), p < 16 → s.ldUp p = true →
    (s.shareSize p < off + len → exec (.shareRead p off len) s = .fault .outsideShare) ∧
    (s.shareSize p < off + data.length → exec (.shareWrite p off data) s = .fault .outsideShare)) ∧
  (∀ (s : State) (p q : Nat) (v : BitVec 16), p < 16 → q < 64 → s.ldUp p = true → s.qp? p q = none →
    ∃ t, exec (.sqTail p q v) s = next t ∧ exec (.cqHead p q v) s = next t ∧ (∀ j, j / 64 ≠ p → lget t.host.qps j = lget s.host.qps j) ∧
      (∀ x : CmdRef, x.part ≠ p → t.cmd? x = s.cmd? x) ∧ t.host.share = s.host.share ∧ { t with host := s.host, free := s.free } = s)

/-- QP_CREATE with a descriptor that no rule rejects sets up a queue pair with ring heads and tails 0, empty areas and phase 1, and ends with status success; it
fails with status object exists where the queue pair is set up, and with status invalid parameter on a rejected descriptor. QP_DELETE frees a queue pair
without outstanding commands. NQP_QP0_CTL.EN sets up queue pair 0, or sets its ERR bit on a rejected descriptor, and takes it away (11 R437 to R440). The
conventions that the model chose for it are those of log 67. -/
def Obligations.QueuePairs : Prop :=
  (∀ (s : State) (r : CmdRef) (c : Cmd), starts s r 0x01 c → c.dlen = 64 →
    let q := fld c.data 0 4 % 64
    (s.qp? r.part q = none → q ≠ 0 → s.speaks (qpDesc c.data).ver = true → s.descBad r.part q c.data = false → ∃ t, exec (.qpCreate r) s = next t ∧
      ended t r 0 [] ∧ t.qp? r.part q = some { desc := qpDesc c.data } ∧ (∀ j, j ≠ qpKey r.part q → lget t.host.qps j = lget s.host.qps j) ∧ onlyHost s t) ∧
    ((s.qp? r.part q).isSome = true → q ≠ 0 → ∃ t, exec (.qpCreate r) s = next t ∧ ended t r 7 [] ∧ onlyCmd s t r) ∧
    (s.qp? r.part q = none → s.speaks (qpDesc c.data).ver = true → s.descBad r.part q c.data = true → ∃ t, exec (.qpCreate r) s = next t ∧ ended t r 2 [] ∧ onlyCmd s t r)) ∧
  (∀ (s : State) (r : CmdRef) (c : Cmd) (k : Qp), outstanding s r c k → c.opcode = 0x02 → s.serves 0x02 = true → c.phase = .running → s.cmdsOf r.part c.obj = [] →
    ∃ t, exec (.qpDelete r) s = next t ∧ ended t r 0 [] ∧ t.qp? r.part c.obj = none ∧ onlyHost s t) ∧
  (∀ (s : State) (p : Nat) (v : BitVec 32), p < 16 → s.ldUp p = true →
    (v.getLsbD 0 = true → s.qp? p 0 = none → s.speaks (qpDesc (s.qp0Bytes p)).ver = true → s.descBad p 0 (s.qp0Bytes p) = false →
      ∃ t, exec (.nqpQp0CtlEn p v) s = next t ∧ t.qp? p 0 = some { desc := qpDesc (s.qp0Bytes p) } ∧ t.host.qp0Err.getLsbD p = false ∧ onlyHost s t) ∧
    (v.getLsbD 0 = true → s.qp? p 0 = none → s.descBad p 0 (s.qp0Bytes p) = true → ∃ t, exec (.nqpQp0CtlEn p v) s = next t ∧ t.qp? p 0 = none ∧
      t.host.qp0Err.getLsbD p = true ∧ t.host.qps = s.host.qps ∧ onlyHost s t) ∧
    (∀ k, v.getLsbD 0 = false → s.qp? p 0 = some k → s.cmdsOf p 0 = [] → ((s.qpsOf p).filter fun e => e.2.deleting) = [] →
      ∃ t, exec (.nqpQp0CtlEn p v) s = next t ∧ t.qp? p 0 = none ∧ (∀ j, j ≠ qpKey p 0 → lget t.host.qps j = lget s.host.qps j) ∧ onlyHost s t))

/-- PWR_SET begins the entry, and a state of caps alone puts its cap in force at once; with an entry under way it fails with status 7. The entry ends when no
other command is outstanding and no packet that was announced is unread, with the state entered in RESULT; past HST_PWR.ENTRY_LIMIT the module holds SQ_TAIL
writes (11 R480, R481). IDENTIFY answers with the 64-byte body of R449. ABORT of a command that waits for its admission completes it with status aborted and
reports 1, and of none reports 0 (R476, R477). The conventions that the model chose for it are those of logs 67 and 70. -/
def Obligations.PowerStatesAndAborts : Prop :=
  (∀ (s : State) (r : CmdRef) (c : Cmd), starts s r 0x03 c → (s.host.entering = none → ∃ t, exec (.pwrSet r) s = next t ∧
    t.host.entering = some (c.obj, r) ∧ t.host.power = (if c.obj ≤ 2 then c.obj else s.host.power) ∧ (∃ d, t.cmd? r = some d ∧ d.phase = .running) ∧ t.cores = s.cores ∧ t.dram = s.dram) ∧
    (s.host.entering.isSome = true → ∃ t, exec (.pwrSet r) s = next t ∧ ended t r 7 [] ∧ onlyCmd s t r)) ∧
  (∀ (s : State) (r : CmdRef) (c : Cmd) (k : Nat), s.host.entering = some (k, r) → s.alive 6 = true → s.host.cmds = [c] → c.ref = r → k ≤ 4 →
    (∀ e ∈ s.host.qps, e.2.sqHead = e.2.sqTail ∧ e.2.heldTail = none) → (k = 4 → s.gr.slots = [] ∧ s.gr.jseq ≤ s.gr.jdur) →
    ∃ t, exec .powerStateEntered s = next t ∧ t.host.power = k ∧ t.host.entering = none ∧ t.host.tailHeld = false ∧ ended t r 0 (leBytes 4 k)) ∧
  (∀ s : State, (s.alive 6 = true → s.host.entering.isSome = true → exec .entryLimit s = next { s with host := { s.host with tailHeld := true } }) ∧
    (s.host.entering = none → exec .entryLimit s = next s)) ∧
  (∀ (s : State) (r : CmdRef) (c : Cmd), starts s r 0x08 c → ∃ t b, exec (.identify r) s = next t ∧ answered t r b ∧ b.length = 64 ∧
    fld b 4 4 = r.part ∧ (s.shareSize r.part < 2 ^ 64 → fld b 0x20 8 = s.shareSize r.part) ∧ onlyCmd s t r) ∧
  (∀ (s : State) (r : CmdRef) (c : Cmd), starts s r 0x09 c →
    (s.cmd? { part := r.part, qp := c.obj, tag := c.p1 } = none → ∃ t, exec (.abort r) s = next t ∧ ended t r 0 [0] ∧ onlyCmd s t r) ∧
    (∀ d, s.cmd? { part := r.part, qp := c.obj, tag := c.p1 } = some d → d.phase = .wantBlocks → d.silent = false → (c.obj, c.p1) ≠ (r.qp, r.tag) →
      ∃ t e, exec (.abort r) s = next t ∧ t.cmd? d.ref = some e ∧ e.phase = .done ∧ e.status = 9 ∧ e.res = none ∧ ∃ x, t.cmd? r = some x ∧ x.phase = .running ∧ x.work.headD 0 = 1))

namespace Sys2Proof.Claims

/-- An agent that can make register accesses now, and the page it reaches at a page number. -/
def reaches (s : State) (w : Agent) (n : Nat) (b : Blk) : Prop := agentOk w = true ∧ s.acts w = true ∧ s.pageFor w n = some b

/-- Nothing else of the state is changed but the page headers. -/
def onlyPages (s t : State) : Prop := { t with pages := s.pages } = s

/-- Nothing else of the state is changed but the test port and what it has read of the free values. -/
def onlyPort (s t : State) : Prop := { t with port := s.port, free := s.free } = s

/-- MODE and the stored MODE settings hold one of the two modes (17 R677, R682). -/
def modesLegal (s : State) : Prop := (∀ n, (s.page n).mode.toNat < 2) ∧ ∀ e ∈ s.stored.modes, e.2.toNat < 2

end Sys2Proof.Claims

/-! ### Resets, the link, the fabric manager -/

/-- A function-level reset stops the commands of its logical device that have not started, deletes its queue pairs and clears its NQP instance, and affects no
other logical device; a link reset does so for all sixteen and drops the link; PERST_N high lets the port train after step 6; a ready link has a rate and a
width of Table 11.1; a configuration request before that is answered with configuration-retry; an IDE failure makes the stream insecure, is counted, and
drops the link (11 R427, R483, R484; 15 R620; 18 R690). The conventions that the model chose for it are those of log 70. -/
def Obligations.Resets : Prop :=
  (∀ (s : State) (p : Nat), p < 16 → s.ldUp p = true → s.sec.clears = [] →
    (∀ c ∈ s.host.cmds, c.ref.part = p → c.silent = false ∧ (c.phase = .wantSlot ∨ c.phase = .wantData ∨ c.phase = .wantBlocks ∨ c.phase = .admitted)) →
    ∃ t, exec (.functionLevelReset p) s = next t ∧ (∀ c ∈ t.host.cmds, c.ref.part ≠ p) ∧ (∀ q, q < 64 → t.qp? p q = none) ∧
      (∀ j, j / 64 ≠ p → lget t.host.qps j = lget s.host.qps j) ∧ (∀ c ∈ s.host.cmds, c.ref.part ≠ p → c ∈ t.host.cmds) ∧ t.page (0x10000 + p) = {} ∧
      (∀ n, n ≠ 0x10000 + p → t.page n = s.page n) ∧ (∀ i, i < 16 → mget 0 t.host.qp0Desc (p * 16 + i) = 0) ∧ t.cores = s.cores ∧ t.dram = s.dram ∧
      t.gr = s.gr ∧ t.gz = s.gz ∧ t.atl = s.atl ∧ t.mdl = s.mdl ∧ t.sys = s.sys) ∧
  (∀ (s : State) (perst : Bool), s.alive 6 = true → ∃ t, exec (.linkReset perst) s = next t ∧
    (∀ p q, p < 16 → q < 64 → t.qp? p q = none) ∧ t.sys.linkUp = false ∧ t.sys.ready = false ∧ t.host.rate = 0 ∧ t.host.width = 0 ∧
    (s.host.cmds = [] → s.sec.clears = [] → t.sys = { s.sys with perstN := if perst then false else s.sys.perstN, linkUp := false, ready := false } ∧
      t.cores = s.cores ∧ t.dram = s.dram)) ∧
  (∀ (s : State) (p : Nat), p < 16 → s.ldUp p = true → ∃ t, exec (.functionLevelReset p) s = next t ∧ ∀ q, q < 64 → t.qp? p q = none) ∧
  (∀ s : State, exec .perstNRelease s = next { s with sys := { s.sys with perstN := true, linkUp := s.sys.linkUp || s.alive 6 } }) ∧
  (∀ s : State, s.alive 6 = true → s.sys.perstN = true → ∃ t, exec .linkReady s = next t ∧ (∃ b, t.sys = { s.sys with linkUp := true, ready := true, switched := b }) ∧
    (t.host.rate = 1 ∨ t.host.rate = 2 ∨ t.host.rate = 3) ∧ (t.host.width = 16 ∨ t.host.width = 8 ∨ t.host.width = 4) ∧
    { t with sys := s.sys, free := s.free, host := { t.host with rate := s.host.rate, width := s.host.width } } = s) ∧
  (∀ (s : State) (p : Nat), p < 16 → s.alive 6 = true → s.sys.linkUp = true → (s.sys.switched = true ∨ p = 0) →
    exec (.configurationRequest p) s = next { s with host := { s.host with refused := ! s.sys.ready } }) ∧
  (∀ (s : State) (n : Nat), n < 2 → s.ldUp 0 = true → (s.ide (n == 1)).active.isSome = true →
    ∃ t, exec (.ideIntegrityFailure n) s = next t ∧ (t.ide (n == 1)).active = none ∧ t.sec.ideErr = satBv s.sec.ideErr 1 ∧ t.sys.linkUp = false)

/-- SET_PARTITION_MAP gives every stack-side cluster its partition, unless it would take a held cluster from its partition: then nothing changes but the
refusal; SET_POWER_OWNER names the power owner; SET_LD_ALLOCATIONS sets the sixteen shares, kept bytes staying, or is refused whole where a share is no
multiple of 256 MiB, or the shares exceed the window (10 R389, R390; 11 R430, R431). -/
def Obligations.FabricManager : Prop :=
  (∀ (s : State) (map : List (Option Nat)), s.fmUp = true → s.dram.dead = [] → map.length = 80 → (∀ x p, x ∈ map → x = some p → p < 16) →
    ((∀ k, k < 80 → s.cluHeld k = false ∨ s.ownerClu k = none ∨ s.ownerClu k = map.getD k none) →
      ∃ t, exec (.setPartitionMap map) s = next t ∧ (∀ k, k < 80 → t.ownerClu k = map.getD k none) ∧ t.host.refused = false ∧ t.cores = s.cores ∧
        t.dram = s.dram ∧ { t.sched with map := s.sched.map } = s.sched) ∧
    (∀ k, k < 80 → s.cluHeld k = true → s.ownerClu k ≠ none → s.ownerClu k ≠ map.getD k none →
      exec (.setPartitionMap map) s = next { s with host := { s.host with refused := true } })) ∧
  (∀ (s : State) (p : Nat), p < 16 → s.fmUp = true →
    exec (.setPowerOwner p) s = next { s with host := { s.host with owner := BitVec.ofNat 4 p, refused := false } }) ∧
  (∀ (s : State) (sh : List Nat), s.fmUp = true → sh.length = 16 →
    ((∀ x ∈ sh, x % 0x10000000 = 0) → sh.sum ≤ s.host.winSize * 0x1000000000 → (∀ p, p < 16 → sh.getD p 0 < s.shareSize p → s.qpsOf p = []) →
      ∃ t, exec (.setLdAllocations sh) s = next t ∧ (∀ p, p < 16 → t.shareSize p = sh.getD p 0) ∧ t.host.refused = false ∧ t.host.qps = s.host.qps) ∧
    ((∃ x ∈ sh, x % 0x10000000 ≠ 0) ∨ s.host.winSize * 0x1000000000 < sh.sum →
      exec (.setLdAllocations sh) s = next { s with host := { s.host with refused := true } })) ∧
  (∀ s : State, s.fmUp = true → ∃ t, exec .getPartitionMap s = next t ∧ t.host.refused = false ∧
    { t with host := { t.host with refused := s.host.refused, reply := s.host.reply } } = s)

/-! ### Registers and the test port -/

/-- A register read gives its reader the register's value, and 0 where the reader sees no page; reading LO latches HI, and a later HI read gives the latched
half; the header holds type and instance, and the error count. A core's page shows what its counters have come to: a count of steps, or a longest wait at a
bank of at most 16 steps, never falls from one reading to the next (01 R40; 02 R86; logs 7 and 37). A write of EVT_STS clears the bits written 1 (17 R668,
R670, R677; 00 R11). A MODE write by the firmware sets MODE where MODE_CAP allows it, and the stored setting with it; a reserved or unsupported value leaves
MODE as it was and adds 1 to ERR_CNT; SRST clears the event registers and ERR_CNT of its page and keeps MODE; EVT_FORCE sets the defined bits written 1 and
counts no error (17 R678, R680, R682, R683). The conventions that the model chose for it are those of logs 59 and 72. -/
def Obligations.RegisterAndPageAccesses : Prop :=
  ((∀ (s : State) (w : Agent) (n o : Nat) (b : Blk), reaches s w n b → o < 4096 → o % 4 = 0 →
     let u := s.seen b
     (isHi b o = false → isHi b (o + 4) = false → ∃ t, exec (.registerLoRead w (n * 4096 + o)) s = next t ∧
       t.host.reply = leBytes 4 (u.pageReg b o).toNat ∧ { t with free := u.free, host := { t.host with reply := s.host.reply } } = u) ∧
     (o + 4 < 4096 → isHi b (o + 4) = true → isHi b (o + 8) = false → isHi b o = false →
       ∃ t v, exec (.registerLoRead w (n * 4096 + o)) s = next t ∧ t.host.reply = leBytes 4 (u.pageReg b o).toNat ∧
         exec (.registerLoRead w (n * 4096 + (o + 4))) t = next v ∧ v.host.reply = leBytes 4 (u.pageReg b (o + 4)).toNat)) ∧
   (∀ (s : State) (b : Blk), ((∀ c, b ≠ .core c) → s.seen b = s) ∧ ∀ c, b = .core c →
     { s.seen b with cores := s.cores, free := s.free } = s ∧ (∀ d, d ≠ c → (s.seen b).core d = s.core d) ∧
       (s.core c).steps.toNat ≤ ((s.seen b).core c).steps.toNat ∧ ((s.seen b).core c).arch = (s.core c).arch ∧
       ((s.core c).bankWait.toNat ≤ 16 → (s.core c).bankWait.toNat ≤ ((s.seen b).core c).bankWait.toNat ∧ ((s.seen b).core c).bankWait.toNat ≤ 16)) ∧
   (∀ (s : State) (w : Agent) (n o : Nat), agentOk w = true → s.acts w = true → s.pageFor w n = none → o < 4096 →
     (∃ t, exec (.registerLoRead w (n * 4096 + o)) s = next t ∧ t.host.reply = [0, 0, 0, 0]) ∧ ∀ v, exec (.registerWrite w (n * 4096 + o) v) s = next s) ∧
   (∀ (s : State) (b : Blk), s.pageReg b 0x01C = (s.page (pageNo b)).errCnt ∧ s.pageReg b 0x010 = (s.page (pageNo b)).evtSts) ∧
   (∀ (s : State) (w : Agent) (n : Nat) (b : Blk) (v : BitVec 32), reaches s w n b → mayWrite w b = true →
     ∃ t, exec (.registerWrite w (n * 4096 + 0x010) v) s = next t ∧
       t.page (pageNo b) = { s.page (pageNo b) with evtSts := (s.page (pageNo b)).evtSts &&& ~~~v } ∧ (∀ m, m ≠ pageNo b → t.page m = s.page m) ∧ onlyPages s t)) ∧
  (∀ (s : State) (n : Nat) (b : Blk) (v : BitVec 32), reaches s .surveyor n b → v.getLsbD 31 = false →
     (v.toNat / 2 % 4 < 2 → (v.toNat / 2 % 4 = 1 → modeHa b = true) → b ≠ .grt 0 → (∀ c, b ≠ .qnt c) → ∃ t, exec (.modeWrite .surveyor n v) s = next t ∧
       t.page (pageNo b) = { s.page (pageNo b) with mode := BitVec.ofNat 2 (v.toNat / 2 % 4) } ∧
       mget 0 t.stored.modes (pageNo b) = BitVec.ofNat 2 (v.toNat / 2 % 4) ∧ (∀ m, m ≠ pageNo b → t.page m = s.page m) ∧
       { t with pages := s.pages, stored := { t.stored with modes := s.stored.modes } } = s) ∧
     ((2 ≤ v.toNat / 2 % 4 ∨ (v.toNat / 2 % 4 = 1 ∧ modeHa b = false)) → ∃ t, exec (.modeWrite .surveyor n v) s = next t ∧
       t.page (pageNo b) = { s.page (pageNo b) with errCnt := satBv (s.page (pageNo b)).errCnt 1 } ∧ (∀ m, m ≠ pageNo b → t.page m = s.page m) ∧ onlyPages s t) ∧
     (s.unitOut b = false → b ≠ .hst → ∃ t, exec (.srst .surveyor n) s = next t ∧
       (t.page (pageNo b)) = { mode := (s.page (pageNo b)).mode } ∧ (b = .thm → t.thm.jthr = 0x64 ∧ t.thm.dthr = 0x5F ∧ t.thm.nthr = 0x50 ∧ t.thm.trips = s.thm.trips)) ∧
     (∃ t, exec (.evtForce .surveyor n v) s = next t ∧ (t.page (pageNo b)).evtSts = (s.page (pageNo b)).evtSts ||| (evtBits b &&& v) ∧
       (t.page (pageNo b)).errCnt = (s.page (pageNo b)).errCnt ∧ t.fbk = s.fbk))

/-- The test port: BYPASS delays its bits by one shift; SAMPLE captures the levels at the pins; PRELOAD loads the boundary cells and EXTEST also drives the pins
from them; the vendor instructions act only during a freeze, and outside one as BYPASS; MEM_READ returns stored bytes with DATA_EN and zeros without; a port
reset changes nothing but the port (14 R595, R596; 18 R694). The conventions that the model chose for it are those of logs 60 and 61. -/
def Obligations.TestPortInstructions : Prop :=
  ∀ s : State, s.sys.powered = true →
    (∀ bs : List Bool, ∃ t, exec (.bypass bs) s = next t ∧ t.port.dr = (false :: bs).take bs.length ∧ t.port.drive = false ∧ t.port.cells = s.port.cells ∧ onlyPort s t) ∧
    (∃ t, exec .sample s = next t ∧ t.port.dr.take 4 = [s.sys.alertN, s.sys.freezeN, s.sys.perstN, s.sys.pwrbrkN] ∧ t.port.drive = false ∧
      t.port.cells = s.port.cells ∧ onlyPort s t) ∧
    (∀ bs : List Bool, bs.length = 6 → (∃ t, exec (.preload bs) s = next t ∧ t.port.cells = bs ∧ t.port.drive = false ∧ onlyPort s t) ∧
      (∃ t, exec (.extest bs) s = next t ∧ t.port.cells = bs ∧ t.port.drive = true ∧
        t.port.dr.take 4 = [s.sys.alertN, s.sys.freezeN, s.sys.perstN, s.sys.pwrbrkN] ∧ onlyPort s t)) ∧
    (exec .testPortReset s = next { s with port := {} }) ∧
    (s.frz.frozen = false → ∀ (v : BitVec 16) (o : BitVec 32) (a : BitVec 64),
      (∃ t, exec (.select v) s = next t ∧ t.port.sel = s.port.sel ∧ t.port.dr = [false] ∧ onlyPort s t) ∧ (∃ t, exec .stageScan s = next t ∧ t.port.dr = [false] ∧ onlyPort s t) ∧
      (∃ t, exec (.regRead o) s = next t ∧ t.port.dr = [false] ∧ onlyPort s t) ∧ (∃ t, exec (.memRead a o) s = next t ∧ t.port.dr = [false] ∧ onlyPort s t) ∧
      (∃ t, exec .frzStatus s = next t ∧ t.port.dr = [false] ∧ onlyPort s t)) ∧
    (s.frz.frozen = true →
      (∀ v : BitVec 16, ∃ t, exec (.select v) s = next t ∧ t.port.sel = v ∧ onlyPort s t) ∧
      (∃ t, exec .stageScan s = next t ∧ onlyPort s t) ∧
      (∀ o : BitVec 32, s.pageFor .surveyor (o.toNat / 4096) = none → ∃ t, exec (.regRead o) s = next t ∧ t.port.dr = List.replicate 32 false ∧ onlyPort s t) ∧
      (∀ (o : BitVec 32) (b : Blk), s.pageFor .surveyor (o.toNat / 4096) = some b → isHi b (o.toNat % 4096 / 4 * 4) = false → isHi b (o.toNat % 4096 / 4 * 4 + 4) = false →
        ∃ t, exec (.regRead o) s = next t ∧ t.port.dr = bitsOf (leBytes 4 (s.pageReg b (o.toNat % 4096 / 4 * 4)).toNat) ∧ onlyPort s t) ∧
      (∀ (a : BitVec 64) (n : BitVec 32), s.frz.data = false → ∃ t, exec (.memRead a n) s = next t ∧ t.port.dr = bitsOf (zeros n.toNat) ∧ onlyPort s t) ∧
      (∀ (a : BitVec 64) (n : BitVec 32) (c : Nat), s.frz.data = true → s.port.core? = some c → a.toNat + n.toNat ≤ spmSize c → ∃ t, exec (.memRead a n) s = next t ∧
        t.port.dr = bitsOf ((List.range n.toNat).map fun i => rdByte (s.core c).arch.spm (a.toNat + i)) ∧ onlyPort s t) ∧
      (∃ t, exec .frzStatus s = next t ∧ t.port.dr = bitsOf (leBytes 4 (s.frzReg 0x120)) ∧ onlyPort s t))

/-- Reset: every page has MODE 0 and no event or error, every core is idle with the zero image, and the registers with a stated reset value hold it: the
scheduler's, Graticule's, the Gazetteer's, the ECC, Atlas, thermal, power and host pages (17 R677, R681 and the register tables). MODE holds one of the two
modes at reset. The conventions that the model chose for it are those of logs 1 and 2. -/
def Obligations.ResetState : Prop :=
  (let s := State.reset
   (∀ n, s.page n = {}) ∧ (∀ c, s.core c = {} ∧ (s.core c).run = .idle ∧ (s.core c).arch = {}) ∧ s.pending = [] ∧ s.sys.powered = false ∧
   s.sched.slice = 0x03E8 ∧ s.sched.block = 0x00C8 ∧ s.sched.bg = 0x14 ∧ (∀ k, k < 80 → s.ownerClu k = some 0) ∧
   s.gr.gc = 0x0A1E ∧ s.gr.slcHi = 0x32 ∧ s.gr.refresh = 0xA ∧ s.gr.offTemp = 0x28 ∧ s.gr.readLimit = 0xC8 ∧ s.gr.wlSpread = 0xC8 ∧
   s.gz.passQ = 0x10 ∧ s.gz.tailPct = 0x19 ∧ s.gz.tombPct = 0x14 ∧ s.gz.auto = true ∧ s.ecc.ceLimit = 0x0804 ∧
   s.atl.rate = 0x40 ∧ s.atl.maxRepl = 7 ∧ s.atl.tries = 4 ∧ s.thm.jthr = 0x64 ∧ s.thm.dthr = 0x5F ∧ s.thm.nthr = 0x50 ∧
   s.pwr.capW = 0x3E8 ∧ s.pwr.brkLimit = 0x1F4 ∧ s.host.winNext = 1 ∧ s.host.minEnergy = 0x3C ∧ s.host.entryLimit = 0x3E8 ∧ s.mdl.lead = 4 ∧
   s.mdl.chunkReg = 0x200 ∧ s.mdl.budgetReg = 0x800) ∧
  (modesLegal State.reset)

/-- Every step keeps MODE, and its stored setting, one of the two modes (17 R677, R682). -/
def Obligations.StepsKeepModesLegal : Prop := ∀ s t : State, modesLegal s → step s = next t → modesLegal t

namespace Sys2Proof.Claims

/-- No completion waits for the flash: the buffer makes a commit durable, and no command waits for a program (11 R474; 12 R497). -/
def settled (s : State) : Prop := s.host.wt = false ∧ s.gr.awaits = []

/-- A mapping unit reads as `m`, from the write buffer or because it is unmapped (12 R492, R499). -/
def holds (s : State) (ns u : Nat) (m : Mem) : Prop :=
  s.gr.unread.contains (unitKey ns u) = false ∧
  ((s.entry? ns u = none ∧ m = []) ∨
    ∃ n x, s.entry? ns u = some { buf := true, addr := n } ∧ lget s.gr.slots n = some x ∧ x.data = m)

/-- Nothing else of the state is changed but Graticule and the host link. -/
def onlyGrHost (s t : State) : Prop := { t with gr := s.gr, host := s.host } = s

/-- The cores, the DRAM, the scheduler and the namespaces are as before: what every act of Graticule on its flash leaves. -/
def flashFrame (s t : State) : Prop :=
  t.cores = s.cores ∧ t.clus = s.clus ∧ t.dram = s.dram ∧ t.sched = s.sched ∧ t.gr.ns = s.gr.ns ∧ t.gr.slots = s.gr.slots

end Sys2Proof.Claims

/-! ### Graticule -/

/-- GR_NS_CREATE reserves the capacity, or fails with status capacity and changes nothing of Graticule; GR_NS_DELETE trims the namespace and frees its
reservation, and fails with status busy while it is in use; GR_NS_SET sets READ_ONLY; the list and health answers have the layouts of Tables 12.3 and 12.5
(12 R490, R494, R531). -/
def Obligations.Namespaces : Prop :=
  ∀ (s : State) (r : CmdRef) (c : Cmd), settled s →
    (starts s r 0x14 c → (s.earlier c fun d => d.opcode == 0x15 && d.obj == fld c.data 0 2) = false → s.ns? (nsKey r.part (fld c.data 0 2)) = none →
      (s.gr.reserved + fld c.data 8 8 ≤ userUnits → ∃ t, exec (.grNsCreate r) s = next t ∧ ended t r 0 [] ∧
        t.ns? (nsKey r.part (fld c.data 0 2)) = some { ro := bit (fld c.data 2 1) 0, cap := fld c.data 8 8 } ∧
        (∀ j, j ≠ nsKey r.part (fld c.data 0 2) → t.ns? j = s.ns? j) ∧ t.gr.map = s.gr.map ∧ t.gr.slots = s.gr.slots ∧ t.gr.jseq = s.gr.jseq + 1 ∧ onlyGrHost s t) ∧
      (userUnits < s.gr.reserved + fld c.data 8 8 → ∃ t, exec (.grNsCreate r) s = next t ∧ ended t r 6 [] ∧ onlyCmd s t r)) ∧
    (starts s r 0x15 c → (s.earlier c fun d => nsTarget d == some c.obj) = false → (s.ns? (nsKey r.part c.obj)).isSome = true →
      (s.nsInUse r.part c.obj = false → ∃ t, exec (.grNsDelete r) s = next t ∧ ended t r 0 [] ∧ t.ns? (nsKey r.part c.obj) = none ∧
        (∀ u, u < 2 ^ 48 → t.entry? (nsKey r.part c.obj) u = none) ∧
        (∀ k u, k ≠ nsKey r.part c.obj → u < 2 ^ 48 → t.entry? k u = s.entry? k u ∧ t.ns? k = s.ns? k) ∧ onlyGrHost s t) ∧
      (s.nsInUse r.part c.obj = true → ∃ t, exec (.grNsDelete r) s = next t ∧ ended t r 7 [] ∧ onlyCmd s t r)) ∧
    (starts s r 0x16 c → ∀ n, s.ns? (nsKey r.part c.obj) = some n → c.p1 < 2 → ∃ t, exec (.grNsSet r) s = next t ∧ ended t r 0 [] ∧
      t.ns? (nsKey r.part c.obj) = some { n with ro := c.p1 == 1 } ∧ (∀ k, k ≠ nsKey r.part c.obj → t.ns? k = s.ns? k) ∧ t.gr.map = s.gr.map ∧ onlyGrHost s t) ∧
    (starts s r 0x17 c → ∃ t b, exec (.grNsList r) s = next t ∧ answered t r b ∧ onlyCmd s t r ∧
      b.take 4 = leBytes 4 ((s.nsOfPart r.part).filter fun e => ! s.nsHidden r.part (e.1 % 2 ^ 20) r).length ∧
      b.length = 64 + 32 * ((s.nsOfPart r.part).filter fun e => ! s.nsHidden r.part (e.1 % 2 ^ 20) r).length) ∧
    (starts s r 0x18 c → ∃ t b, exec (.grHealth r) s = next t ∧ answered t r b ∧ onlyCmd s t r ∧ b.length = 192 ∧ sub b 8 8 = leBytes 8 s.gr.hostBytes)

/-- RD of a range in one unit returns its bytes, unmapped bytes reading as zeros, and an unreadable unit fails it; WR merges its bytes into the unit at once and
completes, or fails write protected; FLUSH with nothing buffered completes, and otherwise waits for the slots; TRIM of whole units makes them read as zeros
(11 R469, R470, R472; 12 R492, R499). -/
def Obligations.ReadsAndWrites : Prop :=
  ∀ (s : State) (r : CmdRef) (c : Cmd), settled s →
    let ns := nsKey r.part c.obj
    let u := c.p2 / 16384
    let o := c.p2 % 16384
    (starts s r 0x10 c → 0 < c.p1 → o + c.p1 ≤ 16384 →
      (∀ m, holds s ns u m → ∃ t b, exec (.rd r) s = next t ∧ answered t r b ∧ b.length = c.p1 ∧ (∀ i, i < c.p1 → b.getD i 0 = rdByte m (o + i)) ∧ onlyCmd s t r) ∧
      (s.gr.unread.contains (unitKey ns u) = true → ∃ t, exec (.rd r) s = next t ∧ ended t r 0x11 (leBytes 8 u) ∧ onlyCmd s t r) ∧
      (∀ a pg, s.gr.unread.contains (unitKey ns u) = false → s.entry? ns u = some { buf := false, addr := a } → lget s.gr.pages a = some pg → s.frz.evtEn = false →
        pg.ns = ns → pg.unit = u → pg.key = s.mediaGen ns →
        ∃ t, exec (.rd r) s = next t ∧ ((∃ b, answered t r b ∧ b.length = c.p1 ∧ ∀ i, i < c.p1 → b.getD i 0 = rdByte pg.data (o + i)) ∨ ended t r 0x11 (leBytes 8 u)))) ∧
    (starts s r 0x11 c → c.embed = false → c.fua = false → s.wrReady c = true → s.gr.ronly = false → 0 < c.p1 → o + c.p1 ≤ 16384 → c.data.length = c.p1 →
      (((s.ns? ns).map (·.ro)).getD false = false → ∀ m, holds s ns u m → ∃ t m', exec (.wr r) s = next t ∧ ended t r 0 [] ∧ holds t ns u m' ∧
        (∀ i, i < 16384 → rdByte m' i = if o ≤ i ∧ i < o + c.p1 then c.data.getD (i - o) 0 else rdByte m i) ∧
        (∀ k, k ≠ unitKey ns u → lget t.gr.map k = lget s.gr.map k) ∧ t.gr.hostBytes = s.gr.hostBytes + c.p1 ∧ onlyGrHost s t) ∧
      (((s.ns? ns).map (·.ro)).getD false = true → ∃ t, exec (.wr r) s = next t ∧ ended t r 0xA [] ∧ onlyCmd s t r)) ∧
    (starts s r 0x12 c →
      ((∀ e ∈ s.gr.slots, e.2.ns ≠ ns ∨ e.2.pend.isSome = true) → ∃ t, exec (.flush r) s = next t ∧ ended t r 0 [] ∧ onlyCmd s t r) ∧
      (∀ n x, s.gr.slots = [(n, x)] → x.ns = ns → x.pend = none → ∃ t d a, exec (.flush r) s = next t ∧ t.cmd? r = some d ∧ d.phase = .running ∧
        t.gr.awaits = [a] ∧ a.ref = r ∧ a.slots = [n] ∧ t.gr.slots = s.gr.slots)) ∧
    (starts s r 0x13 c → s.wrReady c = true → s.gr.ronly = false → ((s.ns? ns).map (·.ro)).getD false = false → o = 0 → c.p1 % 16384 = 0 → 0 < c.p1 →
      ∃ t, exec (.trim r) s = next t ∧ ended t r 0 [] ∧ onlyGrHost s t ∧
        ∀ x, x < 2 ^ 48 → if u ≤ x ∧ x < u + c.p1 / 16384 then holds t ns x [] else t.entry? ns x = s.entry? ns x)

/-- GR_PH_OPEN gives the lowest free handle in host-assisted mode and fails with status wrong mode in hardware mode; GR_PH_CLOSE ends it; GR_PH_STAT names it
and its namespace; GR_WL relocates a closed superblock (12 R522, R536 to R539). The conventions that the model chose for it are those of logs 75 and 98. -/
def Obligations.PlacementHandles : Prop :=
  ∀ (s : State) (r : CmdRef) (c : Cmd),
    (starts s r 0x19 c →
      (∀ n, s.hostMode (.grt 0) = true → s.gr.handles.length < 64 → (s.gr.handles.filter fun h => h.2 / 2 ^ 20 == r.part).length < 8 → 1 ≤ n → n ≤ 255 →
        (∀ m, 1 ≤ m → m < n → s.gr.handles.any (·.1 == m) = true) → s.gr.handles.any (·.1 == n) = false →
        ∃ t, exec (.grPhOpen r) s = next t ∧ ended t r 0 (leBytes 2 n) ∧ lget t.gr.handles n = some (nsKey r.part c.obj) ∧
          (∀ j, j ≠ n → lget t.gr.handles j = lget s.gr.handles j) ∧ onlyGrHost s t) ∧
      (s.hostMode (.grt 0) = false → ∃ t, exec (.grPhOpen r) s = next t ∧ ended t r 8 [] ∧ onlyCmd s t r)) ∧
    (starts s r 0x1A c → s.hostMode (.grt 0) = true → (s.handle? r.part c.obj).isSome = true → ∃ t, exec (.grPhClose r) s = next t ∧ ended t r 0 [] ∧
      lget t.gr.handles c.obj = none ∧ (∀ e ∈ t.gr.slots, e.2.handle ≠ c.obj ∨ c.obj = 0) ∧ t.gr.map = s.gr.map ∧ t.gr.pages = s.gr.pages ∧ onlyGrHost s t) ∧
    (starts s r 0x1B c → ∀ k, s.handle? r.part c.obj = some k → ∃ t b, exec (.grPhStat r) s = next t ∧ answered t r b ∧
      sub b 0 4 = leBytes 2 c.obj ++ leBytes 2 (k % 2 ^ 20) ∧ onlyCmd s t r) ∧
    (starts s r 0x1C c → settled s → ∀ b, lget s.gr.sbs c.obj = some b → b.phase ≠ .filling → s.sbValid b = [] → s.hostMode (.grt 1) = true →
      ∃ t, exec (.grWl r) s = next t ∧ ended t r 0 [] ∧ lget t.gr.sbs c.obj = none ∧ t.gr.map = s.gr.map ∧ onlyGrHost s t)

/-- DESTAGE moves a buffered unit to a flash page and frees its slots; a journal page makes every commit durable, and the tables on flash follow: of an index,
once none of its pages is in the buffer; the journal since the oldest piece of the last complete pass stays below 1 GiB; a checkpoint piece is 4 MiB of
flash writes, and the last of a pass ends it; the energy measurement puts the module in write-through exactly below the minimum, which is never under 48 J;
a folded unit leaves the user's data and the rest of the module alone (11 R473, R474; 12 R497 to R501). The conventions that the model chose for it are
those of log 20. -/
def Obligations.BufferAndJournal : Prop :=
  (∀ (s t' : State) (p ns u n a : Nat) (x : Slot) (slc : Bool), p < 16 → s.media = true → (slc = true → min 100 s.gr.slcHi.toNat < s.gr.fill) →
    s.entry? (nsKey p ns) u = some { buf := true, addr := n } → lget s.gr.slots n = some x → x.ns = nsKey p ns → x.unit = u → x.pend = none → (∀ w ∈ s.gr.awaits, w.sync = none) →
    (if slc then s.programSlc (nsKey p ns) u x.data x.dir else s.programPage (nsKey p ns) u x.data x.dir x.handle false 0 false) = (t', some a) →
    ∃ t, exec (.destage p ns u slc) s = next t ∧ t.entry? (nsKey p ns) u = some { buf := false, addr := a } ∧
      (∃ pg, lget t.gr.pages a = some pg ∧ pg.data = x.data ∧ pg.ns = nsKey p ns ∧ pg.unit = u) ∧ lget t.gr.slots n = none ∧
      (∀ k, k ≠ unitKey (nsKey p ns) u → lget t.gr.map k = lget s.gr.map k) ∧ onlyGrHost s t) ∧
  (∀ s : State, s.media = true → ∃ t, exec .journalProgram s = next t ∧
    t.gr.jdur = s.gr.jseq ∧ t.gr.dns = s.gr.ns ∧ t.gr.map = s.gr.map ∧ t.gr.slots = s.gr.slots ∧ t.gr.pages = s.gr.pages ∧ t.gz.ixs = s.gz.ixs ∧
    (∀ e ∈ s.gz.ixs, (∀ y ∈ s.gr.slots, y.2.ns ≠ nsKey (e.1 / 65536) (0x8000 + e.1 % 65536) ∨ y.2.pend.isSome = true) → e ∈ t.gz.dixs) ∧
    (∀ e ∈ t.gz.dixs, e ∈ s.gz.ixs ∨ lget s.gz.dixs e.1 = some e.2) ∧ t.gr.jlog = s.gr.jlog + 16384 ∧ t.gr.jlog - t.gr.passAt < 0x40000000) ∧
  (∀ s : State, s.media = true → exec .checkpoint s =
    next { s with gr := { s.gr with
      ckpt := s.gr.ckpt + 1, nandBytes := s.gr.nandBytes + 0x400000
      passAt := if (s.gr.ckpt + 1) % 16384 = 0 then s.gr.passNow else s.gr.passAt
      passNow := if (s.gr.ckpt + 1) % 16384 = 0 then s.gr.jlog else s.gr.passNow } }) ∧
  (∀ (s : State) (j : Nat), s.alive 1 = true → ∃ t, exec (.holdupMeasure j) s = next t ∧ t.host.energy = BitVec.ofNat 8 (min 255 j) ∧
    (t.host.wt = true ↔ min 255 j < max 48 s.host.minEnergy.toNat) ∧ t.cores = s.cores ∧ t.dram = s.dram) ∧
  (∀ (s : State) (p ns u a : Nat), p < 16 → s.media = true → s.entry? (nsKey p ns) u = some { buf := false, addr := a } → slcBlk (a / 2500) = true →
    ∃ t, exec (.slcCacheFold p ns u) s = next t ∧ flashFrame s t)

/-- A closed superblock that verifies gives up its companion blocks; a program failure retires the block, which leaves its superblock; a failed die leaves
service with its event; an erase begins on a queued block with no valid page and leaves it without pages, and ends with the block free and one cycle older,
or retired; collection takes the closed superblock with the fewest valid pages once free space is below START, each page a quantum of the module's queue;
reads beyond READ_LIMIT relocate a block (12 R505 to R507, R513, R514, R519, R520). Wear levelling runs in hardware mode from when the spread exceeds
WL_SPREAD, and stops once it is down to three quarters; each second every package's clock advances by AF of its temperature (12 R521, R523). The conventions
that the model chose for it are those of logs 20, 22 and 100. -/
def Obligations.FlashCareAndWear : Prop :=
  ((∀ (s : State) (n : Nat) (b : SuperBlk), s.media = true → lget s.gr.sbs n = some b → b.phase = .closed → ∃ t, exec (.superblockVerify n []) s = next t ∧
     lget t.gr.sbs n = some { b with phase := .verified, comps := [] } ∧ t.gr.pages = s.gr.pages ∧ t.gr.map = s.gr.map ∧ { t with gr := s.gr } = s) ∧
   (∀ (s : State) (n : Nat) (b : SuperBlk) (bad : List Nat), s.media = true → lget s.gr.sbs n = some b → b.phase = .closed →
     ∃ t y, exec (.superblockVerify n bad) s = next t ∧ lget t.gr.sbs n = some y ∧ y.phase = .verified ∧ y.comps = [] ∧ flashFrame s t) ∧
   (∀ (s : State) (n pos k : Nat) (b : SuperBlk), s.media = true → lget s.gr.sbs n = some b → b.phase = .filling → b.blocks.getD pos none = some k →
     (∀ e ∈ s.gr.pages, e.1 / 2500 ≠ k) → 2 ≤ (s.retireBlk k).gr.sparePct → s.gr.throttle = false → ∃ t, exec (.programFail n pos) s = next t ∧
       (t.fblk k).phase = .retired ∧ (∀ e ∈ t.gr.sbs, some k ∉ e.2.blocks) ∧ t.gr.pages = s.gr.pages ∧ { t with gr := s.gr } = s) ∧
   (∀ (s : State) (n pos k : Nat) (b : SuperBlk), s.media = true → lget s.gr.sbs n = some b → b.phase = .filling → b.blocks.getD pos none = some k →
     ∃ t, exec (.programFail n pos) s = next t ∧ (t.fblk k).phase = .retired) ∧
   (∀ (s : State) (d : Nat), d < 512 → s.media = true → s.gr.deadDies.contains d = false →
     ∃ t, exec (.dieRetire d) s = next t ∧ t.gr.deadDies = s.gr.deadDies ++ [d] ∧ (t.page (pageNo (.grt 0))).evtSts.getLsbD 0 = true) ∧
   (∀ (s : State) (d : Nat), d < 512 → s.media = true → s.gr.deadDies.contains d = false → (∀ e ∈ s.gr.pages, e.1 / 2500 / 12500 ≠ d) → s.gr.throttle = false →
     2 ≤ ({ s.gr with deadDies := s.gr.deadDies ++ [d] }).sparePct → s.frz.evtEn = false → ∃ t, exec (.dieRetire d) s = next t ∧ t.gr.deadDies = s.gr.deadDies ++ [d] ∧
       (∀ e ∈ t.gr.sbs, ∀ k, some k ∈ e.2.blocks → k / 12500 ≠ d) ∧ (t.page (pageNo (.grt 0))).evtSts.getLsbD 0 = true ∧ t.gr.pages = s.gr.pages ∧ t.cores = s.cores) ∧
   (∀ (s : State) (d b : Nat), d < 512 → b < 12500 → s.media = true →
     ((s.fblk (blkKey d b)).phase = .queued → s.host.wt = false → s.validIn (blkKey d b) = [] → s.fch.reqs = [] → ∃ t, exec (.eraseBegin d b) s = next t ∧
       (t.fblk (blkKey d b)).phase = .erasing ∧ (∀ e ∈ t.gr.pages, e.1 / 2500 ≠ blkKey d b) ∧ t.gr.jseq = s.gr.jseq + 1 ∧ t.gr.map = s.gr.map ∧ { t with gr := s.gr } = s) ∧
     ((s.validIn (blkKey d b)).isEmpty = false → exec (.eraseBegin d b) s = next s) ∧
     ((s.fblk (blkKey d b)).phase = .erasing → ∃ t, exec (.eraseDone d b true) s = next t ∧ (t.fblk (blkKey d b)).phase = .free ∧
       (t.fblk (blkKey d b)).cycles = (s.fblk (blkKey d b)).cycles + 1 ∧ (t.fblk (blkKey d b)).reads = 0 ∧ t.gr.jseq = s.gr.jseq + 1 ∧ { t with gr := s.gr } = s) ∧
     ((s.fblk (blkKey d b)).phase = .erasing →
       exec (.eraseDone d b false) s = next ((s.modFblk (blkKey d b) fun x => { x with phase := .retired }).commit).spareCheck) ∧
     (max 1 s.gr.readLimit.toNat * 1000 < (s.fblk (blkKey d b)).reads → ∃ t, exec (.readDisturbRelocate d b) s = next t ∧ flashFrame s t) ∧
     ((s.fblk (blkKey d b)).reads ≤ max 1 s.gr.readLimit.toNat * 1000 → exec (.readDisturbRelocate d b) s = next s)) ∧
   (∀ s : State, s.media = true →
     (s.gr.gcStart ≤ s.freeSpace → exec .garbageCollection s = next s) ∧
     (∀ n b, s.freeSpace < s.gr.gcStart → s.hostMode (.grt 0) = false → leastSb s.gr.closedSbs (fun b => (s.sbValid b).length) = some n → lget s.gr.sbs n = some b →
       (s.pagesRoom ((s.sbValid b).map (·.1)) = false → exec .garbageCollection s = next s) ∧
       (s.pagesRoom ((s.sbValid b).map (·.1)) = true → ∃ t, exec .garbageCollection s = next t ∧ flashFrame s t ∧
         (∀ c, mget 0 t.fch.modQuanta c = mget 0 s.fch.modQuanta c + (s.sbValid b).countP fun e => s.flashCore (nandChan (e.1 / 2500 / 12500)) == c) ∧
         (s.sbValid b = [] → lget t.gr.sbs n = none ∧ t.gr.map = s.gr.map ∧ { t with gr := s.gr } = s))))) ∧
  ((∀ s : State, s.media = true → s.hostMode (.grt 1) = false →
     (max 1 s.gr.wlSpread.toNat < s.gr.spread → ∃ t, exec .wearLevelling s = next t ∧ t.gr.levelling = true ∧ t.gr.ns = s.gr.ns ∧ t.cores = s.cores) ∧
     (4 * s.gr.spread ≤ 3 * max 1 s.gr.wlSpread.toNat → exec .wearLevelling s =
       next { s with gr := { s.gr with spreadSeen := false, spread5 := false, levelling := false } })) ∧
   (∀ s : State, s.sys.powered = true → s.frz.frozen = false → s.frz.evtEn = false → ∃ t, exec .heatAgeTick s = next t ∧
     t.sys.lastHeat = s.sys.lastHeat + 1000000 ∧ t.sys.now = max s.sys.now (s.sys.lastHeat + 1000000) ∧
     (∀ p, p < 32 → mget 0 t.gr.clock p = mget 0 s.gr.clock p + accel (s.nandTemp p)) ∧ (∀ c, (t.core c).arch = (s.core c).arch) ∧ t.gr.ns = s.gr.ns))

/-! ### Filters and embedding writes -/

/-- FL_LOAD keeps the image under the lowest free handle; FL_UNLOAD drops it; FL_RUN waits for its invocations; an invocation enters the program at instruction
0 with the registers of Table 6.4 on a scrubbed core; an unreadable page fails the run without PARTIAL_OK; an overrun of the limit is a filter fault, which
fails the run whole and returns its cores; a quantum is a unit of the module queue within its ceiling, and otherwise the next invocation of the partition
whose turn it is; the commit of an embedding write makes its units and its entry visible together (06 R237, R242, R245, R251, R252, R254 to R258, R261,
R263). The conventions that the model chose for it are those of logs 79, 83 and 100. -/
def Obligations.FiltersAndEmbeds : Prop :=
  (∀ (s : State) (r : CmdRef) (c : Cmd),
    (starts s r 0x20 c → ∀ h, (s.fch.images.filter fun e => e.1 / 65536 == r.part).length < 64 → 1 ≤ h → h ≤ 65 → lget s.fch.images (flKey r.part h) = none →
      (∀ m, 1 ≤ m → m < h → (lget s.fch.images (flKey r.part m)).isSome = true) → ∃ t, exec (.flLoad r) s = next t ∧ ended t r 0 (leBytes 2 h) ∧
        lget t.fch.images (flKey r.part h) = some (imageOf c.data) ∧ (∀ j, j ≠ flKey r.part h → lget t.fch.images j = lget s.fch.images j) ∧ t.cores = s.cores ∧ t.gr = s.gr) ∧
    (starts s r 0x20 c → 64 ≤ (s.fch.images.filter fun e => e.1 / 65536 == r.part).length → ∃ t, exec (.flLoad r) s = next t ∧ ended t r 6 [] ∧ onlyCmd s t r) ∧
    (starts s r 0x21 c → (s.earlier c fun d => d.opcode == 0x22 && flHandle d == flHandle c) = false → ∃ t, exec (.flUnload r) s = next t ∧ ended t r 0 [] ∧
      lget t.fch.images (flKey r.part (flHandle c)) = none ∧ (∀ j, j ≠ flKey r.part (flHandle c) → lget t.fch.images j = lget s.fch.images j) ∧ t.cores = s.cores ∧ t.gr = s.gr) ∧
    (starts s r 0x22 c → ∃ t, exec (.flRun r) s = next t ∧ t.fch.runs = s.fch.runs ++ [{ ref := r }] ∧ (∃ d, t.cmd? r = some d ∧ d.phase = .running) ∧ t.cores = s.cores)) ∧
  (∀ (s : State) (r : CmdRef) (i c : Nat) (cmd : Cmd) (run : FlRun) (img : FlImage) (pg : Nat → Mem), r.part < 16 → r.qp < 64 → r.tag < 65536 → c < 768 →
    s.cmd? r = some cmd → s.fch.runs.find? (·.ref == r) = some run → lget s.fch.images (flKey r.part (flHandle cmd)) = some img → s.media = true → s.coresLive = true →
    i < flTotal cmd.data 0 → s.flWaits run i = true → s.fchFree c = true → s.flServes cmd.data run i c = true → (s.flPick c).map (·.1.ref) = some r →
    ((∀ k, k < flStreams cmd.data → holds s (nsKey r.part (fld cmd.data 4 2)) (flUnit cmd.data k i) (pg k)) →
      ∃ t, exec (.filterInvocation r i c) s = next t ∧ (t.core c).run = .running ∧ (t.core c).fault = none ∧ (t.core c).arch.pc = 0 ∧ (t.core c).arch.imem = img.insts ∧
        (t.core c).arch.rdS 5 = BitVec.ofNat 64 i ∧ (t.core c).arch.rdS 8 = BitVec.ofNat 64 (flOut cmd.data) ∧ (t.core c).arch.rdS 9 = 0 ∧
        (t.core c).arch.rdS 6 + (t.core c).arch.rdS 7 = 0xF0000 ∧ (t.core c).arch.k = [] ∧ (∃ v, lget t.fch.invs c = some v ∧ v.ref = r ∧ v.page = i) ∧
        (img.consts.length ≤ 61440 → ∀ j, j < img.consts.length → rdByte (t.core c).arch.spm (0x40000 + j) = img.consts.getD j 0) ∧
        (∀ d, d ≠ c → t.core d = s.core d) ∧ t.gr = s.gr) ∧
    (flPartial cmd.data = false → s.gr.unread.contains (unitKey (nsKey r.part (fld cmd.data 4 2)) (flUnit cmd.data 0 i)) = true →
      ∃ t, exec (.filterInvocation r i c) s = next t ∧ ended t r 0x11 (leBytes 8 i) ∧ t.fch.runs = s.fch.runs.filter (·.ref != r) ∧ t.gr = s.gr)) ∧
  (∀ (s : State) (r : CmdRef) (i c : Nat), r.part < 16 → r.qp < 64 → r.tag < 65536 → c < 768 → (s.flPick c).map (·.1.ref) ≠ some r →
    exec (.filterInvocation r i c) s = next s) ∧
  (∀ (s : State) (c : Nat) (v : Invocation), c < 768 → s.coresLive = true → lget s.fch.invs c = some v →
    ∃ n k : Nat, (s.core c).steps.toNat + n < 2 ^ 64 ∧
      let u : State := { s.modCore c fun y => { y with steps := y.steps + BitVec.ofNat 64 n } with free := k }
      exec (.filterOverrun c) s =
        next (if s.flLimit c < (s.core c).steps.toNat + n - v.steps then u.coreFault c 0x10 false 0 (s.pcOf c) 0 else u)) ∧
  (∀ (s : State) (c code src pc addr : Nat) (precise : Bool) (v : Invocation) (cmd : Cmd), (s.core c).run ≠ .faulted → (s.core c).bound = false →
    lget s.fch.invs c = some v → s.cmd? v.ref = some cmd → s.frz.evtEn = false →
    let t := s.coreFault c code precise src pc addr
    (∃ res, ended t v.ref 0x20 res) ∧ (∀ e ∈ t.fch.runs, e.ref ≠ v.ref) ∧ (∀ e ∈ t.fch.invs, e.2.ref ≠ v.ref) ∧ (t.core c).run = .idle ∧
      mget 0 t.fch.faults ((c - 640) / 8) = satBv (mget 0 s.fch.faults ((c - 640) / 8)) 1) ∧
  (∀ (s : State) (c i : Nat) (run : FlRun) (img : FlImage) (cmd : Cmd), c < 768 → s.media = true → s.coresLive = true → s.fchFree c = true →
    s.gr.gcStart ≤ s.freeSpace → s.flPick c = some (run, i) → refOk run.ref = true → s.fch.runs.find? (·.ref == run.ref) = some run →
    s.cmd? run.ref = some cmd → lget s.fch.images (flKey run.ref.part (flHandle cmd)) = some img →
    ∃ t, exec (.quantumStart c) s = next t ∧ exec (.filterInvocation run.ref i c) s = next t ∧
      mget 0 t.fch.quanta (c * 16 + run.ref.part) = mget 0 s.fch.quanta (c * 16 + run.ref.part) + 1 ∧
      mget 0 t.fch.lastCmd (c * 16 + run.ref.part) = s.admOf run.ref ∧
      ∀ q ∈ s.flPending c, mget 0 s.fch.credit (c * 16 + q) + Int.ofNat (s.svcWeight c q) ≤
        mget 0 s.fch.credit (c * 16 + run.ref.part) + Int.ofNat (s.svcWeight c run.ref.part)) ∧
  (∀ (s : State) (c n : Nat) (e : Nat × FPage), c < 768 → s.media = true → s.coresLive = true → s.fchFree c = true → s.freeSpace < s.gr.gcStart →
    s.moduleRoom c 1 = true → s.gcUnit c = some (n, e) → ∃ t, exec (.quantumStart c) s = next t ∧
      mget 0 t.fch.modQuanta c = mget 0 s.fch.modQuanta c + 1 ∧ t.fch.quanta = s.fch.quanta ∧ t.cores = s.cores ∧ t.gr.ns = s.gr.ns) ∧
  (∀ (s u : State) (r : CmdRef) (bs : Bytes) (c : Cmd) (it : Item) (x z : Index) (e : MdEntry) (slots : List Nat) (qs : List Placed),
    r.part < 16 → r.qp < 64 → r.tag < 65536 → s.cmd? r = some c → c.ref = r → s.mdl.items.find? (·.ref == r) = some it → it.out = none →
    s.ix? r.part (emIndex c) = some x → s.mdEntry? it.entry = some e → c.opcode = 0x11 → c.embed = true → c.phase = .running → s.media = true → insRoom x 1 ≤ s.gr.freeSlots →
    emReplace c = false → c.fua = false →
    let rec1 : InsRec := { id := emId c, spill := emSpill c, given := emGiven c, code := s.binarise e (encVals e bs) }
    (x.placeRec x.epoch [] rec1).status ≠ 2 → (x.placeRec x.epoch [] rec1).status ≠ 4 → (x.placeRec x.epoch [] rec1).list.isSome = true →
    s.insertRecs r.part (emIndex c) x x.epoch [rec1] = some (u, z, slots, qs) → u.host.wt = false → u.gr.awaits = [] → (∃ d, u.cmd? r = some d) →
    ∃ t res, exec (.embedEncodeDone r bs) s = next t ∧ ended t r 0 res ∧ res.take 8 = leBytes 8 (x.epoch + 1) ∧ t.gz.embedCnt = u.gz.embedCnt + 1 ∧
      (∀ q ∈ t.mdl.items, q.ref ≠ r) ∧ ∀ n y, (u.gr.slots.filter fun e => e.2.pend == some r) = [(n, y)] → t.entry? y.ns y.unit = some { buf := true, addr := n })

namespace Sys2Proof.Claims

/-- What a batch's scans gave, and the state after them (05 R207). -/
def scans (s : State) (r : CmdRef) (c : Cmd) (x : Index) : State × Scans :=
  let b := batchOf c.data
  let snap := c.work.headD x.epoch
  let probes := x.probeSets b c.data snap
  ((running s r).countProbes r.part (fld c.data 0 2) x probes).scanAll r.part (fld c.data 0 2) x b snap probes

/-- What the answering of a batch's queries gave (05 R207, R213, R215). -/
def answers (s : State) (r : CmdRef) (c : Cmd) (x : Index) : State × Except QFail (List QAns) :=
  let b := batchOf c.data
  let num := fld c.data 0 2
  let snap := c.work.headD x.epoch
  let sc := scans s r c x
  State.answerAll (sc.1.listEvents num sc.2.bad) r.part num x b c.data (((s.tab? (tabKey r.part x.table)).map (·.d)).getD 0) snap (c.work.getD 1 0)
    (c.work.getD 2 0 == 1) (x.probeSets b c.data snap) sc.2 (fun l => ! b.noCache && x.cached.contains (l, (x.bound l snap).w)) (List.range b.nq)

end Sys2Proof.Claims

/-! ### The Gazetteer -/

/-- GZ_CREATE makes an empty index at epoch 0 with its service context, or fails with status capacity; GZ_DROP takes it away with its pages; GZ_SET_CENTROIDS
commits at the next epoch, and an earlier snapshot sees the old codes; GZ_STAT answers (05 R191, R202, R203, R219, R220). GZ_INSERT appends its record to
the list it is placed in and commits at the next epoch; GZ_DELETE marks every copy that its admission saw, at the next epoch, and answers their number; an
entry inserted at E is seen by snapshots from E on, and one removed at E by none from E on (05 R219, R221, R223, R224). The conventions that the model chose
for it are those of logs 5, 12 and 19. -/
def Obligations.IndexesAndEntries : Prop :=
  (∀ (s : State) (r : CmdRef) (c : Cmd), settled s →
     (starts s r 0x30 c → (s.earlier c fun d => d.opcode == 0x38 && d.obj == fld c.data 0 2) = false → s.ix? r.part (fld c.data 0 2) = none →
       (∀ u k v, s.gz.ixs.length < 64 → (s.gz.ixs.filter fun e => e.1 / 65536 == r.part).length < 16 →
         (running s r).newCtx (indexCtx r.part (fld c.data 0 2) (indexOf c.data) s.sys.now) = some (u, k) →
         u.centroidAreas r.part (fld c.data 0 2) (indexOf c.data) = some v → settled v → (∃ d, v.cmd? r = some d) → ∃ t, exec (.gzCreate r) s = next t ∧ ended t r 0 [] ∧
           t.ix? r.part (fld c.data 0 2) = some { indexOf c.data with ctx := some k } ∧ (indexOf c.data).epoch = 0 ∧ (indexOf c.data).lists = [] ∧
           t.ns? (ixNs r.part (fld c.data 0 2)) = some {}) ∧
       (64 ≤ s.gz.ixs.length → ∃ t, exec (.gzCreate r) s = next t ∧ ended t r 6 [] ∧ onlyCmd s t r)) ∧
     (starts s r 0x38 c → (s.earlier c fun d => (decide (0x30 ≤ d.opcode) && decide (d.opcode ≤ 0x38) && gzTarget d == c.obj) ||
         (d.opcode == 0x11 && d.embed && fld d.p3 0 2 == c.obj)) = false → ∀ x, s.ix? r.part c.obj = some x →
       ∃ t, exec (.gzDrop r) s = next t ∧ ended t r 0 [] ∧ t.ix? r.part c.obj = none ∧ (∀ j, j ≠ ixKey r.part c.obj → lget t.gz.ixs j = lget s.gz.ixs j) ∧
         t.ns? (ixNs r.part c.obj) = none ∧ (∀ u, u < 2 ^ 48 → t.entry? (ixNs r.part c.obj) u = none) ∧ ∀ y, x.ctx = some y → t.ctx? y = none) ∧
     (starts s r 0x31 c → ∀ x, s.ix? r.part c.obj = some x → ∃ t y, exec (.gzSetCentroids r) s = next t ∧ ended t r 0 [] ∧ t.ix? r.part c.obj = some y ∧
       y.epoch = x.epoch + 1 ∧ y.lists = x.lists ∧ (∀ i, i < fld c.data 4 4 → y.codeAt (x.epoch + 1) (fld c.data 0 4 + i) = sub c.data (64 + i * x.nb) x.nb) ∧
       (∀ snap k, snap ≤ x.epoch → y.codeAt snap k = x.codeAt snap k) ∧ (∀ j, j ≠ ixKey r.part c.obj → lget t.gz.ixs j = lget s.gz.ixs j)) ∧
     (starts s r 0x37 c → ∀ x, s.ix? r.part c.obj = some x → ∃ t b, exec (.gzStat r) s = next t ∧ answered t r b ∧ onlyCmd s t r)) ∧
  ((∀ (s u : State) (r : CmdRef) (c : Cmd) (x y : Index) (slots : List Nat) (qs : List Placed), starts s r 0x32 c → s.ix? r.part c.obj = some x →
     min slotCount (insRoom x (c.dlen / (16 + x.nb))) ≤ s.gr.freeSlots → s.gr.ronly = false →
     (running s r).insertRecs r.part c.obj x (c.work.headD x.epoch) (insRecs x.nb c.data) = some (u, y, slots, qs) → settled u → c.fua = false → (∃ d, u.cmd? r = some d) →
     ∃ t z, exec (.gzInsert r) s = next t ∧ answered t r (insAnswer qs) ∧ t.ix? r.part c.obj = some z ∧ z.epoch = x.epoch + 1 ∧
       (∀ rec1 l, insRecs x.nb c.data = [rec1] → qs = [{ list := some l, second := none, status := 0 }] →
         (z.current l).ents = (x.current l).ents ++ [{ code := rec1.code, id := rec1.id, ep := x.epoch + 1 }] ∧ ∀ m, m ≠ l → z.current m = x.current m)) ∧
   (∀ (s : State) (r : CmdRef) (c : Cmd) (x : Index) (l id : Nat), starts s r 0x33 c → s.ix? r.part c.obj = some x → s.gr.ronly = false → c.dlen = 16 →
     id = fld c.data 0 6 → l = fld c.data 8 3 → l ≠ 0xFFFFFF → x.heldLists.contains l = true → c.work.headD x.epoch = x.epoch →
     ∀ u, State.readLists (running s r) r.part c.obj x [l] = (u, none) → settled u → (∃ d, u.cmd? r = some d) →
     ∃ t z, exec (.gzDelete r) s = next t ∧ t.ix? r.part c.obj = some z ∧ z.epoch = x.epoch + 1 ∧
       (z.current l).ents = ((x.current l).ents.map fun e => if e.id = id ∧ e.ep ≤ x.epoch ∧ e.del = none then { e with del := some (x.epoch + 1) } else e) ∧
       answered t r (leBytes 4 ((x.current l).ents.countP fun e => decide (e.id = id ∧ e.ep ≤ x.epoch ∧ e.del = none)))) ∧
   (∀ (e : GzEnt) (snap : Nat), e.visible snap = true ↔ e.ep ≤ snap ∧ ∀ d, e.del = some d → snap < d))

/-- GZ_QUERY and GZ_SAMPLE answer the batch whole at its snapshot, or fail it whole: with an unreadable list and no PARTIAL_OK the query fails with status page
unreadable and the list (05 R206, R207, R215, R232, R234). The conventions that the model chose for it are those of logs 19, 84 and 100. -/
def Obligations.Queries : Prop :=
  (∀ (s : State) (r : CmdRef) (c : Cmd) (x : Index), starts s r 0x34 c → s.ix? r.part (fld c.data 0 2) = some x →
    (∀ w as, answers s r c x = (w, .ok as) → (∃ d, w.cmd? r = some d) → ∃ t b, exec (.gzQuery r) s = next t ∧ answered t r b ∧
      b.take 64 = answerHead (batchOf c.data).nq (fld c.data 0 2) (c.work.headD x.epoch) (scans s r c x).2 ∧
      t.gz.queries = w.gz.queries + BitVec.ofNat 64 (batchOf c.data).nq) ∧
    (∀ w f, answers s r c x = (w, .error f) → (∃ d, w.cmd? r = some d) → ∃ t, exec (.gzQuery r) s = next t ∧
      ended t r f.status (leBytes 8 f.obj ++ leBytes 2 f.query))) ∧
  (∀ (s : State) (p num : Nat) (x : Index) (b : Batch) (q : Query) (snap tver i l : Nat) (host : Bool) (probes rest : List Nat) (hot : Nat → Bool), b.partialOk = false →
    s.answerOne p num x b q snap tver i host probes (l :: rest) hot = (s, .error { status := 0x10, obj := l, query := i })) ∧
  (∀ (s : State) (r : CmdRef) (c : Cmd) (x : Index), starts s r 0x35 c → s.ix? r.part (fld c.data 0 2) = some x →
    let b := batchOf c.data
    let num := fld c.data 0 2
    let snap := c.work.headD x.epoch
    let near := x.probeSets b c.data snap
    let full := near.map fun _ => sampleOf x c.data
    let dim := ((s.tab? (tabKey r.part x.table)).map (·.d)).getD 0
    let hot (l : Nat) : Bool := ! b.noCache && x.cached.contains (l, (x.bound l snap).w)
    ∀ u v sc sd, (running s r).scanAll r.part num x b snap near = (u, sc) → u.scanAll r.part num x b snap full = (v, sd) →
      let out := State.sampleAll (v.listEvents num (sc.bad ++ sd.bad)) r.part num x b c.data dim snap (c.work.getD 1 0) (c.work.getD 2 0 == 1) near full sc sd hot
        (List.range b.nq)
      (∀ y as, out = (y, .ok as) → (∃ d, y.cmd? r = some d) → ∃ t body, exec (.gzSample r) s = next t ∧ answered t r body ∧
        body.take 16 = leBytes 2 b.nq ++ zeros 2 ++ leBytes 2 num ++ zeros 2 ++ leBytes 8 snap ∧ t.gz.queries = y.gz.queries + BitVec.ofNat 64 b.nq) ∧
      (∀ y f, out = (y, .error f) → (∃ d, y.cmd? r = some d) → ∃ t, exec (.gzSample r) s = next t ∧ ended t r f.status (leBytes 8 f.obj ++ leBytes 2 f.query)))

/-- Compaction begins at the committed epoch for each list named that holds something, and ends with a new version at the next epoch whose base is what the
snapshot saw; a list that cannot be read, or for which no capacity is left, keeps its version; a version that no query is bound to goes; a pending delete
becomes a tombstone once no query predates it; the cache holds versions in use only, and none by choice in host-assisted mode (05 R217, R224 to R226, R228).
The conventions that the model chose for it are those of log 68. -/
def Obligations.Compaction : Prop :=
  (∀ (s : State) (r : CmdRef) (c : Cmd) (x : Index), settled s → s.ix? r.part c.obj = some x → s.gr.ronly = false →
    (starts s r 0x36 c → compactLists x c ≠ [] → ∃ t y, exec (.gzCompact r) s = next t ∧ t.ix? r.part c.obj = some y ∧ y.lists = x.lists ∧ y.epoch = x.epoch ∧
      (∀ l ∈ compactLists x c, y.builds.any (·.1 == l) = true) ∧ ∃ d, t.cmd? r = some d ∧ d.phase = .running) ∧
    (starts s r 0x36 c → compactLists x c = [] → ∃ t, exec (.gzCompact r) s = next t ∧ ended t r 0 []) ∧
    (r.part < 16 → r.qp < 64 → r.tag < 65536 → s.cmd? r = some c → c.opcode = 0x36 → c.phase = .running → s.serves 0x36 = true →
      (x.builds.any fun e => decide (fld c.data 0 4 ≤ e.1) && decide (e.1 < fld c.data 0 4 + fld c.data 4 4)) = false →
      ∃ t, exec (.gzCompact r) s = next t ∧ ended t r 0 [])) ∧
  (∀ (s : State) (p n l : Nat) (x : Index), p < 16 → s.ix? p n = some x → s.media = true →
    (s.wantsCompaction x l = true → exec (.compactionStart p n l) s = next (s.setIx p n { x with builds := x.builds ++ [(l, x.epoch)] })) ∧
    (s.wantsCompaction x l = false → exec (.compactionStart p n l) s = next s) ∧
    (∀ c u t' y v' slots, x.builds.find? (·.1 == l) = some (l, c) → s.gr.ronly = false → (x.compacted l c 0).pageCount x.perPage ≤ s.gr.freeSlots →
      State.readLists s p n x [l] = (u, none) → u.storeVer p n x l (x.compacted l c (x.epoch + 1)) 0 = some (t', y, v', slots) →
      t'.hostMode .gzt = true → t'.host.wt = false →
      ∃ t z, exec (.listVersionSwitch p n l) s = next t ∧ t.ix? p n = some z ∧ z.epoch = x.epoch + 1 ∧ z.versions l = x.versions l ++ [v'] ∧ v'.w = x.epoch + 1 ∧
        v'.ents = ((x.current l).ents.filter (·.visible c)) ++ ((x.current l).ents.filter fun e => decide (c < e.ep)) ∧ z.builds.any (·.1 == l) = false) ∧
    (∀ c t' bad, x.builds.find? (·.1 == l) = some (l, c) → s.gr.ronly = false → (x.compacted l c 0).pageCount x.perPage ≤ s.gr.freeSlots →
      State.readLists s p n x [l] = (t', some bad) → ∃ t z, exec (.listVersionSwitch p n l) s = next t ∧ t.ix? p n = some z ∧ z.lists = x.lists ∧ z.epoch = x.epoch) ∧
    (∀ c u, x.builds.find? (·.1 == l) = some (l, c) → s.gr.ronly = false → (x.compacted l c 0).pageCount x.perPage ≤ s.gr.freeSlots →
      State.readLists s p n x [l] = (u, none) → u.storeVer p n x l (x.compacted l c (x.epoch + 1)) 0 = none → ∃ t z, exec (.listVersionSwitch p n l) s = next t ∧
        t.ix? p n = some z ∧ z.lists = x.lists ∧ z.epoch = x.epoch ∧ ∀ d ∈ u.runningOf 0x36, d.ref.part = p → d.obj = n → (compactLists x d).contains l = true →
          ended t d.ref 6 []) ∧
    (∀ ver v, (x.versions l).find? (·.w == ver) = some v → s.verBound p n x l ver = false → ∃ t z, exec (.listVersionFree p n l ver) s = next t ∧
      t.ix? p n = some z ∧ z.versions l = (x.versions l).filter (·.w != ver) ∧ (l, ver) ∉ z.cached ∧ z.epoch = x.epoch ∧
      ∀ u ∈ v.pages, u < 2 ^ 48 → t.entry? (ixNs p n) u = none) ∧
    (∃ t z, exec (.tombstoneApply p n) s = next t ∧ t.ix? p n = some z ∧ z.epoch = x.epoch ∧ { t with gz := s.gz } = s ∧
      ∀ m, (z.current m).ents = (x.current m).ents.map fun e => match e.del with
        | none => e
        | some d => { e with tomb := e.tomb || (s.gzSnaps p n).all fun q => decide (d ≤ q) }) ∧
    (s.hostMode .gzt = true → exec (.hotListCacheUpdate p n) s = next s) ∧
    (s.hostMode .gzt = false → ∃ t z, exec (.hotListCacheUpdate p n) s = next t ∧ t.ix? p n = some z ∧ z.probes = [] ∧ z.lists = x.lists ∧ z.epoch = x.epoch ∧
      (∀ e ∈ z.cached, s.verBound p n x e.1 e.2 = true) ∧
      ∀ e ∈ x.cached, s.verBound p n x e.1 e.2 = true → (x.current e.1).w ≠ e.2 → e ∈ z.cached))

/-- A scan request reads the pages of its segment that are not cached and writes the records of its queries into the merge cluster's scratchpad; the ring issues
the request that PROD has passed, marks it pending, and stops with an address fault where PROD runs more than 64 ahead; a completed request has its STATUS,
CONS advanced and its token posted; arming a ring sets CONS to PROD (05 R209 to R212). The conventions that the model chose for it are those of logs 19, 86
and 100. -/
def Obligations.ScansAndRings : Prop :=
  (∀ (s : State) (p c : Nat) (req : Bytes) (x : Index) (v : ListVer), p < 16 → c < 768 → s.ix? p (fld req 0 2) = some x → s.media = true → s.coresLive = true →
    ((x.versions (fld req 4 4 % 2 ^ 24)).find? fun v => v.w == fld req 0x10 8) = some v → (scanBatch x.nb req).nq ≠ 0 → (scanBatch x.nb req).nq ≤ 64 →
    let list := fld req 4 4 % 2 ^ 24
    let seg := fld req 4 4 / 2 ^ 24
    let hot := stackSide c && (searchCores x.search).contains c && x.cached.contains (list, v.w)
    let pages := ((v.livePages x.perPage (fld req 8 8)).filter fun i => i / 64 == seg).filter fun i => ! hot || decide (v.basePages x.perPage ≤ i)
    (hot = true ∨ (stackSide c = false ∧ s.gr.liveChan ((list + 8 * fld req 0 2 + seg) % 128) / 8 = (c - 640) / 8)) →
      (∀ u n, State.scanPages s (ixNs p (fld req 0 2)) v pages = (u, n, none) → u.ctxOn (x.merge * 8 + fld req 0x30 4 % 128 % 8) = none →
        ∃ t, exec (.scanRequest p c req) s = next t ∧ (t.clu x.merge).spm = wrBytes (u.clu x.merge).spm (fld req 0x2C 4 % 0x800000)
          ((List.range (scanBatch x.nb req).nq).flatMap (x.scanRecord (u.clu x.merge).spm req v)) ∧
        (∀ k, k ≠ x.merge → t.clu k = u.clu k) ∧ { t with clus := u.clus } = u) ∧
      (∀ u n i, State.scanPages s (ixNs p (fld req 0 2)) v pages = (u, n, some i) → exec (.scanRequest p c req) s = next u)) ∧
  (∀ (s : State) (c : Nat), 640 ≤ c → c < 768 → s.media = true → ringOn (mget 0 s.fch.ring (c - 640)) = true → s.fch.stopped.contains (c - 640) = false →
    (64 < (s.ringProd c + 2 ^ 32 - s.ringCons c) % 2 ^ 32 → ∃ u : State, exec (.pageReadRequest c) s = next (u.coreFault c 0x02 false 0 (s.pcOf c) (ringBase (mget 0 s.fch.ring (c - 640)))) ∧
      u.fch.stopped = setIns s.fch.stopped (c - 640) ∧ u.cores = s.cores) ∧
    ((s.ringProd c + 2 ^ 32 - s.ringCons c) % 2 ^ 32 ≤ 64 → mget 0 s.fch.next (c - 640) ≠ s.ringProd c → ∃ t q, exec (.pageReadRequest c) s = next t ∧
      t.fch.reqs = s.fch.reqs ++ [q] ∧ q.core = c ∧ q.m = mget 0 s.fch.next (c - 640) ∧
      mget 0 t.fch.next (c - 640) = (mget 0 s.fch.next (c - 640) + 1) % 2 ^ 32 ∧
      rdLE (t.core c).arch.spm (ringBase (mget 0 s.fch.ring (c - 640)) + 64 + 32 * (mget 0 s.fch.next (c - 640) % 64) + 4) 4 = 0 ∧
      (∀ d, d ≠ c → t.core d = s.core d) ∧ { t with fch := s.fch, cores := s.cores } = s) ∧
    ((s.ringProd c + 2 ^ 32 - s.ringCons c) % 2 ^ 32 ≤ 64 → mget 0 s.fch.next (c - 640) = s.ringProd c → exec (.pageReadRequest c) s = next s)) ∧
  (∀ (s : State) (c m : Nat) (o : ReadOutcome) (q : RingReq), 640 ≤ c → c < 768 → s.media = true → ringOn (mget 0 s.fch.ring (c - 640)) = true →
    s.fch.reqs.find? (fun q => q.core == c && q.m == m) = some q → q.status ≠ 0 → q.status < 2 ^ 32 →
    (s.core c).arch.rdK (q.words.getD 0 0 / 2 ^ 8 % 32) < 65535 → ∃ t, exec (.pageReadComplete c m o) s = next t ∧
      rdLE (t.core c).arch.spm (ringBase (mget 0 s.fch.ring (c - 640)) + 64 + 32 * (m % 64) + 4) 4 = q.status ∧
      rdLE (t.core c).arch.spm (ringBase (mget 0 s.fch.ring (c - 640)) + 4) 4 = (s.ringCons c + 1) % 2 ^ 32 ∧
      (t.core c).arch.rdK (q.words.getD 0 0 / 2 ^ 8 % 32) = (s.core c).arch.rdK (q.words.getD 0 0 / 2 ^ 8 % 32) + 1 ∧
      t.fch.reqs = s.fch.reqs.filter (fun x => ! (x.core == c && x.m == m)) ∧ t.gr = s.gr ∧ ∀ d, d ≠ c → t.core d = s.core d) ∧
  (∀ (s : State) (die j : Nat) (v : BitVec 32), 20 ≤ die → die < 36 → j < 8 → s.alive 6 = true →
    let k := (die - 20) * 8 + j
    let c := 640 + k
    (v.getLsbD 31 = true → ringOn (mget 0 s.fch.ring k) = false → ∃ t, exec (.fchReqRingEn die j v) s = next t ∧ mget 0 t.fch.ring k = v &&& 0x800FFFC0 ∧
      t.ringCons c = t.ringProd c ∧ t.fch.stopped.contains k = false ∧ mget 0 t.fch.next k = t.ringProd c) ∧
    (v.getLsbD 31 = false → ∃ t, exec (.fchReqRingEn die j v) s = next t ∧ mget 0 t.fch.ring k = v &&& 0x800FFFC0 ∧ t.cores = s.cores ∧
      { t with fch := { t.fch with ring := s.fch.ring } } = s))

namespace Sys2Proof.Claims

/-- A table as AT_VBEGIN leaves it, its building version numbered (07 R302). -/
def withBuilding (u : State) (tk new : Nat) : State :=
  (u.nextSeq tk).modTab tk fun y => { y with building := some new, sealed := false, vers := y.vers ++ [{ no := new, born := true, area := y.freeArea }] }

/-- What a switch makes of a table: its building version current at the next sequence number (07 R305). -/
def switched (y : Table) (new : Nat) : Table :=
  { y with seq := y.seq + 1, cur := new, building := none, sealed := false }

/-- The other tables are as before. -/
def otherTables (s t : State) (tk : Nat) : Prop := ∀ j, j ≠ tk → t.tab? j = s.tab? j

/-- The command is still there. -/
def kept (u : State) (r : CmdRef) : Prop := ∃ d, u.cmd? r = some d

end Sys2Proof.Claims

/-! ### Atlas -/

/-- AT_CREATE makes a table at version 1 or fails with status capacity; AT_DROP takes it away with its DRAM; AT_VBEGIN makes a building version one above the
current one; AT_VSEAL switches to it at once in hardware mode, and in host-assisted mode seals it and answers; AT_VSWITCH switches to it, and in hardware
mode fails with status wrong mode; a version that nothing is bound to is freed; AT_STAT answers (07 R270, R273, R276, R302, R304 to R306). The conventions
that the model chose for it are those of logs 5, 24 and 25. -/
def Obligations.AtlasTablesAndVersions : Prop :=
  (∀ (s : State) (r : CmdRef) (c : Cmd), settled s → starts s r 0x40 c → (s.earlier c fun d => d.opcode == 0x41 && d.obj == fld c.data 0 1) = false →
    let tk := tabKey r.part (fld c.data 0 1)
    let x := tableOf c.data s.free
    s.tab? tk = none →
    (∀ u w, (running s r).takeFree.2.allocVer tk 1 x = some u → (u.modAtl fun a => { a with tabs := lset a.tabs tk x }).fillVer tk 1 x (! x.init) = w →
      settled w → kept w r → ∃ t, exec (.atCreate r) s = next t ∧ ended t r 0 [] ∧ t.tab? tk = some x ∧ x.cur = 1 ∧ otherTables s t tk) ∧
    ((running s r).takeFree.2.allocVer tk 1 x = none → ∃ t, exec (.atCreate r) s = next t ∧ ended t r 6 [] ∧ onlyCmd s t r)) ∧
  (∀ (s : State) (r : CmdRef) (c : Cmd) (x : Table),
    let tk := tabKey r.part c.obj
    let new := x.cur + 1
    s.tab? tk = some x →
    (settled s → starts s r 0x41 c → s.earlier c (s.usesTab r.part c.obj) = false → s.inStep tk = false → ∃ t, exec (.atDrop r) s = next t ∧ ended t r 0 [] ∧
      t.tab? tk = none ∧ otherTables s t tk ∧ (∀ a ∈ t.dram.alloc, ∀ v ∈ x.vers, a.use ≠ .atlas (verKey tk v.no)) ∧ t.dram.mem = s.dram.mem ∧ t.cores = s.cores) ∧
    (starts s r 0x46 c → s.inStep tk = false →
      (∀ d ∈ s.host.cmds, d.opcode = 0x42 → d.ref.part = r.part → d.obj = c.obj → d.phase ≠ .admitted ∧ d.phase ≠ .running) →
      (s.earlier c fun d => (d.opcode == 0x52 && (fld d.data 0x10 32).testBit c.obj) ||
        ((d.opcode == 0x46 || d.opcode == 0x47 || d.opcode == 0x48) && d.obj == c.obj)) = false →
      (x.building.isSome = true ∨ 4 ≤ x.vers.length → ∃ t, exec (.atVbegin r) s = next t ∧ ended t r 6 [] ∧ onlyCmd s t r) ∧
      (x.building = none → x.vers.length < 4 → ∀ u, (running s r).allocVer tk new x = some u →
        (bit c.p1 0 = false → ∀ w, (withBuilding u tk new).fillVer tk new x true = w → settled w → kept w r → ∃ t y, exec (.atVbegin r) s = next t ∧ ended t r 0 [] ∧
          t.tab? tk = some y ∧ y.building = some new ∧ y.cur = x.cur ∧ y.seq = x.seq + 1 ∧ otherTables s t tk) ∧
        (bit c.p1 0 = true → x.backed = false → ∀ w, (withBuilding u tk new).copyVer tk x.cur new x = w → kept w r → ∃ t y, exec (.atVbegin r) s = next t ∧
          ended t r 0 [] ∧ t.tab? tk = some y ∧ y.building = some new ∧ y.cur = x.cur ∧ y.seq = x.seq + 1 ∧ otherTables s t tk) ∧
        (bit c.p1 0 = true → x.backed = true → ∀ w, (withBuilding u tk new).copyBacked tk new x = (w, .ok ()) → settled w → kept w r →
          ∃ t, exec (.atVbegin r) s = next t ∧ ended t r 0 [] ∧ t.tab? tk = w.tab? tk ∧ t.dram = w.dram) ∧
        (bit c.p1 0 = true → x.backed = true → ∀ w e, (withBuilding u tk new).copyBacked tk new x = (w, .error e) →
          ∃ t, exec (.atVbegin r) s = next t ∧ ended t r 0x12 (leBytes 8 e)))) ∧
    (starts s r 0x47 c → s.sealReady c (! s.hostMode (.atl 1)) = true →
      (s.hostMode (.atl 1) = false → x.sealed = false → ∀ n, x.building = some n →
        (x.backed = false → ∃ t, exec (.atVseal r) s = next t ∧ ended t r 0 [] ∧ t.tab? tk = some (switched x n) ∧ otherTables s t tk ∧ t.dram = s.dram) ∧
        (x.backed = true → s.gr.ronly = false → c.fua = false → ∀ u sl, State.flushTable tk (running s r) x.vers = (u, .ok sl) → settled u → kept u r →
          ∃ t, exec (.atVseal r) s = next t ∧ ended t r 0 [] ∧
            t.tab? tk = (u.tab? tk).map fun y => switched y n)) ∧
      (s.hostMode (.atl 1) = true → x.sealed = false → ∀ n u a b, x.building = some n → (running s r).rowCounts tk n x = (u, .ok (a, b)) → kept u r →
        ∃ t, exec (.atVseal r) s = next t ∧ answered t r (sub (leBytes 8 a ++ leBytes 8 b) 0 64) ∧
          t.tab? tk = (u.tab? tk).map fun y => { y with sealed := true }) ∧
      (x.building = none ∨ x.sealed = true → ∃ t, exec (.atVseal r) s = next t ∧ ended t r 2 [] ∧ onlyCmd s t r)) ∧
    (starts s r 0x48 c → s.sealReady c true = true →
      (s.hostMode (.atl 1) = false → ∃ t, exec (.atVswitch r) s = next t ∧ ended t r 8 [] ∧ onlyCmd s t r) ∧
      (s.hostMode (.atl 1) = true → x.sealed = true → x.backed = false → ∀ n, x.building = some n →
        ∃ t, exec (.atVswitch r) s = next t ∧ ended t r 0 [] ∧ t.tab? tk = some (switched x n) ∧ otherTables s t tk ∧ t.dram = s.dram) ∧
      (s.hostMode (.atl 1) = true → x.sealed = true → x.backed = true → s.gr.ronly = false → c.fua = false → ∀ n u sl, x.building = some n →
        State.flushTable tk (running s r) x.vers = (u, .ok sl) → settled u → kept u r →
        ∃ t, exec (.atVswitch r) s = next t ∧ ended t r 0 [] ∧ t.tab? tk = (u.tab? tk).map fun y => switched y n)) ∧
    (starts s r 0x4A c → ∃ t b, exec (.atStat r) s = next t ∧ answered t r b ∧ onlyCmd s t r)) ∧
  (∀ (s : State) (p tab ver : Nat) (x : Table), p < 16 → tab < 256 → s.tab? (tabKey p tab) = some x → s.media = true →
    (s.verHeld (tabKey p tab) ver = true → exec (.tableVersionFree p tab ver) s = next s) ∧
    (s.verHeld (tabKey p tab) ver = false → x.vers.any (·.no == ver) = true → ∃ t, exec (.tableVersionFree p tab ver) s = next t ∧
      t.tab? (tabKey p tab) = some { x with
        vers := x.vers.filter (·.no != ver), misses := x.misses.filter (·.1 != ver), syncOld := if ver = x.syncVer then some (x.ver ver) else x.syncOld } ∧ otherTables s t (tabKey p tab) ∧
      t.dram.alloc = s.dram.alloc.filter (fun a => ! (a.use == .atlas (verKey (tabKey p tab) ver) || a.use == .optState (verKey (tabKey p tab) ver)))))

/-- AT_SCATTER applies a write record to its row and counts a record beyond the table as dropped; AT_GATHER answers once every row is at hand, fails on an
unreadable row without PARTIAL_OK, and otherwise waits; an empty bag pools to zero; AT_PREFETCH asks for a row that is not resident; AT_SYNC keeps the
current version once the dirty rows are written; a prefetch waits behind the misses of its channel, and a row that comes from flash is installed and given
to the batches that wait for it (07 R279, R281 to R284, R286, R291 to R295, R297, R298). The conventions that the model chose for it are those of logs 69
and 78. -/
def Obligations.AtlasRowAccess : Prop :=
  ∀ (s : State) (r : CmdRef) (c : Cmd) (x : Table),
    let row := fld c.data 0 8 % 2 ^ 40
    let op := bits (fld c.data 0 8) 41 40
    (starts s r 0x42 c → s.tab? (tabKey r.part c.obj) = some x → c.work = [] → c.dlen = x.recBytes → (s.earlier c fun d => d.opcode == 0x42 && d.obj == c.obj) = false →
      let tk := tabKey r.part c.obj
      (x.rows ≤ row ∨ op = 3 ∨ (bit (fld c.data 0 8) 42 = true ∧ (x.building = none ∨ x.sealed = true)) → ∃ t, exec (.atScatter r) s = next t ∧ ended t r 0 (leBytes 4 1) ∧ onlyCmd s t r) ∧
      (row < x.rows → op ≠ 3 → ∀ no u old st sc miss el w,
        (bit (fld c.data 0 8) 42 = false ∧ no = x.cur) ∨ (bit (fld c.data 0 8) 42 = true ∧ x.sealed = false ∧ x.building = some no) →
        (running s r).rowForWrite tk no row = (u, some old, st) →
        scatterRow x op (fld c.data 8 4) (c.data.drop 16) old = (sc, miss, el) → u.putRow tk no row sc miss el old = w → kept w r →
        ∃ t, exec (.atScatter r) s = next t ∧ ended t r 0 (leBytes 4 0) ∧ t.dram = w.dram ∧ t.tab? tk = w.tab? tk) ∧
      (∀ sc data old, scatterRow x 2 sc data old = (slotScale old, true, slotElems x old) ∧ (scatterRow x 0 sc data old).2 = (false, sub data 0 (x.d * elemBytes x.fmt)))) ∧
    (starts s r 0x43 c → ∀ u v w n,
      let b := gBatch c.data
      let tk := tabKey r.part (fld c.data 0 1)
      ((running s r).routeCount c).gatherTake c = (u, w) →
      u.prefetch tk (c.work.headD 0) ((List.range b.nn).map fun i => fld c.data (b.nextAt + 8 * i) 8) = (v, n) → v.tab? tk = some x → kept v r →
      (w = [] → (b.partialOk = true ∨ ∀ i, i < b.ni → v.takenOf r i ≠ some none) → ∃ t body, exec (.atGather r) s = next t ∧ answered t r body ∧
        sub body 0 12 = leBytes 4 b.nb ++ leBytes 4 b.ni ++ leBytes 4 (c.work.headD 0) ∧ body.length = b.ansBytes x) ∧
      (w = [] → b.partialOk = false → (∃ i, i < b.ni ∧ v.takenOf r i = some none) → ∃ t i, exec (.atGather r) s = next t ∧ i < b.ni ∧ v.takenOf r i = some none ∧
        ended t r 0x12 (leBytes 8 (b.index c.data i))) ∧
      (w ≠ [] → exec (.atGather r) s = next (v.modCmd r fun d => { d with work := [c.work.headD 0, c.work.getD 1 0, w.dedup.length, n] }))) ∧
    (∀ pool seed, poolRow x pool seed [] = List.replicate x.d 0) ∧
    (starts s r 0x44 c → s.tab? (tabKey r.part c.obj) = some x → ∃ t, exec (.atPrefetch r) s = next t ∧ ended t r 0 [] ∧ t.gr = s.gr ∧ t.dram = s.dram ∧
      (x.backed = false → onlyCmd s t r) ∧
      (x.backed = true → c.dlen = 8 → fld c.data 0 8 < x.rows → x.sourceSlot x.cur (fld c.data 0 8) = none →
        (x.misses.any fun m => m.1 == x.cur && m.2.1 == fld c.data 0 8) = false →
        t.tab? (tabKey r.part c.obj) = some { x with misses := x.misses ++ [(x.cur, fld c.data 0 8, true)] })) ∧
    (starts s r 0x45 c → s.tab? (tabKey r.part c.obj) = some x → (s.earlier c fun d => d.opcode == 0x42 && d.obj == c.obj) = false →
      let tk := tabKey r.part c.obj
      (x.backed = false → ∃ t, exec (.atSync r) s = next t ∧ ended t r 0 [] ∧ onlyCmd s t r) ∧
      (x.backed = true → s.gr.ronly = false → ∀ u sl, State.flushTable tk (running s r) x.vers = (u, .ok sl) → settled u → c.fua = false → kept u r →
        ∃ t, exec (.atSync r) s = next t ∧ ended t r 0 [] ∧ t.dram = u.dram ∧ t.tab? tk = (u.tab? tk).map fun y => { y with
          syncVer := x.cur, syncFrozen := x.frozen, syncOld := if y.syncVer = x.cur then y.syncOld else none }) ∧
      (x.backed = true → s.gr.ronly = false → ∀ u bad, State.flushTable tk (running s r) x.vers = (u, .error bad) → kept u r →
        ∃ t, exec (.atSync r) s = next t ∧ ended t r 0x12 (leBytes 8 bad))) ∧
    (∀ (p tab q no : Nat) (ahead : Bool) (o : ReadOutcome) (v : State), p < 16 → tab < 256 → s.tab? (tabKey p tab) = some x → s.media = true →
      (x.misses.find? fun m => m.2.1 == q) = some (no, q, ahead) →
      (ahead = true → s.missAt (x.place.getD (x.homeChan q) 0) = true → exec (.rowFlashFill p tab q o) s = next s) ∧
      ((ahead = true → s.missAt (x.place.getD (x.homeChan q) 0) = false) →
        let page := ((s.modTab (tabKey p tab) fun y => { y with
          misses := y.misses.filter (fun m => ! (m.1 == no && m.2.1 == q)), fills := y.fills + 1 }).modAtl fun a => { a with missCnt := satBv a.missCnt 1 }).flashPage
            (tabKey p tab) no x (x.rowPage q) (some o)
        (page = (v, none) → exec (.rowFlashFill p tab q o) s = next ((v.giveRow (tabKey p tab) no q none).tableGo (tabKey p tab))) ∧
        (∀ m w ok, page = (v, some m) → v.install (tabKey p tab) no q (rdBytes m (x.rowOff q) x.slotSize) = (w, ok) →
          exec (.rowFlashFill p tab q o) s =
            next ((w.giveRow (tabKey p tab) no q (some (rdBytes m (x.rowOff q) x.slotSize))).tableGo (tabKey p tab)))))

/-- AT_MIGRATE reports a row out of range, a target outside the placement set and a limit, begins a copy for an admissible record, and fails with status wrong
mode in hardware mode; a copy that matches its source comes into effect at the next sequence number, and otherwise is made again; slots out of effect for
every admitted batch are freed; the evaluation begins a replica of a hot row and starts the period again (07 R299, R308 to R312, R314). The conventions that
the model chose for it are those of log 78. -/
def Obligations.AtlasMoves : Prop :=
  (∀ (s : State) (r : CmdRef) (c : Cmd) (x : Table), starts s r 0x49 c → s.tab? (tabKey r.part c.obj) = some x →
    (s.earlier c fun d => d.opcode == 0x49 && d.obj == c.obj) = false →
    let tk := tabKey r.part c.obj
    let row := mgRow c.data 0
    (s.hostMode (.atl 0) = false → ∃ t, exec (.atMigrate r) s = next t ∧ ended t r 8 [] ∧ onlyCmd s t r) ∧
    (s.hostMode (.atl 0) = true → c.dlen = 16 →
      (x.rows ≤ row → ∃ t, exec (.atMigrate r) s = next t ∧ answered t r (leBytes 2 0x40) ∧ onlyCmd s t r) ∧
      (row < x.rows → mgTarget c.data 0 ∉ x.place → ∃ t, exec (.atMigrate r) s = next t ∧ answered t r (leBytes 2 0x41) ∧ onlyCmd s t r) ∧
      (∀ j u, row < x.rows → x.place.idxOf? (mgTarget c.data 0) = some j → mgOp c.data 0 ≠ 2 → ((x.copiesAt x.cur row x.seq).any (·.chan == j)) = false →
        (∀ st, (running s r).moveRefused x row j (mgOp c.data 0 == 0) = some st → ∃ t, exec (.atMigrate r) s = next t ∧ answered t r (leBytes 2 st) ∧ onlyCmd s t r) ∧
        ((running s r).moveRefused x row j (mgOp c.data 0 == 0) = none → (running s r).beginMove tk row j (mgOp c.data 0 == 0) (some r) 0 = (u, true) →
          exec (.atMigrate r) s = next (u.modCmd r fun d => { d with work := [] })) ∧
        ((running s r).moveRefused x row j (mgOp c.data 0 == 0) = none → (running s r).beginMove tk row j (mgOp c.data 0 == 0) (some r) 0 = (u, false) → kept u r →
          ∃ t, exec (.atMigrate r) s = next t ∧ answered t r (leBytes 2 0x44))) ∧
      (∀ j, row < x.rows → x.place.idxOf? (mgTarget c.data 0) = some j → mgOp c.data 0 = 2 → ((x.copiesAt x.cur row x.seq).drop 1).find? (·.chan == j) = none →
        ∃ t, exec (.atMigrate r) s = next t ∧ answered t r (leBytes 2 0) ∧ onlyCmd s t r))) ∧
  (∀ (s u v : State) (p tab row : Nat) (x z : Table) (m : Move) (b src : Bytes) (st : Put), p < 16 → tab < 256 → s.media = true →
    let tk := tabKey p tab
    s.tab? tk = some x → (x.moves.find? (·.row == row)) = some m → m.tries ≠ 0 → s.rdSlot tk x.cur x m.chan m.slot = (u, some b) →
    u.rowForWrite tk x.cur row = (v, some src, st) → v.tab? tk = some z →
    (slotRver b = slotRver src → m.cmd = none → z.vers.any (·.no == z.cur) = true →
      ∃ t y, exec (.migrationCopyDone p tab row) s = next t ∧ t.tab? tk = some y ∧ y.seq = z.seq + 1 ∧ y.cur = z.cur ∧ m ∉ y.moves ∧ otherTables v t tk ∧
        ∃ f ∈ (y.ver z.cur).fwd, f.row = row ∧ ({ chan := m.chan, slot := m.slot, on := some (z.seq + 1) } : Copy) ∈ f.copies) ∧
    (slotRver b ≠ slotRver src → m.tries < v.triesMax → ∃ t w ok, exec (.migrationCopyDone p tab row) s = next t ∧ v.copyRow tk m = (w, ok) ∧ t.dram = w.dram ∧
      t.tab? tk = (w.tab? tk).map fun y => { y with moves := y.moves.map fun e => if e == m then { m with tries := m.tries + 1 } else e })) ∧
  (∀ (s : State) (p tab row ch : Nat) (x : Table), p < 16 → tab < 256 → s.media = true → s.tab? (tabKey p tab) = some x → s.gathersOf (tabKey p tab) = [] →
    ∃ t y, exec (.copySlotFree p tab row ch) s = next t ∧ t.tab? (tabKey p tab) = some y ∧ y.cur = x.cur ∧ y.seq = x.seq ∧ otherTables s t (tabKey p tab) ∧
      ∀ v ∈ y.vers, ∀ f ∈ v.fwd, f.row = row → ∀ k ∈ f.copies, k.chan = ch → k.off = none) ∧
  (∀ (s : State) (p tab : Nat) (x : Table), p < 16 → tab < 256 → s.media = true → s.tab? (tabKey p tab) = some x →
    let tk := tabKey p tab
    let fresh (u : State) : State := u.modTab tk fun y => { y with occ := [], chanOcc := [], routed := y.routed - 2 ^ 20 }
    (s.hostMode (.atl 0) = true ∨ x.routed < 2 ^ 20 → exec (.hotRowEvaluation p tab) s = next s) ∧
    (s.hostMode (.atl 0) = false → 2 ^ 20 ≤ x.routed → (x.ver x.cur).fwd = [] →
      (x.occ = [] → exec (.hotRowEvaluation p tab) s = next (fresh s)) ∧
      (∀ row k j, x.occ = [(row, k)] → max 1 s.atl.rate.toNat < k → 1 ≤ s.atl.maxRepl.toNat → x.moves = [] → x.n = 2 → j < 2 → j ≠ x.homeChan row →
        s.moveRefused x row j false = none → exec (.hotRowEvaluation p tab) s = next (fresh (s.beginMove tk row j false none 0).1))))

/-! ### Updates -/

/-- UP_SETOPT sets the optimiser and is refused in an open step; UP_FREEZE freezes and releases exactly the rows of its records; UP_BEGIN opens a step bound to
the current versions; UP_GRAD's records are handled one by one, each applied or counted; UP_END reports and leaves the step open until its completion, which
closes it; SGD takes LR × (G + λ × W); a failed unit leaves service (08 R320 to R323, R326 to R332, R337, R338, R340, R348). The conventions that the model
chose for it are those of log 80. -/
def Obligations.Updates : Prop :=
  (∀ (s : State) (r : CmdRef) (c : Cmd) (x : Table),
    (starts s r 0x50 c → s.tab? (tabKey r.part (fld c.data 0 1)) = some x →
      let tk := tabKey r.part (fld c.data 0 1)
      let x' := { x with opt := optOf c.data, optGen := x.optGen + 1, moves := x.moves.map fun m => { m with tries := 0 } }
      let u := (running s r).freeAllocs fun a => x.vers.any fun v => a.use == .optState (verKey tk v.no)
      (s.inStep tk = true → ∃ t, exec (.upSetopt r) s = next t ∧ ended t r 0x23 [] ∧ onlyCmd s t r) ∧
      (s.inStep tk = false → u.allocStates tk x' (x.cur :: x.building.toList) = none → ∃ t, exec (.upSetopt r) s = next t ∧ ended t r 6 [] ∧ onlyCmd s t r) ∧
      (∀ v w, s.inStep tk = false → u.allocStates tk x' (x.cur :: x.building.toList) = some v →
        (x.cur :: x.building.toList).foldl (fun w no => w.zeroState tk no x') (v.modTab tk fun _ => x') = w → kept w r →
        ∃ t y, exec (.upSetopt r) s = next t ∧ ended t r 0 [] ∧ t.tab? tk = some y ∧ y.opt = optOf c.data ∧ y.cur = x.cur ∧ y.frozen = x.frozen ∧ otherTables s t tk)) ∧
    (starts s r 0x51 c → s.tab? (tabKey r.part c.obj) = some x → s.inStep (tabKey r.part c.obj) = false →
      (s.earlier c fun d => opensWith c.obj d || (d.opcode == 0x51 && d.obj == c.obj)) = false → x.frozen ≠ [] → (x.backed && s.gr.ronly) = false →
      ∀ fz drop, freezeRecs x.rows c.data (c.dlen / 16) 0 x.frozen 0 = (fz, drop) → ∃ t, exec (.upFreeze r) s = next t ∧ ended t r 0 (leBytes 4 drop) ∧
        t.tab? (tabKey r.part c.obj) = some { x with frozen := fz } ∧ otherTables s t (tabKey r.part c.obj) ∧ t.dram.mem = s.dram.mem)) ∧
  (∀ (l : List (Nat × Nat)) (a b n : Nat), a < b → l.Pairwise (fun e f => e.2 < f.1) → (∀ e ∈ l, e.1 < e.2) →
    (isFrozen (rangeAdd l a b) n = true ↔ isFrozen l n = true ∨ (a ≤ n ∧ n < b)) ∧ (isFrozen (rangeDel l a b) n = true ↔ isFrozen l n = true ∧ ¬ (a ≤ n ∧ n < b))) ∧
  (∀ (s : State) (r : CmdRef) (c : Cmd), starts s r 0x52 c →
    (s.earlier c fun d => (maskTabs c.data).contains d.obj && (d.opcode == 0x51 || d.opcode == 0x46 || d.opcode == 0x48 || (d.opcode == 0x47 && ! s.hostMode (.atl 1)))) = false →
    (running s r).upBeginCheck c = none →
    ((maskTabs c.data).any (fun n => s.inStep (tabKey r.part n)) = true → ∃ t, exec (.upBegin r) s = next t ∧ ended t r 0x23 [] ∧ onlyCmd s t r) ∧
    ((maskTabs c.data).any (fun n => s.inStep (tabKey r.part n)) = false → (s.upd.steps.filter fun e => e.2.part == r.part).length < 4 → bit (fld c.data 0 4) 0 = false →
      ∃ t st, exec (.upBegin r) s = next t ∧ ended t r 0 (leBytes 2 s.newHandle) ∧ t.step? s.newHandle = some st ∧ st.part = r.part ∧ st.clip = false ∧
        st.tabs = (maskTabs c.data).map (fun n => (n, ((s.tab? (tabKey r.part n)).map (·.cur)).getD 1)) ∧ (∀ h, h ≠ s.newHandle → t.step? h = s.step? h) ∧
        t.dram = s.dram ∧ t.atl = s.atl)) ∧
  (∀ (s : State) (r : CmdRef) (c : Cmd) (st : UpStep),
    (starts s r 0x53 c → s.step? c.obj = some st → ∀ os, (running s r).offsets st c = some os → os ≠ [] → ∃ t d, exec (.upGrad r) s = next t ∧ t.cmd? r = some d ∧
      d.phase = .running ∧ d.work = [0, 0, 0, 0, 0, 0] ++ os ∧ onlyCmd s t r) ∧
    (∀ o, r.part < 16 → r.qp < 64 → r.tag < 65536 → c.ref = r → s.cmd? r = some c → c.opcode = 0x53 → c.phase = .running → s.serves 0x53 = true →
      s.step? c.obj = some st → c.work = [0, 0, 0, 0, 0, 0, o] →
      (s.fate st c.data o = .dropped → ∃ t, exec (.gradientRecord r) s = next t ∧ ended t r 0 (leBytes 8 0 ++ leBytes 4 1 ++ zeros 12) ∧
        t.upd.dropCnt = satBv s.upd.dropCnt 1 ∧ t.dram = s.dram ∧ t.atl = s.atl) ∧
      (∀ tk no row g u, s.fate st c.data o = .good tk no row g → s.rowAhead st c (recTab c.data o) row = false → ((s.tab? tk).bind fun t => s.unitOf t row).isSome = true →
        st.clip = false → s.applyRec st tk no row f32one g none = (u, .applied) → u.cmd? r = some c →
        ∃ t, exec (.gradientRecord r) s = next t ∧ ended t r 0 (leBytes 8 1 ++ zeros 16) ∧ t.dram = u.dram ∧ t.atl = u.atl)) ∧
    (starts s r 0x54 c → s.step? c.obj = some st → (s.earlier c fun d => d.opcode == 0x53 && d.obj == c.obj) = false → st.clip = false ∨ bit c.p1 0 = true →
      ∃ t b, exec (.upEnd r) s = next t ∧ answered t r b ∧ b.length = 64 ∧ t.step? c.obj = some { st with ending := some r } ∧
        sub b 0 4 = leBytes 4 (c.obj + 65536 * (b2n ((fp32.dec (st.factor (st.gnorm s.free))).lt (.fin false 1 0)) + 2 * b2n (bit c.p1 0))) ∧
        t.dram = s.dram ∧ t.atl = s.atl)) ∧
  (∀ (s : State) (r : CmdRef) (h : Nat) (st : UpStep), (s.upd.steps.find? fun e => e.2.ending == some r) = some (h, st) →
    (s.upClose r).step? h = none ∧ (s.upClose r).upd.stepCnt = satBv s.upd.stepCnt 1 ∧ ∀ a ∈ (s.upClose r).dram.alloc, a.use ≠ .staging h) ∧
  (∀ (o : OptDesc) (lr t seed lam i : Nat) (g w : List Nat) (st : Bytes), o.opt = 1 → i < g.length → i < w.length →
    (o.delta lr t seed lam g w st).1.getD i 0 = f32mul lr (f32add (g.getD i 0) (f32mul lam (w.getD i 0)))) ∧
  (∀ (s : State) (u : Nat), u < 8 → s.alive 6 = true → s.upd.inSvc.getLsbD u = true → s.frz.evtEn = false → ∃ t, exec (.updateUnitFail u) s = next t ∧
    t.upd.inSvc.getLsbD u = false ∧ (∀ v, v ≠ u → t.upd.inSvc.getLsbD v = s.upd.inSvc.getLsbD v) ∧ (t.page (pageNo .upd)).evtSts.getLsbD 0 = true ∧
    t.host.cmds = s.host.cmds ∧ t.atl = s.atl ∧ t.dram = s.dram ∧ t.cores = s.cores)

namespace Sys2Proof.Claims

/-- Nothing else of the state is changed but the model and the outstanding command `r`. -/
def onlyModel (s t : State) (r : CmdRef) : Prop := onlyCmd s { t with mdl := s.mdl } r

/-- A model service context on core `c` has raised the route mark that the row consumes: the entry point, and the state without the mark (09 R369). -/
def marked (s : State) (c code leg : Nat) (e : MdEntry) (t : State) : Prop := c < 768 ∧ s.entryOn c = some e ∧ s.takeMark c code leg = some t

end Sys2Proof.Claims

/-! ### The resident model -/

/-- MD_LOAD turns STATE to loading once the package passes, and to ready once the pinned runs stand and the contexts exist, or back to none with its status;
MD_UNLOAD turns it to unloading, and the module frees everything once no earlier request is left; grants are given, replaced and revoked; retained KV is
dropped at once, or marked while a sequence uses it; MD_STAT answers (09 R353 to R357, R381). The conventions that the model chose for it are those of logs
26 and 93. -/
def Obligations.ModelResidence : Prop :=
  (∀ (s : State) (r : CmdRef) (c : Cmd), starts s r 0x60 c →
    let ns := nsKey r.part (fld c.data 0 2)
    let page := fld c.data 8 6
    let stream := fld c.data 16 4
    (s.mdl.st ≠ 0 → ∃ t, exec (.mdLoad r) s = next t ∧ ended t r 0x30 [] ∧ onlyCmd s t r) ∧
    (s.mdl.st = 0 → (s.ns? ns).isSome = true →
      (∀ t u, (running s r).readRange ns (page * 16384) 16384 = (t, .error u) → kept t r → ∃ w, exec (.mdLoad r) s = next w ∧ ended w r 0x11 (leBytes 8 u) ∧
        w.mdl = t.mdl ∧ w.dram = t.dram) ∧
      (∀ t u h secs m w, (running s r).readRange ns (page * 16384) 16384 = (t, .ok h) → headerBad h (t.clustersOf r.part).length = false →
        State.readSects ns page (sections h) t [1, 2, 3, 4, 6] = (u, .ok (some secs)) → u.parseModel r.part c.data h secs = some m →
        m.needs (secs.getD 1 []).length stream ≤ u.quota r.part →
        ({ u with mdl := m }.modDram fun d => { d with floor := mset 0 d.floor r.part stream }).poolSpread r.part (m.fixedBytes (secs.getD 1 []).length) .state (.model 0)
          (u.chansOf r.part) = some w → exec (.mdLoad r) s = next w ∧ w.mdl.st = 1 ∧ w.mdl.part = r.part ∧ mget 0 w.dram.floor r.part = stream))) ∧
  (∀ (s t : State) (r : CmdRef) (c : Cmd), r.part < 16 → r.qp < 64 → r.tag < 65536 → c.ref = r → s.cmd? r = some c → c.opcode = 0x60 → c.phase = .running →
    s.serves 0x60 = true →
    (∀ u, s.fetchPinned 0 s.mdl.runs = (t, none) → State.makeCtxs t.mdl.progs t.fillModel t.mdl.entries = some u → kept u r →
      ∃ w, exec (.mdLoad r) s = next w ∧ ended w r 0 [] ∧ w.mdl = { u.mdl with st := 2 } ∧ w.dram = u.dram) ∧
    (∀ f, s.fetchPinned 0 s.mdl.runs = (t, some f) → kept t r → ∃ w, exec (.mdLoad r) s = next w ∧ ended w r f.1 f.2 ∧ w.mdl.st = 0)) ∧
  (∀ (s : State) (r : CmdRef) (c : Cmd), s.mdl.st = 2 → s.mdl.part = r.part →
    (starts s r 0x61 c → ∃ t d, exec (.mdUnload r) s = next t ∧ t.mdl = { s.mdl with st := 4 } ∧ t.cmd? r = some d ∧ d.phase = .running ∧ onlyModel s t r) ∧
    (starts s r 0x62 c → c.obj < 16 → c.obj ≠ r.part → 0 < bits c.p1 23 16 → c.p1 < 2 ^ 24 → ∃ t, exec (.mdGrant r) s = next t ∧ ended t r 0 [] ∧ onlyModel s t r ∧
      t.mdl = { s.mdl with grants := s.mdl.grants.filter (·.part != c.obj) ++ [{ part := c.obj, mask := bits c.p1 15 0, weight := bits c.p1 23 16 }] }) ∧
    (starts s r 0x63 c → c.obj < 16 → ∃ t, exec (.mdRevoke r) s = next t ∧ ended t r 0 [] ∧ onlyModel s t r ∧
      t.mdl = { s.mdl with grants := s.mdl.grants.filter (·.part != c.obj) })) ∧
  (∀ s : State, s.mdl.st = 4 → s.serves 0x61 = true →
    let busy := s.host.cmds.any fun d => modelReq d && d.adm != 0 && (d.phase == .admitted || d.phase == .running)
    (busy = true → exec .unloadFinish s = next s) ∧
    (busy = false → ∃ t, exec .unloadFinish s = next t ∧ t.mdl.st = 0 ∧ t.mdl.entries = [] ∧ t.mdl.kept = [] ∧ t.mdl.nextHandle = s.mdl.nextHandle ∧
      (∀ a ∈ t.dram.alloc, (∀ i, a.use ≠ .run i) ∧ (∀ q i, a.use ≠ .kvRun q i) ∧ ∀ n, a.use ≠ .model n) ∧ (∀ d ∈ s.runningOf 0x61, ended t d.ref 0 []) ∧
      t.gr = s.gr ∧ t.dram.mem = s.dram.mem)) ∧
  (∀ (s : State) (r : CmdRef) (c : Cmd),
    (starts s r 0x68 c → ∃ t b, exec (.mdStat r) s = next t ∧ answered t r b ∧ onlyCmd s t r) ∧
    (starts s r 0x67 c →
      ((s.mdl.kept.find? fun k => k.handle == c.obj && k.part == r.part) = none → ∃ t, exec (.mdDropkv r) s = next t ∧ ended t r 0 [] ∧ onlyCmd s t r) ∧
      (∀ k, (s.mdl.kept.find? fun k => k.handle == c.obj && k.part == r.part) = some k →
        (k.user.isSome = true → ∃ t, exec (.mdDropkv r) s = next t ∧ ended t r 0 [] ∧ onlyModel s t r ∧
          t.mdl.kept = s.mdl.kept.map fun x => if x.handle == k.handle then { x with drop := true } else x) ∧
        (k.user = none → ∃ t, exec (.mdDropkv r) s = next t ∧ ended t r 0 [] ∧ (∀ x ∈ t.mdl.kept, x.handle ≠ c.obj) ∧ t.mdl.seqs = s.mdl.seqs ∧
          t.dram.mem = s.dram.mem))))

/-- A generate request waits, then takes a batch slot; the items of MD_ENCODE and MD_RANK queue in order; a step is formed, its area written in every cluster of
the entry, and STEP_TK posted; at STEP_DONE a decoding sequence has one token more, and a finished one leaves and is answered; BEGIN, DEMAND and RELEASE
fetch and free legs; a resident run's address is written and its token posted; a lost KV is rebuilt from the start (09 R370 to R372, R374, R376 to R378,
R384). The conventions that the model chose for it are those of logs 26 and 27. -/
def Obligations.ModelRequests : Prop :=
  (∀ (s : State) (r : CmdRef) (c : Cmd),
    (starts s r 0x64 c → exec (.mdGen r) s = next (running s r)) ∧
    (starts s r 0x65 c → ∃ t, exec (.mdEncode r) s = next t ∧ { t with mdl := s.mdl } = running s r ∧
      t.mdl.items.map (fun i => (i.ref, i.idx, i.data)) = s.mdl.items.map (fun i => (i.ref, i.idx, i.data)) ++ ((itemsOf c).zipIdx).map fun b => (r, b.2, b.1)) ∧
    (starts s r 0x66 c → ∃ t, exec (.mdRank r) s = next t ∧ { t with mdl := s.mdl } = running s r ∧
      t.mdl.items.map (fun i => (i.ref, i.idx, i.data)) = s.mdl.items.map (fun i => (i.ref, i.idx, i.data)) ++ ((itemsOf c).zipIdx).map fun b => (r, b.2, b.1))) ∧
  (∀ (s : State) (e : Nat) (x : MdEntry), e < 16 → s.mdEntry? e = some x → s.serves 0x64 = true → s.mdl.st = 2 →
    (s.genWaiting e = [] → exec (.sequenceEntry e) s = next s) ∧
    (∀ d u, s.genWaiting e = [d] → d.ref.part < 16 → mget 0 s.mdl.taken (e * 16 + d.ref.part) < s.mdl.weightOf d.ref.part → s.seqEnter x d = some u →
      exec (.sequenceEntry e) s = next u ∧ ∃ q, u.mdl.seqs = s.mdl.seqs ++ [q] ∧ q.id = s.mdl.nextSeq ∧ q.ref = d.ref ∧ q.entry = e ∧ q.gen = [] ∧
        q.prompt = (List.range (genTok d)).map fun i => fld d.data (64 + 4 * i) 4) ∧
    (∀ cx t a, x.ctx = some cx → s.mdl.formStep x ≠ [] → lget s.mdl.steps e = none → s.entryUp x = true → s.mdl.turn x = true →
      let slots := s.mdl.formStep x
      let stride := up64 x.resBytes
      let g := x.cores.headD 0
      s.poolAlloc s.mdl.part g (slots.length * stride + ((slots.filterMap fun k => k.item.map s.mdl.itemData).map fun d => up64 d.length).sum) .state (.model (e + 1)) = some t →
      t.dram.alloc.find? (·.use == .model (e + 1)) = some a →
      let base := 0x10000000000 + g * 0x80000000 + a.off
      let area := s.mdl.stepArea x slots base (base + slots.length * stride) stride
      ∃ z, exec (.genStepStart e) s = next (x.cores.foldl (fun z c => z.postCtx cx c x.stepTk 1) z) ∧
        lget z.mdl.steps e = some { slots := slots, result := base, stride := stride } ∧ z.mdl.seqs = s.mdl.seqs ∧
        ∀ k ∈ x.clus, ∀ i, i < area.length → rdByte (z.clu k).spm (x.stepArea + i) = area.getD i 0)) ∧
  (∀ (s t u : State) (c : Nat) (e : MdEntry) (p : StepRun) (y : StepSlot) (q : SeqSt) (res : Bytes), marked s c 0xFE04 0 e t → lget t.mdl.steps e.no = some p →
    p.slots = [y] → y.item = none → t.readResults p p.slots 0 = (u, some [res]) → u.mdl.items = [] → (∀ z ∈ u.mdl.seqs, z.stopped = false) →
    u.mdl.seqs.find? (·.id == y.seq) = some q →
    let q' := { q with filled := q.filled + y.toks.length, steps := q.steps + 1, gen := if y.kind = 0 ∨ y.kind = 2 then q.gen ++ [fld res 0 4] else q.gen }
    (q'.finished e.maxIn = none → ∃ z, exec (.stepDone c) s = next z ∧ lget z.mdl.steps e.no = none ∧ z.mdl.seqs.find? (·.id == y.seq) = some q' ∧
      mget 0 z.mdl.stepNo e.no = mget 0 u.mdl.stepNo e.no + 1 ∧ z.host = u.host) ∧
    (∀ why, q'.finished e.maxIn = some why → q.retain = false → kept u q.ref → ∃ z b, exec (.stepDone c) s = next z ∧ lget z.mdl.steps e.no = none ∧
      answered z q.ref b ∧ b.take 8 = leBytes 4 q'.gen.length ++ leBytes 4 why ∧ b.drop 64 = q'.gen.flatMap (leBytes 4) ∧ ∀ a ∈ z.mdl.seqs, a.id ≠ q.id)) ∧
  (∀ (s t : State) (c leg : Nat) (e : MdEntry) (v : Trav), lget t.mdl.travs e.no = some v →
    (marked s c 0xFE01 leg e t → ∃ z w, exec (.begin c leg) s = next z ∧ lget z.mdl.travs e.no = some w ∧ w.begun = true ∧ z.sched = t.sched ∧
      let l := (leg + 1) % max 1 (t.mdl.sheetOf e.no).legs
      (t.mdl.demandLeg e.no l = false → (t.mdl.sheetOf e.no).ents.any (·.leg == l) = true → w.legs.any (·.leg == l) = true)) ∧
    (marked s c 0xFE02 leg e t → ∃ z w, exec (.demand c leg) s = next z ∧ lget z.mdl.travs e.no = some w ∧ w.begun = v.begun ∧ z.sched = t.sched ∧
      ((t.mdl.sheetOf e.no).ents.any (·.leg == leg) = true → w.legs.any (·.leg == leg) = true)) ∧
    (marked s c 0xFE03 leg e t → ∃ z w, exec (.release c leg) s = next z ∧ lget z.mdl.travs e.no = some w ∧ w.begun = v.begun ∧ z.sched = t.sched ∧
      ∀ l ∈ w.legs, l.holders ≠ [] ∧ (l.leg = leg → c ∉ l.holders))) ∧
  (∀ (s : State) (e leg i cx : Nat) (x : MdEntry) (v : Trav) (ent : RouteEnt) (rn : Run) (a : Alloc), e < 16 → s.mdEntry? e = some x → lget s.mdl.travs e = some v →
    (s.mdl.sheetOf e).ents[i]? = some ent → s.serves 0x64 = true → ent.leg = leg → (v.legs.any fun l => l.leg == leg && l.due.contains i) = true →
    s.mdl.legFirst e v leg = true → s.mdl.runs[ent.run]? = some rn → x.ctx = some cx → s.dram.alloc.find? (·.use == .run ent.run) = some a →
    ∃ (u : State) (w : Trav), exec (.runFetchDone e leg i) s = next ((u.ctxPoke cx rn.chan ent.slot (leBytes 8 (0x10000000 + a.off))).postCtx cx rn.chan ent.tk 1) ∧
      lget u.mdl.travs e = some w ∧ (∀ l ∈ w.legs, l.leg = leg → i ∉ l.due) ∧ (∀ b ∈ u.dram.alloc, b.use = .run ent.run → b.cls = .pinned) ∧ u.cores = s.cores) ∧
  (∀ (s : State) (e slot : Nat) (q : SeqSt), e < 16 → (s.mdl.seqs.find? fun q => q.entry == e && q.slot == slot && q.lost) = some q → s.serves 0x64 = true →
    ∃ t, exec (.kvRebuild e slot) s = next t ∧ { t with mdl := s.mdl } = s ∧ t.mdl.rebuildCnt = satBv s.mdl.rebuildCnt 1 ∧
      t.mdl.seqs = s.mdl.seqs.map fun y => if y.id == q.id then { y with lost := false, filled := 0, rebuilt := y.rebuilt + 1 } else y)

/-! ### Memory integrity and repair -/

/-- A stored line reads back, and others are unaffected; an armed flip acts once; a frame or bank that is due is retired in hardware mode, and only reported in
host-assisted mode; the visit reads its line and moves the pass on; a spare takes a failed core's number, without one the core is withdrawn; a transparent
test leaves what was stored; a failed channel, stack, channel die or hub link leaves service (13 R541, R544, R549, R552, R558 to R562, R567, R568, R570,
R571, R573, R574). The conventions that the model chose for it are those of logs 47, 92 and 97. -/
def Obligations.Repair : Prop :=
  (∀ (s : State) (g l : Nat) (bs : Bytes), bs.length = 64 → g ∉ s.dram.withdrawn → frameKey g (l / 1024) ∉ s.dram.absent →
    (s.flipAt g l = false → ((s.putLine g l bs).getLine g l) = (s.putLine g l bs, some bs) ∧ (s.putLine g l bs).ecc = s.ecc) ∧
    (s.flipAt g l = true → (s.putLine g l bs).ecc.flipArmed = false ∧ (s.putLine g l bs).ecc.flipHit = true) ∧
    (∀ a, a < lineKey g l * 64 ∨ lineKey g l * 64 + 64 ≤ a → rdByte (s.putLine g l bs).dram.mem a = rdByte s.dram.mem a)) ∧
  (∀ (s : State) (g f b : Nat), g < 640 → f < 32768 → b < 64 → s.repairs = true → g ∉ s.dram.withdrawn →
    (frameKey g f ∉ s.dram.retired → s.frameDue g f = true → (g, f) ∉ s.dram.waitRetire → s.hostMode .ecc = true → ∃ t, exec (.frameRetire g f) s = next t ∧
      (t.page (pageNo .ecc)).evtSts.getLsbD 0 = true ∧ t.dram = s.dram) ∧
    (∀ lf t p, frameKey g f ∉ s.dram.retired → s.frameDue g f = true → s.hostMode .ecc = false → s.logFrame g f = some lf → s.takeDonor g = (t, some p) →
      ∃ z, exec (.frameRetire g f) s = next z ∧ frameKey g f ∈ z.dram.retired ∧ lget z.dram.frameMap (frameKey g lf) = some p) ∧
    (s.frameDue g f = false → (g, f) ∉ s.dram.waitRetire → exec (.frameRetire g f) s = next s) ∧
    (s.bankDue g b = true → (g, 32768 + b) ∉ s.dram.waitRetire → (s.dram.banks.any fun k => k / 64 == g) = false → s.hostMode .ecc = true → ∃ t, exec (.bankRetire g b) s = next t ∧
      (t.page (pageNo .ecc)).evtSts.getLsbD 0 = true ∧ t.dram = s.dram) ∧
    (∀ t ds, s.bankDue g b = true → (s.dram.banks.any fun k => k / 64 == g) = false → s.hostMode .ecc = false → State.takeDonors g 512 s [] = (t, some ds) →
      ∃ z, exec (.bankRetire g b) s = next z ∧ g * 64 + b ∈ z.dram.banks) ∧
    (s.bankDue g b = false → (g, 32768 + b) ∉ s.dram.waitRetire → exec (.bankRetire g b) s = next s)) ∧
  (∀ (s u : State) (g : Nat) (bs : Bytes), g < 640 → s.alive 6 = true → g ∉ s.dram.withdrawn → frameKey g ((s.stack (g / 32)).pos.toNat / 1024) ∉ s.dram.absent →
    s.getLine g (s.stack (g / 32)).pos.toNat = (u, some bs) →
    (g % 32 ≠ 31 → exec (.resurveyVisit g) s = next u) ∧
    (g % 32 = 31 → (s.stack (g / 32)).pos.toNat + 1 < 0x2000000 → ∃ t, exec (.resurveyVisit g) s = next t ∧
      (t.stack (g / 32)).pos = (u.stack (g / 32)).pos + 1 ∧ { t with hbm := u.hbm } = u)) ∧
  (∀ (s : State) (c : Nat), c < 768 → s.alive 6 = true → c ∉ s.ecc.coreWd → (s.core c).bound = false → lget s.fch.invs c = none → s.sameHost c = [c] →
    (mget 0 s.ecc.spare (dieOf c) ≠ 0 → ∃ t, exec (.coreFail c) s = next t ∧ mget 0 t.ecc.spare (dieOf c) = mget 0 s.ecc.spare (dieOf c) - 1 ∧
      t.ecc.coreWd = s.ecc.coreWd ∧ (t.page (pageNo (.core c))).evtSts.getLsbD 0 = true ∧ t.dram = s.dram ∧ (t.core c).arch = {} ∧ ∀ d, d ≠ c → t.core d = s.core d) ∧
    (mget 0 s.ecc.spare (dieOf c) = 0 → ∃ t, exec (.coreFail c) s = next t ∧ t.ecc.coreWd = s.ecc.coreWd ++ [c] ∧
      (t.page (pageNo (.core c))).evtSts.getLsbD 0 = true ∧ t.dram = s.dram ∧ (s.fch.runs = [] → t.cores = s.cores)) ∧
    (∀ n, s.asleep = false → n < spmSize c / 256 → (∀ i, i < 4 → mget 0 (s.core c).patch (spmBank c ((n * 4 + i) * 64)) < 4) →
      ∃ t, exec (.transparentTest c n) s = next t ∧ (∀ d, (t.core d).arch = (s.core d).arch) ∧ t.dram = s.dram ∧ t.ecc.coreWd = s.ecc.coreWd ∧
        t.ecc.pendRepair.length ≤ s.ecc.pendRepair.length + 1) ∧
    (∀ n, s.asleep = false → n < cspmSize (clusterOf c) / 256 →
      ∃ t, exec (.transparentTest c (spmSize c / 256 + n)) s = next t ∧ t.cores = s.cores ∧ t.dram = s.dram ∧ t.ecc.coreWd = s.ecc.coreWd ∧
        ∀ k, (t.clu k).spm = (s.clu k).spm)) ∧
  (∀ (s : State) (g n h d : Nat), s.alive 6 = true →
    (g < 640 → g ∉ s.dram.withdrawn → (((List.range 32).map (g / 32 * 32 + ·)).any fun k => k != g && ! s.dram.withdrawn.contains k) = true →
      ∃ t, exec (.channelWithdraw g) s = next t ∧ g ∈ t.dram.withdrawn ∧ t.poolShare g = 0) ∧
    (n < 20 → n ∉ s.dram.dead → ∃ t, exec (.stackOutOfService n) s = next t ∧
      n ∈ t.dram.dead ∧ (∀ k, k < 4 → mget 0 t.sched.map (n * 4 + k) = 16) ∧ ∀ k, k < 32 → n * 32 + k ∈ t.ecc.coreWd) ∧
    (n < 16 → ((List.range 8).map (n * 8 + ·)).all s.gr.deadChans.contains = false → ∃ t, exec (.channelDieFail n) s = next t ∧ ∀ k, k < 8 → n * 8 + k ∈ t.gr.deadChans) ∧
    (h < 2 → d < 40 → ∃ t, exec (.hubFail h (some d)) s = next t ∧ mget false t.sys.xbr (h * 64 + d) = false ∧
      (∀ k, k ≠ h * 64 + d → mget false t.sys.xbr k = mget false s.sys.xbr k) ∧ (t.page (pageNo (.xbr h))).evtSts.getLsbD 0 = true ∧ t.cores = s.cores ∧ t.dram = s.dram))

/-- The tests and requests of the ECC page: a write of address or mask disarms the flip; RAW_WRITE stores data and check bytes as the registers hold them, and
RAW_READ brings them back without decoding; ECC_RET_CMD reports wrong mode in hardware mode and retires in host-assisted mode (13 R552 to R555, R562). The
conventions that the model chose for it are those of logs 33 and 97. -/
def Obligations.EccTests : Prop :=
  ∀ (s : State) (w : Agent) (v : BitVec 32), agentOk w = true →
    (s.regsLive = true → s.mayTest w s.ecc.flipChan.toNat = true →
      exec (.eccFlipCtlArmed w v) s = next { s with ecc := { s.ecc with flipArmed := v.getLsbD 0, flipHit := s.ecc.flipHit && ! v.getLsbD 8 } } ∧
      exec (.eccFlipAddrWrite w false v) s = next { s with ecc := { s.ecc with flipArmed := false, flipLine := v.setWidth 25 } } ∧
      ∀ i, i < 18 → exec (.eccFlipMaskWrite w i v) s = next { s with ecc := { s.ecc with flipArmed := false, flipMask := mset 0 s.ecc.flipMask i v } }) ∧
    (s.regsLive = true → s.mayTest w (v.toNat % 1024) = true →
      exec (.eccFlipAddrWrite w true v) s = next { s with ecc := { s.ecc with flipArmed := false, flipChan := v.setWidth 10 } }) ∧
    (s.regsLive = true → s.mayTest w s.ecc.diagChan.toNat = true → s.diagLineOk = true →
      let k := lineKey s.ecc.diagChan.toNat s.ecc.diagLine.toNat
      (∃ t, exec (.rawWrite w) s = next t ∧ (∀ i b, i < 16 → b < 4 → rdByte t.dram.mem (k * 64 + 4 * i + b) = byteOf (mget 0 s.ecc.diag i) b) ∧
        (∀ a, a < k * 64 ∨ k * 64 + 64 ≤ a → rdByte t.dram.mem a = rdByte s.dram.mem a) ∧ (∀ j, j ≠ k → lget t.dram.bad j = lget s.dram.bad j) ∧
        { t with dram := { t.dram with mem := s.dram.mem, bad := s.dram.bad } } = s) ∧
      (lget s.dram.bad k = none → ∃ t, exec (.rawRead w) s = next t ∧ (∀ i, i < 16 → mget 0 t.ecc.diag i = w32 (rdLE s.dram.mem (k * 64 + 4 * i) 4)) ∧
        { t with ecc := { t.ecc with diag := s.ecc.diag, diagChk := s.ecc.diagChk } } = s) ∧
      (∀ b, lget s.dram.bad k = some b → ∃ t, exec (.rawRead w) s = next t ∧ (∀ i, i < 16 → mget 0 t.ecc.diag i = w32 (fld b.data (4 * i) 4)) ∧
        (∀ i, i < 2 → mget 0 t.ecc.diagChk i = w32 (fld b.chk (4 * i) 4)) ∧ { t with ecc := { t.ecc with diag := s.ecc.diag, diagChk := s.ecc.diagChk } } = s)) ∧
    (s.repairs = true → s.mayRetire w = true → v.getLsbD 0 = true →
      let g := bits s.ecc.retAddr.toNat 9 0
      (s.hostMode .ecc = false → exec (.eccRetCmdGo w v) s = next { s with ecc := { s.ecc with retResult := 3 } }) ∧
      (s.hostMode .ecc = true → bit s.ecc.retAddr.toNat 31 = false → ∃ t, exec (.eccRetCmdGo w v) s = next t ∧
        t.dram = (s.retireFrame g (bits s.ecc.retAddr.toNat 24 10)).1.dram ∧
        t.ecc.retResult = BitVec.ofNat 3 (s.retireFrame g (bits s.ecc.retAddr.toNat 24 10)).2))

namespace Sys2Proof.Claims

/-- Nothing changes but what the sideband answers last. -/
def replied (s : State) (b : Option Bytes) : State := { s with side := { s.side with reply := b } }

/-- Connection `k` has this from the responder, and nothing but the security engine and the free values has changed. -/
def answersOn (s t : State) (k : Conn) (b : SpdmBody) : Prop := t.sec.reply = some (k, b) ∧ { t with sec := s.sec, free := s.free } = s

end Sys2Proof.Claims

/-! ### Power, heat and freeze -/

/-- A power loss drops the link, stops the cores and keeps what is stored, with the buffer's dump; power-on counts and starts; mount makes the media ready and
drops the dump; a trip switches the rails off and is counted, and its release starts again; a freeze stops everything and keeps its state; a freeze exit
starts again (14 R591, R593, R594, R597, R598; 18 R689, R691, R694, R695, R697, R699). The conventions that the model chose for it are those of logs 48, 50,
82 and 88. -/
def Obligations.PowerAndFreeze : Prop :=
  (∀ s : State, s.sys.powered = true → s.host.wt = false → ∃ t, exec .powerLoss s = next t ∧ t.sys.powered = false ∧ t.sys.linkUp = false ∧ t.cores = [] ∧
    t.host.cmds = [] ∧ t.gr.map = s.gr.map ∧ t.gr.ns = s.gr.ns ∧ t.gr.dump = true ∧ t.gr.jdur = s.gr.jseq ∧ t.gr.losses = s.gr.losses + 1 ∧ t.stored = s.stored ∧
    t.fw.floor = s.fw.floor ∧ t.sec.owner = s.sec.owner ∧ t.sys.poc = s.sys.poc ∧ ∀ e ∈ t.atl.tabs, e.2.backed = true) ∧
  (∀ s : State,
    (s.sys.powered = true ∨ s.sys.tripped = true → exec .powerOn s = next s) ∧
    (s.sys.powered = false → s.sys.tripped = false → ∃ t, exec .powerOn s = next t ∧ t.sys.powered = true ∧ t.sys.poc = s.sys.poc + 1 ∧ t.gr.map = s.gr.map)) ∧
  (∀ s : State, s.alive 6 = true →
    (s.sys.mediaReady = true → exec .mediaReady s = next s) ∧
    (s.sys.mediaReady = false → s.host.wt = false → ∃ t, exec .mediaReady s = next t ∧ t.sys.mediaReady = true ∧ t.sec.keys = true ∧ t.gr.dump = false ∧
      t.gr.map = s.gr.map)) ∧
  (∀ (s : State) (n : Nat), n < 92 →
    (s.sys.powered = false → exec (.thermalTrip n) s = next s) ∧
    (s.sys.powered = true → s.sys.mediaReady = false → ∃ t, exec (.thermalTrip n) s = next t ∧ t.sys.powered = false ∧ t.sys.tripped = true ∧
      t.thm.trips = satBv s.thm.trips 1 ∧ t.thm.tripClass = sensorClass n ∧ t.cores = [] ∧ t.host.cmds = [])) ∧
  (∀ s : State,
    let limit : Int := if s.thm.tripClass = 0 then 380 else if s.thm.tripClass = 1 then 340 else 300
    (s.sys.tripped = true → (∀ n, n < 92 → sensorClass n = s.thm.tripClass → s.tempOf n ≤ limit) → ∃ t, exec .thermalTripRelease s = next t ∧ t.sys.powered = true ∧
      t.sys.tripped = false ∧ t.sys.poc = s.sys.poc + 1) ∧
    (∀ n, n < 92 → sensorClass n = s.thm.tripClass → limit < s.tempOf n → exec .thermalTripRelease s = next s)) ∧
  (∀ (s : State) (w : Agent), agentOk w = true → s.frz.frozen = false →
    (s.alive 5 = true → s.frz.pinEn = true → ∃ t, exec .freezeNAssert s = next t ∧ t.frz.frozen = true ∧ t.frz.cause = 1 ∧ t.frz.count = satBv s.frz.count 1 ∧
      t.host.cmds = [] ∧ t.sys.linkUp = false ∧ t.cores = s.cores ∧ t.clus = s.clus ∧ t.dram = s.dram ∧ t.gr = s.gr) ∧
    (s.alive 5 = true → s.frz.pinEn = false → exec .freezeNAssert s = next s) ∧
    (s.svyActs = true → ∃ t, exec (.frzCtlFreeze .surveyor) s = next t ∧ t.frz.frozen = true ∧ t.frz.cause = 2 ∧ t.cores = s.cores ∧ t.dram = s.dram ∧ t.gr = s.gr) ∧
    (w ≠ .surveyor → exec (.frzCtlFreeze w) s = next s) ∧
    exec .perstFreezeExit s = next s ∧ exec .exit s = next { s with port := { s.port with ir := 0x25, drive := false, dr := [false] } }) ∧
  (∀ s : State, s.sys.powered = true → s.frz.frozen = true → s.sys.mediaReady = false →
    (∃ t, exec .perstFreezeExit s = next t ∧ t.sys.powered = true ∧ t.sys.perstN = false ∧ t.sys.poc = s.sys.poc + 1 ∧ t.host.cmds = []) ∧
    (∃ t, exec .exit s = next t ∧ t.sys.powered = true ∧ t.sys.poc = s.sys.poc + 1 ∧ t.host.cmds = []))

/-- Readings and peaks are kept; a minute is counted in the bin of the hottest reading; a restart is counted and ends with an event; the effective cap is the
least of its sources; the brake sets G to GAP and its release lifts the limit; only the firmware writes the cap; a droop response starts, is counted and
ends; the governor lowers the cap by 25 W at a hot sensor and raises it once all are cool (14 R576 to R579, R580, R584, R588 to R590, R592). Where the
sideband answers: a dynamic address makes the module an I3C target and lifts ALERT_N; the endpoint ID is the one assigned; PLDM reads temperatures, the cap,
the power state and the oldest event, and writes the cap and the brake; elsewhere it does not answer (14 R599 to R601). The conventions that the model chose
for it are those of logs 51, 52 and 53. -/
def Obligations.SurveyorAndSideband : Prop :=
  ((∀ (s : State) (n : Nat) (q : BitVec 16), n < 92 → s.frz.frozen = false → s.sys.powered = true → ∃ t, exec (.sensorUpdate n q) s = next t ∧
     mget 0 t.svy.temp n = q ∧ (∀ k, k ≠ n → mget 0 t.svy.temp k = mget 0 s.svy.temp k) ∧
     (s.svy.restart = false → ∃ p, mfind t.svy.peak n = some p ∧ q.toInt ≤ p.toInt ∧ ∀ o, mfind s.svy.peak n = some o → o.toInt ≤ p.toInt) ∧
     (40 ≤ n → n < 60 → ((t.stack (n - 40)).hot = true ↔ 340 < q.toInt)) ∧ t.cores = s.cores ∧ t.dram = s.dram) ∧
   (∀ s : State, s.fbk.lost = [] → s.svyActs = true → ∃ t, exec .timeInBinTick s = next t ∧ t.sys.lastBin = s.sys.lastBin + 60000000 ∧
     t.sys.now = max s.sys.now (s.sys.lastBin + 60000000) ∧ mget 0 t.svy.bins (binOf (s.hottest 0)) = mget 0 s.svy.bins (binOf (s.hottest 0)) + 1 ∧
     mget 0 t.svy.bins (8 + binOf (s.hottest 1)) = mget 0 s.svy.bins (8 + binOf (s.hottest 1)) + 1 ∧
     mget 0 t.gr.minutes (nandBinOf (s.hottest 2)) = mget 0 s.gr.minutes (nandBinOf (s.hottest 2)) + 1 ∧ t.cores = s.cores ∧ t.dram = s.dram) ∧
   (∀ s : State, s.alive 2 = true →
     exec .lockstepMismatch s = next { s with svy := { s.svy with run := false, restart := true, byWatchdog := false, mismatch := satBv s.svy.mismatch 1 } } ∧
     exec .watchdogExpiry s = next { s with svy := { s.svy with run := false, restart := true, byWatchdog := true, wdt := satBv s.svy.wdt 1 } } ∧
     (s.svy.restart = true → s.fw.confirmed = true → ∃ t, exec .surveyorRestartEnd s = next t ∧ t.svy.run = true ∧ t.svy.restart = false ∧ t.svy.binWait = 0 ∧
       (t.page (pageNo .svy)).evtSts.getLsbD 0 = true ∧ t.fw = s.fw ∧ t.cores = s.cores) ∧
     (s.svy.restart = false → exec .surveyorRestartEnd s = next s)) ∧
   (∀ s : State, s.effCap.1 ≤ s.stateCap ∧ s.effCap.1 ≤ clampW s.pwr.capW.toNat ∧ s.effCap.1 ≤ s.pwr.thermalCap ∧
     (s.pwr.asserted = true → s.effCap.1 ≤ clampW s.pwr.brkLimit.toNat) ∧
     (s.effCap = (s.stateCap, 0) ∨ s.effCap = (clampW s.pwr.capW.toNat, 1) ∨ (s.pwr.asserted = true ∧ s.effCap = (clampW s.pwr.brkLimit.toNat, 2)) ∨
       s.effCap = (s.pwr.thermalCap, 3))) ∧
   (∀ (s : State) (w : Agent) (v : BitVec 32) (ns g : Nat), s.alive 3 = true → agentOk w = true → g < 640 →
     exec .pwrbrkNAssert s = next { s with sys := { s.sys with pwrbrkN := false }, pwr := { s.pwr with asserted := true, g := s.pwr.gapActs } } ∧
     (∃ t, exec .pwrbrkNRelease s = next t ∧ t.pwr.asserted = false ∧ t.sys.pwrbrkN = true ∧ 1 ≤ t.pwr.g.toNat ∧ t.pwr.g.toNat ≤ 16 ∧
       (t.effCap.1 = 1000 → t.pwr.g = 16) ∧ { t with pwr := s.pwr, sys := s.sys, free := s.free } = s) ∧
     (s.svyActs = true → ∃ t, exec (.pwrCapWWrite .surveyor v) s = next t ∧ t.pwr.capW = v.setWidth 11 ∧ { t with pwr := s.pwr, free := s.free } = s) ∧
     (w ≠ .surveyor → exec (.pwrCapWWrite w v) s = next s) ∧
     (s.pwr.droop = false → ∃ t, exec .droopTrip s = next t ∧ t.pwr.droop = true ∧ t.pwr.droopCnt = satBv s.pwr.droopCnt 1 ∧ { t with pwr := s.pwr, svy := s.svy } = s) ∧
     (s.pwr.droop = true → ∃ t, exec (.droopRelease ns) s = next t ∧ t.pwr.droop = false ∧ t.pwr.droopCnt = s.pwr.droopCnt ∧ t.cores = s.cores) ∧
     (s.pwr.droop = false → exec (.droopRelease ns) s = next s) ∧
     (s.alive 6 = true → s.asleep = true → ∃ t, exec (.windowSelfRefreshEntry g) s = next t ∧ g ∈ t.dram.selfRefresh ∧
       { t with dram := { t.dram with selfRefresh := s.dram.selfRefresh } } = s) ∧
     (s.asleep = false → exec (.windowSelfRefreshEntry g) s = next s)) ∧
   (∀ s : State, s.fbk.lost = [] → s.svyActs = true → s.alive 3 = true →
     (s.overs ≠ [] → ∃ t, exec .thermalGovernorTick s = next t ∧ t.pwr.thermalCap = max 300 (s.pwr.thermalCap - 25) ∧ t.pwr.riseTicks = 0 ∧ t.cores = s.cores) ∧
     (s.overs = [] → s.allCool = true → 9 ≤ s.pwr.riseTicks → ∃ t, exec .thermalGovernorTick s = next t ∧ t.pwr.thermalCap = min 1000 (s.pwr.thermalCap + 25) ∧
       t.pwr.riseTicks = 0 ∧ t.cores = s.cores) ∧
     (s.overs = [] → s.allCool = false → ∃ t, exec .thermalGovernorTick s = next t ∧ t.pwr.thermalCap = s.pwr.thermalCap ∧ t.pwr.riseTicks = 0 ∧ t.cores = s.cores))) ∧
  (∀ (s : State) (a : BitVec 7) (e : BitVec 8) (n : Nat) (v : BitVec 32) (on : Bool) (m : MctpMsg) (op : PldmOp),
     (s.sideUp = false → exec (.i3cDynamicAddress a) s = next s ∧ exec (.mctpControl m) s = next (replied s none) ∧ exec (.pldmPlatform op) s = next (replied s none)) ∧
     (s.sideUp = true →
       (∃ t, exec (.i3cDynamicAddress a) s = next t ∧ t.side.i3cAddr = some a ∧ t.sys.alertN = true ∧ { t with side := s.side, sys := s.sys } = s) ∧
       exec (.mctpControl (.setEid e)) s = next (replied { s with side := { s.side with eid := e } } (some [e])) ∧
       exec (.mctpControl .getEid) s = next (replied s (some [s.side.eid]))) ∧
     (s.sideUp = true → s.sys.recovery = false →
       (n < 92 → exec (.pldmPlatform (.readTemp n)) s = next (replied s (some (leBytes 2 (mget 0 s.svy.temp n).toNat)))) ∧
       exec (.pldmPlatform .readCap) s = next (replied s (some (leBytes 4 s.effCap.1))) ∧
       exec (.pldmPlatform .readPowerState) s = next (replied s (some [w8 s.host.power])) ∧
       (∀ c r, s.svy.alerts = c :: r → ∃ t, exec (.pldmPlatform .readEvent) s = next t ∧ t.side.reply = some (leBytes 2 c) ∧ t.svy.alerts = r ∧
         (r = [] → t.sys.alertN = true)) ∧
       (∃ t, exec (.pldmPlatform (.setCap v)) s = next t ∧ t.pwr.capW = BitVec.ofNat 11 (min 2047 v.toNat) ∧ t.side.reply = some [] ∧ t.cores = s.cores) ∧
       (∃ t, exec (.pldmPlatform (.setBrake v)) s = next t ∧ t.pwr.brkLimit = BitVec.ofNat 11 (min 2047 v.toNat) ∧ t.side.reply = some [] ∧ t.cores = s.cores) ∧
       exec (.pldmPlatform (.setDataEn on)) s = next (replied { s with frz := { s.frz with dataEn := on } } (some []))))

/-! ### Firmware and the boot flash -/

/-- Staging begins at FIRST, takes chunks in order, and at LAST is ready where the image verifies; FW_ACTIVATE starts the staged slot, or raises the floor; an
image is confirmed once and writes its format; PLDM requests do the same (15 R633 to R639, R641). The conventions that the model chose for it are those of
logs 41, 52, 54 and 81. -/
def Obligations.FirmwareUpdate : Prop :=
  (∀ (s : State) (r : CmdRef) (c : Cmd), s.bflFree = true →
    (starts s r 0x04 c →
      (s.fw.confirmed = false → ∃ t, exec (.fwStage r) s = next t ∧ ended t r 7 [] ∧ onlyCmd s t r) ∧
      (s.fw.confirmed = true → s.fw.stage ≠ 1 → bit c.p1 0 = false → ∃ t, exec (.fwStage r) s = next t ∧ ended t r 2 [] ∧ onlyCmd s t r) ∧
      (s.fw.confirmed = true → (s.fw.stage ≠ 1 ∨ s.fw.pldm = false) → bit c.p1 0 = true → c.p2 = 0 → c.data.length ≤ imageMax →
        (bit c.p1 1 = false → ∃ t, exec (.fwStage r) s = next t ∧ ended t r 0 [] ∧ t.fw.stage = 1 ∧ t.fw.staged = c.data.length ∧ t.fw.run = s.fw.run ∧ t.dram = s.dram) ∧
        (bit c.p1 1 = true → ((running s r).stageFirst false |>.stageBytes c.data).imageFault s.stageSlot = 0 → ∃ t, exec (.fwStage r) s = next t ∧ ended t r 0 [] ∧
          t.fw.stage = 2 ∧ t.fw.run = s.fw.run ∧ t.dram = s.dram))) ∧
    (starts s r 0x05 c →
      (c.obj = 0 → s.activateStatus = 0 → s.frz.evtEn = false → ∃ t, exec (.fwActivate r) s = next t ∧ ended t r 0 [] ∧ t.fw.run.map (·.slot) = some s.stageSlot ∧
        t.fw.confirmed = false ∧ t.fw.stage = 0 ∧ t.fw.fmt = s.fw.fmt ∧ t.dram = s.dram ∧ t.cores = s.cores) ∧
      (c.obj = 0 → s.activateStatus ≠ 0 → ∃ t, exec (.fwActivate r) s = next t ∧ ended t r s.activateStatus [] ∧ onlyCmd s t r) ∧
      (c.obj = 1 → s.fw.confirmed = true → s.frz.evtEn = false → ∃ t, exec (.fwActivate r) s = next t ∧ ended t r 0 [] ∧
        t.fw.floor = max s.fw.floor ((s.fw.run.map (·.svn)).getD 0) ∧ t.fw.run = s.fw.run ∧ t.dram = s.dram))) ∧
  (∀ (s : State) (i : Image), s.fw.run = some i → s.svyActs = true → s.sys.mediaReady = true →
    (s.fw.confirmed = false → ∃ t, exec .imageConfirm s = next t ∧ t.fw.confirmed = true ∧ t.fw.fmt = i.fmt ∧ t.fw.run = some i ∧ t.fw.floor = s.fw.floor ∧ t.cores = s.cores) ∧
    (s.fw.confirmed = true → exec .imageConfirm s = next s)) ∧
  (∀ (s : State) (d : Bytes), s.sideUp = true → s.bflFree = true →
    (s.fw.stage = 1 → exec .requestUpdate s = next (replied s (some [0x81]))) ∧
    (s.fw.stage ≠ 1 → s.fw.confirmed = true → exec .requestUpdate s =
      next (replied { s with fw := { s.fw with stage := 1, reason := 0, staged := 0, pldm := true } } (some [0x00]))) ∧
    (s.fw.stage = 1 → s.fw.pldm = true → s.fw.staged + d.length ≤ imageMax → ∃ t, exec (.pldmFirmwareData d) s = next t ∧ t.fw.staged = s.fw.staged + d.length ∧
      t.side.reply = some [0x00] ∧ t.fw.stage = 1) ∧
    (s.fw.stage = 1 → s.fw.pldm = true → s.sys.recovery = false → s.imageFault s.stageSlot = 0 → ∃ t, exec .applyComplete s = next t ∧ t.fw.stage = 2 ∧
      t.side.reply = some [0x00] ∧ t.bfl = s.bfl) ∧
    (s.fw.stage = 1 → s.fw.pldm = true → s.imageFault s.stageSlot ≠ 0 → ∃ t, exec .applyComplete s = next t ∧ t.fw.stage = 3 ∧ t.fw.reason = s.imageFault s.stageSlot ∧
      t.bfl = s.bfl) ∧
    (s.sys.recovery = false → s.activateStatus = 0 → ∃ t, exec .activateFirmware s = next t ∧ t.fw.run.map (·.slot) = some s.stageSlot ∧ t.fw.stage = 0 ∧
      t.side.reply = some [0x00]))

/-- The two keys in order unlock the boot flash and any other write cancels the sequence with SEQERR; the final data write starts a program of an erased word of
a valid sector, or an erase, whose sector is invalid until it ends; an erase is suspended and resumed; a read gives the stored word; a completed operation
has its effect (15 R625 to R630). The conventions that the model chose for it are those of logs 42 and 87. -/
def Obligations.BootFlash : Prop :=
  (∀ (s : State) (w : Agent) (ns at1 : Nat) (v : BitVec 32), s.svyActs = true →
    (agentOk w = true → w ≠ .surveyor → exec (.bflKey w ns v) s = next s ∧ exec (.bflProgram w ns v) s = next s ∧ exec (.bflErase w ns v) s = next s) ∧
    (s.bfl.seq = .idle → v.toNat % 65536 = 0x5A3C → exec (.bflKey .surveyor ns v) s = next { s with bfl := { s.bfl with seq := .key1 ns } }) ∧
    (s.bfl.seq = .idle → v.toNat % 65536 ≠ 0x5A3C → exec (.bflKey .surveyor ns v) s = next { s with bfl := { s.bfl with seq := .idle, seqErr := true } }) ∧
    (s.bfl.seq = .key1 at1 → v.toNat % 65536 = 0xC3A5 → ns ≤ at1 + 320 → exec (.bflKey .surveyor ns v) s = next { s with bfl := { s.bfl with seq := .unlocked ns } }) ∧
    (s.bfl.seq = .key1 at1 → v.toNat % 65536 ≠ 0xC3A5 ∨ at1 + 320 < ns → exec (.bflKey .surveyor ns v) s =
      next { s with bfl := { s.bfl with seq := .idle, seqErr := true } }) ∧
    (∀ at2, s.bfl.seq = .unlocked at2 ∨ s.bfl.seq = .key1 at2 → ∃ t, exec (.bflProgram .surveyor ns v) s = next t ∧ t.bfl.seq = .idle ∧ t.bfl.seqErr = true ∧
      t.bfl.words = s.bfl.words ∧ t.bfl.op = s.bfl.op) ∧
    (∀ at2, s.bfl.seq = .command at2 1 true true → ns ≤ at2 + 10000 → s.bfl.op = none → s.bfl.held = none → s.sectorValid (s.bfl.word.toNat / 8192) = true →
      10 ≤ s.bfl.word.toNat / 8192 → s.bflWord s.bfl.word.toNat = erasedWord → ∃ t, exec (.bflProgram .surveyor ns v) s = next t ∧
        t.bfl.op = some { erase := false, sector := s.bfl.word.toNat / 8192, word := s.bfl.word.toNat, value := v ++ s.bfl.data.setWidth 32 } ∧
        t.bfl.seq = .idle ∧ t.bfl.words = s.bfl.words ∧ { t with bfl := s.bfl } = s) ∧
    (∀ at2, s.bfl.seq = .command at2 1 true true → ns ≤ at2 + 10000 → s.sectorValid (s.bfl.word.toNat / 8192) = false → ∃ t, exec (.bflProgram .surveyor ns v) s = next t ∧
      t.bfl.opErr = true ∧ t.bfl.op = s.bfl.op ∧ t.bfl.words = s.bfl.words) ∧
    (∀ at2, s.bfl.seq = .command at2 2 true true → ns ≤ at2 + 10000 → s.bfl.op = none → s.bfl.held = none → 8 ≤ s.bfl.word.toNat / 8192 → v = 0 →
      s.bfl.data.setWidth 32 = (0 : BitVec 32) → ∃ t, exec (.bflErase .surveyor ns v) s = next t ∧ t.bfl.op = some { erase := true, sector := s.bfl.word.toNat / 8192 } ∧
        t.sectorValid (s.bfl.word.toNat / 8192) = false ∧ { t with bfl := s.bfl } = s)) ∧
  (∀ (s : State) (o : BflOp), s.svyActs = true → s.bfl.seq = .idle →
    (s.bfl.op = some o → o.erase = true → exec (.bflSuspend .surveyor) s = next { s with bfl := { s.bfl with op := none, held := some o } }) ∧
    (s.bfl.op = none → s.bfl.held = some o → exec (.bflResume .surveyor) s = next { s with bfl := { s.bfl with op := some o, held := none } }) ∧
    (s.bfl.op = none → s.bfl.held = none → s.bfl.unknown = [] → exec (.bflRead .surveyor) s = next { s with bfl := { s.bfl with rdata := s.bflWord s.bfl.word.toNat } })) ∧
  (∀ (s : State) (o : BflOp), s.sys.powered = true → s.frz.frozen = false → s.bfl.op = some o →
    (o.erase = true → ∃ t, exec .bflOperationComplete s = next t ∧ t.bfl.op = none ∧ t.sectorValid o.sector = true ∧
      (∀ i, i < 8191 → t.bflRaw (o.sector * 8192 + i) = erasedWord) ∧ { t with bfl := s.bfl } = s) ∧
    (o.erase = false → 10 ≤ o.word / 8192 → ∃ t, exec .bflOperationComplete s = next t ∧ t.bfl.op = none ∧ t.bflRaw o.word = o.value ∧
      (∀ k, k ≠ o.word → t.bflRaw k = s.bflRaw k) ∧ { t with bfl := s.bfl } = s)) ∧
  (∀ s : State, s.bfl.op = none → exec .bflOperationComplete s = next s)

/-! ### Security -/

/-- The responder agrees only on the algorithms of R609, serves only slot 0, and signs with the next HSS index or waits for its tree; a session has the owner
role only through the stored owner's key; the owner is stored over the sideband first and by the owner afterwards; a page of flash holds its unit encrypted
under the media key of its partition, and reads back with it; a crypto erase takes the key and leaves a partition's data reading as zeros; a clear with a
fresh nonce and a right token removes the records up to its number and enters the ledger; IDE keys are set only on their connection (15 R607, R609 to R612,
R615, R618, R619, R621, R623; 16 R663 to R665). The conventions that the model chose for it are those of logs 5, 52, 55 and 103. -/
def Obligations.Security : Prop :=
  (∀ (s : State) (k : Conn) (m : AlgSet) (slot level i : Nat) (nonce : Bytes), connOk k = true → s.connUp k = true →
    ((m.ecdsaP384 && m.sha384 && m.secp384r1 && m.aes256Gcm) = true → ∃ t b, exec (.negotiateAlgorithms k m) s = next t ∧ answersOn s t k (.data b) ∧ k ∈ t.sec.agreed) ∧
    ((m.ecdsaP384 && m.sha384 && m.secp384r1 && m.aes256Gcm) = false → ∃ t, exec (.negotiateAlgorithms k m) s = next t ∧ answersOn s t k (.error .invalidRequest) ∧
      k ∉ t.sec.agreed) ∧
    (k ∈ s.sec.agreed →
      (∃ t, exec (.getCertificate k 0) s = next t ∧ answersOn s t k (.data (Config.wire "CERTIFICATE" [s.chain]))) ∧
      (slot ≠ 0 → ∃ t u, exec (.getCertificate k slot) s = next t ∧ answersOn s t k (.error .invalidRequest) ∧ exec (.challenge k slot nonce) s = next u ∧
        answersOn s u k (.error .invalidRequest)) ∧
      (1 ≤ i → i ≤ 6 → ∃ t, exec (.getMeasurements k i false nonce) s = next t ∧ answersOn s t k (.data (Config.wire "MEASUREMENTS" [s.measurement i, nonce])))) ∧
    (k ∉ s.sec.agreed → ∃ t u, exec (.getCertificate k slot) s = next t ∧ answersOn s t k (.error .unexpectedRequest) ∧ exec (.getMeasurements k i false nonce) s = next u ∧
      answersOn s u k (.error .unexpectedRequest)) ∧
    (level ≤ 2 → ∃ t, exec (.hssCompanionRequest k level) s = next t ∧ answersOn s t k (.data (s.companion level))) ∧
    (∀ e, (s.sec.sigs.find? fun e => e.1 == k && e.2.1 == i) = some e → ∃ t, exec (.hssSignatureRequest k i) s = next t ∧ answersOn s t k (.data e.2.2)) ∧
    ((s.sec.sigs.find? fun e => e.1 == k && e.2.1 == i) = none → ∃ t, exec (.hssSignatureRequest k i) s = next t ∧ answersOn s t k (.error .invalidRequest))) ∧
  (∀ (s : State) (k : Conn) (nonce : Bytes) (m : KeyExch), connOk k = true → s.connUp k = true → k ∈ s.sec.agreed → s.sec.lmsNext < lmsIndices →
    (s.sec.tree = treeOf s.sec.lmsNext → ∃ t b, exec (.challenge k 0 nonce) s = next t ∧ t.sec.reply = some (k, .data b) ∧ t.sec.lmsNext = s.sec.lmsNext + 1 ∧
      t.sec.sigCnt = satBv s.sec.sigCnt 1 ∧ t.cores = s.cores ∧ t.dram = s.dram) ∧
    (s.sec.tree ≠ treeOf s.sec.lmsNext → s.sec.nextTree ≠ treeOf s.sec.lmsNext → ∃ t w, exec (.challenge k 0 nonce) s = next t ∧ t.sec.waiting = s.sec.waiting ++ [w] ∧
      w.conn = k ∧ t.sec.reply = s.sec.reply ∧ t.sec.lmsNext = s.sec.lmsNext) ∧
    (∃ t x, exec (.keyExchange k m) s = next t ∧ t.session? k = some x ∧ x.updates = 0 ∧ (x.owner = true ↔ m.mutualRoot ≠ none ∧ m.mutualRoot = s.sec.owner) ∧
      ∀ j, j ≠ k → t.session? j = s.session? j)) ∧
  (∀ s : State, s.alive 2 = true → s.sec.waiting = [] → ∃ t, exec .bottomLevelTreeBuilt s = next t ∧ { t with sec := s.sec } = s ∧ t.sec.lmsNext = s.sec.lmsNext ∧
    (s.sec.tree ≠ treeOf s.sec.lmsNext → s.sec.nextTree ≠ treeOf s.sec.lmsNext → t.sec.tree = treeOf s.sec.lmsNext) ∧
    (s.sec.tree = treeOf s.sec.lmsNext → t.sec.nextTree = treeOf s.sec.lmsNext + 1)) ∧
  (∀ (s : State) (k : Conn) (x : Session), connOk k = true → s.connUp k = true → s.session? k = some x →
    (∃ t b, exec (.heartbeat k) s = next t ∧ answersOn s t k (.data b) ∧ t.sec.sess = s.sec.sess) ∧
    (∃ t b, exec (.keyUpdate k) s = next t ∧ answersOn s t k (.data b) ∧ t.session? k = some { x with updates := x.updates + 1 }) ∧
    (∃ t n, exec (.clearNonce k) s = next t ∧ answersOn s t k (.data n) ∧ t.sec.nonces = s.sec.nonces ++ [{ conn := k, nonce := n, time := s.sys.now }])) ∧
  (∀ (s : State) (k : Conn) (key : Bytes), connOk k = true → s.connUp k = true →
    (s.sec.owner = none → k = .sideband → ∃ t, exec (.storeOwner k key) s = next t ∧ t.sec.owner = some key ∧ t.sec.reply = some (k, .data []) ∧ ∀ y ∈ t.sec.sess, y.owner = false) ∧
    (s.sec.owner = none → k ≠ .sideband → ∃ t, exec (.storeOwner k key) s = next t ∧ answersOn s t k (.error .invalidRequest) ∧ t.sec.owner = none) ∧
    (∀ o, s.sec.owner = some o → s.ownerSession k = true → ∃ t, exec (.storeOwner k key) s = next t ∧ t.sec.owner = some key ∧ ∀ y ∈ t.sec.sess, y.owner = false) ∧
    (∀ o, s.sec.owner = some o → s.ownerSession k = false → ∃ t, exec (.storeOwner k key) s = next t ∧ answersOn s t k (.error .invalidRequest) ∧ t.sec.owner = some o)) ∧
  (∀ (s : State) (k : Conn) (p : Nat), connOk k = true → s.connUp k = true → p < 16 →
    (s.ownerSession k = false → ∃ t, exec (.cryptoErase k p) s = next t ∧ answersOn s t k (.error .invalidRequest)) ∧
    (s.ownerSession k = true → s.media = true → ∃ t, exec (.cryptoErase k p) s = next t ∧ t.sec.reply = some (k, .data []) ∧
      mget 0 t.sec.mediaKey p = mget 0 s.sec.mediaKey p + 1 ∧ (∀ ns u, ns / 2 ^ 20 = p → u < 2 ^ 48 → t.entry? ns u = none) ∧
      (∀ ns u, ns / 2 ^ 20 ≠ p → u < 2 ^ 48 → t.entry? ns u = s.entry? ns u) ∧ t.gr.ns = s.gr.ns ∧
      ∀ pg : FPage, pg.ns / 2 ^ 20 = p → pg.key = mget 0 s.sec.mediaKey p → t.openPage pg pg.ns pg.unit =
        wrBytes [] 0 (Config.aesXts false (Config.mediaKey p (mget 0 s.sec.mediaKey p + 1)) (xtsTweak pg.ns pg.unit) pg.cells))) ∧
  (∀ (s t : State) (ns u handle carried a : Nat) (data : Mem) (dir : Option (Nat × Nat)) (reloc worn : Bool),
    s.programPage ns u data dir handle reloc carried worn = (t, some a) → ∃ pg, lget t.gr.pages a = some pg ∧ pg.ns = ns ∧ pg.unit = u ∧ t.openPage pg ns u = data ∧
      pg.cells = Config.aesXts true (Config.mediaKey (ns / 2 ^ 20) (mget 0 s.sec.mediaKey (ns / 2 ^ 20))) (xtsTweak ns u) (rdBytes data 0 16384)) ∧
  (∀ (s : State) (k : Conn) (nonce token : Bytes) (upto : BitVec 64), connOk k = true → s.connUp k = true → s.ownerSession k = true → s.sec.clears = [] →
    let good := s.sec.nonces.any fun x => x.conn == k && x.nonce == nonce && ! x.used && decide (s.sys.now ≤ x.time + 60000000)
    let right := (Config.hmac384 (((s.session? k).map (·.secret)).getD []) (nonce ++ leBytes 8 upto.toNat)).take 16
    (256 ≤ s.fbk.ledger.length → ∃ t, exec (.clear k nonce token upto) s = next t ∧ answersOn s t k (.error .ledgerFull)) ∧
    (s.fbk.ledger.length < 256 → good = false ∨ token ≠ right → ∃ t, exec (.clear k nonce token upto) s = next t ∧ answersOn s t k (.error .invalidRequest)) ∧
    (s.fbk.ledger.length < 256 → good = true → token = right → (∀ d ∈ s.host.cmds, d.opcode ≠ 0x0B) → ∃ t, exec (.clear k nonce token upto) s = next t ∧
      t.fbk.ledger.length = s.fbk.ledger.length + 1 ∧ (∀ e ∈ t.fbk.recs, e.1 ≤ upto.toNat → s.fbk.next ≤ e.1) ∧ t.sec.reply = some (k, .data []) ∧ t.sec.clears = [] ∧
      t.dram = s.dram ∧ t.cores = s.cores)) ∧
  (∀ (s : State) (k : Conn) (x : Session) (st set : Bool) (key : Bytes), connOk k = true → s.connUp k = true → s.session? k = some x →
    (k ≠ (if s.sys.switched then Conn.fm else Conn.doe 0) → ∃ t, exec (.ideKm k (.keyProg st set key)) s = next t ∧ answersOn s t k (.error .unexpectedRequest)) ∧
    (k = (if s.sys.switched then Conn.fm else Conn.doe 0) →
      (∃ t, exec (.ideKm k (.keyProg st set key)) s = next t ∧ answersOn s t k (.data []) ∧ (t.ide st).keyOf set = some key ∧ t.ide (! st) = s.ide (! st)) ∧
      (((s.ide st).keyOf set).isSome = true → ∃ t, exec (.ideKm k (.kSetGo st set)) s = next t ∧ answersOn s t k (.data []) ∧ (t.ide st).active = some set) ∧
      (∃ t, exec (.ideKm k (.kSetStop st)) s = next t ∧ answersOn s t k (.data []) ∧ (t.ide st).active = none)))

/-! ### The Field Book -/

/-- A record is appended under the next number, and only the number 262,144 before it goes; the page of the oldest records not yet programmed is programmed; an
FB_READ of the rolling area answers with the records noted at its admission, and takes them as exported with ACK; a HOST_TIME mark is noted at most once a
second for each partition (16 R642, R645, R648, R658 to R662). The conventions that the model chose for it are those of logs 44 and 89. -/
def Obligations.FieldBookRecords : Prop :=
  (∀ (f : FieldBook) (ha : Bool) (code toff : Nat) (payload : Bytes),
    (f.push ha code toff payload).next = f.next + 1 ∧ (f.push ha code toff payload).recs.getLast? = some (f.next, { code := code, loss := f.lossDue, toff := toff, payload := payload }) ∧
    (∀ e ∈ f.recs, e.1 + 262144 ≠ f.next → e ∈ (f.push ha code toff payload).recs) ∧ f.next < (f.push ha code toff payload).reserved) ∧
  (∀ (s : State) (page : Nat), s.alive 6 = true → s.fbk.ready = true →
    (∀ e, (s.fbk.recs.find? fun e => decide (s.fbk.programmed ≤ e.1)) = some e → e.1 / 16 % 16384 = page → exec (.fieldBookPageProgram page) s =
      next { s with fbk := { s.fbk with programmed := min s.fbk.next ((e.1 / 16 + 1) * 16) } }) ∧
    ((∀ e ∈ s.fbk.recs, e.1 < s.fbk.programmed) → exec (.fieldBookPageProgram page) s = next s)) ∧
  (∀ (s : State) (r : CmdRef) (c : Cmd), starts s r 0x0B c → c.obj = 0 → s.sec.clears = [] →
    let rs := s.fbk.recs.filter fun e => decide (c.work.getD 1 0 ≤ e.1) && decide (e.1 ≤ c.work.getD 2 0)
    (∀ a x rest, c.work.getD 3 0 ≠ 0 → rs = (a, x) :: rest → ∃ t b, exec (.fbRead r) s = next t ∧ answered t r b ∧ b.take 4 = leBytes 4 rs.length ∧
      sub b 8 8 = leBytes 8 a ∧ b.drop 64 = rs.flatMap (fun e => e.2.bytes e.1 false) ∧ t.fbk.recs = s.fbk.recs ∧
      (bit c.p1 16 = true → ∀ e ∈ rs, e.1 ∈ t.fbk.exported) ∧ (bit c.p1 16 = false → onlyCmd s t r)) ∧
    (c.work.getD 3 0 = 0 → ∃ t b, exec (.fbRead r) s = next t ∧ answered t r b ∧ b.length = 64 ∧ b.take 4 = zeros 4 ∧ t.fbk = s.fbk)) ∧
  (∀ (s : State) (r : CmdRef) (c : Cmd), starts s r 0x0A c →
    (mget 0 s.fbk.mark r.part ≠ 0 → s.sys.now + 1 < mget 0 s.fbk.mark r.part + 1000000 → ∃ t, exec (.hostTime r) s = next t ∧ ended t r 0 [] ∧ onlyCmd s t r) ∧
    (mget 0 s.fbk.mark r.part = 0 → s.frz.evtEn = false → ∃ t, exec (.hostTime r) s = next t ∧ ended t r 0 [] ∧ t.gr.markLast = c.p2 + 1 ∧
      mget 0 t.fbk.mark r.part = s.sys.now + 1 ∧ t.gr.map = s.gr.map ∧ t.cores = s.cores ∧ t.dram = s.dram))
end

