-- ==== Sys2Proof/Laws/Map.lean ====
section
/-! SUPPORT. Sparse tables and byte memories: reading after a change, and the canonical form that every operation keeps. -/

namespace Sys2Proof.Machine

variable {α : Type}

/-! ### Reading after a change -/

theorem mget_mins (d : α) (m : NMap α) (x y : Nat) (v : α) : mget d (mins x v m) y = if y = x then v else mget d m y := by
  induction m with
  | nil => simp [mins, mget]
  | cons e r ih =>
    obtain ⟨k, w⟩ := e
    simp only [mins]
    split
    · simp [mget]
    · split
      · subst_vars; simp only [mget]; split <;> simp_all
      · simp only [mget, ih]
        by_cases h1 : y = k <;> by_cases h2 : y = x <;> simp_all

theorem mget_mdel (d : α) (m : NMap α) (x y : Nat) : mget d (mdel x m) y = if y = x then d else mget d m y := by
  induction m with
  | nil => simp [mdel, mget]
  | cons e r ih =>
    obtain ⟨k, w⟩ := e
    simp only [mdel] at ih ⊢
    by_cases hk : k = x
    · subst hk; simp only [List.filter_cons, ne_eq, not_true, decide_false, mget]
      rw [if_neg (by simp), ih]; by_cases hy : y = k <;> simp [hy]
    · simp only [List.filter_cons, ne_eq, hk, not_false_iff, decide_true, if_true, mget]
      rw [ih]; by_cases h1 : y = k
      · subst h1; simp [hk]
      · simp [h1]

theorem mget_mset [DecidableEq α] (d : α) (m : NMap α) (x y : Nat) (v : α) : mget d (mset d m x v) y = if y = x then v else mget d m y := by
  unfold mset; split
  · next h => rw [h]; exact mget_mdel d m x y
  · exact mget_mins d m x y v

@[simp] theorem mget_mset_self [DecidableEq α] (d : α) (m : NMap α) (x : Nat) (v : α) : mget d (mset d m x v) x = v := by simp [mget_mset]

theorem mget_mset_of_ne [DecidableEq α] (d : α) (m : NMap α) {x y : Nat} (v : α) (h : y ≠ x) : mget d (mset d m x v) y = mget d m y := by
  simp [mget_mset, h]

theorem mget_mmod [DecidableEq α] (d : α) (m : NMap α) (x y : Nat) (f : α → α) :
    mget d (mmod d m x f) y = if y = x then f (mget d m x) else mget d m y := mget_mset d m x y _

/-! ### The canonical form -/

theorem mins_bound (a x : Nat) (v : α) (m : NMap α) (hx : a < x) (hm : ∀ e ∈ m, a < e.1) : ∀ e ∈ mins x v m, a < e.1 := by
  induction m with
  | nil => simp [mins, hx]
  | cons e r ih =>
    have hr := ih fun e he => hm e (List.mem_cons_of_mem _ he)
    have he := hm e (List.mem_cons_self ..)
    simp only [mins]; split
    · intro y hy; rcases List.mem_cons.mp hy with rfl | hy
      · exact hx
      · exact hm y hy
    · split
      · intro y hy; rcases List.mem_cons.mp hy with rfl | hy
        · exact hx
        · exact hm y (List.mem_cons_of_mem _ hy)
      · intro y hy; rcases List.mem_cons.mp hy with rfl | hy
        · exact he
        · exact hr y hy

theorem mins_mem (x : Nat) (v : α) (m : NMap α) : ∀ e ∈ mins x v m, e = (x, v) ∨ e ∈ m := by
  induction m with
  | nil => simp [mins]
  | cons e r ih =>
    simp only [mins]; split
    · intro y hy; simpa using hy
    · split
      · intro y hy; rcases List.mem_cons.mp hy with h | h
        · exact .inl h
        · exact .inr (List.mem_cons_of_mem _ h)
      · intro y hy; rcases List.mem_cons.mp hy with h | h
        · exact .inr (h ▸ List.mem_cons_self ..)
        · rcases ih y h with h | h
          · exact .inl h
          · exact .inr (List.mem_cons_of_mem _ h)

theorem mins_sorted (x : Nat) (v : α) (m : NMap α) (h : m.Pairwise fun a b => a.1 < b.1) :
    (mins x v m).Pairwise fun a b => a.1 < b.1 := by
  induction m with
  | nil => simp [mins]
  | cons e r ih =>
    obtain ⟨he, hr⟩ := List.pairwise_cons.mp h
    simp only [mins]; split
    · rename_i hx
      refine List.pairwise_cons.mpr ⟨?_, h⟩
      intro b hb; rcases List.mem_cons.mp hb with rfl | hb
      · exact hx
      · exact Nat.lt_trans hx (he b hb)
    · split
      · subst_vars; exact List.pairwise_cons.mpr ⟨he, hr⟩
      · refine List.pairwise_cons.mpr ⟨?_, ih hr⟩
        exact mins_bound e.1 x v r (by omega) he

theorem mwf_mins (d : α) (m : NMap α) (x : Nat) (v : α) (hv : v ≠ d) (h : mwf d m) : mwf d (mins x v m) :=
  ⟨mins_sorted x v m h.1, fun e he => by
    rcases mins_mem x v m e he with rfl | he
    · exact hv
    · exact h.2 e he⟩

theorem mwf_filter (d : α) (m : NMap α) (p : Nat × α → Bool) (h : mwf d m) : mwf d (m.filter p) :=
  ⟨h.1.filter p, fun e he => h.2 e (List.mem_filter.mp he).1⟩

theorem mwf_mset [DecidableEq α] (d : α) (m : NMap α) (x : Nat) (v : α) (h : mwf d m) : mwf d (mset d m x v) := by
  unfold mset; split
  · exact mwf_filter d m _ h
  · exact mwf_mins d m x v ‹_› h

theorem mwf_mmod [DecidableEq α] (d : α) (m : NMap α) (x : Nat) (f : α → α) (h : mwf d m) : mwf d (mmod d m x f) := mwf_mset d m x _ h

theorem mwf_mclear (d : α) (m : NMap α) (lo len : Nat) (h : mwf d m) : mwf d (mclear m lo len) := mwf_filter d m _ h

theorem mwf_mslice (d : α) (m : NMap α) (lo len : Nat) (h : mwf d m) : mwf d (mslice m lo len) := by
  refine ⟨?_, ?_⟩
  · refine List.pairwise_map.mpr ?_
    have hf := h.1.filter (fun e => decide (lo ≤ e.1) && decide (e.1 < lo + len))
    refine hf.imp_of_mem fun {a b} ha _ hab => ?_
    have := (List.mem_filter.mp ha).2
    simp only [Bool.and_eq_true, decide_eq_true_eq] at this
    omega
  · intro e he
    obtain ⟨x, hx, rfl⟩ := List.mem_map.mp he
    exact h.2 x (List.mem_filter.mp hx).1

theorem mwf_mpaste (d : α) (m n : NMap α) (lo len : Nat) (hm : mwf d m) (hn : mwf d n) : mwf d (mpaste m lo len n) := by
  have step : ∀ (l : NMap α) (acc : NMap α), (∀ e ∈ l, e.2 ≠ d) → mwf d acc →
      mwf d (l.foldl (fun acc e => mins (lo + e.1) e.2 acc) acc) := by
    intro l
    induction l with
    | nil => intro acc _ h; exact h
    | cons e r ih =>
      intro acc hl h
      exact ih _ (fun x hx => hl x (List.mem_cons_of_mem _ hx)) (mwf_mins d acc _ _ (hl e (List.mem_cons_self ..)) h)
  exact step _ _ (fun e he => hn.2 e (List.mem_filter.mp he).1) (mwf_mclear d m lo len hm)

/-! ### Byte memories -/

theorem rdByte_wrByte (m : Mem) (a b : Nat) (v : Byte) : rdByte (wrByte m a v) b = if b = a then v else rdByte m b := mget_mset 0 m a b v

/-- What a string of bytes written at an address leaves: its own bytes there, and every other byte as it was. -/
theorem rdByte_wrBytes (m : Mem) (a : Nat) (bs : Bytes) (b : Nat) :
    rdByte (wrBytes m a bs) b = if a ≤ b ∧ b < a + bs.length then bs.getD (b - a) 0 else rdByte m b := by
  induction bs generalizing m a with
  | nil => simp [wrBytes]
  | cons x r ih =>
    simp only [wrBytes, ih, rdByte_wrByte, List.length_cons]
    by_cases h : b = a
    · subst h; simp
    · by_cases h2 : a + 1 ≤ b ∧ b < a + 1 + r.length
      · rw [if_pos h2, if_pos (by omega)]
        obtain ⟨k, hk⟩ : ∃ k, b - a = k + 1 := ⟨b - a - 1, by omega⟩
        rw [hk, List.getD_cons_succ, show b - (a + 1) = k by omega]
      · rw [if_neg h2, if_neg h, if_neg (by omega)]

theorem wf_wrByte (m : Mem) (a : Nat) (v : Byte) (h : Memory.wf m) : Memory.wf (wrByte m a v) := mwf_mset 0 m a v h

theorem wf_wrBytes (m : Mem) (a : Nat) (bs : Bytes) (h : Memory.wf m) : Memory.wf (wrBytes m a bs) := by
  induction bs generalizing m a with
  | nil => exact h
  | cons x r ih => exact ih _ _ (wf_wrByte m a x h)

theorem wf_wrLE (m : Mem) (a n v : Nat) (h : Memory.wf m) : Memory.wf (wrLE m a n v) := wf_wrBytes m a _ h

theorem length_rdBytes (m : Mem) (a n : Nat) : (rdBytes m a n).length = n := by
  induction n generalizing a with
  | zero => rfl
  | succ n ih => simp [rdBytes, ih]

theorem getD_rdBytes (m : Mem) (a n i : Nat) (h : i < n) : (rdBytes m a n).getD i 0 = rdByte m (a + i) := by
  induction n generalizing a i with
  | zero => omega
  | succ n ih =>
    cases i with
    | zero => simp [rdBytes]
    | succ i => simp only [rdBytes, List.getD_cons_succ]; rw [ih (a + 1) i (by omega)]; congr 1; omega

@[simp] theorem length_leBytes (n v : Nat) : (leBytes n v).length = n := by
  induction n generalizing v with
  | zero => rfl
  | succ n ih => simp [leBytes, ih]

end Sys2Proof.Machine
end

