-- ==== Sys2Proof/Laws/State.lean ====
section
/-! SUPPORT. Each field of the state after each operation that writes one: the field it writes, and the others, which it leaves. -/

namespace Sys2Proof.Machine

/-! ### modSys -/

@[simp] theorem modSys_sys (s : State) (f : Sys → Sys) : (s.modSys f).sys = f s.sys := rfl
@[simp] theorem modSys_pages (s : State) (f : Sys → Sys) : (s.modSys f).pages = s.pages := rfl
@[simp] theorem modSys_latch (s : State) (f : Sys → Sys) : (s.modSys f).latch = s.latch := rfl
@[simp] theorem modSys_cores (s : State) (f : Sys → Sys) : (s.modSys f).cores = s.cores := rfl
@[simp] theorem modSys_clus (s : State) (f : Sys → Sys) : (s.modSys f).clus = s.clus := rfl
@[simp] theorem modSys_dram (s : State) (f : Sys → Sys) : (s.modSys f).dram = s.dram := rfl
@[simp] theorem modSys_hbm (s : State) (f : Sys → Sys) : (s.modSys f).hbm = s.hbm := rfl
@[simp] theorem modSys_ecc (s : State) (f : Sys → Sys) : (s.modSys f).ecc = s.ecc := rfl
@[simp] theorem modSys_sched (s : State) (f : Sys → Sys) : (s.modSys f).sched = s.sched := rfl
@[simp] theorem modSys_host (s : State) (f : Sys → Sys) : (s.modSys f).host = s.host := rfl
@[simp] theorem modSys_fbk (s : State) (f : Sys → Sys) : (s.modSys f).fbk = s.fbk := rfl
@[simp] theorem modSys_gr (s : State) (f : Sys → Sys) : (s.modSys f).gr = s.gr := rfl
@[simp] theorem modSys_gz (s : State) (f : Sys → Sys) : (s.modSys f).gz = s.gz := rfl
@[simp] theorem modSys_fch (s : State) (f : Sys → Sys) : (s.modSys f).fch = s.fch := rfl
@[simp] theorem modSys_atl (s : State) (f : Sys → Sys) : (s.modSys f).atl = s.atl := rfl
@[simp] theorem modSys_upd (s : State) (f : Sys → Sys) : (s.modSys f).upd = s.upd := rfl
@[simp] theorem modSys_mdl (s : State) (f : Sys → Sys) : (s.modSys f).mdl = s.mdl := rfl
@[simp] theorem modSys_svy (s : State) (f : Sys → Sys) : (s.modSys f).svy = s.svy := rfl
@[simp] theorem modSys_pwr (s : State) (f : Sys → Sys) : (s.modSys f).pwr = s.pwr := rfl
@[simp] theorem modSys_thm (s : State) (f : Sys → Sys) : (s.modSys f).thm = s.thm := rfl
@[simp] theorem modSys_frz (s : State) (f : Sys → Sys) : (s.modSys f).frz = s.frz := rfl
@[simp] theorem modSys_port (s : State) (f : Sys → Sys) : (s.modSys f).port = s.port := rfl
@[simp] theorem modSys_side (s : State) (f : Sys → Sys) : (s.modSys f).side = s.side := rfl
@[simp] theorem modSys_bfl (s : State) (f : Sys → Sys) : (s.modSys f).bfl = s.bfl := rfl
@[simp] theorem modSys_fw (s : State) (f : Sys → Sys) : (s.modSys f).fw = s.fw := rfl
@[simp] theorem modSys_sec (s : State) (f : Sys → Sys) : (s.modSys f).sec = s.sec := rfl
@[simp] theorem modSys_stored (s : State) (f : Sys → Sys) : (s.modSys f).stored = s.stored := rfl
@[simp] theorem modSys_free (s : State) (f : Sys → Sys) : (s.modSys f).free = s.free := rfl
@[simp] theorem modSys_pending (s : State) (f : Sys → Sys) : (s.modSys f).pending = s.pending := rfl

/-! ### modHost -/

@[simp] theorem modHost_sys (s : State) (f : HostL → HostL) : (s.modHost f).sys = s.sys := rfl
@[simp] theorem modHost_pages (s : State) (f : HostL → HostL) : (s.modHost f).pages = s.pages := rfl
@[simp] theorem modHost_latch (s : State) (f : HostL → HostL) : (s.modHost f).latch = s.latch := rfl
@[simp] theorem modHost_cores (s : State) (f : HostL → HostL) : (s.modHost f).cores = s.cores := rfl
@[simp] theorem modHost_clus (s : State) (f : HostL → HostL) : (s.modHost f).clus = s.clus := rfl
@[simp] theorem modHost_dram (s : State) (f : HostL → HostL) : (s.modHost f).dram = s.dram := rfl
@[simp] theorem modHost_hbm (s : State) (f : HostL → HostL) : (s.modHost f).hbm = s.hbm := rfl
@[simp] theorem modHost_ecc (s : State) (f : HostL → HostL) : (s.modHost f).ecc = s.ecc := rfl
@[simp] theorem modHost_sched (s : State) (f : HostL → HostL) : (s.modHost f).sched = s.sched := rfl
@[simp] theorem modHost_host (s : State) (f : HostL → HostL) : (s.modHost f).host = f s.host := rfl
@[simp] theorem modHost_fbk (s : State) (f : HostL → HostL) : (s.modHost f).fbk = s.fbk := rfl
@[simp] theorem modHost_gr (s : State) (f : HostL → HostL) : (s.modHost f).gr = s.gr := rfl
@[simp] theorem modHost_gz (s : State) (f : HostL → HostL) : (s.modHost f).gz = s.gz := rfl
@[simp] theorem modHost_fch (s : State) (f : HostL → HostL) : (s.modHost f).fch = s.fch := rfl
@[simp] theorem modHost_atl (s : State) (f : HostL → HostL) : (s.modHost f).atl = s.atl := rfl
@[simp] theorem modHost_upd (s : State) (f : HostL → HostL) : (s.modHost f).upd = s.upd := rfl
@[simp] theorem modHost_mdl (s : State) (f : HostL → HostL) : (s.modHost f).mdl = s.mdl := rfl
@[simp] theorem modHost_svy (s : State) (f : HostL → HostL) : (s.modHost f).svy = s.svy := rfl
@[simp] theorem modHost_pwr (s : State) (f : HostL → HostL) : (s.modHost f).pwr = s.pwr := rfl
@[simp] theorem modHost_thm (s : State) (f : HostL → HostL) : (s.modHost f).thm = s.thm := rfl
@[simp] theorem modHost_frz (s : State) (f : HostL → HostL) : (s.modHost f).frz = s.frz := rfl
@[simp] theorem modHost_port (s : State) (f : HostL → HostL) : (s.modHost f).port = s.port := rfl
@[simp] theorem modHost_side (s : State) (f : HostL → HostL) : (s.modHost f).side = s.side := rfl
@[simp] theorem modHost_bfl (s : State) (f : HostL → HostL) : (s.modHost f).bfl = s.bfl := rfl
@[simp] theorem modHost_fw (s : State) (f : HostL → HostL) : (s.modHost f).fw = s.fw := rfl
@[simp] theorem modHost_sec (s : State) (f : HostL → HostL) : (s.modHost f).sec = s.sec := rfl
@[simp] theorem modHost_stored (s : State) (f : HostL → HostL) : (s.modHost f).stored = s.stored := rfl
@[simp] theorem modHost_free (s : State) (f : HostL → HostL) : (s.modHost f).free = s.free := rfl
@[simp] theorem modHost_pending (s : State) (f : HostL → HostL) : (s.modHost f).pending = s.pending := rfl

/-! ### modFbk -/

@[simp] theorem modFbk_sys (s : State) (f : FieldBook → FieldBook) : (s.modFbk f).sys = s.sys := rfl
@[simp] theorem modFbk_pages (s : State) (f : FieldBook → FieldBook) : (s.modFbk f).pages = s.pages := rfl
@[simp] theorem modFbk_latch (s : State) (f : FieldBook → FieldBook) : (s.modFbk f).latch = s.latch := rfl
@[simp] theorem modFbk_cores (s : State) (f : FieldBook → FieldBook) : (s.modFbk f).cores = s.cores := rfl
@[simp] theorem modFbk_clus (s : State) (f : FieldBook → FieldBook) : (s.modFbk f).clus = s.clus := rfl
@[simp] theorem modFbk_dram (s : State) (f : FieldBook → FieldBook) : (s.modFbk f).dram = s.dram := rfl
@[simp] theorem modFbk_hbm (s : State) (f : FieldBook → FieldBook) : (s.modFbk f).hbm = s.hbm := rfl
@[simp] theorem modFbk_ecc (s : State) (f : FieldBook → FieldBook) : (s.modFbk f).ecc = s.ecc := rfl
@[simp] theorem modFbk_sched (s : State) (f : FieldBook → FieldBook) : (s.modFbk f).sched = s.sched := rfl
@[simp] theorem modFbk_host (s : State) (f : FieldBook → FieldBook) : (s.modFbk f).host = s.host := rfl
@[simp] theorem modFbk_fbk (s : State) (f : FieldBook → FieldBook) : (s.modFbk f).fbk = f s.fbk := rfl
@[simp] theorem modFbk_gr (s : State) (f : FieldBook → FieldBook) : (s.modFbk f).gr = s.gr := rfl
@[simp] theorem modFbk_gz (s : State) (f : FieldBook → FieldBook) : (s.modFbk f).gz = s.gz := rfl
@[simp] theorem modFbk_fch (s : State) (f : FieldBook → FieldBook) : (s.modFbk f).fch = s.fch := rfl
@[simp] theorem modFbk_atl (s : State) (f : FieldBook → FieldBook) : (s.modFbk f).atl = s.atl := rfl
@[simp] theorem modFbk_upd (s : State) (f : FieldBook → FieldBook) : (s.modFbk f).upd = s.upd := rfl
@[simp] theorem modFbk_mdl (s : State) (f : FieldBook → FieldBook) : (s.modFbk f).mdl = s.mdl := rfl
@[simp] theorem modFbk_svy (s : State) (f : FieldBook → FieldBook) : (s.modFbk f).svy = s.svy := rfl
@[simp] theorem modFbk_pwr (s : State) (f : FieldBook → FieldBook) : (s.modFbk f).pwr = s.pwr := rfl
@[simp] theorem modFbk_thm (s : State) (f : FieldBook → FieldBook) : (s.modFbk f).thm = s.thm := rfl
@[simp] theorem modFbk_frz (s : State) (f : FieldBook → FieldBook) : (s.modFbk f).frz = s.frz := rfl
@[simp] theorem modFbk_port (s : State) (f : FieldBook → FieldBook) : (s.modFbk f).port = s.port := rfl
@[simp] theorem modFbk_side (s : State) (f : FieldBook → FieldBook) : (s.modFbk f).side = s.side := rfl
@[simp] theorem modFbk_bfl (s : State) (f : FieldBook → FieldBook) : (s.modFbk f).bfl = s.bfl := rfl
@[simp] theorem modFbk_fw (s : State) (f : FieldBook → FieldBook) : (s.modFbk f).fw = s.fw := rfl
@[simp] theorem modFbk_sec (s : State) (f : FieldBook → FieldBook) : (s.modFbk f).sec = s.sec := rfl
@[simp] theorem modFbk_stored (s : State) (f : FieldBook → FieldBook) : (s.modFbk f).stored = s.stored := rfl
@[simp] theorem modFbk_free (s : State) (f : FieldBook → FieldBook) : (s.modFbk f).free = s.free := rfl
@[simp] theorem modFbk_pending (s : State) (f : FieldBook → FieldBook) : (s.modFbk f).pending = s.pending := rfl

/-! ### modSched -/

@[simp] theorem modSched_sys (s : State) (f : Sched → Sched) : (s.modSched f).sys = s.sys := rfl
@[simp] theorem modSched_pages (s : State) (f : Sched → Sched) : (s.modSched f).pages = s.pages := rfl
@[simp] theorem modSched_latch (s : State) (f : Sched → Sched) : (s.modSched f).latch = s.latch := rfl
@[simp] theorem modSched_cores (s : State) (f : Sched → Sched) : (s.modSched f).cores = s.cores := rfl
@[simp] theorem modSched_clus (s : State) (f : Sched → Sched) : (s.modSched f).clus = s.clus := rfl
@[simp] theorem modSched_dram (s : State) (f : Sched → Sched) : (s.modSched f).dram = s.dram := rfl
@[simp] theorem modSched_hbm (s : State) (f : Sched → Sched) : (s.modSched f).hbm = s.hbm := rfl
@[simp] theorem modSched_ecc (s : State) (f : Sched → Sched) : (s.modSched f).ecc = s.ecc := rfl
@[simp] theorem modSched_sched (s : State) (f : Sched → Sched) : (s.modSched f).sched = f s.sched := rfl
@[simp] theorem modSched_host (s : State) (f : Sched → Sched) : (s.modSched f).host = s.host := rfl
@[simp] theorem modSched_fbk (s : State) (f : Sched → Sched) : (s.modSched f).fbk = s.fbk := rfl
@[simp] theorem modSched_gr (s : State) (f : Sched → Sched) : (s.modSched f).gr = s.gr := rfl
@[simp] theorem modSched_gz (s : State) (f : Sched → Sched) : (s.modSched f).gz = s.gz := rfl
@[simp] theorem modSched_fch (s : State) (f : Sched → Sched) : (s.modSched f).fch = s.fch := rfl
@[simp] theorem modSched_atl (s : State) (f : Sched → Sched) : (s.modSched f).atl = s.atl := rfl
@[simp] theorem modSched_upd (s : State) (f : Sched → Sched) : (s.modSched f).upd = s.upd := rfl
@[simp] theorem modSched_mdl (s : State) (f : Sched → Sched) : (s.modSched f).mdl = s.mdl := rfl
@[simp] theorem modSched_svy (s : State) (f : Sched → Sched) : (s.modSched f).svy = s.svy := rfl
@[simp] theorem modSched_pwr (s : State) (f : Sched → Sched) : (s.modSched f).pwr = s.pwr := rfl
@[simp] theorem modSched_thm (s : State) (f : Sched → Sched) : (s.modSched f).thm = s.thm := rfl
@[simp] theorem modSched_frz (s : State) (f : Sched → Sched) : (s.modSched f).frz = s.frz := rfl
@[simp] theorem modSched_port (s : State) (f : Sched → Sched) : (s.modSched f).port = s.port := rfl
@[simp] theorem modSched_side (s : State) (f : Sched → Sched) : (s.modSched f).side = s.side := rfl
@[simp] theorem modSched_bfl (s : State) (f : Sched → Sched) : (s.modSched f).bfl = s.bfl := rfl
@[simp] theorem modSched_fw (s : State) (f : Sched → Sched) : (s.modSched f).fw = s.fw := rfl
@[simp] theorem modSched_sec (s : State) (f : Sched → Sched) : (s.modSched f).sec = s.sec := rfl
@[simp] theorem modSched_stored (s : State) (f : Sched → Sched) : (s.modSched f).stored = s.stored := rfl
@[simp] theorem modSched_free (s : State) (f : Sched → Sched) : (s.modSched f).free = s.free := rfl
@[simp] theorem modSched_pending (s : State) (f : Sched → Sched) : (s.modSched f).pending = s.pending := rfl

/-! ### modDram -/

@[simp] theorem modDram_sys (s : State) (f : Dram → Dram) : (s.modDram f).sys = s.sys := rfl
@[simp] theorem modDram_pages (s : State) (f : Dram → Dram) : (s.modDram f).pages = s.pages := rfl
@[simp] theorem modDram_latch (s : State) (f : Dram → Dram) : (s.modDram f).latch = s.latch := rfl
@[simp] theorem modDram_cores (s : State) (f : Dram → Dram) : (s.modDram f).cores = s.cores := rfl
@[simp] theorem modDram_clus (s : State) (f : Dram → Dram) : (s.modDram f).clus = s.clus := rfl
@[simp] theorem modDram_dram (s : State) (f : Dram → Dram) : (s.modDram f).dram = f s.dram := rfl
@[simp] theorem modDram_hbm (s : State) (f : Dram → Dram) : (s.modDram f).hbm = s.hbm := rfl
@[simp] theorem modDram_ecc (s : State) (f : Dram → Dram) : (s.modDram f).ecc = s.ecc := rfl
@[simp] theorem modDram_sched (s : State) (f : Dram → Dram) : (s.modDram f).sched = s.sched := rfl
@[simp] theorem modDram_host (s : State) (f : Dram → Dram) : (s.modDram f).host = s.host := rfl
@[simp] theorem modDram_fbk (s : State) (f : Dram → Dram) : (s.modDram f).fbk = s.fbk := rfl
@[simp] theorem modDram_gr (s : State) (f : Dram → Dram) : (s.modDram f).gr = s.gr := rfl
@[simp] theorem modDram_gz (s : State) (f : Dram → Dram) : (s.modDram f).gz = s.gz := rfl
@[simp] theorem modDram_fch (s : State) (f : Dram → Dram) : (s.modDram f).fch = s.fch := rfl
@[simp] theorem modDram_atl (s : State) (f : Dram → Dram) : (s.modDram f).atl = s.atl := rfl
@[simp] theorem modDram_upd (s : State) (f : Dram → Dram) : (s.modDram f).upd = s.upd := rfl
@[simp] theorem modDram_mdl (s : State) (f : Dram → Dram) : (s.modDram f).mdl = s.mdl := rfl
@[simp] theorem modDram_svy (s : State) (f : Dram → Dram) : (s.modDram f).svy = s.svy := rfl
@[simp] theorem modDram_pwr (s : State) (f : Dram → Dram) : (s.modDram f).pwr = s.pwr := rfl
@[simp] theorem modDram_thm (s : State) (f : Dram → Dram) : (s.modDram f).thm = s.thm := rfl
@[simp] theorem modDram_frz (s : State) (f : Dram → Dram) : (s.modDram f).frz = s.frz := rfl
@[simp] theorem modDram_port (s : State) (f : Dram → Dram) : (s.modDram f).port = s.port := rfl
@[simp] theorem modDram_side (s : State) (f : Dram → Dram) : (s.modDram f).side = s.side := rfl
@[simp] theorem modDram_bfl (s : State) (f : Dram → Dram) : (s.modDram f).bfl = s.bfl := rfl
@[simp] theorem modDram_fw (s : State) (f : Dram → Dram) : (s.modDram f).fw = s.fw := rfl
@[simp] theorem modDram_sec (s : State) (f : Dram → Dram) : (s.modDram f).sec = s.sec := rfl
@[simp] theorem modDram_stored (s : State) (f : Dram → Dram) : (s.modDram f).stored = s.stored := rfl
@[simp] theorem modDram_free (s : State) (f : Dram → Dram) : (s.modDram f).free = s.free := rfl
@[simp] theorem modDram_pending (s : State) (f : Dram → Dram) : (s.modDram f).pending = s.pending := rfl

/-! ### modGr -/

@[simp] theorem modGr_sys (s : State) (f : Grat → Grat) : (s.modGr f).sys = s.sys := rfl
@[simp] theorem modGr_pages (s : State) (f : Grat → Grat) : (s.modGr f).pages = s.pages := rfl
@[simp] theorem modGr_latch (s : State) (f : Grat → Grat) : (s.modGr f).latch = s.latch := rfl
@[simp] theorem modGr_cores (s : State) (f : Grat → Grat) : (s.modGr f).cores = s.cores := rfl
@[simp] theorem modGr_clus (s : State) (f : Grat → Grat) : (s.modGr f).clus = s.clus := rfl
@[simp] theorem modGr_dram (s : State) (f : Grat → Grat) : (s.modGr f).dram = s.dram := rfl
@[simp] theorem modGr_hbm (s : State) (f : Grat → Grat) : (s.modGr f).hbm = s.hbm := rfl
@[simp] theorem modGr_ecc (s : State) (f : Grat → Grat) : (s.modGr f).ecc = s.ecc := rfl
@[simp] theorem modGr_sched (s : State) (f : Grat → Grat) : (s.modGr f).sched = s.sched := rfl
@[simp] theorem modGr_host (s : State) (f : Grat → Grat) : (s.modGr f).host = s.host := rfl
@[simp] theorem modGr_fbk (s : State) (f : Grat → Grat) : (s.modGr f).fbk = s.fbk := rfl
@[simp] theorem modGr_gr (s : State) (f : Grat → Grat) : (s.modGr f).gr = f s.gr := rfl
@[simp] theorem modGr_gz (s : State) (f : Grat → Grat) : (s.modGr f).gz = s.gz := rfl
@[simp] theorem modGr_fch (s : State) (f : Grat → Grat) : (s.modGr f).fch = s.fch := rfl
@[simp] theorem modGr_atl (s : State) (f : Grat → Grat) : (s.modGr f).atl = s.atl := rfl
@[simp] theorem modGr_upd (s : State) (f : Grat → Grat) : (s.modGr f).upd = s.upd := rfl
@[simp] theorem modGr_mdl (s : State) (f : Grat → Grat) : (s.modGr f).mdl = s.mdl := rfl
@[simp] theorem modGr_svy (s : State) (f : Grat → Grat) : (s.modGr f).svy = s.svy := rfl
@[simp] theorem modGr_pwr (s : State) (f : Grat → Grat) : (s.modGr f).pwr = s.pwr := rfl
@[simp] theorem modGr_thm (s : State) (f : Grat → Grat) : (s.modGr f).thm = s.thm := rfl
@[simp] theorem modGr_frz (s : State) (f : Grat → Grat) : (s.modGr f).frz = s.frz := rfl
@[simp] theorem modGr_port (s : State) (f : Grat → Grat) : (s.modGr f).port = s.port := rfl
@[simp] theorem modGr_side (s : State) (f : Grat → Grat) : (s.modGr f).side = s.side := rfl
@[simp] theorem modGr_bfl (s : State) (f : Grat → Grat) : (s.modGr f).bfl = s.bfl := rfl
@[simp] theorem modGr_fw (s : State) (f : Grat → Grat) : (s.modGr f).fw = s.fw := rfl
@[simp] theorem modGr_sec (s : State) (f : Grat → Grat) : (s.modGr f).sec = s.sec := rfl
@[simp] theorem modGr_stored (s : State) (f : Grat → Grat) : (s.modGr f).stored = s.stored := rfl
@[simp] theorem modGr_free (s : State) (f : Grat → Grat) : (s.modGr f).free = s.free := rfl
@[simp] theorem modGr_pending (s : State) (f : Grat → Grat) : (s.modGr f).pending = s.pending := rfl

/-! ### modGz -/

@[simp] theorem modGz_sys (s : State) (f : Gaz → Gaz) : (s.modGz f).sys = s.sys := rfl
@[simp] theorem modGz_pages (s : State) (f : Gaz → Gaz) : (s.modGz f).pages = s.pages := rfl
@[simp] theorem modGz_latch (s : State) (f : Gaz → Gaz) : (s.modGz f).latch = s.latch := rfl
@[simp] theorem modGz_cores (s : State) (f : Gaz → Gaz) : (s.modGz f).cores = s.cores := rfl
@[simp] theorem modGz_clus (s : State) (f : Gaz → Gaz) : (s.modGz f).clus = s.clus := rfl
@[simp] theorem modGz_dram (s : State) (f : Gaz → Gaz) : (s.modGz f).dram = s.dram := rfl
@[simp] theorem modGz_hbm (s : State) (f : Gaz → Gaz) : (s.modGz f).hbm = s.hbm := rfl
@[simp] theorem modGz_ecc (s : State) (f : Gaz → Gaz) : (s.modGz f).ecc = s.ecc := rfl
@[simp] theorem modGz_sched (s : State) (f : Gaz → Gaz) : (s.modGz f).sched = s.sched := rfl
@[simp] theorem modGz_host (s : State) (f : Gaz → Gaz) : (s.modGz f).host = s.host := rfl
@[simp] theorem modGz_fbk (s : State) (f : Gaz → Gaz) : (s.modGz f).fbk = s.fbk := rfl
@[simp] theorem modGz_gr (s : State) (f : Gaz → Gaz) : (s.modGz f).gr = s.gr := rfl
@[simp] theorem modGz_gz (s : State) (f : Gaz → Gaz) : (s.modGz f).gz = f s.gz := rfl
@[simp] theorem modGz_fch (s : State) (f : Gaz → Gaz) : (s.modGz f).fch = s.fch := rfl
@[simp] theorem modGz_atl (s : State) (f : Gaz → Gaz) : (s.modGz f).atl = s.atl := rfl
@[simp] theorem modGz_upd (s : State) (f : Gaz → Gaz) : (s.modGz f).upd = s.upd := rfl
@[simp] theorem modGz_mdl (s : State) (f : Gaz → Gaz) : (s.modGz f).mdl = s.mdl := rfl
@[simp] theorem modGz_svy (s : State) (f : Gaz → Gaz) : (s.modGz f).svy = s.svy := rfl
@[simp] theorem modGz_pwr (s : State) (f : Gaz → Gaz) : (s.modGz f).pwr = s.pwr := rfl
@[simp] theorem modGz_thm (s : State) (f : Gaz → Gaz) : (s.modGz f).thm = s.thm := rfl
@[simp] theorem modGz_frz (s : State) (f : Gaz → Gaz) : (s.modGz f).frz = s.frz := rfl
@[simp] theorem modGz_port (s : State) (f : Gaz → Gaz) : (s.modGz f).port = s.port := rfl
@[simp] theorem modGz_side (s : State) (f : Gaz → Gaz) : (s.modGz f).side = s.side := rfl
@[simp] theorem modGz_bfl (s : State) (f : Gaz → Gaz) : (s.modGz f).bfl = s.bfl := rfl
@[simp] theorem modGz_fw (s : State) (f : Gaz → Gaz) : (s.modGz f).fw = s.fw := rfl
@[simp] theorem modGz_sec (s : State) (f : Gaz → Gaz) : (s.modGz f).sec = s.sec := rfl
@[simp] theorem modGz_stored (s : State) (f : Gaz → Gaz) : (s.modGz f).stored = s.stored := rfl
@[simp] theorem modGz_free (s : State) (f : Gaz → Gaz) : (s.modGz f).free = s.free := rfl
@[simp] theorem modGz_pending (s : State) (f : Gaz → Gaz) : (s.modGz f).pending = s.pending := rfl

/-! ### modAtl -/

@[simp] theorem modAtl_sys (s : State) (f : AtlasS → AtlasS) : (s.modAtl f).sys = s.sys := rfl
@[simp] theorem modAtl_pages (s : State) (f : AtlasS → AtlasS) : (s.modAtl f).pages = s.pages := rfl
@[simp] theorem modAtl_latch (s : State) (f : AtlasS → AtlasS) : (s.modAtl f).latch = s.latch := rfl
@[simp] theorem modAtl_cores (s : State) (f : AtlasS → AtlasS) : (s.modAtl f).cores = s.cores := rfl
@[simp] theorem modAtl_clus (s : State) (f : AtlasS → AtlasS) : (s.modAtl f).clus = s.clus := rfl
@[simp] theorem modAtl_dram (s : State) (f : AtlasS → AtlasS) : (s.modAtl f).dram = s.dram := rfl
@[simp] theorem modAtl_hbm (s : State) (f : AtlasS → AtlasS) : (s.modAtl f).hbm = s.hbm := rfl
@[simp] theorem modAtl_ecc (s : State) (f : AtlasS → AtlasS) : (s.modAtl f).ecc = s.ecc := rfl
@[simp] theorem modAtl_sched (s : State) (f : AtlasS → AtlasS) : (s.modAtl f).sched = s.sched := rfl
@[simp] theorem modAtl_host (s : State) (f : AtlasS → AtlasS) : (s.modAtl f).host = s.host := rfl
@[simp] theorem modAtl_fbk (s : State) (f : AtlasS → AtlasS) : (s.modAtl f).fbk = s.fbk := rfl
@[simp] theorem modAtl_gr (s : State) (f : AtlasS → AtlasS) : (s.modAtl f).gr = s.gr := rfl
@[simp] theorem modAtl_gz (s : State) (f : AtlasS → AtlasS) : (s.modAtl f).gz = s.gz := rfl
@[simp] theorem modAtl_fch (s : State) (f : AtlasS → AtlasS) : (s.modAtl f).fch = s.fch := rfl
@[simp] theorem modAtl_atl (s : State) (f : AtlasS → AtlasS) : (s.modAtl f).atl = f s.atl := rfl
@[simp] theorem modAtl_upd (s : State) (f : AtlasS → AtlasS) : (s.modAtl f).upd = s.upd := rfl
@[simp] theorem modAtl_mdl (s : State) (f : AtlasS → AtlasS) : (s.modAtl f).mdl = s.mdl := rfl
@[simp] theorem modAtl_svy (s : State) (f : AtlasS → AtlasS) : (s.modAtl f).svy = s.svy := rfl
@[simp] theorem modAtl_pwr (s : State) (f : AtlasS → AtlasS) : (s.modAtl f).pwr = s.pwr := rfl
@[simp] theorem modAtl_thm (s : State) (f : AtlasS → AtlasS) : (s.modAtl f).thm = s.thm := rfl
@[simp] theorem modAtl_frz (s : State) (f : AtlasS → AtlasS) : (s.modAtl f).frz = s.frz := rfl
@[simp] theorem modAtl_port (s : State) (f : AtlasS → AtlasS) : (s.modAtl f).port = s.port := rfl
@[simp] theorem modAtl_side (s : State) (f : AtlasS → AtlasS) : (s.modAtl f).side = s.side := rfl
@[simp] theorem modAtl_bfl (s : State) (f : AtlasS → AtlasS) : (s.modAtl f).bfl = s.bfl := rfl
@[simp] theorem modAtl_fw (s : State) (f : AtlasS → AtlasS) : (s.modAtl f).fw = s.fw := rfl
@[simp] theorem modAtl_sec (s : State) (f : AtlasS → AtlasS) : (s.modAtl f).sec = s.sec := rfl
@[simp] theorem modAtl_stored (s : State) (f : AtlasS → AtlasS) : (s.modAtl f).stored = s.stored := rfl
@[simp] theorem modAtl_free (s : State) (f : AtlasS → AtlasS) : (s.modAtl f).free = s.free := rfl
@[simp] theorem modAtl_pending (s : State) (f : AtlasS → AtlasS) : (s.modAtl f).pending = s.pending := rfl

/-! ### modUpd -/

@[simp] theorem modUpd_sys (s : State) (f : UpdS → UpdS) : (s.modUpd f).sys = s.sys := rfl
@[simp] theorem modUpd_pages (s : State) (f : UpdS → UpdS) : (s.modUpd f).pages = s.pages := rfl
@[simp] theorem modUpd_latch (s : State) (f : UpdS → UpdS) : (s.modUpd f).latch = s.latch := rfl
@[simp] theorem modUpd_cores (s : State) (f : UpdS → UpdS) : (s.modUpd f).cores = s.cores := rfl
@[simp] theorem modUpd_clus (s : State) (f : UpdS → UpdS) : (s.modUpd f).clus = s.clus := rfl
@[simp] theorem modUpd_dram (s : State) (f : UpdS → UpdS) : (s.modUpd f).dram = s.dram := rfl
@[simp] theorem modUpd_hbm (s : State) (f : UpdS → UpdS) : (s.modUpd f).hbm = s.hbm := rfl
@[simp] theorem modUpd_ecc (s : State) (f : UpdS → UpdS) : (s.modUpd f).ecc = s.ecc := rfl
@[simp] theorem modUpd_sched (s : State) (f : UpdS → UpdS) : (s.modUpd f).sched = s.sched := rfl
@[simp] theorem modUpd_host (s : State) (f : UpdS → UpdS) : (s.modUpd f).host = s.host := rfl
@[simp] theorem modUpd_fbk (s : State) (f : UpdS → UpdS) : (s.modUpd f).fbk = s.fbk := rfl
@[simp] theorem modUpd_gr (s : State) (f : UpdS → UpdS) : (s.modUpd f).gr = s.gr := rfl
@[simp] theorem modUpd_gz (s : State) (f : UpdS → UpdS) : (s.modUpd f).gz = s.gz := rfl
@[simp] theorem modUpd_fch (s : State) (f : UpdS → UpdS) : (s.modUpd f).fch = s.fch := rfl
@[simp] theorem modUpd_atl (s : State) (f : UpdS → UpdS) : (s.modUpd f).atl = s.atl := rfl
@[simp] theorem modUpd_upd (s : State) (f : UpdS → UpdS) : (s.modUpd f).upd = f s.upd := rfl
@[simp] theorem modUpd_mdl (s : State) (f : UpdS → UpdS) : (s.modUpd f).mdl = s.mdl := rfl
@[simp] theorem modUpd_svy (s : State) (f : UpdS → UpdS) : (s.modUpd f).svy = s.svy := rfl
@[simp] theorem modUpd_pwr (s : State) (f : UpdS → UpdS) : (s.modUpd f).pwr = s.pwr := rfl
@[simp] theorem modUpd_thm (s : State) (f : UpdS → UpdS) : (s.modUpd f).thm = s.thm := rfl
@[simp] theorem modUpd_frz (s : State) (f : UpdS → UpdS) : (s.modUpd f).frz = s.frz := rfl
@[simp] theorem modUpd_port (s : State) (f : UpdS → UpdS) : (s.modUpd f).port = s.port := rfl
@[simp] theorem modUpd_side (s : State) (f : UpdS → UpdS) : (s.modUpd f).side = s.side := rfl
@[simp] theorem modUpd_bfl (s : State) (f : UpdS → UpdS) : (s.modUpd f).bfl = s.bfl := rfl
@[simp] theorem modUpd_fw (s : State) (f : UpdS → UpdS) : (s.modUpd f).fw = s.fw := rfl
@[simp] theorem modUpd_sec (s : State) (f : UpdS → UpdS) : (s.modUpd f).sec = s.sec := rfl
@[simp] theorem modUpd_stored (s : State) (f : UpdS → UpdS) : (s.modUpd f).stored = s.stored := rfl
@[simp] theorem modUpd_free (s : State) (f : UpdS → UpdS) : (s.modUpd f).free = s.free := rfl
@[simp] theorem modUpd_pending (s : State) (f : UpdS → UpdS) : (s.modUpd f).pending = s.pending := rfl

/-! ### modMdl -/

@[simp] theorem modMdl_sys (s : State) (f : ModelS → ModelS) : (s.modMdl f).sys = s.sys := rfl
@[simp] theorem modMdl_pages (s : State) (f : ModelS → ModelS) : (s.modMdl f).pages = s.pages := rfl
@[simp] theorem modMdl_latch (s : State) (f : ModelS → ModelS) : (s.modMdl f).latch = s.latch := rfl
@[simp] theorem modMdl_cores (s : State) (f : ModelS → ModelS) : (s.modMdl f).cores = s.cores := rfl
@[simp] theorem modMdl_clus (s : State) (f : ModelS → ModelS) : (s.modMdl f).clus = s.clus := rfl
@[simp] theorem modMdl_dram (s : State) (f : ModelS → ModelS) : (s.modMdl f).dram = s.dram := rfl
@[simp] theorem modMdl_hbm (s : State) (f : ModelS → ModelS) : (s.modMdl f).hbm = s.hbm := rfl
@[simp] theorem modMdl_ecc (s : State) (f : ModelS → ModelS) : (s.modMdl f).ecc = s.ecc := rfl
@[simp] theorem modMdl_sched (s : State) (f : ModelS → ModelS) : (s.modMdl f).sched = s.sched := rfl
@[simp] theorem modMdl_host (s : State) (f : ModelS → ModelS) : (s.modMdl f).host = s.host := rfl
@[simp] theorem modMdl_fbk (s : State) (f : ModelS → ModelS) : (s.modMdl f).fbk = s.fbk := rfl
@[simp] theorem modMdl_gr (s : State) (f : ModelS → ModelS) : (s.modMdl f).gr = s.gr := rfl
@[simp] theorem modMdl_gz (s : State) (f : ModelS → ModelS) : (s.modMdl f).gz = s.gz := rfl
@[simp] theorem modMdl_fch (s : State) (f : ModelS → ModelS) : (s.modMdl f).fch = s.fch := rfl
@[simp] theorem modMdl_atl (s : State) (f : ModelS → ModelS) : (s.modMdl f).atl = s.atl := rfl
@[simp] theorem modMdl_upd (s : State) (f : ModelS → ModelS) : (s.modMdl f).upd = s.upd := rfl
@[simp] theorem modMdl_mdl (s : State) (f : ModelS → ModelS) : (s.modMdl f).mdl = f s.mdl := rfl
@[simp] theorem modMdl_svy (s : State) (f : ModelS → ModelS) : (s.modMdl f).svy = s.svy := rfl
@[simp] theorem modMdl_pwr (s : State) (f : ModelS → ModelS) : (s.modMdl f).pwr = s.pwr := rfl
@[simp] theorem modMdl_thm (s : State) (f : ModelS → ModelS) : (s.modMdl f).thm = s.thm := rfl
@[simp] theorem modMdl_frz (s : State) (f : ModelS → ModelS) : (s.modMdl f).frz = s.frz := rfl
@[simp] theorem modMdl_port (s : State) (f : ModelS → ModelS) : (s.modMdl f).port = s.port := rfl
@[simp] theorem modMdl_side (s : State) (f : ModelS → ModelS) : (s.modMdl f).side = s.side := rfl
@[simp] theorem modMdl_bfl (s : State) (f : ModelS → ModelS) : (s.modMdl f).bfl = s.bfl := rfl
@[simp] theorem modMdl_fw (s : State) (f : ModelS → ModelS) : (s.modMdl f).fw = s.fw := rfl
@[simp] theorem modMdl_sec (s : State) (f : ModelS → ModelS) : (s.modMdl f).sec = s.sec := rfl
@[simp] theorem modMdl_stored (s : State) (f : ModelS → ModelS) : (s.modMdl f).stored = s.stored := rfl
@[simp] theorem modMdl_free (s : State) (f : ModelS → ModelS) : (s.modMdl f).free = s.free := rfl
@[simp] theorem modMdl_pending (s : State) (f : ModelS → ModelS) : (s.modMdl f).pending = s.pending := rfl

/-! ### modEcc -/

@[simp] theorem modEcc_sys (s : State) (f : Ecc → Ecc) : (s.modEcc f).sys = s.sys := rfl
@[simp] theorem modEcc_pages (s : State) (f : Ecc → Ecc) : (s.modEcc f).pages = s.pages := rfl
@[simp] theorem modEcc_latch (s : State) (f : Ecc → Ecc) : (s.modEcc f).latch = s.latch := rfl
@[simp] theorem modEcc_cores (s : State) (f : Ecc → Ecc) : (s.modEcc f).cores = s.cores := rfl
@[simp] theorem modEcc_clus (s : State) (f : Ecc → Ecc) : (s.modEcc f).clus = s.clus := rfl
@[simp] theorem modEcc_dram (s : State) (f : Ecc → Ecc) : (s.modEcc f).dram = s.dram := rfl
@[simp] theorem modEcc_hbm (s : State) (f : Ecc → Ecc) : (s.modEcc f).hbm = s.hbm := rfl
@[simp] theorem modEcc_ecc (s : State) (f : Ecc → Ecc) : (s.modEcc f).ecc = f s.ecc := rfl
@[simp] theorem modEcc_sched (s : State) (f : Ecc → Ecc) : (s.modEcc f).sched = s.sched := rfl
@[simp] theorem modEcc_host (s : State) (f : Ecc → Ecc) : (s.modEcc f).host = s.host := rfl
@[simp] theorem modEcc_fbk (s : State) (f : Ecc → Ecc) : (s.modEcc f).fbk = s.fbk := rfl
@[simp] theorem modEcc_gr (s : State) (f : Ecc → Ecc) : (s.modEcc f).gr = s.gr := rfl
@[simp] theorem modEcc_gz (s : State) (f : Ecc → Ecc) : (s.modEcc f).gz = s.gz := rfl
@[simp] theorem modEcc_fch (s : State) (f : Ecc → Ecc) : (s.modEcc f).fch = s.fch := rfl
@[simp] theorem modEcc_atl (s : State) (f : Ecc → Ecc) : (s.modEcc f).atl = s.atl := rfl
@[simp] theorem modEcc_upd (s : State) (f : Ecc → Ecc) : (s.modEcc f).upd = s.upd := rfl
@[simp] theorem modEcc_mdl (s : State) (f : Ecc → Ecc) : (s.modEcc f).mdl = s.mdl := rfl
@[simp] theorem modEcc_svy (s : State) (f : Ecc → Ecc) : (s.modEcc f).svy = s.svy := rfl
@[simp] theorem modEcc_pwr (s : State) (f : Ecc → Ecc) : (s.modEcc f).pwr = s.pwr := rfl
@[simp] theorem modEcc_thm (s : State) (f : Ecc → Ecc) : (s.modEcc f).thm = s.thm := rfl
@[simp] theorem modEcc_frz (s : State) (f : Ecc → Ecc) : (s.modEcc f).frz = s.frz := rfl
@[simp] theorem modEcc_port (s : State) (f : Ecc → Ecc) : (s.modEcc f).port = s.port := rfl
@[simp] theorem modEcc_side (s : State) (f : Ecc → Ecc) : (s.modEcc f).side = s.side := rfl
@[simp] theorem modEcc_bfl (s : State) (f : Ecc → Ecc) : (s.modEcc f).bfl = s.bfl := rfl
@[simp] theorem modEcc_fw (s : State) (f : Ecc → Ecc) : (s.modEcc f).fw = s.fw := rfl
@[simp] theorem modEcc_sec (s : State) (f : Ecc → Ecc) : (s.modEcc f).sec = s.sec := rfl
@[simp] theorem modEcc_stored (s : State) (f : Ecc → Ecc) : (s.modEcc f).stored = s.stored := rfl
@[simp] theorem modEcc_free (s : State) (f : Ecc → Ecc) : (s.modEcc f).free = s.free := rfl
@[simp] theorem modEcc_pending (s : State) (f : Ecc → Ecc) : (s.modEcc f).pending = s.pending := rfl

/-! ### modFch -/

@[simp] theorem modFch_sys (s : State) (f : Fch → Fch) : (s.modFch f).sys = s.sys := rfl
@[simp] theorem modFch_pages (s : State) (f : Fch → Fch) : (s.modFch f).pages = s.pages := rfl
@[simp] theorem modFch_latch (s : State) (f : Fch → Fch) : (s.modFch f).latch = s.latch := rfl
@[simp] theorem modFch_cores (s : State) (f : Fch → Fch) : (s.modFch f).cores = s.cores := rfl
@[simp] theorem modFch_clus (s : State) (f : Fch → Fch) : (s.modFch f).clus = s.clus := rfl
@[simp] theorem modFch_dram (s : State) (f : Fch → Fch) : (s.modFch f).dram = s.dram := rfl
@[simp] theorem modFch_hbm (s : State) (f : Fch → Fch) : (s.modFch f).hbm = s.hbm := rfl
@[simp] theorem modFch_ecc (s : State) (f : Fch → Fch) : (s.modFch f).ecc = s.ecc := rfl
@[simp] theorem modFch_sched (s : State) (f : Fch → Fch) : (s.modFch f).sched = s.sched := rfl
@[simp] theorem modFch_host (s : State) (f : Fch → Fch) : (s.modFch f).host = s.host := rfl
@[simp] theorem modFch_fbk (s : State) (f : Fch → Fch) : (s.modFch f).fbk = s.fbk := rfl
@[simp] theorem modFch_gr (s : State) (f : Fch → Fch) : (s.modFch f).gr = s.gr := rfl
@[simp] theorem modFch_gz (s : State) (f : Fch → Fch) : (s.modFch f).gz = s.gz := rfl
@[simp] theorem modFch_fch (s : State) (f : Fch → Fch) : (s.modFch f).fch = f s.fch := rfl
@[simp] theorem modFch_atl (s : State) (f : Fch → Fch) : (s.modFch f).atl = s.atl := rfl
@[simp] theorem modFch_upd (s : State) (f : Fch → Fch) : (s.modFch f).upd = s.upd := rfl
@[simp] theorem modFch_mdl (s : State) (f : Fch → Fch) : (s.modFch f).mdl = s.mdl := rfl
@[simp] theorem modFch_svy (s : State) (f : Fch → Fch) : (s.modFch f).svy = s.svy := rfl
@[simp] theorem modFch_pwr (s : State) (f : Fch → Fch) : (s.modFch f).pwr = s.pwr := rfl
@[simp] theorem modFch_thm (s : State) (f : Fch → Fch) : (s.modFch f).thm = s.thm := rfl
@[simp] theorem modFch_frz (s : State) (f : Fch → Fch) : (s.modFch f).frz = s.frz := rfl
@[simp] theorem modFch_port (s : State) (f : Fch → Fch) : (s.modFch f).port = s.port := rfl
@[simp] theorem modFch_side (s : State) (f : Fch → Fch) : (s.modFch f).side = s.side := rfl
@[simp] theorem modFch_bfl (s : State) (f : Fch → Fch) : (s.modFch f).bfl = s.bfl := rfl
@[simp] theorem modFch_fw (s : State) (f : Fch → Fch) : (s.modFch f).fw = s.fw := rfl
@[simp] theorem modFch_sec (s : State) (f : Fch → Fch) : (s.modFch f).sec = s.sec := rfl
@[simp] theorem modFch_stored (s : State) (f : Fch → Fch) : (s.modFch f).stored = s.stored := rfl
@[simp] theorem modFch_free (s : State) (f : Fch → Fch) : (s.modFch f).free = s.free := rfl
@[simp] theorem modFch_pending (s : State) (f : Fch → Fch) : (s.modFch f).pending = s.pending := rfl

/-! ### modPwr -/

@[simp] theorem modPwr_sys (s : State) (f : Pwr → Pwr) : (s.modPwr f).sys = s.sys := rfl
@[simp] theorem modPwr_pages (s : State) (f : Pwr → Pwr) : (s.modPwr f).pages = s.pages := rfl
@[simp] theorem modPwr_latch (s : State) (f : Pwr → Pwr) : (s.modPwr f).latch = s.latch := rfl
@[simp] theorem modPwr_cores (s : State) (f : Pwr → Pwr) : (s.modPwr f).cores = s.cores := rfl
@[simp] theorem modPwr_clus (s : State) (f : Pwr → Pwr) : (s.modPwr f).clus = s.clus := rfl
@[simp] theorem modPwr_dram (s : State) (f : Pwr → Pwr) : (s.modPwr f).dram = s.dram := rfl
@[simp] theorem modPwr_hbm (s : State) (f : Pwr → Pwr) : (s.modPwr f).hbm = s.hbm := rfl
@[simp] theorem modPwr_ecc (s : State) (f : Pwr → Pwr) : (s.modPwr f).ecc = s.ecc := rfl
@[simp] theorem modPwr_sched (s : State) (f : Pwr → Pwr) : (s.modPwr f).sched = s.sched := rfl
@[simp] theorem modPwr_host (s : State) (f : Pwr → Pwr) : (s.modPwr f).host = s.host := rfl
@[simp] theorem modPwr_fbk (s : State) (f : Pwr → Pwr) : (s.modPwr f).fbk = s.fbk := rfl
@[simp] theorem modPwr_gr (s : State) (f : Pwr → Pwr) : (s.modPwr f).gr = s.gr := rfl
@[simp] theorem modPwr_gz (s : State) (f : Pwr → Pwr) : (s.modPwr f).gz = s.gz := rfl
@[simp] theorem modPwr_fch (s : State) (f : Pwr → Pwr) : (s.modPwr f).fch = s.fch := rfl
@[simp] theorem modPwr_atl (s : State) (f : Pwr → Pwr) : (s.modPwr f).atl = s.atl := rfl
@[simp] theorem modPwr_upd (s : State) (f : Pwr → Pwr) : (s.modPwr f).upd = s.upd := rfl
@[simp] theorem modPwr_mdl (s : State) (f : Pwr → Pwr) : (s.modPwr f).mdl = s.mdl := rfl
@[simp] theorem modPwr_svy (s : State) (f : Pwr → Pwr) : (s.modPwr f).svy = s.svy := rfl
@[simp] theorem modPwr_pwr (s : State) (f : Pwr → Pwr) : (s.modPwr f).pwr = f s.pwr := rfl
@[simp] theorem modPwr_thm (s : State) (f : Pwr → Pwr) : (s.modPwr f).thm = s.thm := rfl
@[simp] theorem modPwr_frz (s : State) (f : Pwr → Pwr) : (s.modPwr f).frz = s.frz := rfl
@[simp] theorem modPwr_port (s : State) (f : Pwr → Pwr) : (s.modPwr f).port = s.port := rfl
@[simp] theorem modPwr_side (s : State) (f : Pwr → Pwr) : (s.modPwr f).side = s.side := rfl
@[simp] theorem modPwr_bfl (s : State) (f : Pwr → Pwr) : (s.modPwr f).bfl = s.bfl := rfl
@[simp] theorem modPwr_fw (s : State) (f : Pwr → Pwr) : (s.modPwr f).fw = s.fw := rfl
@[simp] theorem modPwr_sec (s : State) (f : Pwr → Pwr) : (s.modPwr f).sec = s.sec := rfl
@[simp] theorem modPwr_stored (s : State) (f : Pwr → Pwr) : (s.modPwr f).stored = s.stored := rfl
@[simp] theorem modPwr_free (s : State) (f : Pwr → Pwr) : (s.modPwr f).free = s.free := rfl
@[simp] theorem modPwr_pending (s : State) (f : Pwr → Pwr) : (s.modPwr f).pending = s.pending := rfl

/-! ### modSvy -/

@[simp] theorem modSvy_sys (s : State) (f : Svy → Svy) : (s.modSvy f).sys = s.sys := rfl
@[simp] theorem modSvy_pages (s : State) (f : Svy → Svy) : (s.modSvy f).pages = s.pages := rfl
@[simp] theorem modSvy_latch (s : State) (f : Svy → Svy) : (s.modSvy f).latch = s.latch := rfl
@[simp] theorem modSvy_cores (s : State) (f : Svy → Svy) : (s.modSvy f).cores = s.cores := rfl
@[simp] theorem modSvy_clus (s : State) (f : Svy → Svy) : (s.modSvy f).clus = s.clus := rfl
@[simp] theorem modSvy_dram (s : State) (f : Svy → Svy) : (s.modSvy f).dram = s.dram := rfl
@[simp] theorem modSvy_hbm (s : State) (f : Svy → Svy) : (s.modSvy f).hbm = s.hbm := rfl
@[simp] theorem modSvy_ecc (s : State) (f : Svy → Svy) : (s.modSvy f).ecc = s.ecc := rfl
@[simp] theorem modSvy_sched (s : State) (f : Svy → Svy) : (s.modSvy f).sched = s.sched := rfl
@[simp] theorem modSvy_host (s : State) (f : Svy → Svy) : (s.modSvy f).host = s.host := rfl
@[simp] theorem modSvy_fbk (s : State) (f : Svy → Svy) : (s.modSvy f).fbk = s.fbk := rfl
@[simp] theorem modSvy_gr (s : State) (f : Svy → Svy) : (s.modSvy f).gr = s.gr := rfl
@[simp] theorem modSvy_gz (s : State) (f : Svy → Svy) : (s.modSvy f).gz = s.gz := rfl
@[simp] theorem modSvy_fch (s : State) (f : Svy → Svy) : (s.modSvy f).fch = s.fch := rfl
@[simp] theorem modSvy_atl (s : State) (f : Svy → Svy) : (s.modSvy f).atl = s.atl := rfl
@[simp] theorem modSvy_upd (s : State) (f : Svy → Svy) : (s.modSvy f).upd = s.upd := rfl
@[simp] theorem modSvy_mdl (s : State) (f : Svy → Svy) : (s.modSvy f).mdl = s.mdl := rfl
@[simp] theorem modSvy_svy (s : State) (f : Svy → Svy) : (s.modSvy f).svy = f s.svy := rfl
@[simp] theorem modSvy_pwr (s : State) (f : Svy → Svy) : (s.modSvy f).pwr = s.pwr := rfl
@[simp] theorem modSvy_thm (s : State) (f : Svy → Svy) : (s.modSvy f).thm = s.thm := rfl
@[simp] theorem modSvy_frz (s : State) (f : Svy → Svy) : (s.modSvy f).frz = s.frz := rfl
@[simp] theorem modSvy_port (s : State) (f : Svy → Svy) : (s.modSvy f).port = s.port := rfl
@[simp] theorem modSvy_side (s : State) (f : Svy → Svy) : (s.modSvy f).side = s.side := rfl
@[simp] theorem modSvy_bfl (s : State) (f : Svy → Svy) : (s.modSvy f).bfl = s.bfl := rfl
@[simp] theorem modSvy_fw (s : State) (f : Svy → Svy) : (s.modSvy f).fw = s.fw := rfl
@[simp] theorem modSvy_sec (s : State) (f : Svy → Svy) : (s.modSvy f).sec = s.sec := rfl
@[simp] theorem modSvy_stored (s : State) (f : Svy → Svy) : (s.modSvy f).stored = s.stored := rfl
@[simp] theorem modSvy_free (s : State) (f : Svy → Svy) : (s.modSvy f).free = s.free := rfl
@[simp] theorem modSvy_pending (s : State) (f : Svy → Svy) : (s.modSvy f).pending = s.pending := rfl

/-! ### modBfl -/

@[simp] theorem modBfl_sys (s : State) (f : Bfl → Bfl) : (s.modBfl f).sys = s.sys := rfl
@[simp] theorem modBfl_pages (s : State) (f : Bfl → Bfl) : (s.modBfl f).pages = s.pages := rfl
@[simp] theorem modBfl_latch (s : State) (f : Bfl → Bfl) : (s.modBfl f).latch = s.latch := rfl
@[simp] theorem modBfl_cores (s : State) (f : Bfl → Bfl) : (s.modBfl f).cores = s.cores := rfl
@[simp] theorem modBfl_clus (s : State) (f : Bfl → Bfl) : (s.modBfl f).clus = s.clus := rfl
@[simp] theorem modBfl_dram (s : State) (f : Bfl → Bfl) : (s.modBfl f).dram = s.dram := rfl
@[simp] theorem modBfl_hbm (s : State) (f : Bfl → Bfl) : (s.modBfl f).hbm = s.hbm := rfl
@[simp] theorem modBfl_ecc (s : State) (f : Bfl → Bfl) : (s.modBfl f).ecc = s.ecc := rfl
@[simp] theorem modBfl_sched (s : State) (f : Bfl → Bfl) : (s.modBfl f).sched = s.sched := rfl
@[simp] theorem modBfl_host (s : State) (f : Bfl → Bfl) : (s.modBfl f).host = s.host := rfl
@[simp] theorem modBfl_fbk (s : State) (f : Bfl → Bfl) : (s.modBfl f).fbk = s.fbk := rfl
@[simp] theorem modBfl_gr (s : State) (f : Bfl → Bfl) : (s.modBfl f).gr = s.gr := rfl
@[simp] theorem modBfl_gz (s : State) (f : Bfl → Bfl) : (s.modBfl f).gz = s.gz := rfl
@[simp] theorem modBfl_fch (s : State) (f : Bfl → Bfl) : (s.modBfl f).fch = s.fch := rfl
@[simp] theorem modBfl_atl (s : State) (f : Bfl → Bfl) : (s.modBfl f).atl = s.atl := rfl
@[simp] theorem modBfl_upd (s : State) (f : Bfl → Bfl) : (s.modBfl f).upd = s.upd := rfl
@[simp] theorem modBfl_mdl (s : State) (f : Bfl → Bfl) : (s.modBfl f).mdl = s.mdl := rfl
@[simp] theorem modBfl_svy (s : State) (f : Bfl → Bfl) : (s.modBfl f).svy = s.svy := rfl
@[simp] theorem modBfl_pwr (s : State) (f : Bfl → Bfl) : (s.modBfl f).pwr = s.pwr := rfl
@[simp] theorem modBfl_thm (s : State) (f : Bfl → Bfl) : (s.modBfl f).thm = s.thm := rfl
@[simp] theorem modBfl_frz (s : State) (f : Bfl → Bfl) : (s.modBfl f).frz = s.frz := rfl
@[simp] theorem modBfl_port (s : State) (f : Bfl → Bfl) : (s.modBfl f).port = s.port := rfl
@[simp] theorem modBfl_side (s : State) (f : Bfl → Bfl) : (s.modBfl f).side = s.side := rfl
@[simp] theorem modBfl_bfl (s : State) (f : Bfl → Bfl) : (s.modBfl f).bfl = f s.bfl := rfl
@[simp] theorem modBfl_fw (s : State) (f : Bfl → Bfl) : (s.modBfl f).fw = s.fw := rfl
@[simp] theorem modBfl_sec (s : State) (f : Bfl → Bfl) : (s.modBfl f).sec = s.sec := rfl
@[simp] theorem modBfl_stored (s : State) (f : Bfl → Bfl) : (s.modBfl f).stored = s.stored := rfl
@[simp] theorem modBfl_free (s : State) (f : Bfl → Bfl) : (s.modBfl f).free = s.free := rfl
@[simp] theorem modBfl_pending (s : State) (f : Bfl → Bfl) : (s.modBfl f).pending = s.pending := rfl

/-! ### modFw -/

@[simp] theorem modFw_sys (s : State) (f : Fw → Fw) : (s.modFw f).sys = s.sys := rfl
@[simp] theorem modFw_pages (s : State) (f : Fw → Fw) : (s.modFw f).pages = s.pages := rfl
@[simp] theorem modFw_latch (s : State) (f : Fw → Fw) : (s.modFw f).latch = s.latch := rfl
@[simp] theorem modFw_cores (s : State) (f : Fw → Fw) : (s.modFw f).cores = s.cores := rfl
@[simp] theorem modFw_clus (s : State) (f : Fw → Fw) : (s.modFw f).clus = s.clus := rfl
@[simp] theorem modFw_dram (s : State) (f : Fw → Fw) : (s.modFw f).dram = s.dram := rfl
@[simp] theorem modFw_hbm (s : State) (f : Fw → Fw) : (s.modFw f).hbm = s.hbm := rfl
@[simp] theorem modFw_ecc (s : State) (f : Fw → Fw) : (s.modFw f).ecc = s.ecc := rfl
@[simp] theorem modFw_sched (s : State) (f : Fw → Fw) : (s.modFw f).sched = s.sched := rfl
@[simp] theorem modFw_host (s : State) (f : Fw → Fw) : (s.modFw f).host = s.host := rfl
@[simp] theorem modFw_fbk (s : State) (f : Fw → Fw) : (s.modFw f).fbk = s.fbk := rfl
@[simp] theorem modFw_gr (s : State) (f : Fw → Fw) : (s.modFw f).gr = s.gr := rfl
@[simp] theorem modFw_gz (s : State) (f : Fw → Fw) : (s.modFw f).gz = s.gz := rfl
@[simp] theorem modFw_fch (s : State) (f : Fw → Fw) : (s.modFw f).fch = s.fch := rfl
@[simp] theorem modFw_atl (s : State) (f : Fw → Fw) : (s.modFw f).atl = s.atl := rfl
@[simp] theorem modFw_upd (s : State) (f : Fw → Fw) : (s.modFw f).upd = s.upd := rfl
@[simp] theorem modFw_mdl (s : State) (f : Fw → Fw) : (s.modFw f).mdl = s.mdl := rfl
@[simp] theorem modFw_svy (s : State) (f : Fw → Fw) : (s.modFw f).svy = s.svy := rfl
@[simp] theorem modFw_pwr (s : State) (f : Fw → Fw) : (s.modFw f).pwr = s.pwr := rfl
@[simp] theorem modFw_thm (s : State) (f : Fw → Fw) : (s.modFw f).thm = s.thm := rfl
@[simp] theorem modFw_frz (s : State) (f : Fw → Fw) : (s.modFw f).frz = s.frz := rfl
@[simp] theorem modFw_port (s : State) (f : Fw → Fw) : (s.modFw f).port = s.port := rfl
@[simp] theorem modFw_side (s : State) (f : Fw → Fw) : (s.modFw f).side = s.side := rfl
@[simp] theorem modFw_bfl (s : State) (f : Fw → Fw) : (s.modFw f).bfl = s.bfl := rfl
@[simp] theorem modFw_fw (s : State) (f : Fw → Fw) : (s.modFw f).fw = f s.fw := rfl
@[simp] theorem modFw_sec (s : State) (f : Fw → Fw) : (s.modFw f).sec = s.sec := rfl
@[simp] theorem modFw_stored (s : State) (f : Fw → Fw) : (s.modFw f).stored = s.stored := rfl
@[simp] theorem modFw_free (s : State) (f : Fw → Fw) : (s.modFw f).free = s.free := rfl
@[simp] theorem modFw_pending (s : State) (f : Fw → Fw) : (s.modFw f).pending = s.pending := rfl

/-! ### modSec -/

@[simp] theorem modSec_sys (s : State) (f : Sec → Sec) : (s.modSec f).sys = s.sys := rfl
@[simp] theorem modSec_pages (s : State) (f : Sec → Sec) : (s.modSec f).pages = s.pages := rfl
@[simp] theorem modSec_latch (s : State) (f : Sec → Sec) : (s.modSec f).latch = s.latch := rfl
@[simp] theorem modSec_cores (s : State) (f : Sec → Sec) : (s.modSec f).cores = s.cores := rfl
@[simp] theorem modSec_clus (s : State) (f : Sec → Sec) : (s.modSec f).clus = s.clus := rfl
@[simp] theorem modSec_dram (s : State) (f : Sec → Sec) : (s.modSec f).dram = s.dram := rfl
@[simp] theorem modSec_hbm (s : State) (f : Sec → Sec) : (s.modSec f).hbm = s.hbm := rfl
@[simp] theorem modSec_ecc (s : State) (f : Sec → Sec) : (s.modSec f).ecc = s.ecc := rfl
@[simp] theorem modSec_sched (s : State) (f : Sec → Sec) : (s.modSec f).sched = s.sched := rfl
@[simp] theorem modSec_host (s : State) (f : Sec → Sec) : (s.modSec f).host = s.host := rfl
@[simp] theorem modSec_fbk (s : State) (f : Sec → Sec) : (s.modSec f).fbk = s.fbk := rfl
@[simp] theorem modSec_gr (s : State) (f : Sec → Sec) : (s.modSec f).gr = s.gr := rfl
@[simp] theorem modSec_gz (s : State) (f : Sec → Sec) : (s.modSec f).gz = s.gz := rfl
@[simp] theorem modSec_fch (s : State) (f : Sec → Sec) : (s.modSec f).fch = s.fch := rfl
@[simp] theorem modSec_atl (s : State) (f : Sec → Sec) : (s.modSec f).atl = s.atl := rfl
@[simp] theorem modSec_upd (s : State) (f : Sec → Sec) : (s.modSec f).upd = s.upd := rfl
@[simp] theorem modSec_mdl (s : State) (f : Sec → Sec) : (s.modSec f).mdl = s.mdl := rfl
@[simp] theorem modSec_svy (s : State) (f : Sec → Sec) : (s.modSec f).svy = s.svy := rfl
@[simp] theorem modSec_pwr (s : State) (f : Sec → Sec) : (s.modSec f).pwr = s.pwr := rfl
@[simp] theorem modSec_thm (s : State) (f : Sec → Sec) : (s.modSec f).thm = s.thm := rfl
@[simp] theorem modSec_frz (s : State) (f : Sec → Sec) : (s.modSec f).frz = s.frz := rfl
@[simp] theorem modSec_port (s : State) (f : Sec → Sec) : (s.modSec f).port = s.port := rfl
@[simp] theorem modSec_side (s : State) (f : Sec → Sec) : (s.modSec f).side = s.side := rfl
@[simp] theorem modSec_bfl (s : State) (f : Sec → Sec) : (s.modSec f).bfl = s.bfl := rfl
@[simp] theorem modSec_fw (s : State) (f : Sec → Sec) : (s.modSec f).fw = s.fw := rfl
@[simp] theorem modSec_sec (s : State) (f : Sec → Sec) : (s.modSec f).sec = f s.sec := rfl
@[simp] theorem modSec_stored (s : State) (f : Sec → Sec) : (s.modSec f).stored = s.stored := rfl
@[simp] theorem modSec_free (s : State) (f : Sec → Sec) : (s.modSec f).free = s.free := rfl
@[simp] theorem modSec_pending (s : State) (f : Sec → Sec) : (s.modSec f).pending = s.pending := rfl

/-! ### setCore -/

@[simp] theorem setCore_sys (s : State) (c : Nat) (x : Core) : (s.setCore c x).sys = s.sys := rfl
@[simp] theorem setCore_pages (s : State) (c : Nat) (x : Core) : (s.setCore c x).pages = s.pages := rfl
@[simp] theorem setCore_latch (s : State) (c : Nat) (x : Core) : (s.setCore c x).latch = s.latch := rfl
@[simp] theorem setCore_cores (s : State) (c : Nat) (x : Core) : (s.setCore c x).cores = mset {} s.cores c x := rfl
@[simp] theorem setCore_clus (s : State) (c : Nat) (x : Core) : (s.setCore c x).clus = s.clus := rfl
@[simp] theorem setCore_dram (s : State) (c : Nat) (x : Core) : (s.setCore c x).dram = s.dram := rfl
@[simp] theorem setCore_hbm (s : State) (c : Nat) (x : Core) : (s.setCore c x).hbm = s.hbm := rfl
@[simp] theorem setCore_ecc (s : State) (c : Nat) (x : Core) : (s.setCore c x).ecc = s.ecc := rfl
@[simp] theorem setCore_sched (s : State) (c : Nat) (x : Core) : (s.setCore c x).sched = s.sched := rfl
@[simp] theorem setCore_host (s : State) (c : Nat) (x : Core) : (s.setCore c x).host = s.host := rfl
@[simp] theorem setCore_fbk (s : State) (c : Nat) (x : Core) : (s.setCore c x).fbk = s.fbk := rfl
@[simp] theorem setCore_gr (s : State) (c : Nat) (x : Core) : (s.setCore c x).gr = s.gr := rfl
@[simp] theorem setCore_gz (s : State) (c : Nat) (x : Core) : (s.setCore c x).gz = s.gz := rfl
@[simp] theorem setCore_fch (s : State) (c : Nat) (x : Core) : (s.setCore c x).fch = s.fch := rfl
@[simp] theorem setCore_atl (s : State) (c : Nat) (x : Core) : (s.setCore c x).atl = s.atl := rfl
@[simp] theorem setCore_upd (s : State) (c : Nat) (x : Core) : (s.setCore c x).upd = s.upd := rfl
@[simp] theorem setCore_mdl (s : State) (c : Nat) (x : Core) : (s.setCore c x).mdl = s.mdl := rfl
@[simp] theorem setCore_svy (s : State) (c : Nat) (x : Core) : (s.setCore c x).svy = s.svy := rfl
@[simp] theorem setCore_pwr (s : State) (c : Nat) (x : Core) : (s.setCore c x).pwr = s.pwr := rfl
@[simp] theorem setCore_thm (s : State) (c : Nat) (x : Core) : (s.setCore c x).thm = s.thm := rfl
@[simp] theorem setCore_frz (s : State) (c : Nat) (x : Core) : (s.setCore c x).frz = s.frz := rfl
@[simp] theorem setCore_port (s : State) (c : Nat) (x : Core) : (s.setCore c x).port = s.port := rfl
@[simp] theorem setCore_side (s : State) (c : Nat) (x : Core) : (s.setCore c x).side = s.side := rfl
@[simp] theorem setCore_bfl (s : State) (c : Nat) (x : Core) : (s.setCore c x).bfl = s.bfl := rfl
@[simp] theorem setCore_fw (s : State) (c : Nat) (x : Core) : (s.setCore c x).fw = s.fw := rfl
@[simp] theorem setCore_sec (s : State) (c : Nat) (x : Core) : (s.setCore c x).sec = s.sec := rfl
@[simp] theorem setCore_stored (s : State) (c : Nat) (x : Core) : (s.setCore c x).stored = s.stored := rfl
@[simp] theorem setCore_free (s : State) (c : Nat) (x : Core) : (s.setCore c x).free = s.free := rfl
@[simp] theorem setCore_pending (s : State) (c : Nat) (x : Core) : (s.setCore c x).pending = s.pending := rfl

/-! ### modCore -/

@[simp] theorem modCore_sys (s : State) (c : Nat) (f : Core → Core) : (s.modCore c f).sys = s.sys := rfl
@[simp] theorem modCore_pages (s : State) (c : Nat) (f : Core → Core) : (s.modCore c f).pages = s.pages := rfl
@[simp] theorem modCore_latch (s : State) (c : Nat) (f : Core → Core) : (s.modCore c f).latch = s.latch := rfl
@[simp] theorem modCore_cores (s : State) (c : Nat) (f : Core → Core) : (s.modCore c f).cores = mset {} s.cores c (f (s.core c)) := rfl
@[simp] theorem modCore_clus (s : State) (c : Nat) (f : Core → Core) : (s.modCore c f).clus = s.clus := rfl
@[simp] theorem modCore_dram (s : State) (c : Nat) (f : Core → Core) : (s.modCore c f).dram = s.dram := rfl
@[simp] theorem modCore_hbm (s : State) (c : Nat) (f : Core → Core) : (s.modCore c f).hbm = s.hbm := rfl
@[simp] theorem modCore_ecc (s : State) (c : Nat) (f : Core → Core) : (s.modCore c f).ecc = s.ecc := rfl
@[simp] theorem modCore_sched (s : State) (c : Nat) (f : Core → Core) : (s.modCore c f).sched = s.sched := rfl
@[simp] theorem modCore_host (s : State) (c : Nat) (f : Core → Core) : (s.modCore c f).host = s.host := rfl
@[simp] theorem modCore_fbk (s : State) (c : Nat) (f : Core → Core) : (s.modCore c f).fbk = s.fbk := rfl
@[simp] theorem modCore_gr (s : State) (c : Nat) (f : Core → Core) : (s.modCore c f).gr = s.gr := rfl
@[simp] theorem modCore_gz (s : State) (c : Nat) (f : Core → Core) : (s.modCore c f).gz = s.gz := rfl
@[simp] theorem modCore_fch (s : State) (c : Nat) (f : Core → Core) : (s.modCore c f).fch = s.fch := rfl
@[simp] theorem modCore_atl (s : State) (c : Nat) (f : Core → Core) : (s.modCore c f).atl = s.atl := rfl
@[simp] theorem modCore_upd (s : State) (c : Nat) (f : Core → Core) : (s.modCore c f).upd = s.upd := rfl
@[simp] theorem modCore_mdl (s : State) (c : Nat) (f : Core → Core) : (s.modCore c f).mdl = s.mdl := rfl
@[simp] theorem modCore_svy (s : State) (c : Nat) (f : Core → Core) : (s.modCore c f).svy = s.svy := rfl
@[simp] theorem modCore_pwr (s : State) (c : Nat) (f : Core → Core) : (s.modCore c f).pwr = s.pwr := rfl
@[simp] theorem modCore_thm (s : State) (c : Nat) (f : Core → Core) : (s.modCore c f).thm = s.thm := rfl
@[simp] theorem modCore_frz (s : State) (c : Nat) (f : Core → Core) : (s.modCore c f).frz = s.frz := rfl
@[simp] theorem modCore_port (s : State) (c : Nat) (f : Core → Core) : (s.modCore c f).port = s.port := rfl
@[simp] theorem modCore_side (s : State) (c : Nat) (f : Core → Core) : (s.modCore c f).side = s.side := rfl
@[simp] theorem modCore_bfl (s : State) (c : Nat) (f : Core → Core) : (s.modCore c f).bfl = s.bfl := rfl
@[simp] theorem modCore_fw (s : State) (c : Nat) (f : Core → Core) : (s.modCore c f).fw = s.fw := rfl
@[simp] theorem modCore_sec (s : State) (c : Nat) (f : Core → Core) : (s.modCore c f).sec = s.sec := rfl
@[simp] theorem modCore_stored (s : State) (c : Nat) (f : Core → Core) : (s.modCore c f).stored = s.stored := rfl
@[simp] theorem modCore_free (s : State) (c : Nat) (f : Core → Core) : (s.modCore c f).free = s.free := rfl
@[simp] theorem modCore_pending (s : State) (c : Nat) (f : Core → Core) : (s.modCore c f).pending = s.pending := rfl

/-! ### modArch -/

@[simp] theorem modArch_sys (s : State) (c : Nat) (f : Arch → Arch) : (s.modArch c f).sys = s.sys := rfl
@[simp] theorem modArch_pages (s : State) (c : Nat) (f : Arch → Arch) : (s.modArch c f).pages = s.pages := rfl
@[simp] theorem modArch_latch (s : State) (c : Nat) (f : Arch → Arch) : (s.modArch c f).latch = s.latch := rfl
@[simp] theorem modArch_clus (s : State) (c : Nat) (f : Arch → Arch) : (s.modArch c f).clus = s.clus := rfl
@[simp] theorem modArch_dram (s : State) (c : Nat) (f : Arch → Arch) : (s.modArch c f).dram = s.dram := rfl
@[simp] theorem modArch_hbm (s : State) (c : Nat) (f : Arch → Arch) : (s.modArch c f).hbm = s.hbm := rfl
@[simp] theorem modArch_ecc (s : State) (c : Nat) (f : Arch → Arch) : (s.modArch c f).ecc = s.ecc := rfl
@[simp] theorem modArch_sched (s : State) (c : Nat) (f : Arch → Arch) : (s.modArch c f).sched = s.sched := rfl
@[simp] theorem modArch_host (s : State) (c : Nat) (f : Arch → Arch) : (s.modArch c f).host = s.host := rfl
@[simp] theorem modArch_fbk (s : State) (c : Nat) (f : Arch → Arch) : (s.modArch c f).fbk = s.fbk := rfl
@[simp] theorem modArch_gr (s : State) (c : Nat) (f : Arch → Arch) : (s.modArch c f).gr = s.gr := rfl
@[simp] theorem modArch_gz (s : State) (c : Nat) (f : Arch → Arch) : (s.modArch c f).gz = s.gz := rfl
@[simp] theorem modArch_fch (s : State) (c : Nat) (f : Arch → Arch) : (s.modArch c f).fch = s.fch := rfl
@[simp] theorem modArch_atl (s : State) (c : Nat) (f : Arch → Arch) : (s.modArch c f).atl = s.atl := rfl
@[simp] theorem modArch_upd (s : State) (c : Nat) (f : Arch → Arch) : (s.modArch c f).upd = s.upd := rfl
@[simp] theorem modArch_mdl (s : State) (c : Nat) (f : Arch → Arch) : (s.modArch c f).mdl = s.mdl := rfl
@[simp] theorem modArch_svy (s : State) (c : Nat) (f : Arch → Arch) : (s.modArch c f).svy = s.svy := rfl
@[simp] theorem modArch_pwr (s : State) (c : Nat) (f : Arch → Arch) : (s.modArch c f).pwr = s.pwr := rfl
@[simp] theorem modArch_thm (s : State) (c : Nat) (f : Arch → Arch) : (s.modArch c f).thm = s.thm := rfl
@[simp] theorem modArch_frz (s : State) (c : Nat) (f : Arch → Arch) : (s.modArch c f).frz = s.frz := rfl
@[simp] theorem modArch_port (s : State) (c : Nat) (f : Arch → Arch) : (s.modArch c f).port = s.port := rfl
@[simp] theorem modArch_side (s : State) (c : Nat) (f : Arch → Arch) : (s.modArch c f).side = s.side := rfl
@[simp] theorem modArch_bfl (s : State) (c : Nat) (f : Arch → Arch) : (s.modArch c f).bfl = s.bfl := rfl
@[simp] theorem modArch_fw (s : State) (c : Nat) (f : Arch → Arch) : (s.modArch c f).fw = s.fw := rfl
@[simp] theorem modArch_sec (s : State) (c : Nat) (f : Arch → Arch) : (s.modArch c f).sec = s.sec := rfl
@[simp] theorem modArch_stored (s : State) (c : Nat) (f : Arch → Arch) : (s.modArch c f).stored = s.stored := rfl
@[simp] theorem modArch_free (s : State) (c : Nat) (f : Arch → Arch) : (s.modArch c f).free = s.free := rfl
@[simp] theorem modArch_pending (s : State) (c : Nat) (f : Arch → Arch) : (s.modArch c f).pending = s.pending := rfl

/-! ### next -/

@[simp] theorem next_sys (s : State) (c : Nat) : (s.next c).sys = s.sys := rfl
@[simp] theorem next_pages (s : State) (c : Nat) : (s.next c).pages = s.pages := rfl
@[simp] theorem next_latch (s : State) (c : Nat) : (s.next c).latch = s.latch := rfl
@[simp] theorem next_clus (s : State) (c : Nat) : (s.next c).clus = s.clus := rfl
@[simp] theorem next_dram (s : State) (c : Nat) : (s.next c).dram = s.dram := rfl
@[simp] theorem next_hbm (s : State) (c : Nat) : (s.next c).hbm = s.hbm := rfl
@[simp] theorem next_ecc (s : State) (c : Nat) : (s.next c).ecc = s.ecc := rfl
@[simp] theorem next_sched (s : State) (c : Nat) : (s.next c).sched = s.sched := rfl
@[simp] theorem next_host (s : State) (c : Nat) : (s.next c).host = s.host := rfl
@[simp] theorem next_fbk (s : State) (c : Nat) : (s.next c).fbk = s.fbk := rfl
@[simp] theorem next_gr (s : State) (c : Nat) : (s.next c).gr = s.gr := rfl
@[simp] theorem next_gz (s : State) (c : Nat) : (s.next c).gz = s.gz := rfl
@[simp] theorem next_fch (s : State) (c : Nat) : (s.next c).fch = s.fch := rfl
@[simp] theorem next_atl (s : State) (c : Nat) : (s.next c).atl = s.atl := rfl
@[simp] theorem next_upd (s : State) (c : Nat) : (s.next c).upd = s.upd := rfl
@[simp] theorem next_mdl (s : State) (c : Nat) : (s.next c).mdl = s.mdl := rfl
@[simp] theorem next_svy (s : State) (c : Nat) : (s.next c).svy = s.svy := rfl
@[simp] theorem next_pwr (s : State) (c : Nat) : (s.next c).pwr = s.pwr := rfl
@[simp] theorem next_thm (s : State) (c : Nat) : (s.next c).thm = s.thm := rfl
@[simp] theorem next_frz (s : State) (c : Nat) : (s.next c).frz = s.frz := rfl
@[simp] theorem next_port (s : State) (c : Nat) : (s.next c).port = s.port := rfl
@[simp] theorem next_side (s : State) (c : Nat) : (s.next c).side = s.side := rfl
@[simp] theorem next_bfl (s : State) (c : Nat) : (s.next c).bfl = s.bfl := rfl
@[simp] theorem next_fw (s : State) (c : Nat) : (s.next c).fw = s.fw := rfl
@[simp] theorem next_sec (s : State) (c : Nat) : (s.next c).sec = s.sec := rfl
@[simp] theorem next_stored (s : State) (c : Nat) : (s.next c).stored = s.stored := rfl
@[simp] theorem next_free (s : State) (c : Nat) : (s.next c).free = s.free := rfl
@[simp] theorem next_pending (s : State) (c : Nat) : (s.next c).pending = s.pending := rfl

/-! ### jump -/

@[simp] theorem jump_sys (s : State) (c n : Nat) : (s.jump c n).sys = s.sys := rfl
@[simp] theorem jump_pages (s : State) (c n : Nat) : (s.jump c n).pages = s.pages := rfl
@[simp] theorem jump_latch (s : State) (c n : Nat) : (s.jump c n).latch = s.latch := rfl
@[simp] theorem jump_clus (s : State) (c n : Nat) : (s.jump c n).clus = s.clus := rfl
@[simp] theorem jump_dram (s : State) (c n : Nat) : (s.jump c n).dram = s.dram := rfl
@[simp] theorem jump_hbm (s : State) (c n : Nat) : (s.jump c n).hbm = s.hbm := rfl
@[simp] theorem jump_ecc (s : State) (c n : Nat) : (s.jump c n).ecc = s.ecc := rfl
@[simp] theorem jump_sched (s : State) (c n : Nat) : (s.jump c n).sched = s.sched := rfl
@[simp] theorem jump_host (s : State) (c n : Nat) : (s.jump c n).host = s.host := rfl
@[simp] theorem jump_fbk (s : State) (c n : Nat) : (s.jump c n).fbk = s.fbk := rfl
@[simp] theorem jump_gr (s : State) (c n : Nat) : (s.jump c n).gr = s.gr := rfl
@[simp] theorem jump_gz (s : State) (c n : Nat) : (s.jump c n).gz = s.gz := rfl
@[simp] theorem jump_fch (s : State) (c n : Nat) : (s.jump c n).fch = s.fch := rfl
@[simp] theorem jump_atl (s : State) (c n : Nat) : (s.jump c n).atl = s.atl := rfl
@[simp] theorem jump_upd (s : State) (c n : Nat) : (s.jump c n).upd = s.upd := rfl
@[simp] theorem jump_mdl (s : State) (c n : Nat) : (s.jump c n).mdl = s.mdl := rfl
@[simp] theorem jump_svy (s : State) (c n : Nat) : (s.jump c n).svy = s.svy := rfl
@[simp] theorem jump_pwr (s : State) (c n : Nat) : (s.jump c n).pwr = s.pwr := rfl
@[simp] theorem jump_thm (s : State) (c n : Nat) : (s.jump c n).thm = s.thm := rfl
@[simp] theorem jump_frz (s : State) (c n : Nat) : (s.jump c n).frz = s.frz := rfl
@[simp] theorem jump_port (s : State) (c n : Nat) : (s.jump c n).port = s.port := rfl
@[simp] theorem jump_side (s : State) (c n : Nat) : (s.jump c n).side = s.side := rfl
@[simp] theorem jump_bfl (s : State) (c n : Nat) : (s.jump c n).bfl = s.bfl := rfl
@[simp] theorem jump_fw (s : State) (c n : Nat) : (s.jump c n).fw = s.fw := rfl
@[simp] theorem jump_sec (s : State) (c n : Nat) : (s.jump c n).sec = s.sec := rfl
@[simp] theorem jump_stored (s : State) (c n : Nat) : (s.jump c n).stored = s.stored := rfl
@[simp] theorem jump_free (s : State) (c n : Nat) : (s.jump c n).free = s.free := rfl
@[simp] theorem jump_pending (s : State) (c n : Nat) : (s.jump c n).pending = s.pending := rfl

/-! ### setClu -/

@[simp] theorem setClu_sys (s : State) (k : Nat) (x : Cluster) : (s.setClu k x).sys = s.sys := rfl
@[simp] theorem setClu_pages (s : State) (k : Nat) (x : Cluster) : (s.setClu k x).pages = s.pages := rfl
@[simp] theorem setClu_latch (s : State) (k : Nat) (x : Cluster) : (s.setClu k x).latch = s.latch := rfl
@[simp] theorem setClu_cores (s : State) (k : Nat) (x : Cluster) : (s.setClu k x).cores = s.cores := rfl
@[simp] theorem setClu_clus (s : State) (k : Nat) (x : Cluster) : (s.setClu k x).clus = mset {} s.clus k x := rfl
@[simp] theorem setClu_dram (s : State) (k : Nat) (x : Cluster) : (s.setClu k x).dram = s.dram := rfl
@[simp] theorem setClu_hbm (s : State) (k : Nat) (x : Cluster) : (s.setClu k x).hbm = s.hbm := rfl
@[simp] theorem setClu_ecc (s : State) (k : Nat) (x : Cluster) : (s.setClu k x).ecc = s.ecc := rfl
@[simp] theorem setClu_sched (s : State) (k : Nat) (x : Cluster) : (s.setClu k x).sched = s.sched := rfl
@[simp] theorem setClu_host (s : State) (k : Nat) (x : Cluster) : (s.setClu k x).host = s.host := rfl
@[simp] theorem setClu_fbk (s : State) (k : Nat) (x : Cluster) : (s.setClu k x).fbk = s.fbk := rfl
@[simp] theorem setClu_gr (s : State) (k : Nat) (x : Cluster) : (s.setClu k x).gr = s.gr := rfl
@[simp] theorem setClu_gz (s : State) (k : Nat) (x : Cluster) : (s.setClu k x).gz = s.gz := rfl
@[simp] theorem setClu_fch (s : State) (k : Nat) (x : Cluster) : (s.setClu k x).fch = s.fch := rfl
@[simp] theorem setClu_atl (s : State) (k : Nat) (x : Cluster) : (s.setClu k x).atl = s.atl := rfl
@[simp] theorem setClu_upd (s : State) (k : Nat) (x : Cluster) : (s.setClu k x).upd = s.upd := rfl
@[simp] theorem setClu_mdl (s : State) (k : Nat) (x : Cluster) : (s.setClu k x).mdl = s.mdl := rfl
@[simp] theorem setClu_svy (s : State) (k : Nat) (x : Cluster) : (s.setClu k x).svy = s.svy := rfl
@[simp] theorem setClu_pwr (s : State) (k : Nat) (x : Cluster) : (s.setClu k x).pwr = s.pwr := rfl
@[simp] theorem setClu_thm (s : State) (k : Nat) (x : Cluster) : (s.setClu k x).thm = s.thm := rfl
@[simp] theorem setClu_frz (s : State) (k : Nat) (x : Cluster) : (s.setClu k x).frz = s.frz := rfl
@[simp] theorem setClu_port (s : State) (k : Nat) (x : Cluster) : (s.setClu k x).port = s.port := rfl
@[simp] theorem setClu_side (s : State) (k : Nat) (x : Cluster) : (s.setClu k x).side = s.side := rfl
@[simp] theorem setClu_bfl (s : State) (k : Nat) (x : Cluster) : (s.setClu k x).bfl = s.bfl := rfl
@[simp] theorem setClu_fw (s : State) (k : Nat) (x : Cluster) : (s.setClu k x).fw = s.fw := rfl
@[simp] theorem setClu_sec (s : State) (k : Nat) (x : Cluster) : (s.setClu k x).sec = s.sec := rfl
@[simp] theorem setClu_stored (s : State) (k : Nat) (x : Cluster) : (s.setClu k x).stored = s.stored := rfl
@[simp] theorem setClu_free (s : State) (k : Nat) (x : Cluster) : (s.setClu k x).free = s.free := rfl
@[simp] theorem setClu_pending (s : State) (k : Nat) (x : Cluster) : (s.setClu k x).pending = s.pending := rfl

/-! ### modClu -/

@[simp] theorem modClu_sys (s : State) (k : Nat) (f : Cluster → Cluster) : (s.modClu k f).sys = s.sys := rfl
@[simp] theorem modClu_pages (s : State) (k : Nat) (f : Cluster → Cluster) : (s.modClu k f).pages = s.pages := rfl
@[simp] theorem modClu_latch (s : State) (k : Nat) (f : Cluster → Cluster) : (s.modClu k f).latch = s.latch := rfl
@[simp] theorem modClu_cores (s : State) (k : Nat) (f : Cluster → Cluster) : (s.modClu k f).cores = s.cores := rfl
@[simp] theorem modClu_clus (s : State) (k : Nat) (f : Cluster → Cluster) : (s.modClu k f).clus = mset {} s.clus k (f (s.clu k)) := rfl
@[simp] theorem modClu_dram (s : State) (k : Nat) (f : Cluster → Cluster) : (s.modClu k f).dram = s.dram := rfl
@[simp] theorem modClu_hbm (s : State) (k : Nat) (f : Cluster → Cluster) : (s.modClu k f).hbm = s.hbm := rfl
@[simp] theorem modClu_ecc (s : State) (k : Nat) (f : Cluster → Cluster) : (s.modClu k f).ecc = s.ecc := rfl
@[simp] theorem modClu_sched (s : State) (k : Nat) (f : Cluster → Cluster) : (s.modClu k f).sched = s.sched := rfl
@[simp] theorem modClu_host (s : State) (k : Nat) (f : Cluster → Cluster) : (s.modClu k f).host = s.host := rfl
@[simp] theorem modClu_fbk (s : State) (k : Nat) (f : Cluster → Cluster) : (s.modClu k f).fbk = s.fbk := rfl
@[simp] theorem modClu_gr (s : State) (k : Nat) (f : Cluster → Cluster) : (s.modClu k f).gr = s.gr := rfl
@[simp] theorem modClu_gz (s : State) (k : Nat) (f : Cluster → Cluster) : (s.modClu k f).gz = s.gz := rfl
@[simp] theorem modClu_fch (s : State) (k : Nat) (f : Cluster → Cluster) : (s.modClu k f).fch = s.fch := rfl
@[simp] theorem modClu_atl (s : State) (k : Nat) (f : Cluster → Cluster) : (s.modClu k f).atl = s.atl := rfl
@[simp] theorem modClu_upd (s : State) (k : Nat) (f : Cluster → Cluster) : (s.modClu k f).upd = s.upd := rfl
@[simp] theorem modClu_mdl (s : State) (k : Nat) (f : Cluster → Cluster) : (s.modClu k f).mdl = s.mdl := rfl
@[simp] theorem modClu_svy (s : State) (k : Nat) (f : Cluster → Cluster) : (s.modClu k f).svy = s.svy := rfl
@[simp] theorem modClu_pwr (s : State) (k : Nat) (f : Cluster → Cluster) : (s.modClu k f).pwr = s.pwr := rfl
@[simp] theorem modClu_thm (s : State) (k : Nat) (f : Cluster → Cluster) : (s.modClu k f).thm = s.thm := rfl
@[simp] theorem modClu_frz (s : State) (k : Nat) (f : Cluster → Cluster) : (s.modClu k f).frz = s.frz := rfl
@[simp] theorem modClu_port (s : State) (k : Nat) (f : Cluster → Cluster) : (s.modClu k f).port = s.port := rfl
@[simp] theorem modClu_side (s : State) (k : Nat) (f : Cluster → Cluster) : (s.modClu k f).side = s.side := rfl
@[simp] theorem modClu_bfl (s : State) (k : Nat) (f : Cluster → Cluster) : (s.modClu k f).bfl = s.bfl := rfl
@[simp] theorem modClu_fw (s : State) (k : Nat) (f : Cluster → Cluster) : (s.modClu k f).fw = s.fw := rfl
@[simp] theorem modClu_sec (s : State) (k : Nat) (f : Cluster → Cluster) : (s.modClu k f).sec = s.sec := rfl
@[simp] theorem modClu_stored (s : State) (k : Nat) (f : Cluster → Cluster) : (s.modClu k f).stored = s.stored := rfl
@[simp] theorem modClu_free (s : State) (k : Nat) (f : Cluster → Cluster) : (s.modClu k f).free = s.free := rfl
@[simp] theorem modClu_pending (s : State) (k : Nat) (f : Cluster → Cluster) : (s.modClu k f).pending = s.pending := rfl

/-! ### modPage -/

@[simp] theorem modPage_sys (s : State) (n : Nat) (f : Page → Page) : (s.modPage n f).sys = s.sys := rfl
@[simp] theorem modPage_pages (s : State) (n : Nat) (f : Page → Page) : (s.modPage n f).pages = mset {} s.pages n (f (s.page n)) := rfl
@[simp] theorem modPage_latch (s : State) (n : Nat) (f : Page → Page) : (s.modPage n f).latch = s.latch := rfl
@[simp] theorem modPage_cores (s : State) (n : Nat) (f : Page → Page) : (s.modPage n f).cores = s.cores := rfl
@[simp] theorem modPage_clus (s : State) (n : Nat) (f : Page → Page) : (s.modPage n f).clus = s.clus := rfl
@[simp] theorem modPage_dram (s : State) (n : Nat) (f : Page → Page) : (s.modPage n f).dram = s.dram := rfl
@[simp] theorem modPage_hbm (s : State) (n : Nat) (f : Page → Page) : (s.modPage n f).hbm = s.hbm := rfl
@[simp] theorem modPage_ecc (s : State) (n : Nat) (f : Page → Page) : (s.modPage n f).ecc = s.ecc := rfl
@[simp] theorem modPage_sched (s : State) (n : Nat) (f : Page → Page) : (s.modPage n f).sched = s.sched := rfl
@[simp] theorem modPage_host (s : State) (n : Nat) (f : Page → Page) : (s.modPage n f).host = s.host := rfl
@[simp] theorem modPage_fbk (s : State) (n : Nat) (f : Page → Page) : (s.modPage n f).fbk = s.fbk := rfl
@[simp] theorem modPage_gr (s : State) (n : Nat) (f : Page → Page) : (s.modPage n f).gr = s.gr := rfl
@[simp] theorem modPage_gz (s : State) (n : Nat) (f : Page → Page) : (s.modPage n f).gz = s.gz := rfl
@[simp] theorem modPage_fch (s : State) (n : Nat) (f : Page → Page) : (s.modPage n f).fch = s.fch := rfl
@[simp] theorem modPage_atl (s : State) (n : Nat) (f : Page → Page) : (s.modPage n f).atl = s.atl := rfl
@[simp] theorem modPage_upd (s : State) (n : Nat) (f : Page → Page) : (s.modPage n f).upd = s.upd := rfl
@[simp] theorem modPage_mdl (s : State) (n : Nat) (f : Page → Page) : (s.modPage n f).mdl = s.mdl := rfl
@[simp] theorem modPage_svy (s : State) (n : Nat) (f : Page → Page) : (s.modPage n f).svy = s.svy := rfl
@[simp] theorem modPage_pwr (s : State) (n : Nat) (f : Page → Page) : (s.modPage n f).pwr = s.pwr := rfl
@[simp] theorem modPage_thm (s : State) (n : Nat) (f : Page → Page) : (s.modPage n f).thm = s.thm := rfl
@[simp] theorem modPage_frz (s : State) (n : Nat) (f : Page → Page) : (s.modPage n f).frz = s.frz := rfl
@[simp] theorem modPage_port (s : State) (n : Nat) (f : Page → Page) : (s.modPage n f).port = s.port := rfl
@[simp] theorem modPage_side (s : State) (n : Nat) (f : Page → Page) : (s.modPage n f).side = s.side := rfl
@[simp] theorem modPage_bfl (s : State) (n : Nat) (f : Page → Page) : (s.modPage n f).bfl = s.bfl := rfl
@[simp] theorem modPage_fw (s : State) (n : Nat) (f : Page → Page) : (s.modPage n f).fw = s.fw := rfl
@[simp] theorem modPage_sec (s : State) (n : Nat) (f : Page → Page) : (s.modPage n f).sec = s.sec := rfl
@[simp] theorem modPage_stored (s : State) (n : Nat) (f : Page → Page) : (s.modPage n f).stored = s.stored := rfl
@[simp] theorem modPage_free (s : State) (n : Nat) (f : Page → Page) : (s.modPage n f).free = s.free := rfl
@[simp] theorem modPage_pending (s : State) (n : Nat) (f : Page → Page) : (s.modPage n f).pending = s.pending := rfl

/-! ### modStack -/

@[simp] theorem modStack_sys (s : State) (n : Nat) (f : Stack → Stack) : (s.modStack n f).sys = s.sys := rfl
@[simp] theorem modStack_pages (s : State) (n : Nat) (f : Stack → Stack) : (s.modStack n f).pages = s.pages := rfl
@[simp] theorem modStack_latch (s : State) (n : Nat) (f : Stack → Stack) : (s.modStack n f).latch = s.latch := rfl
@[simp] theorem modStack_cores (s : State) (n : Nat) (f : Stack → Stack) : (s.modStack n f).cores = s.cores := rfl
@[simp] theorem modStack_clus (s : State) (n : Nat) (f : Stack → Stack) : (s.modStack n f).clus = s.clus := rfl
@[simp] theorem modStack_dram (s : State) (n : Nat) (f : Stack → Stack) : (s.modStack n f).dram = s.dram := rfl
@[simp] theorem modStack_hbm (s : State) (n : Nat) (f : Stack → Stack) : (s.modStack n f).hbm = mset {} s.hbm n (f (s.stack n)) := rfl
@[simp] theorem modStack_ecc (s : State) (n : Nat) (f : Stack → Stack) : (s.modStack n f).ecc = s.ecc := rfl
@[simp] theorem modStack_sched (s : State) (n : Nat) (f : Stack → Stack) : (s.modStack n f).sched = s.sched := rfl
@[simp] theorem modStack_host (s : State) (n : Nat) (f : Stack → Stack) : (s.modStack n f).host = s.host := rfl
@[simp] theorem modStack_fbk (s : State) (n : Nat) (f : Stack → Stack) : (s.modStack n f).fbk = s.fbk := rfl
@[simp] theorem modStack_gr (s : State) (n : Nat) (f : Stack → Stack) : (s.modStack n f).gr = s.gr := rfl
@[simp] theorem modStack_gz (s : State) (n : Nat) (f : Stack → Stack) : (s.modStack n f).gz = s.gz := rfl
@[simp] theorem modStack_fch (s : State) (n : Nat) (f : Stack → Stack) : (s.modStack n f).fch = s.fch := rfl
@[simp] theorem modStack_atl (s : State) (n : Nat) (f : Stack → Stack) : (s.modStack n f).atl = s.atl := rfl
@[simp] theorem modStack_upd (s : State) (n : Nat) (f : Stack → Stack) : (s.modStack n f).upd = s.upd := rfl
@[simp] theorem modStack_mdl (s : State) (n : Nat) (f : Stack → Stack) : (s.modStack n f).mdl = s.mdl := rfl
@[simp] theorem modStack_svy (s : State) (n : Nat) (f : Stack → Stack) : (s.modStack n f).svy = s.svy := rfl
@[simp] theorem modStack_pwr (s : State) (n : Nat) (f : Stack → Stack) : (s.modStack n f).pwr = s.pwr := rfl
@[simp] theorem modStack_thm (s : State) (n : Nat) (f : Stack → Stack) : (s.modStack n f).thm = s.thm := rfl
@[simp] theorem modStack_frz (s : State) (n : Nat) (f : Stack → Stack) : (s.modStack n f).frz = s.frz := rfl
@[simp] theorem modStack_port (s : State) (n : Nat) (f : Stack → Stack) : (s.modStack n f).port = s.port := rfl
@[simp] theorem modStack_side (s : State) (n : Nat) (f : Stack → Stack) : (s.modStack n f).side = s.side := rfl
@[simp] theorem modStack_bfl (s : State) (n : Nat) (f : Stack → Stack) : (s.modStack n f).bfl = s.bfl := rfl
@[simp] theorem modStack_fw (s : State) (n : Nat) (f : Stack → Stack) : (s.modStack n f).fw = s.fw := rfl
@[simp] theorem modStack_sec (s : State) (n : Nat) (f : Stack → Stack) : (s.modStack n f).sec = s.sec := rfl
@[simp] theorem modStack_stored (s : State) (n : Nat) (f : Stack → Stack) : (s.modStack n f).stored = s.stored := rfl
@[simp] theorem modStack_free (s : State) (n : Nat) (f : Stack → Stack) : (s.modStack n f).free = s.free := rfl
@[simp] theorem modStack_pending (s : State) (n : Nat) (f : Stack → Stack) : (s.modStack n f).pending = s.pending := rfl

/-! ### countErr -/

@[simp] theorem countErr_sys (s : State) (b : Blk) : (s.countErr b).sys = s.sys := rfl
@[simp] theorem countErr_latch (s : State) (b : Blk) : (s.countErr b).latch = s.latch := rfl
@[simp] theorem countErr_cores (s : State) (b : Blk) : (s.countErr b).cores = s.cores := rfl
@[simp] theorem countErr_clus (s : State) (b : Blk) : (s.countErr b).clus = s.clus := rfl
@[simp] theorem countErr_dram (s : State) (b : Blk) : (s.countErr b).dram = s.dram := rfl
@[simp] theorem countErr_hbm (s : State) (b : Blk) : (s.countErr b).hbm = s.hbm := rfl
@[simp] theorem countErr_ecc (s : State) (b : Blk) : (s.countErr b).ecc = s.ecc := rfl
@[simp] theorem countErr_sched (s : State) (b : Blk) : (s.countErr b).sched = s.sched := rfl
@[simp] theorem countErr_host (s : State) (b : Blk) : (s.countErr b).host = s.host := rfl
@[simp] theorem countErr_fbk (s : State) (b : Blk) : (s.countErr b).fbk = s.fbk := rfl
@[simp] theorem countErr_gr (s : State) (b : Blk) : (s.countErr b).gr = s.gr := rfl
@[simp] theorem countErr_gz (s : State) (b : Blk) : (s.countErr b).gz = s.gz := rfl
@[simp] theorem countErr_fch (s : State) (b : Blk) : (s.countErr b).fch = s.fch := rfl
@[simp] theorem countErr_atl (s : State) (b : Blk) : (s.countErr b).atl = s.atl := rfl
@[simp] theorem countErr_upd (s : State) (b : Blk) : (s.countErr b).upd = s.upd := rfl
@[simp] theorem countErr_mdl (s : State) (b : Blk) : (s.countErr b).mdl = s.mdl := rfl
@[simp] theorem countErr_svy (s : State) (b : Blk) : (s.countErr b).svy = s.svy := rfl
@[simp] theorem countErr_pwr (s : State) (b : Blk) : (s.countErr b).pwr = s.pwr := rfl
@[simp] theorem countErr_thm (s : State) (b : Blk) : (s.countErr b).thm = s.thm := rfl
@[simp] theorem countErr_frz (s : State) (b : Blk) : (s.countErr b).frz = s.frz := rfl
@[simp] theorem countErr_port (s : State) (b : Blk) : (s.countErr b).port = s.port := rfl
@[simp] theorem countErr_side (s : State) (b : Blk) : (s.countErr b).side = s.side := rfl
@[simp] theorem countErr_bfl (s : State) (b : Blk) : (s.countErr b).bfl = s.bfl := rfl
@[simp] theorem countErr_fw (s : State) (b : Blk) : (s.countErr b).fw = s.fw := rfl
@[simp] theorem countErr_sec (s : State) (b : Blk) : (s.countErr b).sec = s.sec := rfl
@[simp] theorem countErr_stored (s : State) (b : Blk) : (s.countErr b).stored = s.stored := rfl
@[simp] theorem countErr_free (s : State) (b : Blk) : (s.countErr b).free = s.free := rfl
@[simp] theorem countErr_pending (s : State) (b : Blk) : (s.countErr b).pending = s.pending := rfl

/-! ### modCmd -/

@[simp] theorem modCmd_sys (s : State) (r : CmdRef) (f : Cmd → Cmd) : (s.modCmd r f).sys = s.sys := rfl
@[simp] theorem modCmd_pages (s : State) (r : CmdRef) (f : Cmd → Cmd) : (s.modCmd r f).pages = s.pages := rfl
@[simp] theorem modCmd_latch (s : State) (r : CmdRef) (f : Cmd → Cmd) : (s.modCmd r f).latch = s.latch := rfl
@[simp] theorem modCmd_cores (s : State) (r : CmdRef) (f : Cmd → Cmd) : (s.modCmd r f).cores = s.cores := rfl
@[simp] theorem modCmd_clus (s : State) (r : CmdRef) (f : Cmd → Cmd) : (s.modCmd r f).clus = s.clus := rfl
@[simp] theorem modCmd_dram (s : State) (r : CmdRef) (f : Cmd → Cmd) : (s.modCmd r f).dram = s.dram := rfl
@[simp] theorem modCmd_hbm (s : State) (r : CmdRef) (f : Cmd → Cmd) : (s.modCmd r f).hbm = s.hbm := rfl
@[simp] theorem modCmd_ecc (s : State) (r : CmdRef) (f : Cmd → Cmd) : (s.modCmd r f).ecc = s.ecc := rfl
@[simp] theorem modCmd_sched (s : State) (r : CmdRef) (f : Cmd → Cmd) : (s.modCmd r f).sched = s.sched := rfl
@[simp] theorem modCmd_fbk (s : State) (r : CmdRef) (f : Cmd → Cmd) : (s.modCmd r f).fbk = s.fbk := rfl
@[simp] theorem modCmd_gr (s : State) (r : CmdRef) (f : Cmd → Cmd) : (s.modCmd r f).gr = s.gr := rfl
@[simp] theorem modCmd_gz (s : State) (r : CmdRef) (f : Cmd → Cmd) : (s.modCmd r f).gz = s.gz := rfl
@[simp] theorem modCmd_fch (s : State) (r : CmdRef) (f : Cmd → Cmd) : (s.modCmd r f).fch = s.fch := rfl
@[simp] theorem modCmd_atl (s : State) (r : CmdRef) (f : Cmd → Cmd) : (s.modCmd r f).atl = s.atl := rfl
@[simp] theorem modCmd_upd (s : State) (r : CmdRef) (f : Cmd → Cmd) : (s.modCmd r f).upd = s.upd := rfl
@[simp] theorem modCmd_mdl (s : State) (r : CmdRef) (f : Cmd → Cmd) : (s.modCmd r f).mdl = s.mdl := rfl
@[simp] theorem modCmd_svy (s : State) (r : CmdRef) (f : Cmd → Cmd) : (s.modCmd r f).svy = s.svy := rfl
@[simp] theorem modCmd_pwr (s : State) (r : CmdRef) (f : Cmd → Cmd) : (s.modCmd r f).pwr = s.pwr := rfl
@[simp] theorem modCmd_thm (s : State) (r : CmdRef) (f : Cmd → Cmd) : (s.modCmd r f).thm = s.thm := rfl
@[simp] theorem modCmd_frz (s : State) (r : CmdRef) (f : Cmd → Cmd) : (s.modCmd r f).frz = s.frz := rfl
@[simp] theorem modCmd_port (s : State) (r : CmdRef) (f : Cmd → Cmd) : (s.modCmd r f).port = s.port := rfl
@[simp] theorem modCmd_side (s : State) (r : CmdRef) (f : Cmd → Cmd) : (s.modCmd r f).side = s.side := rfl
@[simp] theorem modCmd_bfl (s : State) (r : CmdRef) (f : Cmd → Cmd) : (s.modCmd r f).bfl = s.bfl := rfl
@[simp] theorem modCmd_fw (s : State) (r : CmdRef) (f : Cmd → Cmd) : (s.modCmd r f).fw = s.fw := rfl
@[simp] theorem modCmd_sec (s : State) (r : CmdRef) (f : Cmd → Cmd) : (s.modCmd r f).sec = s.sec := rfl
@[simp] theorem modCmd_stored (s : State) (r : CmdRef) (f : Cmd → Cmd) : (s.modCmd r f).stored = s.stored := rfl
@[simp] theorem modCmd_free (s : State) (r : CmdRef) (f : Cmd → Cmd) : (s.modCmd r f).free = s.free := rfl
@[simp] theorem modCmd_pending (s : State) (r : CmdRef) (f : Cmd → Cmd) : (s.modCmd r f).pending = s.pending := rfl

/-! ### modQp -/

@[simp] theorem modQp_sys (s : State) (p q : Nat) (f : Qp → Qp) : (s.modQp p q f).sys = s.sys := rfl
@[simp] theorem modQp_pages (s : State) (p q : Nat) (f : Qp → Qp) : (s.modQp p q f).pages = s.pages := rfl
@[simp] theorem modQp_latch (s : State) (p q : Nat) (f : Qp → Qp) : (s.modQp p q f).latch = s.latch := rfl
@[simp] theorem modQp_cores (s : State) (p q : Nat) (f : Qp → Qp) : (s.modQp p q f).cores = s.cores := rfl
@[simp] theorem modQp_clus (s : State) (p q : Nat) (f : Qp → Qp) : (s.modQp p q f).clus = s.clus := rfl
@[simp] theorem modQp_dram (s : State) (p q : Nat) (f : Qp → Qp) : (s.modQp p q f).dram = s.dram := rfl
@[simp] theorem modQp_hbm (s : State) (p q : Nat) (f : Qp → Qp) : (s.modQp p q f).hbm = s.hbm := rfl
@[simp] theorem modQp_ecc (s : State) (p q : Nat) (f : Qp → Qp) : (s.modQp p q f).ecc = s.ecc := rfl
@[simp] theorem modQp_sched (s : State) (p q : Nat) (f : Qp → Qp) : (s.modQp p q f).sched = s.sched := rfl
@[simp] theorem modQp_fbk (s : State) (p q : Nat) (f : Qp → Qp) : (s.modQp p q f).fbk = s.fbk := rfl
@[simp] theorem modQp_gr (s : State) (p q : Nat) (f : Qp → Qp) : (s.modQp p q f).gr = s.gr := rfl
@[simp] theorem modQp_gz (s : State) (p q : Nat) (f : Qp → Qp) : (s.modQp p q f).gz = s.gz := rfl
@[simp] theorem modQp_fch (s : State) (p q : Nat) (f : Qp → Qp) : (s.modQp p q f).fch = s.fch := rfl
@[simp] theorem modQp_atl (s : State) (p q : Nat) (f : Qp → Qp) : (s.modQp p q f).atl = s.atl := rfl
@[simp] theorem modQp_upd (s : State) (p q : Nat) (f : Qp → Qp) : (s.modQp p q f).upd = s.upd := rfl
@[simp] theorem modQp_mdl (s : State) (p q : Nat) (f : Qp → Qp) : (s.modQp p q f).mdl = s.mdl := rfl
@[simp] theorem modQp_svy (s : State) (p q : Nat) (f : Qp → Qp) : (s.modQp p q f).svy = s.svy := rfl
@[simp] theorem modQp_pwr (s : State) (p q : Nat) (f : Qp → Qp) : (s.modQp p q f).pwr = s.pwr := rfl
@[simp] theorem modQp_thm (s : State) (p q : Nat) (f : Qp → Qp) : (s.modQp p q f).thm = s.thm := rfl
@[simp] theorem modQp_frz (s : State) (p q : Nat) (f : Qp → Qp) : (s.modQp p q f).frz = s.frz := rfl
@[simp] theorem modQp_port (s : State) (p q : Nat) (f : Qp → Qp) : (s.modQp p q f).port = s.port := rfl
@[simp] theorem modQp_side (s : State) (p q : Nat) (f : Qp → Qp) : (s.modQp p q f).side = s.side := rfl
@[simp] theorem modQp_bfl (s : State) (p q : Nat) (f : Qp → Qp) : (s.modQp p q f).bfl = s.bfl := rfl
@[simp] theorem modQp_fw (s : State) (p q : Nat) (f : Qp → Qp) : (s.modQp p q f).fw = s.fw := rfl
@[simp] theorem modQp_sec (s : State) (p q : Nat) (f : Qp → Qp) : (s.modQp p q f).sec = s.sec := rfl
@[simp] theorem modQp_stored (s : State) (p q : Nat) (f : Qp → Qp) : (s.modQp p q f).stored = s.stored := rfl
@[simp] theorem modQp_free (s : State) (p q : Nat) (f : Qp → Qp) : (s.modQp p q f).free = s.free := rfl
@[simp] theorem modQp_pending (s : State) (p q : Nat) (f : Qp → Qp) : (s.modQp p q f).pending = s.pending := rfl

/-! ### modCtx -/

@[simp] theorem modCtx_sys (s : State) (x : Nat) (f : Ctx → Ctx) : (s.modCtx x f).sys = s.sys := rfl
@[simp] theorem modCtx_pages (s : State) (x : Nat) (f : Ctx → Ctx) : (s.modCtx x f).pages = s.pages := rfl
@[simp] theorem modCtx_latch (s : State) (x : Nat) (f : Ctx → Ctx) : (s.modCtx x f).latch = s.latch := rfl
@[simp] theorem modCtx_cores (s : State) (x : Nat) (f : Ctx → Ctx) : (s.modCtx x f).cores = s.cores := rfl
@[simp] theorem modCtx_clus (s : State) (x : Nat) (f : Ctx → Ctx) : (s.modCtx x f).clus = s.clus := rfl
@[simp] theorem modCtx_dram (s : State) (x : Nat) (f : Ctx → Ctx) : (s.modCtx x f).dram = s.dram := rfl
@[simp] theorem modCtx_hbm (s : State) (x : Nat) (f : Ctx → Ctx) : (s.modCtx x f).hbm = s.hbm := rfl
@[simp] theorem modCtx_ecc (s : State) (x : Nat) (f : Ctx → Ctx) : (s.modCtx x f).ecc = s.ecc := rfl
@[simp] theorem modCtx_host (s : State) (x : Nat) (f : Ctx → Ctx) : (s.modCtx x f).host = s.host := rfl
@[simp] theorem modCtx_fbk (s : State) (x : Nat) (f : Ctx → Ctx) : (s.modCtx x f).fbk = s.fbk := rfl
@[simp] theorem modCtx_gr (s : State) (x : Nat) (f : Ctx → Ctx) : (s.modCtx x f).gr = s.gr := rfl
@[simp] theorem modCtx_gz (s : State) (x : Nat) (f : Ctx → Ctx) : (s.modCtx x f).gz = s.gz := rfl
@[simp] theorem modCtx_fch (s : State) (x : Nat) (f : Ctx → Ctx) : (s.modCtx x f).fch = s.fch := rfl
@[simp] theorem modCtx_atl (s : State) (x : Nat) (f : Ctx → Ctx) : (s.modCtx x f).atl = s.atl := rfl
@[simp] theorem modCtx_upd (s : State) (x : Nat) (f : Ctx → Ctx) : (s.modCtx x f).upd = s.upd := rfl
@[simp] theorem modCtx_mdl (s : State) (x : Nat) (f : Ctx → Ctx) : (s.modCtx x f).mdl = s.mdl := rfl
@[simp] theorem modCtx_svy (s : State) (x : Nat) (f : Ctx → Ctx) : (s.modCtx x f).svy = s.svy := rfl
@[simp] theorem modCtx_pwr (s : State) (x : Nat) (f : Ctx → Ctx) : (s.modCtx x f).pwr = s.pwr := rfl
@[simp] theorem modCtx_thm (s : State) (x : Nat) (f : Ctx → Ctx) : (s.modCtx x f).thm = s.thm := rfl
@[simp] theorem modCtx_frz (s : State) (x : Nat) (f : Ctx → Ctx) : (s.modCtx x f).frz = s.frz := rfl
@[simp] theorem modCtx_port (s : State) (x : Nat) (f : Ctx → Ctx) : (s.modCtx x f).port = s.port := rfl
@[simp] theorem modCtx_side (s : State) (x : Nat) (f : Ctx → Ctx) : (s.modCtx x f).side = s.side := rfl
@[simp] theorem modCtx_bfl (s : State) (x : Nat) (f : Ctx → Ctx) : (s.modCtx x f).bfl = s.bfl := rfl
@[simp] theorem modCtx_fw (s : State) (x : Nat) (f : Ctx → Ctx) : (s.modCtx x f).fw = s.fw := rfl
@[simp] theorem modCtx_sec (s : State) (x : Nat) (f : Ctx → Ctx) : (s.modCtx x f).sec = s.sec := rfl
@[simp] theorem modCtx_stored (s : State) (x : Nat) (f : Ctx → Ctx) : (s.modCtx x f).stored = s.stored := rfl
@[simp] theorem modCtx_free (s : State) (x : Nat) (f : Ctx → Ctx) : (s.modCtx x f).free = s.free := rfl
@[simp] theorem modCtx_pending (s : State) (x : Nat) (f : Ctx → Ctx) : (s.modCtx x f).pending = s.pending := rfl

/-! ### modTab -/

@[simp] theorem modTab_sys (s : State) (tk : Nat) (f : Table → Table) : (s.modTab tk f).sys = s.sys := rfl
@[simp] theorem modTab_pages (s : State) (tk : Nat) (f : Table → Table) : (s.modTab tk f).pages = s.pages := rfl
@[simp] theorem modTab_latch (s : State) (tk : Nat) (f : Table → Table) : (s.modTab tk f).latch = s.latch := rfl
@[simp] theorem modTab_cores (s : State) (tk : Nat) (f : Table → Table) : (s.modTab tk f).cores = s.cores := rfl
@[simp] theorem modTab_clus (s : State) (tk : Nat) (f : Table → Table) : (s.modTab tk f).clus = s.clus := rfl
@[simp] theorem modTab_dram (s : State) (tk : Nat) (f : Table → Table) : (s.modTab tk f).dram = s.dram := rfl
@[simp] theorem modTab_hbm (s : State) (tk : Nat) (f : Table → Table) : (s.modTab tk f).hbm = s.hbm := rfl
@[simp] theorem modTab_ecc (s : State) (tk : Nat) (f : Table → Table) : (s.modTab tk f).ecc = s.ecc := rfl
@[simp] theorem modTab_sched (s : State) (tk : Nat) (f : Table → Table) : (s.modTab tk f).sched = s.sched := rfl
@[simp] theorem modTab_host (s : State) (tk : Nat) (f : Table → Table) : (s.modTab tk f).host = s.host := rfl
@[simp] theorem modTab_fbk (s : State) (tk : Nat) (f : Table → Table) : (s.modTab tk f).fbk = s.fbk := rfl
@[simp] theorem modTab_gr (s : State) (tk : Nat) (f : Table → Table) : (s.modTab tk f).gr = s.gr := rfl
@[simp] theorem modTab_gz (s : State) (tk : Nat) (f : Table → Table) : (s.modTab tk f).gz = s.gz := rfl
@[simp] theorem modTab_fch (s : State) (tk : Nat) (f : Table → Table) : (s.modTab tk f).fch = s.fch := rfl
@[simp] theorem modTab_upd (s : State) (tk : Nat) (f : Table → Table) : (s.modTab tk f).upd = s.upd := rfl
@[simp] theorem modTab_mdl (s : State) (tk : Nat) (f : Table → Table) : (s.modTab tk f).mdl = s.mdl := rfl
@[simp] theorem modTab_svy (s : State) (tk : Nat) (f : Table → Table) : (s.modTab tk f).svy = s.svy := rfl
@[simp] theorem modTab_pwr (s : State) (tk : Nat) (f : Table → Table) : (s.modTab tk f).pwr = s.pwr := rfl
@[simp] theorem modTab_thm (s : State) (tk : Nat) (f : Table → Table) : (s.modTab tk f).thm = s.thm := rfl
@[simp] theorem modTab_frz (s : State) (tk : Nat) (f : Table → Table) : (s.modTab tk f).frz = s.frz := rfl
@[simp] theorem modTab_port (s : State) (tk : Nat) (f : Table → Table) : (s.modTab tk f).port = s.port := rfl
@[simp] theorem modTab_side (s : State) (tk : Nat) (f : Table → Table) : (s.modTab tk f).side = s.side := rfl
@[simp] theorem modTab_bfl (s : State) (tk : Nat) (f : Table → Table) : (s.modTab tk f).bfl = s.bfl := rfl
@[simp] theorem modTab_fw (s : State) (tk : Nat) (f : Table → Table) : (s.modTab tk f).fw = s.fw := rfl
@[simp] theorem modTab_sec (s : State) (tk : Nat) (f : Table → Table) : (s.modTab tk f).sec = s.sec := rfl
@[simp] theorem modTab_stored (s : State) (tk : Nat) (f : Table → Table) : (s.modTab tk f).stored = s.stored := rfl
@[simp] theorem modTab_free (s : State) (tk : Nat) (f : Table → Table) : (s.modTab tk f).free = s.free := rfl
@[simp] theorem modTab_pending (s : State) (tk : Nat) (f : Table → Table) : (s.modTab tk f).pending = s.pending := rfl

/-! ### modVer -/

@[simp] theorem modVer_sys (s : State) (tk no : Nat) (f : AtVer → AtVer) : (s.modVer tk no f).sys = s.sys := rfl
@[simp] theorem modVer_pages (s : State) (tk no : Nat) (f : AtVer → AtVer) : (s.modVer tk no f).pages = s.pages := rfl
@[simp] theorem modVer_latch (s : State) (tk no : Nat) (f : AtVer → AtVer) : (s.modVer tk no f).latch = s.latch := rfl
@[simp] theorem modVer_cores (s : State) (tk no : Nat) (f : AtVer → AtVer) : (s.modVer tk no f).cores = s.cores := rfl
@[simp] theorem modVer_clus (s : State) (tk no : Nat) (f : AtVer → AtVer) : (s.modVer tk no f).clus = s.clus := rfl
@[simp] theorem modVer_dram (s : State) (tk no : Nat) (f : AtVer → AtVer) : (s.modVer tk no f).dram = s.dram := rfl
@[simp] theorem modVer_hbm (s : State) (tk no : Nat) (f : AtVer → AtVer) : (s.modVer tk no f).hbm = s.hbm := rfl
@[simp] theorem modVer_ecc (s : State) (tk no : Nat) (f : AtVer → AtVer) : (s.modVer tk no f).ecc = s.ecc := rfl
@[simp] theorem modVer_sched (s : State) (tk no : Nat) (f : AtVer → AtVer) : (s.modVer tk no f).sched = s.sched := rfl
@[simp] theorem modVer_host (s : State) (tk no : Nat) (f : AtVer → AtVer) : (s.modVer tk no f).host = s.host := rfl
@[simp] theorem modVer_fbk (s : State) (tk no : Nat) (f : AtVer → AtVer) : (s.modVer tk no f).fbk = s.fbk := rfl
@[simp] theorem modVer_gr (s : State) (tk no : Nat) (f : AtVer → AtVer) : (s.modVer tk no f).gr = s.gr := rfl
@[simp] theorem modVer_gz (s : State) (tk no : Nat) (f : AtVer → AtVer) : (s.modVer tk no f).gz = s.gz := rfl
@[simp] theorem modVer_fch (s : State) (tk no : Nat) (f : AtVer → AtVer) : (s.modVer tk no f).fch = s.fch := rfl
@[simp] theorem modVer_upd (s : State) (tk no : Nat) (f : AtVer → AtVer) : (s.modVer tk no f).upd = s.upd := rfl
@[simp] theorem modVer_mdl (s : State) (tk no : Nat) (f : AtVer → AtVer) : (s.modVer tk no f).mdl = s.mdl := rfl
@[simp] theorem modVer_svy (s : State) (tk no : Nat) (f : AtVer → AtVer) : (s.modVer tk no f).svy = s.svy := rfl
@[simp] theorem modVer_pwr (s : State) (tk no : Nat) (f : AtVer → AtVer) : (s.modVer tk no f).pwr = s.pwr := rfl
@[simp] theorem modVer_thm (s : State) (tk no : Nat) (f : AtVer → AtVer) : (s.modVer tk no f).thm = s.thm := rfl
@[simp] theorem modVer_frz (s : State) (tk no : Nat) (f : AtVer → AtVer) : (s.modVer tk no f).frz = s.frz := rfl
@[simp] theorem modVer_port (s : State) (tk no : Nat) (f : AtVer → AtVer) : (s.modVer tk no f).port = s.port := rfl
@[simp] theorem modVer_side (s : State) (tk no : Nat) (f : AtVer → AtVer) : (s.modVer tk no f).side = s.side := rfl
@[simp] theorem modVer_bfl (s : State) (tk no : Nat) (f : AtVer → AtVer) : (s.modVer tk no f).bfl = s.bfl := rfl
@[simp] theorem modVer_fw (s : State) (tk no : Nat) (f : AtVer → AtVer) : (s.modVer tk no f).fw = s.fw := rfl
@[simp] theorem modVer_sec (s : State) (tk no : Nat) (f : AtVer → AtVer) : (s.modVer tk no f).sec = s.sec := rfl
@[simp] theorem modVer_stored (s : State) (tk no : Nat) (f : AtVer → AtVer) : (s.modVer tk no f).stored = s.stored := rfl
@[simp] theorem modVer_free (s : State) (tk no : Nat) (f : AtVer → AtVer) : (s.modVer tk no f).free = s.free := rfl
@[simp] theorem modVer_pending (s : State) (tk no : Nat) (f : AtVer → AtVer) : (s.modVer tk no f).pending = s.pending := rfl

/-! ### modStep -/

@[simp] theorem modStep_sys (s : State) (h : Nat) (f : UpStep → UpStep) : (s.modStep h f).sys = s.sys := rfl
@[simp] theorem modStep_pages (s : State) (h : Nat) (f : UpStep → UpStep) : (s.modStep h f).pages = s.pages := rfl
@[simp] theorem modStep_latch (s : State) (h : Nat) (f : UpStep → UpStep) : (s.modStep h f).latch = s.latch := rfl
@[simp] theorem modStep_cores (s : State) (h : Nat) (f : UpStep → UpStep) : (s.modStep h f).cores = s.cores := rfl
@[simp] theorem modStep_clus (s : State) (h : Nat) (f : UpStep → UpStep) : (s.modStep h f).clus = s.clus := rfl
@[simp] theorem modStep_dram (s : State) (h : Nat) (f : UpStep → UpStep) : (s.modStep h f).dram = s.dram := rfl
@[simp] theorem modStep_hbm (s : State) (h : Nat) (f : UpStep → UpStep) : (s.modStep h f).hbm = s.hbm := rfl
@[simp] theorem modStep_ecc (s : State) (h : Nat) (f : UpStep → UpStep) : (s.modStep h f).ecc = s.ecc := rfl
@[simp] theorem modStep_sched (s : State) (h : Nat) (f : UpStep → UpStep) : (s.modStep h f).sched = s.sched := rfl
@[simp] theorem modStep_host (s : State) (h : Nat) (f : UpStep → UpStep) : (s.modStep h f).host = s.host := rfl
@[simp] theorem modStep_fbk (s : State) (h : Nat) (f : UpStep → UpStep) : (s.modStep h f).fbk = s.fbk := rfl
@[simp] theorem modStep_gr (s : State) (h : Nat) (f : UpStep → UpStep) : (s.modStep h f).gr = s.gr := rfl
@[simp] theorem modStep_gz (s : State) (h : Nat) (f : UpStep → UpStep) : (s.modStep h f).gz = s.gz := rfl
@[simp] theorem modStep_fch (s : State) (h : Nat) (f : UpStep → UpStep) : (s.modStep h f).fch = s.fch := rfl
@[simp] theorem modStep_atl (s : State) (h : Nat) (f : UpStep → UpStep) : (s.modStep h f).atl = s.atl := rfl
@[simp] theorem modStep_mdl (s : State) (h : Nat) (f : UpStep → UpStep) : (s.modStep h f).mdl = s.mdl := rfl
@[simp] theorem modStep_svy (s : State) (h : Nat) (f : UpStep → UpStep) : (s.modStep h f).svy = s.svy := rfl
@[simp] theorem modStep_pwr (s : State) (h : Nat) (f : UpStep → UpStep) : (s.modStep h f).pwr = s.pwr := rfl
@[simp] theorem modStep_thm (s : State) (h : Nat) (f : UpStep → UpStep) : (s.modStep h f).thm = s.thm := rfl
@[simp] theorem modStep_frz (s : State) (h : Nat) (f : UpStep → UpStep) : (s.modStep h f).frz = s.frz := rfl
@[simp] theorem modStep_port (s : State) (h : Nat) (f : UpStep → UpStep) : (s.modStep h f).port = s.port := rfl
@[simp] theorem modStep_side (s : State) (h : Nat) (f : UpStep → UpStep) : (s.modStep h f).side = s.side := rfl
@[simp] theorem modStep_bfl (s : State) (h : Nat) (f : UpStep → UpStep) : (s.modStep h f).bfl = s.bfl := rfl
@[simp] theorem modStep_fw (s : State) (h : Nat) (f : UpStep → UpStep) : (s.modStep h f).fw = s.fw := rfl
@[simp] theorem modStep_sec (s : State) (h : Nat) (f : UpStep → UpStep) : (s.modStep h f).sec = s.sec := rfl
@[simp] theorem modStep_stored (s : State) (h : Nat) (f : UpStep → UpStep) : (s.modStep h f).stored = s.stored := rfl
@[simp] theorem modStep_free (s : State) (h : Nat) (f : UpStep → UpStep) : (s.modStep h f).free = s.free := rfl
@[simp] theorem modStep_pending (s : State) (h : Nat) (f : UpStep → UpStep) : (s.modStep h f).pending = s.pending := rfl

/-! ### modSeq -/

@[simp] theorem modSeq_sys (s : State) (id : Nat) (f : SeqSt → SeqSt) : (s.modSeq id f).sys = s.sys := rfl
@[simp] theorem modSeq_pages (s : State) (id : Nat) (f : SeqSt → SeqSt) : (s.modSeq id f).pages = s.pages := rfl
@[simp] theorem modSeq_latch (s : State) (id : Nat) (f : SeqSt → SeqSt) : (s.modSeq id f).latch = s.latch := rfl
@[simp] theorem modSeq_cores (s : State) (id : Nat) (f : SeqSt → SeqSt) : (s.modSeq id f).cores = s.cores := rfl
@[simp] theorem modSeq_clus (s : State) (id : Nat) (f : SeqSt → SeqSt) : (s.modSeq id f).clus = s.clus := rfl
@[simp] theorem modSeq_dram (s : State) (id : Nat) (f : SeqSt → SeqSt) : (s.modSeq id f).dram = s.dram := rfl
@[simp] theorem modSeq_hbm (s : State) (id : Nat) (f : SeqSt → SeqSt) : (s.modSeq id f).hbm = s.hbm := rfl
@[simp] theorem modSeq_ecc (s : State) (id : Nat) (f : SeqSt → SeqSt) : (s.modSeq id f).ecc = s.ecc := rfl
@[simp] theorem modSeq_sched (s : State) (id : Nat) (f : SeqSt → SeqSt) : (s.modSeq id f).sched = s.sched := rfl
@[simp] theorem modSeq_host (s : State) (id : Nat) (f : SeqSt → SeqSt) : (s.modSeq id f).host = s.host := rfl
@[simp] theorem modSeq_fbk (s : State) (id : Nat) (f : SeqSt → SeqSt) : (s.modSeq id f).fbk = s.fbk := rfl
@[simp] theorem modSeq_gr (s : State) (id : Nat) (f : SeqSt → SeqSt) : (s.modSeq id f).gr = s.gr := rfl
@[simp] theorem modSeq_gz (s : State) (id : Nat) (f : SeqSt → SeqSt) : (s.modSeq id f).gz = s.gz := rfl
@[simp] theorem modSeq_fch (s : State) (id : Nat) (f : SeqSt → SeqSt) : (s.modSeq id f).fch = s.fch := rfl
@[simp] theorem modSeq_atl (s : State) (id : Nat) (f : SeqSt → SeqSt) : (s.modSeq id f).atl = s.atl := rfl
@[simp] theorem modSeq_upd (s : State) (id : Nat) (f : SeqSt → SeqSt) : (s.modSeq id f).upd = s.upd := rfl
@[simp] theorem modSeq_svy (s : State) (id : Nat) (f : SeqSt → SeqSt) : (s.modSeq id f).svy = s.svy := rfl
@[simp] theorem modSeq_pwr (s : State) (id : Nat) (f : SeqSt → SeqSt) : (s.modSeq id f).pwr = s.pwr := rfl
@[simp] theorem modSeq_thm (s : State) (id : Nat) (f : SeqSt → SeqSt) : (s.modSeq id f).thm = s.thm := rfl
@[simp] theorem modSeq_frz (s : State) (id : Nat) (f : SeqSt → SeqSt) : (s.modSeq id f).frz = s.frz := rfl
@[simp] theorem modSeq_port (s : State) (id : Nat) (f : SeqSt → SeqSt) : (s.modSeq id f).port = s.port := rfl
@[simp] theorem modSeq_side (s : State) (id : Nat) (f : SeqSt → SeqSt) : (s.modSeq id f).side = s.side := rfl
@[simp] theorem modSeq_bfl (s : State) (id : Nat) (f : SeqSt → SeqSt) : (s.modSeq id f).bfl = s.bfl := rfl
@[simp] theorem modSeq_fw (s : State) (id : Nat) (f : SeqSt → SeqSt) : (s.modSeq id f).fw = s.fw := rfl
@[simp] theorem modSeq_sec (s : State) (id : Nat) (f : SeqSt → SeqSt) : (s.modSeq id f).sec = s.sec := rfl
@[simp] theorem modSeq_stored (s : State) (id : Nat) (f : SeqSt → SeqSt) : (s.modSeq id f).stored = s.stored := rfl
@[simp] theorem modSeq_free (s : State) (id : Nat) (f : SeqSt → SeqSt) : (s.modSeq id f).free = s.free := rfl
@[simp] theorem modSeq_pending (s : State) (id : Nat) (f : SeqSt → SeqSt) : (s.modSeq id f).pending = s.pending := rfl

/-! ### setIx -/

@[simp] theorem setIx_sys (s : State) (p n : Nat) (x : Index) : (s.setIx p n x).sys = s.sys := rfl
@[simp] theorem setIx_pages (s : State) (p n : Nat) (x : Index) : (s.setIx p n x).pages = s.pages := rfl
@[simp] theorem setIx_latch (s : State) (p n : Nat) (x : Index) : (s.setIx p n x).latch = s.latch := rfl
@[simp] theorem setIx_cores (s : State) (p n : Nat) (x : Index) : (s.setIx p n x).cores = s.cores := rfl
@[simp] theorem setIx_clus (s : State) (p n : Nat) (x : Index) : (s.setIx p n x).clus = s.clus := rfl
@[simp] theorem setIx_dram (s : State) (p n : Nat) (x : Index) : (s.setIx p n x).dram = s.dram := rfl
@[simp] theorem setIx_hbm (s : State) (p n : Nat) (x : Index) : (s.setIx p n x).hbm = s.hbm := rfl
@[simp] theorem setIx_ecc (s : State) (p n : Nat) (x : Index) : (s.setIx p n x).ecc = s.ecc := rfl
@[simp] theorem setIx_sched (s : State) (p n : Nat) (x : Index) : (s.setIx p n x).sched = s.sched := rfl
@[simp] theorem setIx_host (s : State) (p n : Nat) (x : Index) : (s.setIx p n x).host = s.host := rfl
@[simp] theorem setIx_fbk (s : State) (p n : Nat) (x : Index) : (s.setIx p n x).fbk = s.fbk := rfl
@[simp] theorem setIx_gr (s : State) (p n : Nat) (x : Index) : (s.setIx p n x).gr = s.gr := rfl
@[simp] theorem setIx_fch (s : State) (p n : Nat) (x : Index) : (s.setIx p n x).fch = s.fch := rfl
@[simp] theorem setIx_atl (s : State) (p n : Nat) (x : Index) : (s.setIx p n x).atl = s.atl := rfl
@[simp] theorem setIx_upd (s : State) (p n : Nat) (x : Index) : (s.setIx p n x).upd = s.upd := rfl
@[simp] theorem setIx_mdl (s : State) (p n : Nat) (x : Index) : (s.setIx p n x).mdl = s.mdl := rfl
@[simp] theorem setIx_svy (s : State) (p n : Nat) (x : Index) : (s.setIx p n x).svy = s.svy := rfl
@[simp] theorem setIx_pwr (s : State) (p n : Nat) (x : Index) : (s.setIx p n x).pwr = s.pwr := rfl
@[simp] theorem setIx_thm (s : State) (p n : Nat) (x : Index) : (s.setIx p n x).thm = s.thm := rfl
@[simp] theorem setIx_frz (s : State) (p n : Nat) (x : Index) : (s.setIx p n x).frz = s.frz := rfl
@[simp] theorem setIx_port (s : State) (p n : Nat) (x : Index) : (s.setIx p n x).port = s.port := rfl
@[simp] theorem setIx_side (s : State) (p n : Nat) (x : Index) : (s.setIx p n x).side = s.side := rfl
@[simp] theorem setIx_bfl (s : State) (p n : Nat) (x : Index) : (s.setIx p n x).bfl = s.bfl := rfl
@[simp] theorem setIx_fw (s : State) (p n : Nat) (x : Index) : (s.setIx p n x).fw = s.fw := rfl
@[simp] theorem setIx_sec (s : State) (p n : Nat) (x : Index) : (s.setIx p n x).sec = s.sec := rfl
@[simp] theorem setIx_stored (s : State) (p n : Nat) (x : Index) : (s.setIx p n x).stored = s.stored := rfl
@[simp] theorem setIx_free (s : State) (p n : Nat) (x : Index) : (s.setIx p n x).free = s.free := rfl
@[simp] theorem setIx_pending (s : State) (p n : Nat) (x : Index) : (s.setIx p n x).pending = s.pending := rfl

/-! ### modFblk -/

@[simp] theorem modFblk_sys (s : State) (k : Nat) (f : FBlk → FBlk) : (s.modFblk k f).sys = s.sys := rfl
@[simp] theorem modFblk_pages (s : State) (k : Nat) (f : FBlk → FBlk) : (s.modFblk k f).pages = s.pages := rfl
@[simp] theorem modFblk_latch (s : State) (k : Nat) (f : FBlk → FBlk) : (s.modFblk k f).latch = s.latch := rfl
@[simp] theorem modFblk_cores (s : State) (k : Nat) (f : FBlk → FBlk) : (s.modFblk k f).cores = s.cores := rfl
@[simp] theorem modFblk_clus (s : State) (k : Nat) (f : FBlk → FBlk) : (s.modFblk k f).clus = s.clus := rfl
@[simp] theorem modFblk_dram (s : State) (k : Nat) (f : FBlk → FBlk) : (s.modFblk k f).dram = s.dram := rfl
@[simp] theorem modFblk_hbm (s : State) (k : Nat) (f : FBlk → FBlk) : (s.modFblk k f).hbm = s.hbm := rfl
@[simp] theorem modFblk_ecc (s : State) (k : Nat) (f : FBlk → FBlk) : (s.modFblk k f).ecc = s.ecc := rfl
@[simp] theorem modFblk_sched (s : State) (k : Nat) (f : FBlk → FBlk) : (s.modFblk k f).sched = s.sched := rfl
@[simp] theorem modFblk_host (s : State) (k : Nat) (f : FBlk → FBlk) : (s.modFblk k f).host = s.host := rfl
@[simp] theorem modFblk_fbk (s : State) (k : Nat) (f : FBlk → FBlk) : (s.modFblk k f).fbk = s.fbk := rfl
@[simp] theorem modFblk_gz (s : State) (k : Nat) (f : FBlk → FBlk) : (s.modFblk k f).gz = s.gz := rfl
@[simp] theorem modFblk_fch (s : State) (k : Nat) (f : FBlk → FBlk) : (s.modFblk k f).fch = s.fch := rfl
@[simp] theorem modFblk_atl (s : State) (k : Nat) (f : FBlk → FBlk) : (s.modFblk k f).atl = s.atl := rfl
@[simp] theorem modFblk_upd (s : State) (k : Nat) (f : FBlk → FBlk) : (s.modFblk k f).upd = s.upd := rfl
@[simp] theorem modFblk_mdl (s : State) (k : Nat) (f : FBlk → FBlk) : (s.modFblk k f).mdl = s.mdl := rfl
@[simp] theorem modFblk_svy (s : State) (k : Nat) (f : FBlk → FBlk) : (s.modFblk k f).svy = s.svy := rfl
@[simp] theorem modFblk_pwr (s : State) (k : Nat) (f : FBlk → FBlk) : (s.modFblk k f).pwr = s.pwr := rfl
@[simp] theorem modFblk_thm (s : State) (k : Nat) (f : FBlk → FBlk) : (s.modFblk k f).thm = s.thm := rfl
@[simp] theorem modFblk_frz (s : State) (k : Nat) (f : FBlk → FBlk) : (s.modFblk k f).frz = s.frz := rfl
@[simp] theorem modFblk_port (s : State) (k : Nat) (f : FBlk → FBlk) : (s.modFblk k f).port = s.port := rfl
@[simp] theorem modFblk_side (s : State) (k : Nat) (f : FBlk → FBlk) : (s.modFblk k f).side = s.side := rfl
@[simp] theorem modFblk_bfl (s : State) (k : Nat) (f : FBlk → FBlk) : (s.modFblk k f).bfl = s.bfl := rfl
@[simp] theorem modFblk_fw (s : State) (k : Nat) (f : FBlk → FBlk) : (s.modFblk k f).fw = s.fw := rfl
@[simp] theorem modFblk_sec (s : State) (k : Nat) (f : FBlk → FBlk) : (s.modFblk k f).sec = s.sec := rfl
@[simp] theorem modFblk_stored (s : State) (k : Nat) (f : FBlk → FBlk) : (s.modFblk k f).stored = s.stored := rfl
@[simp] theorem modFblk_free (s : State) (k : Nat) (f : FBlk → FBlk) : (s.modFblk k f).free = s.free := rfl
@[simp] theorem modFblk_pending (s : State) (k : Nat) (f : FBlk → FBlk) : (s.modFblk k f).pending = s.pending := rfl

/-! ### modNs -/

@[simp] theorem modNs_sys (s : State) (k : Nat) (f : Ns → Ns) : (s.modNs k f).sys = s.sys := rfl
@[simp] theorem modNs_pages (s : State) (k : Nat) (f : Ns → Ns) : (s.modNs k f).pages = s.pages := rfl
@[simp] theorem modNs_latch (s : State) (k : Nat) (f : Ns → Ns) : (s.modNs k f).latch = s.latch := rfl
@[simp] theorem modNs_cores (s : State) (k : Nat) (f : Ns → Ns) : (s.modNs k f).cores = s.cores := rfl
@[simp] theorem modNs_clus (s : State) (k : Nat) (f : Ns → Ns) : (s.modNs k f).clus = s.clus := rfl
@[simp] theorem modNs_dram (s : State) (k : Nat) (f : Ns → Ns) : (s.modNs k f).dram = s.dram := rfl
@[simp] theorem modNs_hbm (s : State) (k : Nat) (f : Ns → Ns) : (s.modNs k f).hbm = s.hbm := rfl
@[simp] theorem modNs_ecc (s : State) (k : Nat) (f : Ns → Ns) : (s.modNs k f).ecc = s.ecc := rfl
@[simp] theorem modNs_sched (s : State) (k : Nat) (f : Ns → Ns) : (s.modNs k f).sched = s.sched := rfl
@[simp] theorem modNs_host (s : State) (k : Nat) (f : Ns → Ns) : (s.modNs k f).host = s.host := rfl
@[simp] theorem modNs_fbk (s : State) (k : Nat) (f : Ns → Ns) : (s.modNs k f).fbk = s.fbk := rfl
@[simp] theorem modNs_gz (s : State) (k : Nat) (f : Ns → Ns) : (s.modNs k f).gz = s.gz := rfl
@[simp] theorem modNs_fch (s : State) (k : Nat) (f : Ns → Ns) : (s.modNs k f).fch = s.fch := rfl
@[simp] theorem modNs_atl (s : State) (k : Nat) (f : Ns → Ns) : (s.modNs k f).atl = s.atl := rfl
@[simp] theorem modNs_upd (s : State) (k : Nat) (f : Ns → Ns) : (s.modNs k f).upd = s.upd := rfl
@[simp] theorem modNs_mdl (s : State) (k : Nat) (f : Ns → Ns) : (s.modNs k f).mdl = s.mdl := rfl
@[simp] theorem modNs_svy (s : State) (k : Nat) (f : Ns → Ns) : (s.modNs k f).svy = s.svy := rfl
@[simp] theorem modNs_pwr (s : State) (k : Nat) (f : Ns → Ns) : (s.modNs k f).pwr = s.pwr := rfl
@[simp] theorem modNs_thm (s : State) (k : Nat) (f : Ns → Ns) : (s.modNs k f).thm = s.thm := rfl
@[simp] theorem modNs_frz (s : State) (k : Nat) (f : Ns → Ns) : (s.modNs k f).frz = s.frz := rfl
@[simp] theorem modNs_port (s : State) (k : Nat) (f : Ns → Ns) : (s.modNs k f).port = s.port := rfl
@[simp] theorem modNs_side (s : State) (k : Nat) (f : Ns → Ns) : (s.modNs k f).side = s.side := rfl
@[simp] theorem modNs_bfl (s : State) (k : Nat) (f : Ns → Ns) : (s.modNs k f).bfl = s.bfl := rfl
@[simp] theorem modNs_fw (s : State) (k : Nat) (f : Ns → Ns) : (s.modNs k f).fw = s.fw := rfl
@[simp] theorem modNs_sec (s : State) (k : Nat) (f : Ns → Ns) : (s.modNs k f).sec = s.sec := rfl
@[simp] theorem modNs_stored (s : State) (k : Nat) (f : Ns → Ns) : (s.modNs k f).stored = s.stored := rfl
@[simp] theorem modNs_free (s : State) (k : Nat) (f : Ns → Ns) : (s.modNs k f).free = s.free := rfl
@[simp] theorem modNs_pending (s : State) (k : Nat) (f : Ns → Ns) : (s.modNs k f).pending = s.pending := rfl

/-! ### bflPut -/

@[simp] theorem bflPut_sys (s : State) (k : Nat) (v : BitVec 64) : (s.bflPut k v).sys = s.sys := rfl
@[simp] theorem bflPut_pages (s : State) (k : Nat) (v : BitVec 64) : (s.bflPut k v).pages = s.pages := rfl
@[simp] theorem bflPut_latch (s : State) (k : Nat) (v : BitVec 64) : (s.bflPut k v).latch = s.latch := rfl
@[simp] theorem bflPut_cores (s : State) (k : Nat) (v : BitVec 64) : (s.bflPut k v).cores = s.cores := rfl
@[simp] theorem bflPut_clus (s : State) (k : Nat) (v : BitVec 64) : (s.bflPut k v).clus = s.clus := rfl
@[simp] theorem bflPut_dram (s : State) (k : Nat) (v : BitVec 64) : (s.bflPut k v).dram = s.dram := rfl
@[simp] theorem bflPut_hbm (s : State) (k : Nat) (v : BitVec 64) : (s.bflPut k v).hbm = s.hbm := rfl
@[simp] theorem bflPut_ecc (s : State) (k : Nat) (v : BitVec 64) : (s.bflPut k v).ecc = s.ecc := rfl
@[simp] theorem bflPut_sched (s : State) (k : Nat) (v : BitVec 64) : (s.bflPut k v).sched = s.sched := rfl
@[simp] theorem bflPut_host (s : State) (k : Nat) (v : BitVec 64) : (s.bflPut k v).host = s.host := rfl
@[simp] theorem bflPut_fbk (s : State) (k : Nat) (v : BitVec 64) : (s.bflPut k v).fbk = s.fbk := rfl
@[simp] theorem bflPut_gr (s : State) (k : Nat) (v : BitVec 64) : (s.bflPut k v).gr = s.gr := rfl
@[simp] theorem bflPut_gz (s : State) (k : Nat) (v : BitVec 64) : (s.bflPut k v).gz = s.gz := rfl
@[simp] theorem bflPut_fch (s : State) (k : Nat) (v : BitVec 64) : (s.bflPut k v).fch = s.fch := rfl
@[simp] theorem bflPut_atl (s : State) (k : Nat) (v : BitVec 64) : (s.bflPut k v).atl = s.atl := rfl
@[simp] theorem bflPut_upd (s : State) (k : Nat) (v : BitVec 64) : (s.bflPut k v).upd = s.upd := rfl
@[simp] theorem bflPut_mdl (s : State) (k : Nat) (v : BitVec 64) : (s.bflPut k v).mdl = s.mdl := rfl
@[simp] theorem bflPut_svy (s : State) (k : Nat) (v : BitVec 64) : (s.bflPut k v).svy = s.svy := rfl
@[simp] theorem bflPut_pwr (s : State) (k : Nat) (v : BitVec 64) : (s.bflPut k v).pwr = s.pwr := rfl
@[simp] theorem bflPut_thm (s : State) (k : Nat) (v : BitVec 64) : (s.bflPut k v).thm = s.thm := rfl
@[simp] theorem bflPut_frz (s : State) (k : Nat) (v : BitVec 64) : (s.bflPut k v).frz = s.frz := rfl
@[simp] theorem bflPut_port (s : State) (k : Nat) (v : BitVec 64) : (s.bflPut k v).port = s.port := rfl
@[simp] theorem bflPut_side (s : State) (k : Nat) (v : BitVec 64) : (s.bflPut k v).side = s.side := rfl
@[simp] theorem bflPut_fw (s : State) (k : Nat) (v : BitVec 64) : (s.bflPut k v).fw = s.fw := rfl
@[simp] theorem bflPut_sec (s : State) (k : Nat) (v : BitVec 64) : (s.bflPut k v).sec = s.sec := rfl
@[simp] theorem bflPut_stored (s : State) (k : Nat) (v : BitVec 64) : (s.bflPut k v).stored = s.stored := rfl
@[simp] theorem bflPut_free (s : State) (k : Nat) (v : BitVec 64) : (s.bflPut k v).free = s.free := rfl
@[simp] theorem bflPut_pending (s : State) (k : Nat) (v : BitVec 64) : (s.bflPut k v).pending = s.pending := rfl

/-! ### spdmReply -/

@[simp] theorem spdmReply_sys (s : State) (k : Conn) (b : SpdmBody) : (s.spdmReply k b).sys = s.sys := rfl
@[simp] theorem spdmReply_pages (s : State) (k : Conn) (b : SpdmBody) : (s.spdmReply k b).pages = s.pages := rfl
@[simp] theorem spdmReply_latch (s : State) (k : Conn) (b : SpdmBody) : (s.spdmReply k b).latch = s.latch := rfl
@[simp] theorem spdmReply_cores (s : State) (k : Conn) (b : SpdmBody) : (s.spdmReply k b).cores = s.cores := rfl
@[simp] theorem spdmReply_clus (s : State) (k : Conn) (b : SpdmBody) : (s.spdmReply k b).clus = s.clus := rfl
@[simp] theorem spdmReply_dram (s : State) (k : Conn) (b : SpdmBody) : (s.spdmReply k b).dram = s.dram := rfl
@[simp] theorem spdmReply_hbm (s : State) (k : Conn) (b : SpdmBody) : (s.spdmReply k b).hbm = s.hbm := rfl
@[simp] theorem spdmReply_ecc (s : State) (k : Conn) (b : SpdmBody) : (s.spdmReply k b).ecc = s.ecc := rfl
@[simp] theorem spdmReply_sched (s : State) (k : Conn) (b : SpdmBody) : (s.spdmReply k b).sched = s.sched := rfl
@[simp] theorem spdmReply_host (s : State) (k : Conn) (b : SpdmBody) : (s.spdmReply k b).host = s.host := rfl
@[simp] theorem spdmReply_fbk (s : State) (k : Conn) (b : SpdmBody) : (s.spdmReply k b).fbk = s.fbk := rfl
@[simp] theorem spdmReply_gr (s : State) (k : Conn) (b : SpdmBody) : (s.spdmReply k b).gr = s.gr := rfl
@[simp] theorem spdmReply_gz (s : State) (k : Conn) (b : SpdmBody) : (s.spdmReply k b).gz = s.gz := rfl
@[simp] theorem spdmReply_fch (s : State) (k : Conn) (b : SpdmBody) : (s.spdmReply k b).fch = s.fch := rfl
@[simp] theorem spdmReply_atl (s : State) (k : Conn) (b : SpdmBody) : (s.spdmReply k b).atl = s.atl := rfl
@[simp] theorem spdmReply_upd (s : State) (k : Conn) (b : SpdmBody) : (s.spdmReply k b).upd = s.upd := rfl
@[simp] theorem spdmReply_mdl (s : State) (k : Conn) (b : SpdmBody) : (s.spdmReply k b).mdl = s.mdl := rfl
@[simp] theorem spdmReply_svy (s : State) (k : Conn) (b : SpdmBody) : (s.spdmReply k b).svy = s.svy := rfl
@[simp] theorem spdmReply_pwr (s : State) (k : Conn) (b : SpdmBody) : (s.spdmReply k b).pwr = s.pwr := rfl
@[simp] theorem spdmReply_thm (s : State) (k : Conn) (b : SpdmBody) : (s.spdmReply k b).thm = s.thm := rfl
@[simp] theorem spdmReply_frz (s : State) (k : Conn) (b : SpdmBody) : (s.spdmReply k b).frz = s.frz := rfl
@[simp] theorem spdmReply_port (s : State) (k : Conn) (b : SpdmBody) : (s.spdmReply k b).port = s.port := rfl
@[simp] theorem spdmReply_side (s : State) (k : Conn) (b : SpdmBody) : (s.spdmReply k b).side = s.side := rfl
@[simp] theorem spdmReply_bfl (s : State) (k : Conn) (b : SpdmBody) : (s.spdmReply k b).bfl = s.bfl := rfl
@[simp] theorem spdmReply_fw (s : State) (k : Conn) (b : SpdmBody) : (s.spdmReply k b).fw = s.fw := rfl
@[simp] theorem spdmReply_stored (s : State) (k : Conn) (b : SpdmBody) : (s.spdmReply k b).stored = s.stored := rfl
@[simp] theorem spdmReply_free (s : State) (k : Conn) (b : SpdmBody) : (s.spdmReply k b).free = s.free := rfl
@[simp] theorem spdmReply_pending (s : State) (k : Conn) (b : SpdmBody) : (s.spdmReply k b).pending = s.pending := rfl

/-! ### sideReply -/

@[simp] theorem sideReply_sys (s : State) (r : Option Bytes) : (s.sideReply r).sys = s.sys := rfl
@[simp] theorem sideReply_pages (s : State) (r : Option Bytes) : (s.sideReply r).pages = s.pages := rfl
@[simp] theorem sideReply_latch (s : State) (r : Option Bytes) : (s.sideReply r).latch = s.latch := rfl
@[simp] theorem sideReply_cores (s : State) (r : Option Bytes) : (s.sideReply r).cores = s.cores := rfl
@[simp] theorem sideReply_clus (s : State) (r : Option Bytes) : (s.sideReply r).clus = s.clus := rfl
@[simp] theorem sideReply_dram (s : State) (r : Option Bytes) : (s.sideReply r).dram = s.dram := rfl
@[simp] theorem sideReply_hbm (s : State) (r : Option Bytes) : (s.sideReply r).hbm = s.hbm := rfl
@[simp] theorem sideReply_ecc (s : State) (r : Option Bytes) : (s.sideReply r).ecc = s.ecc := rfl
@[simp] theorem sideReply_sched (s : State) (r : Option Bytes) : (s.sideReply r).sched = s.sched := rfl
@[simp] theorem sideReply_host (s : State) (r : Option Bytes) : (s.sideReply r).host = s.host := rfl
@[simp] theorem sideReply_fbk (s : State) (r : Option Bytes) : (s.sideReply r).fbk = s.fbk := rfl
@[simp] theorem sideReply_gr (s : State) (r : Option Bytes) : (s.sideReply r).gr = s.gr := rfl
@[simp] theorem sideReply_gz (s : State) (r : Option Bytes) : (s.sideReply r).gz = s.gz := rfl
@[simp] theorem sideReply_fch (s : State) (r : Option Bytes) : (s.sideReply r).fch = s.fch := rfl
@[simp] theorem sideReply_atl (s : State) (r : Option Bytes) : (s.sideReply r).atl = s.atl := rfl
@[simp] theorem sideReply_upd (s : State) (r : Option Bytes) : (s.sideReply r).upd = s.upd := rfl
@[simp] theorem sideReply_mdl (s : State) (r : Option Bytes) : (s.sideReply r).mdl = s.mdl := rfl
@[simp] theorem sideReply_svy (s : State) (r : Option Bytes) : (s.sideReply r).svy = s.svy := rfl
@[simp] theorem sideReply_pwr (s : State) (r : Option Bytes) : (s.sideReply r).pwr = s.pwr := rfl
@[simp] theorem sideReply_thm (s : State) (r : Option Bytes) : (s.sideReply r).thm = s.thm := rfl
@[simp] theorem sideReply_frz (s : State) (r : Option Bytes) : (s.sideReply r).frz = s.frz := rfl
@[simp] theorem sideReply_port (s : State) (r : Option Bytes) : (s.sideReply r).port = s.port := rfl
@[simp] theorem sideReply_bfl (s : State) (r : Option Bytes) : (s.sideReply r).bfl = s.bfl := rfl
@[simp] theorem sideReply_fw (s : State) (r : Option Bytes) : (s.sideReply r).fw = s.fw := rfl
@[simp] theorem sideReply_sec (s : State) (r : Option Bytes) : (s.sideReply r).sec = s.sec := rfl
@[simp] theorem sideReply_stored (s : State) (r : Option Bytes) : (s.sideReply r).stored = s.stored := rfl
@[simp] theorem sideReply_free (s : State) (r : Option Bytes) : (s.sideReply r).free = s.free := rfl
@[simp] theorem sideReply_pending (s : State) (r : Option Bytes) : (s.sideReply r).pending = s.pending := rfl

/-! ### takeFree and takeBytes -/

@[simp] theorem takeFree_sys (s : State) : s.takeFree.2.sys = s.sys := rfl
@[simp] theorem takeFree_pages (s : State) : s.takeFree.2.pages = s.pages := rfl
@[simp] theorem takeFree_latch (s : State) : s.takeFree.2.latch = s.latch := rfl
@[simp] theorem takeFree_cores (s : State) : s.takeFree.2.cores = s.cores := rfl
@[simp] theorem takeFree_clus (s : State) : s.takeFree.2.clus = s.clus := rfl
@[simp] theorem takeFree_dram (s : State) : s.takeFree.2.dram = s.dram := rfl
@[simp] theorem takeFree_hbm (s : State) : s.takeFree.2.hbm = s.hbm := rfl
@[simp] theorem takeFree_ecc (s : State) : s.takeFree.2.ecc = s.ecc := rfl
@[simp] theorem takeFree_sched (s : State) : s.takeFree.2.sched = s.sched := rfl
@[simp] theorem takeFree_host (s : State) : s.takeFree.2.host = s.host := rfl
@[simp] theorem takeFree_fbk (s : State) : s.takeFree.2.fbk = s.fbk := rfl
@[simp] theorem takeFree_gr (s : State) : s.takeFree.2.gr = s.gr := rfl
@[simp] theorem takeFree_gz (s : State) : s.takeFree.2.gz = s.gz := rfl
@[simp] theorem takeFree_fch (s : State) : s.takeFree.2.fch = s.fch := rfl
@[simp] theorem takeFree_atl (s : State) : s.takeFree.2.atl = s.atl := rfl
@[simp] theorem takeFree_upd (s : State) : s.takeFree.2.upd = s.upd := rfl
@[simp] theorem takeFree_mdl (s : State) : s.takeFree.2.mdl = s.mdl := rfl
@[simp] theorem takeFree_svy (s : State) : s.takeFree.2.svy = s.svy := rfl
@[simp] theorem takeFree_pwr (s : State) : s.takeFree.2.pwr = s.pwr := rfl
@[simp] theorem takeFree_thm (s : State) : s.takeFree.2.thm = s.thm := rfl
@[simp] theorem takeFree_frz (s : State) : s.takeFree.2.frz = s.frz := rfl
@[simp] theorem takeFree_port (s : State) : s.takeFree.2.port = s.port := rfl
@[simp] theorem takeFree_side (s : State) : s.takeFree.2.side = s.side := rfl
@[simp] theorem takeFree_bfl (s : State) : s.takeFree.2.bfl = s.bfl := rfl
@[simp] theorem takeFree_fw (s : State) : s.takeFree.2.fw = s.fw := rfl
@[simp] theorem takeFree_sec (s : State) : s.takeFree.2.sec = s.sec := rfl
@[simp] theorem takeFree_stored (s : State) : s.takeFree.2.stored = s.stored := rfl
@[simp] theorem takeFree_free (s : State) : s.takeFree.2.free = s.free + 1 := rfl
@[simp] theorem takeFree_pending (s : State) : s.takeFree.2.pending = s.pending := rfl
@[simp] theorem takeBytes_sys (s : State) (n : Nat) : (s.takeBytes n).2.sys = s.sys := rfl
@[simp] theorem takeBytes_pages (s : State) (n : Nat) : (s.takeBytes n).2.pages = s.pages := rfl
@[simp] theorem takeBytes_latch (s : State) (n : Nat) : (s.takeBytes n).2.latch = s.latch := rfl
@[simp] theorem takeBytes_cores (s : State) (n : Nat) : (s.takeBytes n).2.cores = s.cores := rfl
@[simp] theorem takeBytes_clus (s : State) (n : Nat) : (s.takeBytes n).2.clus = s.clus := rfl
@[simp] theorem takeBytes_dram (s : State) (n : Nat) : (s.takeBytes n).2.dram = s.dram := rfl
@[simp] theorem takeBytes_hbm (s : State) (n : Nat) : (s.takeBytes n).2.hbm = s.hbm := rfl
@[simp] theorem takeBytes_ecc (s : State) (n : Nat) : (s.takeBytes n).2.ecc = s.ecc := rfl
@[simp] theorem takeBytes_sched (s : State) (n : Nat) : (s.takeBytes n).2.sched = s.sched := rfl
@[simp] theorem takeBytes_host (s : State) (n : Nat) : (s.takeBytes n).2.host = s.host := rfl
@[simp] theorem takeBytes_fbk (s : State) (n : Nat) : (s.takeBytes n).2.fbk = s.fbk := rfl
@[simp] theorem takeBytes_gr (s : State) (n : Nat) : (s.takeBytes n).2.gr = s.gr := rfl
@[simp] theorem takeBytes_gz (s : State) (n : Nat) : (s.takeBytes n).2.gz = s.gz := rfl
@[simp] theorem takeBytes_fch (s : State) (n : Nat) : (s.takeBytes n).2.fch = s.fch := rfl
@[simp] theorem takeBytes_atl (s : State) (n : Nat) : (s.takeBytes n).2.atl = s.atl := rfl
@[simp] theorem takeBytes_upd (s : State) (n : Nat) : (s.takeBytes n).2.upd = s.upd := rfl
@[simp] theorem takeBytes_mdl (s : State) (n : Nat) : (s.takeBytes n).2.mdl = s.mdl := rfl
@[simp] theorem takeBytes_svy (s : State) (n : Nat) : (s.takeBytes n).2.svy = s.svy := rfl
@[simp] theorem takeBytes_pwr (s : State) (n : Nat) : (s.takeBytes n).2.pwr = s.pwr := rfl
@[simp] theorem takeBytes_thm (s : State) (n : Nat) : (s.takeBytes n).2.thm = s.thm := rfl
@[simp] theorem takeBytes_frz (s : State) (n : Nat) : (s.takeBytes n).2.frz = s.frz := rfl
@[simp] theorem takeBytes_port (s : State) (n : Nat) : (s.takeBytes n).2.port = s.port := rfl
@[simp] theorem takeBytes_side (s : State) (n : Nat) : (s.takeBytes n).2.side = s.side := rfl
@[simp] theorem takeBytes_bfl (s : State) (n : Nat) : (s.takeBytes n).2.bfl = s.bfl := rfl
@[simp] theorem takeBytes_fw (s : State) (n : Nat) : (s.takeBytes n).2.fw = s.fw := rfl
@[simp] theorem takeBytes_sec (s : State) (n : Nat) : (s.takeBytes n).2.sec = s.sec := rfl
@[simp] theorem takeBytes_stored (s : State) (n : Nat) : (s.takeBytes n).2.stored = s.stored := rfl
@[simp] theorem takeBytes_free (s : State) (n : Nat) : (s.takeBytes n).2.free = s.free + n := rfl
@[simp] theorem takeBytes_pending (s : State) (n : Nat) : (s.takeBytes n).2.pending = s.pending := rfl

end Sys2Proof.Machine
end

