-- ==== Sys2Proof/Laws/Ops.lean ====
section
/-! SUPPORT. What each shared operation can do, said once: instruction issue, cores, association lists, commands, events, DRAM lines. -/

namespace Sys2Proof.Machine

/-! ### Outcomes -/

theorem guardUnit_pos {ok : Bool} {o : Out} (h : ok = true) : guardUnit ok o = o := by simp [guardUnit, h]

theorem guardUnit_next {ok : Bool} {o : Out} {t : State} (h : guardUnit ok o = .next t) : ok = true ∧ o = .next t := by
  unfold guardUnit at h
  split at h
  · next hk => exact ⟨hk, h⟩
  · cases h

/-! ### Association lists -/

theorem lget_nil {α : Type} (k : Nat) : lget ([] : List (Nat × α)) k = none := rfl

theorem lget_lset {α : Type} (l : List (Nat × α)) (k j : Nat) (v : α) : lget (lset l k v) j = if j = k then some v else lget l j := by
  unfold lset
  induction l with
  | nil =>
    unfold mins lget
    by_cases h : k = j
    · subst h; simp
    · rw [List.find?_cons_of_neg (by simpa using h), if_neg (Ne.symm h)]
  | cons e r ih =>
    obtain ⟨x, w⟩ := e
    have step (y : Nat) (u : α) (m : List (Nat × α)) : lget ((y, u) :: m) j = if j = y then some u else lget m j := by
      unfold lget
      by_cases h : y = j
      · subst h; simp
      · rw [List.find?_cons_of_neg (by simpa using h), if_neg (Ne.symm h)]
    simp only [mins]
    split
    · rw [step, step]
    · split
      · subst_vars; rw [step, step]; split <;> rfl
      · rw [step, ih, step]
        by_cases h1 : j = x <;> by_cases h2 : j = k <;> simp_all

theorem lget_ldel {α : Type} (l : List (Nat × α)) (k j : Nat) : lget (ldel l k) j = if j = k then none else lget l j := by
  unfold ldel lget
  rw [List.find?_filter]
  by_cases h : j = k
  · subst h
    rw [if_pos rfl, List.find?_eq_none.mpr (by intro x _; by_cases hx : x.1 = j <;> simp [hx])]
    rfl
  · rw [if_neg h]
    congr 2
    funext x
    by_cases hx : x.1 = j
    · subst hx; simp [h]
    · simp [hx]

theorem lget_map {α : Type} (l : List (Nat × α)) (k j : Nat) (f : α → α) :
    lget (l.map fun e => if e.1 == k then (e.1, f e.2) else e) j = if j = k then (lget l j).map f else lget l j := by
  induction l with
  | nil => simp [lget]
  | cons e r ih =>
    obtain ⟨x, w⟩ := e
    unfold lget at ih ⊢
    by_cases hx : x = j
    · subst hx
      by_cases hk : x = k <;> simp [hk]
    · by_cases hk : x = k
      · subst hk
        rw [List.map_cons, if_pos (by simp), List.find?_cons_of_neg (by simpa using hx), List.find?_cons_of_neg (by simpa using hx)]
        exact ih
      · rw [List.map_cons, if_neg (by simpa using hk), List.find?_cons_of_neg (by simpa using hx), List.find?_cons_of_neg (by simpa using hx)]
        exact ih

/-! ### Cores, clusters, pages -/

theorem core_setCore (s : State) (c d : Nat) (x : Core) : (s.setCore c x).core d = if d = c then x else s.core d := by unfold State.setCore State.core; exact mget_mset _ _ _ _ _
theorem core_modCore (s : State) (c d : Nat) (f : Core → Core) : (s.modCore c f).core d = if d = c then f (s.core c) else s.core d := core_setCore s c d _
theorem core_modArch (s : State) (c d : Nat) (f : Arch → Arch) :
    (s.modArch c f).core d = if d = c then { s.core c with arch := f (s.core c).arch } else s.core d := core_modCore s c d _
theorem clu_setClu (s : State) (k j : Nat) (x : Cluster) : (s.setClu k x).clu j = if j = k then x else s.clu j := by unfold State.setClu State.clu; exact mget_mset _ _ _ _ _
theorem clu_modClu (s : State) (k j : Nat) (f : Cluster → Cluster) : (s.modClu k f).clu j = if j = k then f (s.clu k) else s.clu j := clu_setClu s k j _
theorem page_modPage (s : State) (n m : Nat) (f : Page → Page) : (s.modPage n f).page m = if m = n then f (s.page n) else s.page m := by unfold State.modPage State.page; exact mget_mset _ _ _ _ _
theorem stack_modStack (s : State) (n m : Nat) (f : Stack → Stack) : (s.modStack n f).stack m = if m = n then f (s.stack n) else s.stack m :=
  by unfold State.modStack State.stack; exact mget_mset _ _ _ _ _

/-- Only the core itself is changed. -/
theorem modCore_frame (s : State) (c : Nat) (f : Core → Core) : { s.modCore c f with cores := s.cores } = s := rfl
theorem modArch_frame (s : State) (c : Nat) (f : Arch → Arch) : { s.modArch c f with cores := s.cores } = s := rfl
theorem next_frame (s : State) (c : Nat) : { s.next c with cores := s.cores } = s := rfl
theorem jump_frame (s : State) (c n : Nat) : { s.jump c n with cores := s.cores } = s := rfl
theorem next_arch (s : State) (c : Nat) : ((s.next c).core c).arch = { (s.core c).arch with pc := (s.core c).arch.pc + 1, stall := none } := by
  simp [State.next, core_modCore]
theorem modArch_congr (s : State) (c : Nat) (f g : Arch → Arch) (h : f (s.core c).arch = g (s.core c).arch) : s.modArch c f = s.modArch c g := by
  simp [State.modArch, State.modCore, h]

/-! ### Instruction issue (02 R57, R60, R65 to R68) -/

/-- An instruction faults at issue, takes its step without effect, waits, or runs; on a core that does not issue, or whose words are another instruction's, nothing
happens. -/
theorem issue_cases {s t : State} {i : Instr} {c : Nat} {g : Guard} {pre : Option Nat} {skip run : State → State} {stall : Bool}
    (h : s.issue i c g pre skip stall run = .next t) :
    ((s.canIssue c = false ∨ s.turnOf c i = false) ∧ t = s) ∨
    (s.canIssue c = true ∧ s.turnOf c i = true ∧
      (((s.core c).progLen.toNat ≤ s.pcOf c ∧ t = s.seqFault c 0x08 0) ∨
       (s.pcOf c < (s.core c).progLen.toNat ∧
        ((s.noInstr c = true ∧ t = s.seqFault c 0x01 0) ∨
         (s.noInstr c = false ∧
          ((∃ code, pre = some code ∧ t = s.seqFault c code 0) ∨
           (pre = none ∧ (s.core c).arch.guardOn g = false ∧ t = skip (s.next c)) ∨
           (pre = none ∧ (s.core c).arch.guardOn g = true ∧ stall = true ∧ t = s.stallAt c i .busy) ∨
           (pre = none ∧ (s.core c).arch.guardOn g = true ∧ stall = false ∧ t = run s))))))) := by
  unfold State.issue at h
  have h := (guardUnit_next h).2
  split at h
  · next h1 =>
    simp only [Bool.or_eq_true, Bool.not_eq_true'] at h1
    cases h
    exact .inl ⟨h1, rfl⟩
  · next h1 =>
    simp only [Bool.or_eq_true, Bool.not_eq_true', not_or, Bool.not_eq_false] at h1
    refine .inr ⟨h1.1, h1.2, ?_⟩
    split at h
    · next h2 => cases h; exact .inl ⟨h2, rfl⟩
    · next h2 =>
      refine .inr ⟨Nat.not_le.mp h2, ?_⟩
      split at h
      · next h3 => cases h; exact .inl ⟨h3, rfl⟩
      · next h3 =>
        refine .inr ⟨by simpa using h3, ?_⟩
        split at h
        · cases h; exact .inl ⟨_, rfl, rfl⟩
        · split at h
          · next h4 => simp only [Bool.not_eq_true'] at h4; cases h; exact .inr (.inl ⟨rfl, h4, rfl⟩)
          · next h4 =>
            have h4 : (s.core c).arch.guardOn g = true := by simpa using h4
            split at h
            · next h5 => cases h; exact .inr (.inr (.inl ⟨rfl, h4, h5, rfl⟩))
            · next h5 => cases h; exact .inr (.inr (.inr ⟨rfl, h4, by simpa using h5, rfl⟩))

theorem issue_run {s : State} {i : Instr} {c : Nat} {g : Guard} {pre : Option Nat} {skip run : State → State} {stall : Bool} (hc : c < 768) (h1 : s.canIssue c = true)
    (ht : s.turnOf c i = true) (h2 : s.pcOf c < (s.core c).progLen.toNat) (hn : s.noInstr c = false) (h3 : (s.core c).arch.guardOn g = true) (hp : pre = none)
    (hs : stall = false) : s.issue i c g pre skip stall run = .next (run s) := by
  subst hp hs
  simp [State.issue, guardUnit, coreOk, hc, h1, h3, ht, hn, Nat.not_le.mpr h2]

theorem issue_off {s : State} {i : Instr} {c : Nat} {g : Guard} {pre : Option Nat} {skip run : State → State} {stall : Bool} (hc : c < 768) (h1 : s.canIssue c = true)
    (ht : s.turnOf c i = true) (h2 : s.pcOf c < (s.core c).progLen.toNat) (hn : s.noInstr c = false) (h3 : (s.core c).arch.guardOn g = false) (hp : pre = none) :
    s.issue i c g pre skip stall run = .next (skip (s.next c)) := by
  subst hp
  simp [State.issue, guardUnit, coreOk, hc, h1, h3, ht, hn, Nat.not_le.mpr h2]

/-- The code of the first failed check, or none where every check holds. -/
theorem firstFault_none (l : List (Bool × Nat)) (h : ∀ e ∈ l, e.1 = false) : firstFault l = none := by
  induction l with
  | nil => rfl
  | cons e r ih =>
    obtain ⟨b, c⟩ := e
    have hb : b = false := h (b, c) (by simp)
    subst hb
    simp only [firstFault, Bool.false_eq_true, if_false]
    exact ih fun x hx => h x (by simp [hx])

/-! ### Commands (11 R446, R447, R463, R466) -/

theorem cmd_modCmd {s : State} {r : CmdRef} {c : Cmd} (f : Cmd → Cmd) (h : s.cmd? r = some c) (hf : (f c).ref = c.ref) : (s.modCmd r f).cmd? r = some (f c) := by
  unfold State.cmd? State.modCmd at *
  simp only [modHost_host]
  revert h
  induction s.host.cmds with
  | nil => intro h; simp at h
  | cons d l ih =>
    intro h
    by_cases hd : d.ref = r
    · rw [List.find?_cons_of_pos (by simpa using hd)] at h
      obtain rfl : d = c := Option.some.inj h
      rw [List.map_cons, if_pos (by simpa using hd), List.find?_cons_of_pos (by simpa [hf] using hd)]
    · rw [List.find?_cons_of_neg (by simpa using hd)] at h
      rw [List.map_cons, if_neg (by simpa using hd), List.find?_cons_of_neg (by simpa using hd)]
      exact ih h

theorem modCmd_frame (s : State) (r : CmdRef) (f : Cmd → Cmd) : { s.modCmd r f with host := { (s.modCmd r f).host with cmds := s.host.cmds } } = s := rfl
theorem cmdDone_frame (s : State) (r : CmdRef) (res : Bytes) (b : Option Bytes) :
    { s.cmdDone r res b with host := { (s.cmdDone r res b).host with cmds := s.host.cmds } } = s := rfl
theorem cmdFail_frame (s : State) (r : CmdRef) (st : Nat) (res : Bytes) :
    { s.cmdFail r st res with host := { (s.cmdFail r st res).host with cmds := s.host.cmds } } = s := rfl

theorem startable_some {s : State} {r : CmdRef} {op : Nat} {c : Cmd} (h : s.startable r op = some c) :
    s.cmd? r = some c ∧ c.opcode = op ∧ c.phase = .admitted ∧ s.serves op = true ∧ (c.ordered = true → s.isFirst c = true) := by
  unfold State.startable at h
  split at h
  · cases h
  · next d hd =>
    split at h
    · next hk =>
      obtain rfl := Option.some.inj h
      simp only [Bool.and_eq_true, beq_iff_eq, Bool.or_eq_true, Bool.not_eq_true'] at hk
      refine ⟨hd, hk.1.1.1, hk.1.1.2, hk.1.2, fun ho => ?_⟩
      rcases hk.2 with h | h
      · rw [h] at ho; cases ho
      · exact h
    · cases h

/-- A command starts where it can be started, and otherwise nothing happens. -/
theorem startCmd_cases {s t : State} {r : CmdRef} {op : Nat} {run : Cmd → State → State} (h : startCmd r op run s = .next t) :
    (s.startable r op = none ∧ t = s) ∨ ∃ c, s.startable r op = some c ∧ t = run c (s.modCmd r fun d => { d with phase := .running }) := by
  unfold startCmd at h
  have h := (guardUnit_next h).2
  split at h
  · next h1 => cases h; exact .inl ⟨h1, rfl⟩
  · next c h1 => cases h; exact .inr ⟨c, h1, rfl⟩

theorem startCmd_run {s : State} {r : CmdRef} {op : Nat} {c : Cmd} {run : Cmd → State → State} (hr : refOk r = true) (h : s.startable r op = some c) :
    startCmd r op run s = .next (run c (s.modCmd r fun d => { d with phase := .running })) := by
  unfold startCmd
  rw [guardUnit_pos hr, h]

theorem startWhen_run {s : State} {r : CmdRef} {op : Nat} {c : Cmd} {ok : Cmd → State → Bool} {run : Cmd → State → State} (hr : refOk r = true)
    (h : s.startable r op = some c) (hk : ok c s = true) :
    startWhen r op ok run s = .next (run c (s.modCmd r fun d => { d with phase := .running })) := by
  unfold startWhen
  rw [h]
  simp only [hk, if_true]
  exact startCmd_run hr h

theorem stepCmd_start {s : State} {r : CmdRef} {op : Nat} {c : Cmd} {start more : Cmd → State → State} (hr : refOk r = true) (h : s.startable r op = some c) :
    stepCmd r op start more s = .next (start c (s.modCmd r fun d => { d with phase := .running })) := by
  obtain ⟨h1, -, h3, -⟩ := startable_some h
  unfold stepCmd
  rw [guardUnit_pos hr, h1]
  simp only [h3, h]
  rw [if_neg (by simp)]

/-! ### The window share (11 R433) -/

/-- The two copies of a share line stand on two different stacks, so they are two lines. -/
theorem winPlace_ne (l : Nat) : winPlace l true / 2 ^ 30 ≠ winPlace l false / 2 ^ 30 := by
  unfold winPlace
  simp only [if_true, Bool.false_eq_true, if_false]
  have ha := Nat.mod_lt (Config.winLine l false) (show 0 < 20 * 2 ^ 30 by decide)
  have hb := Nat.mod_lt (Config.winLine l true) (show 0 < 20 * 2 ^ 30 by decide)
  generalize Config.winLine l false % (20 * 2 ^ 30) = a at *
  generalize Config.winLine l true % (20 * 2 ^ 30) = b at *
  split <;> omega

/-! ### Events (16 R642; 17 R677, R678) -/

theorem sendMsi_frame (s : State) (p v : Nat) : { s.sendMsi p v with host := s.host } = s := by
  unfold State.sendMsi
  simp only
  split
  · rfl
  · split
    · rfl
    · split <;> rfl

/-- A message changes nothing of the host link but what has been sent and what is due. -/
theorem sendMsi_cmds (s : State) (p v : Nat) : (s.sendMsi p v).host.cmds = s.host.cmds ∧ (s.sendMsi p v).host.qps = s.host.qps := by
  unfold State.sendMsi
  simp only
  split
  · exact ⟨rfl, rfl⟩
  · split
    · exact ⟨rfl, rfl⟩
    · split <;> exact ⟨rfl, rfl⟩

theorem sendMsi_foldl_frame (l : List Nat) (v : Nat) : ∀ s : State, { l.foldl (fun u p => u.sendMsi p v) s with host := s.host } = s := by
  induction l with
  | nil => intro s; rfl
  | cons p r ih =>
    intro s
    have h1 := ih (s.sendMsi p v)
    have h2 := sendMsi_frame s p v
    rw [List.foldl_cons]
    calc { r.foldl (fun u p => u.sendMsi p v) (s.sendMsi p v) with host := s.host }
        = { ({ r.foldl (fun u p => u.sendMsi p v) (s.sendMsi p v) with host := (s.sendMsi p v).host } : State) with host := s.host } := rfl
      _ = { s.sendMsi p v with host := s.host } := by rw [h1]
      _ = s := h2

/-- An event bit changes its page and sends messages; nothing else. -/
theorem setEvt_frame (s : State) (b : Blk) (n : Nat) : { s.setEvt b n with pages := s.pages, host := s.host } = s := by
  unfold State.setEvt
  simp only
  split
  · rfl
  · split
    · rfl
    · have h := sendMsi_foldl_frame ((List.range 16).filter fun p => s.mayRead p b) 64 (s.modPage (pageNo b) fun g => { g with evtSts := g.evtSts ||| BitVec.ofNat 32 (2 ^ n) })
      generalize (List.foldl (fun u p => u.sendMsi p 64) (s.modPage (pageNo b) fun g => { g with evtSts := g.evtSts ||| BitVec.ofNat 32 (2 ^ n) })
        ((List.range 16).filter fun p => s.mayRead p b)) = t at h ⊢
      calc { t with pages := s.pages, host := s.host } = { ({ t with host := s.host } : State) with pages := s.pages } := rfl
        _ = { (s.modPage (pageNo b) fun g => { g with evtSts := g.evtSts ||| BitVec.ofNat 32 (2 ^ n) }) with pages := s.pages } := by rw [← h]; rfl
        _ = s := rfl

theorem fbStore_frame (s : State) (code : Nat) (p : Bytes) : { s.fbStore code p with fbk := s.fbk } = s := rfl

/-! ### DRAM lines (13 R541, R544, R552) -/

/-- A stored line reads back, whatever stood there, and the flip mask is not armed there. -/
theorem getLine_putLine (s : State) (g l : Nat) (bs : Bytes) (hb : bs.length = 64) (hw : g ∉ s.dram.withdrawn) (ha : g * 32768 + l / 1024 ∉ s.dram.absent)
    (hf : s.flipAt g l = false) : (s.putLine g l bs).getLine g l = (s.putLine g l bs, some bs) := by
  have hp : s.putLine g l bs = s.modDram fun d => { d with mem := wrBytes d.mem (lineKey g l * 64) bs, bad := ldel d.bad (lineKey g l) } := by
    unfold State.putLine
    simp [hf]
  rw [hp]
  unfold State.getLine
  simp only [modDram_dram, List.contains_iff_mem, hw, ha, if_false, lget_ldel, if_true]
  congr 2
  apply List.ext_getElem
  · rw [length_rdBytes, hb]
  · intro i h1 h2
    rw [length_rdBytes] at h1
    have := getD_rdBytes (wrBytes s.dram.mem (lineKey g l * 64) bs) (lineKey g l * 64) 64 i h1
    rw [List.getD_eq_getElem _ _ (by rw [length_rdBytes]; exact h1)] at this
    rw [this, rdByte_wrBytes, if_pos (by omega)]
    rw [List.getD_eq_getElem _ _ (by omega)]
    congr 1
    omega

theorem putLine_wf (s : State) (g l : Nat) (bs : Bytes) (h : Memory.wf s.dram.mem) : Memory.wf (s.putLine g l bs).dram.mem := by
  unfold State.putLine
  simp only
  split
  · split <;> exact wf_wrBytes _ _ _ h
  · exact wf_wrBytes _ _ _ h

/-! ### The state after reset -/

theorem reset_mem_wf : Memory.wf State.reset.dram.mem ∧ State.reset.pending = [] := by decide

end Sys2Proof.Machine
end

