-- ==== Sys2Proof/Tests/Slice0.lean ====
section
/-! SUPPORT. The model's own tests: what well-formedness refuses, small steps, and for every statement states and operands that meet its
hypotheses. -/

namespace Sys2Proof.Tests

open Sys2Proof Sys2Proof.Machine Sys2Proof.Claims

set_option Elab.async false

/-! ### Well-formedness -/

def gOn : Guard := { gp := 0, gs := false }
def gOff : Guard := { gp := 0, gs := true }
def rAt (p q t : Nat) : CmdRef := { part := p, qp := q, tag := t }
def fAdd : ScalarF := { g := gOn, sd := 3, sa := 1, i := false, sb := 2, rsv := 0, imm := 0 }
def fImm : ScalarF := { g := gOn, sd := 3, sa := 1, i := true, sb := 0, rsv := 0, imm := 0xFFFFFFFF }

/-- Each unit that a command may name has a number past its last one, which the check refuses, and the last one passes
(01 R17 to R29, 02 R89, 04 R183, 05 R210, 08 R316, 09 R349, 10 R388, R393, 11 R437, R446). -/
theorem test_wf_units :
    (Instr.preempt 768).wf = false ∧ (Instr.preempt 767).wf = true ∧ (Instr.mergeRoundComplete 96 0).wf = false ∧
    (Instr.mergeRoundComplete 95 4).wf = false ∧ (Instr.mergeRoundComplete 95 3).wf = true ∧ (Instr.cluBarMaskWrite 0 16 0).wf = false ∧
    (Instr.fchReqRingEn 19 0 0).wf = false ∧ (Instr.fchReqRingEn 36 0 0).wf = false ∧ (Instr.fchReqRingEn 35 8 0).wf = false ∧
    (Instr.flush (rAt 16 0 0)).wf = false ∧ (Instr.flush (rAt 0 64 0)).wf = false ∧ (Instr.flush (rAt 0 0 65536)).wf = false ∧
    (Instr.flush (rAt 15 63 65535)).wf = true ∧ (Instr.blockedSave 16).wf = false ∧ (Instr.updateUnitFail 8).wf = false ∧
    (Instr.contextPlace 1024).wf = false ∧ (Instr.sequenceEntry 16).wf = false ∧ (Instr.hotRowEvaluation 0 (2 ^ 32)).wf = false ∧
    (Instr.tombstoneApply 0 (2 ^ 32)).wf = false ∧ (Instr.thermalTrip 92).wf = false ∧ (Instr.bankRetire 640 0).wf = false ∧
    (Instr.bankRetire 639 64).wf = false ∧ (Instr.frameRetire 639 32768).wf = false ∧ (Instr.dieRetire 512).wf = false ∧
    (Instr.stackOutOfService 20).wf = false ∧ (Instr.channelDieFail 16).wf = false ∧ (Instr.hubFail 2 none).wf = false ∧
    (Instr.frzCtlFreeze (.ld 16)).wf = false ∧ (Instr.heartbeat (.doe 16)).wf = false ∧ (Instr.ideIntegrityFailure 2).wf = false ∧
    (Instr.commandPacket 0 64).wf = false := by decide

/-- A reserved bit of each class of Table 2.6 that has one (02 R65). -/
theorem test_wf_reserved :
    (Instr.add 0 { fAdd with rsv := 1 }).wf = false ∧ (Instr.add 0 fAdd).wf = true ∧
    (Instr.br 0 { g := gOn, sa := 0, rsv := 1, off := 0 }).wf = false ∧
    (Instr.ld64 0 { g := gOn, rd := 0, sa := 0, pm := 0, rsv := 1, off := 0 }).wf = false ∧
    (Instr.tmov 0 { g := gOn, td := 0, tk := 63, sa := 0, cnt := 0, rsv := 1 }).wf = false ∧
    (Instr.mop 0 { g := gOn, ta := 0, tk := 63, tb := 0, tc := 0, bank := false, fa := 2, fb := 2, acc := false, len := 1, rsv := 1 }).wf = false ∧
    (Instr.stopk 0 { g := gOn, ta := 0, tk := 63, tb := 0, dir := false, vt := 0, k := 1, rsv := 1 }).wf = false ∧
    (Instr.wait 0 { g := gOn, tk := 0, n := 1, ci := 0, b := 0, rsv := 1 }).wf = false ∧
    (Instr.halt 0 { g := gOn, sa := 0, rsv := 1, code := 0 }).wf = false := by decide

/-! ### Instruction words -/

/-- A word with these numbers in CLASS, GP, GS and OP (02 Table 2.5), and the class's fields below. -/
def wordOf (cls gp gs op fields : Nat) : BitVec 64 := BitVec.ofNat 64 (cls * 2 ^ 60 + gp * 2 ^ 57 + gs * 2 ^ 56 + op * 2 ^ 50 + fields)

/-- One word of each class, its fields laid out from Table 2.6: MIN s3, s1, −1 unless p2; LOOP s4, −2; VSTP v15 at s1 + 64 under p7; TGATH t5, token 31, at s6,
513 indices; MWS of t1, t2 and bank 1 with token 9 and 1,025 vectors. -/
theorem test_words :
    decodeWord 7 (wordOf 0 2 1 0x0B (3 * 2 ^ 45 + 1 * 2 ^ 40 + 1 * 2 ^ 39 + 0xFFFFFFFF)) =
      some (.min 7 { g := { gp := 2, gs := true }, sd := 3, sa := 1, i := true, sb := 0, rsv := 0, imm := 0xFFFFFFFF }) ∧
    decodeWord 0 (wordOf 1 0 0 0x05 (4 * 2 ^ 45 + 0xFFFE)) = some (.loop 0 { g := gOn, sa := 4, rsv := 0, off := 0xFFFE }) ∧
    decodeWord 0 (wordOf 2 0 0 0x12 (15 * 2 ^ 45 + 1 * 2 ^ 40 + 7 * 2 ^ 37 + 64)) = some (.vstp 0 { g := gOn, rd := 15, sa := 1, pm := 7, rsv := 0, off := 64 }) ∧
    decodeWord 0 (wordOf 3 0 0 0x01 (5 * 2 ^ 46 + 31 * 2 ^ 40 + 6 * 2 ^ 35 + 513 * 2 ^ 19)) =
      some (.tgath 0 { g := gOn, td := 5, tk := 31, sa := 6, cnt := 513, rsv := 0 }) ∧
    decodeWord 0 (wordOf 4 0 0 0x02 (1 * 2 ^ 46 + 9 * 2 ^ 40 + 2 * 2 ^ 36 + 1 * 2 ^ 31 + 2 * 2 ^ 23 + 1025 * 2 ^ 6)) =
      some (.mws 0 { g := gOn, ta := 1, tk := 9, tb := 2, tc := 0, bank := true, fa := 0, fb := 2, acc := false, len := 1025, rsv := 0 }) := by decide +kernel

/-- VFMA v1, v2, v3 under p4 at 32 bits; VSQNT of slot 5 by each SUBOP; STOPK of the 4,096 largest FP32 values; POSTC of 65,535 to token 31 of core 6; TRAP s2;
and words of a reserved CLASS and of an OP that no class lists (02 R65, Tables 2.6 to 2.9; 03 R141). -/
theorem test_words_more :
    decodeWord 0 (wordOf 5 0 0 0x3A (1 * 2 ^ 46 + 2 * 2 ^ 42 + 3 * 2 ^ 38 + 4 * 2 ^ 35 + 2 * 2 ^ 33)) =
      some (.vfma 0 { g := gOn, vd := 1, va := 2, vb := 3, pm := 4, w := 2, sx := 0, aux := 0 }) ∧
    ((List.range 4).map fun k => decodeWord 0 (wordOf 5 0 0 0x3E (1 * 2 ^ 46 + 63 * 2 ^ 40 + 2 * 2 ^ 36 + k * 2 ^ 4 + 5))) =
      (let f (k : Nat) : StreamF := { g := gOn, ta := 1, tk := 63, tb := 2, va := 0, cl := 0, aux := BitVec.ofNat 24 (16 * k + 5) }
       [some (.vsqntQuantise 0 (f 0)), some (.vsqntLoad 0 (f 1)), some (.vsqntStore 0 (f 2)), some (.vsqntClose 0 (f 3))]) ∧
    decodeWord 0 (wordOf 6 0 0 0x00 (1 * 2 ^ 46 + 3 * 2 ^ 40 + 2 * 2 ^ 36 + 1 * 2 ^ 35 + 3 * 2 ^ 32 + 4096 * 2 ^ 19)) =
      some (.stopk 0 { g := gOn, ta := 1, tk := 3, tb := 2, dir := true, vt := 3, k := 4096, rsv := 0 }) ∧
    decodeWord 0 (wordOf 7 0 0 0x02 (31 * 2 ^ 44 + 65535 * 2 ^ 28 + 6 * 2 ^ 25)) = some (.postc 0 { g := gOn, tk := 31, n := 65535, ci := 6, b := 0, rsv := 0 }) ∧
    decodeWord 0 (wordOf 8 0 0 0x02 (2 * 2 ^ 45 + 0xABCD)) = some (.trap 0 { g := gOn, sa := 2, rsv := 0, code := 0xABCD }) ∧
    decodeWord 0 (wordOf 9 0 0 0 0) = none ∧ decodeWord 0 (wordOf 15 0 0 0 0) = none ∧ decodeWord 0 (wordOf 0 0 0 0x1D 0) = none ∧
    decodeWord 0 (wordOf 2 0 0 0x07 0) = none ∧ decodeWord 0 (wordOf 5 0 0 0x3F 0) = none := by decide +kernel

theorem witness_InstructionWords :
    (Instr.add 767 fAdd).word = some (767, layWord 0 fAdd.g 0x00 fAdd.body) ∧ subopFits (.add 767 fAdd) ∧ (decodeWord 0 0).isSome = true ∧
    9 ≤ (wordOf 9 0 0 0 0 >>> 60).toNat := by
  refine ⟨rfl, trivial, ?_, ?_⟩ <;> decide +kernel

/-! ### States that the tests use -/

/-- A module that is powered and has come up, at a moment, with its media ready and its link up. -/
def up : State := { State.reset with sys := { powered := true, upStep := 7, now := 5000000, poc := 1, perstN := true, linkUp := true, ready := true, mediaReady := true } }

/-- A core that runs a program of 100 instructions, at instruction 5. -/
def onCore (a : Arch) : Core := { run := .running, progLen := 100, arch := { a with pc := 5 } }
/-- Core 0 of a module that is up, with this image. -/
def run (a : Arch) : State := { up with cores := [(0, onCore a)] }
def regs : Arch := { s := [(1, 8), (2, 3)] }
def sRun : State := run regs
/-- At the end of its program. -/
def sEnd : State := { up with cores := [(0, { run := .running, progLen := 5, arch := { pc := 5 } })] }
def sFault : State := { up with cores := [(0, { run := .faulted, fault := some { code := 1, precise := true, src := 0, pc := 5, addr := 0 } })] }

/-- A tile descriptor (02 Table 2.3). -/
def mkDesc (src dst rowLen rows sstride dstride fmt : Nat) : BitVec 256 :=
  BitVec.ofNat 256 (src + dst * 2 ^ 64 + rowLen * 2 ^ 128 + rows * 2 ^ 148 + sstride * 2 ^ 164 + dstride * 2 ^ 196 + fmt * 2 ^ 228)

/-- Whether an outcome is this next state. -/
def isNext (o : Out) (t : State) : Bool :=
  match o with
  | .next u => u == t
  | _ => false

/-- The next state of an outcome. -/
def after (o : Out) : State :=
  match o with
  | .next u => u
  | _ => { free := 1000000 }

/-! ### The step, registers and faults at issue -/

theorem witness_StepTakesTheFront : State.reset.pending = [] := rfl

/-- One write and one read of each kind of register, with the registers the spec fixes (02 R58). -/
theorem test_registers :
    (({} : Arch).wrS 31 5).rdS 31 = 5 ∧ (({} : Arch).wrS 0 5).rdS 0 = 0 ∧ (({} : Arch).wrP 0 5).rdP 0 = BitVec.allOnes 64 ∧
    (({} : Arch).wrP 7 5).rdP 7 = 5 ∧ (({} : Arch).wrV 15 5).rdV 15 = 5 ∧ (({} : Arch).wrT 15 5).rdT 14 = 0 := by decide +kernel

def fTile (tk : BitVec 6) : TileF := { g := gOn, td := 1, tk := tk, sa := 1, cnt := 0, rsv := 0 }
def fBr (off : BitVec 16) : BranchF := { g := gOn, sa := 1, rsv := 0, off := off }
def fSync (tk : BitVec 6) (n : BitVec 16) : SyncF := { g := gOn, tk := tk, n := n, ci := 0, b := 0, rsv := 0 }

theorem witness_GuardedOffInstructions :
    guardedOff sRun 0 gOff ∧ scalarClean { fAdd with g := gOff } ∧ fAdd.sd.toNat < 8 ∧ (fBr 0).rsv = 0 ∧ (fTile 63).rsv = 0 ∧
    (fTile 31).tk.toNat < 32 ∧ (sRun.core 0).arch.rdK 31 < 65535 := by unfold guardedOff fetches inProgram scalarClean; decide +kernel

theorem witness_FaultsAtIssue :
    (sEnd.canIssue 0 = true ∧ (sEnd.core 0).progLen.toNat ≤ sEnd.pcOf 0) ∧
    (sRun.canIssue 0 = true ∧ sRun.pcOf 0 < (sRun.core 0).progLen.toNat) ∧
    ({ fAdd with rsv := 3 } : ScalarF).rsv ≠ 0 ∧ (({ fAdd with i := true } : ScalarF).i = true ∧ ({ fAdd with i := true } : ScalarF).sb ≠ 0) ∧
    (({ fAdd with imm := 1 } : ScalarF).i = false ∧ ({ fAdd with imm := 1 } : ScalarF).imm ≠ 0) ∧ 8 ≤ ({ fAdd with sd := 8 } : ScalarF).sd.toNat ∧
    ({ fTile 63 with rsv := 1 } : TileF).rsv ≠ 0 ∧ (32 ≤ (fTile 32).tk.toNat ∧ (fTile 32).tk ≠ 63) ∧ (fTile 0).tk ≠ 63 ∧
    (fSync 0 0).n = 0 ∧ 32 ≤ (fSync 32 1).tk.toNat ∧ (fSync 0 1).n ≠ 0 ∧ (fSync 1 0).tk ≠ 0 ∧
    (sFault.core 0).fault.isSome = true ∧ ((sRun.core 0).fault = none ∧ (sRun.core 0).bound = false ∧ lget sRun.fch.invs 0 = none) := by decide +kernel

/-! ### Scalar instructions, predicates, branches -/

theorem witness_ScalarResults : issues sRun 0 fAdd.g ∧ scalarClean fAdd ∧ scalarClean fImm ∧ fImm.i = true := by
  unfold issues fetches inProgram scalarClean; decide +kernel

/-- 8 + 3, 8 × 3, −1 + 8 and the shift by 67 modulo 64 (02 Table 2.7). -/
theorem test_scalar :
    isNext (exec (.add 0 fAdd) sRun) (retire sRun 0 fun a => a.wrS 3 11) = true ∧ isNext (exec (.mul 0 fAdd) sRun) (retire sRun 0 fun a => a.wrS 3 24) = true ∧
    isNext (exec (.add 0 fImm) sRun) (retire sRun 0 fun a => a.wrS 3 7) = true ∧
    isNext (exec (.shl 0 { fImm with imm := 67 }) sRun) (retire sRun 0 fun a => a.wrS 3 64) = true ∧
    isNext (exec (.mulhs 0 fImm) sRun) (retire sRun 0 fun a => a.wrS 3 (BitVec.allOnes 64)) = true ∧
    isNext (exec (.mulhu 0 fImm) sRun) (retire sRun 0 fun a => a.wrS 3 7) = true ∧
    isNext (exec (.movhi 0 fImm) sRun) (retire sRun 0 fun a => a.wrS 3 0xFFFFFFFF00000000) = true ∧
    isNext (exec (.clz 0 fAdd) sRun) (retire sRun 0 fun a => a.wrS 3 60) = true := by decide +kernel

theorem witness_ComparesAndPredicates :
    issues sRun 0 fAdd.g ∧ scalarClean { fAdd with sd := 7, sa := 7, sb := 7 } ∧ ({ fAdd with sd := 7 } : ScalarF).sd.toNat < 8 ∧
    ({ fAdd with sa := 7 } : ScalarF).sa.toNat < 8 ∧ ({ fAdd with sb := 7 } : ScalarF).sb.toNat < 8 := by unfold issues fetches inProgram scalarClean; decide +kernel

/-- Signed and unsigned comparison of 8 with −1 (02 Table 2.7). -/
theorem test_compare :
    isNext (exec (.cmplt 0 fImm) sRun) (retire sRun 0 fun a => a.wrP 3 0) = true ∧
    isNext (exec (.cmpltu 0 fImm) sRun) (retire sRun 0 fun a => a.wrP 3 (BitVec.allOnes 64)) = true := by decide +kernel

/-- The first and the last target in range, one past each, s1 = 0, 1 and another value. -/
theorem witness_Branches :
    issues sRun 0 gOn ∧ (fBr 0).rsv = 0 ∧
    (0 ≤ (sRun.pcOf 0 : Int) + (fBr 94).off.toInt ∧ (sRun.pcOf 0 : Int) + (fBr 94).off.toInt < (sRun.core 0).progLen.toNat) ∧
    (0 ≤ (sRun.pcOf 0 : Int) + (fBr (-5)).off.toInt) ∧ ¬ (0 ≤ (sRun.pcOf 0 : Int) + (fBr (-6)).off.toInt) ∧
    ¬ ((sRun.pcOf 0 : Int) + (fBr 95).off.toInt < (sRun.core 0).progLen.toNat) ∧
    (issues (run {}) 0 gOn ∧ ((run {}).core 0).arch.rdS (fBr 0).sa = 0) ∧ (sRun.core 0).arch.rdS (fBr 0).sa ≠ 0 ∧
    (sRun.core 0).arch.rdS (fBr 0).sa ≠ 1 ∧ (issues (run { s := [(1, 1)] }) 0 gOn ∧ ((run { s := [(1, 1)] }).core 0).arch.rdS (fBr 0).sa = 1) ∧
    lget sRun.fch.invs 0 = none ∧ ((sRun.core 0).arch.rdS (fBr 0).sa).toNat % 16384 < (sRun.core 0).progLen.toNat ∧
    (issues (run { s := [(1, 100)] }) 0 gOn ∧ ((run { s := [(1, 100)] }).core 0).progLen.toNat ≤ (((run { s := [(1, 100)] }).core 0).arch.rdS (fBr 0).sa).toNat % 16384) := by
  unfold issues fetches inProgram; decide +kernel

/-- Core 0 waits at a WAIT; and core 0 stands at a word of CLASS 9. -/
def sStall : State := run { regs with stall := some ⟨.wait 0 (fSync 3 2), .wait 3 2⟩ }
def sNoWord : State := run { regs with imem := [(5, 0x9000000000000000)] }
theorem witness_Branches_issue :
    (sStall.canIssue 0 = true ∧ sStall.turnOf 0 (.add 0 fAdd) = false ∧ sStall.turnOf 0 (.wait 0 (fSync 3 2)) = true) ∧
    (sNoWord.canIssue 0 = true ∧ sNoWord.turnOf 0 (.add 0 fAdd) = true ∧ sNoWord.pcOf 0 < (sNoWord.core 0).progLen.toNat ∧ sNoWord.noInstr 0 = true) := by
  decide +kernel

/-- Behind a WAIT that waits no other instruction issues, and a word of CLASS 9 is an illegal instruction (02 R49, R65). -/
theorem test_issue :
    isNext (exec (.add 0 fAdd) sStall) sStall = true ∧ ((after (exec (.add 0 fAdd) sNoWord)).core 0).fault.map (·.code) = some 1 := by decide +kernel

/-- BR goes on by OFF and writes nothing else (02 Table 2.7). -/
theorem test_branch : (after (exec (.br 0 (fBr 94)) sRun)).pcOf 0 = 99 ∧ ((after (exec (.br 0 (fBr 94)) sRun)).core 0).arch.s = regs.s := by
  decide +kernel


/-! ### Loads and stores -/

def fLd (rd : BitVec 5) (off : BitVec 24) : LdStF := { g := gOn, rd := rd, sa := 1, pm := 0, rsv := 0, off := off }
def base (a : Nat) : State := run { s := [(1, BitVec.ofNat 64 a), (2, 0x1122334455667788)], spm := [(8, 0x80), (9, 1)] }
/-- A job context on core 0 that owns bank 0 of its cluster. -/
def cxJob : Ctx := { kind := .job, part := 0, cores := [0, 1], place := .resident, started := true }
def owned (a : Nat) : State :=
  { base a with
    cores := [(0, { onCore { s := [(1, BitVec.ofNat 64 a)] } with bound := true, ctx := 5 }), (1, { run := .running, bound := true, ctx := 5, progLen := 100 })]
    sched := { ctxs := [(5, cxJob)] }
    clus := [(0, { spmOwn := [(0, ownWord 5)], barMask := [(1, barWord 3 5), (2, barWord 1 5), (3, barWord 2 5), (4, barWord 1 6)], mslotOwn := [(0, ownWord 5)] })] }

/-- The last byte of the scratchpad, the first and last of the alias ranges, the first of a bank owned and of one not, the last of the cluster's
scratchpad, the first past it. -/
theorem witness_LocalReads :
    (0x1FFFFF + 1 ≤ spmSize 0 ∧ 0x0FFFFF + 1 ≤ spmSize 767) ∧ (0x1000000 ≤ 0x1000000 ∧ 0x3FFFFFF < 0x4000000) ∧
    0x4000000 + 64 ≤ 0x4000000 + cspmSize (clusterOf 0) ∧ (owned 0).banksOwned 0 (clusterOf 0) 0 64 = true ∧
    (owned 0).banksOwned 0 (clusterOf 0) 0x7FFFC0 64 = false ∧ 0x47FFFC0 + 64 ≤ 0x4000000 + cspmSize (clusterOf 0) := by decide +kernel

theorem witness_Loads :
    issues (base 8) 0 gOn ∧ finds (base 8) 0 (address (base 8) 0 (fLd 7 0)) 1 [0x80] ∧ finds (base 8) 0 8 2 [0x80, 1] ∧
    finds (base 8) 0 8 4 [0x80, 1, 0, 0] ∧ finds (base 8) 0 8 8 [0x80, 1, 0, 0, 0, 0, 0, 0] ∧ (fLd 7 0).rd.toNat < 8 ∧
    address (base 8) 0 (fLd 7 0) % 8 = 0 ∧ (issues (base 0) 0 gOn ∧ (fLd 15 0).rd.toNat < 16 ∧ address (base 0) 0 (fLd 15 0) % 64 = 0 ∧
      ∃ bs, finds (base 0) 0 0 64 bs) ∧
    (issues (base 1) 0 gOn ∧ address (base 1) 0 (fLd 7 0) % 2 ≠ 0) ∧ (issues (base 0x1000000) 0 gOn ∧
      (base 0x1000000).rdLocal 0 (address (base 0x1000000) 0 (fLd 7 0)) 1 = none ∧ address (base 0x1000000) 0 (fLd 15 0) % 64 = 0 ∧
      (base 0x1000000).rdLocal 0 0x1000000 64 = none) ∧
    (base 8).rdLocal 0 (address (base 8) 0 (fLd 7 0)) 8 = some [0x80, 1, 0, 0, 0, 0, 0, 0] := by
  unfold issues fetches inProgram finds
  refine ⟨?_, ?_, ?_, ?_, ?_, ?_, ?_, ⟨?_, ?_, ?_, _, rfl, ?_⟩, ?_⟩ <;> decide +kernel

/-- 0x80 zero-extended and sign-extended (02 Table 2.8). -/
theorem test_load :
    isNext (exec (.ld8u 0 (fLd 3 0)) (base 8)) (retire (base 8) 0 fun a => a.wrS 3 0x80) = true ∧
    isNext (exec (.ld8s 0 (fLd 3 0)) (base 8)) (retire (base 8) 0 fun a => a.wrS 3 0xFFFFFFFFFFFFFF80) = true ∧
    isNext (exec (.ld16u 0 (fLd 3 0)) (base 8)) (retire (base 8) 0 fun a => a.wrS 3 0x180) = true := by decide +kernel

theorem witness_Stores :
    (issues (base 8) 0 gOn ∧ inSpm 0 (address (base 8) 0 (fLd 2 0)) 8 ∧ address (base 8) 0 (fLd 2 0) % 8 = 0 ∧ inSpm 0 (spmSize 0 - 8) 8) ∧
    (issues (base 1) 0 gOn ∧ address (base 1) 0 (fLd 2 0) % 2 ≠ 0) ∧
    (issues (base 0x11FFFF8) 0 gOn ∧ 0x1000000 ≤ address (base 0x11FFFF8) 0 (fLd 2 0) ∧ inSpm 0 (address (base 0x11FFFF8) 0 (fLd 2 0) - 0x1000000) 8 ∧
      address (base 0x11FFFF8) 0 (fLd 2 0) % 8 = 0) ∧
    (issues (base 0x2000000) 0 gOn ∧ 0x2000000 ≤ address (base 0x2000000) 0 (fLd 2 0) ∧ inSpm 0 (address (base 0x2000000) 0 (fLd 2 0) - 0x2000000) 64) ∧
    (fLd 15 0).rd.toNat < 16 ∧ (fLd 7 0).rd.toNat < 8 ∧
    (issues (owned 0x4000000) 0 gOn ∧ (owned 0x4000000).banksOwned 0 (clusterOf 0) (address (owned 0x4000000) 0 (fLd 2 0) - 0x4000000) 8 = true) ∧
    (issues (owned 0x47FFFF8) 0 gOn ∧ address (owned 0x47FFFF8) 0 (fLd 2 0) + 8 ≤ 0x4000000 + cspmSize (clusterOf 0) ∧
      (owned 0x47FFFF8).banksOwned 0 (clusterOf 0) (address (owned 0x47FFFF8) 0 (fLd 2 0) - 0x4000000) 8 = false) := by
  unfold issues fetches inProgram inSpm; decide +kernel

/-- ST64 puts the low byte at the address; through the set alias the bits are added (02 R72, R76). -/
theorem test_store :
    rdByte ((after (exec (.st64 0 (fLd 2 0)) (base 8))).core 0).arch.spm 8 = 0x88 ∧
    rdByte ((after (exec (.st64 0 (fLd 2 0)) (base 8))).core 0).arch.spm 15 = 0x11 ∧
    rdByte ((after (exec (.st8 0 (fLd 2 0)) (base 0x1000008))).core 0).arch.spm 8 = 0x88 ∧
    rdByte ((after (exec (.st8 0 (fLd 2 0)) (base 0x2000009))).core 0).arch.spm 9 = 1 := by decide +kernel

/-! ### Vector instructions -/

def fVec (w : BitVec 2) (aux : BitVec 28) : VecF := { g := gOn, vd := 3, va := 1, vb := 2, pm := 0, w := w, sx := 4, aux := aux }
def vecs : State := run { v := [(1, 0x0100000080FF), (2, 0x02000000FF01)] }

theorem witness_VectorLanes : issues vecs 0 (fVec 0 0).g ∧ (vecs.core 0).arch.vxe = none := by unfold issues fetches inProgram; decide +kernel

/-- Wrap of a byte lane, signed minimum, saturation, and a shift by a count modulo the width (02 Table 2.9). -/
theorem test_vector :
    isNext (exec (.vadd 0 (fVec 0 0)) vecs) (retire vecs 0 fun a => a.wrV 3 0x030000007F00) = true ∧
    isNext (exec (.vmin 0 (fVec 0 0)) vecs) (retire vecs 0 fun a => a.wrV 3 0x0100000080FF) = true ∧
    isNext (exec (.vadds 0 (fVec 0 0)) vecs) (retire vecs 0 fun a => a.wrV 3 0x030000008000) = true ∧
    isNext (exec (.vshl 0 (fVec 0 0)) vecs) (retire vecs 0 fun a => a.wrV 3 0x0400000000FE) = true := by decide +kernel

theorem witness_VectorReductionsTablesFloats :
    (issues vecs 0 (fVec 0 1).g ∧ (vecs.core 0).arch.vxe = none) ∧ (fVec 0 1).vd.toNat < 8 ∧ (fVec 0 1).aux.toNat < 2 ∧ (fVec 2 7).aux.toNat < 8 ∧
    (fVec 2 0).w = 2 ∧ (fVec 0 0).w ≠ 2 ∧ (fVec 0 0x2D).w = 0 ∧ (fmtIsMx (0x2D / 16 % 16) = false ∧ fmtIsMx (0x2D % 16) = false) ∧
    (fVec 0 0x2D).pm = 0 ∧ fmtIsMx 7 = true ∧ (fVec 0 0x2F).aux.toNat % 16 = 15 ∧
    (let cfg := (run { slots := [(0, 2)] }).core 0 |>.arch.slotCfg 0; fmtIsMx cfg.fmt = false ∧ cfg.fmt < 15 ∧ cfg.zpEn = false) ∧
    ((vecs.core 0).arch.rdP (fVec 2 0).pm).getLsbD 60 = true := by unfold issues fetches inProgram; decide +kernel

/-- The sum of the signed bytes −1 − 128 + 1, and 1.0 + 1.0 = 2.0 (02 R708, R711). -/
theorem test_reduce :
    isNext (exec (.vrsum 0 (fVec 0 0)) vecs) (retire vecs 0 fun a => a.wrS 4 (BitVec.ofInt 64 (-128))) = true ∧
    isNext (exec (.vfadd 0 { fVec 2 0 with vb := 1 }) (run { v := [(1, 0x3F800000)] })) (retire (run { v := [(1, 0x3F800000)] }) 0 fun a => a.wrV 3 0x40000000) = true := by
  decide +kernel

/-! ### Engine operations -/

def fStr (cl : BitVec 8) (aux : BitVec 24) : StreamF := { g := gOn, ta := 1, tk := 0, tb := 2, va := 0, cl := cl, aux := aux }
/-- Two descriptors over 2 rows of 64 bytes, the second 128 rows on. -/
def tiles : Arch := { s := [(1, 0x100)], t := [(1, mkDesc 0 0x1000 64 2 64 64 0xE), (2, mkDesc 0 0x2000 64 2 64 64 2)], slots := [(0, 2)] }
def sTile : State := run tiles
theorem witness_TileAndStreamIssue :
    issues sTile 0 gOn ∧ tkFine (fTile 31).tk ∧ tkFine (fTile 63).tk ∧ (sTile.core 0).arch.tme = none ∧ (descOf ((sTile.core 0).arch.rdT 1)).ok = true ∧
    (descOf ((sRun.core 0).arch.rdT 1)).ok = false ∧ inSpm 0 ((sTile.core 0).arch.rdS 1).toNat (Nat.max 1 (4 * 0)) ∧ inSpm 0 ((sTile.core 0).arch.rdS 1).toNat 32 ∧
    (sTile.core 0).arch.vxe = none ∧ srcInside 0 ((sTile.core 0).arch.rdT 1) ∧ dstInside 0 ((sTile.core 0).arch.rdT 2) ∧
    (descOf ((sTile.core 0).arch.rdT 1)).size % (8 * 8) = 0 ∧
    2 * ((descOf ((sTile.core 0).arch.rdT 1)).size / (8 * 8)) ≤ (descOf ((sTile.core 0).arch.rdT 2)).size ∧ (fStr 0 0).cl = 0 ∧ (fStr 8 0).cl.toNat ≤ 8 ∧
    ((fStr 16 0x7F).aux.getLsbD 7 = false ∧ (fStr 16 0x7F).aux.getLsbD 23 = false ∧ (fStr 16 0x7F).aux.toNat % 128 + 1 ≤ 8 * 16 ∧
      (fStr 16 0x7F).aux.toNat / 256 % 32768 * 64 + ((fStr 16 0x7F).aux.toNat % 128 + 1) * 256 ≤ spmSize 0) ∧
    (fStr 0 0x7F).aux.toNat < 128 ∧ ([0, 0x1F, 0x2F, 0x7F].map fun k => (fStr 0 k).aux.toNat / 16 % 4) = [0, 1, 2, 3] ∧ inSpm 0 (descOf ((sTile.core 0).arch.rdT 1)).src 1024 ∧ inSpm 0 (descOf ((sTile.core 0).arch.rdT 2)).dst 1024 ∧
    (((sTile.core 0).arch.slotCfg 0).fmt = 2 ∧ ((sTile.core 0).arch.slotCfg 0).zpEn = false ∧ ((sTile.core 0).arch.slotCfg 0).epi = false) ∧
    (descOf ((sTile.core 0).arch.rdT 1)).fmt = 0xE ∧ (descOf ((sTile.core 0).arch.rdT 2)).fmt = 2 := by
  unfold issues fetches inProgram tkFine srcInside dstInside inSpm; decide +kernel

def fMat (tk : BitVec 6) (fa fb : BitVec 4) (len : BitVec 16) : MatrixF :=
  { g := gOn, ta := 1, tk := tk, tb := 2, tc := 3, bank := false, fa := fa, fb := fb, acc := false, len := len, rsv := 0 }
def mats : Arch :=
  { t := [(1, mkDesc 0 0 32 32 32 32 2), (2, mkDesc 0x400 0 32 32 32 32 2), (3, mkDesc 0 0x8000 128 32 128 128 0xD)]
    accKind := [(0, .int32)], pending := true, sets := [(1, { pair := some (2, 2) })] }
def sMat : State := run mats
def fSel (k : BitVec 13) : SelF := { g := gOn, ta := 1, tk := 63, tb := 2, dir := false, vt := 1, k := k, rsv := 0 }
/-- A select list of eight 32-bit unsigned values, configured, empty. -/
def list8 : SleList := { conf := true, k := 8, vt := 1, addr := 0x4000, mmask := 3 }
/-- A control block at 0 that gives a list at 0x4000; a record of K = 8 at 0x100. -/
def sels : Arch :=
  { t := [(1, mkDesc 0 0 64 1 64 64 1), (2, mkDesc 0 0x1000 256 1 256 256 1), (4, mkDesc 0x100 0 192 1 192 192 1), (5, mkDesc 0 0x4000000 256 1 256 256 1)]
    spm := [(1, 0x40), (0x102, 8), (0x106, 2)], sle := list8 }
def sSel : State := run sels
/-- The same core in a context that owns merge slot 0 of its cluster, and its bank 0. -/
def sMerge : State :=
  { owned 0 with cores := [(0, { onCore sels with bound := true, ctx := 5 })] }
theorem witness_MatrixAndSelectIssue_matrix :
    (issues sMat 0 gOn ∧ tkFine (fMat 0 2 2 32).tk ∧ (sMat.core 0).arch.mxe = [] ∧ (sMat.core 0).arch.tme = none) ∧
    ((fMat 0 2 2 32).fa = 2 ∧ (fMat 0 2 2 32).len ≠ 0 ∧ (descOf ((sMat.core 0).arch.rdT 1)).fmt = 2 ∧ (descOf ((sMat.core 0).arch.rdT 1)).rowLen = 32 ∧
      32 ≤ (descOf ((sMat.core 0).arch.rdT 1)).rows ∧ srcInside 0 ((sMat.core 0).arch.rdT 1) ∧ (descOf ((sMat.core 0).arch.rdT 2)).fmt = 2 ∧
      32 ≤ (descOf ((sMat.core 0).arch.rdT 2)).rows ∧ srcInside 0 ((sMat.core 0).arch.rdT 2)) ∧
    ((sMat.core 0).arch.pending = true ∧ (mget {} (sMat.core 0).arch.sets (b2n (! (sMat.core 0).arch.active))).pair = some (2, 2)) ∧
    (mget .empty (sMat.core 0).arch.accKind (b2n (fMat 0 0xD 0 4).bank) = .int32 ∧ (descOf ((sMat.core 0).arch.rdT 3)).fmt = 0xD ∧
      (descOf ((sMat.core 0).arch.rdT 3)).rowLen = 128 ∧ 32 ≤ (descOf ((sMat.core 0).arch.rdT 3)).rows ∧ dstInside 0 ((sMat.core 0).arch.rdT 3)) ∧
    ((fMat 0 2 4 1).fa = 2 ∧ (fMat 0 2 4 1).fb = 4) := by
  unfold issues fetches inProgram tkFine srcInside dstInside inSpm; decide +kernel

theorem witness_MatrixAndSelectIssue_select :
    (issues sSel 0 gOn ∧ tkFine (fSel 8).tk ∧ (fSel 8).vt.toNat < 5 ∧ 0 < (fSel 8).k.toNat ∧ (fSel 4096).k.toNat ≤ 4096 ∧ (sSel.core 0).arch.sleOp = none) ∧
    ((descOf ((sSel.core 0).arch.rdT 1)).size / vtBytes 1 = 16 ∧ srcInside 0 ((sSel.core 0).arch.rdT 1) ∧
      (descOf ((sSel.core 0).arch.rdT 1)).rowLen % vtBytes 1 = 0 ∧ dstInside 0 ((sSel.core 0).arch.rdT 2) ∧
      recordSize 8 0 ≤ (descOf ((sSel.core 0).arch.rdT 2)).size) ∧
    (list8.k = (fSel 8).k.toNat ∧ list8.dir = (fSel 8).dir ∧ list8.vt = (fSel 8).vt ∧ list8.next.toNat + 16 ≤ padId ∧ list8.explicitIds = false) ∧
    (sTile.core 0).arch.sle.conf = false ∧
    (let b := ctlOf (rdBytes (sSel.core 0).arch.spm (descOf ((sSel.core 0).arch.rdT 1)).src 64)
     (descOf ((sSel.core 0).arch.rdT 1)).fmt ≠ 15 ∧ inSpm 0 (descOf ((sSel.core 0).arch.rdT 1)).src 64 ∧ b.bad = false ∧ b.rsv ≤ 64 ∧ b.addr % 64 = 0 ∧
       inSpm 0 b.addr (recordSize 8 b.rsv)) ∧
    (let ta := (sSel.core 0).arch.rdT 4
     let bs := sSel.rdStream 0 ((descOf ta).srcRows (descOf ta).rows)
     srcInside 0 ta ∧ 64 ≤ (descOf ta).size ∧ fld bs 2 2 = list8.k ∧ fld bs 6 2 % 16 = b2n list8.dir + 2 * list8.vt.toNat ∧
       recordSize list8.k (fld bs 4 1) ≤ (descOf ta).size) ∧
    (issues sMerge 0 gOn ∧ (sMerge.core 0).arch.sleOp = none ∧ (sMerge.core 0).arch.tme = none ∧
      sMerge.scmrgFault 0 { op := .scmrg, pc := sMerge.pcOf 0, tk := token 63, ta := (sMerge.core 0).arch.rdT 1, tb := (sMerge.core 0).arch.rdT 5, n := 8, a := 1, b := 0 } = none ∧
      (sMerge.roundOf 0).full = false) := by
  unfold issues fetches inProgram tkFine srcInside dstInside inSpm; decide +kernel

def eop (op : EOp) (tk : Option Nat) : EngOp := { op := op, pc := 4, tk := tk }
def sTd : State := run { tiles with tme := some { eop .tdset (some 31) with x := 0, td := 15 } }
def sMv : State := run { tiles with tme := some { eop .tmov none with ta := mkDesc 0 0x1000 64 1 64 64 2 } }
def sClr : State := run { mats with mxe := [eop .mclr none], acc := [(5, 7)] }
def sSlot : State := run { tiles with vxe := some { eop .slotStore none with tb := mkDesc 0 0x1000 64 1 64 64 2 } }
def sScl : State := run { sels with sleOp := some { eop .sclr (some 0) with ta := mkDesc 0 0 64 1 64 64 1, n := 8, a := 1 } }
theorem witness_EngineCompletion :
    (sTd.engineRuns 0 = true ∧ bare sTd 0 ∧ (sTd.core 0).arch.rdK 31 < 65535 ∧ inSpm 0 0 32 ∧ (15 : Nat) < 16) ∧
    (sMv.engineRuns 0 = true ∧ bare sMv 0 ∧ (descOf (mkDesc 0 0x1000 64 1 64 64 2)).rows = 1 ∧
      inSpm 0 ((descOf (mkDesc 0 0x1000 64 1 64 64 2)).srcRow 0) 64 ∧ inSpm 0 ((descOf (mkDesc 0 0x1000 64 1 64 64 2)).dstRow 0) 64) ∧
    (sClr.engineRuns 0 = true ∧ bare sClr 0 ∧ (sClr.core 0).arch.mxe = [eop .mclr none]) ∧
    (sSlot.engineRuns 0 = true ∧ bare sSlot 0 ∧ inSpm 0 (descOf (mkDesc 0 0x1000 64 1 64 64 2)).dst 1024) ∧
    (sScl.engineRuns 0 = true ∧ bare sScl 0 ∧ (sScl.core 0).arch.rdK 0 < 65535 ∧ EOp.sclr ≠ .scmrg) := by unfold bare inSpm; decide +kernel

def opMop : EngOp := { eop .mop none with ta := mkDesc 0 0 32 1 32 32 2, tb := mkDesc 32 0 32 1 32 32 2, a := 2, b := 2, n := 1, bank := 1 }
def sMop : State := run { mxe := [opMop], spm := [(0, 0xFF), (32, 3)] }
theorem witness_OuterProduct :
    sMop.engineRuns 0 = true ∧ (sMop.core 0).arch.mxe = [opMop] ∧ opMop.bank < 2 ∧
    (∀ i, i < opMop.n → inSpm 0 ((descOf opMop.ta).srcRow i) 32 ∧ inSpm 0 ((descOf opMop.tb).srcRow i) 32) := by unfold inSpm; decide +kernel

/-- −1 × 3 in cell (0, 0), modulo 2³² (03 R104). -/
theorem test_mop : ((after (exec (.mxeOperationComplete 0) sMop)).core 0).arch.cell 1 0 0 = 0xFFFFFFFD := by decide +kernel

/-! ### Tokens, barriers, system instructions -/

def sTok : State := run { k := [(0, 2), (31, 65535)] }
theorem witness_TokensAndPosts :
    issuesAt sTok 0 gOn (.wait 0 (fSync 31 65535)) ∧ issuesAt sStall 0 gOn (.wait 0 (fSync 3 2)) ∧ issues sTok 0 gOn ∧ (fSync 31 65535).tk.toNat < 32 ∧ 0 < (fSync 31 1).n.toNat ∧ (sTok.core 0).bound = false ∧
    ((fSync 31 65535).n.toNat ≤ (sTok.core 0).arch.rdK 31) ∧ (sTok.core 0).arch.rdK 0 < (fSync 0 3).n.toNat ∧
    (sTok.core 0).arch.rdK 0 + (fSync 0 65533).n.toNat ≤ 65535 ∧ 65535 < (sTok.core 0).arch.rdK 31 + (fSync 31 1).n.toNat ∧
    (issues (owned 0) 0 gOn ∧ (owned 0).ctxOn 0 = some 5 ∧ (owned 0).ctx? 5 = some cxJob ∧
      cxJob.cores.contains (clusterOf 0 * 8 + ({ fSync 0 1 with ci := 2 } : SyncF).ci.toNat) = false ∧
      cxJob.cores.contains (clusterOf 0 * 8 + ({ fSync 0 1 with ci := 1 } : SyncF).ci.toNat) = true ∧ (owned 0).ctxOn 1 = some 5 ∧
      ((owned 0).core 1).arch.rdK 0 + 1 ≤ 65535) := by unfold issuesAt issues fetches inProgram; decide +kernel

def fBar (b : BitVec 4) : SyncF := { g := gOn, tk := 0, n := 0, ci := 0, b := b, rsv := 0 }
def round1 : MRound := { mask := 1, k := 8, vt := 1, tb := mkDesc 0 0x1000 256 1 256 256 1, arrived := [0] }
def sRound : State :=
  { owned 0 with
    cores := [(0, { onCore { sels with sleOp := some (eop .scmrg none) } with bound := true, ctx := 5 })]
    clus := [(0, { mslotOwn := [(0, ownWord 5)], rounds := [(0, round1)] })] }
theorem witness_BarriersAndMergeRounds :
    (issuesAt (owned 0) 0 gOn (.bar 0 (fBar 1)) ∧ (owned 0).ctxOn 0 = some 5 ∧ (owned 0).ctx? 5 = some cxJob ∧ cxJob.images = []) ∧
    barOwnedBy (mget 0 ((owned 0).clu 0).barMask 4) 5 = false ∧ (mget 0 ((owned 0).clu 0).barMask 3).getLsbD 0 = false ∧
    (barOwnedBy (mget 0 ((owned 0).clu 0).barMask 1) 5 = true ∧ (mget 0 ((owned 0).clu 0).barMask 1).getLsbD 0 = true ∧
      (mget 0 ((owned 0).clu 0).barMask 1).getLsbD 1 = true ∧ (mget 0 ((owned 0).clu 0).arrivals 1).getLsbD 1 = false) ∧
    (barOwnedBy (mget 0 ((owned 0).clu 0).barMask 2) 5 = true ∧ ((mget 0 ((owned 0).clu 0).barMask 2).setWidth 8 : BitVec 8) = 1) ∧
    (round1.full = true ∧ sRound.engineRuns 0 = true ∧ (sRound.core 0).arch.sleOp = some (eop .scmrg none) ∧ round1.waiting = []) ∧
    (mget {} ((owned 0).clu 95).rounds 3 : MRound).full = false := by unfold issuesAt inProgram; decide +kernel

def fSys (code : BitVec 16) : SysF := { g := gOn, sa := 1, rsv := 0, code := code }
/-- A core in the service context of entry point 0 of the model. -/
def sModel : State :=
  { owned 0 with sched := { ctxs := [(5, { cxJob with kind := .entry 0 })] } }
theorem witness_SystemInstructions :
    issues sRun 0 gOn ∧ (sRun.core 0).arch.engineBusy = false ∧ (sRun.core 0).bound = false ∧ (issues sClr 0 gOn ∧ (sClr.core 0).arch.engineBusy = true) ∧
    sRun.onModel 0 = false ∧ (issues sModel 0 gOn ∧ sModel.onModel 0 = true) ∧
    (0xFE01 ≤ (fSys 0xFE04).code.toNat ∧ (fSys 0xFE04).code.toNat ≤ 0xFE04) ∧ (0xFE00 ≤ (fSys 0xFE00).code.toNat ∧ ¬ 0xFE01 ≤ (fSys 0xFE00).code.toNat) ∧
    (fSys 0xFDFF).code.toNat < 0xFE00 ∧ 0xFEFF < (fSys 0xFF00).code.toNat := by
  unfold issues fetches inProgram; decide +kernel


/-! ### Cores and contexts under the scheduler -/

def stopping : State := { owned 0 with cores := [(0, { run := .stopping, bound := true, ctx := 5, arch := { pc := 9 } })], sched := { ctxs := [(5, { cxJob with place := .saving, todo := [0] })] } }
def imaged (run : CoreRun) : State :=
  { owned 0 with cores := [(0, { run := run, bound := true, ctx := 5 })], sched := { ctxs := [(5, { cxJob with images := [(0, { pc := 9 })] })] } }
theorem witness_CoreControlAndContexts :
    (up.alive 6 = true ∧ (sRun.core 0).run = .running ∧ ((imaged .held).core 0).run = .held ∧ (sRun.core 0).bound = false) ∧
    ((owned 0).coresLive = true ∧ (owned 0).ctxOn 0 = some 5 ∧ (owned 0).ctx? 5 = some cxJob ∧ cxJob.cores.contains 0 = true ∧ ((owned 0).core 0).halted = false ∧
      cxJob.place = .resident ∧ cxJob.todo = [] ∧ cxJob.halted = []) ∧
    (stopping.coresLive = true ∧ stopping.ctxOn 0 = some 5 ∧ (stopping.core 0).run = .stopping ∧ (stopping.core 0).halted = false ∧
      ((stopping.ctx? 5).map (·.heldFault)) = some none) ∧
    ((imaged .saved).ctxOn 0 = some 5 ∧ ((imaged .saved).core 0).run = .saved ∧ ((imaged .restoring).core 0).run = .restoring ∧
      ((imaged .restoring).core 0).hold = false ∧ (((imaged .saved).ctx? 5).bind fun x => lget x.images 0).isSome = true) := by decide +kernel

/-- A command that has been admitted. -/
def cmdAt (op : Nat) (r : CmdRef) (data : Bytes) : Cmd :=
  { ref := r, opcode := op, ver := 2, fua := false, embed := false, ordered := false, dlen := data.length, obj := 0, p1 := 0, p2 := 0, p3 := [], data := data
    phase := .admitted, seq := 0, sqHead := 1, adm := 1 }
/-- The command on which a test acts, and its partition's state with it in hand. -/
def r0 : CmdRef := rAt 0 1 7
def hand (s : State) (c : Cmd) : State := { s with host := { s.host with cmds := [c], admissions := 1 } }

/-- A context descriptor of one core and one instruction, with a number of banks (10 Table 10.1). -/
def cxData (banks : Nat) : Bytes := leBytes 4 0 ++ leBytes 4 1 ++ leBytes 4 (banks * 256) ++ zeros 52 ++ [1] ++ zeros 255
def cRun (banks : Nat) : Cmd := cmdAt 0x70 r0 (cxData banks)
def sCx (banks : Nat) : State := { hand up (cRun banks) with clus := [(0, { wd := 0xFFFF })] }
def cPost : Cmd := { cmdAt 0x71 r0 [] with obj := 0, p1 := 1 + 31 * 65536, p2 := 65535 }
def sPost (jobs : List (Nat × Ctx)) : State := { hand up cPost with sched := { ctxs := jobs } }
def cxWait : Ctx := { kind := .job, part := 0, cores := [0, 1], waitSince := some 100, params := [1, 2], progLen := 1, prog := [(0, 7)] }
def sWait : State := { up with sched := { ctxs := [(1023, cxWait)] } }
theorem witness_JobContexts :
    (starts (sCx 0) r0 0x70 (cRun 0) ∧ (running (sCx 0) r0).cxRunCheck (cRun 0) = none ∧
      ((running (sCx 0) r0).newCtx (cxOf (cRun 0) up.sys.now)).map (fun e => e.1.bankGrantsOk e.2 (cxOf (cRun 0) up.sys.now)) = some true) ∧
    (starts (sCx 1) r0 0x70 (cRun 1) ∧ (running (sCx 1) r0).cxRunCheck (cRun 1) = none ∧ ((running (sCx 1) r0).newCtx (cxOf (cRun 1) up.sys.now)).isNone = true) ∧
    (starts (sPost []) r0 0x71 cPost ∧ (sPost []).jobTagged 0 0 = none) ∧
    (starts (sPost [(3, cxWait)]) r0 0x71 cPost ∧ (sPost [(3, cxWait)]).jobTagged 0 0 = some (3, cxWait) ∧ (sPost [(3, cxWait)]).ctx? 3 = some cxWait ∧
      cxWait.cores.contains (cPost.p1 % 1024) = true ∧ cxWait.started = false ∧ cxWait.images = []) ∧
    (sWait.coresLive = true ∧ sWait.ctx? 1023 = some cxWait ∧ cxWait.waits = some 100 ∧ cxWait.cores.all (sWait.coreFree 1023) = true ∧
      sWait.goesFirst 1023 cxWait 100 = true ∧ cxWait.heldFault = none ∧ cxWait.posts = []) := by
  unfold starts; decide +kernel

def cxBlocked : Ctx := { cxJob with blockedSince := some 1000 }
def sBlocked : State := { owned 0 with sched := { ctxs := [(5, cxBlocked), (6, cxWait)] } }
def cCl (k : Nat) : Cmd := { cmdAt 0x72 r0 [] with obj := k }
theorem witness_SchedulerActs :
    (sBlocked.coresLive = true ∧ sBlocked.residents 0 = [(5, cxBlocked)] ∧ 1000 + sBlocked.sched.block.toNat ≤ sBlocked.sys.now ∧
      oldest ((sBlocked.sched.ctxs.filter fun q => q.2.part == 0).filterMap fun q => q.2.waits.map fun t => (q.1, t, q.2)) = some (6, 100, cxWait) ∧
      sBlocked.clash cxBlocked.cores cxWait.cores = true ∧ cxBlocked.todo = []) ∧
    (sBlocked.ctx? 6 = some cxWait ∧ 100 + sBlocked.sliceTime < sBlocked.sys.now ∧
      (sBlocked.residents 0).filter (fun q => sBlocked.clash q.2.cores cxWait.cores && q.2.todo == [] &&
        decide (q.2.residentSince + sBlocked.sliceTime ≤ sBlocked.sys.now)) = [(5, cxBlocked)]) ∧
    cxBlocked.kind = .job ∧
    (up.alive 6 = true ∧ (hand up { cmdAt 8 r0 [] with phase := .wantData, since := 3999999 }).stalled 0 = true ∧ up.sched.stall.getLsbD 0 = false) ∧
    ((owned 0).sameHost 0).filter (fun m => ((owned 0).core m).bound) = [0] ∧
    (starts (hand up (cCl 79)) r0 0x72 (cCl 79) ∧ (hand up (cCl 79)).cmd? r0 = some (cCl 79) ∧ (running (hand up (cCl 79)) r0).onCluster 79 = []) ∧
    ((hand up { cCl 79 with phase := .running }).serves 0x72 = true ∧ (hand up { cCl 79 with phase := .running }).onCluster 79 = []) ∧
    (let c := { cRun 0 with phase := .running }
     let s : State := { hand up c with sched := { ctxs := [(5, { cxJob with cmd := some r0 })] } }
     s.cmd? r0 = some c ∧ s.serves 0x70 = true ∧ s.jobOf r0 = some (5, { cxJob with cmd := some r0 }) ∧ cxJob.place = .resident ∧ cxJob.cores ≠ [] ∧
       s.unitsOf c ≠ [] ∧ (hand up c).unitsOf c = [] ∧ s.frz.evtEn = false) := by
  unfold starts; decide +kernel

/-! ### The host link -/

/-- The descriptor of a queue pair of sixteen slots and entries, with 16 answer blocks (11 Table 11.4). -/
def qpBytes (q : Nat) : Bytes :=
  leBytes 1 q ++ [2] ++ zeros 6 ++ leBytes 8 0x10000 ++ leBytes 8 0x1000000 ++ leBytes 8 0x20000 ++ leBytes 4 16 ++ leBytes 4 64 ++ leBytes 8 0x100000 ++ zeros 16
def k0 : Qp := { desc := qpDesc (qpBytes 1) }
def img : Image := { slot := 0, version := 7, svn := 0, n := 2, old := 1, fmt := 1, oldest := 1, digest := [] }
/-- Queue pair 1 of logical device 0 as `k`, with these commands outstanding. -/
def link (k : Qp) (cmds : List Cmd) : State :=
  { up with host := { up.host with qps := [(1, k)], cmds := cmds, admissions := 1 }, fw := { run := some img } }
/-- A packet with opcode, tag and other words, and a ring that holds it. -/
def pkt (op tag w1 dlen : Nat) : Bytes := leBytes 2 op ++ leBytes 2 tag ++ leBytes 4 w1 ++ leBytes 4 dlen ++ zeros 52
def ring (b : Bytes) (cmds : List Cmd) : State :=
  let s := link { k0 with sqTail := 1 } cmds
  { s with host := { s.host with share := wrBytes [] 0x10000 b } }
def rung : Qp := { k0 with sqTail := 1 }
theorem witness_PacketsAreChecked :
    (packet (ring (pkt 8 5 1 0) []) 0 1 rung (pkt 8 5 1 0) ∧ (cmdIn 0 1 rung (pkt 8 5 1 0)).opcode ≠ 0x0F ∧ (ring (pkt 8 5 1 0) []).cmd? (rAt 0 1 5) = none ∧
      (cmdIn 0 1 rung (pkt 8 5 1 0)).ref = rAt 0 1 5) ∧
    (packet (ring (pkt 0x11 5 1 193) []) 0 1 rung (pkt 0x11 5 1 193) ∧ 192 < (cmdIn 0 1 rung (pkt 0x11 5 1 193)).dlen) ∧
    (packet (ring (pkt 0xFF 5 1 0) []) 0 1 rung (pkt 0xFF 5 1 0) ∧ knownOp (cmdIn 0 1 rung (pkt 0xFF 5 1 0)).ver 0xFF = false) ∧
    (packet (ring (pkt 0x108 5 1 0) []) 0 1 rung (pkt 0x108 5 1 0) ∧ knownOp (cmdIn 0 1 rung (pkt 0x108 5 1 0)).ver 8 = true ∧ qp0Op 8 = false ∧
      fld (pkt 0x108 5 1 0) 4 4 % 64 = 1 ∧ fld (pkt 0x108 5 1 0) 0 4 / 2 ^ 8 % 2 ^ 8 ≠ 0) ∧
    (packet (ring (pkt 8 7 1 0) [cmdAt 8 r0 []]) 0 1 rung (pkt 8 7 1 0) ∧ (ring (pkt 8 7 1 0) [cmdAt 8 r0 []]).cmd? r0 = some (cmdAt 8 r0 []) ∧ rung.dups = [] ∧
      rung.lost = [] ∧ 0 < rung.room) := by
  unfold packet; refine ⟨?_, ?_, ?_, ?_, ?_⟩ <;> decide +kernel

def cSlot : Cmd := { cmdAt 0x11 r0 [] with dlen := 0x400000, phase := .wantSlot, adm := 0 }
def cTok : Cmd := { cSlot with phase := .wantData, token := some 0xFFFF, slot := some (0, 64) }
def cIn (op : Nat) : Cmd := { cmdAt op r0 [] with phase := .wantBlocks, adm := 0 }
/-- A DATA_DONE packet of tag 7 with a token (11 R457). -/
def pktDone (tok : Nat) : Bytes := leBytes 4 0x7000F ++ leBytes 4 1 ++ zeros 8 ++ leBytes 4 tok ++ zeros 44
def sDone (tok : Nat) : State := ring (pktDone tok) [cTok]
theorem witness_TransfersAndAdmission :
    (outstanding (link k0 [cSlot]) r0 cSlot k0 ∧ (link k0 [cSlot]).alive 6 = true ∧ (link k0 [cSlot]).asleep = false ∧ 0 < k0.room ∧
      fitFrom ((link k0 [cSlot]).stagingUsed 0 1) k0.desc.stgGran (cdiv cSlot.dlen 65536) = some 0) ∧
    (outstanding (sDone 0xFFFF) r0 cTok rung ∧ packet (sDone 0xFFFF) 0 1 rung (pktDone 0xFFFF) ∧ fld (pktDone 0xFFFF) 0 4 = 0x0F + 7 * 2 ^ 16 ∧
      fld (pktDone 0xFFFF) 4 4 = 1 ∧ fld (pktDone 0xFFFF) 8 8 = 0 ∧ fld (pktDone 0xFFFF) 0x10 4 = 0xFFFF ∧ cTok.token = some 0xFFFF ∧
      outstanding (sDone 0) r0 cTok rung ∧ packet (sDone 0) 0 1 rung (pktDone 0) ∧ cTok.token ≠ some 0 ∧
      outstanding (link k0 [cTok]) r0 cTok k0 ∧ k0.sqHead = k0.sqTail) ∧
    (outstanding (link k0 [cIn 0x0A]) r0 (cIn 0x0A) k0 ∧ (link k0 [cIn 0x0A]).admitCheck (cIn 0x0A) = none ∧
      (link k0 [cIn 0x0A]).bodyMax (cIn 0x0A) = none) ∧
    (outstanding (link k0 [cIn 0x08]) r0 (cIn 0x08) k0 ∧ (link k0 [cIn 0x08]).admitCheck (cIn 0x08) = none ∧ (link k0 [cIn 0x08]).bodyMax (cIn 0x08) = some 64 ∧
      fitFrom ((link k0 [cIn 0x08]).answerUsed 0 1 k0) k0.desc.ansBlocks (cdiv (64 + 64) 4096) = some 0 ∧ cdiv (64 + 64) 4096 ≤ k0.desc.ansBlocks) ∧
    (outstanding (link k0 [cIn 0x1B]) r0 (cIn 0x1B) k0 ∧ (link k0 [cIn 0x1B]).admitCheck (cIn 0x1B) = none ∧
      (link k0 [cIn 0x1B]).bodyMax (cIn 0x1B) = some 1574464 ∧ k0.desc.ansBlocks < cdiv (1574464 + 64) 4096) := by
  unfold outstanding packet; refine ⟨?_, ?_, ?_, ?_, ?_⟩ <;> decide +kernel

def cWorked : Cmd := { cmdAt 8 r0 [] with phase := .worked, body := some [1, 2, 3], res := some (15, 1) }
def cDone : Cmd := { cmdAt 8 r0 [] with phase := .done, res := some (0, 1), ansRec := some (0x20000, 67, 9) }
def kFull : Qp := { k0 with cqUsed := 15, cqWr := 15 }
theorem witness_AnswersAndCompletions :
    (outstanding (link k0 [cWorked]) r0 cWorked k0 ∧ cWorked.silent = false ∧ (link k0 [cWorked]).sec.clears = [] ∧
      ∀ l, (link k0 [cWorked]).copiesClean l = true) ∧
    (outstanding (link k0 [cDone]) r0 cDone k0 ∧ 0 < k0.room ∧ cDone.opcode ≠ 0x54) ∧ (outstanding (link kFull [cDone]) r0 cDone kFull ∧ kFull.room = 0) ∧
    (outstanding (link { k0 with cqWr := 15 } [cDone]) r0 cDone { k0 with cqWr := 15 } ∧ 15 + 1 = k0.desc.cqSize) := by
  unfold outstanding; refine ⟨⟨?_, ?_, ?_, fun _ => rfl⟩, ?_⟩ <;> decide +kernel

/-- The entry's phase bit is 1 in the first pass over the ring, and its status and tag stand in their places (11 Table 11.9). -/
theorem test_entry :
    fld ((lget (after (exec (.completionEntryWrite r0) (link k0 [{ cDone with status := 2 }]))).host.hostMem 0x1000000).getD []) 60 4 = 2 ^ 31 ∧
    fld ((lget (after (exec (.completionEntryWrite r0) (link k0 [{ cDone with status := 2 }]))).host.hostMem 0x1000000).getD []) 4 2 = 2 ∧
    fld ((lget (after (exec (.completionEntryWrite r0) (link k0 [{ cDone with status := 2 }]))).host.hostMem 0x1000000).getD []) 0 2 = 7 := by decide +kernel

def kPub : Qp := { k0 with published := [(0, 1)], cqUsed := 2, cqWr := 2 }
theorem witness_Doorbells :
    (link kPub []).ldUp 0 = true ∧ (link kPub []).qp? 0 1 = some kPub ∧ (link kPub []).sched.stall.getLsbD 0 = false ∧
    ((15 : BitVec 16).toNat < kPub.desc.sqSize ∧ (link kPub []).host.tailHeld = false ∧ (link kPub []).asleep = false) ∧ kPub.desc.sqSize ≤ (16 : BitVec 16).toNat ∧
    ((2 : BitVec 16).toNat < kPub.desc.cqSize ∧ ((2 : BitVec 16).toNat + kPub.desc.cqSize - kPub.cqHead) % kPub.desc.cqSize ≤ kPub.cqUsed ∧ kPub.lost = [] ∧ kPub.dups = []) ∧
    kPub.desc.cqSize ≤ (16 : BitVec 16).toNat ∧ ((0 : BitVec 32).toNat, (1 : BitVec 32).toNat) ∈ kPub.published ∧
    ((0 : BitVec 32).toNat, (2 : BitVec 32).toNat) ∉ kPub.published := by decide +kernel

def sLost : State := { up with host := { up.host with lost := [0x10000 / 64] } }
/-- The first copy of line 0x400 has all eight check bytes wrong. -/
def bWin : BadLine := { data := zeros 64, chk := List.replicate 8 0xFF, noPromise := false }
def sCopy : State := { up with dram := { up.dram with bad := [(winPlace 0x400 false, bWin)] } }
theorem witness_WindowShare :
    (up.ldUp 0 = true ∧ up.ldUp 15 = true ∧ up.asleep = false ∧ up.ecc.flipArmed = false ∧ hostArea ≤ 0x10000 ∧ 0x10000 + (zeros 64).length ≤ up.shareSize 0 ∧ (zeros 64).length = 64 ∧
      up.answerAt 0 0x10000 = none ∧ up.sched.stall.getLsbD 0 = false) ∧ 0xFFFFFFFC0 + 64 = up.shareSize 0 ∧
    (up.copiesClean (shareKey 0 0x10000 / 64) = true ∧ up.host.lost.contains (shareKey 0 0x10000 / 64) = false ∧ up.host.undef = []) ∧
    (shareKey 0 0x10000 / 64 = 0x400 ∧ lget sCopy.dram.bad (winPlace 0x400 false) = some bWin ∧ bWin.noPromise = false ∧
      rsDecode ((bWin.data ++ bWin.chk).map (·.toNat)) = none ∧ lget sCopy.dram.bad (winPlace 0x400 true) = none) ∧
    (sLost.ldUp 0 = true ∧ sLost.host.lost.contains (shareKey 0 0x10000 / 64) = true) ∧ (up.shareSize 15 < 0 + 1 ∧ up.shareSize 0 < 0xFFFFFFFFF + 2) ∧
    up.qp? 15 63 = none := by
  refine ⟨?_, ?_, ?_, ⟨?_, ?_, ?_, ?_, ?_⟩, ?_, ?_, ?_⟩
  case refine_5 => simp [sCopy, lget]
  case refine_8 => simpa [sCopy, lget] using fun h => winPlace_ne 0x400 (by rw [h])
  all_goals decide +kernel

def cQp (q : Nat) : Cmd := cmdAt 0x01 (rAt 0 0 7) (qpBytes q)
def sQp (q : Nat) (qps : List (Nat × Qp)) : State :=
  { hand up (cQp q) with host := { (hand up (cQp q)).host with qps := qps }, fw := { run := some img } }
def sQ0 (d : Bytes) : State :=
  { up with host := { up.host with qp0Desc := (List.range 16).foldl (fun m i => mset 0 m i (w32 (fld d (4 * i) 4))) [] }, fw := { run := some img } }
theorem witness_QueuePairs :
    (starts (sQp 63 []) (rAt 0 0 7) 0x01 (cQp 63) ∧ (cQp 63).dlen = 64 ∧ fld (cQp 63).data 0 4 % 64 = 63 ∧ (sQp 63 []).qp? 0 63 = none ∧
      (sQp 63 []).speaks (qpDesc (qpBytes 63)).ver = true ∧ (sQp 63 []).descBad 0 63 (qpBytes 63) = false) ∧
    (starts (sQp 1 [(1, k0)]) (rAt 0 0 7) 0x01 (cQp 1) ∧ ((sQp 1 [(1, k0)]).qp? 0 1).isSome = true) ∧
    (starts (sQp 2 [(1, k0)]) (rAt 0 0 7) 0x01 (cQp 2) ∧ (sQp 2 [(1, k0)]).qp? 0 2 = none ∧ (sQp 2 [(1, k0)]).descBad 0 2 (qpBytes 2) = true) ∧
    (let c := { cmdAt 0x02 r0 [] with obj := 1, phase := .running, ref := rAt 0 0 7 }
     let s : State := { link k0 [c] with host := { (link k0 [c]).host with qps := [(0, k0), (1, k0)] } }
     outstanding s (rAt 0 0 7) c k0 ∧ s.serves 0x02 = true ∧ s.cmdsOf 0 c.obj = []) ∧
    ((sQ0 (qpBytes 0)).ldUp 0 = true ∧ (1 : BitVec 32).getLsbD 0 = true ∧ (sQ0 (qpBytes 0)).qp? 0 0 = none ∧
      (sQ0 (qpBytes 0)).speaks (qpDesc ((sQ0 (qpBytes 0)).qp0Bytes 0)).ver = true ∧ (sQ0 (qpBytes 0)).descBad 0 0 ((sQ0 (qpBytes 0)).qp0Bytes 0) = false) ∧
    ((sQ0 (qpBytes 1)).qp? 0 0 = none ∧ (sQ0 (qpBytes 1)).descBad 0 0 ((sQ0 (qpBytes 1)).qp0Bytes 0) = true) ∧
    (let s : State := { up with host := { up.host with qps := [(0, k0)] } }
     s.ldUp 0 = true ∧ (0 : BitVec 32).getLsbD 0 = false ∧ s.qp? 0 0 = some k0 ∧ s.cmdsOf 0 0 = [] ∧ ((s.qpsOf 0).filter fun e => e.2.deleting) = []) := by
  unfold starts outstanding; decide +kernel

def cPwr (k : Nat) : Cmd := { cmdAt 0x03 r0 [] with obj := k }
theorem witness_PowerStatesAndAborts :
    (starts (hand up (cPwr 2)) r0 0x03 (cPwr 2) ∧ (hand up (cPwr 2)).host.entering = none) ∧
    (let s : State := { hand up (cPwr 4) with host := { (hand up (cPwr 4)).host with entering := some (4, rAt 0 1 9) } }
     starts s r0 0x03 (cPwr 4) ∧ s.host.entering.isSome = true) ∧
    (let s : State := { up with host := { up.host with cmds := [{ cPwr 4 with phase := .running }], qps := [(1, k0)], entering := some (4, r0) } }
     s.alive 6 = true ∧ (∀ e ∈ s.host.qps, e.2.sqHead = e.2.sqTail ∧ e.2.heldTail = none) ∧ s.host.entering = some (4, r0) ∧ s.gr.slots = [] ∧
     s.gr.jseq ≤ s.gr.jdur) ∧
    starts (hand up (cmdAt 8 r0 [])) r0 0x08 (cmdAt 8 r0 []) ∧
    (let c := { cmdAt 9 r0 [] with obj := 63, p1 := 65535 }
     starts (hand up c) r0 0x09 c ∧ (hand up c).cmd? { part := 0, qp := c.obj, tag := c.p1 } = none) ∧
    (let c := { cmdAt 9 r0 [] with obj := 1, p1 := 8 }
     let d := { cIn 8 with ref := rAt 0 1 8 }
     let s : State := { hand up c with host := { up.host with cmds := [c, d] } }
     starts s r0 0x09 c ∧ s.cmd? { part := 0, qp := c.obj, tag := c.p1 } = some d ∧ d.silent = false ∧ (c.obj, c.p1) ≠ (r0.qp, r0.tag)) := by
  unfold starts; decide +kernel

/-! ### Resets, the fabric manager, registers, the test port -/

def cOther : Cmd := cmdAt 8 (rAt 1 0 7) []
def sIde : State := { up with sec := { memIde := { key0 := some [1], active := some false }, ioIde := { key1 := some [1], active := some true } } }
theorem witness_Resets :
    (let s : State := { up with host := { up.host with cmds := [cIn 8, cOther], qps := [(1, k0), (64, k0)] } }
     s.ldUp 0 = true ∧ s.sec.clears = [] ∧ ∀ c ∈ s.host.cmds, c.ref.part = 0 → c.silent = false ∧
       (c.phase = .wantSlot ∨ c.phase = .wantData ∨ c.phase = .wantBlocks ∨ c.phase = .admitted)) ∧
    (up.alive 6 = true ∧ up.host.cmds = [] ∧ up.sec.clears = []) ∧ (up.sys.perstN = true ∧ up.sys.linkUp = true ∧ up.sys.switched = true) ∧
    (sIde.ldUp 0 = true ∧ (sIde.ide (0 == 1)).active.isSome = true ∧ (sIde.ide (1 == 1)).active.isSome = true) := by decide +kernel

def map0 : List (Option Nat) := List.replicate 79 (some 0) ++ [some 15]
theorem witness_FabricManager :
    (up.fmUp = true ∧ up.dram.dead = [] ∧ map0.length = 80 ∧ (∀ x ∈ map0, x.getD 0 < 16) ∧
      (List.range 80).all (fun k => ! up.cluHeld k) = true) ∧
    (let s : State := { up with sched := { ctxs := [(1, { cxJob with cores := [639] })] } }
     s.cluHeld 79 = true ∧ s.ownerClu 79 ≠ none ∧ s.ownerClu 79 ≠ map0.getD 79 none) ∧
    (let sh := 0x1000000000 :: List.replicate 15 0
     sh.length = 16 ∧ (∀ x ∈ sh, x % 0x10000000 = 0) ∧ sh.sum ≤ up.host.winSize * 0x1000000000 ∧ ((List.range 16).all fun p => (up.qpsOf p).isEmpty) = true) ∧
    ((∃ x ∈ 1 :: List.replicate 15 0, x % 0x10000000 ≠ 0) ∧ up.host.winSize * 0x1000000000 < (0x1010000000 :: List.replicate 15 0).sum) := by decide +kernel

def sMaster : State := { up with svy := { run := true } }
theorem witness_RegisterAndPageAccesses :
    (reaches sMaster .surveyor (pageNo .sch) .sch ∧ isHi .sch 0x100 = false ∧ isHi .sch 0x104 = false ∧ 0xFFC % 4 = 0 ∧ isHi .sch 0xFFC = false ∧ isHi .sch 0x1000 = false) ∧
    (reaches sMaster .surveyor (pageNo .upd) .upd ∧ isHi .upd (0x108 + 4) = true ∧ isHi .upd (0x108 + 8) = false ∧ isHi .upd 0x108 = false) ∧
    (sMaster.acts .surveyor = true ∧ sMaster.pageFor .surveyor 0 = none) ∧ mayWrite .surveyor .upd = true ∧
    ((2 : BitVec 32).getLsbD 31 = false ∧ (2 : BitVec 32).toNat / 2 % 4 = 1 ∧ modeHa .gzt = true ∧ reaches sMaster .surveyor (pageNo .gzt) .gzt) ∧
    (2 ≤ (4 : BitVec 32).toNat / 2 % 4 ∧ modeHa .upd = false) ∧ (sMaster.unitOut .thm = false ∧ reaches sMaster .surveyor (pageNo .thm) .thm) := by
  unfold reaches; decide +kernel

def frozen (data : Bool) : State := { up with frz := { frozen := true, data := data }, port := { sel := 0 } }
theorem witness_TestPortInstructions :
    up.sys.powered = true ∧ up.frz.frozen = false ∧ ([true, false, true, false, true, false] : List Bool).length = 6 ∧
    ((frozen true).sys.powered = true ∧ (frozen true).frz.frozen = true) ∧ (frozen true).pageFor .surveyor ((0 : BitVec 32).toNat / 4096) = none ∧
    ((frozen true).pageFor .surveyor ((0x1000 : BitVec 32).toNat / 4096) = some .sleG ∧ isHi .sleG 0 = false ∧ isHi .sleG 4 = false) ∧
    (frozen false).frz.data = false ∧ ((frozen true).frz.data = true ∧ (frozen true).port.core? = some 0 ∧ (0x1FFFFF : BitVec 64).toNat + (1 : BitVec 32).toNat ≤ spmSize 0) := by
  decide +kernel

/-- MODE holds a mode in a state that no reset gives: the invariant's witness beside the reset state. -/
theorem witness_StepsKeepModesLegal : modesLegal { State.reset with stored := { modes := [(2, 1)] } } ∧ step State.reset = .next State.reset := by
  refine ⟨⟨fun n => ?_, ?_⟩, rfl⟩
  · show ((mget ({} : Page) [] n).mode).toNat < 2
    simp [mget]
  · simp

/-! ### Graticule -/

/-- A module whose buffer and journal make a commit durable at once, with namespaces 1 and 2 of partition 0. -/
def gBase : State := { up with host := { up.host with wt := false, energy := 60 }, gr := { up.gr with ns := [(1, { cap := 8 }), (2, { ro := true, cap := 4 })] } }
/-- The same with these parts of Graticule. -/
def gWith (f : Grat → Grat) : State := { gBase with gr := f gBase.gr }
def nsBytes (n cap : Nat) : Bytes := leBytes 2 n ++ leBytes 2 1 ++ zeros 4 ++ leBytes 8 cap ++ zeros 48
/-- A command of namespace or handle `obj` with P1 and P2. -/
def cObj (op obj p1 p2 : Nat) (data : Bytes) : Cmd := { cmdAt op r0 data with obj := obj, p1 := p1, p2 := p2, p3 := zeros 32 }
/-- Unit 3 of namespace 1 stands in slot 9, unit 4 on a flash page, and unit 5 is unreadable. -/
def gData : State := gWith fun g => { g with
  map := [(unitKey 1 3, { buf := true, addr := 9 }), (unitKey 1 4, { buf := false, addr := pageKey (blkKey 0 200) 0 }), (unitKey 1 5, { buf := false, addr := 7 })]
  slots := [(9, { ns := 1, unit := 3, data := [(0, 5), (16383, 6)] })]
  pages := [(pageKey (blkKey 0 200) 0, { ns := 1, unit := 4, data := [(1, 7)] })]
  blks := [(blkKey 0 200, { phase := .used })]
  unread := [unitKey 1 5] }

/-- The last unit of the user capacity, one more, and a namespace with a backed table in it. -/
theorem witness_Namespaces :
    (let c := cObj 0x14 0 0 0 (nsBytes 3 (userUnits - 12))
     let s := hand gBase c
     settled s ∧ starts s r0 0x14 c ∧ (s.earlier c fun d => d.opcode == 0x15 && d.obj == fld c.data 0 2) = false ∧ s.ns? (nsKey 0 (fld c.data 0 2)) = none ∧
     s.gr.reserved + fld c.data 8 8 ≤ userUnits) ∧
    (let c := cObj 0x14 0 0 0 (nsBytes 3 (userUnits - 11))
     let s := hand gBase c
     starts s r0 0x14 c ∧ s.ns? (nsKey 0 (fld c.data 0 2)) = none ∧ userUnits < s.gr.reserved + fld c.data 8 8) ∧
    (let c := cObj 0x15 1 0 0 []
     let s := hand gData c
     settled s ∧ starts s r0 0x15 c ∧ (s.earlier c fun d => nsTarget d == some c.obj) = false ∧ (s.ns? (nsKey 0 c.obj)).isSome = true ∧ s.nsInUse 0 c.obj = false ∧
     ({ s with mdl := { s.mdl with st := 1, part := 0, ns := 1 } } : State).nsInUse 0 c.obj = true) ∧
    (let c := cObj 0x16 2 1 0 []
     let s := hand gBase c
     starts s r0 0x16 c ∧ (s.ns? (nsKey 0 c.obj)).isSome = true ∧ c.p1 < 2) ∧
    starts (hand gBase (cObj 0x17 0 0 0 [])) r0 0x17 (cObj 0x17 0 0 0 []) ∧ starts (hand gBase (cObj 0x18 0 0 0 [])) r0 0x18 (cObj 0x18 0 0 0 []) := by
  unfold settled starts; decide +kernel

/-- A range up to the end of a unit; a unit in the buffer, an unmapped one, one on flash, an unreadable one; a slot to wait for and none. -/
theorem witness_ReadsAndWrites :
    (let c := cObj 0x10 1 1 (3 * 16384 + 16383) []
     let s := hand gData c
     settled s ∧ starts s r0 0x10 c ∧ 0 < c.p1 ∧ c.p2 % 16384 + c.p1 ≤ 16384 ∧ holds s 1 3 [(0, 5), (16383, 6)] ∧ holds s 1 7 [] ∧
     s.gr.unread.contains (unitKey 1 5) = true) ∧
    (let c := cObj 0x10 1 16384 (4 * 16384) []
     let s := hand gData c
     starts s r0 0x10 c ∧ c.p2 % 16384 + c.p1 ≤ 16384 ∧ s.gr.unread.contains (unitKey 1 4) = false ∧
     s.entry? 1 4 = some { buf := false, addr := pageKey (blkKey 0 200) 0 } ∧ (lget s.gr.pages (pageKey (blkKey 0 200) 0)).map (·.key) = some (s.mediaGen 1) ∧ s.frz.evtEn = false) := by
  refine ⟨?_, ?_⟩
  · refine ⟨?_, ?_, ?_, ?_, ⟨?_, Or.inr ⟨9, { ns := 1, unit := 3, data := [(0, 5), (16383, 6)] }, ?_⟩⟩, ⟨?_, Or.inl ?_⟩, ?_⟩ <;>
      first | (unfold settled; decide +kernel) | (unfold starts; decide +kernel) | decide +kernel
  · unfold starts; decide +kernel

theorem witness_ReadsAndWrites_writes :
    (let c := cObj 0x11 1 2 (3 * 16384 + 16382) [8, 9]
     let s := hand gData c
     starts s r0 0x11 c ∧ c.embed = false ∧ c.fua = false ∧ s.wrReady c = true ∧ s.gr.ronly = false ∧ 0 < c.p1 ∧ c.p2 % 16384 + c.p1 ≤ 16384 ∧
     c.data.length = c.p1 ∧ ((s.ns? (nsKey 0 c.obj)).map (·.ro)).getD false = false) ∧
    (let c := cObj 0x11 2 2 0 [8, 9]
     let s := hand gData c
     starts s r0 0x11 c ∧ s.wrReady c = true ∧ ((s.ns? (nsKey 0 c.obj)).map (·.ro)).getD false = true) ∧
    (let c := cObj 0x12 2 0 0 []
     let s := hand gData c
     starts s r0 0x12 c ∧ ∀ e ∈ s.gr.slots, e.2.ns ≠ nsKey 0 c.obj ∨ e.2.pend.isSome = true) ∧
    (let c := cObj 0x12 1 0 0 []
     let s := hand gData c
     starts s r0 0x12 c ∧ s.gr.slots = [(9, { ns := 1, unit := 3, data := [(0, 5), (16383, 6)] })] ∧ 1 = nsKey 0 c.obj) ∧
    (let c := cObj 0x13 1 16384 (3 * 16384) []
     let s := hand gData c
     starts s r0 0x13 c ∧ s.wrReady c = true ∧ s.gr.ronly = false ∧ ((s.ns? (nsKey 0 c.obj)).map (·.ro)).getD false = false ∧ c.p2 % 16384 = 0 ∧
     c.p1 % 16384 = 0 ∧ 0 < c.p1) := by unfold starts; decide +kernel

def gPages (l : List (Blk × BitVec 2)) (s : State) : State := { s with pages := l.map fun e => (pageNo e.1, { mode := e.2 }) }
def sbOne (ph : SbPhase) : SuperBlk := { kind := 0, group := 0, blocks := [some (blkKey 0 200), some (blkKey 16 200)], phase := ph }
theorem witness_PlacementHandles :
    (let c := cObj 0x19 1 0 0 []
     let s := hand (gPages [(.grt 0, 1)] (gWith fun g => { g with handles := (List.range 7).map fun i => (i + 1, 1) })) c
     starts s r0 0x19 c ∧ s.hostMode (.grt 0) = true ∧ s.gr.handles.length < 64 ∧ (s.gr.handles.filter fun h => h.2 / 2 ^ 20 == 0).length < 8 ∧
     (∀ m < 8, 1 ≤ m → s.gr.handles.any (·.1 == m) = true) ∧ s.gr.handles.any (·.1 == 8) = false) ∧
    (starts (hand gBase (cObj 0x19 1 0 0 [])) r0 0x19 (cObj 0x19 1 0 0 []) ∧ (hand gBase (cObj 0x19 1 0 0 [])).hostMode (.grt 0) = false) ∧
    (let c := cObj 0x1A 255 0 0 []
     let s := hand (gPages [(.grt 0, 1)] (gWith fun g => { g with handles := [(255, 1)] })) c
     starts s r0 0x1A c ∧ s.hostMode (.grt 0) = true ∧ (s.handle? 0 c.obj).isSome = true) ∧
    (let c := cObj 0x1B 255 0 0 []
     let s := hand (gWith fun g => { g with handles := [(255, 1)] }) c
     starts s r0 0x1B c ∧ s.handle? 0 c.obj = some 1) ∧
    (let c := cObj 0x1C 4 0 0 []
     let s := hand (gPages [(.grt 1, 1)] (gWith fun g => { g with sbs := [(4, sbOne .closed)] })) c
     starts s r0 0x1C c ∧ settled s ∧ lget s.gr.sbs c.obj = some (sbOne .closed) ∧ s.sbValid (sbOne .closed) = [] ∧ s.hostMode (.grt 1) = true) := by
  unfold settled starts; decide +kernel

theorem pair_of {α β : Type} {p : α × β} {b : β} (h : p.2 = b) : ∃ a, p = (a, b) := ⟨p.1, by rw [← h]⟩

/-- A buffered unit and a superblock with room for it. -/
def gDestage : State := gWith fun g => { gData.gr with sbs := [(0, sbOne .filling)], ns := g.ns }
theorem witness_BufferAndJournal :
    (gDestage.media = true ∧ gDestage.entry? (nsKey 0 1) 3 = some { buf := true, addr := 9 } ∧
      lget gDestage.gr.slots 9 = some { ns := 1, unit := 3, data := [(0, 5), (16383, 6)] } ∧ gDestage.gr.awaits = [] ∧
      ∃ a t', gDestage.programPage (nsKey 0 1) 3 [(0, 5), (16383, 6)] none 0 false 0 false = (t', some a)) ∧
    (gDestage.gr.ckpt = 0 ∧ (16383 + 1) % 16384 = 0) ∧ up.alive 1 = true := by
  refine ⟨⟨?_, ?_, ?_, ?_, pageKey (blkKey 16 200) 0, pair_of ?_⟩, ?_, ?_⟩ <;> decide +kernel

/-- A unit in a block of the SLC cache that is still open, and a buffer filled beyond SLC_HI = 0. -/
def gSlc : State := gWith fun _ => { gData.gr with
  map := gData.gr.map ++ [(unitKey 1 6, { buf := false, addr := pageKey (blkKey 0 10) 0 })]
  pages := gData.gr.pages ++ [(pageKey (blkKey 0 10) 0, { ns := 1, unit := 6, data := [] })]
  slots := gData.gr.slots ++ (List.range 5242).map fun n => (n + 10, { ns := 2, unit := n, data := [] })
  slcHi := 0, slcAt := some (blkKey 0 10, 624) }
theorem witness_BufferAndJournal_slc :
    (gSlc.media = true ∧ gSlc.entry? (nsKey 0 1) 6 = some { buf := false, addr := pageKey (blkKey 0 10) 0 } ∧
      slcBlk (pageKey (blkKey 0 10) 0 / 2500) = true) ∧
    (gSlc.entry? (nsKey 0 1) 3 = some { buf := true, addr := 9 } ∧ min 100 gSlc.gr.slcHi.toNat < gSlc.gr.fill) ∧
    (∃ a t', gSlc.programSlc (nsKey 0 1) 3 [(0, 5), (16383, 6)] none = (t', some a)) := by
  refine ⟨?_, ?_, pageKey (blkKey 0 10) 624, pair_of ?_⟩ <;> decide +kernel

/-- The last die and the last block of one; a block queued, erasing, read up to the limit and beyond it; free space and wear at their limits. -/
def gBlk (b : FBlk) : State := gWith fun g => { g with blks := [(blkKey 511 12499, b)] }
def gCrowd (l : List (Nat × SuperBlk)) : State := gWith fun g => { g with sbs := l }
/-- No block is in service, so free space is 0. -/
def gFull : State := gWith fun g => { g with deadChans := List.range 128, sbs := [(1, { sbOne .closed with closedAt := 1 }), (2, { sbOne .closed with closedAt := 2 })] }
/-- Garbage collection where a block of a closed superblock holds unit 4 of namespace 1, on channel 0. -/
def gGc : State := gWith fun _ => { gData.gr with deadChans := List.range 128, sbs := [(1, sbOne .closed)] }
def gWorn (n : Nat) : State := gWith fun g => { g with blks := [(blkKey 511 12499, { cycles := n })] }
theorem witness_FlashCareAndWear :
    (let s := gCrowd [(1, sbOne .closed), (2, sbOne .filling)]
     s.media = true ∧ lget s.gr.sbs 1 = some (sbOne .closed) ∧ lget s.gr.sbs 2 = some (sbOne .filling) ∧
     (sbOne .filling).blocks.getD 1 none = some (blkKey 16 200) ∧ (∀ e ∈ s.gr.pages, e.1 / 2500 ≠ blkKey 16 200) ∧
     2 ≤ (s.retireBlk (blkKey 16 200)).gr.sparePct ∧ s.gr.throttle = false ∧
     s.gr.deadDies.contains 511 = false ∧ 2 ≤ ({ s.gr with deadDies := s.gr.deadDies ++ [511] }).sparePct ∧ s.frz.evtEn = false) ∧
    (let s := gBlk { phase := .queued }
     s.media = true ∧ (s.fblk (blkKey 511 12499)).phase = .queued ∧ s.host.wt = false ∧ s.validIn (blkKey 511 12499) = [] ∧ s.fch.reqs = []) ∧
    (gData.validIn (blkKey 0 200)).isEmpty = false ∧ ((gBlk { phase := .erasing }).fblk (blkKey 511 12499)).phase = .erasing ∧
    max 1 gBase.gr.readLimit.toNat * 1000 < ((gBlk { reads := 200001 }).fblk (blkKey 511 12499)).reads ∧
    ((gBlk { reads := 200000 }).fblk (blkKey 511 12499)).reads ≤ max 1 gBase.gr.readLimit.toNat * 1000 ∧
    gBase.gr.gcStart ≤ gBase.freeSpace ∧
    (let s := gFull
     s.media = true ∧ s.freeSpace < s.gr.gcStart ∧ s.hostMode (.grt 0) = false ∧ leastSb s.gr.closedSbs (fun b => (s.sbValid b).length) = some 1 ∧ s.sbValid (sbOne .closed) = [] ∧ s.pagesRoom [] = true) ∧
    (gGc.media = true ∧ gGc.freeSpace < gGc.gr.gcStart ∧ gGc.hostMode (.grt 0) = false ∧ gGc.gcVictim.map (·.1) = some 1 ∧
      gGc.pagesRoom ((gGc.sbValid (sbOne .closed)).map (·.1)) = true) ∧
    (gBase.hostMode (.grt 1) = false ∧ max 1 gBase.gr.wlSpread.toNat < (gWorn 201).gr.spread ∧ 4 * (gWorn 150).gr.spread ≤ 3 * max 1 gBase.gr.wlSpread.toNat) ∧
    (up.sys.powered = true ∧ up.frz.frozen = false ∧ up.frz.evtEn = false) := by decide +kernel

/-! ### Filters and embedding writes -/

def flImg : FlImage := { insts := [(0, 1)], count := 1, consts := [1, 2] }
/-- FL_RUN of image 1 over one page of namespace 1, whose unit is `u`. -/
def flData (u : Nat) : Bytes := leBytes 2 1 ++ zeros 2 ++ leBytes 2 1 ++ zeros 2 ++ zeros 4 ++ leBytes 4 1 ++ zeros 48 ++ leBytes 8 u ++ leBytes 4 1 ++ zeros 4
def cFl (u : Nat) : Cmd := { cmdAt 0x22 r0 (flData u) with phase := .running }
def sFl (u : Nat) : State := { hand gData (cFl u) with fch := { images := [(flKey 0 1, flImg)], runs := [{ ref := r0 }] } }
theorem witness_FiltersAndEmbeds :
    (let c := cmdAt 0x20 r0 (leBytes 4 1 ++ leBytes 4 2 ++ zeros 56 ++ zeros 64 ++ [1, 2])
     let s : State := { hand gBase c with fch := { images := (List.range 63).map fun i => (flKey 0 (i + 1), flImg) } }
     starts s r0 0x20 c ∧ (s.fch.images.filter fun e => e.1 / 65536 == 0).length < 64 ∧ lget s.fch.images (flKey 0 64) = none ∧
     (∀ m < 64, 1 ≤ m → (lget s.fch.images (flKey 0 m)).isSome = true)) ∧
    (let c := cmdAt 0x20 r0 []
     let s : State := { hand gBase c with fch := { images := (List.range 64).map fun i => (flKey 0 (i + 1), flImg) } }
     starts s r0 0x20 c ∧ 64 ≤ (s.fch.images.filter fun e => e.1 / 65536 == 0).length) ∧
    (let c := cmdAt 0x21 r0 (leBytes 2 1)
     starts (hand gBase c) r0 0x21 c ∧ ((hand gBase c).earlier c fun d => d.opcode == 0x22 && flHandle d == flHandle c) = false) ∧
    starts (hand gBase { cFl 7 with phase := .admitted }) r0 0x22 { cFl 7 with phase := .admitted } ∧
    (let s := sFl 7
     s.cmd? r0 = some (cFl 7) ∧ s.fch.runs.find? (·.ref == r0) = some { ref := r0 } ∧ lget s.fch.images (flKey 0 (flHandle (cFl 7))) = some flImg ∧ s.media = true ∧
     s.coresLive = true ∧ 0 < flTotal (cFl 7).data 0 ∧ s.flWaits { ref := r0 } 0 = true ∧ s.fchFree 767 = true ∧ s.flServes (cFl 7).data { ref := r0 } 0 767 = true ∧
     (s.flPick 767).map (·.1.ref) = some r0 ∧ (s.flPick 767).map (·.1.ref) ≠ some (rAt 0 1 8) ∧
     flStreams (cFl 7).data = 1 ∧ flUnit (cFl 7).data 0 0 = 7 ∧ s.gr.unread.contains (unitKey (nsKey 0 1) 7) = false ∧ s.entry? (nsKey 0 1) 7 = none) ∧
    (let s := sFl 5
     s.fchFree 640 = true ∧ s.flServes (cFl 5).data { ref := r0 } 0 640 = true ∧ flPartial (cFl 5).data = false ∧
     s.gr.unread.contains (unitKey (nsKey 0 (fld (cFl 5).data 4 2)) (flUnit (cFl 5).data 0 0)) = true) ∧
    (let s := { sFl 7 with fch := { (sFl 7).fch with invs := [(767, { ref := r0, page := 0, room := 64, out := 0xC0000, steps := 0, ret := 12288 })] } }
     s.coresLive = true ∧ (lget s.fch.invs 767).map (·.ref) = some r0 ∧ (s.core 767).run ≠ .faulted ∧ (s.core 767).bound = false ∧ s.cmd? r0 = some (cFl 7) ∧
     s.frz.evtEn = false) := by unfold starts; decide +kernel

def emP3 : Bytes := leBytes 2 2 ++ zeros 6 ++ leBytes 6 77 ++ zeros 2 ++ [3] ++ zeros 15
def cEm : Cmd := { cObj 0x11 1 2 0 [8, 9] with embed := true, p3 := emP3, phase := .running }
/-- An index of two centroids whose list 1 holds one entry on one page in slot 0. -/
def ix1 : Index :=
  { nb := 8, cents := 2, search := [0], merge := 0, passQ := 0, table := 0, rrEn := false, metric := false, cacheMb := 1, spill := false, epoch := 4
    codes := [(1, 0, zeros 8), (1, 1, List.replicate 8 0xFF)], lists := [(1, [{ ents := [{ code := List.replicate 8 0xFF, id := 77, ep := 2 }], pages := [0] }])]
    nextUnit := 1, ctx := some 3 }
def gIx (x : Index) : State :=
  { gWith (fun g => { g with
      ns := g.ns ++ [(ixNs 0 2, { cap := 1 })], map := [(unitKey (ixNs 0 2) 0, { buf := true, addr := 0 })]
      slots := [(0, { ns := ixNs 0 2, unit := 0, data := [] }), (1, { ns := 1, unit := 0, data := [], pend := some r0 })] }) with
    gz := { ixs := [(ixKey 0 2, x)] }, sched := { ctxs := [(3, { kind := .index (ixKey 0 2), part := 0, cores := [0] })] } }
def entOne : MdEntry :=
  { no := 3, kind := 1, outBf := false, prog := 0, sheet := 0, clus := [], maxIn := 16, d := 64, maxSeq := 0, thresh := 0xFFFFFFFF, stepArea := 0, kvt := 0, stepTk := 0 }
def sEm : State :=
  { hand (gIx ix1) cEm with mdl := { st := 2, entries := [entOne], items := [{ ref := r0, idx := 0, part := 0, entry := 3, data := [8, 9], order := 0 }] } }
def emRec : InsRec := { id := emId cEm, spill := emSpill cEm, given := emGiven cEm, code := sEm.binarise entOne (encVals entOne (zeros 256)) }
theorem witness_FiltersAndEmbeds_embed :
    sEm.cmd? r0 = some cEm ∧ sEm.mdl.items.find? (·.ref == r0) = some { ref := r0, idx := 0, part := 0, entry := 3, data := [8, 9], order := 0 } ∧ cEm.fua = false ∧
    sEm.ix? 0 (emIndex cEm) = some ix1 ∧ sEm.mdEntry? 3 = some entOne ∧ sEm.media = true ∧ insRoom ix1 1 ≤ sEm.gr.freeSlots ∧ emReplace cEm = false ∧
    (ix1.placeRec 4 [] emRec).status ≠ 2 ∧ (ix1.placeRec 4 [] emRec).status ≠ 4 ∧ (ix1.placeRec 4 [] emRec).list.isSome = true ∧
    ((sEm.insertRecs 0 (emIndex cEm) ix1 4 [emRec]).map fun q =>
      (q.1.host.wt, q.1.gr.awaits == [], (q.1.cmd? r0).isSome, (q.1.gr.slots.filter fun e => e.2.pend == some r0).length)) = some (false, true, true, 1) := by
  decide +kernel

/-- One run of partition 15 has a page for core 640, and no other partition has one. -/
def sQm : State :=
  { hand gData { cFl 7 with ref := rAt 15 1 7 } with fch := { images := [(flKey 15 1, flImg)], runs := [{ ref := rAt 15 1 7 }] } }
theorem witness_FiltersAndEmbeds_quantum :
    sQm.media = true ∧ sQm.coresLive = true ∧ sQm.fchFree 640 = true ∧ sQm.gr.gcStart ≤ sQm.freeSpace ∧ sQm.flPick 640 = some ({ ref := rAt 15 1 7 }, 0) ∧
    sQm.flPending 640 = [15] ∧ refOk (rAt 15 1 7) = true ∧ (sQm.cmd? (rAt 15 1 7)).isSome = true ∧ (lget sQm.fch.images (flKey 15 1)).isSome = true ∧
    (gGc.coresLive = true ∧ gGc.fchFree 640 = true ∧ gGc.moduleRoom 640 1 = true ∧ (gGc.gcUnit 640).map (·.1) = some 1) := by decide +kernel

/-! ### The Gazetteer -/

/-- The descriptor of index 2: 64-bit codes, two centroids, cluster 79 (05 Table 5.5). -/
def gzDesc : Bytes := leBytes 4 2 ++ leBytes 4 0x101 ++ leBytes 16 (2 ^ 79) ++ leBytes 4 79 ++ zeros 36
def sCreate (ixs : List (Nat × Index)) : State := { hand gBase (cmdAt 0x30 r0 gzDesc) with gz := { ixs := ixs } }
theorem witness_IndexesAndEntries :
    (let c := cmdAt 0x30 r0 gzDesc
     let s := sCreate ((List.range 15).map fun i => (ixKey 0 (i + 3), ix1))
     settled s ∧ starts s r0 0x30 c ∧ (s.earlier c fun d => d.opcode == 0x38 && d.obj == fld c.data 0 2) = false ∧ s.ix? 0 (fld c.data 0 2) = none ∧
     s.gz.ixs.length < 64 ∧ (s.gz.ixs.filter fun e => e.1 / 65536 == 0).length < 16 ∧
     ((running s r0).newCtx (indexCtx 0 (fld c.data 0 2) (indexOf c.data) s.sys.now)).bind (fun q =>
       (q.1.centroidAreas 0 (fld c.data 0 2) (indexOf c.data)).map fun v => (v.host.wt, v.gr.awaits == [], (v.cmd? r0).isSome)) = some (false, true, true)) ∧
    64 ≤ (sCreate ((List.range 64).map fun i => (ixKey 1 i, ix1))).gz.ixs.length ∧
    (let c := cObj 0x38 2 0 0 []
     let s := hand (gIx ix1) c
     settled s ∧ starts s r0 0x38 c ∧ (s.earlier c fun d => (decide (0x30 ≤ d.opcode) && decide (d.opcode ≤ 0x38) && gzTarget d == c.obj) ||
        (d.opcode == 0x11 && d.embed && fld d.p3 0 2 == c.obj)) = false ∧ s.ix? 0 c.obj = some ix1) ∧
    (let c := cObj 0x31 2 0 0 (leBytes 4 1 ++ leBytes 4 1 ++ zeros 56 ++ zeros 8)
     starts (hand (gIx ix1) c) r0 0x31 c ∧ (hand (gIx ix1) c).ix? 0 c.obj = some ix1) ∧
    starts (hand (gIx ix1) (cObj 0x37 2 0 0 [])) r0 0x37 (cObj 0x37 2 0 0 []) := by unfold settled starts; decide +kernel

def cIns : Cmd := { cObj 0x32 2 0 0 (leBytes 6 78 ++ zeros 10 ++ zeros 8) with work := [4, 0] }
def cDel : Cmd := { cObj 0x33 2 0 0 (leBytes 6 77 ++ zeros 2 ++ leBytes 3 1 ++ zeros 5) with work := [4, 0] }
theorem witness_IndexesAndEntries_inserts :
    (let s := hand (gIx ix1) cIns
     starts s r0 0x32 cIns ∧ s.ix? 0 cIns.obj = some ix1 ∧ min slotCount (insRoom ix1 (cIns.dlen / (16 + ix1.nb))) ≤ s.gr.freeSlots ∧ s.gr.ronly = false ∧
     ((running s r0).insertRecs 0 cIns.obj ix1 (cIns.work.headD ix1.epoch) (insRecs ix1.nb cIns.data)).map (fun q =>
       (q.1.host.wt, q.1.gr.awaits == [], (q.1.cmd? r0).isSome, q.2.2.2)) = some (false, true, true, [{ list := some 0, second := none, status := 0 }]) ∧
     (insRecs ix1.nb cIns.data).length = 1) ∧
    (let s := hand (gIx ix1) cDel
     settled s ∧ starts s r0 0x33 cDel ∧ s.ix? 0 cDel.obj = some ix1 ∧ s.gr.ronly = false ∧ cDel.dlen = 16 ∧ fld cDel.data 8 3 = 1 ∧
     ix1.heldLists.contains 1 = true ∧ cDel.work.headD ix1.epoch = ix1.epoch) := by unfold settled starts; decide +kernel
theorem witness_IndexesAndEntries_inserts_read :
    State.readLists (running (hand (gIx ix1) cDel) r0) 0 cDel.obj ix1 [1] = (running (hand (gIx ix1) cDel) r0, none) := by decide +kernel

/-- One query of code 0 with two probes and K 1, and the same with a sample of list 1 (05 Tables 5.6, 5.7). -/
def gzHead : Bytes := leBytes 2 2 ++ zeros 2 ++ leBytes 2 1 ++ zeros 2 ++ leBytes 2 2 ++ leBytes 2 1 ++ zeros 8 ++ leBytes 4 64 ++ zeros 40
def cQry : Cmd := { cmdAt 0x34 r0 (gzHead ++ zeros 64) with work := [4, 0] }
def cSmp : Cmd := { cmdAt 0x35 r0 (gzHead ++ zeros 64 ++ zeros 4 ++ leBytes 4 1 ++ zeros 56 ++ leBytes 4 1) with work := [4, 0] }
def sBad (s : State) : State := { s with gr := { s.gr with unread := [unitKey (ixNs 0 2) 0] } }
def went {ε α : Type} (e : Except ε α) : Bool := match e with
  | .ok _ => true
  | .error _ => false
theorem witness_Queries :
    (let s := hand (gIx ix1) cQry
     starts s r0 0x34 cQry ∧ s.ix? 0 (fld cQry.data 0 2) = some ix1 ∧ went (answers s r0 cQry ix1).2 = true ∧ ((answers s r0 cQry ix1).1.cmd? r0).isSome = true) ∧
    (let s := sBad (hand (gIx ix1) cQry)
     starts s r0 0x34 cQry ∧ s.ix? 0 (fld cQry.data 0 2) = some ix1 ∧ went (answers s r0 cQry ix1).2 = false ∧ ((answers s r0 cQry ix1).1.cmd? r0).isSome = true) ∧
    (batchOf cQry.data).partialOk = false := by unfold starts; decide +kernel
theorem witness_Queries_sample :
    (let s := hand (gIx ix1) cSmp
     let b := batchOf cSmp.data
     let near := ix1.probeSets b cSmp.data 4
     let u := (running s r0).scanAll 0 2 ix1 b 4 near
     let v := u.1.scanAll 0 2 ix1 b 4 (near.map fun _ => sampleOf ix1 cSmp.data)
     let out (s' : State) := State.sampleAll (s'.listEvents 2 (u.2.bad ++ v.2.bad)) 0 2 ix1 b cSmp.data 0 4 0 false near (near.map fun _ => sampleOf ix1 cSmp.data) u.2 v.2
       (fun _ => false) (List.range b.nq)
     starts s r0 0x35 cSmp ∧ s.ix? 0 (fld cSmp.data 0 2) = some ix1 ∧ fld cSmp.data 0 2 = 2 ∧ cSmp.work = [4, 0] ∧ (s.tab? (tabKey 0 ix1.table)).isNone = true ∧
     ix1.cached = [] ∧ went (out v.1).2 = true ∧ ((out v.1).1.cmd? r0).isSome = true) := by unfold starts; decide +kernel

def cCmp (first : Nat) : Cmd := cObj 0x36 2 0 0 (leBytes 4 first ++ leBytes 4 1 ++ zeros 56)
def ixBuild : Index := { ix1 with builds := [(1, 3)] }
def ixOld : Index := { ix1 with lists := [(1, [{}, { w := 3, ents := [{ code := zeros 8, id := 5, ep := 1, del := some 4 }], nbase := 1, pages := [0] }])], cached := [(1, 0)] }
/-- List 1 holds an entry on no page yet, and no user capacity is left. -/
def ixNoPage : Index := { ix1 with lists := [(1, [{ ents := [{ code := zeros 8, id := 5, ep := 1 }] }])], builds := [(1, 3)] }
def sNoCap : State := { gIx ixNoPage with gr := { (gIx ixNoPage).gr with ns := [(ixNs 0 2, { cap := userUnits })] } }
theorem witness_Compaction :
    (let s := hand (gIx ix1) (cCmp 1)
     settled s ∧ s.ix? 0 (cCmp 1).obj = some ix1 ∧ s.gr.ronly = false ∧ starts s r0 0x36 (cCmp 1) ∧ compactLists ix1 (cCmp 1) ≠ []) ∧
    (starts (hand (gIx ix1) (cCmp 0)) r0 0x36 (cCmp 0) ∧ compactLists ix1 (cCmp 0) = []) ∧
    (let c := { cCmp 1 with phase := .running }
     let s := hand (gIx ix1) c
     s.cmd? r0 = some c ∧ s.serves 0x36 = true ∧ (ix1.builds.any fun e => decide (fld c.data 0 4 ≤ e.1) && decide (e.1 < fld c.data 0 4 + fld c.data 4 4)) = false) ∧
    ((gIx ix1).media = true ∧ (gIx ix1).wantsCompaction ix1 1 = true ∧ (gIx ix1).wantsCompaction ix1 0 = false) ∧
    (let s := gPages [(.gzt, 1)] (gIx ixBuild)
     s.ix? 0 2 = some ixBuild ∧ ixBuild.builds.find? (·.1 == 1) = some (1, 3) ∧ s.gr.ronly = false ∧ (ixBuild.compacted 1 3 0).pageCount ixBuild.perPage ≤ s.gr.freeSlots ∧
     (s.storeVer 0 2 ixBuild 1 (ixBuild.compacted 1 3 5) 0).isSome = true ∧ s.hostMode .gzt = true ∧ s.host.wt = false) ∧
    (State.readLists (sBad (gIx ixBuild)) 0 2 ixBuild [1]).2 = some 1 ∧
    (let s := gIx ixOld
     s.ix? 0 2 = some ixOld ∧ (ixOld.versions 1).find? (·.w == 0) = some {} ∧ s.verBound 0 2 ixOld 1 0 = false ∧ s.hostMode .gzt = false) ∧
    (sNoCap.ix? 0 2 = some ixNoPage ∧ sNoCap.gr.ronly = false ∧ (ixNoPage.compacted 1 3 0).pageCount ixNoPage.perPage ≤ sNoCap.gr.freeSlots ∧
      (State.readLists sNoCap 0 2 ixNoPage [1]).2 = none ∧ ((State.readLists sNoCap 0 2 ixNoPage [1]).1.storeVer 0 2 ixNoPage 1 (ixNoPage.compacted 1 3 5) 0).isNone = true) ∧
    (gPages [(.gzt, 1)] (gIx ixOld)).hostMode .gzt = true := by unfold settled starts; decide +kernel
theorem witness_Compaction_read : State.readLists (gPages [(.gzt, 1)] (gIx ixBuild)) 0 2 ixBuild [1] = (gPages [(.gzt, 1)] (gIx ixBuild), none) := by decide +kernel

/-- A scan of segment 0 of the cached list 1 for one query, its records at 0x100 (05 Table 5.8). -/
def scanReq : Bytes := leBytes 4 0x10002 ++ leBytes 4 1 ++ leBytes 8 4 ++ zeros 24 ++ leBytes 4 1 ++ leBytes 4 0x100 ++ zeros 16
def ixHot : Index := { ix1 with cached := [(1, 0)] }
/-- Core 767 with its ring at 0x40 and these values of PROD and CONS. -/
def sRing (prod cons nxt : Nat) : State :=
  { up with
    cores := [(767, { arch := { spm := wrLE (wrLE [] 0x40 4 prod) 0x44 4 cons } })]
    fch := { ring := [(127, 0x80000040)], next := [(127, nxt)], reqs := [{ core := 767, m := 64, words := [0x1F00], status := 0x13, key := 0, page := none }] } }
theorem witness_ScansAndRings :
    (let s := { gIx ixHot with sched := {} }
     s.ix? 0 (fld scanReq 0 2) = some ixHot ∧ s.media = true ∧ s.coresLive = true ∧
     ((ixHot.versions (fld scanReq 4 4 % 2 ^ 24)).find? fun v => v.w == fld scanReq 0x10 8).map (·.w) = some 0 ∧ (searchCores ixHot.search).contains 7 = true ∧
     ixHot.cached.contains (fld scanReq 4 4 % 2 ^ 24, 0) = true ∧ (scanBatch 8 scanReq).nq = 1 ∧ (State.scanPages s (ixNs 0 2) {} []).2.2 = none ∧
     s.ctxOn (ixHot.merge * 8 + fld scanReq 0x30 4 % 128 % 8) = none) ∧
    (let s := { gIx ix1 with sched := {} }
     s.ix? 0 (fld scanReq 0 2) = some ix1 ∧ s.gr.liveChan ((1 + 8 * 2 + 0) % 128) / 8 = (656 - 640) / 8 ∧ stackSide 656 = false ∧
     (((ix1.current 1).livePages ix1.perPage (fld scanReq 8 8)).filter fun i => i / 64 == 0) = [0] ∧ (State.scanPages s (ixNs 0 2) (ix1.current 1) [0]).2.2 = none ∧
     (State.scanPages (sBad s) (ixNs 0 2) (ix1.current 1) [0]).2.2 = some 0) ∧
    (let s := sRing 65 0 0
     s.media = true ∧ ringOn (mget 0 s.fch.ring 127) = true ∧ s.fch.stopped.contains 127 = false ∧ 64 < (s.ringProd 767 + 2 ^ 32 - s.ringCons 767) % 2 ^ 32) ∧
    (let s := sRing 3 (2 ^ 32 - 61) 2
     (s.ringProd 767 + 2 ^ 32 - s.ringCons 767) % 2 ^ 32 = 64 ∧ mget 0 s.fch.next 127 ≠ s.ringProd 767) ∧
    (let s := sRing 5 5 5
     mget 0 s.fch.next 127 = s.ringProd 767 ∧ (s.fch.reqs.find? fun q => q.core == 767 && q.m == 64).map (fun q => (q.status, q.words.getD 0 0 / 2 ^ 8 % 32)) = some (0x13, 31) ∧
     (s.core 767).arch.rdK 31 < 65535) ∧
    ((0xFFFFFFFF : BitVec 32).getLsbD 31 = true ∧ (0x7FFFFFFF : BitVec 32).getLsbD 31 = false ∧ up.alive 6 = true ∧ ringOn (mget 0 up.fch.ring 127) = false) := by
  decide +kernel

/-! ### Atlas -/

/-- A table of three FP32 rows of four elements in the channels of cores 0 and 1, as table 3 of partition 0. -/
def tb : Table := { fmt := 0xE, backed := false, init := true, scale0 := f32one, d := 4, rows := 3, place := [0, 1], resMb := 0, seed := 0, ns := 0, vers := [{ no := 1 }] }
/-- The same backed by namespace 1, with row 0 dirty in its way and row 2 awaited. -/
def tbf : Table :=
  { tb with backed := true, resMb := 1, ns := 1, vers := [{ no := 1, ways := [(wayKey (tb.homeChan 0) 0, 1)], dirty := [0] }], misses := [(1, 2, true)] }
def slotsOf (use : PoolUse) : List Alloc := [0, 1].map fun g => { chan := g, off := 0x40000000, len := 0x100000, cls := .state, part := 0, use := use }
/-- Table 3 as `x`, its version 1 in DRAM. -/
def sTab (x : Table) (c : Cmd) : State :=
  { hand gBase c with atl := { tabs := [(tabKey 0 3, x)] }, dram := { alloc := slotsOf (.atlas (verKey (tabKey 0 3) 1)) } }
/-- The descriptor of table 3 (07 Table 7.3) in cluster 0, with a number of rows. -/
def atDesc (rows : Nat) : Bytes := leBytes 4 3 ++ leBytes 4 0x042E ++ leBytes 8 rows ++ leBytes 16 1 ++ zeros 32
def ok2 (o : Option State) : Option (Bool × Bool × Bool) := o.map fun v => (v.host.wt, v.gr.awaits == [], (v.cmd? r0).isSome)
theorem witness_AtlasTablesAndVersions :
    (let c := cmdAt 0x40 r0 (atDesc 3)
     let s := hand gBase c
     settled s ∧ starts s r0 0x40 c ∧ (s.earlier c fun d => d.opcode == 0x41 && d.obj == fld c.data 0 1) = false ∧ s.tab? (tabKey 0 3) = none ∧ fld c.data 0 1 = 3 ∧
     ok2 (((running s r0).takeFree.2.allocVer (tabKey 0 3) 1 (tableOf c.data s.free)).map fun u =>
       (u.modAtl fun a => { a with tabs := lset a.tabs (tabKey 0 3) (tableOf c.data s.free) }).fillVer (tabKey 0 3) 1 (tableOf c.data s.free) (! (tableOf c.data s.free).init)) =
         some (false, true, true)) ∧
    (let c := cmdAt 0x40 r0 (atDesc (2 ^ 40))
     let s := hand gBase c
     starts s r0 0x40 c ∧ ((running s r0).takeFree.2.allocVer (tabKey 0 3) 1 (tableOf c.data s.free)).isNone = true) ∧
    (let c := cObj 0x41 3 0 0 []
     let s := sTab tb c
     s.tab? (tabKey 0 3) = some tb ∧ settled s ∧ starts s r0 0x41 c ∧ s.earlier c (s.usesTab 0 3) = false ∧ s.inStep (tabKey 0 3) = false) := by
  unfold settled starts; decide +kernel
def tbBuild (x : Table) (sealed : Bool) : Table := { x with building := some 2, sealed := sealed, vers := x.vers ++ [{ no := 2, born := true, area := x.freeArea }] }
theorem witness_AtlasTablesAndVersions_versions :
    (let c := cObj 0x46 3 0 0 []
     let s := sTab tb c
     starts s r0 0x46 c ∧ s.inStep (tabKey 0 3) = false ∧ (s.earlier c fun d => (d.opcode == 0x52 && (fld d.data 0x10 32).testBit c.obj) ||
        ((d.opcode == 0x46 || d.opcode == 0x47 || d.opcode == 0x48) && d.obj == c.obj)) = false ∧ tb.building = none ∧ tb.vers.length < 4 ∧ bit c.p1 0 = false ∧
     ok2 (((running s r0).allocVer (tabKey 0 3) 2 tb).map fun u => (withBuilding u (tabKey 0 3) 2).fillVer (tabKey 0 3) 2 tb true) = some (false, true, true)) ∧
    (let c := cObj 0x46 3 1 0 []
     let s := sTab tb c
     starts s r0 0x46 c ∧ bit c.p1 0 = true ∧ tb.backed = false ∧
     ok2 (((running s r0).allocVer (tabKey 0 3) 2 tb).map fun u => (withBuilding u (tabKey 0 3) 2).copyVer (tabKey 0 3) 1 2 tb) = some (false, true, true)) ∧
    (let c := cObj 0x46 3 0 0 []
     starts (sTab (tbBuild tb false) c) r0 0x46 c ∧ (tbBuild tb false).building.isSome = true) := by unfold starts; decide +kernel
theorem witness_AtlasTablesAndVersions_seals :
    (let c := cObj 0x47 3 0 0 []
     let s := sTab (tbBuild tb false) c
     starts s r0 0x47 c ∧ s.sealReady c (! s.hostMode (.atl 1)) = true ∧ s.hostMode (.atl 1) = false ∧ (tbBuild tb false).sealed = false ∧
     starts (sTab tb c) r0 0x47 c ∧ (sTab tb c).sealReady c true = true) ∧
    (let c := cObj 0x47 3 0 0 []
     let s := gPages [(.atl 1, 1)] (sTab (tbBuild tb false) c)
     starts s r0 0x47 c ∧ s.sealReady c (! s.hostMode (.atl 1)) = true ∧ s.hostMode (.atl 1) = true ∧
     (((running s r0).rowCounts (tabKey 0 3) 2 (tbBuild tb false)).1.cmd? r0).isSome = true) ∧
    (let c := cObj 0x48 3 0 0 []
     let s := gPages [(.atl 1, 1)] (sTab (tbBuild tb true) c)
     starts s r0 0x48 c ∧ s.sealReady c true = true ∧ s.hostMode (.atl 1) = true ∧ (tbBuild tb true).sealed = true ∧
     starts (sTab tb c) r0 0x48 c ∧ (sTab tb c).sealReady c true = true ∧ (sTab tb c).hostMode (.atl 1) = false) ∧
    starts (sTab tb (cObj 0x4A 3 0 0 [])) r0 0x4A (cObj 0x4A 3 0 0 []) ∧
    (let x := { tb with cur := 3, vers := [{ no := 1 }, { no := 3 }] }
     (sTab x (cmdAt 8 r0 [])).media = true ∧ (sTab x (cmdAt 8 r0 [])).verHeld (tabKey 0 3) 3 = true ∧ (sTab x (cmdAt 8 r0 [])).verHeld (tabKey 0 3) 1 = false ∧
     x.vers.any (·.no == 1) = true) := by unfold starts; decide +kernel

def wentOk {ε α : Type} (p : State × Except ε α) : Option (Bool × Bool × Bool) := match p.2 with
  | .ok _ => ok2 (some p.1)
  | .error _ => none
theorem witness_AtlasTablesAndVersions_backed :
    (let c := cObj 0x47 3 0 0 []
     let s := sTab (tbBuild tbf false) c
     starts s r0 0x47 c ∧ s.sealReady c (! s.hostMode (.atl 1)) = true ∧ s.hostMode (.atl 1) = false ∧ tbf.backed = true ∧ s.gr.ronly = false ∧ c.fua = false ∧
     wentOk (State.flushTable (tabKey 0 3) (running s r0) (tbBuild tbf false).vers) = some (false, true, true)) := by unfold starts; decide +kernel

/-- A scatter record (07 R282) for a row, with an operation. -/
def scRec (row op : Nat) : Bytes := leBytes 8 (row + op * 2 ^ 40) ++ zeros 8 ++ leBytes 4 f32one ++ zeros 12
def gotOf (p : State × Option Bytes × Put) : Bool := p.2.1.isSome
theorem witness_AtlasRowAccess :
    (let c := cObj 0x42 3 0 0 (scRec 2 0)
     let s := sTab tb c
     starts s r0 0x42 c ∧ s.tab? (tabKey 0 c.obj) = some tb ∧ c.work = [] ∧ c.dlen = tb.recBytes ∧ (s.earlier c fun d => d.opcode == 0x42 && d.obj == c.obj) = false ∧
     fld c.data 0 8 % 2 ^ 40 = 2 ∧ bits (fld c.data 0 8) 41 40 = 0 ∧ bit (fld c.data 0 8) 42 = false ∧ gotOf ((running s r0).rowForWrite (tabKey 0 3) tb.cur 2) = true) ∧
    (starts (sTab tb (cObj 0x42 3 0 0 (scRec 3 0))) r0 0x42 (cObj 0x42 3 0 0 (scRec 3 0)) ∧ tb.rows ≤ fld (scRec 3 0) 0 8 % 2 ^ 40 ∧
      bits (fld (scRec 0 3) 0 8) 41 40 = 3 ∧ (bit (fld (scRec 0 4) 0 8) 42 = true ∧ tb.building = none)) ∧
    (let c := cObj 0x44 3 0 0 (leBytes 8 1)
     starts (sTab tb c) r0 0x44 c ∧ starts (sTab tbf c) r0 0x44 c ∧ c.dlen = 8 ∧ fld c.data 0 8 < tbf.rows ∧ tbf.sourceSlot tbf.cur (fld c.data 0 8) = none ∧
     (tbf.misses.any fun m => m.1 == tbf.cur && m.2.1 == fld c.data 0 8) = false) ∧
    (let c := cObj 0x45 3 0 0 []
     starts (sTab tb c) r0 0x45 c ∧ starts (sTab tbf c) r0 0x45 c ∧ ((sTab tbf c).earlier c fun d => d.opcode == 0x42 && d.obj == c.obj) = false ∧
     wentOk (State.flushTable (tabKey 0 3) (running (sTab tbf c) r0) tbf.vers) = some (false, true, true)) ∧
    (let c := cObj 0x45 3 0 0 []
     let x := { tbf with vers := tbf.vers.map fun v => { v with flashed := [tbf.rowPage 0] } }
     let s := sTab x c
     let u : State := { s with gr := { s.gr with unread := [unitKey 1 (x.pageUnit 1 (tbf.rowPage 0))] } }
     starts u r0 0x45 c ∧ (match (State.flushTable (tabKey 0 3) (running u r0) x.vers).2 with
       | .ok _ => none
       | .error e => some e) = some 0) := by unfold starts; decide +kernel

/-- A gather of one bag: an index in range, or one whose row was captured as unreadable, or one that waits for flash (07 R286). -/
def gaData (row : Nat) : Bytes := leBytes 4 3 ++ leBytes 4 1 ++ leBytes 4 1 ++ zeros 52 ++ leBytes 8 row
def cGa (row : Nat) : Cmd := { cmdAt 0x43 r0 (gaData row) with work := [1, 0, 0, 0] }
def sGa (x : Table) (taken : List (CmdRef × Nat × Option Bytes)) (row : Nat) : State :=
  { sTab x (cGa row) with atl := { (sTab x (cGa row)).atl with taken := taken } }
def gaOut (s : State) (row : Nat) : State × List Nat := ((running s r0).routeCount (cGa row)).gatherTake (cGa row)
theorem witness_AtlasRowAccess_gather :
    (let s := sGa tb [] 2
     starts s r0 0x43 (cGa 2) ∧ (gaOut s 2).2 = [] ∧ ((gaOut s 2).1.tab? (tabKey 0 (fld (cGa 2).data 0 1))).isSome = true ∧ ((gaOut s 2).1.cmd? r0).isSome = true ∧
     (gBatch (cGa 2).data).ni = 1 ∧ (gBatch (cGa 2).data).nn = 0 ∧ ((gaOut s 2).1.takenOf r0 0).isSome = true ∧ (gaOut s 2).1.takenOf r0 0 ≠ some none) ∧
    (let s := sGa tb [(r0, 0, none)] 2
     starts s r0 0x43 (cGa 2) ∧ (gaOut s 2).2 = [] ∧ (gBatch (cGa 2).data).partialOk = false ∧ (gaOut s 2).1.takenOf r0 0 = some none) ∧
    (starts (sGa tbf [] 1) r0 0x43 (cGa 1) ∧ (gaOut (sGa tbf [] 1) 1).2 ≠ []) := by unfold starts; decide +kernel

/-- The awaited row 2 of the backed table comes from its flash copy. -/
def sFill : State := { sTab tbf (cmdAt 8 r0 []) with host := gBase.host }
def fillU : State :=
  (sFill.modTab (tabKey 0 3) fun y => { y with misses := y.misses.filter (fun m => ! (m.1 == 1 && m.2.1 == 2)), fills := y.fills + 1 }).modAtl fun a => { a with missCnt := satBv a.missCnt 1 }
theorem witness_AtlasRowAccess_fill :
    sFill.tab? (tabKey 0 3) = some tbf ∧ sFill.media = true ∧ (tbf.misses.find? fun m => m.2.1 == 2) = some (1, 2, true) ∧
    sFill.missAt (tbf.place.getD (tbf.homeChan 2) 0) = false ∧ (fillU.flashPage (tabKey 0 3) 1 tbf (tbf.rowPage 2) (some .direct)).2.isSome = true ∧
    (let x := { tbf with misses := [(1, 2, true), (1, 0, false), (1, 1, false)] }
     let s := { sTab x (cmdAt 8 r0 []) with host := gBase.host }
     (x.misses.find? fun m => m.2.1 == 2) = some (1, 2, true) ∧ s.missAt (x.place.getD (x.homeChan 2) 0) = true) := by decide +kernel

/-- One migration record (07 R310). -/
def mgRec (row op target : Nat) : Bytes := leBytes 5 row ++ [BitVec.ofNat 8 op] ++ zeros 2 ++ leBytes 2 target ++ zeros 6
def cMg (row op target : Nat) : Cmd := cObj 0x49 3 0 0 (mgRec row op target)
def sMg (row op target : Nat) : State := gPages [(.atl 0, 1)] (sTab tb (cMg row op target))
def away : Nat := 1 - tb.homeChan 0
def mv (tries : Nat) : Move := { row := 0, moves := true, chan := away, slot := 2, tries := tries }
def sMove (x : Table) : State := sTab x (cmdAt 8 r0 [])
theorem witness_AtlasMoves :
    (starts (sTab tb (cMg 0 0 1)) r0 0x49 (cMg 0 0 1) ∧ (sTab tb (cMg 0 0 1)).hostMode (.atl 0) = false) ∧
    (starts (sMg 3 0 1) r0 0x49 (cMg 3 0 1) ∧ (sMg 3 0 1).hostMode (.atl 0) = true ∧ (cMg 3 0 1).dlen = 16 ∧ tb.rows ≤ mgRow (cMg 3 0 1).data 0 ∧
      ((sMg 3 0 1).earlier (cMg 3 0 1) fun d => d.opcode == 0x49 && d.obj == 3) = false) ∧
    (starts (sMg 2 0 2) r0 0x49 (cMg 2 0 2) ∧ mgRow (cMg 2 0 2).data 0 < tb.rows ∧ mgTarget (cMg 2 0 2).data 0 ∉ tb.place) ∧
    (let c := cMg 0 0 away
     starts (sMg 0 0 away) r0 0x49 c ∧ tb.place.idxOf? (mgTarget c.data 0) = some away ∧ mgOp c.data 0 ≠ 2 ∧
      ((tb.copiesAt tb.cur 0 tb.seq).any (·.chan == away)) = false ∧ (running (sMg 0 0 away) r0).moveRefused tb 0 away true = none ∧
      ((running (sMg 0 0 away) r0).beginMove (tabKey 0 3) 0 away true (some r0) 0).2 = true) ∧
    (let x := { tb with vers := [{ no := 1, fwd := [{ row := 0, copies := List.replicate 16 { chan := 1 - away, slot := 0, on := some 0 } }] }] }
     let c := cMg 0 1 away
     let s := gPages [(.atl 0, 1)] (sTab x c)
     starts s r0 0x49 c ∧ ((x.copiesAt x.cur 0 x.seq).any (·.chan == away)) = false ∧ (running s r0).moveRefused x 0 away false = some 0x43) ∧
    (let c := cMg 0 2 away
     starts (sMg 0 2 away) r0 0x49 c ∧ mgOp c.data 0 = 2 ∧ ((tb.copiesAt tb.cur 0 tb.seq).drop 1).find? (·.chan == away) = none) := by
  unfold starts; decide +kernel

def isPair (p : State × Option Bytes) (s : State) : Bool := p.1 == s && p.2.isSome
theorem witness_AtlasMoves_copies :
    (let x := { tb with moves := [mv 1] }
     let s := sMove x
     s.media = true ∧ s.tab? (tabKey 0 3) = some x ∧ x.moves.find? (·.row == 0) = some (mv 1) ∧ (mv 1).tries ≠ 0 ∧
     isPair (s.rdSlot (tabKey 0 3) x.cur x away 2) s = true ∧ isPair ((s.rowForWrite (tabKey 0 3) x.cur 0).1, (s.rowForWrite (tabKey 0 3) x.cur 0).2.1) s = true ∧
     (match (s.rdSlot (tabKey 0 3) x.cur x away 2).2, (s.rowForWrite (tabKey 0 3) x.cur 0).2.1 with
      | some b, some src => slotRver b == slotRver src && slotElems x b == slotElems x src
      | _, _ => false) = true ∧ (mv 1).cmd = none ∧ x.vers.any (·.no == x.cur) = true) ∧
    (let x := { tb with moves := [mv 3] }
     let s := (sMove x).wrSlot (tabKey 0 3) 1 x away 2 (slotBytes x f32one 7 0 0 [])
     s.tab? (tabKey 0 3) = some x ∧ (mv 3).tries < s.triesMax ∧
     (match s.rdSlot (tabKey 0 3) x.cur x away 2, s.rowForWrite (tabKey 0 3) x.cur 0 with
      | (_, some b), (_, some src, _) => slotRver b != slotRver src
      | _, _ => false) = true) ∧
    (let x := { tb with vers := [{ no := 1, fwd := [{ row := 0, copies := [{ chan := 0, slot := homeMark, on := some 0, off := some 1 }, { chan := 1, slot := 2, on := some 1 }] }] }], seq := 1 }
     (sMove x).tab? (tabKey 0 3) = some x ∧ (sMove x).gathersOf (tabKey 0 3) = []) ∧
    (sMg 0 0 1).hostMode (.atl 0) = true ∧ tb.routed < 2 ^ 20 ∧
    (let x := { tb with routed := 2 ^ 20, occ := [(0, 65)] }
     let s := sMove x
     s.hostMode (.atl 0) = false ∧ 2 ^ 20 ≤ x.routed ∧ (x.ver x.cur).fwd = [] ∧ x.occ = [(0, 65)] ∧ max 1 s.atl.rate.toNat < 65 ∧ 1 ≤ s.atl.maxRepl.toNat ∧ x.moves = [] ∧
     x.n = 2 ∧ away < 2 ∧ away ≠ x.homeChan 0 ∧ s.moveRefused x 0 away false = none ∧ ({ x with occ := [] } : Table).occ = []) := by decide +kernel

/-! ### Updates -/

/-- An optimiser descriptor (08 Table 8.2): SGD, or momentum, for table 3. -/
def optData (opt : Nat) : Bytes := leBytes 4 (3 + opt * 256) ++ leBytes 4 f32one ++ zeros 8 ++ leBytes 4 f32one ++ zeros 44
def tbu : Table := { tb with opt := { opt := 1, lr := f32one, eps := f32one } }
def stp : UpStep := { part := 0, clip := false, bf := false, clipNorm := 0, lr := 0, t := 1, tabs := [(3, 1)], stageMb := 0 }
def inStp (s : State) (h : Nat) (st : UpStep) : State := { s with upd := { s.upd with steps := [(h, st)] } }
def isOk2 (o : Option State) : Bool := ok2 o == some (false, true, true)
theorem witness_Updates :
    (let c := cmdAt 0x50 r0 (optData 2)
     let s := sTab tb c
     let x' := { tb with opt := optOf c.data, moves := tb.moves.map fun m => { m with tries := 0 } }
     let u := (running s r0).freeAllocs fun a => tb.vers.any fun v => a.use == .optState (verKey (tabKey 0 3) v.no)
     starts s r0 0x50 c ∧ fld c.data 0 1 = 3 ∧ s.tab? (tabKey 0 3) = some tb ∧ s.inStep (tabKey 0 3) = false ∧ (inStp s 64 stp).inStep (tabKey 0 3) = true ∧
     isOk2 ((u.allocStates (tabKey 0 3) x' [1]).map fun v => [1].foldl (fun w no => w.zeroState (tabKey 0 3) no x') (v.modTab (tabKey 0 3) fun _ => x')) = true) ∧
    (let c := cmdAt 0x50 r0 (optData 4)
     let x := { tb with rows := 2 ^ 40 }
     starts (sTab x c) r0 0x50 c ∧ ((running (sTab x c) r0).allocStates (tabKey 0 3) { x with opt := optOf c.data } [1]).isNone = true) ∧
    (let c := cObj 0x51 3 0 0 (leBytes 8 0 ++ leBytes 8 3 ++ leBytes 8 (2 + 2 ^ 40) ++ leBytes 8 1 ++ leBytes 8 1 ++ leBytes 8 3)
     let x := { tb with frozen := [(1, 2)] }
     starts (sTab x c) r0 0x51 c ∧ (sTab x c).inStep (tabKey 0 c.obj) = false ∧
     ((sTab x c).earlier c fun d => opensWith c.obj d || (d.opcode == 0x51 && d.obj == c.obj)) = false ∧ x.frozen ≠ [] ∧
     freezeRecs x.rows c.data (c.dlen / 16) 0 x.frozen 0 = ([(0, 2)], 1)) ∧
    (([(0, 2), (4, 5)] : List (Nat × Nat)).Pairwise (fun e f => e.2 < f.1) ∧ (∀ e ∈ [(0, 2), (4, 5)], e.1 < e.2)) := by unfold starts; decide +kernel

/-- UP_BEGIN of table 3 (08 Table 8.4), and a record of a gradient of ones for a row of it (08 Table 8.5). -/
def beginData : Bytes := zeros 12 ++ leBytes 4 1 ++ leBytes 32 8 ++ zeros 16
def grRec (row : Nat) : Bytes := leBytes 5 row ++ [3] ++ zeros 10 ++ leBytes 4 f32one ++ leBytes 4 f32one ++ leBytes 4 f32one ++ leBytes 4 f32one
def cGr (row : Nat) : Cmd := { cObj 0x53 64 0 0 (grRec row) with phase := .running, work := [0, 0, 0, 0, 0, 0, 0] }
def sGr (row : Nat) : State := inStp (sTab tbu (cGr row)) 64 stp
def goodOf (f : Fate) : Option (Nat × Nat × Nat × List Nat) := match f with
  | .good tk no row g => some (tk, no, row, g)
  | _ => none
theorem witness_Updates_steps :
    (let c := cmdAt 0x52 r0 beginData
     let s := sTab tbu c
     starts s r0 0x52 c ∧ (s.earlier c fun d => (maskTabs c.data).contains d.obj && (d.opcode == 0x51 || d.opcode == 0x46 || d.opcode == 0x48 ||
        (d.opcode == 0x47 && ! s.hostMode (.atl 1)))) = false ∧ (running s r0).upBeginCheck c = none ∧ maskTabs c.data = [3] ∧
     s.inStep (tabKey 0 3) = false ∧ (s.upd.steps.filter fun e => e.2.part == 0).length < 4 ∧ bit (fld c.data 0 4) 0 = false ∧
     (running (inStp s 1 stp) r0).upBeginCheck c = none ∧ (inStp s 1 stp).inStep (tabKey 0 3) = true) ∧
    (let c := { cGr 2 with phase := .admitted, work := [] }
     let s := inStp (sTab tbu c) 64 stp
     starts s r0 0x53 c ∧ s.step? c.obj = some stp ∧ (running s r0).offsets stp c = some [0]) ∧
    ((sGr 3).cmd? r0 = some (cGr 3) ∧ (sGr 3).serves 0x53 = true ∧ (sGr 3).step? 64 = some stp ∧ (sGr 3).fate stp (cGr 3).data 0 = .dropped) ∧
    (let s := sGr 2
     goodOf (s.fate stp (cGr 2).data 0) = some (tabKey 0 3, 1, 2, List.replicate 4 f32one) ∧ s.rowAhead stp (cGr 2) (recTab (cGr 2).data 0) 2 = false ∧
     ((s.tab? (tabKey 0 3)).bind fun t => s.unitOf t 2).isSome = true ∧
     (match s.applyRec stp (tabKey 0 3) 1 2 f32one (List.replicate 4 f32one) none with
      | (u, .applied) => u.cmd? r0 == some (cGr 2)
      | _ => false) = true) ∧
    (let c := cObj 0x54 64 1 0 []
     let s := inStp (sTab tbu c) 64 stp
     starts s r0 0x54 c ∧ s.step? c.obj = some stp ∧ (s.earlier c fun d => d.opcode == 0x53 && d.obj == c.obj) = false ∧ stp.clip = false ∧ bit c.p1 0 = true) ∧
    ((inStp up 64 { stp with ending := some r0 }).upd.steps.find? fun e => e.2.ending == some r0) = some (64, { stp with ending := some r0 }) ∧
    tbu.opt.opt = 1 ∧ (up.alive 6 = true ∧ up.upd.inSvc.getLsbD 7 = true ∧ up.frz.evtEn = false) := by unfold starts; decide +kernel

/-! ### The resident model -/

def eA : MdEntry :=
  { no := 15, kind := 1, outBf := false, prog := 0, sheet := 0, clus := [0], maxIn := 16, d := 64, maxSeq := 1, thresh := 0xFFFFFFFF, stepArea := 0, kvt := 0, stepTk := 31
    ctx := some 3 }
def cxE : Ctx := { kind := .entry 15, part := 0, cores := List.range 8, place := .resident, started := true }
/-- A ready model of partition 0 with one entry point, its context on cluster 0. -/
def md0 : ModelS := { st := 2, part := 0, ns := 1, kvMb := 1, chunk := 32, budget := 32, entries := [eA], sheets := [{ legs := 1, ents := [] }] }
def sMd (m : ModelS) (c : Cmd) : State :=
  { hand gBase c with
    mdl := m, cores := [(0, { run := .running, bound := true, ctx := 3, progLen := 100 })], sched := { ctxs := [(3, cxE)], marks := [(0, 0xFE04, 0)] } }

def cLoad : Cmd := cmdAt 0x60 r0 (leBytes 2 1 ++ zeros 62)
def failOf (p : State × Except Nat Bytes) : Option (Nat × Bool) := match p.2 with
  | .ok _ => none
  | .error u => some (u, (p.1.cmd? r0).isSome)
theorem witness_ModelResidence :
    (starts (sMd md0 cLoad) r0 0x60 cLoad ∧ (sMd md0 cLoad).mdl.st ≠ 0) ∧
    (let s : State := { hand gBase cLoad with gr := { gBase.gr with unread := [unitKey 1 0] } }
     starts s r0 0x60 cLoad ∧ s.mdl.st = 0 ∧ (s.ns? (nsKey 0 1)).isSome = true ∧ failOf ((running s r0).readRange (nsKey 0 1) 0 16384) = some (0, true)) ∧
    (let c := { cLoad with phase := .running }
     let s := sMd { md0 with st := 1, entries := [] } c
     s.cmd? r0 = some c ∧ s.serves 0x60 = true ∧ s.mdl.runs = [] ∧ s.mdl.entries = []) ∧
    (let c := { cLoad with phase := .running }
     let s := sMd { md0 with st := 1, runs := [{ first := 0, count := 1, chan := 0, bytes := 512, pinned := true, leg := 0 }] } c
     s.cmd? r0 = some c ∧ (s.fetchPinned 0 s.mdl.runs).2 = some (0x11, leBytes 8 0) ∧ ((s.fetchPinned 0 s.mdl.runs).1.cmd? r0).isSome = true) ∧
    (starts (sMd md0 (cObj 0x61 0 0 0 [])) r0 0x61 (cObj 0x61 0 0 0 []) ∧ md0.st = 2 ∧ md0.part = r0.part) ∧
    (let c := cObj 0x62 15 0x1FFFF 0 []
     starts (sMd md0 c) r0 0x62 c ∧ c.obj < 16 ∧ c.obj ≠ r0.part ∧ 0 < bits c.p1 23 16 ∧ c.p1 < 2 ^ 24) ∧
    starts (sMd md0 (cObj 0x63 15 0 0 [])) r0 0x63 (cObj 0x63 15 0 0 []) := by unfold starts; decide +kernel
theorem witness_ModelResidence_unload :
    (let s := sMd { md0 with st := 4 } { cObj 0x61 0 0 0 [] with phase := .running }
     s.mdl.st = 4 ∧ s.serves 0x61 = true ∧ (s.host.cmds.any fun d => modelReq d && d.adm != 0 && (d.phase == .admitted || d.phase == .running)) = false ∧
     s.runningOf 0x61 = [{ cObj 0x61 0 0 0 [] with phase := .running }]) ∧
    (let s := sMd { md0 with st := 4 } (cmdAt 0x64 r0 [])
     (s.host.cmds.any fun d => modelReq d && d.adm != 0 && (d.phase == .admitted || d.phase == .running)) = true) ∧
    starts (sMd md0 (cObj 0x68 0 0 0 [])) r0 0x68 (cObj 0x68 0 0 0 []) ∧
    (let k : Kept := { handle := 9, part := 0, toks := [], seq := 4, time := 0 }
     let c := cObj 0x67 9 0 0 []
     starts (sMd md0 c) r0 0x67 c ∧ (md0.kept.find? fun k => k.handle == 9 && k.part == 0) = none ∧
     (({ md0 with kept := [k] } : ModelS).kept.find? fun k => k.handle == 9 && k.part == 0) = some k ∧ k.user = none ∧
     (({ md0 with kept := [{ k with user := some r0 }] } : ModelS).kept.find? fun k => k.handle == 9 && k.part == 0) = some { k with user := some r0 }) := by
  unfold starts; decide +kernel

/-- A generate request of one token for entry 15 that adds one (09 Table 9.8). -/
def cGen : Cmd := { cmdAt 0x64 r0 (leBytes 4 15 ++ leBytes 4 1 ++ leBytes 4 1 ++ zeros 52 ++ leBytes 4 5) with phase := .running }
def eG : MdEntry := { eA with kind := 0, d := 0 }
def mdG : ModelS := { md0 with entries := [eG] }
def seq1 (mx : Nat) : SeqSt :=
  { id := 1, ref := r0, entry := 15, slot := 0, prompt := [5], maxNew := mx, stop := [], retain := false, topk := 0, temp := 0, seed := 0, filled := 0, order := 1 }
def slot1 : StepSlot := { seq := 1, item := none, kind := 2, pos := 0, toks := [5] }
def sEnc : State := sMd { md0 with items := [{ ref := r0, idx := 0, part := 0, entry := 15, data := [1], order := 0 }] } (cmdAt 8 r0 [])
def stepIn (mx : Nat) : State :=
  { sMd { mdG with seqs := [seq1 mx], steps := [(15, { slots := [slot1], result := 0x10040000000, stride := 64 })] } cGen with
    dram := { alloc := [{ chan := 0, off := 0x40000000, len := 64, cls := .state, part := 0, use := .model 16 }] } }
theorem witness_ModelRequests :
    starts (sMd mdG { cGen with phase := .admitted }) r0 0x64 { cGen with phase := .admitted } ∧
    starts (sMd md0 (cObj 0x65 0 15 0 (leBytes 4 1 ++ leBytes 4 1 ++ zeros 56 ++ [1]))) r0 0x65 (cObj 0x65 0 15 0 (leBytes 4 1 ++ leBytes 4 1 ++ zeros 56 ++ [1])) ∧
    starts (sMd md0 (cObj 0x66 0 15 0 [])) r0 0x66 (cObj 0x66 0 15 0 []) ∧
    (let s := sMd mdG cGen
     s.mdEntry? 15 = some eG ∧ s.serves 0x64 = true ∧ s.mdl.st = 2 ∧ s.genWaiting 15 = [cGen] ∧ mget 0 s.mdl.taken (15 * 16 + 0) < s.mdl.weightOf 0 ∧
     (s.seqEnter eG cGen).isSome = true ∧ (sMd mdG (cmdAt 8 r0 [])).genWaiting 15 = []) ∧
    (let s := sEnc
     s.mdEntry? 15 = some eA ∧ s.serves 0x64 = true ∧ eA.ctx = some 3 ∧ s.mdl.formStep eA ≠ [] ∧ (lget s.mdl.steps 15).isNone = true ∧ s.entryUp eA = true ∧ s.mdl.turn eA = true ∧
     ((s.poolAlloc 0 0 (up64 eA.resBytes + 64) .state (.model 16)).bind fun t => t.dram.alloc.find? (·.use == .model 16)).isSome = true ∧
     (s.mdl.formStep eA).length * up64 eA.resBytes + (((s.mdl.formStep eA).filterMap fun k => k.item.map s.mdl.itemData).map fun d => up64 d.length).sum =
       up64 eA.resBytes + 64) := by unfold starts; decide +kernel
def afterMark (s : State) (code leg : Nat) : State := (s.takeMark 0 code leg).getD s
theorem witness_ModelRequests_steps :
    (let s := stepIn 2
     let t := afterMark s 0xFE04 0
     let u := (t.readResults { slots := [slot1], result := 0x10040000000, stride := 64 } [slot1] 0).1
     s.entryOn 0 = some eG ∧ (s.takeMark 0 0xFE04 0).isSome = true ∧ (lget t.mdl.steps 15).isSome = true ∧ slot1.item = none ∧
     ((t.readResults { slots := [slot1], result := 0x10040000000, stride := 64 } [slot1] 0).2.map List.length) = some 1 ∧ u.mdl.items = [] ∧
     (∀ z ∈ u.mdl.seqs, z.stopped = false) ∧ u.mdl.seqs.find? (·.id == 1) = some (seq1 2) ∧
     ({ seq1 2 with filled := 1, steps := 1, gen := [0] } : SeqSt).finished 16 = none) ∧
    (({ seq1 1 with filled := 1, steps := 1, gen := [0] } : SeqSt).finished 16 = some 0 ∧ (seq1 1).retain = false ∧ ((stepIn 1).cmd? r0).isSome = true ∧
      (stepIn 1).mdl.seqs.find? (·.id == 1) = some (seq1 1)) ∧
    (let s := sMd { mdG with seqs := [{ seq1 2 with lost := true }] } cGen
     (s.mdl.seqs.find? fun q => q.entry == 15 && q.slot == 0 && q.lost) = some { seq1 2 with lost := true } ∧ s.serves 0x64 = true) := by decide +kernel
/-- A traversal of entry 15 over a sheet of two legs, one stream run on each of channels 0 and 1. -/
def mdT (legs : List LegFetch) : ModelS :=
  { md0 with
    sheets := [{ legs := 2, ents := [{ run := 0, cls := 1, tk := 31, slot := 8, leg := 0 }, { run := 1, cls := 2, tk := 3, slot := 0, leg := 1 }] }]
    runs := [{ first := 0, count := 1, chan := 0, bytes := 512, pinned := false, leg := 0 }, { first := 1, count := 1, chan := 1, bytes := 512, pinned := false, leg := 1 }]
    travs := [(15, { legs := legs })] }
def sTrav (code leg : Nat) (legs : List LegFetch) : State :=
  { sMd (mdT legs) (cmdAt 8 r0 []) with
    sched := { ctxs := [(3, cxE)], marks := [(0, code, leg)] }
    dram := { alloc := [{ chan := 0, off := 0x40000000, len := 512, cls := .free, part := 0, use := .run 0 }] } }
theorem witness_ModelRequests_legs :
    (let s := sTrav 0xFE01 1 []
     s.entryOn 0 = some eA ∧ (s.takeMark 0 0xFE01 1).isSome = true ∧ (lget (afterMark s 0xFE01 1).mdl.travs 15).isSome = true ∧
     (afterMark s 0xFE01 1).mdl.demandLeg 15 0 = false ∧ ((afterMark s 0xFE01 1).mdl.sheetOf 15).ents.any (·.leg == 0) = true) ∧
    ((sTrav 0xFE02 1 []).takeMark 0 0xFE02 1).isSome = true ∧ ((sTrav 0xFE02 1 []).mdl.sheetOf 15).ents.any (·.leg == 1) = true ∧
    ((sTrav 0xFE03 0 [{ leg := 0, due := [], holders := [0] }]).takeMark 0 0xFE03 0).isSome = true ∧
    (let v : Trav := { legs := [{ leg := 0, due := [0], holders := [0] }] }
     let s := sTrav 0xFE04 0 v.legs
     s.mdEntry? 15 = some eA ∧ lget s.mdl.travs 15 = some v ∧ (s.mdl.sheetOf 15).ents[0]? = some { run := 0, cls := 1, tk := 31, slot := 8, leg := 0 } ∧ s.serves 0x64 = true ∧
     (v.legs.any fun l => l.leg == 0 && l.due.contains 0) = true ∧ s.mdl.legFirst 15 v 0 = true ∧ s.mdl.runs[0]?.isSome = true ∧ eA.ctx = some 3 ∧
     (s.dram.alloc.find? (·.use == .run 0)).isSome = true) := by decide +kernel

/-! A package that MD_LOAD takes: its pages stand in the write buffer. The pages are long, so what their reads and their checksums come to is proved and not
evaluated: each section ends its data with the state of its CRC, after which zeros leave the state at 0. -/

theorem crc_zeros (n : Nat) : (zeros n).foldl (fun c b => crcBit 8 (Nat.xor c b.toNat)) 0 = 0 := by
  induction n with
  | zero => rfl
  | succ n ih => simp only [zeros, List.replicate_succ, List.foldl_cons] at ih ⊢; rw [show crcBit 8 (Nat.xor 0 (0 : Byte).toNat) = 0 by decide]; exact ih

/-- The same state of the CRC, with each value worked out before the next byte. -/
def crcRun : Bytes → Nat → Nat
  | [], c => c
  | b :: r, c =>
    match crcBit 8 (Nat.xor c b.toNat) with
    | 0 => crcRun r 0
    | n + 1 => crcRun r (n + 1)

theorem crcRun_eq (bs : Bytes) : ∀ c, bs.foldl (fun c b => crcBit 8 (Nat.xor c b.toNat)) c = crcRun bs c := by
  induction bs with
  | nil => intro c; rfl
  | cons b r ih =>
    intro c
    rw [List.foldl_cons, ih]
    conv => rhs; unfold crcRun
    split
    · next h => rw [h]
    · next h => rw [h]

theorem crc_padded (b : Bytes) (n : Nat) (h : crcRun b 0xFFFFFFFF = 0) : crc32c (b ++ zeros n) = 0xFFFFFFFF := by
  unfold crc32c
  rw [List.foldl_append, crcRun_eq b, h, crc_zeros]
  rfl

theorem rdBytes_add (m : Mem) (k n : Nat) : ∀ a, rdBytes m a (k + n) = rdBytes m a k ++ rdBytes m (a + k) n := by
  induction k with
  | zero => intro a; simp [rdBytes]
  | succ k ih => intro a; rw [Nat.add_right_comm]; simp only [rdBytes, List.cons_append]; rw [ih, Nat.add_right_comm a 1 k, Nat.add_assoc a k 1]

theorem rdByte_past (m : Mem) (n i : Nat) (h : ∀ e ∈ m, e.1 < n) (hi : n ≤ i) : rdByte m i = 0 := by
  induction m with
  | nil => rfl
  | cons e r ih =>
    have he := h e (by simp)
    simp only [rdByte, mget] at ih ⊢
    rw [if_neg (by omega)]
    exact ih fun x hx => h x (by simp [hx])

theorem rdBytes_past (m : Mem) (n : Nat) (h : ∀ e ∈ m, e.1 < n) (k : Nat) : ∀ a, n ≤ a → rdBytes m a k = zeros k := by
  induction k with
  | zero => intro a _; rfl
  | succ k ih => intro a ha; simp only [rdBytes, zeros, List.replicate_succ]; rw [rdByte_past m n a h ha, ih (a + 1) (by omega)]; rfl

theorem readRange_slot (s : State) (ns u n : Nat) (x : Slot) (h1 : s.gr.unread.contains (unitKey ns u) = false) (h2 : s.entry? ns u = some { buf := true, addr := n })
    (h3 : lget s.gr.slots n = some x) : s.readRange ns (u * 16384) 16384 = (s, .ok (rdBytes x.data 0 16384)) := by
  have e1 : u * 16384 / unitBytes = u := by unfold unitBytes; omega
  have e2 : (u * 16384 + 16383) / unitBytes + 1 - u = 1 := by unfold unitBytes; omega
  have e3 : u * 16384 % unitBytes = 0 := by unfold unitBytes; omega
  have e4 : (rdBytes x.data 0 unitBytes).take 16384 = rdBytes x.data 0 16384 := List.take_of_length_le (by rw [length_rdBytes]; decide)
  have h4 : unitKey ns u ∉ s.gr.unread := by simpa using h1
  unfold State.readRange
  simp [e1, e2, e3, State.readUnits, State.readUnit, State.readUnitAs, h2, h3, h4, e4]

def pkTop : Bytes :=
  leBytes 4 1 ++ [1, 1] ++ zeros 18 ++ leBytes 4 6 ++ zeros 36 ++ leBytes 4 1 ++ leBytes 4 1 ++ leBytes 4 1 ++ leBytes 4 0xFFFFFFFF ++ leBytes 4 3 ++ leBytes 4 1 ++
    leBytes 4 2 ++ leBytes 4 0xFFFFFFFF ++ leBytes 4 0 ++ leBytes 4 0xfb33a4eb
def pkHead : Bytes := pkTop ++ (zeros 216 ++ leBytes 4 0xFFFFFFFF)
def pkEntry : Bytes :=
  leBytes 4 0x100 ++ zeros 4 ++ leBytes 16 1 ++ leBytes 4 16 ++ leBytes 2 64 ++ leBytes 2 1 ++ leBytes 4 0xFFFFFFFF ++ zeros 28 ++ leBytes 4 0xc7c2e2e0
def pkSheet : Bytes := leBytes 4 0 ++ leBytes 4 1 ++ zeros 8 ++ leBytes 4 0x8cfeb125
def pkUnit (i : Nat) (b : Bytes) : Nat × Slot := (i, { ns := 1, unit := i, data := wrBytes [] 0 b })
theorem pkUnit_data (i : Nat) (b : Bytes) : (pkUnit i b).2.data = wrBytes [] 0 b := rfl
def sLoad : State :=
  { hand gBase cLoad with gr := { gBase.gr with
      map := (List.range 3).map fun i => (unitKey 1 i, { buf := true, addr := i }), slots := [pkUnit 0 pkHead, pkUnit 1 pkEntry, pkUnit 2 pkSheet] } }
def pkPage (b : Bytes) : Bytes := rdBytes (wrBytes [] 0 b) 0 16384
theorem readRange_page (s : State) (ns u n : Nat) (x : Slot) (b : Bytes) (h1 : s.gr.unread.contains (unitKey ns u) = false)
    (h2 : s.entry? ns u = some { buf := true, addr := n }) (h3 : lget s.gr.slots n = some x) (hd : x.data = wrBytes [] 0 b) (a : Nat) (ha : a = u * 16384) :
    s.readRange ns a 16384 = (s, .ok (pkPage b)) := by
  rw [ha, readRange_slot s ns u n x h1 h2 h3, hd, pkPage]
def pkSecs : List Bytes := [pkPage pkEntry, [], pkPage pkSheet, [], []]

theorem pkPage_eq (b : Bytes) (n : Nat) (hn : n ≤ 16384) (h : ∀ e ∈ wrBytes [] 0 b, e.1 < n) (hb : rdBytes (wrBytes [] 0 b) 0 n = b) :
    ∃ k, pkPage b = b ++ zeros k := by
  refine ⟨16384 - n, ?_⟩
  have e : 16384 = n + (16384 - n) := by omega
  unfold pkPage
  conv => lhs; rw [e]
  rw [rdBytes_add, rdBytes_past _ n h _ (0 + n) (by omega), hb]

/-- Reads past the end give zeros, so that zeros at the end make no difference. -/
theorem sub_pad (b : Bytes) (k o n : Nat) : sub (b ++ zeros k) o n = sub b o n := by
  unfold sub zeros
  rw [List.drop_append, List.take_append]
  simp only [List.drop_replicate, List.take_replicate, List.length_append, List.length_replicate, List.append_assoc, List.replicate_append_replicate,
    List.length_take, List.length_drop]
  congr 2
  omega
theorem fld_pad (b : Bytes) (k o n : Nat) : fld (b ++ zeros k) o n = fld b o n := by unfold fld; rw [sub_pad]
theorem any_zeros (n : Nat) : (zeros n).any (· != 0) = false := by
  induction n with
  | zero => rfl
  | succ n ih => simp [zeros, List.replicate_succ]
theorem sub_past (b : Bytes) (o n : Nat) (h : b.length = o) : sub b o n = zeros n := by
  unfold sub
  rw [List.drop_of_length_le (by omega)]
  simp [zeros]
theorem sections_pad (k : Nat) (b : Bytes) : sections (b ++ zeros k) = sections b := by unfold sections; simp only [fld_pad]
theorem take_head (k : Nat) : (pkHead ++ zeros k).take 0x140 = pkTop ++ zeros 216 := by
  rw [List.take_append_of_le_length (by decide +kernel)]
  decide +kernel
theorem head_crc (k : Nat) : crc32c ((pkHead ++ zeros k).take 0x140) = 0xFFFFFFFF := by
  rw [take_head]
  exact crc_padded pkTop 216 (by decide +kernel)
theorem head_rest (n : Nat) : (sub pkHead 0x144 n).any (· != 0) = false := by rw [sub_past pkHead 0x144 n (by decide +kernel), any_zeros]
theorem head_sound (k : Nat) : headerBad (pkHead ++ zeros k) 80 = false := by
  unfold headerBad
  simp only [fld_pad, sub_pad, sections_pad]
  rw [head_crc k, head_rest]
  decide +kernel
theorem sheetsOf_pad (b : Bytes) (k : Nat) (h : 16 ≤ b.length) (h4 : fld b 4 4 ≠ 0) (h0 : fld b 0 4 = 0) (h1 : fld (b.drop 16) 4 4 = 0) :
    sheetsOf 17 (b ++ zeros k) = [(fld b 4 4, [])] := by
  have e2 : sheetsOf 16 (b.drop 16 ++ zeros k) = [] := by
    unfold sheetsOf
    simp [fld_pad, h1]
  unfold sheetsOf
  have e3 : (b ++ zeros k).drop (16 + 32 * 0) = b.drop 16 ++ zeros k := List.drop_append_of_le_length h
  simp only [fld_pad, h0, e3, e2]
  rw [if_neg (by simp; omega)]
  rfl
theorem load_reads :
    starts sLoad r0 0x60 cLoad ∧ sLoad.mdl.st = 0 ∧ (sLoad.ns? (nsKey 0 1)).isSome = true ∧
    (running sLoad r0).readRange (nsKey 0 (fld cLoad.data 0 2)) (fld cLoad.data 8 6 * 16384) 16384 = (running sLoad r0, .ok (pkPage pkHead)) ∧
    headerBad (pkPage pkHead) ((running sLoad r0).clustersOf 0).length = false := by
  refine ⟨by unfold starts; decide +kernel, rfl, by decide +kernel, ?_, ?_⟩
  · rw [show nsKey 0 (fld cLoad.data 0 2) = 1 by decide +kernel, show fld cLoad.data 8 6 = 0 by decide +kernel]
    exact readRange_page (running sLoad r0) 1 0 0 (pkUnit 0 pkHead).2 pkHead (by decide +kernel) (by decide +kernel) (by decide +kernel) (pkUnit_data _ _) _ (by omega)
  · obtain ⟨k, e⟩ := pkPage_eq pkHead 324 (by decide) (by decide +kernel) (by decide +kernel)
    rw [e, show ((running sLoad r0).clustersOf 0).length = 80 by decide +kernel, head_sound]

theorem head_sections : sections (pkPage pkHead) = [{ ty := 1, pages := 1, first := 1, crc := 0xFFFFFFFF }, { ty := 3, pages := 1, first := 2, crc := 0xFFFFFFFF }] := by
  obtain ⟨k, e⟩ := pkPage_eq pkHead 324 (by decide) (by decide +kernel) (by decide +kernel)
  rw [e, sections_pad]
  decide +kernel
theorem entry_page : (running sLoad r0).readRange 1 16384 16384 = (running sLoad r0, .ok (pkPage pkEntry)) :=
  readRange_page (running sLoad r0) 1 1 1 (pkUnit 1 pkEntry).2 pkEntry (by decide +kernel) (by decide +kernel) (by decide +kernel) (pkUnit_data _ _) _ (by omega)
theorem sheet_page : (running sLoad r0).readRange 1 32768 16384 = (running sLoad r0, .ok (pkPage pkSheet)) :=
  readRange_page (running sLoad r0) 1 2 2 (pkUnit 2 pkSheet).2 pkSheet (by decide +kernel) (by decide +kernel) (by decide +kernel) (pkUnit_data _ _) _ (by omega)
theorem page_crc (b : Bytes) (n : Nat) (hn : n ≤ 16384) (h : ∀ e ∈ wrBytes [] 0 b, e.1 < n) (hb : rdBytes (wrBytes [] 0 b) 0 n = b) (hc : crcRun b 0xFFFFFFFF = 0) :
    crc32c (pkPage b) = 0xFFFFFFFF := by
  obtain ⟨k, e⟩ := pkPage_eq b n hn h hb
  rw [e, crc_padded b k hc]
theorem readSects_two (s : State) (e1 e2 : Bytes) (h1 : s.readRange 1 16384 16384 = (s, .ok e1)) (h2 : s.readRange 1 32768 16384 = (s, .ok e2))
    (c1 : crc32c e1 = 0xFFFFFFFF) (c2 : crc32c e2 = 0xFFFFFFFF) :
    State.readSects 1 0 [{ ty := 1, pages := 1, first := 1, crc := 0xFFFFFFFF }, { ty := 3, pages := 1, first := 2, crc := 0xFFFFFFFF }] s [1, 2, 3, 4, 6] =
      (s, .ok (some [e1, [], e2, [], []])) := by
  simp [State.readSects, State.readSect, h1, h2, c1, c2]
theorem load_sections :
    State.readSects (nsKey 0 (fld cLoad.data 0 2)) (fld cLoad.data 8 6) (sections (pkPage pkHead)) (running sLoad r0) [1, 2, 3, 4, 6] =
      (running sLoad r0, .ok (some pkSecs)) := by
  rw [head_sections, show nsKey 0 (fld cLoad.data 0 2) = 1 by decide +kernel, show fld cLoad.data 8 6 = 0 by decide +kernel]
  exact readSects_two _ _ _ entry_page sheet_page (page_crc pkEntry 68 (by decide) (by decide +kernel) (by decide +kernel) (by decide +kernel))
    (page_crc pkSheet 20 (by decide) (by decide +kernel) (by decide +kernel) (by decide +kernel))

/-- With any count of program images that covers image 0 the package is sound and fits (the layout of images is left open, log 26). -/
theorem witness_ModelResidence_load (h1 : 1 ≤ Config.progCount []) (h2 : Config.progCount [] ≤ 16) :
    ∃ m, (running sLoad r0).parseModel 0 cLoad.data (pkPage pkHead) pkSecs = some m := by
  obtain ⟨k0, e0⟩ := pkPage_eq pkHead 324 (by decide) (by decide +kernel) (by decide +kernel)
  obtain ⟨k1, e1⟩ := pkPage_eq pkEntry 68 (by decide) (by decide +kernel) (by decide +kernel)
  obtain ⟨k2, e2⟩ := pkPage_eq pkSheet 20 (by decide) (by decide +kernel) (by decide +kernel)
  have hs := sheetsOf_pad pkSheet k2 (by decide +kernel) (by decide +kernel) (by decide +kernel) (by decide +kernel)
  have h : (match (running sLoad r0).parseModel 0 cLoad.data (pkPage pkHead) pkSecs with
      | some m => true
      | none => false) = true := by
    unfold pkSecs State.parseModel
    rw [e0, e1, e2]
    simp only [fld_pad, sub_pad, sections_pad, List.getD_cons_zero, List.getD_cons_succ, hs]
    generalize Config.progCount [] = n at h1 h2
    have hn : n = 1 ∨ n = 2 ∨ n = 3 ∨ n = 4 ∨ n = 5 ∨ n = 6 ∨ n = 7 ∨ n = 8 ∨ n = 9 ∨ n = 10 ∨ n = 11 ∨ n = 12 ∨ n = 13 ∨ n = 14 ∨ n = 15 ∨ n = 16 := by omega
    have hm : n ∈ [1, 2, 3, 4, 5, 6, 7, 8, 9, 10, 11, 12, 13, 14, 15, 16] := by simpa using hn
    clear h1 h2 hn hs e0 e1 e2
    revert n
    decide +kernel
  revert h
  cases (running sLoad r0).parseModel 0 cLoad.data (pkPage pkHead) pkSecs with
  | none => simp
  | some m => intro _; exact ⟨m, rfl⟩

/-! ### Memory integrity and repair -/

theorem freeFrame_from (s : State) (g T : Nat) (hT : s.sysFramesOf g < T) (hT2 : T ≤ 32768) (ha : s.allocsOf g = [])
    (hb : ∀ a ∈ s.dram.absent, a / 32768 = g → T ≤ a % 32768) : ∃ f, s.freeFrame g = some f ∧ T ≤ f + 1 ∧ f < 32768 := by
  have free (f : Nat) (hf : f < 32768) (hx : frameKey g f ∉ s.dram.absent) : s.rangeFree g (f * 0x10000) 0x10000 = true := by
    unfold State.rangeFree
    rw [ha]
    simp only [List.all_nil, Bool.and_true, Bool.and_eq_true, decide_eq_true_eq, List.all_eq_true, Bool.or_eq_true, bne_iff_ne, ne_eq]
    refine ⟨by omega, fun a h => ?_⟩
    by_cases h1 : a / 32768 = g
    · have : a % 32768 ≠ f := fun h2 => hx (by rw [show frameKey g f = a by unfold frameKey; omega]; exact h)
      omega
    · exact Or.inl (Or.inl h1)
  have hfree : s.rangeFree g ((T - 1) * 0x10000) 0x10000 = true := free (T - 1) (by omega) fun h => by
    have := hb _ h (by unfold frameKey; omega)
    unfold frameKey at this; omega
  cases h : s.freeFrame g with
  | none =>
    unfold State.freeFrame at h
    rw [List.find?_eq_none] at h
    exact absurd hfree (h (T - 1) (by simp only [List.mem_map, List.mem_range]; exact ⟨32768 - T, by omega, by omega⟩))
  | some f =>
    refine ⟨f, rfl, ?_, ?_⟩
    · by_contra hlt
      unfold State.freeFrame at h
      rw [List.find?_eq_some_iff_append] at h
      obtain ⟨hp, as, bs, hl, hall⟩ := h
      have hm : T - 1 ∈ (List.range (32768 - s.sysFramesOf g)).map (32767 - ·) := by
        simp only [List.mem_map, List.mem_range]; exact ⟨32768 - T, by omega, by omega⟩
      rw [hl] at hm
      have hs : ((List.range (32768 - s.sysFramesOf g)).map (32767 - ·)).Pairwise (· > ·) := by
        rw [List.pairwise_map]
        refine List.Pairwise.imp_of_mem ?_ List.pairwise_lt_range
        intro a b h1 h2 h3
        simp only [List.mem_range] at h1 h2
        omega
      rw [hl] at hs
      rcases List.mem_append.mp hm with h1 | h1
      · exact absurd hfree (by simpa using hall _ h1)
      · rw [List.pairwise_append] at hs
        rcases List.mem_cons.mp h1 with h2 | h2
        · omega
        · have := (List.pairwise_cons.mp hs.2.1).1 _ h2
          omega
    · unfold State.freeFrame at h
      have := List.mem_of_find?_eq_some h
      simp only [List.mem_map, List.mem_range] at this
      omega

theorem takeDonor_from (s : State) (g T : Nat) (hT : s.sysFramesOf g < T) (hT2 : T ≤ 32768) (ha : s.allocsOf g = []) (hr : s.mdl.runs = [])
    (hb : ∀ a ∈ s.dram.absent, a / 32768 = g → T ≤ a % 32768) :
    ∃ t p, s.takeDonor g = (t, some p) ∧ t.sysFramesOf g = s.sysFramesOf g ∧ t.allocsOf g = [] ∧ t.mdl.runs = [] ∧
      ∀ a ∈ t.dram.absent, a / 32768 = g → T ≤ a % 32768 + 1 := by
  obtain ⟨f, hf, h1, h2⟩ := freeFrame_from s g T hT hT2 ha hb
  have hd : State.donor g (2 * (s.allocsOf g).length + 1) s = (s, some f) := by
    rw [ha]
    simp only [List.length_nil, Nat.mul_zero, Nat.zero_add]
    unfold State.donor
    simp only [hf]
  have hturn (u : State) (hu : u.mdl.runs = s.mdl.runs) : u.turnedSince s = u := by
    unfold State.turnedSince
    simp [hu, hr]
  have he : s.takeDonor g = (s.modDram fun x => { x with absent := setIns x.absent (frameKey g f) }, some (s.physFrame g f)) := by
    unfold State.takeDonor
    rw [hd]
    simp only
    rw [hr]
    exact congrArg (·, some (s.physFrame g f)) (hturn _ rfl)
  refine ⟨_, _, he, rfl, ha, hr, fun a h h3 => ?_⟩
  have h4 : a = frameKey g f ∨ a ∈ s.dram.absent := by
    have h5 : a ∈ setIns s.dram.absent (frameKey g f) := h
    unfold setIns at h5
    split at h5
    · exact Or.inr h5
    · exact List.mem_cons.mp h5
  rcases h4 with h5 | h5
  · rw [h5]; unfold frameKey; omega
  · have := hb a h5 h3; omega

theorem takeDonors_from (g n : Nat) : ∀ (s : State) (ds : List Nat) (T : Nat), s.sysFramesOf g + n < T → T ≤ 32768 → s.allocsOf g = [] → s.mdl.runs = [] →
    (∀ a ∈ s.dram.absent, a / 32768 = g → T ≤ a % 32768) → ∃ t es, State.takeDonors g n s ds = (t, some es) := by
  induction n with
  | zero => intro s ds T _ _ _ _ _; exact ⟨s, ds, rfl⟩
  | succ n ih =>
    intro s ds T h1 h2 h3 h4 h5
    obtain ⟨t, p, he, e1, e2, e3, e4⟩ := takeDonor_from s g T (by omega) h2 h3 h4 h5
    obtain ⟨u, es, hu⟩ := ih t (ds ++ [p]) (T - 1) (by omega) (by omega) e2 e3 fun a ha hg => by have := e4 a ha hg; omega
    refine ⟨u, es, ?_⟩
    unfold State.takeDonors
    rw [he]
    exact hu

/-- The same module with its firmware running. -/
def upF : State := { up with svy := { up.svy with run := true } }
def hitRec (f b : Nat) : LineRec := { time := 4999999, chan := 639, frame := f, bank := b, line := 0, ue := true }
/-- A module whose checker has these records. -/
def sRep (rs : List LineRec) : State := { upF with dram := { up.dram with recs := rs } }
def eccHost (s : State) : State := s.modPage (pageNo .ecc) fun p => { p with mode := 1 }
def bankRecs : List LineRec := [hitRec 1 63, hitRec 2 63, hitRec 3 63, hitRec 4 63, hitRec 5 63, hitRec 6 63, hitRec 7 63, hitRec 8 63]

theorem witness_Repair_lines :
    (639 ∉ up.dram.withdrawn ∧ frameKey 639 (0x1FFFFFF / 1024) ∉ up.dram.absent ∧ up.flipAt 639 0x1FFFFFF = false ∧
      ({ up with ecc := { up.ecc with flipArmed := true, flipChan := 639, flipLine := 0x1FFFFFF } } : State).flipAt 639 0x1FFFFFF = true) ∧
    (zeros 64).length = 64 := by decide +kernel

theorem witness_Repair_frames :
    (sRep [hitRec 32767 63]).repairs = true ∧ 639 ∉ (sRep [hitRec 32767 63]).dram.withdrawn ∧ frameKey 639 32767 ∉ (sRep [hitRec 32767 63]).dram.retired ∧
    (sRep [hitRec 32767 63]).frameDue 639 32767 = true ∧ (639, 32767) ∉ (sRep [hitRec 32767 63]).dram.waitRetire ∧
    (eccHost (sRep [hitRec 32767 63])).hostMode .ecc = true ∧ (eccHost (sRep [hitRec 32767 63])).repairs = true ∧
    (eccHost (sRep [hitRec 32767 63])).frameDue 639 32767 = true ∧ (sRep [hitRec 32767 63]).hostMode .ecc = false ∧
    (sRep [hitRec 32767 63]).logFrame 639 32767 = some 32767 ∧ upF.repairs = true ∧ up.frameDue 639 0 = false ∧ up.bankDue 639 63 = false ∧
    (sRep bankRecs).bankDue 639 63 = true ∧ (639, 32768 + 63) ∉ (sRep bankRecs).dram.waitRetire ∧ (sRep bankRecs).repairs = true ∧ ((sRep bankRecs).dram.banks.any fun k => k / 64 == 639) = false ∧
    (sRep bankRecs).hostMode .ecc = false ∧ (eccHost (sRep bankRecs)).hostMode .ecc = true ∧ (eccHost (sRep bankRecs)).bankDue 639 63 = true := by decide +kernel

theorem witness_Repair_donor : ∃ t p, (sRep [hitRec 32767 63]).takeDonor 639 = (t, some p) :=
  have ⟨t, p, h, _⟩ := takeDonor_from (sRep [hitRec 32767 63]) 639 32768 (by decide +kernel) (by decide) (by decide +kernel) rfl (fun _ h => by cases h)
  ⟨t, p, h⟩
theorem witness_Repair_donors : ∃ t ds, State.takeDonors 639 512 (sRep bankRecs) [] = (t, some ds) :=
  takeDonors_from 639 512 (sRep bankRecs) [] 32768 (by decide +kernel) (by decide) (by decide +kernel) rfl (fun _ h => by cases h)

def noSpare (s : State) : State := { s with ecc := { s.ecc with spare := mset 0 s.ecc.spare (dieOf 767) 0 } }
def withSpare (s : State) : State := { s with ecc := { s.ecc with spare := mset 0 s.ecc.spare (dieOf 767) 1 } }

theorem witness_Repair_cores :
    up.alive 6 = true ∧ 767 ∉ up.ecc.coreWd ∧ (up.core 767).bound = false ∧ lget up.fch.invs 767 = none ∧ up.sameHost 767 = [767] ∧ mget 0 (withSpare up).ecc.spare (dieOf 767) ≠ 0 ∧
    mget 0 (noSpare up).ecc.spare (dieOf 767) = 0 ∧ up.asleep = false ∧ spmSize 0 / 256 - 1 < spmSize 0 / 256 ∧
    (∀ i, i < 4 → mget 0 (up.core 0).patch (spmBank 0 (((spmSize 0 / 256 - 1) * 4 + i) * 64)) < 4) ∧
    up.getLine 639 (up.stack (639 / 32)).pos.toNat = (up, some (zeros 64)) ∧ (639 : Nat) % 32 = 31 ∧ (638 : Nat) % 32 ≠ 31 ∧
    (up.stack (639 / 32)).pos.toNat + 1 < 0x2000000 ∧ frameKey 639 ((up.stack (639 / 32)).pos.toNat / 1024) ∉ up.dram.absent := by decide +kernel

theorem witness_Repair_units :
    (((List.range 32).map (639 / 32 * 32 + ·)).any fun k => k != 639 && ! up.dram.withdrawn.contains k) = true ∧ ((up.withdrawCore 639).allocsOf 639) = [] ∧
    19 ∉ up.dram.dead ∧ up.dram.alloc = [] ∧ up.sched.ctxs = [] ∧ up.gz.ixs = [] ∧ up.mdl.st = 0 ∧
    ((List.range 8).map (15 * 8 + ·)).all up.gr.deadChans.contains = false := by decide +kernel

def sFlip (p : Nat) : State :=
  { upF with ecc := { up.ecc with flipChan := 639, diagChan := 639, diagLine := 0x1FFFFFF, retPart := BitVec.ofNat 4 p, retAddr := 639 },
             dram := { up.dram with bad := [(lineKey 639 0x1FFFFFF, { data := zeros 64, chk := [1, 0, 0, 0, 0, 0, 0, 0], noPromise := false })] } }
def sFlip0 : State := { sFlip 0 with dram := up.dram }
def mapAll (p : Nat) (s : State) : State := { s with sched := { s.sched with map := (List.range 96).foldl (fun m k => mset 0 m k p) s.sched.map } }

theorem witness_EccTests :
    (agentOk .surveyor = true ∧ agentOk (.ld 15) = true ∧ (sFlip 0).regsLive = true ∧ (sFlip 0).mayTest .surveyor (sFlip 0).ecc.flipChan.toNat = true ∧
      (mapAll 15 (sFlip 15)).mayTest (.ld 15) (sFlip 15).ecc.flipChan.toNat = true ∧ (mapAll 15 (sFlip 15)).mayTest (.ld 15) ((639 : BitVec 32).toNat % 1024) = true) ∧
    ((sFlip 0).mayTest .surveyor (sFlip 0).ecc.diagChan.toNat = true ∧ (sFlip 0).diagLineOk = true ∧
      (lget (sFlip 0).dram.bad (lineKey (sFlip 0).ecc.diagChan.toNat (sFlip 0).ecc.diagLine.toNat)).isSome = true ∧
      lget sFlip0.dram.bad (lineKey sFlip0.ecc.diagChan.toNat sFlip0.ecc.diagLine.toNat) = none ∧ sFlip0.diagLineOk = true) ∧
    ((sFlip 0).repairs = true ∧ (sFlip 0).mayRetire .surveyor = true ∧ (sFlip 15).mayRetire (.ld 15) = true ∧ (1 : BitVec 32).getLsbD 0 = true ∧
      (sFlip 0).hostMode .ecc = false ∧ (eccHost (sFlip 0)).hostMode .ecc = true ∧ (eccHost (sFlip 0)).repairs = true ∧
      bit (sFlip 0).ecc.retAddr.toNat 31 = false) := by decide +kernel

/-! ### Power, heat and freeze, sideband -/

def offS : State := { up with sys := { up.sys with powered := false } }
def noMedia (s : State) : State := { s with sys := { s.sys with mediaReady := false } }
def sTrip : State := { up with sys := { up.sys with powered := false, tripped := true }, thm := { up.thm with tripClass := 2 } }
def sFrz : State := { noMedia up with frz := { up.frz with frozen := true } }
def hotAt (n : Nat) (q : BitVec 16) (s : State) : State := { s with svy := { s.svy with temp := mset 0 s.svy.temp n q } }

theorem witness_PowerAndFreeze :
    (up.sys.powered = true ∧ gBase.host.wt = false ∧ gBase.sys.powered = true ∧ offS.sys.powered = false ∧ offS.sys.tripped = false ∧ sTrip.sys.tripped = true) ∧
    (up.alive 6 = true ∧ (noMedia gBase).alive 6 = true ∧ (noMedia gBase).sys.mediaReady = false ∧ (noMedia up).sys.powered = true) ∧
    ((∀ n, n < 92 → sensorClass n = sTrip.thm.tripClass → sTrip.tempOf n ≤ 300) ∧ sensorClass 91 = sTrip.thm.tripClass ∧ 300 < (hotAt 91 301 sTrip).tempOf 91) ∧
    (agentOk (.ld 15) = true ∧ up.frz.frozen = false ∧ up.alive 5 = true ∧ ({ up with frz := { up.frz with pinEn := true } } : State).alive 5 = true ∧
      ({ up with frz := { up.frz with pinEn := false } } : State).alive 5 = true ∧ upF.svyActs = true) ∧
    (sFrz.sys.powered = true ∧ sFrz.frz.frozen = true ∧ sFrz.sys.mediaReady = false) := by decide +kernel

def sSide : State := { up with side := { up.side with i3cAddr := some 9 } }

theorem witness_SurveyorAndSideband_firmware :
    (91 < 92 ∧ up.svy.restart = false ∧ up.fbk.lost = [] ∧ upF.fbk.lost = [] ∧ upF.svyActs = true ∧ upF.alive 3 = true ∧ up.alive 2 = true) ∧
    (let s : State := { up with svy := { up.svy with restart := true }, fw := { up.fw with confirmed := true } }
     s.svy.restart = true ∧ s.fw.confirmed = true ∧ s.alive 2 = true) ∧
    (agentOk (.ld 15) = true ∧ up.pwr.droop = false ∧ ({ up with pwr := { up.pwr with droop := true } } : State).pwr.droop = true ∧
      ({ up with host := { up.host with power := 4 } } : State).asleep = true ∧ ({ up with host := { up.host with power := 4 } } : State).alive 6 = true ∧
      up.asleep = false) ∧
    ((hotAt 91 400 upF).overs ≠ [] ∧ (hotAt 91 400 upF).svyActs = true ∧ upF.overs = [] ∧ upF.allCool = true ∧
      9 ≤ ({ upF with pwr := { upF.pwr with riseTicks := 9 } } : State).pwr.riseTicks) := by decide +kernel

theorem witness_SurveyorAndSideband_pins :
    offS.sideUp = false ∧ upF.sideUp = true ∧ upF.sys.recovery = false ∧ (hotAt 91 312 upF).overs = [] ∧ (hotAt 91 312 upF).allCool = false ∧
    ({ upF with svy := { upF.svy with alerts := [0x7001] } } : State).sideUp = true := by decide +kernel

/-! ### Firmware and the boot flash -/

def imgB : Image := { slot := 1, version := 2, svn := 64, n := 1, old := 1, fmt := 3, oldest := 2, digest := [] }
def sFw (f : Fw) (c : Cmd) : State := { hand gBase c with fw := f }
def cStage (p1 : Nat) (bs : Bytes) : Cmd := cObj 0x04 0 p1 0 bs
def pldmS (f : Fw) : State := { upF with fw := f }
def erased8 : State := { up with bfl := { up.bfl with words := [(halfWord 8 32763, erasedWord)] } }

theorem witness_FirmwareUpdate_staging :
    (let s := sFw {} (cStage 1 [])
     s.bflFree = true ∧ starts s r0 0x04 (cStage 1 []) ∧ s.fw.confirmed = false) ∧
    (let s := sFw { confirmed := true } (cStage 0 [])
     s.bflFree = true ∧ starts s r0 0x04 (cStage 0 []) ∧ s.fw.confirmed = true ∧ s.fw.stage ≠ 1 ∧ bit (cStage 0 []).p1 0 = false) ∧
    (let s := sFw { confirmed := true, stage := 2 } (cStage 1 [1])
     s.bflFree = true ∧ starts s r0 0x04 (cStage 1 [1]) ∧ s.fw.confirmed = true ∧ s.fw.stage ≠ 1 ∧ bit (cStage 1 [1]).p1 0 = true ∧ (cStage 1 [1]).p2 = 0 ∧
       (cStage 1 [1]).data.length ≤ imageMax ∧ bit (cStage 1 [1]).p1 1 = false ∧ bit (cStage 3 [1]).p1 1 = true) := by
  unfold starts; decide +kernel

theorem witness_FirmwareUpdate_activate :
    (let s := sFw { confirmed := true } (cObj 0x05 0 0 0 [])
     s.bflFree = true ∧ starts s r0 0x05 (cObj 0x05 0 0 0 []) ∧ (cObj 0x05 0 0 0 []).obj = 0 ∧ s.frz.evtEn = false) ∧
    (let s := sFw { confirmed := true, run := some imgB, floor := 63 } (cObj 0x05 1 0 0 [])
     s.bflFree = true ∧ starts s r0 0x05 (cObj 0x05 1 0 0 []) ∧ (cObj 0x05 1 0 0 []).obj = 1 ∧ s.fw.confirmed = true ∧ s.frz.evtEn = false) ∧
    (let s := pldmS { run := some imgB }
     s.fw.run = some imgB ∧ s.svyActs = true ∧ s.sys.mediaReady = true ∧ s.fw.confirmed = false) ∧
    (let s := pldmS { stage := 1, pldm := true }
     s.sideUp = true ∧ s.bflFree = true ∧ s.fw.stage = 1 ∧ s.fw.pldm = true ∧ s.fw.staged + 1 ≤ imageMax ∧ s.sys.recovery = false) ∧
    (let s := pldmS { stage := 3, confirmed := true }
     s.sideUp = true ∧ s.bflFree = true ∧ s.fw.stage ≠ 1 ∧ s.fw.confirmed = true) := by
  unfold starts; decide +kernel

/-- The status that turns an activation away where nothing is staged. -/
theorem witness_FirmwareUpdate_refused : (sFw { confirmed := true } (cObj 0x05 0 0 0 [])).activateStatus ≠ 0 := by
  unfold State.activateStatus
  simp [sFw]

theorem actLeft_pos (s : State) (h : s.halfUsed 8 32763 = false) : s.actLeft ≠ 0 := by
  unfold State.actLeft State.actVals
  rw [List.length_map]
  have h1 : ((List.range actHalves).filter fun h => s.halfUsed 8 h).length < (List.range actHalves).length := by
    by_contra hn
    have h2 := List.length_filter_le (fun h => s.halfUsed 8 h) (List.range actHalves)
    have h3 := List.length_filter_eq_length_iff.mp (Nat.le_antisymm h2 (Nat.le_of_not_lt hn)) 32763 (by simp [actHalves])
    rw [h] at h3
    cases h3
  rw [List.length_range] at h1
  have : actHalves = 32764 := rfl
  omega

/-- A staged image of format 3 that reads format 2, in the slot that does not run: its header stands in the first words of the slot. -/
def sAct (s : State) : State :=
  { s with fw := { s.fw with stage := 2, run := some imgB, fmt := 2 },
           bfl := { s.bfl with words := [(halfWord 8 32763, erasedWord), (slotCell 0 0, 0), (slotCell 0 1, 0), (slotCell 0 2, 0), (slotCell 0 3, 0x20003)] } }

theorem header_words (s : State) (h0 : s.bflRaw (slotCell 0 0) = 0) (h1 : s.bflRaw (slotCell 0 1) = 0) (h2 : s.bflRaw (slotCell 0 2) = 0)
    (h3 : s.bflRaw (slotCell 0 3) = 0x20003) :
    s.slotBytes 0 0 0x20 = leBytes 8 0 ++ leBytes 8 0 ++ leBytes 8 0 ++ leBytes 8 0x20003 := by
  unfold State.slotBytes
  simp [h0, h1, h2, h3, List.range, List.range.loop, leBytes]

theorem act_status (s : State) (hq : s.host.qps = []) : (sAct s).activateStatus = 0 := by
  have e0 : (sAct s).bflRaw (slotCell 0 0) = 0 := rfl
  have e1 : (sAct s).bflRaw (slotCell 0 1) = 0 := rfl
  have e2 : (sAct s).bflRaw (slotCell 0 2) = 0 := rfl
  have e3 : (sAct s).bflRaw (slotCell 0 3) = 0x20003 := rfl
  have hh := header_words (sAct s) e0 e1 e2 e3
  have hu : (sAct s).halfUsed 8 32763 = false := by
    unfold State.halfUsed State.halfVal
    rw [show (sAct s).bflRaw (halfWord 8 32763) = erasedWord from rfl]
    decide +kernel
  have hl := actLeft_pos (sAct s) hu
  have hs : (sAct s).stageSlot = 0 := rfl
  have hsp (i : Image) : (sAct s).speaksAll i = true := by
    unfold State.speaksAll
    rw [show (sAct s).host.qps = [] from hq]
    rfl
  have hst : (sAct s).fw.stage = 2 := rfl
  have hf : (sAct s).fw.fmt = 2 := rfl
  unfold State.activateStatus
  rw [hs]
  unfold State.imageOf
  rw [hh]
  simp only [hst, hf, hsp]
  rw [if_neg (by decide), if_neg (by decide), if_neg (by decide +kernel), if_neg hl]

/-- A staged image of format 3 that reads format 2 can be activated by command, and over PLDM. -/
theorem witness_FirmwareUpdate_ready :
    (sAct (sFw { confirmed := true } (cObj 0x05 0 0 0 []))).activateStatus = 0 ∧ (sAct upF).activateStatus = 0 ∧ (sAct upF).sideUp = true ∧
    (sAct upF).bflFree = true ∧ (sAct upF).sys.recovery = false :=
  ⟨act_status _ (by decide +kernel), act_status _ (by decide +kernel), by decide +kernel, by decide +kernel, by decide +kernel⟩

def bflS (f : Bfl → Bfl) : State := { upF with bfl := f upF.bfl }
def w10 : BitVec 22 := 81920

theorem witness_BootFlash :
    (agentOk (.ld 15) = true ∧ (bflS id).svyActs = true ∧ (bflS id).bfl.seq = .idle ∧ (0xFFFF5A3C : BitVec 32).toNat % 65536 = 0x5A3C ∧
      (0xC3A5 : BitVec 32).toNat % 65536 ≠ 0x5A3C ∧ (bflS fun b => { b with seq := .key1 7 }).svyActs = true ∧ 327 ≤ 7 + 320 ∧ 7 + 320 < 328) ∧
    (let s := bflS fun b => { b with seq := .command 7 1 true true, word := w10, words := [(markWord 10, validMark), (81920, erasedWord)] }
     10007 ≤ 7 + 10000 ∧ s.bfl.op = none ∧ s.bfl.held = none ∧ s.sectorValid (s.bfl.word.toNat / 8192) = true ∧ 10 ≤ s.bfl.word.toNat / 8192 ∧
       s.bflWord s.bfl.word.toNat = erasedWord ∧ s.svyActs = true) ∧
    (let s := bflS fun b => { b with seq := .command 7 1 true true, word := w10, words := [(markWord 10, 0)] }
     s.sectorValid (s.bfl.word.toNat / 8192) = false ∧ s.svyActs = true) ∧
    (let s := bflS fun b => { b with seq := .command 7 2 true true, word := 65536, data := 0xFFFFFFFF00000000 }
     s.bfl.op = none ∧ s.bfl.held = none ∧ 8 ≤ s.bfl.word.toNat / 8192 ∧ s.bfl.data.setWidth 32 = (0 : BitVec 32) ∧ s.svyActs = true) ∧
    (let o : BflOp := { erase := true, sector := 511 }
     (bflS fun b => { b with op := some o }).svyActs = true ∧ (bflS fun b => { b with op := some o }).bfl.seq = .idle ∧
       (bflS fun b => { b with held := some o }).bfl.op = none ∧ (bflS fun b => { b with held := some o }).bfl.held = some o ∧ (bflS id).bfl.unknown = [] ∧
       (bflS fun b => { b with op := some o }).sys.powered = true ∧ (bflS fun b => { b with op := some o }).frz.frozen = false) := by decide +kernel

/-! ### Security -/

def secS (f : Sec → Sec) : State := { upF with sec := f upF.sec }
def allAlg : AlgSet := { ecdsaP384 := true, sha384 := true, secp384r1 := true, aes256Gcm := true }
def kx : KeyExch := { data := [], mutualRoot := none }
def ses (k : Conn) (o : Bool) : Session := { conn := k, secret := [7], owner := o }
def inNonce (t : Nat) : Nonce := { conn := .sideband, nonce := [1], time := t }
def sClear (t : Nat) (led : List Bytes) : State :=
  { secS fun e => { e with sess := [ses .sideband true], owner := some [3], nonces := [inNonce t] } with fbk := { up.fbk with ledger := led } }

theorem witness_Security_connections :
    connOk (.doe 0) = true ∧ connOk .sideband = true ∧ connOk .fm = true ∧ upF.connUp .sideband = true ∧ upF.connUp (.doe 0) = true ∧
    ({ upF with sys := { upF.sys with switched := true } } : State).connUp .fm = true ∧ ({ upF with sys := { upF.sys with switched := true } } : State).connUp (.doe 15) = true ∧
    (allAlg.ecdsaP384 && allAlg.sha384 && allAlg.secp384r1 && allAlg.aes256Gcm) = true ∧
    (({ allAlg with sha384 := false } : AlgSet).ecdsaP384 && ({ allAlg with sha384 := false } : AlgSet).sha384) = false ∧
    Conn.sideband ∈ (secS fun e => { e with agreed := [.sideband] }).sec.agreed ∧ Conn.sideband ∉ upF.sec.agreed ∧
    ((secS fun e => { e with sigs := [(.sideband, 6, [1])] }).sec.sigs.find? fun e => e.1 == Conn.sideband && e.2.1 == 6) = some (.sideband, 6, [1]) ∧
    (upF.sec.sigs.find? fun e => e.1 == Conn.sideband && e.2.1 == 6) = none := by decide +kernel

theorem witness_Security_signing :
    (let s := secS fun e => { e with agreed := [.sideband], lmsNext := 32767, lmsUsed := 1, tree := 1 }
     s.connUp .sideband = true ∧ .sideband ∈ s.sec.agreed ∧ s.sec.lmsNext < lmsIndices ∧ s.sec.tree = treeOf s.sec.lmsNext) ∧
    (let s := secS fun e => { e with agreed := [.sideband], lmsNext := 32768, lmsUsed := 1, tree := 1, nextTree := 0 }
     s.sec.tree ≠ treeOf s.sec.lmsNext ∧ s.sec.nextTree ≠ treeOf s.sec.lmsNext ∧ s.sec.waiting = [] ∧ s.alive 2 = true) := by decide +kernel

theorem witness_Security_sessions :
    (let s := secS fun e => { e with sess := [ses .sideband false] }
     s.connUp .sideband = true ∧ s.session? .sideband = some (ses .sideband false) ∧ s.ownerSession .sideband = false) ∧
    (upF.sec.owner = none ∧ Conn.doe 0 ≠ .sideband) ∧
    (let s := secS fun e => { e with sess := [ses (.doe 0) true], owner := some [3], keys := true }
     s.connUp (.doe 0) = true ∧ s.sec.owner = some [3] ∧ s.ownerSession (.doe 0) = true ∧ s.media = true ∧ s.ownerSession .sideband = false) ∧
    (Conn.sideband ≠ (if upF.sys.switched then Conn.fm else Conn.doe 0) ∧ Conn.fm = (if upF.sys.switched then Conn.fm else Conn.doe 0)) ∧
    (let s := secS fun e => { e with sess := [ses .fm false], memIde := { key1 := some [1] } }
     ((s.ide true).keyOf true).isSome = true ∧ s.connUp .fm = true ∧ s.session? .fm = some (ses .fm false)) := by decide +kernel

/-- A nonce serves for 60 s, and not one microsecond longer. -/
theorem witness_Security_clear :
    (let s := sClear 0 []
     s.connUp .sideband = true ∧ s.ownerSession .sideband = true ∧ s.sec.clears = [] ∧ s.fbk.ledger.length < 256 ∧ (∀ d ∈ s.host.cmds, d.opcode ≠ 0x0B) ∧
       (s.sec.nonces.any fun x => x.conn == Conn.sideband && x.nonce == [1] && ! x.used && decide (s.sys.now ≤ x.time + 60000000)) = true) ∧
    (let s := { sClear 0 [] with sys := { upF.sys with now := 60000001 } }
     (s.sec.nonces.any fun x => x.conn == Conn.sideband && x.nonce == [1] && ! x.used && decide (s.sys.now ≤ x.time + 60000000)) = false) ∧
    256 ≤ (sClear 0 (List.replicate 256 [])).fbk.ledger.length := by decide +kernel

/-! ### The Field Book -/

def fbRec (n : Nat) : Nat × FbRec := (n, { code := 1, loss := 0, toff := 0, payload := [] })
def sFb (c : Cmd) (f : FieldBook → FieldBook) : State := { hand gBase c with fbk := f gBase.fbk }
def cRead (p1 : Nat) (work : List Nat) : Cmd := { cObj 0x0B 0 p1 0 [] with work := work }
def cTime : Cmd := cObj 0x0A 0 0 0 []

theorem witness_FieldBookRecords :
    (let s : State := { up with fbk := { up.fbk with ready := true, next := 262145, programmed := 262144, recs := [fbRec 1, fbRec 262144] } }
     s.alive 6 = true ∧ s.fbk.ready = true ∧ (s.fbk.recs.find? fun e => decide (s.fbk.programmed ≤ e.1)) = some (fbRec 262144) ∧ 262144 / 16 % 16384 = 0) ∧
    (let s : State := { up with fbk := { up.fbk with ready := true, programmed := 2, recs := [fbRec 1] } }
     s.fbk.ready = true ∧ ∀ e ∈ s.fbk.recs, e.1 < s.fbk.programmed) ∧
    (let c := cRead 0x10001 [3, 1, 1, 1]
     let s := sFb c fun f => { f with recs := [fbRec 1, fbRec 2], next := 3 }
     starts s r0 0x0B c ∧ c.obj = 0 ∧ s.sec.clears = [] ∧ c.work.getD 3 0 ≠ 0 ∧ bit c.p1 16 = true ∧
       (s.fbk.recs.filter fun e => decide (c.work.getD 1 0 ≤ e.1) && decide (e.1 ≤ c.work.getD 2 0)) = fbRec 1 :: []) ∧
    (let c := cRead 1 [1, 0, 0, 0]
     starts (sFb c id) r0 0x0B c ∧ bit c.p1 16 = false ∧ c.work.getD 3 0 = 0) := by unfold starts; decide +kernel

theorem witness_FieldBookRecords_mark :
    (let s := sFb cTime fun f => { f with mark := mset 0 f.mark 0 4000002 }
     starts s r0 0x0A cTime ∧ mget 0 s.fbk.mark r0.part ≠ 0 ∧ s.sys.now + 1 < mget 0 s.fbk.mark r0.part + 1000000) ∧
    (let s := sFb cTime id
     starts s r0 0x0A cTime ∧ mget 0 s.fbk.mark r0.part = 0 ∧ s.frz.evtEn = false) := by unfold starts; decide +kernel

end Sys2Proof.Tests
end

/-! PROOF. Register pages (00 R11; 17 R668 to R670, R677 to R683): what an access does to the state, stated once for each operation that a register
access goes through, and the statement about register reads and writes assembled from these. -/

namespace Sys2Proof.Machine

open Sys2Proof.Claims

/-! ### What a register access depends on -/

theorem offset_page (n o : Nat) (h : o < 4096) : (n * 4096 + o) / 4096 = n := by omega

theorem offset_in_page (n o : Nat) (h : o < 4096) : (n * 4096 + o) % 4096 = o := by omega

theorem acts_congr {s t : State} (w : Agent) (hsys : t.sys = s.sys) (hfrz : t.frz = s.frz) (hsvy : t.svy = s.svy) : t.acts w = s.acts w := by
  simp only [State.acts, State.svyActs, State.ldUp, State.alive, hsys, hfrz, hsvy]

theorem mayRead_congr {s t : State} (h : t.sched = s.sched) : t.mayRead = s.mayRead := by
  have hc : t.ownerClu = s.ownerClu := by funext k; simp only [State.ownerClu, h]
  funext p b
  simp only [State.mayRead, State.ownerCore, hc]

theorem pageFor_congr {s t : State} (w : Agent) (n : Nat) (h : t.sched = s.sched) : t.pageFor w n = s.pageFor w n := by
  simp only [State.pageFor, mayRead_congr h]

theorem core_congr {s t : State} (h : t.cores = s.cores) (c : Nat) : t.core c = s.core c := by
  simp only [State.core, h]

theorem page_congr {s t : State} (h : t.pages = s.pages) (n : Nat) : t.page n = s.page n := by
  simp only [State.page, h]

/-! ### A core's page as it is read (01 R40; 02 R86) -/

theorem countSteps_frame (s : State) (c : Nat) : { s.countSteps c with cores := s.cores, free := s.free } = s := rfl

theorem core_countSteps (s : State) (c d : Nat) :
    (s.countSteps c).core d =
      if d = c then { s.core c with steps := (s.core c).steps + w64 (Config.freeNat s.free % (2 ^ 64 - (s.core c).steps.toNat)) } else s.core d :=
  (core_congr (t := s.countSteps c) rfl d).trans (core_modCore s c d fun k =>
    { k with steps := k.steps + w64 (Config.freeNat s.free % (2 ^ 64 - k.steps.toNat)) })

/-- Stalled steps are added below the counter's top, so that the sum does not wrap. -/
theorem steps_le_add (x : BitVec 64) (k : Nat) : x.toNat ≤ (x + w64 (k % (2 ^ 64 - x.toNat))).toNat := by
  have hx := x.isLt
  have hk : k % (2 ^ 64 - x.toNat) < 2 ^ 64 - x.toNat := Nat.mod_lt _ (by omega)
  rw [w64, BitVec.toNat_add, BitVec.toNat_ofNat, Nat.mod_eq_of_lt (by omega), Nat.mod_eq_of_lt (by omega)]
  omega

/-- The state that `coreSeen` starts from: the steps of an idle core that has run none are not counted. -/
def State.coreCounted (s : State) (c : Nat) : State := if (s.core c).run = .idle ∧ (s.core c).steps = 0 then s else s.countSteps c

theorem coreCounted_frame (s : State) (c : Nat) : { s.coreCounted c with cores := s.cores, free := s.free } = s := by
  unfold State.coreCounted
  split
  · rfl
  · exact countSteps_frame s c

theorem core_coreCounted_of_ne (s : State) {c d : Nat} (h : d ≠ c) : (s.coreCounted c).core d = s.core d := by
  unfold State.coreCounted
  split
  · rfl
  · rw [core_countSteps, if_neg h]

/-- Counting a core's stalled steps changes its count of steps alone, which does not fall. -/
theorem core_coreCounted_self (s : State) (c : Nat) :
    { (s.coreCounted c).core c with steps := (s.core c).steps } = s.core c ∧ (s.core c).steps.toNat ≤ ((s.coreCounted c).core c).steps.toNat := by
  unfold State.coreCounted
  split
  · exact ⟨rfl, Nat.le_refl _⟩
  · rw [core_countSteps, if_pos rfl]
    exact ⟨rfl, steps_le_add _ _⟩

/-- What the time since the last reading may have left on a core's page: a longest wait of at most 16 steps, and a stop that has come to its saving; how much
of each is free. -/
def Core.waited (k : Core) (n m : Nat) : Core :=
  { k with
    bankWait := if k.ran then BitVec.ofNat 5 (max k.bankWait.toNat (n % 17)) else k.bankWait
    run := if k.run == .stopping && m % 2 == 1 then .saving else k.run }

theorem waited_bankWait (k : Core) (n m : Nat) (h : k.bankWait.toNat ≤ 16) :
    k.bankWait.toNat ≤ (k.waited n m).bankWait.toNat ∧ (k.waited n m).bankWait.toNat ≤ 16 := by
  simp only [Core.waited]
  split
  · rw [BitVec.toNat_ofNat, Nat.mod_eq_of_lt (by omega)]
    omega
  · exact ⟨Nat.le_refl _, h⟩

/-- A reading counts the core's steps and then finds its waits. -/
theorem coreSeen_cores (s : State) (c : Nat) :
    (s.coreSeen c).cores = ((s.coreCounted c).modCore c fun k =>
      k.waited (Config.freeNat (s.coreCounted c).free) (Config.freeNat ((s.coreCounted c).free + 1))).cores := rfl

theorem coreSeen_frame (s : State) (c : Nat) : { s.coreSeen c with cores := s.cores, free := s.free } = s :=
  coreCounted_frame s c

theorem core_coreSeen_of_ne (s : State) {c d : Nat} (h : d ≠ c) : (s.coreSeen c).core d = s.core d := by
  rw [core_congr (coreSeen_cores s c), core_modCore, if_neg h, core_coreCounted_of_ne s h]

theorem core_coreSeen_self (s : State) (c : Nat) : ∃ n m, (s.coreSeen c).core c = ((s.coreCounted c).core c).waited n m := by
  rw [core_congr (coreSeen_cores s c), core_modCore, if_pos rfl]
  exact ⟨_, _, rfl⟩

theorem coreSeen_arch (s : State) (c : Nat) : ((s.coreSeen c).core c).arch = (s.core c).arch := by
  obtain ⟨n, m, h⟩ := core_coreSeen_self s c
  rw [h]
  exact (congrArg Core.arch (core_coreCounted_self s c).1 :)

theorem coreSeen_steps_le (s : State) (c : Nat) : (s.core c).steps.toNat ≤ ((s.coreSeen c).core c).steps.toNat := by
  obtain ⟨n, m, h⟩ := core_coreSeen_self s c
  rw [h]
  exact (core_coreCounted_self s c).2

theorem coreSeen_bankWait (s : State) (c : Nat) (hb : (s.core c).bankWait.toNat ≤ 16) :
    (s.core c).bankWait.toNat ≤ ((s.coreSeen c).core c).bankWait.toNat ∧ ((s.coreSeen c).core c).bankWait.toNat ≤ 16 := by
  obtain ⟨n, m, h⟩ := core_coreSeen_self s c
  have hw : ((s.coreCounted c).core c).bankWait = (s.core c).bankWait := (congrArg Core.bankWait (core_coreCounted_self s c).1 :)
  rw [h, ← hw]
  exact waited_bankWait _ n m (by rwa [hw])

theorem seen_of_not_core (s : State) {b : Blk} (h : ∀ c, b ≠ .core c) : s.seen b = s := by
  cases b with
  | core c => exact absurd rfl (h c)
  | _ => rfl

theorem seen_frame (s : State) (b : Blk) : { s.seen b with cores := s.cores, free := s.free } = s := by
  cases b with
  | core c => exact coreSeen_frame s c
  | _ => rfl

theorem seen_sys (s : State) (b : Blk) : (s.seen b).sys = s.sys := (congrArg State.sys (seen_frame s b) :)
theorem seen_frz (s : State) (b : Blk) : (s.seen b).frz = s.frz := (congrArg State.frz (seen_frame s b) :)
theorem seen_svy (s : State) (b : Blk) : (s.seen b).svy = s.svy := (congrArg State.svy (seen_frame s b) :)
theorem seen_sched (s : State) (b : Blk) : (s.seen b).sched = s.sched := (congrArg State.sched (seen_frame s b) :)
theorem seen_host (s : State) (b : Blk) : (s.seen b).host = s.host := (congrArg State.host (seen_frame s b) :)
theorem seen_latch (s : State) (b : Blk) : (s.seen b).latch = s.latch := (congrArg State.latch (seen_frame s b) :)

/-! ### Reading (17 R668 to R670) -/

/-- The state once the HI half of a LO register is latched. -/
def State.latched (s : State) (b : Blk) (o : Nat) : State := { s with latch := lset s.latch (latchKey b o) (s.pageReg b (o + 4)) }

theorem readReg_lo (s : State) {b : Blk} {o : Nat} (h : isHi b (o + 4) = true) : s.readReg b o = (s.latched b o, s.pageReg b o) := by
  simp only [State.readReg, State.latched, h, if_true]

theorem readReg_hi_latched {s : State} {b : Blk} {o : Nat} {l : NMap (BitVec 32)} {x : BitVec 32} (h : isHi b (o + 4) = true) (h8 : isHi b (o + 8) = false)
    (hl : s.latch = lset l (latchKey b o) x) : s.readReg b (o + 4) = (s, x) := by
  have hx : lget s.latch (latchKey b o) = some x := by rw [hl, lget_lset, if_pos rfl]
  simp only [State.readReg, h, h8, Nat.add_sub_cancel, hx, if_true, Bool.false_eq_true, if_false, Option.getD_some]

theorem readReg_plain (s : State) {b : Blk} {o : Nat} (h : isHi b o = false) (h4 : isHi b (o + 4) = false) : s.readReg b o = (s, s.pageReg b o) := by
  simp only [State.readReg, h, h4, Bool.false_eq_true, if_false]

theorem leBytes_zero_word : leBytes 4 (0 : BitVec 32).toNat = [0, 0, 0, 0] := by decide

/-- A register's value goes to the reader as four bytes; a reading uses two free values. -/
def State.replyReg (r : State × BitVec 32) : State := { r.1 with free := r.1.free + 2 }.modHost fun h => { h with reply := leBytes 4 r.2.toNat }

theorem exec_registerLoRead {s : State} {w : Agent} {n o : Nat} {b : Blk} (hr : reaches s w n b) (ho : o < 4096) (h4 : o % 4 = 0) :
    exec (.registerLoRead w (n * 4096 + o)) s = .next (State.replyReg ((s.seen b).readReg b o)) := by
  obtain ⟨hw, ha, hp⟩ := hr
  have hword : o / 4 * 4 = o := by omega
  show execRegisterLoRead w (n * 4096 + o) s = _
  simp only [execRegisterLoRead, guardUnit_pos hw, ha, offset_page n o ho, offset_in_page n o ho, hp, hword]
  rfl

theorem exec_registerLoRead_noPage {s : State} {w : Agent} {n o : Nat} (hw : agentOk w = true) (ha : s.acts w = true) (hp : s.pageFor w n = none)
    (ho : o < 4096) : exec (.registerLoRead w (n * 4096 + o)) s = .next (State.replyReg (s, 0)) := by
  show execRegisterLoRead w (n * 4096 + o) s = _
  simp only [execRegisterLoRead, guardUnit_pos hw, ha, offset_page n o ho, hp]
  rfl

/-- A reading leaves its reader where it was: what a register access depends on is no part of what a reading changes. -/
theorem reaches_replyReg_latched {s : State} {w : Agent} {n : Nat} {b : Blk} (hr : reaches s w n b) (o : Nat) (v : BitVec 32) :
    reaches (State.replyReg ((s.seen b).latched b o, v)) w n b := by
  obtain ⟨hw, ha, hp⟩ := hr
  refine ⟨hw, ?_, ?_⟩
  · rw [← ha]
    exact acts_congr w (seen_sys s b) (seen_frz s b) (seen_svy s b)
  · rw [← hp]
    exact pageFor_congr w n (seen_sched s b)

theorem registerLoRead_plain {s : State} {w : Agent} {n o : Nat} {b : Blk} (hr : reaches s w n b) (ho : o < 4096) (h4 : o % 4 = 0)
    (hh : isHi b o = false) (hn : isHi b (o + 4) = false) :
    ∃ t, exec (.registerLoRead w (n * 4096 + o)) s = .next t ∧ t.host.reply = leBytes 4 ((s.seen b).pageReg b o).toNat ∧
      { t with free := (s.seen b).free, host := { t.host with reply := s.host.reply } } = s.seen b := by
  refine ⟨_, exec_registerLoRead hr ho h4, ?_, ?_⟩ <;> rw [readReg_plain _ hh hn]
  · rfl
  · rw [← seen_host s b]
    rfl

theorem registerLoRead_latches_hi {s : State} {w : Agent} {n o : Nat} {b : Blk} (hr : reaches s w n b) (h4 : o % 4 = 0) (ho : o + 4 < 4096)
    (hn : isHi b (o + 4) = true) (hnn : isHi b (o + 8) = false) :
    ∃ t v, exec (.registerLoRead w (n * 4096 + o)) s = .next t ∧ t.host.reply = leBytes 4 ((s.seen b).pageReg b o).toNat ∧
      exec (.registerLoRead w (n * 4096 + (o + 4))) t = .next v ∧ v.host.reply = leBytes 4 ((s.seen b).pageReg b (o + 4)).toNat := by
  have h1 := exec_registerLoRead hr (show o < 4096 by omega) h4
  rw [readReg_lo _ hn] at h1
  have h2 := exec_registerLoRead (reaches_replyReg_latched hr o ((s.seen b).pageReg b o)) ho (by omega)
  rw [readReg_hi_latched hn hnn (seen_latch _ b)] at h2
  exact ⟨_, _, h1, rfl, h2, rfl⟩

theorem pageReg_errCnt (s : State) (b : Blk) : s.pageReg b 0x01C = (s.page (pageNo b)).errCnt :=
  (BitVec.ofNat_toNat 32 _).trans (BitVec.setWidth_eq _)

theorem pageReg_evtSts (s : State) (b : Blk) : s.pageReg b 0x010 = (s.page (pageNo b)).evtSts :=
  (BitVec.ofNat_toNat 32 _).trans (BitVec.setWidth_eq _)

/-! ### Page headers -/

theorem modPage_page_self (s : State) (n : Nat) (f : Page → Page) : (s.modPage n f).page n = f (s.page n) := by
  rw [page_modPage, if_pos rfl]

theorem modPage_page_of_ne (s : State) {n m : Nat} (f : Page → Page) (h : m ≠ n) : (s.modPage n f).page m = s.page m := by
  rw [page_modPage, if_neg h]

theorem modPage_onlyPages (s : State) (n : Nat) (f : Page → Page) : onlyPages s (s.modPage n f) := rfl

/-! ### Writing the header (00 R11; 17 R678) -/

theorem exec_registerWrite_head {s : State} {w : Agent} {n o : Nat} {b : Blk} (v : BitVec 32) (hr : reaches s w n b) (ho : o < 0x100) (h4 : o % 4 = 0) :
    exec (.registerWrite w (n * 4096 + o) v) s = .next (s.putHead' w b o v) := by
  obtain ⟨hw, ha, hp⟩ := hr
  show execRegisterWrite w (n * 4096 + o) v s = _
  simp [execRegisterWrite, guardUnit_pos hw, offset_page n o (by omega), offset_in_page n o (by omega), hp, ha, h4, ho]

theorem exec_registerWrite_noPage {s : State} {w : Agent} {n o : Nat} (v : BitVec 32) (hw : agentOk w = true) (hp : s.pageFor w n = none) (ho : o < 4096) :
    exec (.registerWrite w (n * 4096 + o) v) s = .next s := by
  show execRegisterWrite w (n * 4096 + o) v s = _
  simp only [execRegisterWrite, guardUnit_pos hw, offset_page n o ho, hp]

theorem putHead_evtSts (s : State) {w : Agent} {b : Blk} (v : BitVec 32) (hm : mayWrite w b = true) :
    s.putHead' w b 0x010 v = s.modPage (pageNo b) fun g => { g with evtSts := g.evtSts &&& ~~~v } :=
  if_pos hm

theorem onPage_reached {s : State} {w : Agent} {n : Nat} {b : Blk} (f : Blk → State → State) (hr : reaches s w n b) :
    onPage w n f s = .next (f b s) := by
  obtain ⟨hw, ha, hp⟩ := hr
  simp only [onPage, guardUnit_pos hw, hp, ha, if_true]

/-! ### MODE (17 R682, R683) -/

theorem putMode_refused (s : State) {b : Blk} {m : Nat} (h : 2 ≤ m ∨ (m = 1 ∧ modeHa b = false)) : s.putMode b m = s.countErr b :=
  if_pos (by simpa using h)

/-- A page without handles to close and whose setting is kept. -/
theorem putMode_set (s : State) {b : Blk} {m : Nat} (h2 : m < 2) (hha : m = 1 → modeHa b = true) (hg : b ≠ .grt 0) (hq : ∀ c, b ≠ .qnt c) :
    s.putMode b m =
      { s.modPage (pageNo b) fun g => { g with mode := BitVec.ofNat 2 m } with
        stored := { s.stored with modes := mset 0 s.stored.modes (pageNo b) (BitVec.ofNat 2 m) } } := by
  have hok : ¬ (2 ≤ m ∨ (m = 1 ∧ (!modeHa b) = true)) := by
    rintro (h | ⟨h1, h⟩)
    · omega
    · simp [hha h1] at h
  have hgrt : (b == .grt 0) = false := by simpa using hg
  unfold State.putMode
  rw [if_neg hok]
  simp only [hgrt, Bool.false_and, Bool.false_eq_true, if_false]
  rfl

theorem exec_modeWrite_surveyor {s : State} {n : Nat} {b : Blk} {v : BitVec 32} (hr : reaches s .surveyor n b) (hv : v.getLsbD 31 = false) :
    exec (.modeWrite .surveyor n v) s = .next (s.putMode b (v.toNat / 2 % 4)) := by
  refine (onPage_reached (fun b t => t.putCtl .surveyor b v) hr).trans ?_
  simp only [State.putCtl, hv, Bool.false_eq_true, if_false]

/-! ### Soft reset (17 R680) -/

theorem chooseG_pages (s : State) : s.chooseG.pages = s.pages := by
  unfold State.chooseG
  split <;> rfl

theorem capStep_pages (s : State) (f : State → State) (h : (f s).pages = s.pages) : (s.capStep f).pages = s.pages := by
  unfold State.capStep
  simp only
  split
  · exact h
  · rw [chooseG_pages, h]

theorem rowState_execHold_pages (s : State) (c : Nat) (on : Bool) : (rowState (execHold c on) s).pages = s.pages := by
  unfold rowState execHold guardUnit
  cases coreOk c <;> cases s.alive 6 <;> rfl

/-- But for the host's page, whose energy check may raise an event, the block's own registers are no part of a page header. -/
theorem srstBlk_pages (s : State) {b : Blk} (h : b ≠ .hst) : (s.srstBlk b).pages = s.pages := by
  cases b with
  | hst => exact absurd rfl h
  | core c => exact rowState_execHold_pages s c false
  | pwr => exact capStep_pages s _ rfl
  | atl i => simp only [State.srstBlk]; split <;> rfl
  | grt i => simp only [State.srstBlk]; split <;> rfl
  | _ => rfl

theorem softReset_inService (s : State) {b : Blk} (h : s.unitOut b = false) :
    s.softReset b = (s.modPage (pageNo b) fun g => { g with evtSts := 0, evtOff := 0, errCnt := 0 }).srstBlk b := by
  unfold State.softReset
  simp only [h, Bool.false_eq_true, if_false]

theorem softReset_page (s : State) {b : Blk} (hu : s.unitOut b = false) (hb : b ≠ .hst) :
    (s.softReset b).page (pageNo b) = { mode := (s.page (pageNo b)).mode } := by
  rw [softReset_inService s hu, page_congr (srstBlk_pages _ hb), modPage_page_self]

/-! ### Forced events (17 R678) -/

/-- The event bits that setting the bits of a list leaves. -/
def setBits (x : BitVec 32) (l : List Nat) : BitVec 32 := l.foldl (fun y i => y ||| BitVec.ofNat 32 (2 ^ i)) x

theorem getLsbD_ofNat_two_pow (i j : Nat) : (BitVec.ofNat 32 (2 ^ i)).getLsbD j = (decide (j < 32) && decide (j = i)) := by
  rw [BitVec.getLsbD_ofNat, Nat.testBit_two_pow]
  simp only [eq_comm (a := i)]

theorem getLsbD_setBits (l : List Nat) (x : BitVec 32) (j : Nat) : (setBits x l).getLsbD j = (x.getLsbD j || (decide (j < 32) && decide (j ∈ l))) := by
  induction l generalizing x with
  | nil => simp [setBits]
  | cons i r ih =>
    refine (ih _).trans ?_
    rw [BitVec.getLsbD_or, getLsbD_ofNat_two_pow]
    simp [Bool.and_or_distrib_left, Bool.or_assoc]

theorem setBits_filter_range (x m : BitVec 32) : setBits x ((List.range 32).filter fun i => m.getLsbD i) = x ||| m := by
  refine BitVec.eq_of_getLsbD_eq fun j hj => ?_
  rw [getLsbD_setBits, BitVec.getLsbD_or]
  simp [hj]

/-- A bit that stands is set already. -/
theorem or_two_pow_of_and_ne_zero {x : BitVec 32} {i : Nat} (h : x &&& BitVec.ofNat 32 (2 ^ i) ≠ 0) : x ||| BitVec.ofNat 32 (2 ^ i) = x := by
  have hi : x.getLsbD i = true := by
    by_contra hn
    refine h (BitVec.eq_of_getLsbD_eq fun j hj => ?_)
    rw [BitVec.getLsbD_and, getLsbD_ofNat_two_pow]
    by_cases hij : j = i
    · subst hij; simp [hn]
    · simp [hij]
  refine BitVec.eq_of_getLsbD_eq fun j hj => ?_
  rw [BitVec.getLsbD_or, getLsbD_ofNat_two_pow]
  by_cases hij : j = i
  · subst hij; simp [hi]
  · simp [hij]

theorem sendMsi_foldl_pages (l : List Nat) (v : Nat) (s : State) : (l.foldl (fun u p => u.sendMsi p v) s).pages = s.pages :=
  (congrArg State.pages (sendMsi_foldl_frame l v s) :)

/-- A set event bit stands in EVT_STS, and the rest of the header is as it was: a forced event counts no error. -/
theorem setEvt_page (s : State) (b : Blk) (i : Nat) :
    (s.setEvt b i).page (pageNo b) = { s.page (pageNo b) with evtSts := (s.page (pageNo b)).evtSts ||| BitVec.ofNat 32 (2 ^ i) } := by
  unfold State.setEvt
  simp only
  split
  · next h => rw [or_two_pow_of_and_ne_zero h]
  · split
    · exact modPage_page_self s _ _
    · rw [page_congr (sendMsi_foldl_pages _ _ _)]
      exact modPage_page_self s _ _

theorem setEvt_foldl_page (l : List Nat) (b : Blk) (s : State) :
    (l.foldl (fun t i => t.setEvt b i) s).page (pageNo b) = { s.page (pageNo b) with evtSts := setBits (s.page (pageNo b)).evtSts l } := by
  induction l generalizing s with
  | nil => rfl
  | cons i r ih => rw [List.foldl_cons, ih, setEvt_page]; rfl

theorem setEvt_foldl_fbk (l : List Nat) (b : Blk) (s : State) : (l.foldl (fun t i => t.setEvt b i) s).fbk = s.fbk := by
  induction l generalizing s with
  | nil => rfl
  | cons i r ih => rw [List.foldl_cons, ih]; exact (congrArg State.fbk (setEvt_frame s b i) :)

theorem forceEvt_page (s : State) (b : Blk) (v : BitVec 32) :
    (s.forceEvt b v).page (pageNo b) = { s.page (pageNo b) with evtSts := (s.page (pageNo b)).evtSts ||| (evtBits b &&& v) } := by
  unfold State.forceEvt
  rw [setEvt_foldl_page, setBits_filter_range]

theorem forceEvt_fbk (s : State) (b : Blk) (v : BitVec 32) : (s.forceEvt b v).fbk = s.fbk := setEvt_foldl_fbk _ b s

/-! ### The statement -/

theorem registerWrite_evtSts {s : State} {w : Agent} {n : Nat} {b : Blk} (v : BitVec 32) (hr : reaches s w n b) (hm : mayWrite w b = true) :
    ∃ t, exec (.registerWrite w (n * 4096 + 0x010) v) s = .next t ∧
      t.page (pageNo b) = { s.page (pageNo b) with evtSts := (s.page (pageNo b)).evtSts &&& ~~~v } ∧ (∀ m, m ≠ pageNo b → t.page m = s.page m) ∧
      onlyPages s t := by
  refine ⟨_, exec_registerWrite_head v hr (by omega) rfl, ?_⟩
  rw [putHead_evtSts s v hm]
  exact ⟨modPage_page_self .., fun m hne => modPage_page_of_ne s _ hne, modPage_onlyPages ..⟩

theorem modeWrite_set {s : State} {n : Nat} {b : Blk} {v : BitVec 32} (hr : reaches s .surveyor n b) (hv : v.getLsbD 31 = false)
    (h2 : v.toNat / 2 % 4 < 2) (hha : v.toNat / 2 % 4 = 1 → modeHa b = true) (hg : b ≠ .grt 0) (hq : ∀ c, b ≠ .qnt c) :
    ∃ t, exec (.modeWrite .surveyor n v) s = .next t ∧
      t.page (pageNo b) = { s.page (pageNo b) with mode := BitVec.ofNat 2 (v.toNat / 2 % 4) } ∧
      mget 0 t.stored.modes (pageNo b) = BitVec.ofNat 2 (v.toNat / 2 % 4) ∧ (∀ m, m ≠ pageNo b → t.page m = s.page m) ∧
      { t with pages := s.pages, stored := { t.stored with modes := s.stored.modes } } = s := by
  refine ⟨_, exec_modeWrite_surveyor hr hv, ?_⟩
  rw [putMode_set s h2 hha hg hq]
  exact ⟨mget_mset_self .., mget_mset_self .., fun m hne => mget_mset_of_ne _ _ _ hne, rfl⟩

theorem modeWrite_refused {s : State} {n : Nat} {b : Blk} {v : BitVec 32} (hr : reaches s .surveyor n b) (hv : v.getLsbD 31 = false)
    (hm : 2 ≤ v.toNat / 2 % 4 ∨ (v.toNat / 2 % 4 = 1 ∧ modeHa b = false)) :
    ∃ t, exec (.modeWrite .surveyor n v) s = .next t ∧
      t.page (pageNo b) = { s.page (pageNo b) with errCnt := satBv (s.page (pageNo b)).errCnt 1 } ∧ (∀ m, m ≠ pageNo b → t.page m = s.page m) ∧
      onlyPages s t := by
  refine ⟨_, exec_modeWrite_surveyor hr hv, ?_⟩
  rw [putMode_refused s hm]
  exact ⟨modPage_page_self .., fun m hne => modPage_page_of_ne s _ hne, modPage_onlyPages ..⟩

theorem srst_surveyor {s : State} {n : Nat} {b : Blk} (hr : reaches s .surveyor n b) (hu : s.unitOut b = false) (hb : b ≠ .hst) :
    ∃ t, exec (.srst .surveyor n) s = .next t ∧ t.page (pageNo b) = { mode := (s.page (pageNo b)).mode } ∧
      (b = .thm → t.thm.jthr = 0x64 ∧ t.thm.dthr = 0x5F ∧ t.thm.nthr = 0x50 ∧ t.thm.trips = s.thm.trips) := by
  refine ⟨s.softReset b, onPage_reached _ hr, softReset_page s hu hb, ?_⟩
  rintro rfl
  rw [softReset_inService s hu]
  exact ⟨rfl, rfl, rfl, rfl⟩

theorem evtForce_surveyor {s : State} {n : Nat} {b : Blk} (v : BitVec 32) (hr : reaches s .surveyor n b) :
    ∃ t, exec (.evtForce .surveyor n v) s = .next t ∧ (t.page (pageNo b)).evtSts = (s.page (pageNo b)).evtSts ||| (evtBits b &&& v) ∧
      (t.page (pageNo b)).errCnt = (s.page (pageNo b)).errCnt ∧ t.fbk = s.fbk := by
  refine ⟨s.forceEvt b v, onPage_reached _ hr, ?_, ?_, forceEvt_fbk s b v⟩ <;> rw [forceEvt_page]

/-- Settles O33: each clause is what one access does, by the lemma about the operation that the access goes through. -/
theorem registerAndPageAccesses : Obligations.RegisterAndPageAccesses := by
  refine ⟨⟨?_, ?_, ?_, ?_, ?_⟩, ?_⟩
  · intro s w n o b hr ho h4
    exact ⟨registerLoRead_plain hr ho h4, fun ho4 hn hnn _ => registerLoRead_latches_hi hr h4 ho4 hn hnn⟩
  · intro s b
    refine ⟨seen_of_not_core s, ?_⟩
    rintro c rfl
    exact ⟨coreSeen_frame s c, fun _ hd => core_coreSeen_of_ne s hd, coreSeen_steps_le s c, coreSeen_arch s c, coreSeen_bankWait s c⟩
  · intro s w n o hw ha hp ho
    exact ⟨⟨_, exec_registerLoRead_noPage hw ha hp ho, leBytes_zero_word⟩, fun v => exec_registerWrite_noPage v hw hp ho⟩
  · exact fun s b => ⟨pageReg_errCnt s b, pageReg_evtSts s b⟩
  · exact fun s w n b v hr hm => registerWrite_evtSts v hr hm
  · intro s n b v hr hv
    exact ⟨modeWrite_set hr hv, modeWrite_refused hr hv, srst_surveyor hr, evtForce_surveyor v hr⟩

end Sys2Proof.Machine

/-! PROOF. Instruction words (02 R64 to R66, Tables 2.5 to 2.9; 03 R141): the fields of a laid word read back, a word is laid again from its fields, and
what each class of words decodes to, stated once for every class. -/

namespace Sys2Proof

open Sys2Proof.Claims

/-! ### Fields of a laid word -/

theorem wordBits_layWord_class (cls : BitVec 4) (g : Guard) (op : BitVec 6) (b : BitVec 50) : wordBits (layWord cls g op b) 60 4 = cls := by
  simp (disch := decide) only [wordBits, layWord, BitVec.extractLsb'_append_eq_of_le]
  exact BitVec.extractLsb'_eq_self

theorem wordBits_layWord_op (cls : BitVec 4) (g : Guard) (op : BitVec 6) (b : BitVec 50) : wordBits (layWord cls g op b) 50 6 = op := by
  simp (disch := decide) only [wordBits, layWord, BitVec.extractLsb'_append_eq_of_le, BitVec.extractLsb'_append_eq_of_add_le]
  exact BitVec.extractLsb'_eq_self

theorem guardOf_layWord (cls : BitVec 4) (g : Guard) (op : BitVec 6) (b : BitVec 50) : guardOf (layWord cls g op b) = g := by
  have hgp : wordBits (layWord cls g op b) 57 3 = g.gp := by
    simp (disch := decide) only [wordBits, layWord, BitVec.extractLsb'_append_eq_of_le, BitVec.extractLsb'_append_eq_of_add_le]
    exact BitVec.extractLsb'_eq_self
  have hgs : (layWord cls g op b).getLsbD 56 = g.gs := by
    rw [layWord, BitVec.getLsbD_append, if_neg (by decide), BitVec.getLsbD_append, if_neg (by decide), BitVec.getLsbD_append, if_pos (by decide)]
    simp
  simp only [guardOf, hgp, hgs]

/-- Bits below 50 of a laid word are those of its body. -/
theorem wordBits_layWord_body (cls : BitVec 4) (g : Guard) (op : BitVec 6) (b : BitVec 50) {lo n : Nat} (h : lo + n ≤ 50) :
    wordBits (layWord cls g op b) lo n = b.extractLsb' lo n := by
  simp only [wordBits, layWord, BitVec.extractLsb'_append_eq_of_add_le h]

theorem getLsbD_eq_wordBits (w : BitVec 64) (i : Nat) : w.getLsbD i = (wordBits w i 1).getLsbD 0 := by
  simp [wordBits]

theorem ofBool_getLsbD_eq_wordBits (w : BitVec 64) (i : Nat) : BitVec.ofBool (w.getLsbD i) = wordBits w i 1 := by
  ext j hj
  obtain rfl : j = 0 := by omega
  simp [wordBits]

/-- A word is laid again from its class, its guard, its OP and its low 50 bits. -/
theorem layWord_fields (w : BitVec 64) : layWord (wordBits w 60 4) (guardOf w) (wordBits w 50 6) (wordBits w 0 50) = w := by
  simp (disch := rfl) only [layWord, guardOf, ofBool_getLsbD_eq_wordBits, wordBits, BitVec.extractLsb'_append_extractLsb'_eq_extractLsb']
  exact BitVec.extractLsb'_eq_self

/-! ### The classes (Tables 2.6 to 2.9) -/

/-- A class of instruction words: its CLASS, the guard and the low 50 bits of its fields, the fields of a word, and its operations by OP. -/
structure WordClass (F : Type) where
  cls : BitVec 4
  guard : F → Guard
  body : F → BitVec 50
  ofWord : BitVec 64 → F
  row : Nat → Option (Nat → F → Instr)

/-- The instruction of a word of a class. -/
def WordClass.decode {F : Type} (K : WordClass F) (c : Nat) (w : BitVec 64) : Option Instr :=
  (K.row (wordBits w 50 6).toNat).map fun k => k c (K.ofWord w)

/-- Reading a word and laying one undo each other, and `Instr.word` lays what the class's rows list. -/
structure WordClass.Lawful {F : Type} (K : WordClass F) : Prop where
  ofWord_layWord : ∀ op f, K.ofWord (layWord K.cls (K.guard f) op (K.body f)) = f
  guard_ofWord : ∀ w, K.guard (K.ofWord w) = guardOf w
  body_ofWord : ∀ w, K.body (K.ofWord w) = wordBits w 0 50
  word_of_row : ∀ op k, K.row op = some k → ∀ c f,
    (k c f).word = some (c, layWord K.cls (K.guard f) (BitVec.ofNat 6 op) (K.body f)) ∧ subopFits (k c f)

/-- A listed operation's word decodes to it with every field. -/
theorem WordClass.Lawful.decode_layWord {F : Type} {K : WordClass F} (h : K.Lawful) {c : Nat} {op : BitVec 6} {k : Nat → F → Instr} (f : F)
    (hk : K.row op.toNat = some k) : K.decode c (layWord K.cls (K.guard f) op (K.body f)) = some (k c f) := by
  rw [WordClass.decode, wordBits_layWord_op, hk, h.ofWord_layWord, Option.map_some]

/-- What a word of the class decodes to has that word. -/
theorem WordClass.Lawful.word_of_decode {F : Type} {K : WordClass F} (h : K.Lawful) {c : Nat} {w : BitVec 64} {i : Instr} (hw : wordBits w 60 4 = K.cls)
    (hi : K.decode c w = some i) : i.word = some (c, w) ∧ subopFits i := by
  obtain ⟨k, hk, rfl⟩ := Option.map_eq_some_iff.mp hi
  obtain ⟨hword, hsub⟩ := h.word_of_row _ k hk c (K.ofWord w)
  rw [BitVec.ofNat_toNat, BitVec.setWidth_eq, h.guard_ofWord, h.body_ofWord, ← hw, layWord_fields] at hword
  exact ⟨hword, hsub⟩

def scalarClass : WordClass ScalarF := ⟨0, ScalarF.g, ScalarF.body, ScalarF.ofWord, scalarRow⟩

def branchClass : WordClass BranchF := ⟨1, BranchF.g, BranchF.body, BranchF.ofWord, branchRow⟩

def ldStClass : WordClass LdStF := ⟨2, LdStF.g, LdStF.body, LdStF.ofWord, ldStRow⟩

def tileClass : WordClass TileF := ⟨3, TileF.g, TileF.body, TileF.ofWord, tileRow⟩

def matrixClass : WordClass MatrixF := ⟨4, MatrixF.g, MatrixF.body, MatrixF.ofWord, matrixRow⟩

def vecClass : WordClass VecF := ⟨5, VecF.g, VecF.body, VecF.ofWord, vecRow⟩

def streamClass : WordClass StreamF := ⟨5, StreamF.g, StreamF.body, StreamF.ofWord, streamRow⟩

def selClass : WordClass SelF := ⟨6, SelF.g, SelF.body, SelF.ofWord, selRow⟩

def syncClass : WordClass SyncF := ⟨7, SyncF.g, SyncF.body, SyncF.ofWord, syncRow⟩

def sysClass : WordClass SysF := ⟨8, SysF.g, SysF.body, SysF.ofWord, sysRow⟩

theorem scalarClass_lawful : scalarClass.Lawful where
  ofWord_layWord op f := by
    simp (disch := decide) only [scalarClass, ScalarF.ofWord, ScalarF.body, getLsbD_eq_wordBits, guardOf_layWord, wordBits_layWord_body,
      BitVec.extractLsb'_append_eq_of_le, BitVec.extractLsb'_append_eq_of_add_le]
    simp
  guard_ofWord _ := rfl
  body_ofWord w := by
    simp (disch := rfl) only [scalarClass, ScalarF.ofWord, ScalarF.body, ofBool_getLsbD_eq_wordBits, wordBits, BitVec.extractLsb'_append_extractLsb'_eq_extractLsb']
  word_of_row op k h c f := by
    dsimp only [scalarClass] at h ⊢
    unfold scalarRow at h
    split at h <;> cases h <;> exact ⟨rfl, trivial⟩

theorem branchClass_lawful : branchClass.Lawful where
  ofWord_layWord op f := by
    simp (disch := decide) only [branchClass, BranchF.ofWord, BranchF.body, guardOf_layWord, wordBits_layWord_body,
      BitVec.extractLsb'_append_eq_of_le, BitVec.extractLsb'_append_eq_of_add_le]
    simp
  guard_ofWord _ := rfl
  body_ofWord w := by
    simp (disch := rfl) only [branchClass, BranchF.ofWord, BranchF.body, wordBits, BitVec.extractLsb'_append_extractLsb'_eq_extractLsb']
  word_of_row op k h c f := by
    dsimp only [branchClass] at h ⊢
    unfold branchRow at h
    split at h <;> cases h <;> exact ⟨rfl, trivial⟩

theorem ldStClass_lawful : ldStClass.Lawful where
  ofWord_layWord op f := by
    simp (disch := decide) only [ldStClass, LdStF.ofWord, LdStF.body, guardOf_layWord, wordBits_layWord_body,
      BitVec.extractLsb'_append_eq_of_le, BitVec.extractLsb'_append_eq_of_add_le]
    simp
  guard_ofWord _ := rfl
  body_ofWord w := by
    simp (disch := rfl) only [ldStClass, LdStF.ofWord, LdStF.body, wordBits, BitVec.extractLsb'_append_extractLsb'_eq_extractLsb']
  word_of_row op k h c f := by
    dsimp only [ldStClass] at h ⊢
    unfold ldStRow at h
    split at h <;> cases h <;> exact ⟨rfl, trivial⟩

theorem tileClass_lawful : tileClass.Lawful where
  ofWord_layWord op f := by
    simp (disch := decide) only [tileClass, TileF.ofWord, TileF.body, guardOf_layWord, wordBits_layWord_body,
      BitVec.extractLsb'_append_eq_of_le, BitVec.extractLsb'_append_eq_of_add_le]
    simp
  guard_ofWord _ := rfl
  body_ofWord w := by
    simp (disch := rfl) only [tileClass, TileF.ofWord, TileF.body, wordBits, BitVec.extractLsb'_append_extractLsb'_eq_extractLsb']
  word_of_row op k h c f := by
    dsimp only [tileClass] at h ⊢
    unfold tileRow at h
    split at h <;> cases h <;> exact ⟨rfl, trivial⟩

theorem matrixClass_lawful : matrixClass.Lawful where
  ofWord_layWord op f := by
    simp (disch := decide) only [matrixClass, MatrixF.ofWord, MatrixF.body, getLsbD_eq_wordBits, guardOf_layWord, wordBits_layWord_body,
      BitVec.extractLsb'_append_eq_of_le, BitVec.extractLsb'_append_eq_of_add_le]
    simp
  guard_ofWord _ := rfl
  body_ofWord w := by
    simp (disch := rfl) only [matrixClass, MatrixF.ofWord, MatrixF.body, ofBool_getLsbD_eq_wordBits, wordBits, BitVec.extractLsb'_append_extractLsb'_eq_extractLsb']
  word_of_row op k h c f := by
    dsimp only [matrixClass] at h ⊢
    unfold matrixRow at h
    split at h <;> cases h <;> exact ⟨rfl, trivial⟩

theorem vecClass_lawful : vecClass.Lawful where
  ofWord_layWord op f := by
    simp (disch := decide) only [vecClass, VecF.ofWord, VecF.body, guardOf_layWord, wordBits_layWord_body,
      BitVec.extractLsb'_append_eq_of_le, BitVec.extractLsb'_append_eq_of_add_le]
    simp
  guard_ofWord _ := rfl
  body_ofWord w := by
    simp (disch := rfl) only [vecClass, VecF.ofWord, VecF.body, wordBits, BitVec.extractLsb'_append_extractLsb'_eq_extractLsb']
  word_of_row op k h c f := by
    dsimp only [vecClass] at h ⊢
    unfold vecRow at h
    split at h <;> cases h <;> exact ⟨rfl, trivial⟩

theorem streamClass_lawful : streamClass.Lawful where
  ofWord_layWord op f := by
    simp (disch := decide) only [streamClass, StreamF.ofWord, StreamF.body, guardOf_layWord, wordBits_layWord_body,
      BitVec.extractLsb'_append_eq_of_le, BitVec.extractLsb'_append_eq_of_add_le]
    simp
  guard_ofWord _ := rfl
  body_ofWord w := by
    simp (disch := rfl) only [streamClass, StreamF.ofWord, StreamF.body, wordBits, BitVec.extractLsb'_append_extractLsb'_eq_extractLsb']
  word_of_row op k h c f := by
    dsimp only [streamClass] at h ⊢
    unfold streamRow at h
    split at h <;> cases h <;> exact ⟨rfl, trivial⟩

theorem selClass_lawful : selClass.Lawful where
  ofWord_layWord op f := by
    simp (disch := decide) only [selClass, SelF.ofWord, SelF.body, getLsbD_eq_wordBits, guardOf_layWord, wordBits_layWord_body,
      BitVec.extractLsb'_append_eq_of_le, BitVec.extractLsb'_append_eq_of_add_le]
    simp
  guard_ofWord _ := rfl
  body_ofWord w := by
    simp (disch := rfl) only [selClass, SelF.ofWord, SelF.body, ofBool_getLsbD_eq_wordBits, wordBits, BitVec.extractLsb'_append_extractLsb'_eq_extractLsb']
  word_of_row op k h c f := by
    dsimp only [selClass] at h ⊢
    unfold selRow at h
    split at h <;> cases h <;> exact ⟨rfl, trivial⟩

theorem syncClass_lawful : syncClass.Lawful where
  ofWord_layWord op f := by
    simp (disch := decide) only [syncClass, SyncF.ofWord, SyncF.body, guardOf_layWord, wordBits_layWord_body,
      BitVec.extractLsb'_append_eq_of_le, BitVec.extractLsb'_append_eq_of_add_le]
    simp
  guard_ofWord _ := rfl
  body_ofWord w := by
    simp (disch := rfl) only [syncClass, SyncF.ofWord, SyncF.body, wordBits, BitVec.extractLsb'_append_extractLsb'_eq_extractLsb']
  word_of_row op k h c f := by
    dsimp only [syncClass] at h ⊢
    unfold syncRow at h
    split at h <;> cases h <;> exact ⟨rfl, trivial⟩

theorem sysClass_lawful : sysClass.Lawful where
  ofWord_layWord op f := by
    simp (disch := decide) only [sysClass, SysF.ofWord, SysF.body, guardOf_layWord, wordBits_layWord_body,
      BitVec.extractLsb'_append_eq_of_le, BitVec.extractLsb'_append_eq_of_add_le]
    simp
  guard_ofWord _ := rfl
  body_ofWord w := by
    simp (disch := rfl) only [sysClass, SysF.ofWord, SysF.body, wordBits, BitVec.extractLsb'_append_extractLsb'_eq_extractLsb']
  word_of_row op k h c f := by
    dsimp only [sysClass] at h ⊢
    unfold sysRow at h
    split at h <;> cases h <;> exact ⟨rfl, trivial⟩
/-! ### What a word of each class decodes to (R65) -/

section
variable (c : Nat) {w : BitVec 64}

theorem decodeWord_scalar (h : wordBits w 60 4 = 0) : decodeWord c w = scalarClass.decode c w := by simp only [decodeWord, h]; rfl
theorem decodeWord_branch (h : wordBits w 60 4 = 1) : decodeWord c w = branchClass.decode c w := by simp only [decodeWord, h]; rfl
theorem decodeWord_ldSt (h : wordBits w 60 4 = 2) : decodeWord c w = ldStClass.decode c w := by simp only [decodeWord, h]; rfl
theorem decodeWord_tile (h : wordBits w 60 4 = 3) : decodeWord c w = tileClass.decode c w := by simp only [decodeWord, h]; rfl
theorem decodeWord_matrix (h : wordBits w 60 4 = 4) : decodeWord c w = matrixClass.decode c w := by simp only [decodeWord, h]; rfl
theorem decodeWord_sel (h : wordBits w 60 4 = 6) : decodeWord c w = selClass.decode c w := by simp only [decodeWord, h]; rfl
theorem decodeWord_sync (h : wordBits w 60 4 = 7) : decodeWord c w = syncClass.decode c w := by simp only [decodeWord, h]; rfl
theorem decodeWord_sys (h : wordBits w 60 4 = 8) : decodeWord c w = sysClass.decode c w := by simp only [decodeWord, h]; rfl

theorem decodeWord_vec (h : wordBits w 60 4 = 5) (hop : (wordBits w 50 6).toNat < 0x3C) : decodeWord c w = vecClass.decode c w := by
  have h1 : (wordBits w 50 6).toNat ≠ 0x3E := by omega
  simp only [decodeWord, h, h1, Nat.not_le.mpr hop]; rfl

theorem decodeWord_stream (h : wordBits w 60 4 = 5) (hop : 0x3C ≤ (wordBits w 50 6).toNat) (h1 : (wordBits w 50 6).toNat ≠ 0x3E) :
    decodeWord c w = streamClass.decode c w := by
  simp only [decodeWord, h, h1, hop]; rfl

theorem decodeWord_vsqnt (h : wordBits w 60 4 = 5) (hop : (wordBits w 50 6).toNat = 0x3E) :
    decodeWord c w = some (vsqntRow (StreamF.ofWord w).subop c (StreamF.ofWord w)) := by
  simp only [decodeWord, h, hop]; rfl

theorem decodeWord_reserved (h : 9 ≤ (wordBits w 60 4).toNat) : decodeWord c w = none := by
  unfold decodeWord
  split
  case h_10 => rfl
  all_goals omega

/-- A word of OP 0x3E decodes to the VSQNT of its SUBOP (03 R141). -/
theorem decodeWord_vsqnt_layWord (f : StreamF) : decodeWord c (layWord 5 f.g 0x3E f.body) = some (vsqntRow f.subop c f) := by
  have hf : StreamF.ofWord (layWord 5 f.g 0x3E f.body) = f := streamClass_lawful.ofWord_layWord 0x3E f
  rw [decodeWord_vsqnt c (wordBits_layWord_class ..) (by rw [wordBits_layWord_op]; rfl), hf]

end

/-- The VSQNT of SUBOP fits it, and its word has OP 0x3E. -/
theorem vsqntRow_word (c : Nat) (f : StreamF) : (vsqntRow f.subop c f).word = some (c, layWord 5 f.g 0x3E f.body) ∧ subopFits (vsqntRow f.subop c f) := by
  generalize hs : f.subop = b
  fun_cases vsqntRow b <;> exact ⟨rfl, hs⟩

/-! ### The statement -/

theorem decodeWord_of_word {i : Instr} {c : Nat} {w : BitVec 64} (h : i.word = some (c, w)) (hs : subopFits i) : decodeWord c w = some i := by
  cases i with
  | add _ f | sub _ f | and _ f | or _ f | xor _ f | shl _ f | shr _ f | sar _ f | mul _ f | mulhu _ f | mulhs _ f | min _ f | max _ f
  | minu _ f | maxu _ f | movhi _ f | popc _ f | clz _ f | cmpeq _ f | cmpne _ f | cmplt _ f | cmpltu _ f | cmple _ f | cmpleu _ f
  | pand _ f | por _ f | pnot _ f | pfroms _ f | ptos _ f =>
    cases h; exact (decodeWord_scalar _ (wordBits_layWord_class ..)).trans (scalarClass_lawful.decode_layWord f rfl)
  | br _ f | brz _ f | brnz _ f | call _ f | jr _ f | loop _ f =>
    cases h; exact (decodeWord_branch _ (wordBits_layWord_class ..)).trans (branchClass_lawful.decode_layWord f rfl)
  | ld8u _ f | ld16u _ f | ld32u _ f | ld64 _ f | ld8s _ f | ld16s _ f | ld32s _ f | st8 _ f | st16 _ f | st32 _ f | st64 _ f | vld _ f
  | vst _ f | vstp _ f | pld _ f | pst _ f =>
    cases h; exact (decodeWord_ldSt _ (wordBits_layWord_class ..)).trans (ldStClass_lawful.decode_layWord f rfl)
  | tmov _ f | tgath _ f | tscat _ f | tfill _ f | tdset _ f | tdget _ f =>
    cases h; exact (decodeWord_tile _ (wordBits_layWord_class ..)).trans (tileClass_lawful.decode_layWord f rfl)
  | mop _ f | msld _ f | mws _ f | mrd _ f | mclr _ f =>
    cases h; exact (decodeWord_matrix _ (wordBits_layWord_class ..)).trans (matrixClass_lawful.decode_layWord f rfl)
  | vadd _ f | vsub _ f | vmul _ f | vmin _ f | vmax _ f | vminu _ f | vmaxu _ f | vand _ f | vor _ f | vxor _ f | vshl _ f | vshr _ f
  | vsar _ f | vadds _ f | vcmpeq _ f | vcmplt _ f | vcmpltu _ f | vsel _ f | vbcast _ f | vrsum _ f | vrmin _ f | vrmax _ f | vxpop _ f
  | vxpopa _ f | vpopc _ f | vlut _ f | vcvt _ f | vqnt _ f | vfadd _ f | vfmul _ f | vfma _ f =>
    cases h; exact (decodeWord_vec _ (by rw [wordBits_layWord_class]) (by rw [wordBits_layWord_op]; decide)).trans (vecClass_lawful.decode_layWord f rfl)
  | stopk _ f | ssort _ f | smerge _ f | semit _ f | scmrg _ f | sclr _ f =>
    cases h; exact (decodeWord_sel _ (wordBits_layWord_class ..)).trans (selClass_lawful.decode_layWord f rfl)
  | wait _ f | post _ f | postc _ f | bar _ f | fence _ f =>
    cases h; exact (decodeWord_sync _ (wordBits_layWord_class ..)).trans (syncClass_lawful.decode_layWord f rfl)
  | halt _ f | evt _ f | trap _ f | rdstep _ f | rdcore _ f | rdctx _ f =>
    cases h; exact (decodeWord_sys _ (wordBits_layWord_class ..)).trans (sysClass_lawful.decode_layWord f rfl)
  | vsxp _ f | vstlk _ f =>
    cases h
    exact (decodeWord_stream _ (wordBits_layWord_class ..) (by rw [wordBits_layWord_op]; decide) (by rw [wordBits_layWord_op]; decide)).trans
      (streamClass_lawful.decode_layWord f rfl)
  | vsqntQuantise _ f | vsqntLoad _ f | vsqntStore _ f | vsqntClose _ f =>
    cases h
    rw [decodeWord_vsqnt_layWord, show f.subop = _ from hs]
    rfl
  | _ => cases h

theorem word_of_decodeWord {i : Instr} {c : Nat} {w : BitVec 64} (h : decodeWord c w = some i) : i.word = some (c, w) ∧ subopFits i := by
  dsimp only [decodeWord] at h
  split at h
  next hw => exact scalarClass_lawful.word_of_decode (BitVec.eq_of_toNat_eq hw) h
  next hw => exact branchClass_lawful.word_of_decode (BitVec.eq_of_toNat_eq hw) h
  next hw => exact ldStClass_lawful.word_of_decode (BitVec.eq_of_toNat_eq hw) h
  next hw => exact tileClass_lawful.word_of_decode (BitVec.eq_of_toNat_eq hw) h
  next hw => exact matrixClass_lawful.word_of_decode (BitVec.eq_of_toNat_eq hw) h
  next hw =>
    have hw : wordBits w 60 4 = 5 := BitVec.eq_of_toNat_eq hw
    split at h
    · next hop =>
      obtain rfl := Option.some.inj h
      have hop : wordBits w 50 6 = 0x3E := BitVec.eq_of_toNat_eq hop
      obtain ⟨hword, hsub⟩ := vsqntRow_word c (StreamF.ofWord w)
      have hbody : (StreamF.ofWord w).body = wordBits w 0 50 := streamClass_lawful.body_ofWord w
      rw [show (StreamF.ofWord w).g = guardOf w from rfl, hbody, ← hw, ← hop, layWord_fields] at hword
      exact ⟨hword, hsub⟩
    · split at h
      · exact streamClass_lawful.word_of_decode hw h
      · exact vecClass_lawful.word_of_decode hw h
  next hw => exact selClass_lawful.word_of_decode (BitVec.eq_of_toNat_eq hw) h
  next hw => exact syncClass_lawful.word_of_decode (BitVec.eq_of_toNat_eq hw) h
  next hw => exact sysClass_lawful.word_of_decode (BitVec.eq_of_toNat_eq hw) h
  next => cases h

/-- Settles O1: a laid word decodes by its class's row, and a word that decodes is laid again from the fields read from it. -/
theorem instructionWords : Obligations.InstructionWords := by
  refine ⟨fun i c w => decodeWord_of_word, fun i c w => word_of_decodeWord, fun c w h => decodeWord_reserved c ?_⟩
  have hw : wordBits w 60 4 = (w >>> 60).setWidth 4 := by ext; simp [wordBits]
  rw [hw, BitVec.toNat_setWidth, BitVec.toNat_ushiftRight, Nat.shiftRight_eq_div_pow] at *
  omega

end Sys2Proof

/-! PROOF. Register files, the step of a core and the issue of an instruction (02 R49, R57, R58, R65, R70): what each reads and leaves, said once for
the proofs about instructions. -/

namespace Sys2Proof.Machine

open Sys2Proof.Claims

/-! ### Register files (R58) -/

theorem rdS_wrS (a : Arch) (r q : BitVec 5) (v : BitVec 64) : (a.wrS r v).rdS q = if q = 0 then 0 else if q = r then v else a.rdS q := by
  unfold Arch.wrS Arch.rdS
  by_cases hq : q = 0
  · simp only [hq, if_true]
  by_cases hr : r = 0
  · have : q ≠ r := by rw [hr]; exact hq
    simp only [hq, hr, if_false, if_true]
  · simp only [hq, hr, if_false, mget_mset, BitVec.toNat_inj]

theorem rdP_wrP (a : Arch) (r q : BitVec 3) (v : BitVec 64) :
    (a.wrP r v).rdP q = if q = 0 then BitVec.allOnes 64 else if q = r then v else a.rdP q := by
  unfold Arch.wrP Arch.rdP
  by_cases hq : q = 0
  · simp only [hq, if_true]
  by_cases hr : r = 0
  · simp only [hq, hr, if_false, if_true]
  · simp only [hq, hr, if_false, mget_mset, BitVec.toNat_inj]

theorem rdV_wrV (a : Arch) (r q : BitVec 4) (v : BitVec 512) : (a.wrV r v).rdV q = if q = r then v else a.rdV q := by
  simp only [Arch.wrV, Arch.rdV, mget_mset, BitVec.toNat_inj]

theorem rdT_wrT (a : Arch) (r q : BitVec 4) (v : BitVec 256) : (a.wrT r v).rdT q = if q = r then v else a.rdT q := by
  simp only [Arch.wrT, Arch.rdT, mget_mset, BitVec.toNat_inj]

theorem wrS_frame (a : Arch) (r : BitVec 5) (v : BitVec 64) : { a.wrS r v with s := a.s } = a := by
  unfold Arch.wrS; split <;> rfl

theorem wrP_frame (a : Arch) (r : BitVec 3) (v : BitVec 64) : { a.wrP r v with p := a.p } = a := by
  unfold Arch.wrP; split <;> rfl

/-! ### One core among the others -/

@[simp] theorem core_modCore_self (s : State) (c : Nat) (f : Core → Core) : (s.modCore c f).core c = f (s.core c) := by simp [core_modCore]
theorem core_modCore_of_ne (s : State) {c d : Nat} (f : Core → Core) (h : d ≠ c) : (s.modCore c f).core d = s.core d := by simp [core_modCore, h]
@[simp] theorem core_modArch_self (s : State) (c : Nat) (f : Arch → Arch) : (s.modArch c f).core c = { s.core c with arch := f (s.core c).arch } := by
  simp [core_modArch]
theorem core_modArch_of_ne (s : State) {c d : Nat} (f : Arch → Arch) (h : d ≠ c) : (s.modArch c f).core d = s.core d := by simp [core_modArch, h]
@[simp] theorem clu_modClu_self (s : State) (k : Nat) (f : Cluster → Cluster) : (s.modClu k f).clu k = f (s.clu k) := by simp [clu_modClu]
theorem clu_modClu_of_ne (s : State) {k j : Nat} (f : Cluster → Cluster) (h : j ≠ k) : (s.modClu k f).clu j = s.clu j := by simp [clu_modClu, h]

theorem clu_congr {s t : State} (h : t.clus = s.clus) (k : Nat) : t.clu k = s.clu k := by simp only [State.clu, h]

/-! ### The step of a core -/

@[simp] theorem core_next_self (s : State) (c : Nat) : (s.next c).core c =
    { s.core c with steps := (s.core c).steps + 1, ran := true, arch := { (s.core c).arch with pc := (s.core c).arch.pc + 1, stall := none } } := by
  simp [State.next]

theorem core_next_of_ne (s : State) {c d : Nat} (h : d ≠ c) : (s.next c).core d = s.core d := core_modCore_of_ne s _ h

theorem core_retire_self (s : State) (c : Nat) (upd : Arch → Arch) : (retire s c upd).core c =
    { s.core c with
      steps := (s.core c).steps + 1, ran := true, arch := upd { (s.core c).arch with pc := (s.core c).arch.pc + 1, stall := none } } := by
  simp [retire]

theorem core_retire_of_ne (s : State) {c d : Nat} (upd : Arch → Arch) (h : d ≠ c) : (retire s c upd).core d = s.core d := by
  rw [retire, core_modArch_of_ne _ _ h, core_next_of_ne s h]

theorem retire_onlyCores (s : State) (c : Nat) (upd : Arch → Arch) : onlyCores s (retire s c upd) := rfl

/-- The update of a retiring instruction may read the registers as they stood before the step, which moves the PC and ends the stall alone. -/
theorem retire_congr {s : State} {c : Nat} {upd upd' : Arch → Arch}
    (h : ∀ (pc : BitVec 15), upd { (s.core c).arch with pc := pc, stall := none } = upd' { (s.core c).arch with pc := pc, stall := none }) :
    retire s c upd = retire s c upd' := modArch_congr _ _ _ _ (by rw [next_arch]; exact h _)

/-! ### Issue -/

theorem turnOf_of_stall_none {s : State} {c : Nat} (h : (s.core c).arch.stall = none) (i : Instr) : s.turnOf c i = true := by
  simp only [State.turnOf, h]

section
variable {s : State} {c : Nat} {i : Instr} {g : Guard} {pre : Option Nat} {skip run : State → State} {stall : Bool}

/-- An instruction that issues, has no fault at issue and is not held has its effect. -/
theorem issue_of_issues (h : issues s c g) (hp : pre = none) (hs : stall = false) : s.issue i c g pre skip stall run = .next (run s) := by
  obtain ⟨⟨hc, hi, hst⟩, ⟨hpc, hn⟩, hg⟩ := h
  exact issue_run hc hi (turnOf_of_stall_none hst i) hpc hn hg hp hs

theorem issue_of_issuesAt (h : issuesAt s c g i) (hp : pre = none) (hs : stall = false) : s.issue i c g pre skip stall run = .next (run s) := by
  obtain ⟨hc, hi, ht, ⟨hpc, hn⟩, hg⟩ := h
  exact issue_run hc hi ht hpc hn hg hp hs

/-- An instruction that issues and that its class holds stalls the sequencer. -/
theorem issue_stalled (h : issues s c g) (hp : pre = none) (hs : stall = true) : s.issue i c g pre skip stall run = .next (s.stallAt c i .busy) := by
  obtain ⟨⟨hc, hi, hst⟩, ⟨hpc, hn⟩, hg⟩ := h
  subst hp hs
  simp [State.issue, guardUnit, coreOk, hc, hi, turnOf_of_stall_none hst i, hn, hg, Nat.not_le.mpr hpc]

/-- A fault at issue is precise, whatever the guard. -/
theorem issue_fault {code : Nat} (h : fetches s c) (hin : inProgram s c) (hp : pre = some code) :
    s.issue i c g pre skip stall run = .next (s.coreFault c code true 0 (s.pcOf c) 0) := by
  obtain ⟨hc, hi, hst⟩ := h
  obtain ⟨hpc, hn⟩ := hin
  subst hp
  simp [State.issue, guardUnit, coreOk, hc, hi, turnOf_of_stall_none hst i, hn, Nat.not_le.mpr hpc, State.seqFault]

/-- An instruction that is not in turn leaves the state (R49). -/
theorem issue_not_in_turn (hc : c < 768) (hi : s.canIssue c = true) (ht : s.turnOf c i = false) : s.issue i c g pre skip stall run = .next s := by
  simp [State.issue, guardUnit, coreOk, hc, hi, ht]

/-- Issue at a PC past the program is a PC range fault (R70). -/
theorem issue_past_program (hc : c < 768) (hi : s.canIssue c = true) (ht : s.turnOf c i = true) (hpc : (s.core c).progLen.toNat ≤ s.pcOf c) :
    s.issue i c g pre skip stall run = .next (s.coreFault c 0x08 true 0 (s.pcOf c) 0) := by
  simp [State.issue, guardUnit, coreOk, hc, hi, ht, hpc, State.seqFault]

/-- Issue at a word that is no instruction is an illegal instruction (R65). -/
theorem issue_no_instruction (hc : c < 768) (hi : s.canIssue c = true) (ht : s.turnOf c i = true) (hpc : s.pcOf c < (s.core c).progLen.toNat)
    (hn : s.noInstr c = true) : s.issue i c g pre skip stall run = .next (s.coreFault c 0x01 true 0 (s.pcOf c) 0) := by
  simp [State.issue, guardUnit, coreOk, hc, hi, ht, hn, Nat.not_le.mpr hpc, State.seqFault]

end

/-- A list of checks that all raise one code raises it when one of them fails. -/
theorem firstFault_eq_some {l : List (Bool × Nat)} {code : Nat} (hcode : ∀ e ∈ l, e.2 = code) (h : ∃ e ∈ l, e.1 = true) :
    firstFault l = some code := by
  induction l with
  | nil => simp at h
  | cons e r ih =>
    obtain ⟨b, k⟩ := e
    rw [List.forall_mem_cons] at hcode
    obtain ⟨hk : k = code, hr⟩ := hcode
    cases b with
    | true => exact congrArg some hk
    | false => exact ih hr (by simpa using h)

/-- Settles O3: the register files by the laws of their tables, the frame by what a step of a core leaves. -/
theorem registerFilesAndFrame : Obligations.RegisterFilesAndFrame :=
  ⟨⟨rdS_wrS, rdP_wrP, rdV_wrV, rdT_wrT, fun a r v => ⟨rfl, wrS_frame a r v⟩, fun a r v => ⟨rfl, wrP_frame a r v⟩, fun _ _ _ => rfl, fun _ _ _ => rfl⟩,
    fun s c upd => ⟨retire_onlyCores s c upd, fun _ hd => core_retire_of_ne s upd hd, core_retire_self s c upd⟩⟩

end Sys2Proof.Machine

/-! PROOF. The scalar class (02 Table 2.7, R65, R69, R706): the checks at issue, the retiring form of each shared operation, and what the model's
arithmetic is as bit-vector arithmetic. -/

namespace Sys2Proof.Machine

open Sys2Proof.Claims

/-! ### Arithmetic -/

theorem w64_mul_div_eq (x y : BitVec 64) : w64 (x.toNat * y.toNat / 2 ^ 64) = (x.setWidth 128 * y.setWidth 128).extractLsb' 64 64 := by
  have hlt : x.toNat * y.toNat < 2 ^ 128 := by
    calc x.toNat * y.toNat < 2 ^ 64 * 2 ^ 64 := Nat.mul_lt_mul'' x.isLt y.isLt
      _ = 2 ^ 128 := by norm_num
  apply BitVec.eq_of_toNat_eq
  have hx := x.isLt
  have hy := y.isLt
  simp only [w64, BitVec.toNat_ofNat, BitVec.extractLsb'_toNat, BitVec.toNat_mul, BitVec.toNat_setWidth, Nat.shiftRight_eq_div_pow]
  rw [Nat.mod_eq_of_lt (show x.toNat < 2 ^ 128 by omega), Nat.mod_eq_of_lt (show y.toNat < 2 ^ 128 by omega), Nat.mod_eq_of_lt hlt]

/-- The high half of a 128-bit word whose value is an integer modulo 2¹²⁸. -/
theorem extractLsb'_ofInt_high (n : Int) : (BitVec.ofInt 128 n).extractLsb' 64 64 = BitVec.ofInt 64 (n / 2 ^ 64) := by
  apply BitVec.eq_of_toNat_eq
  simp only [BitVec.extractLsb'_toNat, BitVec.toNat_ofInt, Nat.shiftRight_eq_div_pow]
  omega

theorem ofInt_mul_div_eq (x y : BitVec 64) :
    BitVec.ofInt 64 (x.toInt * y.toInt / 2 ^ 64) = (x.signExtend 128 * y.signExtend 128).extractLsb' 64 64 := by
  have h : x.signExtend 128 * y.signExtend 128 = BitVec.ofInt 128 (x.toInt * y.toInt) := by
    simp only [BitVec.signExtend, BitVec.ofInt_mul]
  rw [h, extractLsb'_ofInt_high]

theorem slt_min_eq (x y : BitVec 64) : (if x.slt y then x else y) = if x.toInt ≤ y.toInt then x else y := by
  rw [BitVec.slt_eq_decide]
  rcases lt_trichotomy x.toInt y.toInt with h | h | h
  · simp [h, h.le]
  · simp [BitVec.eq_of_toInt_eq h]
  · simp [h.not_gt, h.not_ge]

theorem slt_max_eq (x y : BitVec 64) : (if x.slt y then y else x) = if x.toInt ≤ y.toInt then y else x := by
  rw [BitVec.slt_eq_decide]
  rcases lt_trichotomy x.toInt y.toInt with h | h | h
  · simp [h, h.le]
  · simp [BitVec.eq_of_toInt_eq h]
  · simp [h.not_gt, h.not_ge]

theorem ult_min_eq (x y : BitVec 64) : (if x.ult y then x else y) = if x.toNat ≤ y.toNat then x else y := by
  rw [BitVec.ult_eq_decide]
  rcases lt_trichotomy x.toNat y.toNat with h | h | h
  · simp [h, h.le]
  · simp [BitVec.eq_of_toNat_eq h]
  · simp [h.not_gt, h.not_ge]

theorem ult_max_eq (x y : BitVec 64) : (if x.ult y then y else x) = if x.toNat ≤ y.toNat then y else x := by
  rw [BitVec.ult_eq_decide]
  rcases lt_trichotomy x.toNat y.toNat with h | h | h
  · simp [h, h.le]
  · simp [BitVec.eq_of_toNat_eq h]
  · simp [h.not_gt, h.not_ge]

theorem popCount_eq_countP (x : BitVec 64) : popCount x = (List.range 64).countP fun i => x.getLsbD i := by
  rw [popCount, List.countP_eq_length_filter]

/-! ### Leading zeros -/

theorem leadZeros_le (x : BitVec 64) : leadZeros x ≤ 64 := by
  unfold leadZeros; split <;> omega

theorem log2_toNat_lt {x : BitVec 64} (h : x ≠ 0) : Nat.log2 x.toNat < 64 :=
  (Nat.log2_lt (BitVec.toNat_ne.mp h)).mpr x.isLt

theorem leadZeros_of_ne_zero {x : BitVec 64} (h : x ≠ 0) : leadZeros x = 63 - Nat.log2 x.toNat := if_neg h

/-- Every set bit stands below the leading zeros. -/
theorem add_leadZeros_lt {x : BitVec 64} {i : Nat} (hi : x.getLsbD i = true) : i + leadZeros x < 64 := by
  have hx : x ≠ 0 := by rintro rfl; simp at hi
  have hbit : x.toNat.testBit i = true := hi
  have hle : i ≤ Nat.log2 x.toNat := (Nat.le_log2 (BitVec.toNat_ne.mp hx)).mpr (Nat.ge_two_pow_of_testBit hbit)
  have := log2_toNat_lt hx
  rw [leadZeros_of_ne_zero hx]
  omega

theorem getLsbD_leadZeros {x : BitVec 64} (h : leadZeros x < 64) : x.getLsbD (63 - leadZeros x) = true := by
  have hx : x ≠ 0 := by rintro rfl; simp [leadZeros] at h
  have := log2_toNat_lt hx
  rw [leadZeros_of_ne_zero hx, show 63 - (63 - Nat.log2 x.toNat) = Nat.log2 x.toNat by omega]
  exact Nat.testBit_log2 (BitVec.toNat_ne.mp hx)

/-! ### The checks at issue -/

theorem beq_eq_decide {n : Nat} (x y : BitVec n) : (x == y) = decide (x = y) := rfl

theorem bne_eq_decide {n : Nat} (x y : BitVec n) : (x != y) = decide (x ≠ y) := by
  rw [bne, beq_eq_decide, decide_not]


theorem scalarPre_clean {f : ScalarF} (h : scalarClean f) : scalarPre f false = none := by
  obtain ⟨hr, hsb, himm⟩ := h
  apply firstFault_none
  cases hi : f.i <;> simp_all

/-- A scalar encoding that has a reserved or unused bit set is an illegal instruction (R65). -/
theorem scalarPre_unclean {f : ScalarF} (own : Bool) (h : f.rsv ≠ 0 ∨ (f.i = true ∧ f.sb ≠ 0) ∨ (f.i = false ∧ f.imm ≠ 0)) :
    scalarPre f own = some 0x01 := by
  refine firstFault_eq_some (by simp) ?_
  rcases h with h | ⟨hi, h⟩ | ⟨hi, h⟩ <;> simp_all

/-- A scalar encoding that its own check refuses is an illegal instruction (R69, R706). -/
theorem scalarPre_own (f : ScalarF) : scalarPre f true = some 0x01 :=
  firstFault_eq_some (by simp) (by simp)

theorem predField_eq_false {n : Nat} {r : BitVec n} (h : r.toNat < 8) : predField r = false := by
  simp [predField, h]

theorem predField_eq_true {n : Nat} {r : BitVec n} (h : 8 ≤ r.toNat) : predField r = true := by
  simp [predField, h]

theorem setWidth_eq_extractLsb'_zero {n m : Nat} (r : BitVec n) : r.setWidth m = r.extractLsb' 0 m := by
  ext i hi; simp

/-! ### What retires -/

section
variable {s : State} {c : Nat} {f : ScalarF} (i : Instr) (op : BitVec 64 → BitVec 64 → BitVec 64)

theorem scalarBin_retires (h : issues s c f.g) (hf : scalarClean f) : scalarBin i c f op s =
    next (retire s c fun b => b.wrS f.sd (op ((s.core c).arch.rdS f.sa) (second (s.core c).arch f))) :=
  (issue_of_issues h (scalarPre_clean hf) rfl).trans (congrArg _ (retire_congr fun _ => rfl))

theorem scalarCmp_retires (rel : BitVec 64 → BitVec 64 → Bool) (h : issues s c f.g) (hf : scalarClean f) (hd : f.sd.toNat < 8) :
    scalarCmp i c f rel s = next (retire s c fun b =>
      b.wrP (f.sd.extractLsb' 0 3) (if rel ((s.core c).arch.rdS f.sa) (second (s.core c).arch f) then BitVec.allOnes 64 else 0)) := by
  rw [scalarCmp, predField_eq_false hd, issue_of_issues h (scalarPre_clean hf) rfl, setWidth_eq_extractLsb'_zero]
  exact congrArg _ (retire_congr fun _ => rfl)

theorem predBin_retires (h : issues s c f.g) (hf : scalarClean f) (hd : f.sd.toNat < 8) (ha : f.sa.toNat < 8) (hb : f.sb.toNat < 8) :
    predBin i c f op s = next (retire s c fun b => b.wrP (f.sd.extractLsb' 0 3)
      (op ((s.core c).arch.rdP (f.sa.extractLsb' 0 3)) ((s.core c).arch.rdP (f.sb.extractLsb' 0 3)))) := by
  simp only [predBin, predField_eq_false hd, predField_eq_false ha, predField_eq_false hb, Bool.or_false]
  rw [issue_of_issues h (scalarPre_clean hf) rfl]
  simp only [setWidth_eq_extractLsb'_zero]
  exact congrArg _ (retire_congr fun _ => rfl)

end

section
variable {s : State} {c : Nat} {f : ScalarF}

theorem movhi_retires (h : issues s c f.g) (hf : scalarClean f) (hi : f.i = true) : exec (.movhi c f) s =
    next (retire s c fun b => b.wrS f.sd (f.imm ++ ((s.core c).arch.rdS f.sd).extractLsb' 0 32)) := by
  have hp : scalarPre f (! f.i) = none := by rw [hi]; exact scalarPre_clean hf
  rw [show exec (.movhi c f) s = execMovhi c f s from rfl, execMovhi, issue_of_issues h hp rfl]
  simp only [setWidth_eq_extractLsb'_zero]
  exact congrArg _ (retire_congr fun _ => rfl)

theorem pnot_retires (h : issues s c f.g) (hf : scalarClean f) (hd : f.sd.toNat < 8) (ha : f.sa.toNat < 8) : exec (.pnot c f) s =
    next (retire s c fun b => b.wrP (f.sd.extractLsb' 0 3) (~~~ (s.core c).arch.rdP (f.sa.extractLsb' 0 3))) := by
  have hp : scalarPre f (predField f.sd || predField f.sa) = none := by
    rw [predField_eq_false hd, predField_eq_false ha]; exact scalarPre_clean hf
  rw [show exec (.pnot c f) s = execPnot c f s from rfl, execPnot, issue_of_issues h hp rfl]
  simp only [setWidth_eq_extractLsb'_zero]
  exact congrArg _ (retire_congr fun _ => rfl)

theorem pfroms_retires (h : issues s c f.g) (hf : scalarClean f) (hd : f.sd.toNat < 8) : exec (.pfroms c f) s =
    next (retire s c fun b => b.wrP (f.sd.extractLsb' 0 3) ((s.core c).arch.rdS f.sa)) := by
  have hp : scalarPre f (predField f.sd) = none := by rw [predField_eq_false hd]; exact scalarPre_clean hf
  rw [show exec (.pfroms c f) s = execPfroms c f s from rfl, execPfroms, issue_of_issues h hp rfl]
  simp only [setWidth_eq_extractLsb'_zero]
  exact congrArg _ (retire_congr fun _ => rfl)

theorem ptos_retires (h : issues s c f.g) (hf : scalarClean f) (ha : f.sa.toNat < 8) : exec (.ptos c f) s =
    next (retire s c fun b => b.wrS f.sd ((s.core c).arch.rdP (f.sa.extractLsb' 0 3))) := by
  have hp : scalarPre f (predField f.sa) = none := by rw [predField_eq_false ha]; exact scalarPre_clean hf
  rw [show exec (.ptos c f) s = execPtos c f s from rfl, execPtos, issue_of_issues h hp rfl]
  simp only [setWidth_eq_extractLsb'_zero]
  exact congrArg _ (retire_congr fun _ => rfl)

end

/-! ### The statements -/

/-- Settles O6: each instruction is the shared two-operand form with its operation, whose value is the table's. -/
theorem scalarResults : Obligations.ScalarResults := by
  intro s c f h hf a x y put
  have bin (i : Instr) (op : BitVec 64 → BitVec 64 → BitVec 64) {v : BitVec 64} (hv : op x y = v) : scalarBin i c f op s = put v :=
    hv ▸ scalarBin_retires i op h hf
  refine ⟨bin (.add c f) (· + ·) rfl, bin (.sub c f) (· - ·) rfl, bin (.and c f) (· &&& ·) rfl, bin (.or c f) (· ||| ·) rfl,
    bin (.xor c f) (· ^^^ ·) rfl, bin (.shl c f) (fun x y => x <<< shiftCount y) rfl, bin (.shr c f) (fun x y => x >>> shiftCount y) rfl,
    bin (.sar c f) (fun x y => x.sshiftRight (shiftCount y)) rfl, bin (.mul c f) (· * ·) rfl,
    bin (.mulhu c f) (fun x y => w64 (x.toNat * y.toNat / 2 ^ 64)) (w64_mul_div_eq x y),
    bin (.mulhs c f) (fun x y => BitVec.ofInt 64 (x.toInt * y.toInt / 2 ^ 64)) (ofInt_mul_div_eq x y),
    bin (.min c f) (fun x y => if x.slt y then x else y) (slt_min_eq x y), bin (.max c f) (fun x y => if x.slt y then y else x) (slt_max_eq x y),
    bin (.minu c f) (fun x y => if x.ult y then x else y) (ult_min_eq x y), bin (.maxu c f) (fun x y => if x.ult y then y else x) (ult_max_eq x y),
    movhi_retires h hf, bin (.popc c f) (fun x _ => w64 (popCount x)) (congrArg w64 (popCount_eq_countP x)), leadZeros x, leadZeros_le x,
    bin (.clz c f) (fun x _ => w64 (leadZeros x)) rfl, fun _ _ hi => add_leadZeros_lt hi, getLsbD_leadZeros⟩

/-- Settles O7: a compare writes its relation as all ones or zeros, and a predicate operation its predicate operands' value. -/
theorem comparesAndPredicates : Obligations.ComparesAndPredicates := by
  intro s c f h hf a x y p put flag
  refine ⟨fun hd => ?_, fun ha => ptos_retires h hf ha⟩
  have cmp (i : Instr) (rel : BitVec 64 → BitVec 64 → Bool) (b : Prop) [Decidable b] (hb : rel x y = decide b) : scalarCmp i c f rel s = flag b := by
    rw [scalarCmp_retires i rel h hf hd, hb]
    simp only [decide_eq_true_eq]
    rfl
  refine ⟨cmp (.cmpeq c f) (· == ·) (x = y) (beq_eq_decide x y), cmp (.cmpne c f) (· != ·) (x ≠ y) (bne_eq_decide x y),
    cmp (.cmplt c f) BitVec.slt _ BitVec.slt_eq_decide, cmp (.cmpltu c f) BitVec.ult _ BitVec.ult_eq_decide,
    cmp (.cmple c f) BitVec.sle _ BitVec.sle_eq_decide, cmp (.cmpleu c f) BitVec.ule _ BitVec.ule_eq_decide,
    pfroms_retires h hf hd, fun ha => ⟨pnot_retires h hf hd ha, fun hb => ?_⟩⟩
  exact ⟨predBin_retires (.pand c f) (· &&& ·) h hf hd ha hb, predBin_retires (.por c f) (· ||| ·) h hf hd ha hb⟩

end Sys2Proof.Machine

/-! PROOF. Faults (02 R65, R68, R70, R101, R102, R706): what raises one at issue, and what the first fault of a core leaves. -/

namespace Sys2Proof.Machine

open Sys2Proof.Claims

/-! ### A record of the Field Book -/

theorem alert_frame (s : State) (code : Nat) : { s.alert code with svy := s.svy, sys := s.sys } = s := by
  unfold State.alert; split
  · simp only; split <;> rfl
  · rfl

theorem freeze_frame (s : State) (cause n : Nat) : { s.freeze cause n with sys := s.sys, host := s.host, pages := s.pages, frz := s.frz } = s := by
  unfold State.freeze; split <;> rfl

/-- A Field Book record reaches no core, no context and no memory. -/
theorem fbRecord_frame (s : State) (code : Nat) (p : Bytes) :
    { s.fbRecord code p with fbk := s.fbk, svy := s.svy, sys := s.sys, host := s.host, pages := s.pages, frz := s.frz } = s := by
  have ha := alert_frame (s.fbStore code p) code
  unfold State.fbRecord
  simp only
  split
  · exact congrArg (fun t : State => { t with fbk := s.fbk, host := s.host, pages := s.pages, frz := s.frz }) ha
  · next n _ =>
    have hf := freeze_frame ((s.fbStore code p).alert code) 3 n
    rw [← hf] at ha
    exact congrArg (fun t : State => { t with fbk := s.fbk, host := s.host, pages := s.pages, frz := s.frz }) ha

@[simp] theorem fbRecord_core (s : State) (code : Nat) (p : Bytes) (d : Nat) : (s.fbRecord code p).core d = s.core d :=
  congrArg (·.core d) (fbRecord_frame s code p)

/-! ### The first fault of a core (R101, R102) -/

/-- A core with its fault recorded: issue stops and the engines hold no operation. -/
def Core.faultedWith (k : Core) (f : CoreFault) : Core :=
  { k with
    fault := some f, run := .faulted, preempt := false
    arch := { k.arch with mxe := [], vxe := none, sleOp := none, tme := none, stall := none } }

section
variable {s : State} {c : Nat} (code : Nat) (precise : Bool) (src pc addr : Nat)

theorem coreFault_of_faulted (h : (s.core c).run = .faulted) : s.coreFault c code precise src pc addr = s.countErr (.core c) := by
  simp [State.coreFault, h]

/-- The first fault of a core on which no context and no filter invocation runs. -/
theorem coreFault_of_bare (h : (s.core c).run ≠ .faulted) (hb : (s.core c).bound = false) (hi : lget s.fch.invs c = none) :
    let f : CoreFault := { code := code, precise := precise, src := src, pc := pc, addr := w64 addr }
    s.coreFault c code precise src pc addr = (s.modCore c fun k => k.faultedWith f).faultRecord c (s.core c).ctx.toNat f := by
  simp [State.coreFault, h, hb, hi, State.modCore, Core.faultedWith]

end

theorem canIssue_of_run_ne {s : State} {c : Nat} (h : (s.core c).run ≠ .running) : s.canIssue c = false := by
  simp [State.canIssue, h]

/-! ### Checks at issue -/

theorem tkBad_eq_true {tk : BitVec 6} (h : 32 ≤ tk.toNat) (h' : tk ≠ 63) : tkBad tk = true := by
  simpa [tkBad, h] using h'

theorem syncPre_refused {f : SyncF} (h : f.n = 0 ∨ 32 ≤ f.tk.toNat) : syncPre f = some 0x01 := by
  refine firstFault_eq_some (by simp) ⟨_, List.mem_singleton_self _, ?_⟩
  rcases h with h | h
  · simp [h]
  · by_cases hk : f.tk = 63
    · simp [hk]
    · simp [tkBad_eq_true h hk]

theorem barPre_refused {f : SyncF} (h : f.n ≠ 0 ∨ f.tk ≠ 0) : barPre f = some 0x01 := by
  refine firstFault_eq_some (by simp) ⟨_, List.mem_singleton_self _, ?_⟩
  rcases h with h | h
  · simp only [bne_iff_ne.mpr h, Bool.or_true]
  · simp only [bne_iff_ne.mpr h, Bool.or_true, Bool.true_or]

/-- The instruction issues with the fault `pre` at issue, if that is one. -/
def checksAt (s : State) (c : Nat) (i : Instr) (pre : Option Nat) : Prop :=
  ∃ g skip stall run, exec i s = s.issue i c g pre skip stall run

/-- A failed check at issue is a precise fault with its code. -/
theorem checksAt.faults {s : State} {c code : Nat} {i : Instr} {pre : Option Nat} (hi : checksAt s c i pre) (h : fetches s c) (hin : inProgram s c)
    (hp : pre = some code) : exec i s = next (s.coreFault c code true 0 (s.pcOf c) 0) := by
  obtain ⟨g, skip, stall, run, hi⟩ := hi
  exact hi.trans (issue_fault h hin hp)

section
variable (s : State) (c : Nat)

theorem checksAt_add (f : ScalarF) : checksAt s c (.add c f) (scalarPre f false) :=
  ⟨_, _, _, _, by unfold exec execAdd; rfl⟩
theorem checksAt_pfroms (f : ScalarF) : checksAt s c (.pfroms c f) (scalarPre f (predField f.sd)) :=
  ⟨_, _, _, _, by unfold exec execPfroms; rfl⟩
theorem checksAt_cmpeq (f : ScalarF) : checksAt s c (.cmpeq c f) (scalarPre f (predField f.sd)) :=
  ⟨_, _, _, _, by unfold exec execCmpeq; rfl⟩
theorem checksAt_movhi (f : ScalarF) : checksAt s c (.movhi c f) (scalarPre f (! f.i)) :=
  ⟨_, _, _, _, by unfold exec execMovhi; rfl⟩
theorem checksAt_tmov (f : TileF) : checksAt s c (.tmov c f) (firstFault [(f.rsv != 0, 0x01), (tkBad f.tk, 0x01), (false, 0x01)]) :=
  ⟨_, _, _, _, by simp only [exec, execTmov, tileOp, Bool.false_and]; rfl⟩
theorem checksAt_tdset (f : TileF) : checksAt s c (.tdset c f) (firstFault [(f.rsv != 0, 0x01), (tkBad f.tk, 0x01), (f.tk != 63, 0x01)]) :=
  ⟨_, _, _, _, by simp only [exec, execTdset, tileOp, Bool.true_and]; rfl⟩
theorem checksAt_wait (f : SyncF) : checksAt s c (.wait c f) (syncPre f) :=
  ⟨_, _, _, _, by unfold exec execWait; rfl⟩
theorem checksAt_post (f : SyncF) : checksAt s c (.post c f) (syncPre f) :=
  ⟨_, _, _, _, by unfold exec execPost; rfl⟩
theorem checksAt_bar (f : SyncF) : checksAt s c (.bar c f) (barPre f) :=
  ⟨_, _, _, _, by unfold exec execBar; rfl⟩
theorem checksAt_fence (f : SyncF) : checksAt s c (.fence c f) (barPre f) :=
  ⟨_, _, _, _, by unfold exec execFence; rfl⟩

end

/-! ### The statement -/

/-- What the instructions of `Obligations.FaultsAtIssue` raise at issue. -/
theorem faults_at_issue {s : State} {c : Nat} (h : fetches s c) (hin : inProgram s c) :
    let bad : Out := next (s.coreFault c 0x01 true 0 (s.pcOf c) 0)
    (∀ f : ScalarF,
      (f.rsv ≠ 0 ∨ (f.i = true ∧ f.sb ≠ 0) ∨ (f.i = false ∧ f.imm ≠ 0) → exec (.add c f) s = bad ∧ exec (.pfroms c f) s = bad) ∧
      (8 ≤ f.sd.toNat → exec (.cmpeq c f) s = bad) ∧ (f.i = false → exec (.movhi c f) s = bad)) ∧
    (∀ f : TileF, (f.rsv ≠ 0 ∨ (32 ≤ f.tk.toNat ∧ f.tk ≠ 63) → exec (.tmov c f) s = bad) ∧ (f.tk ≠ 63 → exec (.tdset c f) s = bad)) ∧
    (∀ f : SyncF, (f.n = 0 ∨ 32 ≤ f.tk.toNat → exec (.wait c f) s = bad ∧ exec (.post c f) s = bad) ∧
      (f.n ≠ 0 ∨ f.tk ≠ 0 → exec (.bar c f) s = bad ∧ exec (.fence c f) s = bad)) := by
  refine ⟨fun f => ⟨fun hf => ?_, fun hd => ?_, fun hi => ?_⟩, fun f => ⟨fun hf => ?_, fun hk => ?_⟩, fun f => ⟨fun hf => ?_, fun hf => ?_⟩⟩
  · exact ⟨(checksAt_add s c f).faults h hin (scalarPre_unclean _ hf), (checksAt_pfroms s c f).faults h hin (scalarPre_unclean _ hf)⟩
  · exact (checksAt_cmpeq s c f).faults h hin (by rw [predField_eq_true hd]; exact scalarPre_own f)
  · exact (checksAt_movhi s c f).faults h hin (by rw [hi]; exact scalarPre_own f)
  · refine (checksAt_tmov s c f).faults h hin (firstFault_eq_some (by simp) ?_)
    rcases hf with hf | ⟨hf, hk⟩
    · exact ⟨_, .head _, bne_iff_ne.mpr hf⟩
    · exact ⟨_, .tail _ (.head _), tkBad_eq_true hf hk⟩
  · exact (checksAt_tdset s c f).faults h hin (firstFault_eq_some (by simp) ⟨_, .tail _ (.tail _ (.head _)), bne_iff_ne.mpr hk⟩)
  · exact ⟨(checksAt_wait s c f).faults h hin (syncPre_refused hf), (checksAt_post s c f).faults h hin (syncPre_refused hf)⟩
  · exact ⟨(checksAt_bar s c f).faults h hin (barPre_refused hf), (checksAt_fence s c f).faults h hin (barPre_refused hf)⟩

/-- Settles O5: each check at issue raises its code before anything of the instruction takes effect, and the record of the first fault is the last
change that it makes. -/
theorem faultsAtIssue : Obligations.FaultsAtIssue := by
  refine ⟨⟨fun s c f h hpc => ?_, fun s c f h hin => (faults_at_issue h hin).1 f, fun s c f h hin => (faults_at_issue h hin).2.1 f,
    fun s c f h hin => (faults_at_issue h hin).2.2 f⟩, fun s c code src pc addr precise => ⟨coreFault_of_faulted code precise src pc addr, fun h hb hi => ?_⟩⟩
  · obtain ⟨hc, hi, hst⟩ := h
    obtain ⟨g, skip, stall, run, hx⟩ := checksAt_add s c f
    exact hx.trans (issue_past_program hc hi (turnOf_of_stall_none hst _) hpc)
  · intro t
    let f : CoreFault := { code := code, precise := precise, src := src, pc := pc, addr := w64 addr }
    have ht : t = _ := coreFault_of_bare code precise src pc addr h hb hi
    have hself : t.core c = (s.core c).faultedWith f := by
      rw [ht, State.faultRecord, fbRecord_core, core_modCore_self]
    refine ⟨by rw [hself]; rfl, canIssue_of_run_ne (by rw [hself]; simp [Core.faultedWith]), by rw [hself]; rfl, by rw [hself]; rfl, by rw [hself]; rfl,
      by rw [hself]; rfl, by rw [hself]; rfl, fun d hd => ?_, s.modCore c fun k => k.faultedWith f, rfl, ht.trans ?_⟩
    · rw [ht, State.faultRecord, fbRecord_core, core_modCore_of_ne _ _ hd]
    · have haddr : addr % 2 ^ 64 % 2 ^ 32 = addr % 2 ^ 32 := by omega
      simp only [State.faultRecord, CoreFault.word, w64, BitVec.toNat_ofNat, haddr]
      rfl

end Sys2Proof.Machine

/-! PROOF. Branches, and what every core instruction does where it cannot issue (02 Table 2.7, R49, R65, R70). -/

namespace Sys2Proof.Machine

open Sys2Proof.Claims

/-! ### Instructions that go through the sequencer's issue -/

/-- An instruction that has its effect through `State.issue` alone. -/
def issuesThrough (s : State) (c : Nat) (i : Instr) : Prop := ∃ g pre skip stall run, exec i s = s.issue i c g pre skip stall run

/-- What an instruction does that is not in turn, and at a PC that holds no instruction of the program. -/
theorem issuesThrough.outOfProgram {s : State} {c : Nat} {i : Instr} (h : issuesThrough s c i) (hc : c < 768) (hi : s.canIssue c = true) :
    (s.turnOf c i = false → exec i s = next s) ∧
    (s.turnOf c i = true →
      ((s.core c).progLen.toNat ≤ s.pcOf c → exec i s = next (s.coreFault c 0x08 true 0 (s.pcOf c) 0)) ∧
      (s.pcOf c < (s.core c).progLen.toNat → s.noInstr c = true → exec i s = next (s.coreFault c 0x01 true 0 (s.pcOf c) 0))) := by
  obtain ⟨g, pre, skip, stall, run, hx⟩ := h
  rw [hx]
  exact ⟨issue_not_in_turn hc hi, fun ht => ⟨issue_past_program hc hi ht, issue_no_instruction hc hi ht⟩⟩

section
variable (s : State) (c : Nat)

theorem scalar_issuesThrough (f : ScalarF) :
    ∀ i ∈ ([.add c f, .sub c f, .and c f, .or c f, .xor c f, .shl c f, .shr c f, .sar c f, .mul c f, .mulhu c f, .mulhs c f, .min c f, .max c f, .minu c f,
    .maxu c f, .movhi c f, .popc c f, .clz c f, .cmpeq c f, .cmpne c f, .cmplt c f, .cmpltu c f, .cmple c f, .cmpleu c f, .pand c f, .por c f, .pnot
    c f, .pfroms c f, .ptos c f] : List Instr), issuesThrough s c i := by
  intro i hi
  fin_cases hi <;> exact ⟨_, _, _, _, _, by simp only [exec, execAdd, execSub, execAnd, execOr, execXor, execShl, execShr, execSar, execMul, execMulhu, execMulhs, execMin, execMax, execMinu,
    execMaxu, execMovhi, execPopc, execClz, execCmpeq, execCmpne, execCmplt, execCmpltu, execCmple, execCmpleu, execPand, execPor, execPnot,
    execPfroms, execPtos, scalarBin, scalarCmp, predBin]; rfl⟩

theorem branch_issuesThrough (f : BranchF) :
    ∀ i ∈ ([.br c f, .brz c f, .brnz c f, .call c f, .jr c f, .loop c f] : List Instr), issuesThrough s c i := by
  intro i hi
  fin_cases hi <;> exact ⟨_, _, _, _, _, by simp only [exec, execBr, execBrz, execBrnz, execCall, execJr, execLoop, branchOp]; rfl⟩

theorem ldSt_issuesThrough (f : LdStF) :
    ∀ i ∈ ([.ld8u c f, .ld16u c f, .ld32u c f, .ld64 c f, .ld8s c f, .ld16s c f, .ld32s c f, .st8 c f, .st16 c f, .st32 c f, .st64 c f, .vld c f, .vst c f,
    .vstp c f, .pld c f, .pst c f] : List Instr), issuesThrough s c i := by
  intro i hi
  fin_cases hi <;> exact ⟨_, _, _, _, _, by simp only [exec, execLd8u, execLd16u, execLd32u, execLd64, execLd8s, execLd16s, execLd32s, execSt8, execSt16, execSt32, execSt64, execVld, execVst,
    execVstp, execPld, execPst, loadU, loadS, storeS, loadOp, storeOp]; rfl⟩

theorem tile_issuesThrough (f : TileF) :
    ∀ i ∈ ([.tmov c f, .tgath c f, .tscat c f, .tfill c f, .tdset c f, .tdget c f] : List Instr), issuesThrough s c i := by
  intro i hi
  fin_cases hi <;> exact ⟨_, _, _, _, _, by simp only [exec, execTmov, execTgath, execTscat, execTfill, execTdset, execTdget, tileOp]; rfl⟩

theorem matrix_issuesThrough (f : MatrixF) :
    ∀ i ∈ ([.mop c f, .msld c f, .mws c f, .mrd c f, .mclr c f] : List Instr), issuesThrough s c i := by
  intro i hi
  fin_cases hi <;> exact ⟨_, _, _, _, _, by simp only [exec, execMop, execMsld, execMws, execMrd, execMclr, matOp]; rfl⟩

theorem vec_issuesThrough (f : VecF) :
    ∀ i ∈ ([.vadd c f, .vsub c f, .vmul c f, .vmin c f, .vmax c f, .vminu c f, .vmaxu c f, .vand c f, .vor c f, .vxor c f, .vshl c f, .vshr c f, .vsar c f,
    .vadds c f, .vcmpeq c f, .vcmplt c f, .vcmpltu c f, .vsel c f, .vbcast c f, .vrsum c f, .vrmin c f, .vrmax c f, .vxpop c f, .vxpopa c f, .vpopc
    c f, .vlut c f, .vcvt c f, .vqnt c f, .vfadd c f, .vfmul c f, .vfma c f] : List Instr), issuesThrough s c i := by
  intro i hi
  fin_cases hi <;> exact ⟨_, _, _, _, _, by simp only [exec, execVadd, execVsub, execVmul, execVmin, execVmax, execVminu, execVmaxu, execVand, execVor, execVxor, execVshl, execVshr, execVsar,
    execVadds, execVcmpeq, execVcmplt, execVcmpltu, execVsel, execVbcast, execVrsum, execVrmin, execVrmax, execVxpop, execVxpopa, execVpopc,
    execVlut, execVcvt, execVqnt, execVfadd, execVfmul, execVfma, vecFlt, vecBin, vecCmp, vecRed, vecOp]; rfl⟩

theorem stream_issuesThrough (f : StreamF) :
    ∀ i ∈ ([.vsxp c f, .vstlk c f] : List Instr), issuesThrough s c i := by
  intro i hi
  fin_cases hi <;> exact ⟨_, _, _, _, _, by simp only [exec, execVsxp, execVstlk, streamOp]; rfl⟩

theorem sel_issuesThrough (f : SelF) :
    ∀ i ∈ ([.sclr c f, .stopk c f, .ssort c f, .smerge c f, .semit c f, .scmrg c f] : List Instr), issuesThrough s c i := by
  intro i hi
  fin_cases hi <;> exact ⟨_, _, _, _, _, by simp only [exec, execSclr, execStopk, execSsort, execSmerge, execSemit, execScmrg, selOp]; rfl⟩

theorem sync_issuesThrough (f : SyncF) :
    ∀ i ∈ ([.wait c f, .post c f, .postc c f, .bar c f, .fence c f] : List Instr), issuesThrough s c i := by
  intro i hi
  fin_cases hi <;> exact ⟨_, _, _, _, _, by simp only [exec, execWait, execPost, execPostc, execBar, execFence]; rfl⟩

theorem sys_issuesThrough (f : SysF) :
    ∀ i ∈ ([.halt c f, .evt c f, .trap c f, .rdstep c f, .rdcore c f, .rdctx c f] : List Instr), issuesThrough s c i := by
  intro i hi
  fin_cases hi <;> exact ⟨_, _, _, _, _, by simp only [exec, execHalt, execEvt, execTrap, execRdstep, execRdcore, execRdctx]; rfl⟩

theorem vsqntOp_issuesThrough (i : Instr) (f : StreamF) : ∃ g pre skip stall run, vsqntOp i c f s = s.issue i c g pre skip stall run := by
  unfold vsqntOp streamOp
  split
  · exact ⟨_, _, _, _, _, rfl⟩
  split
  · exact ⟨_, _, _, _, _, rfl⟩
  split
  · exact ⟨_, _, _, _, _, rfl⟩
  · exact ⟨_, _, _, _, _, rfl⟩

theorem vsqnt_issuesThrough (f : StreamF) :
    ∀ i ∈ ([.vsqntQuantise c f, .vsqntLoad c f, .vsqntStore c f, .vsqntClose c f] : List Instr), issuesThrough s c i := by
  intro i hi
  fin_cases hi <;> exact vsqntOp_issuesThrough s c _ f

end

/-! ### Taken branches -/

section
variable {s : State} {c : Nat}

/-- A branch that is taken within the program: the PC and the image as the branch leaves them, one step more, and nothing else changed. -/
theorem branchTo_inside {t : Int} {upd : Arch → Arch} (h : 0 ≤ t ∧ t < (s.core c).progLen.toNat) :
    s.branchTo c t upd = (s.modArch c upd).jump c t.toNat := by
  rw [State.branchTo, if_neg (by omega)]

theorem branchTo_outside {t : Int} {upd : Arch → Arch} (h : ¬ (0 ≤ t ∧ t < (s.core c).progLen.toNat)) :
    s.branchTo c t upd = s.coreFault c 0x08 true 0 (s.pcOf c) 0 := by
  rw [State.branchTo, if_pos (by omega), State.seqFault]

theorem core_jump_self (n : Nat) : (s.jump c n).core c =
    { s.core c with steps := (s.core c).steps + 1, ran := true, arch := { (s.core c).arch with pc := BitVec.ofNat 15 n, stall := none } } := by
  simp [State.jump]

theorem core_modArch_jump_self (upd : Arch → Arch) (n : Nat) : ((s.modArch c upd).jump c n).core c =
    { s.core c with steps := (s.core c).steps + 1, ran := true, arch := { upd (s.core c).arch with pc := BitVec.ofNat 15 n, stall := none } } := by
  rw [core_jump_self, core_modArch_self]

theorem core_modArch_jump_of_ne (upd : Arch → Arch) (n : Nat) {d : Nat} (hd : d ≠ c) : ((s.modArch c upd).jump c n).core d = s.core d := by
  rw [State.jump, core_modCore_of_ne _ _ hd, core_modArch_of_ne _ _ hd]

end

section
variable {s : State} {c : Nat} {f : BranchF} (i : Instr) {taken : Arch → Bool} {upd : Arch → Arch}

theorem branchPre_clean {b : Bool} (hf : f.rsv = 0) (hb : b = false) : firstFault [(f.rsv != 0, 0x01), (b, 0x01)] = none := by
  simp [firstFault, hf, hb]

theorem branchOp_taken (h : issues s c f.g) (hf : f.rsv = 0) (ht : taken (s.core c).arch = true) :
    branchOp i c f false taken upd s = next (s.branchTo c ((s.pcOf c : Int) + f.off.toInt) upd) := by
  rw [branchOp, issue_of_issues h (branchPre_clean hf rfl) rfl, if_pos ht, State.target]

theorem branchOp_not_taken (h : issues s c f.g) (hf : f.rsv = 0) (ht : taken (s.core c).arch = false) :
    branchOp i c f false taken upd s = next (retire s c upd) := by
  rw [branchOp, issue_of_issues h (branchPre_clean hf rfl) rfl, if_neg (by simp [ht]), retire]

/-- A taken branch moves the PC to its target, or faults and has no effect (R70). -/
theorem branchOp_goes (h : issues s c f.g) (hf : f.rsv = 0) (ht : taken (s.core c).arch = true) :
    let target : Int := (s.pcOf c : Int) + f.off.toInt
    let inside : Prop := 0 ≤ target ∧ target < (s.core c).progLen.toNat
    (inside → ∃ t, branchOp i c f false taken upd s = next t ∧
      (t.core c).arch = { upd (s.core c).arch with pc := BitVec.ofInt 15 target, stall := none } ∧ onlyCores s t ∧
      (t.core c).steps = (s.core c).steps + 1 ∧ ∀ d, d ≠ c → t.core d = s.core d) ∧
    (¬ inside → branchOp i c f false taken upd s = next (s.coreFault c 0x08 true 0 (s.pcOf c) 0)) := by
  intro target inside
  rw [branchOp_taken i h hf ht]
  refine ⟨fun hin => ?_, fun hout => congrArg _ (branchTo_outside hout)⟩
  have hpc : BitVec.ofInt 15 target = BitVec.ofNat 15 target.toNat := by
    rw [← BitVec.ofInt_natCast, Int.toNat_of_nonneg hin.1]
  rw [branchTo_inside hin, hpc]
  refine ⟨_, rfl, ?_, rfl, ?_, fun d hd => core_modArch_jump_of_ne upd _ hd⟩
  · rw [core_modArch_jump_self]
  · rw [core_modArch_jump_self]

/-- JR outside a filter's invocation (Table 2.7). -/
theorem jr_branches (h : issues s c f.g) (hf : f.rsv = 0) (ho : f.off = 0) (hi : lget s.fch.invs c = none) :
    exec (.jr c f) s = next (s.branchTo c (((s.core c).arch.rdS f.sa).toNat % 16384 : Nat) id) := by
  simp only [exec, execJr]
  rw [issue_of_issues h (branchPre_clean hf (by simp [ho])) rfl]
  simp only [hi]

end

/-- Settles O8: the branches are one shared form with their conditions; every other instruction reaches its effect through the sequencer's issue. -/
theorem branches : Obligations.Branches := by
  refine ⟨?_, ?_, ?_⟩
  · intro s c f h hf a target inside go
    have one : ∀ x : BitVec 64, x ≠ 1 → (x - 1 != 0) = true := fun x hx => bne_iff_ne.mpr fun h0 => hx (sub_eq_zero.mp h0)
    let brz (b : Arch) : Bool := b.rdS f.sa == 0
    let brnz (b : Arch) : Bool := b.rdS f.sa != 0
    let link (b : Arch) : Arch := b.wrS 31 (w64 (b.pc.toNat + 1))
    let again (b : Arch) : Bool := b.rdS f.sa - 1 != 0
    let count (b : Arch) : Arch := b.wrS f.sa (b.rdS f.sa - 1)
    refine ⟨branchOp_goes (.br c f) (taken := fun _ => true) (upd := id) h hf rfl,
      fun hz => branchOp_goes (.brz c f) (taken := brz) (upd := id) h hf (beq_iff_eq.mpr hz),
      fun hz => branchOp_not_taken (.brz c f) (taken := brz) (upd := id) h hf (beq_eq_false_iff_ne.mpr hz),
      fun hz => branchOp_goes (.brnz c f) (taken := brnz) (upd := id) h hf (bne_iff_ne.mpr hz),
      fun hz => branchOp_not_taken (.brnz c f) (taken := brnz) (upd := id) h hf (bne_eq_false_iff_eq.mpr hz),
      branchOp_goes (.call c f) (taken := fun _ => true) (upd := link) h hf rfl,
      fun h1 => branchOp_goes (.loop c f) (taken := again) (upd := count) h hf (one _ h1), fun h1 => ?_⟩
    have hlast : (a.rdS f.sa - 1 != 0) = false := by rw [h1]; rfl
    refine (branchOp_not_taken (.loop c f) (taken := again) (upd := count) h hf hlast).trans (congrArg _ (retire_congr fun pc => ?_))
    exact congrArg (Arch.wrS _ f.sa) (show a.rdS f.sa - 1 = 0 by rw [h1]; rfl)
  · intro s c f h hf ho hi target
    rw [jr_branches h hf ho hi]
    refine ⟨fun hin => ?_, fun hout => congrArg _ (branchTo_outside (by omega))⟩
    rw [branchTo_inside ⟨by omega, by exact_mod_cast hin⟩]
    refine ⟨_, rfl, ?_, ?_, rfl, fun d hd => core_modArch_jump_of_ne id _ hd⟩
    · rw [core_modArch_jump_self]; rfl
    · rw [core_modArch_jump_self]
  · intro s c hc hi out
    have outs {l : List Instr} (h : ∀ i ∈ l, issuesThrough s c i) : ∀ i ∈ l, out i := fun i hm => (h i hm).outOfProgram hc hi
    refine ⟨fun f => outs (scalar_issuesThrough s c f), fun f => outs (branch_issuesThrough s c f), fun f => outs (ldSt_issuesThrough s c f),
      fun f => outs (tile_issuesThrough s c f), fun f => outs (matrix_issuesThrough s c f), fun f => outs (vec_issuesThrough s c f),
      fun f => outs (List.forall_mem_append.mpr ⟨stream_issuesThrough s c f, vsqnt_issuesThrough s c f⟩), fun f => outs (sel_issuesThrough s c f),
      fun f => outs (sync_issuesThrough s c f), fun f => outs (sys_issuesThrough s c f)⟩

end Sys2Proof.Machine

/-! PROOF. Core-local memory (02 R72 to R80, R88): where an address lies, what a load finds there, and what a store leaves. -/

namespace Sys2Proof.Machine

open Sys2Proof.Claims

/-! ### Bytes and signed fields -/

theorem getD_leBytes {n i : Nat} (v : Nat) (h : i < n) : (leBytes n v).getD i 0 = BitVec.ofNat 8 (v / 256 ^ i) := by
  induction n generalizing i v with
  | zero => omega
  | succ n ih =>
    cases i with
    | zero => simp [leBytes]
    | succ i => rw [leBytes, List.getD_cons_succ, ih _ (by omega), Nat.div_div_eq_div_mul, ← Nat.pow_succ']

theorem getD_leBytes_toNat {n i w : Nat} (v : BitVec w) (h : i < n) : (leBytes n v.toNat).getD i 0 = byteOf v i := by
  rw [getD_leBytes _ h]
  apply BitVec.eq_of_toNat_eq
  simp only [byteOf, BitVec.toNat_ofNat, BitVec.toNat_setWidth, BitVec.toNat_ushiftRight, Nat.shiftRight_eq_div_pow]
  rw [Nat.pow_mul]

/-- A field read as a signed integer is the bit vector read so. -/
theorem sx_eq_toInt {w : Nat} (v : Nat) (hw : 0 < w) : sx w v = (BitVec.ofNat w v).toInt := by
  have hmsb : (BitVec.ofNat w v).msb = bit v (w - 1) := by
    rw [BitVec.msb_eq_getLsbD_last, BitVec.getLsbD_ofNat, bit, Nat.testBit_eq_decide_div_mod_eq]
    simp only [show w - 1 < w by omega, decide_true, Bool.true_and]
  rw [BitVec.toInt_eq_msb_cond, hmsb, sx, BitVec.toNat_ofNat]
  push_cast
  rfl

/-! ### The place of an address (Table 2.11) -/

theorem spmSize_le (c : Nat) : spmSize c ≤ 0x200000 := by
  unfold spmSize; split <;> omega

theorem cspmSize_le (k : Nat) : cspmSize k ≤ 0x800000 := by
  unfold cspmSize; split <;> omega

section
variable {c a len o : Nat}

theorem placeOf_spm (h : a + len ≤ spmSize c) : placeOf c a len = .spm a := if_pos h

theorem placeOf_setAlias (h : 0x1000000 ≤ a) (h' : inSpm c (a - 0x1000000) len) : placeOf c a len = .setAlias (a - 0x1000000) := by
  obtain ⟨_, h'⟩ := h'
  have := spmSize_le c
  rw [placeOf, if_neg (by omega), if_pos (by omega)]

theorem placeOf_clrAlias (h : 0x2000000 ≤ a) (h' : inSpm c (a - 0x2000000) len) : placeOf c a len = .clrAlias (a - 0x2000000) := by
  obtain ⟨_, h'⟩ := h'
  have := spmSize_le c
  rw [placeOf, if_neg (by omega), if_neg (by omega), if_pos (by omega)]

theorem placeOf_clu (h : 0x4000000 ≤ a) (h' : a + len ≤ 0x4000000 + cspmSize (clusterOf c)) : placeOf c a len = .clu (a - 0x4000000) := by
  have := spmSize_le c
  rw [placeOf, if_neg (by omega), if_neg (by omega), if_neg (by omega), if_pos (by omega)]

theorem of_placeOf_spm (h : placeOf c a len = .spm o) : a + len ≤ spmSize c ∧ o = a := by
  unfold placeOf at h
  dsimp only at h
  split_ifs at h
  all_goals simp_all

theorem of_placeOf_clu (h : placeOf c a len = .clu o) : 0x4000000 ≤ a ∧ a + len ≤ 0x4000000 + cspmSize (clusterOf c) ∧ o = a - 0x4000000 := by
  unfold placeOf at h
  dsimp only at h
  split_ifs at h
  all_goals simp_all

end

/-! ### What a load finds (R72, R77, R88) -/

section
variable {s : State} {c a len : Nat}

theorem rdLocal_spm (h : a + len ≤ spmSize c) : s.rdLocal c a len = some (rdBytes (s.core c).arch.spm a len) := by
  simp only [State.rdLocal, placeOf_spm h]

theorem rdLocal_clu (h : 0x4000000 ≤ a) (h' : a + len ≤ 0x4000000 + cspmSize (clusterOf c)) : s.rdLocal c a len =
    if s.banksOwned c (clusterOf c) (a - 0x4000000) len then some (rdBytes (s.clu (clusterOf c)).spm (a - 0x4000000) len) else none := by
  simp only [State.rdLocal, placeOf_clu h h']

/-- A load finds nothing outside the two scratchpads. -/
theorem rdLocal_outside (h : spmSize c < a + len) (h' : ¬ (0x4000000 ≤ a ∧ a + len ≤ 0x4000000 + cspmSize (clusterOf c))) : s.rdLocal c a len = none := by
  unfold State.rdLocal
  split
  · next o ho => exact absurd (of_placeOf_spm ho).1 (by omega)
  · next o ho =>
    obtain ⟨h1, h2, -⟩ := of_placeOf_clu ho
    exact absurd ⟨h1, h2⟩ h'
  · rfl

/-- No load finds bytes between the scratchpad and the cluster's scratchpad: the aliased ranges lie there. -/
theorem rdLocal_alias (h : 0x1000000 ≤ a) (h' : a < 0x4000000) (hlen : 0 < len) : s.rdLocal c a len = none := by
  have := spmSize_le c
  exact rdLocal_outside (by omega) (by omega)

theorem length_of_rdLocal {bs : Bytes} (h : s.rdLocal c a len = some bs) : bs.length = len := by
  unfold State.rdLocal at h
  split at h
  · cases h; exact length_rdBytes _ _ _
  · split at h
    · cases h; exact length_rdBytes _ _ _
    · cases h
  · cases h

end

/-! ### Loads -/

theorem ldStPre_clean {f : LdStF} {pm own : Bool} (hr : f.rsv = 0) (hp : pm = true ∨ f.pm = 0) (ho : own = false) : ldStPre f pm own = none := by
  have hpm : (! pm && f.pm != 0) = false := by
    rcases hp with rfl | hp
    · rfl
    · simp [hp]
  have hrsv : (f.rsv != 0) = false := by simp [hr]
  simp only [ldStPre, firstFault, hrsv, hpm, ho, Bool.or_false, Bool.false_eq_true, if_false]

section
variable {s : State} {c : Nat} {f : LdStF} (i : Instr) {own : Bool} {len : Nat} (upd : Arch → Nat → Arch)

theorem seqRead_none {a : Nat} (h : s.rdLocal c a len = none) : s.seqRead c a len = none := by
  rw [State.seqRead, h]

/-- Where no incomplete engine operation writes other bytes, a load reads memory. -/
theorem seqRead_of_finds {a : Nat} {bs : Bytes} (h : finds s c a len bs) : s.seqRead c a len = some (bs, s.touchLocal c a len) := by
  obtain ⟨hrd, hviews⟩ := h
  have hall : (((s.views c).filterMap fun u => u.rdLocal c a len).all (· == bs)) = true := by
    rw [List.all_eq_true]
    intro x hx
    obtain ⟨u, hu, hux⟩ := List.mem_filterMap.mp hx
    exact beq_iff_eq.mpr (hviews u hu x hux)
  rw [State.seqRead, hrd]
  simp only [hall, if_true]

theorem length_pickBytes (seed n : Nat) (opts : List Bytes) : (pickBytes seed n opts).length = n := by
  simp [pickBytes]

/-- A byte that is picked is a byte of one of the strings. -/
theorem getD_pickBytes (seed : Nat) {n i : Nat} {opts : List Bytes} (hi : i < n) (ho : opts ≠ []) :
    ∃ x ∈ opts, (pickBytes seed n opts).getD i 0 = x.getD i 0 := by
  have hlt : Config.freeNat (seed + i) % opts.length < opts.length := Nat.mod_lt _ (List.length_pos_iff.mpr ho)
  refine ⟨opts[Config.freeNat (seed + i) % opts.length], List.getElem_mem hlt, ?_⟩
  simp [pickBytes, List.getD_eq_getElem?_getD, hi, hlt]

/-- A load beside incomplete engine operations reads each byte as it stands or as one of them writes it (R80). -/
theorem seqRead_bytes {a : Nat} {old : Bytes} (h : s.rdLocal c a len = some old) :
    ∃ (bs : Bytes) (k : Nat), bs.length = len ∧ s.seqRead c a len = some (bs, { s.touchLocal c a len with free := k }) ∧
      ∀ i, i < len → bs.getD i 0 = old.getD i 0 ∨ ∃ u ∈ s.views c, ∃ x, u.rdLocal c a len = some x ∧ bs.getD i 0 = x.getD i 0 := by
  rw [State.seqRead, h]
  simp only
  split
  · exact ⟨old, (s.touchLocal c a len).free, length_of_rdLocal h, rfl, fun i _ => .inl rfl⟩
  · refine ⟨_, _, length_pickBytes _ _ _, rfl, fun i hi => ?_⟩
    obtain ⟨x, hx, hpick⟩ := getD_pickBytes s.free (opts := old :: (s.views c).filterMap fun u => u.rdLocal c a len) hi (by simp)
    rw [hpick]
    rcases List.mem_cons.mp hx with rfl | hx
    · exact .inl rfl
    · obtain ⟨u, hu, hux⟩ := List.mem_filterMap.mp hx
      exact .inr ⟨u, hu, x, hux, rfl⟩

section
variable (h : issues s c f.g) (hr : f.rsv = 0) (hp : f.pm = 0) (ho : own = false)
include h hr hp ho

theorem loadOp_misaligned (ha : address s c f % len ≠ 0) :
    loadOp i c f own len upd s = next (s.coreFault c 0x03 true 0 (s.pcOf c) (address s c f)) := by
  rw [loadOp, issue_of_issues h (ldStPre_clean hr (.inr hp) ho) rfl]
  simp only [show (s.core c).arch.ea f = address s c f from rfl, if_pos ha, State.seqFault]

theorem loadOp_aligned (ha : address s c f % len = 0) : loadOp i c f own len upd s =
    next (match s.seqRead c (address s c f) len with
      | none => s.coreFault c 0x02 true 0 (s.pcOf c) (address s c f)
      | some (bs, u) => retire u c fun b => upd b (leNat bs)) := by
  rw [loadOp, issue_of_issues h (ldStPre_clean hr (.inr hp) ho) rfl]
  simp only [show (s.core c).arch.ea f = address s c f from rfl, if_neg (not_not.mpr ha)]
  rfl

theorem loadOp_nowhere (ha : address s c f % len = 0) (hn : s.rdLocal c (address s c f) len = none) :
    loadOp i c f own len upd s = next (s.coreFault c 0x02 true 0 (s.pcOf c) (address s c f)) := by
  rw [loadOp_aligned i upd h hr hp ho ha, seqRead_none hn]

theorem loadOp_finds {bs : Bytes} (ha : address s c f % len = 0) (hf : finds s c (address s c f) len bs) :
    loadOp i c f own len upd s = next (retire (s.touchLocal c (address s c f) len) c fun b => upd b (leNat bs)) := by
  rw [loadOp_aligned i upd h hr hp ho ha, seqRead_of_finds hf]

end
end

/-! ### The statements about loads -/

/-- What a load writes into a scalar register, zero-extended or sign-extended from `len` bytes, and into a predicate or vector register. -/
def zextTo (f : LdStF) (b : Arch) (v : Nat) : Arch := b.wrS f.rd (w64 v)
def sextTo (f : LdStF) (len : Nat) (b : Arch) (v : Nat) : Arch := b.wrS f.rd (BitVec.ofInt 64 (sx (8 * len) v))
def predTo (f : LdStF) (b : Arch) (v : Nat) : Arch := b.wrP (predOfRd f) (w64 v)
def vecTo (f : LdStF) (b : Arch) (v : Nat) : Arch := b.wrV (vecOfRd f) (BitVec.ofNat 512 v)

theorem sextTo_eq {f : LdStF} {len : Nat} (hlen : 0 < len) (b : Arch) (v : Nat) :
    sextTo f len b v = b.wrS f.rd ((BitVec.ofNat (8 * len) v).signExtend 64) := by
  rw [sextTo, sx_eq_toInt v (by omega)]; rfl

theorem predTo_eq (f : LdStF) (b : Arch) (v : Nat) : predTo f b v = b.wrP (f.rd.extractLsb' 0 3) (BitVec.ofNat 64 v) := by
  rw [predTo, predOfRd, setWidth_eq_extractLsb'_zero, w64]

theorem vecTo_eq (f : LdStF) (b : Arch) (v : Nat) : vecTo f b v = b.wrV (f.rd.extractLsb' 0 4) (BitVec.ofNat 512 v) := by
  rw [vecTo, vecOfRd, setWidth_eq_extractLsb'_zero]

theorem vecField_eq_false {f : LdStF} (h : f.rd.toNat < 16) : vecField f = false := by
  simp [vecField, h]

/-- Settles O9: the place of an address decides what a load finds, and a load that finds nothing is an address fault. -/
theorem localReads : Obligations.LocalReads := by
  refine ⟨fun s c a len _ hpos hlen => ⟨rdLocal_spm, fun h h' => rdLocal_alias h h' hpos, fun h h' => ?_, fun h => ?_⟩, ?_⟩
  · rw [rdLocal_clu h h']
    exact ⟨fun hb => if_pos hb, fun hb => if_neg (by simp [hb])⟩
  · have := spmSize_le c
    have := cspmSize_le (clusterOf c)
    exact rdLocal_outside (by omega) (by omega)
  · intro s c f h hr hp a bad hlo hhi
    have none (len : Nat) (hlen : 0 < len) : s.rdLocal c a len = none := rdLocal_alias hlo (by omega) hlen
    exact ⟨loadOp_nowhere (.ld8u c f) (len := 1) (zextTo f) h hr hp rfl (Nat.mod_one _) (none 1 (by omega)),
      loadOp_nowhere (.ld8s c f) (sextTo f 1) h hr hp rfl (Nat.mod_one _) (none 1 (by omega)),
      fun ha => ⟨loadOp_nowhere (.ld16u c f) (zextTo f) h hr hp rfl ha (none 2 (by omega)),
        loadOp_nowhere (.ld16s c f) (sextTo f 2) h hr hp rfl ha (none 2 (by omega))⟩,
      fun ha => ⟨loadOp_nowhere (.ld32u c f) (zextTo f) h hr hp rfl ha (none 4 (by omega)),
        loadOp_nowhere (.ld32s c f) (sextTo f 4) h hr hp rfl ha (none 4 (by omega))⟩,
      fun ha => ⟨loadOp_nowhere (.ld64 c f) (zextTo f) h hr hp rfl ha (none 8 (by omega)),
        fun hd => loadOp_nowhere (.pld c f) (predTo f) h hr hp (predField_eq_false hd) ha (none 8 (by omega))⟩,
      fun ha hd => loadOp_nowhere (.vld c f) (vecTo f) h hr hp (vecField_eq_false hd) ha (none 64 (by omega))⟩

/-- Settles O10: every load is one shared form with its length and its register, and reads memory where no incomplete operation writes other bytes. -/
theorem loads : Obligations.Loads := by
  refine ⟨?_, ?_⟩
  · intro s c f bs h hr hp a n put bad
    have one : a % 1 = 0 := Nat.mod_one a
    refine ⟨fun hf => ⟨loadOp_finds (.ld8u c f) (zextTo f) h hr hp rfl one hf, ?_⟩,
      fun ha hf => ⟨loadOp_finds (.ld16u c f) (zextTo f) h hr hp rfl ha hf, ?_⟩, fun ha hf => ⟨loadOp_finds (.ld32u c f) (zextTo f) h hr hp rfl ha hf, ?_⟩,
      fun ha hf => ⟨loadOp_finds (.ld64 c f) (zextTo f) h hr hp rfl ha hf, fun hd => ?_⟩, fun ha hd hf => ?_,
      loadOp_misaligned (.ld64 c f) (zextTo f) h hr hp rfl, loadOp_misaligned (.ld32s c f) (sextTo f 4) h hr hp rfl,
      loadOp_misaligned (.ld16u c f) (zextTo f) h hr hp rfl, fun ha hd => loadOp_misaligned (.vld c f) (vecTo f) h hr hp (vecField_eq_false hd) ha,
      fun ha hd => loadOp_misaligned (.pld c f) (predTo f) h hr hp (predField_eq_false hd) ha,
      fun hn => ⟨loadOp_nowhere (.ld8u c f) (zextTo f) h hr hp rfl one hn, loadOp_nowhere (.ld8s c f) (sextTo f 1) h hr hp rfl one hn⟩,
      fun ha hd hn => loadOp_nowhere (.vld c f) (vecTo f) h hr hp (vecField_eq_false hd) ha hn⟩
    · refine (loadOp_finds (.ld8s c f) (sextTo f 1) h hr hp rfl one hf).trans ?_
      simp only [sextTo_eq Nat.one_pos]; rfl
    · refine (loadOp_finds (.ld16s c f) (sextTo f 2) h hr hp rfl ha hf).trans ?_
      simp only [sextTo_eq Nat.two_pos]; rfl
    · refine (loadOp_finds (.ld32s c f) (sextTo f 4) h hr hp rfl ha hf).trans ?_
      simp only [sextTo_eq four_pos]; rfl
    · refine (loadOp_finds (.pld c f) (predTo f) h hr hp (predField_eq_false hd) ha hf).trans ?_
      simp only [predTo_eq]; rfl
    · refine (loadOp_finds (.vld c f) (vecTo f) h hr hp (vecField_eq_false hd) ha hf).trans ?_
      simp only [vecTo_eq]; rfl
  · intro s c f old h hr hp ha hold
    obtain ⟨bs, k, hlen, hrd, hbytes⟩ := seqRead_bytes hold
    refine ⟨bs, k, hlen, (loadOp_aligned (.ld64 c f) (len := 8) (zextTo f) h hr hp rfl ha).trans ?_, hbytes⟩
    rw [hrd]; rfl

end Sys2Proof.Machine

/-! PROOF. Stores (02 R72 to R78, R88): the bytes stored, the mark of a touched list, and what stays. -/

namespace Sys2Proof.Machine

open Sys2Proof.Claims

/-! ### Marks that an access leaves -/

theorem strayAt_frame (s : State) (c o len : Nat) : { s.strayAt c o len with fch := s.fch } = s := by
  unfold State.strayAt
  split
  · rfl
  · split <;> rfl

@[simp] theorem strayAt_core (s : State) (c o len d : Nat) : (s.strayAt c o len).core d = s.core d := congrArg (·.core d) (strayAt_frame s c o len)

theorem strayAt_of_none {s : State} {c : Nat} (o len : Nat) (h : lget s.fch.invs c = none) : s.strayAt c o len = s := by
  simp only [State.strayAt, h]

theorem touchCore_frame (s : State) (c lo len : Nat) : { s.touchCore c lo len with cores := s.cores } = s := by
  unfold State.touchCore; split <;> rfl

/-- The image of a core with its list marked as touched, or not. -/
def Arch.touch (a : Arch) (b : Bool) : Arch := { a with sle := { a.sle with touched := b } }

theorem core_touchCore (s : State) (c lo len d : Nat) : ∃ b, (s.touchCore c lo len).core d = { s.core d with arch := (s.core d).arch.touch b } := by
  unfold State.touchCore
  split
  · by_cases hd : d = c
    · subst hd; exact ⟨true, core_modArch_self _ _ _⟩
    · exact ⟨_, core_modArch_of_ne _ _ hd⟩
  · exact ⟨(s.core d).arch.sle.touched, rfl⟩

theorem core_touchCore_of_ne (s : State) {c d : Nat} (lo len : Nat) (h : d ≠ c) : (s.touchCore c lo len).core d = s.core d := by
  unfold State.touchCore
  split
  · exact core_modArch_of_ne _ _ h
  · rfl

theorem foldl_touchCore (l : List Nat) (k o len : Nat) (s : State) :
    let t := l.foldl (fun t j => t.touchCore (k * 8 + j) o len) s
    { t with cores := s.cores } = s ∧ ∀ d, ∃ b, t.core d = { s.core d with arch := (s.core d).arch.touch b } := by
  induction l generalizing s with
  | nil => exact ⟨rfl, fun d => ⟨(s.core d).arch.sle.touched, rfl⟩⟩
  | cons j l ih =>
    obtain ⟨hframe, hcore⟩ := ih (s.touchCore (k * 8 + j) o len)
    refine ⟨?_, fun d => ?_⟩
    · exact (congrArg (fun t : State => { t with cores := s.cores }) hframe).trans (touchCore_frame s _ o len)
    · obtain ⟨b, hb⟩ := hcore d
      obtain ⟨b', hb'⟩ := core_touchCore s (k * 8 + j) o len d
      exact ⟨b, by rw [List.foldl_cons, hb, hb']; rfl⟩

theorem touchClu_frame (s : State) (k o len : Nat) : { s.touchClu k o len with cores := s.cores } = s := (foldl_touchCore _ k _ len s).1

theorem core_touchClu (s : State) (k o len d : Nat) : ∃ b, (s.touchClu k o len).core d = { s.core d with arch := (s.core d).arch.touch b } :=
  (foldl_touchCore _ k _ len s).2 d

/-! ### Stores into the core's own scratchpad -/

/-- What stands in the scratchpad after a store of bytes, the mark of a touched list, and one step of the core. -/
theorem storedTo_of_bytes {s : State} {c o len : Nat} {g : Arch → Bytes} {new : Nat → Byte} (hlen : (g (s.core c).arch).length = len)
    (hnew : ∀ i, i < len → (g (s.core c).arch).getD i 0 = new (o + i)) :
    storedTo s ((((s.strayAt c o len).modArch c fun y => { y with spm := wrBytes y.spm o (g y) }).touchCore c o len).next c) c o len new := by
  generalize hu : (s.strayAt c o len).modArch c (fun y => { y with spm := wrBytes y.spm o (g y) }) = u
  have hself : u.core c = { s.core c with arch := { (s.core c).arch with spm := wrBytes (s.core c).arch.spm o (g (s.core c).arch) } } := by
    rw [← hu, core_modArch_self, strayAt_core]
  obtain ⟨b, hb⟩ := core_touchCore u c o len c
  have hframe : { (u.touchCore c o len).next c with cores := s.cores, fch := s.fch } = s := by
    have h1 := congrArg (fun t : State => { t with cores := s.cores, fch := s.fch }) (touchCore_frame u c o len)
    have h2 := congrArg (fun t : State => { t with cores := s.cores }) (strayAt_frame s c o len)
    rw [← hu] at h1 ⊢
    exact h1.trans h2
  have hfch : ((u.touchCore c o len).next c).fch = (s.strayAt c o len).fch := by
    have h1 := congrArg State.fch (touchCore_frame u c o len)
    rw [← hu] at h1 ⊢
    exact h1
  refine ⟨fun b => ?_, ?_, ?_, ?_, ?_, hframe, fun hi => ?_, fun d hd => ?_⟩
  · rw [core_next_self, hb, hself]
    simp only [Arch.touch, rdByte_wrBytes, hlen]
    split
    · next hb => rw [hnew _ (by omega), show o + (b - o) = b by omega]
    · rfl
  · rw [core_next_self, hb, hself]; rfl
  · rw [core_next_self]
  · rw [core_next_self, hb, hself]
  · rw [core_next_self, hb, hself]; rfl
  · rw [hfch, strayAt_of_none _ _ hi]
  · rw [core_next_of_ne _ hd, core_touchCore_of_ne _ _ _ hd, ← hu, core_modArch_of_ne _ _ hd, strayAt_core]

/-! ### Store instructions -/

theorem getD_zipWith {g : Byte → Byte → Byte} {as bs : Bytes} {n j : Nat} (hj : j < n) (ha : as.length = n) (hb : bs.length = n) :
    (List.zipWith g as bs).getD j 0 = g (as.getD j 0) (bs.getD j 0) := by
  subst ha
  simp [List.getD_eq_getElem?_getD, hj, hb]

/-- The bytes that a store takes from a scalar, a vector or a predicate register. -/
def sReg (f : LdStF) (len : Nat) (y : Arch) (_ : State) (_ : Nat) : Bytes := leBytes len (y.rdS f.rd).toNat
def vReg (f : LdStF) (y : Arch) (_ : State) (_ : Nat) : Bytes := bvBytes 64 (y.rdV (vecOfRd f))
def pReg (f : LdStF) (y : Arch) (_ : State) (_ : Nat) : Bytes := bvBytes 8 (y.rdP (predOfRd f))

section
variable {s : State} {c : Nat} {f : LdStF} (i : Instr) {pm own : Bool} {len : Nat} (val : Arch → State → Nat → Bytes)
  (h : issues s c f.g) (hr : f.rsv = 0) (hp : pm = true ∨ f.pm = 0) (ho : own = false)
include h hr hp ho

theorem storeOp_misaligned (ha : address s c f % len ≠ 0) :
    storeOp i c f pm own len val s = next (s.coreFault c 0x03 true 0 (s.pcOf c) (address s c f)) := by
  rw [storeOp, issue_of_issues h (ldStPre_clean hr hp ho) rfl]
  simp only [show (s.core c).arch.ea f = address s c f from rfl, if_pos ha, State.seqFault]

theorem storeOp_aligned (ha : address s c f % len = 0) : storeOp i c f pm own len val s =
    next (match s.storeLocal c (address s c f) (val (s.core c).arch s (address s c f)) with
      | none => s.coreFault c 0x02 true 0 (s.pcOf c) (address s c f)
      | some u => (u.touchLocal c (address s c f) len).next c) := by
  rw [storeOp, issue_of_issues h (ldStPre_clean hr hp ho) rfl]
  simp only [show (s.core c).arch.ea f = address s c f from rfl, if_neg (not_not.mpr ha)]
  rfl

variable (hlen : (val (s.core c).arch s (address s c f)).length = len)
include hlen

/-- A store into the scratchpad (R72). -/
theorem storeOp_spm (hin : inSpm c (address s c f) len) (ha : address s c f % len = 0) {new : Nat → Byte}
    (hnew : ∀ j, j < len → (val (s.core c).arch s (address s c f)).getD j 0 = new (address s c f + j)) :
    ∃ t, storeOp i c f pm own len val s = next t ∧ storedTo s t c (address s c f) len new := by
  have hplace : placeOf c (address s c f) len = .spm (address s c f) := placeOf_spm hin.2
  refine ⟨_, storeOp_aligned i val h hr hp ho ha, ?_⟩
  simp only [State.storeLocal, State.wrLocal, State.touchLocal, hlen, hplace]
  exact storedTo_of_bytes (g := fun _ => val (s.core c).arch s (address s c f)) hlen hnew

/-- A store through the aliased range that sets bits (R76). -/
theorem storeOp_setAlias (hlo : 0x1000000 ≤ address s c f) (hin : inSpm c (address s c f - 0x1000000) len) (ha : address s c f % len = 0) {v : Nat → Byte}
    (hv : ∀ j, j < len → (val (s.core c).arch s (address s c f)).getD j 0 = v j) :
    ∃ t, storeOp i c f pm own len val s = next t ∧ storedTo s t c (address s c f - 0x1000000) len fun b =>
      rdByte (s.core c).arch.spm b ||| v (b - (address s c f - 0x1000000)) := by
  have hplace : placeOf c (address s c f) len = .setAlias (address s c f - 0x1000000) := placeOf_setAlias hlo hin
  refine ⟨_, storeOp_aligned i val h hr hp ho ha, ?_⟩
  simp only [State.storeLocal, State.touchLocal, hlen, hplace]
  refine storedTo_of_bytes (g := fun y => List.zipWith (· ||| ·) (rdBytes y.spm _ len) _) ?_ fun j hj => ?_
  · simp [length_rdBytes, hlen]
  · rw [getD_zipWith hj (length_rdBytes _ _ _) hlen, getD_rdBytes _ _ _ _ hj, hv j hj, Nat.add_sub_cancel_left]

/-- A store through the aliased range that clears bits (R76). -/
theorem storeOp_clrAlias (hlo : 0x2000000 ≤ address s c f) (hin : inSpm c (address s c f - 0x2000000) len) (ha : address s c f % len = 0) {v : Nat → Byte}
    (hv : ∀ j, j < len → (val (s.core c).arch s (address s c f)).getD j 0 = v j) :
    ∃ t, storeOp i c f pm own len val s = next t ∧ storedTo s t c (address s c f - 0x2000000) len fun b =>
      rdByte (s.core c).arch.spm b &&& ~~~ v (b - (address s c f - 0x2000000)) := by
  have hplace : placeOf c (address s c f) len = .clrAlias (address s c f - 0x2000000) := placeOf_clrAlias hlo hin
  refine ⟨_, storeOp_aligned i val h hr hp ho ha, ?_⟩
  simp only [State.storeLocal, State.touchLocal, hlen, hplace]
  refine storedTo_of_bytes (g := fun y => List.zipWith (fun u v => u &&& ~~~v) (rdBytes y.spm _ len) _) ?_ fun j hj => ?_
  · simp [length_rdBytes, hlen]
  · rw [getD_zipWith hj (length_rdBytes _ _ _) hlen, getD_rdBytes _ _ _ _ hj, hv j hj, Nat.add_sub_cancel_left]

end

/-! ### Stores into the cluster's scratchpad (R88) -/

section
variable {s : State} {c : Nat} {f : LdStF} (h : issues s c f.g) (hr : f.rsv = 0) (hp : f.pm = 0) (ha : address s c f % 8 = 0)
  (hlo : 0x4000000 ≤ address s c f) (hhi : address s c f + 8 ≤ 0x4000000 + cspmSize (clusterOf c))
include h hr hp ha hlo hhi

theorem st64_clu_refused (hb : s.banksOwned c (clusterOf c) (address s c f - 0x4000000) 8 = false) :
    exec (.st64 c f) s = next (s.coreFault c 0x02 true 0 (s.pcOf c) (address s c f)) := by
  refine (storeOp_aligned (.st64 c f) (len := 8) (sReg f 8) h hr (.inr hp) rfl ha).trans ?_
  simp only [sReg, State.storeLocal, State.wrLocal, length_leBytes, placeOf_clu hlo hhi, hb, Bool.false_eq_true, if_false]

/-- A store into a bank of the core's context. -/
theorem st64_clu (hb : s.banksOwned c (clusterOf c) (address s c f - 0x4000000) 8 = true) :
    exec (.st64 c f) s = next (((s.modClu (clusterOf c) fun k =>
      { k with spm := wrBytes k.spm (address s c f - 0x4000000) (leBytes 8 ((s.core c).arch.rdS f.rd).toNat) }).touchClu
        (clusterOf c) (address s c f - 0x4000000) 8).next c) := by
  refine (storeOp_aligned (.st64 c f) (len := 8) (sReg f 8) h hr (.inr hp) rfl ha).trans ?_
  simp only [sReg, State.storeLocal, State.wrLocal, State.touchLocal, length_leBytes, placeOf_clu hlo hhi, hb, if_true]

end

/-- The registers and the scratchpad of a core are not what a touched list and a step change. -/
theorem core_touchClu_next (s : State) (c k o len d : Nat) :
    ((((s.touchClu k o len).next c).core d).arch.s = (s.core d).arch.s) ∧ (((s.touchClu k o len).next c).core d).arch.spm = (s.core d).arch.spm := by
  obtain ⟨b, hb⟩ := core_touchClu s k o len d
  by_cases hd : d = c
  · subst hd
    rw [core_next_self, hb]
    exact ⟨rfl, rfl⟩
  · rw [core_next_of_ne _ hd, hb]
    exact ⟨rfl, rfl⟩

theorem next_with_cores (s : State) (c : Nat) (m : NMap Core) : { s.next c with cores := m } = { s with cores := m } := rfl

theorem touchClu_next_frame (s : State) (c k o len : Nat) : { (s.touchClu k o len).next c with cores := s.cores } = s :=
  (next_with_cores _ c s.cores).trans (touchClu_frame s k o len)

/-- What a store of bytes into a cluster's scratchpad leaves, where nothing but marks and a step of a core come with it. -/
theorem clu_stored {s t : State} {k o : Nat} (v : BitVec 64)
    (hframe : ∃ m : NMap Core, { t with cores := m } = s.modClu k fun x => { x with spm := wrBytes x.spm o (leBytes 8 v.toNat) })
    (hcore : ∀ d, (t.core d).arch.s = (s.core d).arch.s ∧ (t.core d).arch.spm = (s.core d).arch.spm) :
    (∀ b, rdByte (t.clu k).spm b = if o ≤ b ∧ b < o + 8 then byteOf v (b - o) else rdByte (s.clu k).spm b) ∧
    (∀ m, m ≠ k → t.clu m = s.clu m) ∧ (∀ d r, (t.core d).arch.rdS r = (s.core d).arch.rdS r) ∧
    (∀ d, (t.core d).arch.spm = (s.core d).arch.spm) ∧ { t with cores := s.cores, clus := s.clus } = s := by
  obtain ⟨m, hframe⟩ := hframe
  have hclus := congrArg State.clus hframe
  have hclu : ∀ j, t.clu j = (s.modClu k fun x => { x with spm := wrBytes x.spm o (leBytes 8 v.toNat) }).clu j := clu_congr hclus
  refine ⟨fun b => ?_, fun m hm => ?_, fun d r => ?_, fun d => (hcore d).2, congrArg (fun t : State => { t with cores := s.cores, clus := s.clus }) hframe⟩
  · rw [hclu, clu_modClu_self, rdByte_wrBytes, length_leBytes]
    split
    · exact getD_leBytes_toNat v (by omega)
    · rfl
  · rw [hclu, clu_modClu_of_ne _ _ hm]
  · exact congrArg (fun m => if r = 0 then 0 else mget 0 m r.toNat) (hcore d).1

theorem st64_clu_stores {s : State} {c : Nat} {f : LdStF} (h : issues s c f.g) (hr : f.rsv = 0) (hp : f.pm = 0) (ha : address s c f % 8 = 0)
    (hlo : 0x4000000 ≤ address s c f) (hhi : address s c f + 8 ≤ 0x4000000 + cspmSize (clusterOf c))
    (hb : s.banksOwned c (clusterOf c) (address s c f - 0x4000000) 8 = true) :
    ∃ t, exec (.st64 c f) s = next t ∧
      (∀ b, rdByte (t.clu (clusterOf c)).spm b =
        if address s c f - 0x4000000 ≤ b ∧ b < address s c f - 0x4000000 + 8 then byteOf ((s.core c).arch.rdS f.rd) (b - (address s c f - 0x4000000))
        else rdByte (s.clu (clusterOf c)).spm b) ∧
      (∀ m, m ≠ clusterOf c → t.clu m = s.clu m) ∧ (∀ d r, (t.core d).arch.rdS r = (s.core d).arch.rdS r) ∧
      (∀ d, (t.core d).arch.spm = (s.core d).arch.spm) ∧ { t with cores := s.cores, clus := s.clus } = s :=
  ⟨_, st64_clu h hr hp ha hlo hhi hb, clu_stored _ ⟨_, touchClu_next_frame _ c _ _ 8⟩ fun d => core_touchClu_next _ c _ _ 8 d⟩

/-! ### The statement -/

/-- The bytes of VSTP: those of the register that PM enables, and what memory holds. -/
theorem getD_vstpBytes {s : State} {c a j : Nat} {f : LdStF} (y : Arch) (hin : inSpm c a 64) (hj : j < 64) : (vstpBytes c f y s a).getD j 0 =
    if (y.rdP f.pm).getLsbD j then byteOf (y.rdV (f.rd.extractLsb' 0 4)) j else rdByte (s.core c).arch.spm (a + j) := by
  have hold : (s.rdLocal c a 64).getD (zeros 64) = rdBytes (s.core c).arch.spm a 64 := by rw [rdLocal_spm hin.2]; rfl
  simp only [vstpBytes, hold, bvBytes, vecOfRd, setWidth_eq_extractLsb'_zero]
  rw [List.getD_eq_getElem?_getD, List.getElem?_map, List.getElem?_range hj]
  simp only [Option.map_some, Option.getD_some, getD_leBytes_toNat _ hj, getD_rdBytes _ _ _ _ hj]

/-- Settles O11: every store is one shared form with its length and its bytes, and the place of its address decides what it writes. -/
theorem stores : Obligations.Stores := by
  refine ⟨?_, ?_⟩
  · intro s c f h hr x a old plain aliased reg
    have plainOf (i : Instr) {pm own : Bool} {len : Nat} (val : Arch → State → Nat → Bytes) {v : Nat → Byte} (hp : pm = true ∨ f.pm = 0) (ho : own = false)
        (hlen : (val x s a).length = len) (hv : inSpm c a len → ∀ j, j < len → (val x s a).getD j 0 = v j) : plain (storeOp i c f pm own len val s) len v :=
      ⟨fun hin ha => storeOp_spm i val h hr hp ho hlen hin ha fun j hj => by rw [hv hin j hj, Nat.add_sub_cancel_left],
        storeOp_misaligned i val h hr hp ho⟩
    have aliasedOf (i : Instr) {pm own : Bool} {len : Nat} (val : Arch → State → Nat → Bytes) {v : Nat → Byte} (hp : pm = true ∨ f.pm = 0) (ho : own = false)
        (hlen : (val x s a).length = len) (hv : ∀ j, j < len → (val x s a).getD j 0 = v j) : aliased (storeOp i c f pm own len val s) len v :=
      ⟨fun hlo hin ha => storeOp_setAlias i val h hr hp ho hlen hlo hin ha hv, fun hlo hin ha => storeOp_clrAlias i val h hr hp ho hlen hlo hin ha hv⟩
    have sBytes (len : Nat) : ∀ j, j < len → (sReg f len x s a).getD j 0 = reg j := fun j hj => getD_leBytes_toNat _ hj
    have vBytes : ∀ j, j < 64 → (vReg f x s a).getD j 0 = byteOf (x.rdV (f.rd.extractLsb' 0 4)) j := fun j hj => by
      rw [vReg, bvBytes, vecOfRd, setWidth_eq_extractLsb'_zero, getD_leBytes_toNat _ hj]
    have pBytes : ∀ j, j < 8 → (pReg f x s a).getD j 0 = byteOf (x.rdP (f.rd.extractLsb' 0 3)) j := fun j hj => by
      rw [pReg, bvBytes, predOfRd, setWidth_eq_extractLsb'_zero, getD_leBytes_toNat _ hj]
    refine ⟨fun hp => ?_, fun hp hd => ?_, fun hp hd => ?_, fun hd => ?_⟩
    · have plainS (i : Instr) (len : Nat) : plain (storeOp i c f false false len (sReg f len) s) len reg :=
        plainOf i (sReg f len) (.inr hp) rfl (length_leBytes _ _) fun _ => sBytes len
      have aliasedS (i : Instr) (len : Nat) : aliased (storeOp i c f false false len (sReg f len) s) len reg :=
        aliasedOf i (sReg f len) (.inr hp) rfl (length_leBytes _ _) (sBytes len)
      exact ⟨plainS (.st8 c f) 1, plainS (.st16 c f) 2, plainS (.st32 c f) 4, plainS (.st64 c f) 8, aliasedS (.st8 c f) 1, aliasedS (.st16 c f) 2,
        aliasedS (.st32 c f) 4, aliasedS (.st64 c f) 8⟩
    · exact ⟨plainOf (.vst c f) (vReg f) (.inr hp) (vecField_eq_false hd) (length_leBytes _ _) fun _ => vBytes,
        aliasedOf (.vst c f) (vReg f) (.inr hp) (vecField_eq_false hd) (length_leBytes _ _) vBytes⟩
    · exact plainOf (.pst c f) (pReg f) (.inr hp) (predField_eq_false hd) (length_leBytes _ _) fun _ => pBytes
    · exact plainOf (.vstp c f) (vstpBytes c f) (.inl rfl) (vecField_eq_false hd) (by simp [vstpBytes]) fun hin j hj => getD_vstpBytes x hin hj
  · intro s c f h hr hp a k ha hlo hhi
    exact ⟨st64_clu_stores h hr hp ha hlo hhi, st64_clu_refused h hr hp ha hlo hhi⟩

end Sys2Proof.Machine

/-! PROOF. Vector lanes (02 R60, R707): a register taken apart and put together by lanes, and the integer operations on them. -/

namespace Sys2Proof.Machine

open Sys2Proof.Claims

/-! ### Lanes -/

/-- A digit of a number given by its digits. -/
theorem ofDigits_digit {b : Nat} {l : List Nat} (hl : ∀ x ∈ l, x < b) {j : Nat} (hj : j < l.length) : Nat.ofDigits b l / b ^ j % b = l[j] := by
  have hpos : 0 < b := Nat.pos_of_ne_zero fun hb => by simpa [hb] using hl _ (List.getElem_mem hj)
  rw [Nat.ofDigits_div_pow_eq_ofDigits_drop j hpos l hl, List.drop_eq_getElem_cons hj, Nat.ofDigits_cons, Nat.add_mul_mod_self_left,
    Nat.mod_eq_of_lt (hl _ (List.getElem_mem hj))]

/-- What a lane of a masked result holds, before it is put into the register. -/
def laneOf (w : Nat) (pm : BitVec 64) (old : BitVec 512) (g : Nat → Nat) (i : Nat) : Nat :=
  if laneOn pm w i then g i % 2 ^ (8 * w) else vlane w i old

theorem laneOf_lt (w : Nat) (pm : BitVec 64) (old : BitVec 512) (g : Nat → Nat) (i : Nat) : laneOf w pm old g i < 2 ^ (8 * w) := by
  unfold laneOf vlane
  split <;> exact Nat.mod_lt _ (by positivity)

theorem vmap_eq_ofDigits (w : Nat) (pm : BitVec 64) (old : BitVec 512) (g : Nat → Nat) :
    vmap w pm old g = BitVec.ofNat 512 (Nat.ofDigits (2 ^ (8 * w)) ((List.range (64 / w)).map (laneOf w pm old g))) := by
  rw [vmap, Nat.ofDigits_eq_foldr, List.foldr_map]
  rfl

/-- The lanes of a masked result (R60). -/
theorem lane_vmap {w i : Nat} (hw : w ∣ 64) (hi : i < 64 / w) (pm : BitVec 64) (old : BitVec 512) (g : Nat → Nat) :
    lane w i (vmap w pm old g) = if pm.getLsbD (i * w) then g i % 2 ^ (8 * w) else lane w i old := by
  have hdigits : ∀ x ∈ (List.range (64 / w)).map (laneOf w pm old g), x < 2 ^ (8 * w) := by
    intro x hx
    obtain ⟨j, -, rfl⟩ := List.mem_map.mp hx
    exact laneOf_lt w pm old g j
  have hlt : Nat.ofDigits (2 ^ (8 * w)) ((List.range (64 / w)).map (laneOf w pm old g)) < 2 ^ 512 := by
    have hpos : 0 < w := Nat.pos_of_dvd_of_pos hw (by norm_num)
    have hone : 1 < 2 ^ (8 * w) := Nat.one_lt_two_pow (by omega)
    have hbits : 8 * w * (64 / w) = 512 := by rw [Nat.mul_assoc, Nat.mul_div_cancel' hw]
    have h := Nat.ofDigits_lt_base_pow_length hone hdigits
    rwa [List.length_map, List.length_range, ← Nat.pow_mul, hbits] at h
  rw [vmap_eq_ofDigits, lane, BitVec.toNat_ofNat, Nat.mod_eq_of_lt hlt, Nat.pow_mul 2 (8 * w) i, ofDigits_digit hdigits (by simpa using hi)]
  simp [laneOf, laneOn, vlane, lane]

theorem vbytes_dvd (f : VecF) : vbytes f ∣ 64 :=
  pow_dvd_pow (m := f.w.toNat) (n := 6) 2 (by omega)

theorem vbytes_pos (f : VecF) : 0 < 8 * vbytes f := by
  unfold vbytes; positivity

/-! ### What an instruction by lanes leaves -/

section
variable {s : State} {c : Nat} {f : VecF} (i : Instr) {pre : List (Bool × Nat)}

theorem vecOp_retires {upd : Arch → Arch} (h : issues s c f.g) (hv : (s.core c).arch.vxe = none) (hp : firstFault pre = none) :
    vecOp i c f pre upd s = next (retire s c upd) := by
  rw [vecOp, issue_of_issues h hp (by rw [hv]; rfl), retire]

/-- An instruction that writes each enabled lane from the image as it stands. -/
theorem vecOp_lanewise {g : Arch → Nat → Nat} {op : Nat → Nat} (h : issues s c f.g) (hv : (s.core c).arch.vxe = none) (hp : firstFault pre = none)
    (hg : ∀ (pc : BitVec 15) (j : Nat),
      g { (s.core c).arch with pc := pc, stall := none } j % 2 ^ (8 * vbytes f) = op j % 2 ^ (8 * vbytes f)) :
    lanewise s c f (vecOp i c f pre (fun a => a.wrV f.vd (vmap (vbytes f) (a.rdP f.pm) (a.rdV f.vd) (g a))) s) op := by
  let a : Arch := { (s.core c).arch with pc := (s.core c).arch.pc + 1, stall := none }
  refine ⟨vmap (vbytes f) (a.rdP f.pm) (a.rdV f.vd) (g a), ?_, fun j hj => ?_⟩
  · rw [vecOp_retires i h hv hp]
    exact congrArg _ (modArch_congr _ _ _ _ (by rw [next_arch]))
  · exact (lane_vmap (vbytes_dvd f) hj _ _ _).trans (if_congr Iff.rfl (hg _ j) rfl)

theorem vecBin_lanewise {bop : Nat → Nat → Nat → Nat} {op : Nat → Nat} (h : issues s c f.g) (hv : (s.core c).arch.vxe = none) (hp : firstFault pre = none)
    (hop : ∀ j, bop (lane (vbytes f) j ((s.core c).arch.rdV f.va)) (lane (vbytes f) j ((s.core c).arch.rdV f.vb))
      (lane (vbytes f) j ((s.core c).arch.rdV f.vd)) = op j) :
    lanewise s c f (vecBin i c f pre bop s) op :=
  vecOp_lanewise i (g := fun a j => bop (vlane (vbytes f) j (a.rdV f.va)) (vlane (vbytes f) j (a.rdV f.vb)) (vlane (vbytes f) j (a.rdV f.vd))) h hv hp
    fun _ j => congrArg (· % _) (hop j)

end

/-! ### Operations on a lane -/

theorem vpat_eq (f : VecF) (n : Int) : vpat f n = (BitVec.ofInt (8 * vbytes f) n).toNat := by
  rw [vpat, lowBits, BitVec.toNat_ofInt]
  push_cast
  rfl

theorem vsx_eq (f : VecF) (v : Nat) : vsx f v = (BitVec.ofNat (8 * vbytes f) v).toInt := sx_eq_toInt v (vbytes_pos f)

theorem vsar_eq (f : VecF) (v k : Nat) : vpat f (vsx f v / 2 ^ k) = ((BitVec.ofNat (8 * vbytes f) v).sshiftRight k).toNat := by
  rw [vpat_eq, vsx_eq, BitVec.sshiftRight, Int.shiftRight_eq_div_pow]
  push_cast
  rfl

theorem clampInt_eq (top v : Int) (h : 0 < top) : clampInt (-top) (top - 1) v = if v < -top then -top else if top ≤ v then top - 1 else v := by
  unfold clampInt
  split_ifs <;> omega

theorem laneOnes_eq (f : VecF) (x : Nat) : laneOnes f x = (List.range (8 * vbytes f)).countP x.testBit := by
  rw [laneOnes, List.countP_eq_length_filter]

/-- Settles O12: each instruction is the shared form by lanes with its operation, whose value is the table's. -/
theorem vectorLanes : Obligations.VectorLanes := by
  intro s c f h hv a w x y d sx sy bitsOf top ones lw
  have htop : 0 < top := by positivity
  have hx (j : Nat) : vsx f (x j) = sx j := vsx_eq f _
  have hy (j : Nat) : vsx f (y j) = sy j := vsx_eq f _
  have bin (i : Instr) (bop : Nat → Nat → Nat → Nat) {op : Nat → Nat} (hop : ∀ j, bop (x j) (y j) (d j) = op j) : lw (vecBin i c f [] bop s) op :=
    vecBin_lanewise i h hv rfl hop
  refine ⟨bin (.vadd c f) (fun x y _ => x + y) fun _ => rfl, bin (.vsub c f) (fun x y _ => vpat f ((x : Int) - y)) fun j => vpat_eq f _,
    bin (.vmul c f) (fun x y _ => x * y) fun _ => rfl, bin (.vmin c f) (fun x y _ => if vsx f x ≤ vsx f y then x else y) fun j => ?_,
    bin (.vmax c f) (fun x y _ => if vsx f x ≤ vsx f y then y else x) fun j => ?_, bin (.vminu c f) (fun x y _ => min x y) fun _ => rfl,
    bin (.vmaxu c f) (fun x y _ => max x y) fun _ => rfl, bin (.vand c f) (fun x y _ => x &&& y) fun _ => rfl,
    bin (.vor c f) (fun x y _ => x ||| y) fun _ => rfl, bin (.vxor c f) (fun x y _ => x ^^^ y) fun _ => rfl,
    bin (.vshl c f) (fun x y _ => x * 2 ^ vcount f y) fun j => (Nat.shiftLeft_eq _ _).symm,
    bin (.vshr c f) (fun x y _ => x / 2 ^ vcount f y) fun j => (Nat.shiftRight_eq_div_pow _ _).symm,
    bin (.vsar c f) (fun x y _ => vpat f (vsx f x / 2 ^ vcount f y)) fun j => vsar_eq f _ _,
    bin (.vadds c f) (fun x y _ => vpat f (clampInt (-(2 ^ (8 * vbytes f - 1))) (2 ^ (8 * vbytes f - 1) - 1) (vsx f x + vsx f y))) fun j => ?_,
    bin (.vxpop c f) (fun x y _ => laneOnes f (x ^^^ y)) fun j => laneOnes_eq f _,
    bin (.vxpopa c f) (fun x y d => d + laneOnes f (x ^^^ y)) fun j => congrArg (d j + ·) (laneOnes_eq f _),
    bin (.vpopc c f) (fun x _ _ => laneOnes f x) fun j => laneOnes_eq f _,
    vecOp_lanewise (.vbcast c f) (pre := []) (g := fun a _ => (a.rdS f.sx).toNat) (op := fun _ => (a.rdS f.sx).toNat) h hv rfl fun _ _ => rfl⟩
  · exact if_congr (by rw [hx, hy]) rfl rfl
  · exact if_congr (by rw [hx, hy]) rfl rfl
  · rw [hx, hy, vpat_eq]
    exact congrArg bitsOf (clampInt_eq top _ htop)

end Sys2Proof.Machine

/-! PROOF. VQNT and the mark of a slot's finite inputs (03 R148, R149). -/

namespace Sys2Proof.Machine

open Sys2Proof.Claims

/-- The image of core 0 after an outcome. -/
def imageAfter (o : Out) : Arch :=
  match o with
  | .next t => (t.core 0).arch
  | _ => {}

/-- A core whose registers, slots and instruction memory are zero, at the first word of a program of one word. -/
def zeroCore : State :=
  { State.reset with sys := { powered := true, upStep := 7 }, cores := [(0, { run := .running, progLen := 1 })] }

/-- VQNT of the zeros of v0 through slot 0, every lane enabled. -/
def vqntZeros : VecF := { g := { gp := 0, gs := false }, vd := 0, va := 0, vb := 0, pm := 0, w := 0, sx := 0, aux := 0 }

theorem zeroCore_issues : issues zeroCore 0 vqntZeros.g ∧ (zeroCore.core 0).arch.vxe = none := by
  unfold issues fetches inProgram; decide +kernel

/-- The zeros are finite inputs: slot 0 is marked as holding a range. -/
theorem vqntZeros_marks_slot : (imageAfter (exec (.vqnt 0 vqntZeros) zeroCore)).qfin = [0] := by decide +kernel

/-- Refutes O13: VQNT of a finite input also marks its slot as holding the range of finite inputs (`Arch.qfin`), which the last clause leaves out of what
changes; `zeroCore` and `vqntZeros` show it. -/
theorem not_vectorReductionsTablesFloats : ¬ Obligations.VectorReductionsTablesFloats := by
  intro h
  obtain ⟨hissues, hvxe⟩ := zeroCore_issues
  obtain ⟨-, -, -, -, -, r, st, k, hstep, -⟩ := h.2 zeroCore 0 vqntZeros hissues hvxe
  have hmark := vqntZeros_marks_slot
  have hkept : (imageAfter (exec (.vqnt 0 vqntZeros) zeroCore)).qfin = (zeroCore.core 0).arch.qfin := by
    rw [hstep, imageAfter, core_retire_self]; rfl
  rw [hkept] at hmark
  exact absurd hmark (by decide)

end Sys2Proof.Machine

/-! PROOF. What leaves a core's registers alone: the upkeep of contexts, and the writes of engines to memory. -/

namespace Sys2Proof.Machine

open Sys2Proof.Claims

/-! ### A change that changes nothing -/

theorem mins_mins {α : Type} (m : NMap α) (x : Nat) (v : α) : mins x v (mins x v m) = mins x v m := by
  induction m with
  | nil => simp [mins]
  | cons e r ih =>
    obtain ⟨k, w⟩ := e
    rcases Nat.lt_trichotomy x k with h | h | h
    · simp [mins, h]
    · simp [mins, h]
    · simp [mins, h.ne', h.not_gt, ih]

theorem mset_mset {α : Type} [DecidableEq α] (d : α) (m : NMap α) (x : Nat) (v : α) : mset d (mset d m x v) x v = mset d m x v := by
  unfold mset
  split
  · simp [mdel, List.filter_filter]
  · exact mins_mins m x v

theorem setCore_setCore (s : State) (c : Nat) (x : Core) : (s.setCore c x).setCore c x = s.setCore c x :=
  congrArg (fun m => ({ s with cores := m } : State)) (mset_mset {} s.cores c x)

/-- An instruction that only retires. -/
theorem retire_id (s : State) (c : Nat) : retire s c id = s.next c := by
  have h : (s.next c).modArch c id = (s.next c).setCore c ((s.next c).core c) := rfl
  rw [retire, h, core_next_self]
  exact setCore_setCore s c _

/-! ### The upkeep of contexts -/

theorem refresh_frame (s : State) (x : Nat) : { s.refresh x with sched := s.sched } = s := by
  unfold State.refresh; split <;> rfl

theorem refreshOn_frame (s : State) (c : Nat) : { s.refreshOn c with sched := s.sched } = s := by
  unfold State.refreshOn
  split
  · rfl
  · exact refresh_frame s _

@[simp] theorem modCtx_core (s : State) (x : Nat) (f : Ctx → Ctx) (d : Nat) : (s.modCtx x f).core d = s.core d := rfl
@[simp] theorem refresh_core (s : State) (x d : Nat) : (s.refresh x).core d = s.core d := congrArg (·.core d) (refresh_frame s x)
@[simp] theorem refreshOn_core (s : State) (c d : Nat) : (s.refreshOn c).core d = s.core d := congrArg (·.core d) (refreshOn_frame s c)
@[simp] theorem refresh_clus (s : State) (x : Nat) : (s.refresh x).clus = s.clus := congrArg (·.clus) (refresh_frame s x)
@[simp] theorem refreshOn_clus (s : State) (c : Nat) : (s.refreshOn c).clus = s.clus := congrArg (·.clus) (refreshOn_frame s c)

theorem ctxOn_eq_none {s : State} {c : Nat} (h : (s.core c).bound = false) : s.ctxOn c = none := by
  simp [State.ctxOn, h]

theorem ctxOn_congr {s t : State} {c : Nat} (hb : (t.core c).bound = (s.core c).bound) (hx : (t.core c).ctx = (s.core c).ctx) : t.ctxOn c = s.ctxOn c := by
  simp only [State.ctxOn, hb, hx]

theorem refreshOn_of_unbound {s : State} {c : Nat} (h : (s.core c).bound = false) : s.refreshOn c = s := by
  rw [State.refreshOn, ctxOn_eq_none h]

/-- What a context is after the upkeep of its times. -/
theorem ctx_modCtx (s : State) (x y : Nat) (f : Ctx → Ctx) : (s.modCtx x f).ctx? y = if y = x then (s.ctx? y).map f else s.ctx? y :=
  lget_map s.sched.ctxs x y f

theorem ctx_refresh_self (s : State) (x : Nat) : ∃ b w : Option Nat, (s.refresh x).ctx? x =
    (s.ctx? x).map fun c => { c with blockedSince := b, waitSince := w } := by
  unfold State.refresh
  split
  · next h => exact ⟨none, none, by rw [h]; rfl⟩
  · next cx h =>
    exact ⟨_, _, by rw [ctx_modCtx, if_pos rfl, h]; rfl⟩

/-! ### Writes to memory -/

/-- The image of a core with another scratchpad and its list marked as touched or not. -/
def Arch.withMem (a : Arch) (m : Mem) (b : Bool) : Arch := { a with spm := m, sle := { a.sle with touched := b } }

/-- Only the scratchpads of cores and clusters, the marks of touched lists and of stray stores, and the count of free values may differ. -/
structure OnlyMem (s t : State) : Prop where
  frame : { t with cores := s.cores, clus := s.clus, fch := s.fch, free := s.free } = s
  core : ∀ d, ∃ m b, t.core d = { s.core d with arch := (s.core d).arch.withMem m b }
  inv : ∀ d, lget s.fch.invs d = none → lget t.fch.invs d = none

namespace OnlyMem

theorem refl (s : State) : OnlyMem s s := ⟨rfl, fun d => ⟨(s.core d).arch.spm, (s.core d).arch.sle.touched, rfl⟩, fun _ h => h⟩

theorem trans {s t u : State} (h : OnlyMem s t) (h' : OnlyMem t u) : OnlyMem s u := by
  refine ⟨?_, fun d => ?_, fun d hd => h'.inv d (h.inv d hd)⟩
  · have h2 := congrArg (fun t : State => { t with cores := s.cores, clus := s.clus, fch := s.fch, free := s.free }) h'.frame
    exact h2.trans h.frame
  · obtain ⟨m, b, hm⟩ := h.core d
    obtain ⟨m', b', hm'⟩ := h'.core d
    exact ⟨m', b', by rw [hm', hm]; rfl⟩

theorem free (s : State) (n : Nat) : OnlyMem s { s with free := n } := ⟨rfl, (refl s).core, fun _ h => h⟩

theorem strayAt (s : State) (c o len : Nat) : OnlyMem s (s.strayAt c o len) := by
  refine ⟨?_, fun d => ⟨(s.core d).arch.spm, (s.core d).arch.sle.touched, by rw [strayAt_core]; rfl⟩, fun d hd => ?_⟩
  · exact congrArg (fun t : State => { t with cores := s.cores, clus := s.clus, free := s.free }) (strayAt_frame s c o len)
  · unfold State.strayAt
    split
    · exact hd
    · next v hv =>
      split
      · exact hd
      · have hne : d ≠ c := fun h => by rw [h, hv] at hd; cases hd
        exact (lget_lset _ _ _ _).trans (by rw [if_neg hne]; exact hd)

theorem modArch_withMem (s : State) (c : Nat) (m : Arch → Mem) (b : Arch → Bool) : OnlyMem s (s.modArch c fun a => a.withMem (m a) (b a)) := by
  refine ⟨rfl, fun d => ?_, fun _ h => h⟩
  by_cases hd : d = c
  · subst hd; exact ⟨_, _, core_modArch_self _ _ _⟩
  · exact ⟨(s.core d).arch.spm, (s.core d).arch.sle.touched, core_modArch_of_ne _ _ hd⟩

theorem modSpm (s : State) (c : Nat) (g : Mem → Mem) : OnlyMem s (s.modArch c fun a => { a with spm := g a.spm }) :=
  modArch_withMem s c (fun a => g a.spm) (fun a => a.sle.touched)

theorem modClu (s : State) (k : Nat) (f : Cluster → Cluster) : OnlyMem s (s.modClu k f) := ⟨rfl, (refl s).core, fun _ h => h⟩

theorem touchCore (s : State) (c lo len : Nat) : OnlyMem s (s.touchCore c lo len) := by
  unfold State.touchCore
  split
  · exact modArch_withMem s c (fun a => a.spm) (fun _ => true)
  · exact refl s

theorem foldl {α : Type} {f : State → α → State} (hf : ∀ s x, OnlyMem s (f s x)) (l : List α) (s : State) : OnlyMem s (l.foldl f s) := by
  induction l generalizing s with
  | nil => exact refl s
  | cons x l ih => exact (hf s x).trans (ih _)

theorem touchClu (s : State) (k o len : Nat) : OnlyMem s (s.touchClu k o len) := foldl (fun s _ => touchCore s _ _ _) _ s

theorem touchLocal (s : State) (c a len : Nat) : OnlyMem s (s.touchLocal c a len) := by
  unfold State.touchLocal
  split
  · exact touchCore s _ _ _
  · exact touchClu s _ _ _
  · exact touchCore s _ _ _
  · exact touchCore s _ _ _
  · exact refl s

theorem touchAll (s : State) (c : Nat) (rows : List (Nat × Nat)) : OnlyMem s (s.touchAll c rows) :=
  foldl (fun s (r : Nat × Nat) => touchLocal s c r.1 r.2) rows s

theorem wrLocal {s t : State} {c a : Nat} {bs : Bytes} (h : s.wrLocal c a bs = some t) : OnlyMem s t := by
  unfold State.wrLocal at h
  split at h
  · next o _ =>
    cases h
    exact (strayAt s c o bs.length).trans (modSpm _ c fun m => wrBytes m o bs)
  · split at h
    · cases h; exact modClu s _ _
    · cases h
  · cases h

theorem wrLocal_getD (s : State) (c a : Nat) (bs : Bytes) : OnlyMem s ((s.wrLocal c a bs).getD s) := by
  cases h : s.wrLocal c a bs with
  | none => exact refl s
  | some t => exact wrLocal h

theorem wrStream (c : Nat) (rows : List (Nat × Nat)) (bs : Bytes) (s : State) : OnlyMem s (State.wrStream c s rows bs) := by
  induction rows generalizing s bs with
  | nil => exact refl s
  | cons r rows ih =>
    obtain ⟨a, len⟩ := r
    rw [State.wrStream]
    split
    · exact refl s
    · exact ((wrLocal_getD s c a _).trans (touchLocal _ c a _)).trans (ih _ _)

theorem putRecord (s : State) (c : Nat) (l : SleList) (rows : List (Nat × Nat)) : OnlyMem s (s.putRecord c l rows) := by
  unfold State.putRecord
  split
  · exact (free s _).trans (wrStream c rows _ _)
  · exact (free s _).trans (wrStream c rows _ _)

end OnlyMem

end Sys2Proof.Machine

/-! PROOF. Tokens, barriers, merge rounds and system instructions (02 R53, R54, R78, R82, R89, R90, R100; 04 R185). -/

namespace Sys2Proof.Machine

open Sys2Proof.Claims

/-! ### Checks at issue -/

theorem tkBad_of_lt {tk : BitVec 6} (h : tk.toNat < 32) : tkBad tk = false := by
  simp [tkBad, h]

theorem syncPre_clean {f : SyncF} (hr : f.rsv = 0) (hk : f.tk.toNat < 32) (hn : 0 < f.n.toNat) : syncPre f = none := by
  have h63 : f.tk ≠ 63 := fun h => by rw [h] at hk; exact absurd hk (by decide)
  have h0 : f.n ≠ 0 := fun h => by rw [h] at hn; exact absurd hn (by decide)
  exact firstFault_none _ (by simpa [hr, tkBad_of_lt hk] using And.intro h63 h0)

theorem barPre_clean {f : SyncF} (hr : f.rsv = 0) (hk : f.tk = 0) (hn : f.n = 0) : barPre f = none :=
  firstFault_none _ (by simp [hr, hk, hn])

theorem sysPre_clean {f : SysF} (hr : f.rsv = 0) : sysPre f false = none :=
  firstFault_none _ (by simp [hr])

/-! ### Stalls -/

theorem stallAt_frame (s : State) (c : Nat) (i : Instr) (w : Stall) :
    { s.stallAt c i w with cores := s.cores, free := s.free, sched := s.sched } = s :=
  congrArg (fun t : State => { t with cores := s.cores, free := s.free })
    (refreshOn_frame { s.modArch c fun a => { a with stall := some ⟨i, w⟩ } with free := s.free + 1 } c)

@[simp] theorem stallAt_clus (s : State) (c : Nat) (i : Instr) (w : Stall) : (s.stallAt c i w).clus = s.clus :=
  congrArg (·.clus) (stallAt_frame s c i w)

theorem core_stallAt_self (s : State) (c : Nat) (i : Instr) (w : Stall) : (s.stallAt c i w).core c =
    { s.core c with arch := { (s.core c).arch with stall := some ⟨i, w⟩ } } :=
  (refreshOn_core _ c c).trans (core_modArch_self s c fun a => { a with stall := some ⟨i, w⟩ })

theorem stallAt_of_unbound {s : State} {c : Nat} (i : Instr) (w : Stall) (hb : (s.core c).bound = false) :
    s.stallAt c i w = { s.modArch c fun a => { a with stall := some ⟨i, w⟩ } with free := s.free + 1 } := by
  refine refreshOn_of_unbound ?_
  exact (congrArg Core.bound (core_modArch_self s c fun a => { a with stall := some ⟨i, w⟩ })).trans hb

/-! ### Tokens (R53, R54) -/

/-- A post that a token holds. -/
theorem post_some {a : Arch} {k n : Nat} (h : a.rdK k + n ≤ 65535) : a.post k n = some { a with k := mset 0 a.k k (BitVec.ofNat 16 (a.rdK k + n)) } :=
  if_neg (Nat.not_lt.mpr h)

theorem post_none {a : Arch} {k n : Nat} (h : 65535 < a.rdK k + n) : a.post k n = none := if_pos h

/-- A post to a live core: its token, and the upkeep of its context. -/
theorem postLive_of_some {s : State} {c k n : Nat} (src pc : Nat) {a : Arch} (h : (s.core c).arch.post k n = some a) :
    s.postLive c k n src pc = (s.modCore c fun y => { y with arch := a }).refreshOn c := by
  rw [State.postLive, h]
  rfl

theorem postLive_of_none {s : State} {c k n : Nat} (src pc : Nat) (h : (s.core c).arch.post k n = none) :
    s.postLive c k n src pc = s.coreFault c 0x04 false src pc 0 := by
  rw [State.postLive, h]

/-- The token that a post has raised. -/
theorem rdK_posted {a : Arch} {k n : Nat} (h : a.rdK k + n ≤ 65535) :
    ({ a with k := mset 0 a.k k (BitVec.ofNat 16 (a.rdK k + n)) } : Arch).rdK k = a.rdK k + n := by
  rw [Arch.rdK, mget_mset_self, BitVec.toNat_ofNat, Nat.mod_eq_of_lt (by omega)]

section
variable {s : State} {c : Nat} {f : SyncF}

theorem wait_issues (h : issuesAt s c f.g (.wait c f)) (hr : f.rsv = 0) (hk : f.tk.toNat < 32) (hn : 0 < f.n.toNat) : exec (.wait c f) s =
    next (if f.n.toNat ≤ (s.core c).arch.rdK f.tk.toNat then
      (retire s c fun a => { a with k := mset 0 a.k f.tk.toNat (w16 ((s.core c).arch.rdK f.tk.toNat - f.n.toNat)) }).refreshOn c
    else s.stallAt c (.wait c f) (.wait f.tk.toNat f.n.toNat)) := by
  simp only [exec, execWait]
  rw [issue_of_issuesAt h (syncPre_clean hr hk hn) rfl]
  rfl

theorem retire_bound (upd : Arch → Arch) : ((retire s c upd).core c).bound = (s.core c).bound := by rw [core_retire_self]

theorem wait_passes (h : issuesAt s c f.g (.wait c f)) (hr : f.rsv = 0) (hk : f.tk.toNat < 32) (hn : 0 < f.n.toNat) (hb : (s.core c).bound = false)
    (hle : f.n.toNat ≤ (s.core c).arch.rdK f.tk.toNat) : exec (.wait c f) s =
      next (retire s c fun a => { a with k := mset 0 a.k f.tk.toNat (BitVec.ofNat 16 (a.rdK f.tk.toNat - f.n.toNat)) }) := by
  rw [wait_issues h hr hk hn, if_pos hle, refreshOn_of_unbound ((retire_bound _).trans hb)]
  exact congrArg _ (retire_congr fun _ => rfl)

theorem wait_stalls (h : issuesAt s c f.g (.wait c f)) (hr : f.rsv = 0) (hk : f.tk.toNat < 32) (hn : 0 < f.n.toNat) (hb : (s.core c).bound = false)
    (hlt : (s.core c).arch.rdK f.tk.toNat < f.n.toNat) : ∃ t, exec (.wait c f) s = next t ∧
      (t.core c).arch = { (s.core c).arch with stall := some ⟨.wait c f, .wait f.tk.toNat f.n.toNat⟩ } ∧ onlyCores s { t with free := s.free } := by
  refine ⟨_, (wait_issues h hr hk hn).trans (congrArg _ (if_neg (by omega))), ?_, ?_⟩
  · rw [core_stallAt_self]
  · rw [stallAt_of_unbound _ _ hb]; rfl

theorem post_issues (h : issues s c f.g) (hr : f.rsv = 0) (hk : f.tk.toNat < 32) (hn : 0 < f.n.toNat) :
    exec (.post c f) s = next ((s.next c).postLive c f.tk.toNat f.n.toNat 0 (s.pcOf c)) := by
  simp only [exec, execPost]
  rw [issue_of_issues h (syncPre_clean hr hk hn) rfl]

theorem post_posts (h : issues s c f.g) (hr : f.rsv = 0) (hk : f.tk.toNat < 32) (hn : 0 < f.n.toNat) (hb : (s.core c).bound = false)
    (hle : (s.core c).arch.rdK f.tk.toNat + f.n.toNat ≤ 65535) : exec (.post c f) s =
      next (retire s c fun a => { a with k := mset 0 a.k f.tk.toNat (BitVec.ofNat 16 (a.rdK f.tk.toNat + f.n.toNat)) }) := by
  have hpost : ((s.next c).core c).arch.post f.tk.toNat f.n.toNat = some _ := post_some (by rw [core_next_self]; exact hle)
  rw [post_issues h hr hk hn, postLive_of_some _ _ hpost, refreshOn_of_unbound (by rw [core_modCore_self, core_next_self]; exact hb)]
  rfl

theorem post_overflows (h : issues s c f.g) (hr : f.rsv = 0) (hk : f.tk.toNat < 32) (hn : 0 < f.n.toNat)
    (hlt : 65535 < (s.core c).arch.rdK f.tk.toNat + f.n.toNat) : exec (.post c f) s = next ((s.next c).coreFault c 0x04 false 0 (s.pcOf c) 0) := by
  have hpost : ((s.next c).core c).arch.post f.tk.toNat f.n.toNat = none := post_none (by rw [core_next_self]; exact hlt)
  rw [post_issues h hr hk hn, postLive_of_none _ _ hpost]

theorem fence_retires (h : issues s c f.g) (hr : f.rsv = 0) (hk : f.tk = 0) (hn : f.n = 0) : exec (.fence c f) s = next (retire s c id) := by
  simp only [exec, execFence]
  rw [issue_of_issues h (barPre_clean hr hk hn) rfl, retire_id]

end

/-! ### Posts to a core of the context (R82) -/

section
variable {s : State} {c x : Nat} {f : SyncF} {cx : Ctx} (h : issues s c f.g) (hr : f.rsv = 0) (hk : f.tk.toNat < 32) (hn : 0 < f.n.toNat)
  (hon : s.ctxOn c = some x) (hcx : s.ctx? x = some cx) (hd : clusterOf c * 8 + f.ci.toNat ≠ c)
include h hr hk hn hon hcx hd

theorem postc_refused (hno : cx.cores.contains (clusterOf c * 8 + f.ci.toNat) = false) :
    exec (.postc c f) s = next (s.coreFault c 0x02 true 0 (s.pcOf c) 0) := by
  simp only [exec, execPostc]
  rw [issue_of_issues h (syncPre_clean hr hk hn) rfl]
  simp only [hon, hcx, hno, if_neg hd, Bool.false_eq_true, if_false, State.seqFault]

theorem postc_issues (hin : cx.cores.contains (clusterOf c * 8 + f.ci.toNat) = true) :
    exec (.postc c f) s = next ((s.next c).postCtx x (clusterOf c * 8 + f.ci.toNat) f.tk.toNat f.n.toNat) := by
  simp only [exec, execPostc]
  rw [issue_of_issues h (syncPre_clean hr hk hn) rfl]
  simp only [hon, hcx, hin, if_neg hd, if_true]

end

/-- A post to a core that runs for the context, or stops for it: its token, and nothing else of its image, is changed. -/
theorem postCtx_live {s : State} {x d k n : Nat} {cx : Ctx} (hcx : s.ctx? x = some cx) (hi : cx.images = []) (hs : cx.started = true)
    (hon : s.ctxOn d = some x) (hle : (s.core d).arch.rdK k + n ≤ 65535) : s.postCtx x d k n =
      (s.modCore d fun y => { y with arch := { (s.core d).arch with k := mset 0 (s.core d).arch.k k (BitVec.ofNat 16 ((s.core d).arch.rdK k + n)) } }).refresh x := by
  have hbound : (s.core d).bound = true ∧ (s.core d).ctx.toNat = x := by
    simp only [State.ctxOn] at hon
    split at hon
    · next hb => exact ⟨hb, Option.some.inj hon⟩
    · cases hon
  obtain ⟨hb, hx⟩ := hbound
  have hon' (y : Core → Core) (hy : (y (s.core d)).bound = (s.core d).bound) (hy' : (y (s.core d)).ctx = (s.core d).ctx) :
      (s.modCore d y).ctxOn d = some x :=
    (ctxOn_congr (by rw [core_modCore_self, hy]) (by rw [core_modCore_self, hy'])).trans hon
  simp only [State.postCtx, hcx, hi, lget_nil, post_some hle, hb, hx, hs, beq_self_eq_true, Bool.and_true, if_true]
  split
  · rfl
  · rw [postLive_of_some _ _ (post_some hle), State.refreshOn, hon' _ rfl rfl]

/-- Settles O18: each instruction acts through the post, or the stall, of a token. -/
theorem tokensAndPosts : Obligations.TokensAndPosts := by
  refine ⟨⟨?_, ?_⟩, ?_⟩
  · intro s c f h hr k n hk hn hb
    exact ⟨wait_passes h hr hk hn hb, wait_stalls h hr hk hn hb⟩
  · intro s c f h hr k n
    refine ⟨fun hk hn hb => ⟨post_posts h hr hk hn hb, post_overflows h hr hk hn⟩, fun hk hn => ?_⟩
    exact fence_retires h hr (BitVec.eq_of_toNat_eq hk) (BitVec.eq_of_toNat_eq hn)
  · intro s c x f cx h hr hk hn hon hcx d
    refine ⟨fun hno hd => postc_refused h hr hk hn hon hcx hd hno, fun hin hi hs hond hd hle => ?_⟩
    have hcore : (s.next c).core d = s.core d := core_next_of_ne s hd
    have hond' : (s.next c).ctxOn d = some x := (ctxOn_congr (by rw [hcore]) (by rw [hcore])).trans hond
    refine ⟨_, (postc_issues h hr hk hn hon hcx hd hin).trans (congrArg _ (postCtx_live hcx hi hs hond' (by rw [hcore]; exact hle))), ?_, ?_, ?_, ?_⟩
    · rw [refresh_core, core_modCore_self, hcore, rdK_posted hle]
    · rw [refresh_core, core_modCore_of_ne _ _ (Ne.symm hd), core_next_self]
    · rw [refresh_core, core_modCore_self, hcore]
    · rw [refresh_core, core_modCore_self, hcore]

end Sys2Proof.Machine

/-! PROOF. System instructions (02 Table 2.10, R100; 09 R369; 10 R403; 16 R656). -/

namespace Sys2Proof.Machine

open Sys2Proof.Claims

section
variable {s : State} {c : Nat} {f : SysF} (h : issues s c f.g) (hr : f.rsv = 0)
include h hr

/-- HALT ends the program of a core on which no context is (R100). -/
theorem halt_ends (hbusy : (s.core c).arch.engineBusy = false) (hb : (s.core c).bound = false) : exec (.halt c f) s =
    next ((s.next c).modCore c fun k => { k with run := .idle, halted := true, haltStatus := (s.core c).arch.rdS f.sa }) := by
  have hon : ((s.next c).modCore c fun k => { k with run := .idle, halted := true, haltStatus := (s.core c).arch.rdS f.sa }).ctxOn c = none :=
    ctxOn_eq_none (by rw [core_modCore_self, core_next_self]; exact hb)
  simp only [exec, execHalt]
  rw [issue_of_issues h (sysPre_clean hr) hbusy]
  simp only [hon]

theorem halt_stalls (hbusy : (s.core c).arch.engineBusy = true) : exec (.halt c f) s = next (s.stallAt c (.halt c f) .busy) := by
  simp only [exec, execHalt]
  exact issue_stalled h (sysPre_clean hr) hbusy

/-- EVT: a route mark, or a program event (09 R369; 16 R656). -/
theorem evt_issues : exec (.evt c f) s =
    next (if 0xFE00 ≤ f.code.toNat ∧ f.code.toNat ≤ 0xFEFF ∧ s.onModel c then
      if 0xFE01 ≤ f.code.toNat ∧ f.code.toNat ≤ 0xFE04 then
        (s.next c).modSched fun d => { d with marks := d.marks ++ [(c, f.code.toNat, ((s.core c).arch.rdS f.sa).toNat % 2 ^ 24)] }
      else s.next c
    else (s.next c).progEvent c f.code.toNat ((s.core c).arch.rdS f.sa)) := by
  simp only [exec, execEvt]
  rw [issue_of_issues h (sysPre_clean hr) rfl]

theorem trap_faults : exec (.trap c f) s = next ((s.modCore c fun k => { k with trap := f.code }).coreFault c 0x09 true 0 (s.pcOf c) 0) := by
  have hpc : (s.modCore c fun k => { k with trap := f.code }).pcOf c = s.pcOf c := by rw [State.pcOf, core_modCore_self]; rfl
  simp only [exec, execTrap]
  rw [issue_of_issues h (sysPre_clean hr) rfl, State.seqFault, hpc]

theorem rdstep_reads : exec (.rdstep c f) s = next (retire (s.countSteps c) c fun a => a.wrS f.sa ((s.countSteps c).core c).steps) := by
  simp only [exec, execRdstep]
  rw [issue_of_issues h (sysPre_clean hr) rfl]
  rfl

theorem rdcore_reads : exec (.rdcore c f) s = next (retire s c fun a => a.wrS f.sa (BitVec.ofNat 64 c)) := by
  simp only [exec, execRdcore]
  rw [issue_of_issues h (sysPre_clean hr) rfl]
  rfl

theorem rdctx_reads : exec (.rdctx c f) s = next (retire s c fun a => a.wrS f.sa ((s.core c).ctx.setWidth 64)) := by
  simp only [exec, execRdctx]
  rw [issue_of_issues h (sysPre_clean hr) rfl]
  rfl

end

/-- The steps that a reading of the step counter adds do not carry it past its top (log 7). -/
theorem countSteps_bound (x : BitVec 64) (n : Nat) : x.toNat + n % (2 ^ 64 - x.toNat) < 2 ^ 64 := by
  have := x.isLt
  have := Nat.mod_lt n (show 0 < 2 ^ 64 - x.toNat by omega)
  omega

/-- Settles O20: each instruction issues into its own effect. -/
theorem systemInstructions : Obligations.SystemInstructions := by
  intro s c f h hr v
  refine ⟨fun hbusy hb => ⟨_, halt_ends h hr hbusy hb, ?_, ?_, ?_, ?_, rfl, fun d hd => ?_⟩, fun hbusy => ⟨_, halt_stalls h hr hbusy, ?_, ?_⟩, fun hm => ?_,
    fun hm hlo hhi => ?_, trap_faults h hr, fun hm hlo hhi hno => ?_, fun hm hout => ?_, ?_, rdcore_reads h hr, rdctx_reads h hr⟩
  · rw [core_modCore_self]
  · rw [core_modCore_self]
  · rw [core_modCore_self]
  · exact canIssue_of_run_ne (by rw [core_modCore_self]; simp)
  · rw [core_modCore_of_ne _ _ hd, core_next_of_ne _ hd]
  · rw [core_stallAt_self]
  · exact stallAt_frame s c (.halt c f) .busy
  · rw [evt_issues h hr, if_neg (by simp [hm])]
  · refine ⟨_, (evt_issues h hr).trans (congrArg _ ((if_pos ⟨by omega, by omega, hm⟩).trans (if_pos ⟨hlo, hhi⟩))), rfl, rfl, rfl⟩
  · rw [evt_issues h hr, if_pos ⟨hlo, hhi, hm⟩, if_neg hno, retire_id]
  · rw [evt_issues h hr, if_neg (by omega)]
  · exact ⟨Config.freeNat s.free % (2 ^ 64 - (s.core c).steps.toNat), s.free + 1, countSteps_bound _ _, rdstep_reads h hr⟩

end Sys2Proof.Machine

/-! PROOF. Barriers and merge rounds (02 R89, R90; 04 R185). -/

namespace Sys2Proof.Machine

open Sys2Proof.Claims

/-! ### Barriers -/

/-- Whether the context on a core owns a barrier of that word (R89). -/
def State.ownsBar (s : State) (c : Nat) (w : BitVec 32) : Bool :=
  match s.ctxOn c with
  | none => false
  | some x => barOwnedBy w x

/-- A cluster with one more arrival noted at a barrier. -/
def Cluster.arrivedAt (y : Cluster) (b j : Nat) : Cluster :=
  { y with arrivals := mmod 0 y.arrivals b fun m => m ||| BitVec.ofNat 8 (2 ^ j) }

/-- A cluster with the arrivals at a barrier cleared. -/
def Cluster.clearedAt (y : Cluster) (b : Nat) : Cluster := { y with arrivals := mset 0 y.arrivals b 0 }

/-- The step of a participant, which counts once however often it tries again. -/
def Core.barStep (y : Core) : Core := { y with steps := if y.arch.stall.isSome then y.steps else y.steps + 1 }

/-- The state of a participant that has arrived: one step, its arrival noted, stalled. -/
def State.atBar (s : State) (c : Nat) (f : SyncF) : State :=
  ((s.modCore c Core.barStep).modClu (clusterOf c) fun y =>
    y.arrivedAt f.b.toNat (c % 8)).stallAt c (.bar c f) (.bar f.b.toNat)

theorem getLsbD_two_pow (m j : Nat) : (BitVec.ofNat 8 (2 ^ m)).getLsbD j = (decide (j < 8) && decide (m = j)) := by
  rw [BitVec.getLsbD_ofNat, Nat.testBit_two_pow]

theorem not_all_arrived {arr : BitVec 8} {w : BitVec 32} {m j : Nat} (hj : j < 8) (hne : j ≠ m) (hw : w.getLsbD j = true) (ha : arr.getLsbD j = false) :
    (arr ||| BitVec.ofNat 8 (2 ^ m)) &&& w.setWidth 8 ≠ w.setWidth 8 := by
  intro h
  have hbit := congrArg (fun x : BitVec 8 => x.getLsbD j) h
  simp only [BitVec.getLsbD_and, BitVec.getLsbD_or, BitVec.getLsbD_setWidth, getLsbD_two_pow, ha, hw, hj, hne.symm, decide_true, decide_false,
    Bool.and_false, Bool.or_false, Bool.and_true] at hbit
  exact absurd hbit (by decide)

section
variable {s : State} {c : Nat} {f : SyncF} (h : issuesAt s c f.g (.bar c f)) (hr : f.rsv = 0) (hk : f.tk = 0) (hn : f.n = 0)
include h hr hk hn

theorem bar_refused (hno : s.ownsBar c (mget 0 (s.clu (clusterOf c)).barMask f.b.toNat) = false ∨
    (mget 0 (s.clu (clusterOf c)).barMask f.b.toNat).getLsbD (c % 8) = false) :
    exec (.bar c f) s = next (s.coreFault c 0x07 true 0 (s.pcOf c) 0) := by
  simp only [exec, execBar]
  rw [issue_of_issuesAt h (barPre_clean hr hk hn) rfl]
  refine congrArg _ (if_pos ?_)
  change (! s.ownsBar c _ || ! _) = true
  rcases hno with hno | hno
  · rw [hno]; rfl
  · rw [hno, Bool.not_false, Bool.or_true]

/-- A participant that arrives: the last one releases the barrier (R90). -/
theorem bar_arrives (hown : s.ownsBar c (mget 0 (s.clu (clusterOf c)).barMask f.b.toNat) = true)
    (hbit : (mget 0 (s.clu (clusterOf c)).barMask f.b.toNat).getLsbD (c % 8) = true) :
    let mask : BitVec 8 := (mget 0 (s.clu (clusterOf c)).barMask f.b.toNat).setWidth 8
    exec (.bar c f) s = next (
      if ((mget 0 (s.clu (clusterOf c)).arrivals f.b.toNat ||| BitVec.ofNat 8 (2 ^ (c % 8))) &&& mask == mask) = true then
        ((List.range 8).filter fun j => mask.getLsbD j).foldl (fun y j => y.passBar (clusterOf c * 8 + j) f.b.toNat)
          ((s.atBar c f).modClu (clusterOf c) fun y => y.clearedAt f.b.toNat)
      else s.atBar c f) := by
  have hclu : ((s.modCore c Core.barStep).modClu (clusterOf c) fun y =>
      y.arrivedAt f.b.toNat (c % 8)).clu (clusterOf c) = (s.clu (clusterOf c)).arrivedAt f.b.toNat (c % 8) := clu_modClu_self _ _ _
  have harr : mget 0 ((s.clu (clusterOf c)).arrivedAt f.b.toNat (c % 8)).arrivals f.b.toNat =
      mget 0 (s.clu (clusterOf c)).arrivals f.b.toNat ||| BitVec.ofNat 8 (2 ^ (c % 8)) := by
    rw [Cluster.arrivedAt, mget_mmod, if_pos rfl]
  intro mask
  simp only [exec, execBar]
  rw [issue_of_issuesAt h (barPre_clean hr hk hn) rfl]
  refine congrArg _ ((if_neg ?_).trans ?_)
  · change ¬ (! s.ownsBar c _ || ! _) = true
    rw [hown, hbit]; decide
  · rw [← harr, ← hclu]
    rfl

/-- A participant that another is still to follow stalls at the barrier. -/
theorem bar_stalls (hown : s.ownsBar c (mget 0 (s.clu (clusterOf c)).barMask f.b.toNat) = true)
    (hbit : (mget 0 (s.clu (clusterOf c)).barMask f.b.toNat).getLsbD (c % 8) = true)
    (hmore : ∃ j, j < 8 ∧ j ≠ c % 8 ∧ (mget 0 (s.clu (clusterOf c)).barMask f.b.toNat).getLsbD j = true ∧
      (mget 0 (s.clu (clusterOf c)).arrivals f.b.toNat).getLsbD j = false) : exec (.bar c f) s = next (s.atBar c f) := by
  obtain ⟨j, hj, hjc, hw, ha⟩ := hmore
  refine (bar_arrives h hr hk hn hown hbit).trans (congrArg _ (if_neg fun hall => ?_))
  exact not_all_arrived hj hjc hw ha (beq_iff_eq.mp hall)

end

theorem core_atBar (s : State) (c : Nat) (f : SyncF) : ((s.atBar c f).core c).arch = { (s.core c).arch with stall := some ⟨.bar c f, .bar f.b.toNat⟩ } := by
  have hc : ((s.modCore c Core.barStep).modClu (clusterOf c) fun y => y.arrivedAt f.b.toNat (c % 8)).core c = (s.core c).barStep :=
    core_modCore_self s c _
  rw [State.atBar, core_stallAt_self, hc]
  rfl

theorem clu_atBar (s : State) (c : Nat) (f : SyncF) : (s.atBar c f).clu (clusterOf c) = (s.clu (clusterOf c)).arrivedAt f.b.toNat (c % 8) := by
  rw [State.atBar, clu_congr (stallAt_clus _ _ _ _), clu_modClu_self]
  rfl

/-- A core that stalls at the barrier is let past it. -/
theorem core_passBar_self {s : State} {c b : Nat} {i : Instr} (h : (s.core c).arch.stall = some ⟨i, .bar b⟩) :
    ((s.passBar c b).core c).arch = { (s.core c).arch with pc := (s.core c).arch.pc + 1, stall := none } := by
  have hgo (a : Arch) (ha : a.stall = some ⟨i, .bar b⟩) :
      (if a.stall.map Stalled.why = some (.bar b) then ({ a with pc := a.pc + 1, stall := none } : Arch) else a) = { a with pc := a.pc + 1, stall := none } :=
    if_pos (by rw [ha]; rfl)
  unfold State.passBar
  simp only
  split
  · rw [core_modArch_self, hgo _ h]
  · rw [refresh_core, modCtx_core, core_modArch_self, hgo _ h]

@[simp] theorem passBar_clus (s : State) (c b : Nat) : (s.passBar c b).clus = s.clus := by
  unfold State.passBar
  simp only
  split
  · rfl
  · exact refresh_clus _ _

/-- The participants of a mask that holds one core. -/
theorem filter_two_pow {m : Nat} (hm : m < 8) : (List.range 8).filter (fun j => (BitVec.ofNat 8 (2 ^ m)).getLsbD j) = [m] := by
  decide +revert

/-- A core alone in the mask passes at once, and the arrivals are clear. -/
theorem bar_releases {s : State} {c : Nat} {f : SyncF} (h : issuesAt s c f.g (.bar c f)) (hr : f.rsv = 0) (hk : f.tk = 0) (hn : f.n = 0)
    (hown : s.ownsBar c (mget 0 (s.clu (clusterOf c)).barMask f.b.toNat) = true)
    (hmask : ((mget 0 (s.clu (clusterOf c)).barMask f.b.toNat).setWidth 8 : BitVec 8) = BitVec.ofNat 8 (2 ^ (c % 8))) :
    ∃ t, exec (.bar c f) s = next t ∧ (t.core c).arch.stall = none ∧ (t.core c).arch.pc = (s.core c).arch.pc + 1 ∧
      mget 0 (t.clu (clusterOf c)).arrivals f.b.toNat = 0 := by
  have hm : c % 8 < 8 := Nat.mod_lt _ (by decide)
  have hc : clusterOf c * 8 + c % 8 = c := by unfold clusterOf; omega
  have hbit : (mget 0 (s.clu (clusterOf c)).barMask f.b.toNat).getLsbD (c % 8) = true := by
    have hb := congrArg (fun x : BitVec 8 => x.getLsbD (c % 8)) hmask
    simpa only [BitVec.getLsbD_setWidth, getLsbD_two_pow, hm, decide_true, Bool.true_and] using hb
  have hall : ((mget 0 (s.clu (clusterOf c)).arrivals f.b.toNat ||| BitVec.ofNat 8 (2 ^ (c % 8))) &&& BitVec.ofNat 8 (2 ^ (c % 8)) ==
      BitVec.ofNat 8 (2 ^ (c % 8))) = true := by
    rw [beq_iff_eq]
    ext j hj
    simp only [BitVec.getElem_and, BitVec.getElem_or]
    cases (BitVec.ofNat 8 (2 ^ (c % 8)))[j] <;> simp
  have hx := bar_arrives h hr hk hn hown hbit
  simp only [hmask] at hx
  rw [if_pos hall, filter_two_pow hm, List.foldl_cons, List.foldl_nil, hc] at hx
  have hcore : (((s.atBar c f).modClu (clusterOf c) fun y => y.clearedAt f.b.toNat).core c).arch =
      { (s.core c).arch with stall := some ⟨.bar c f, .bar f.b.toNat⟩ } := core_atBar s c f
  have hpass := core_passBar_self (congrArg Arch.stall hcore)
  refine ⟨_, hx, ?_, ?_, ?_⟩
  · rw [hpass]
  · rw [hpass, hcore]
  · rw [clu_congr (passBar_clus _ _ _), clu_modClu_self, Cluster.clearedAt, mget_mset_self]

/-! ### Merge rounds (04 R185) -/

/-- What the end of a round leaves alone, and that an operation that has ended stays ended. -/
structure RoundEnds (s t : State) : Prop where
  clus : t.clus = s.clus
  regs : ∀ d, (t.core d).arch.s = (s.core d).arch.s
  op : ∀ d, (t.core d).arch.sleOp = (s.core d).arch.sleOp ∨ (t.core d).arch.sleOp = none

theorem RoundEnds.refl (s : State) : RoundEnds s s := ⟨rfl, fun _ => rfl, fun _ => .inl rfl⟩

theorem RoundEnds.trans {s t u : State} (h : RoundEnds s t) (h' : RoundEnds t u) : RoundEnds s u :=
  ⟨h'.clus.trans h.clus, fun d => (h'.regs d).trans (h.regs d), fun d => (h'.op d).elim (fun e => (h.op d).imp e.trans e.trans) .inr⟩

/-- The operation of one participant ends, and it posts no token. -/
theorem endRound_one {s : State} {c : Nat} (h : ∀ o, (s.core c).arch.sleOp = some o → o.tk = none) :
    RoundEnds s (s.endRound [c]) ∧ ((s.endRound [c]).core c).arch.sleOp = none := by
  cases ho : (s.core c).arch.sleOp with
  | none =>
    have hstep : s.endRound [c] = s := by simp only [State.endRound, List.foldl_cons, List.foldl_nil, ho]
    rw [hstep]
    exact ⟨RoundEnds.refl s, ho⟩
  | some o =>
    have hstep : s.endRound [c] = (s.modArch c fun a => { a with sleOp := none }).refreshOn c := by
      simp only [State.endRound, List.foldl_cons, List.foldl_nil, ho, h o ho, State.ownPost]
    rw [hstep]
    refine ⟨⟨refreshOn_clus _ _, fun d => ?_, fun d => ?_⟩, ?_⟩
    · by_cases hd : d = c
      · subst hd; rw [refreshOn_core, core_modArch_self]
      · rw [refreshOn_core, core_modArch_of_ne _ _ hd]
    · by_cases hd : d = c
      · subst hd; rw [refreshOn_core, core_modArch_self]; exact .inr rfl
      · rw [refreshOn_core, core_modArch_of_ne _ _ hd]; exact .inl rfl
    · rw [refreshOn_core, core_modArch_self]

/-- The operations of all participants end. -/
theorem endRound_ends (cs : List Nat) (s : State) (h : ∀ c ∈ cs, ∀ o, (s.core c).arch.sleOp = some o → o.tk = none) :
    RoundEnds s (s.endRound cs) ∧ ∀ c ∈ cs, ((s.endRound cs).core c).arch.sleOp = none := by
  induction cs generalizing s with
  | nil => exact ⟨RoundEnds.refl s, by simp⟩
  | cons c cs ih =>
    obtain ⟨hone, hnone⟩ := endRound_one (h c (.head _))
    have htk : ∀ d ∈ cs, ∀ o, ((s.endRound [c]).core d).arch.sleOp = some o → o.tk = none := fun d hd o ho =>
      (hone.op d).elim (fun e => h d (.tail _ hd) o (e ▸ ho)) fun e => by rw [e] at ho; cases ho
    obtain ⟨hrest, hall⟩ := ih (s.endRound [c]) htk
    refine ⟨hone.trans hrest, fun d hd => ?_⟩
    rcases List.mem_cons.mp hd with rfl | hd
    · exact (hrest.op d).elim (fun e => e.trans hnone) id
    · exact hall d hd

/-- The merge of a full round: its record, the slot free, every participant's operation ended. -/
theorem mergeRound_full {s : State} {k slot : Nat} (hk : k < 96) (hslot : slot < 4) (hfull : (mget {} (s.clu k).rounds slot).full = true)
    (harr : ∀ c ∈ (mget {} (s.clu k).rounds slot).arrived, s.engineRuns c = true ∧ ∃ o, (s.core c).arch.sleOp = some o ∧ o.tk = none)
    (hwait : (mget {} (s.clu k).rounds slot).waiting = []) :
    ∃ t, exec (.mergeRoundComplete k slot) s = next t ∧ (mget {} (t.clu k).rounds slot).arrived = [] ∧
      ∀ c ∈ (mget {} (s.clu k).rounds slot).arrived, (t.core c).arch.sleOp = none ∧ (t.core c).arch.s = (s.core c).arch.s := by
  generalize hr : mget {} (s.clu k).rounds slot = r at hfull harr hwait ⊢
  have hruns : (r.arrived.all fun c => s.engineRuns c) = true := List.all_eq_true.mpr fun c hc => (harr c hc).1
  have hmem := OnlyMem.putRecord s (r.arrived.headD 0) (s.mergeLists r) ((descOf r.tb).dstRows (descOf r.tb).rows)
  generalize ht : s.putRecord (r.arrived.headD 0) (s.mergeLists r) ((descOf r.tb).dstRows (descOf r.tb).rows) = t at hmem
  let u := t.modClu k fun y => { y with rounds := mset {} y.rounds slot { waiting := [] } }
  have hcore (d : Nat) : (u.core d).arch.sleOp = (s.core d).arch.sleOp ∧ (u.core d).arch.s = (s.core d).arch.s := by
    obtain ⟨m, b, hd⟩ := hmem.core d
    have hu : u.core d = t.core d := rfl
    rw [hu, hd]
    exact ⟨rfl, rfl⟩
  obtain ⟨hends, hnone⟩ := endRound_ends r.arrived u fun c hc o ho => by
    obtain ⟨-, o', ho', htk⟩ := harr c hc
    rw [(hcore c).1, ho'] at ho
    cases ho
    exact htk
  refine ⟨u.endRound r.arrived, ?_, ?_, fun c hc => ⟨hnone c hc, (hends.regs c).trans (hcore c).2⟩⟩
  · have hok : (clusterOk k && mslotOk slot) = true := by simp [clusterOk, mslotOk, hk, hslot]
    simp only [exec, execMergeRoundComplete, guardUnit_pos hok, hr, hfull, hruns, hwait, ht, Bool.not_true, Bool.or_self, Bool.false_eq_true, if_false]
    rfl
  · rw [clu_congr hends.clus, clu_modClu_self, mget_mset_self]

theorem mergeRound_open {s : State} {k slot : Nat} (hk : k < 96) (hslot : slot < 4) (hfull : (mget {} (s.clu k).rounds slot).full = false) :
    exec (.mergeRoundComplete k slot) s = next s := by
  have hok : (clusterOk k && mslotOk slot) = true := by simp [clusterOk, mslotOk, hk, hslot]
  simp only [exec, execMergeRoundComplete, guardUnit_pos hok, hfull, Bool.not_false, Bool.true_or, if_true]

theorem ownsBar_of_ctxOn {s : State} {c x : Nat} (hon : s.ctxOn c = some x) (w : BitVec 32) : s.ownsBar c w = barOwnedBy w x := by
  simp only [State.ownsBar, hon]

/-- Settles O19: an arrival at a barrier is refused, stalls or releases; the end of a round ends its participants' operations one by one. -/
theorem barriersAndMergeRounds : Obligations.BarriersAndMergeRounds := by
  refine ⟨⟨?_, ?_⟩, ?_⟩
  · intro s c f h hr hk hn w hno
    refine bar_refused h hr hk hn (hno.imp_left fun hown => ?_)
    cases hon : s.ctxOn c with
    | none => simp only [State.ownsBar, hon]
    | some x => rw [ownsBar_of_ctxOn hon]; exact hown x hon
  · intro s c x f cx h hr hk hn hon hcx hi k b w arr
    have hown (o : Bool) (ho : barOwnedBy w x = o) : s.ownsBar c w = o := (ownsBar_of_ctxOn hon w).trans ho
    refine ⟨fun hno => bar_refused h hr hk hn (hno.imp_left (hown false)), fun ho hbit hmore => ⟨_, bar_stalls h hr hk hn (hown true ho) hbit hmore, ?_, ?_, ?_⟩,
      fun ho hmask => bar_releases h hr hk hn (hown true ho) hmask⟩
    · rw [core_atBar]
    · rw [core_atBar]
    · rw [clu_atBar, Cluster.arrivedAt, mget_mmod, if_pos rfl]
  · intro s k slot hk hslot r
    exact ⟨mergeRound_full hk hslot, mergeRound_open hk hslot⟩

end Sys2Proof.Machine

/-! PROOF. Issue into the tile-move engine and the vector engine (02 R51, R62, R67, R71, R712, R714, R715; 03 R141, R142; 05 R199). -/

namespace Sys2Proof.Machine

open Sys2Proof.Claims

/-! ### Rows that lie in the core's scratchpad -/

/-- Every range of a list lies in the core's scratchpad. -/
def InSpm (c : Nat) (rows : List (Nat × Nat)) : Prop := ∀ r ∈ rows, r.1 + r.2 ≤ spmSize c

section
variable {c : Nat}

theorem reach_spm (s : State) {a len : Nat} (h : a + len ≤ spmSize c) : s.reach c a len = none := by
  simp only [State.reach, placeOf_spm h]

theorem reachAll_spm (s : State) {rows : List (Nat × Nat)} (h : InSpm c rows) : s.reachAll c rows = none := by
  induction rows with
  | nil => rfl
  | cons r rows ih =>
    obtain ⟨a, len⟩ := r
    rw [State.reachAll, reach_spm s (h (a, len) (.head _)), ih fun r hr => h r (.tail _ hr)]
    rfl

theorem rowsInside_spm {rows : List (Nat × Nat)} (h : InSpm c rows) : rowsInside c rows = true := by
  refine List.all_eq_true.mpr fun r hr => ?_
  simp only [placeOf_spm (h r hr)]

theorem InSpm.cut {rows : List (Nat × Nat)} (h : InSpm c rows) (n : Nat) : InSpm c (cutRows rows n) := by
  induction rows generalizing n with
  | nil => exact h
  | cons r rows ih =>
    obtain ⟨a, len⟩ := r
    intro q hq
    rw [cutRows] at hq
    split at hq
    · cases hq
    · rcases List.mem_cons.mp hq with rfl | hq
      · have := h (a, len) (.head _)
        simp only at this ⊢
        omega
      · exact ih (fun r hr => h r (.tail _ hr)) _ q hq

theorem inSpm_rows {row : Nat → Nat} {len m n : Nat} (h : ∀ i, i < m → inSpm c (row i) len) (hn : n ≤ m) :
    InSpm c ((List.range n).map fun i => (row i, len)) := by
  intro r hr
  obtain ⟨i, hi, rfl⟩ := List.mem_map.mp hr
  exact (h i (by rw [List.mem_range] at hi; omega)).2

theorem srcRows_inSpm {t : BitVec 256} {n : Nat} (h : srcInside c t) (hn : n ≤ (descOf t).rows) : InSpm c ((descOf t).srcRows n) := inSpm_rows h.2 hn
theorem dstRows_inSpm {t : BitVec 256} {n : Nat} (h : dstInside c t) (hn : n ≤ (descOf t).rows) : InSpm c ((descOf t).dstRows n) := inSpm_rows h.2 hn

end

/-! ### The tile-move engine -/

theorem tkBad_of_fine {tk : BitVec 6} (h : tkFine tk) : tkBad tk = false := by
  rcases h with h | rfl
  · exact tkBad_of_lt h
  · decide

theorem tdBusy_of_none {a : Arch} (h : a.tme = none) (rs : List (BitVec 4)) : a.tdBusy rs = false := by
  simp only [Arch.tdBusy, h]

/-- The operation that a tile move enters with. -/
def tileEntry (s : State) (c : Nat) (f : TileF) (op : EOp) : EngOp :=
  { op := op, pc := s.pcOf c, tk := tkOf f.tk, ta := (s.core c).arch.rdT f.td, td := f.td.toNat, x := ((s.core c).arch.rdS f.sa).setWidth 512,
    n := f.cnt.toNat }

section
variable {s : State} {c : Nat} {f : TileF} (i : Instr) (op : EOp) {tk63 : Bool} {sf : State → BitVec 256 → BitVec 64 → Option (Nat × Nat)}
  (h : issues s c f.g) (hr : f.rsv = 0) (hk : tkFine f.tk) (ht : (s.core c).arch.tme = none) (h63 : tk63 = true → f.tk = 63)
include h hr hk ht h63

theorem tileOp_issues : tileOp i c f op tk63 sf s = next (match sf (s.next c) ((s.core c).arch.rdT f.td) ((s.core c).arch.rdS f.sa) with
    | some (code, addr) => (s.next c).coreFault c code false 4 (s.pcOf c) addr
    | none => retire s c fun b => { b with tme := some (tileEntry s c f op) }) := by
  have hpre : firstFault [(f.rsv != 0, 0x01), (tkBad f.tk, 0x01), (tk63 && f.tk != 63, 0x01)] = none :=
    firstFault_none _ (by cases tk63 <;> simp_all [tkBad_of_fine])
  rw [tileOp, issue_of_issues h hpre (by rw [ht]; rfl)]
  rfl

theorem tileOp_enters (hsf : sf (s.next c) ((s.core c).arch.rdT f.td) ((s.core c).arch.rdS f.sa) = none) :
    ∃ x : EngOp, tileOp i c f op tk63 sf s = next (retire s c fun b => { b with tme := some x }) ∧
      x.op = op ∧ x.pc = s.pcOf c ∧ x.tk = token f.tk ∧ x.ta = (s.core c).arch.rdT f.td ∧ x.td = f.td.toNat ∧
      x.x = ((s.core c).arch.rdS f.sa).setWidth 512 ∧ x.n = f.cnt.toNat := by
  refine ⟨tileEntry s c f op, ?_, rfl, rfl, rfl, rfl, rfl, rfl, rfl⟩
  rw [tileOp_issues i op h hr hk ht h63, hsf]

theorem tileOp_faults {code addr : Nat} (hsf : sf (s.next c) ((s.core c).arch.rdT f.td) ((s.core c).arch.rdS f.sa) = some (code, addr)) :
    tileOp i c f op tk63 sf s = next ((s.next c).coreFault c code false 4 (s.pcOf c) addr) := by
  rw [tileOp_issues i op h hr hk ht h63, hsf]

end

theorem descFault_of_ok {t : BitVec 256} (h : (descOf t).ok = true) : descFault t = none := by simp [descFault, h]
theorem descFault_of_not_ok {t : BitVec 256} (h : (descOf t).ok = false) : descFault t = some (0x05, 0) := by simp [descFault, h]

theorem scratchFault_spm (s : State) {c len : Nat} {sa : BitVec 64} (h : inSpm c sa.toNat (max 1 len)) : s.scratchFault c sa len = none := by
  rw [State.scratchFault, rdLocal_spm h.2]
  rfl

/-! ### The vector engine -/

/-- The operation that a stream instruction enters with, before its own fields. -/
def streamEntry (s : State) (c : Nat) (f : StreamF) (op : EOp) : EngOp :=
  { op := op, pc := s.pcOf c, tk := tkOf f.tk, ta := (s.core c).arch.rdT f.ta, tb := (s.core c).arch.rdT f.tb, n := f.cl.toNat }

section
variable {s : State} {c : Nat} {f : StreamF} (i : Instr) {pre : List (Bool × Nat)} {sf : State → EngOp → Option (Nat × Nat)} {mk : Arch → EngOp → EngOp}
  (op : EOp)

theorem streamOp_enters (h : issues s c f.g) (hk : tkFine f.tk) (hv : (s.core c).arch.vxe = none) (ht : (s.core c).arch.tme = none)
    (hpre : firstFault pre = none) (hsf : sf (s.next c) (mk (s.core c).arch (streamEntry s c f op)) = none) : streamOp i c f pre sf mk op s =
      next (retire s c fun b => { b with vxe := some (mk (s.core c).arch (streamEntry s c f op)) }) := by
  have hpre' : firstFault ((tkBad f.tk, 0x01) :: pre) = none := by rw [tkBad_of_fine hk]; exact hpre
  rw [streamOp, issue_of_issues h hpre' (by rw [hv, tdBusy_of_none ht]; rfl)]
  change next ((s.next c).startEngine c 2 (s.pcOf c) (sf (s.next c) (mk (s.core c).arch (streamEntry s c f op))) fun u =>
    u.modArch c fun y => { y with vxe := some (mk (s.core c).arch (streamEntry s c f op)) }) = _
  rw [hsf]
  rfl

theorem streamOp_illegal (h : issues s c f.g) (hpre : ∀ e ∈ pre, e.2 = 0x01) (hbad : ∃ e ∈ pre, e.1 = true) : streamOp i c f pre sf mk op s =
    next (s.coreFault c 0x01 true 0 (s.pcOf c) 0) := by
  obtain ⟨e, he, hbad⟩ := hbad
  have hpre' : firstFault ((tkBad f.tk, 0x01) :: pre) = some 0x01 :=
    firstFault_eq_some (List.forall_mem_cons.mpr ⟨rfl, hpre⟩) ⟨e, .tail _ he, hbad⟩
  obtain ⟨hf, hin, -⟩ := h
  unfold streamOp
  exact issue_fault hf hin hpre'

end

/-- What a scan asks of its descriptors (R712). -/
theorem scanFault_none (t : State) {c : Nat} {o : EngOp} (hs : srcInside c o.ta) (hd : dstInside c o.tb)
    (hmod : (descOf o.ta).size % (8 * o.n) = 0) (hroom : 2 * ((descOf o.ta).size / (8 * o.n)) ≤ (descOf o.tb).size)
    (htab : (o.op == .vstlk && (decide (o.n * 8 < o.a) || decide (spmSize c < o.b + o.a * 256))) = false) : t.scanFault c o = none := by
  have hsrc := srcRows_inSpm hs le_rfl
  have hdst := dstRows_inSpm hd le_rfl
  simp only [State.scanFault, Nat.mul_comm o.n 8, hs.1, hd.1, hmod, Nat.not_lt.mpr hroom, rowsInside_spm hsrc, rowsInside_spm hdst, reachAll_spm t hsrc,
    reachAll_spm t (hdst.cut _), bne_self_eq_false, decide_false, Bool.not_true, Bool.or_false, Bool.false_or]
  rw [Nat.mul_comm o.n 8] at htab
  rw [htab]
  rfl

/-- What a quantising VSQNT to INT8 asks of its descriptors (03 R142). -/
theorem quantFault_none {t : State} {c slot : Nat} {ta tb : BitVec 256} (sumax : Bool) (hs : srcInside c ta) (hd : dstInside c tb)
    (hfmt : ((t.core c).arch.slotCfg slot).fmt = 2) (hzp : ((t.core c).arch.slotCfg slot).zpEn = false) (hepi : ((t.core c).arch.slotCfg slot).epi = false)
    (hta : (descOf ta).fmt = 0xE) (htb : (descOf tb).fmt = 2) : t.quantFault c slot (descOf ta) (descOf tb) sumax = none := by
  have hsrc := srcRows_inSpm hs le_rfl
  have hdst : InSpm c ((List.range (descOf tb).rows).map fun i => ((descOf tb).dstRow i, (descOf tb).rowLen)) := dstRows_inSpm hd le_rfl
  simp only [State.quantFault, hfmt, hzp, hepi, hta, htb, hs.1, hd.1, zpOk, reachAll_spm t hsrc]
  exact reachAll_spm t hdst

/-- A number read from `n` bytes. -/
theorem leNat_lt (bs : Bytes) : leNat bs < 256 ^ bs.length := by
  induction bs with
  | nil => simp [leNat]
  | cons b bs ih =>
    have := b.isLt
    rw [leNat, List.length_cons, Nat.pow_succ]
    omega

theorem slotGet_lt (a : Arch) (slot off n : Nat) : a.slotGet slot off n < 256 ^ n := by
  have h := leNat_lt (rdBytes a.slots (slot * 1024 + off) n)
  rwa [length_rdBytes] at h

/-! ### VSQNT by its SUBOP (03 R141) -/

section
variable (i : Instr) (c : Nat) {f : StreamF} (s : State)

theorem subop_eq {k : Nat} (h : f.aux.toNat / 16 % 4 = k) : f.subop = BitVec.ofNat 2 k := by
  apply BitVec.eq_of_toNat_eq
  rw [StreamF.subop, BitVec.extractLsb'_toNat, Nat.shiftRight_eq_div_pow, BitVec.toNat_ofNat]
  omega

theorem vsqntOp_load (h : f.aux.toNat / 16 % 4 = 1) : vsqntOp i c f s =
    streamOp i c f (qntAux f) (fun t o => t.reach c (descOf o.ta).src 1024) (fun _ o => qntSlot f o) .slotLoad s := by
  rw [vsqntOp, subop_eq h]; rfl

theorem vsqntOp_store (h : f.aux.toNat / 16 % 4 = 2) : vsqntOp i c f s =
    streamOp i c f (qntAux f) (fun t o => t.reach c (descOf o.tb).dst 1024) (fun _ o => qntSlot f o) .slotStore s := by
  rw [vsqntOp, subop_eq h]; rfl

theorem vsqntOp_close (h : f.aux.toNat / 16 % 4 = 3) : vsqntOp i c f s =
    streamOp i c f (qntAux f) (fun _ _ => none) (fun _ o => qntSlot f o) .slotClose s := by
  rw [vsqntOp, subop_eq h]; rfl

/-- The operation of a quantising VSQNT: the slot, and its scale and zero point as they stand. -/
def quantEntry (f : StreamF) (a : Arch) (o : EngOp) : EngOp :=
  { qntSlot f o with scale := w32 (a.slotGet (qntSlot f o).a 8 4), zp := w16 (a.slotGet (qntSlot f o).a 0xC 2) }

theorem vsqntOp_quantise (h : f.aux.toNat / 16 % 4 = 0) : vsqntOp i c f s =
    streamOp i c f (qntAux f) (fun t o => t.quantFault c o.a (descOf o.ta) (descOf o.tb) o.acc) (quantEntry f) .quantise s := by
  rw [vsqntOp, subop_eq h]; rfl

theorem qntAux_clean (h : f.aux.toNat < 128) : firstFault (qntAux f) = none := by
  simp [qntAux, firstFault, h]

end

/-! ### VSXP and VSTLK (R67, R712; 05 R199) -/

def vsxpEntry (f : StreamF) (a : Arch) (o : EngOp) : EngOp := { o with x := a.rdV f.va, y := a.rdV (f.va + 1) }
def vstlkEntry (f : StreamF) (_ : Arch) (o : EngOp) : EngOp := { o with a := f.aux.toNat % 128 + 1, b := f.aux.toNat / 256 % 32768 * 64 }

theorem exec_vsxp (c : Nat) (f : StreamF) (s : State) : exec (.vsxp c f) s =
    streamOp (.vsxp c f) c f [(clBad f || (decide (8 < f.cl.toNat) && f.va == 15), 0x01)] (fun t o => t.scanFault c o) (vsxpEntry f) .vsxp s := rfl

theorem exec_vstlk (c : Nat) (f : StreamF) (s : State) : exec (.vstlk c f) s =
    streamOp (.vstlk c f) c f [(f.aux.getLsbD 7 || f.aux.getLsbD 23 || f.va != 0, 0x01), (clBad f, 0x01)] (fun t o => t.scanFault c o) (vstlkEntry f)
      .vstlk s := rfl

theorem clBad_of_le {f : StreamF} (h : 0 < f.cl.toNat) (h' : f.cl.toNat ≤ 16) : clBad f = false := by
  have h0 : f.cl ≠ 0 := fun e => by rw [e] at h; exact absurd h (by decide)
  have hb : (f.cl == 0) = false := beq_eq_false_iff_ne.mpr h0
  simp only [clBad, hb, Nat.not_lt.mpr h', decide_false, Bool.or_false]

/-- Settles O14: each class has one form of issue, whose start checks the hypotheses meet or break. -/
theorem tileAndStreamIssue : Obligations.TileAndStreamIssue := by
  refine ⟨?_, ?_⟩
  · intro s c f h hr hk ht a enters
    refine ⟨fun hok => ⟨?_, ?_, fun hin => ⟨?_, ?_⟩⟩, fun hbad => ⟨?_, ?_⟩, fun h63 hin => ⟨?_, ?_⟩⟩
    · exact tileOp_enters (.tmov c f) .tmov (tk63 := false) (sf := fun _ ta _ => descFault ta) h hr hk ht (by simp) (descFault_of_ok hok)
    · exact tileOp_enters (.tfill c f) .tfill (tk63 := false) (sf := fun _ ta _ => descFault ta) h hr hk ht (by simp) (descFault_of_ok hok)
    · exact tileOp_enters (.tgath c f) .tgath (tk63 := false) (sf := fun t ta sa => (descFault ta).or (t.scratchFault c sa (4 * f.cnt.toNat))) h hr hk ht (by simp)
        (by rw [descFault_of_ok hok, scratchFault_spm _ hin]; rfl)
    · exact tileOp_enters (.tscat c f) .tscat (tk63 := false) (sf := fun t ta sa => (descFault ta).or (t.scratchFault c sa (4 * f.cnt.toNat))) h hr hk ht (by simp)
        (by rw [descFault_of_ok hok, scratchFault_spm _ hin]; rfl)
    · exact tileOp_faults (.tmov c f) .tmov (tk63 := false) (sf := fun _ ta _ => descFault ta) h hr hk ht (by simp) (descFault_of_not_ok hbad)
    · exact tileOp_faults (.tfill c f) .tfill (tk63 := false) (sf := fun _ ta _ => descFault ta) h hr hk ht (by simp) (descFault_of_not_ok hbad)
    · exact tileOp_enters (.tdset c f) .tdset (tk63 := true) (sf := fun t _ sa => t.scratchFault c sa 32) h hr hk ht (fun _ => h63) (scratchFault_spm _ hin)
    · exact tileOp_enters (.tdget c f) .tdget (tk63 := true) (sf := fun t _ sa => t.scratchFault c sa 32) h hr hk ht (fun _ => h63) (scratchFault_spm _ hin)
  · intro s c f h hk hv ht a ta tb enters scans
    refine ⟨fun hs hle => ?_, fun h0 => ?_, fun hs hle hva h7 h23 hm hroom => ?_, fun haux hsub hin => ?_, fun haux hsub hin => ?_, fun haux hsub => ?_,
      fun haux hsub hfmt hzp hepi hsrc hdst hta htb => ?_⟩
    · obtain ⟨hpos, hsrc, hdst, hmod, hsize⟩ := hs
      refine ⟨vsxpEntry f a (streamEntry s c f .vsxp), ?_, ⟨rfl, rfl, rfl, rfl, rfl⟩, rfl, rfl⟩
      rw [exec_vsxp]
      exact streamOp_enters (.vsxp c f) .vsxp h hk hv ht (firstFault_none _ (by simp [clBad_of_le hpos (by omega), hle]))
        (scanFault_none _ hsrc hdst hmod hsize rfl)
    · rw [exec_vsxp]
      exact streamOp_illegal (.vsxp c f) .vsxp h (by simp) ⟨_, .head _, by simp [clBad, h0]⟩
    · obtain ⟨hpos, hsrc, hdst, hmod, hsize⟩ := hs
      refine ⟨vstlkEntry f a (streamEntry s c f .vstlk), ?_, ⟨rfl, rfl, rfl, rfl, rfl⟩, rfl, rfl, rfl⟩
      rw [exec_vstlk]
      have hbits : (f.aux.getLsbD 7 || f.aux.getLsbD 23 || f.va != 0) = false := by rw [h7, h23, hva]; rfl
      refine streamOp_enters (.vstlk c f) .vstlk h hk hv ht (by rw [hbits, clBad_of_le hpos hle]; rfl)
        (scanFault_none _ hsrc hdst hmod hsize ?_)
      have h1 : ¬ f.cl.toNat * 8 < f.aux.toNat % 128 + 1 := by omega
      have h2 := Nat.not_lt.mpr hroom
      simp only [vstlkEntry, streamEntry, h1, h2, decide_false, Bool.or_false, Bool.and_false]
    · refine ⟨qntSlot f (streamEntry s c f .slotLoad), ?_, ⟨rfl, rfl, rfl, rfl, rfl⟩, rfl, rfl⟩
      exact (vsqntOp_load (.vsqntLoad c f) c s hsub).trans (streamOp_enters (.vsqntLoad c f) .slotLoad h hk hv ht (qntAux_clean haux) (reach_spm _ hin.2))
    · refine ⟨qntSlot f (streamEntry s c f .slotStore), ?_, ⟨rfl, rfl, rfl, rfl, rfl⟩, rfl, rfl⟩
      exact (vsqntOp_store (.vsqntStore c f) c s hsub).trans (streamOp_enters (.vsqntStore c f) .slotStore h hk hv ht (qntAux_clean haux) (reach_spm _ hin.2))
    · refine ⟨qntSlot f (streamEntry s c f .slotClose), ?_, ⟨rfl, rfl, rfl, rfl, rfl⟩, rfl, rfl⟩
      exact (vsqntOp_close (.vsqntClose c f) c s hsub).trans (streamOp_enters (.vsqntClose c f) .slotClose h hk hv ht (qntAux_clean haux) rfl)
    · refine ⟨quantEntry f a (streamEntry s c f .quantise), ?_, ⟨rfl, rfl, rfl, rfl, rfl⟩, rfl, rfl, ?_⟩
      · refine (vsqntOp_quantise (.vsqntQuantise c f) c s hsub).trans (streamOp_enters (.vsqntQuantise c f) .quantise h hk hv ht (qntAux_clean haux) ?_)
        have hslots (k : Nat) : ((s.next c).core c).arch.slotCfg k = a.slotCfg k := by rw [core_next_self]; rfl
        exact quantFault_none _ hsrc hdst ((congrArg SlotCfg.fmt (hslots _)).trans hfmt) ((congrArg SlotCfg.zpEn (hslots _)).trans hzp)
          ((congrArg SlotCfg.epi (hslots _)).trans hepi) hta htb
      · exact (BitVec.toNat_ofNat _ _).trans (Nat.mod_eq_of_lt (slotGet_lt a _ 8 4))

end Sys2Proof.Machine

/-! PROOF. Issue into the matrix engine and the select engine (02 R51; 03 R104 to R112, R119; 04 R161 to R184). -/

namespace Sys2Proof.Machine

open Sys2Proof.Claims

/-! ### The matrix engine -/

/-- The operation that a matrix instruction enters with, before its own fields. -/
def matEntry (s : State) (c : Nat) (f : MatrixF) (op : EOp) : EngOp :=
  let a := (s.core c).arch
  { op := op, pc := s.pcOf c, tk := tkOf f.tk, ta := a.rdT f.ta, tb := a.rdT f.tb, tc := a.rdT f.tc, n := f.len.toNat, a := f.fa.toNat, b := f.fb.toNat,
    bank := b2n f.bank, acc := f.acc }

/-- An empty engine accepts an operation, whatever the free value (R51, log 104). -/
theorem mxeFull_of_empty {s : State} {c : Nat} (h : (s.core c).arch.mxe = []) : s.mxeFull c = false := by
  simp [State.mxeFull, h]

theorem matPre_clean {f : MatrixF} (hr : f.rsv = 0) (hk : tkFine f.tk) : matPre f false false false = none := by
  simp [matPre, firstFault, hr, tkBad_of_fine hk]

theorem matPre_format {f : MatrixF} (hr : f.rsv = 0) (hk : tkFine f.tk) (len : Bool) : matPre f false true len = some 0x06 := by
  simp [matPre, firstFault, hr, tkBad_of_fine hk]

/-- The fields of a matrix operation that its class gives. -/
def matAs (x : EngOp) (s : State) (c : Nat) (f : MatrixF) (op : EOp) : Prop :=
  opAs x op (s.pcOf c) f.tk ((s.core c).arch.rdT f.ta) ((s.core c).arch.rdT f.tb) ∧
    x.tc = (s.core c).arch.rdT f.tc ∧ x.n = f.len.toNat ∧ x.bank = b2n f.bank ∧ x.acc = f.acc

theorem matEntry_as (s : State) (c : Nat) (f : MatrixF) (op : EOp) : matAs (matEntry s c f op) s c f op :=
  ⟨⟨rfl, rfl, rfl, rfl, rfl⟩, rfl, rfl, rfl, rfl⟩

/-- A matrix instruction without a fault, whose operands are in order at the start, enters an empty engine. -/
theorem matOp_enters (i : Instr) (op : EOp) {s : State} {c : Nat} {f : MatrixF} {pre : Option Nat} {busy : Bool} {regs : List (BitVec 4)}
    {sf : State → EngOp → Option (Nat × Nat)} {mk : Arch → EngOp → EngOp} (h : issues s c f.g) (hm : (s.core c).arch.mxe = [])
    (ht : (s.core c).arch.tme = none) (hpre : pre = none) (hbusy : busy = false) (hmk : mk (s.core c).arch (matEntry s c f op) = matEntry s c f op)
    (hsf : sf (State.next { s with free := s.free + 1 } c) (matEntry s c f op) = none) :
    ∃ x : EngOp, matOp i c f op pre busy regs sf mk s = next (retire { s with free := s.free + 1 } c fun b => { b with mxe := [x] }) ∧
      matAs x s c f op := by
  refine ⟨matEntry s c f op, ?_, matEntry_as s c f op⟩
  rw [matOp, issue_of_issues h hpre (by rw [mxeFull_of_empty hm, tdBusy_of_none ht, hbusy]; rfl)]
  change next ((State.next { s with free := s.free + 1 } c).startEngine c 1 (s.pcOf c)
    (sf (State.next { s with free := s.free + 1 } c) (mk (s.core c).arch (matEntry s c f op)))
    fun u => u.modArch c fun y => { y with mxe := y.mxe ++ [mk (s.core c).arch (matEntry s c f op)] }) = _
  rw [hmk, hsf]
  refine congrArg next (retire_congr (s := { s with free := s.free + 1 }) (upd := fun y => { y with mxe := y.mxe ++ [matEntry s c f op] }) fun pc => ?_)
  change ({ (s.core c).arch with mxe := (s.core c).arch.mxe ++ [matEntry s c f op], pc := pc, stall := none } : Arch) = _
  rw [hm]
  rfl

theorem matOp_fault {i : Instr} {op : EOp} {s : State} {c code : Nat} {f : MatrixF} {pre : Option Nat} {busy : Bool} {regs : List (BitVec 4)}
    {sf : State → EngOp → Option (Nat × Nat)} {mk : Arch → EngOp → EngOp} (h : issues s c f.g) (hpre : pre = some code) :
    matOp i c f op pre busy regs sf mk s = next (s.coreFault c code true 0 (s.pcOf c) 0) := by
  obtain ⟨hf, hin, -⟩ := h
  unfold matOp
  exact issue_fault hf hin hpre

/-! #### INT8 operands -/

/-- A k-major operand of INT8 in the scratchpad is in order (R62, R107). -/
theorem operandFault_int8 (t : State) {c k : Nat} {x : BitVec 256} (hfmt : (descOf x).fmt = 2) (hlen : (descOf x).rowLen = 32) (hk : k ≤ (descOf x).rows)
    (hs : srcInside c x) : t.operandFault c (descOf x) 2 k = none := by
  have hall := rowsInside_spm (srcRows_inSpm hs le_rfl)
  have hdata : InSpm c ((List.range k).map fun i => ((descOf x).srcRow i, 32)) := hlen ▸ srcRows_inSpm hs hk
  have hbytes : rowBytes 2 = 32 := rfl
  have hmx : fmtIsMx 2 = false := rfl
  simp only [State.operandFault, hmx, hbytes, hs.1, hfmt, hlen, hall, bne_self_eq_false, Bool.false_and, Bool.not_true, Bool.or_false, Bool.false_eq_true,
    if_false, Nat.add_zero, Nat.not_lt.mpr hk, decide_false, List.append_nil, reachAll_spm t hdata]
  rfl

/-- The activation operand of an INT8 MWS in the scratchpad is in order (R113). -/
theorem actFault_int8 (t : State) {c v : Nat} {x : BitVec 256} (hfmt : (descOf x).fmt = 2) (hlen : (descOf x).rowLen = 32) (hv : v ≤ (descOf x).rows)
    (hs : srcInside c x) : t.actFault c (descOf x) .int8 2 v = none := by
  have hall := rowsInside_spm (srcRows_inSpm hs le_rfl)
  have hdata := srcRows_inSpm hs hv
  have hact : actBytes .int8 2 = 32 := rfl
  simp only [State.actFault, hact, hs.1, hfmt, hlen, hall, bne_self_eq_false, Bool.not_true, Bool.or_false, Nat.not_lt.mpr hv, decide_false]
  exact reachAll_spm t (hlen ▸ hdata)

/-- The destination of an MRD of INT32 cells in the scratchpad is in order (R119). -/
theorem mrdFault_int32 (t : State) {c : Nat} {o : EngOp} (ha : o.a = 0xD) (hn : o.n = 4) (hfmt : (descOf o.tc).fmt = 0xD) (hlen : (descOf o.tc).rowLen = 128)
    (hrows : 32 ≤ (descOf o.tc).rows) (hd : dstInside c o.tc) : t.mrdFault c o = none := by
  have hall := rowsInside_spm (dstRows_inSpm hd le_rfl)
  have hdata := dstRows_inSpm hd hrows
  have hbytes : rowBytes 0xD = 128 := rfl
  have h0 : Nat.testBit 4 0 = false := rfl
  have h1 : Nat.testBit 4 1 = false := rfl
  have hin : rowsInside c [] = true := rfl
  have hw : mrdWide 0xD = true := rfl
  simp only [State.mrdFault, ha, hn, h0, h1, hbytes, hd.1, hfmt, hlen, hall, hin, hw, bne_self_eq_false, Bool.not_true, Bool.or_false, Bool.false_and,
    Nat.not_lt.mpr hrows, decide_false, Bool.false_eq_true, if_false, List.append_nil, List.nil_append]
  exact reachAll_spm t (hlen ▸ hdata)

theorem accBad_of_no_acc (a : Arch) {f : MatrixF} (h : f.acc = false) (m : Fam) : a.accBad f m = false := by
  simp only [Arch.accBad, h, Bool.false_and]

/-- With no operation in the engine the pair an MWS would use is that of the pending set (R705). -/
theorem mwsPair_of_pending {a : Arch} (hm : a.mxe = []) (hp : a.pending = true) : a.mwsPair = (mget {} a.sets (b2n (! a.active))).pair := by
  simp only [Arch.mwsPair, hm, hp, List.foldl_nil, if_true, Option.getD_some]

section
variable {s : State} {c : Nat} {f : MatrixF} (h : issues s c f.g) (hr : f.rsv = 0) (hk : tkFine f.tk) (hm : (s.core c).arch.mxe = [])
  (ht : (s.core c).arch.tme = none)

/-- A matrix instruction has entered the empty engine, and the sequencer has gone on. -/
def matEnters (out : Out) (s : State) (c : Nat) (f : MatrixF) (op : EOp) : Prop :=
  ∃ x : EngOp, out = next (retire { s with free := s.free + 1 } c fun b => { b with mxe := [x] }) ∧ matAs x s c f op

theorem exec_mclr (c : Nat) (f : MatrixF) (s : State) :
    exec (.mclr c f) s = matOp (.mclr c f) c f .mclr (matPre f false false false) false [] (fun _ _ => none) (fun _ o => o) s := rfl

theorem exec_mrd (c : Nat) (f : MatrixF) (s : State) : exec (.mrd c f) s = matOp (.mrd c f) c f .mrd
    (matPre f (f.acc || decide (8 ≤ f.len.toNat)) (! mrdFmt f.fa.toNat || (f.fa == 0xD && (s.core c).arch.kindAfter (b2n f.bank) == .fp32)) false)
    ((s.core c).arch.bankBusy (b2n f.bank)) (f.tc :: (if f.len.getLsbD 0 then [f.ta] else []) ++ (if f.len.getLsbD 1 then [f.tb] else []))
    (fun t o => t.mrdFault c o) (fun y o => if mrdWide o.a then o else { o with scale := w32 (y.slotGet o.b 8 4), zp := w16 (y.slotGet o.b 0xC 2) }) s := rfl

theorem exec_mop_int8 {c : Nat} {f : MatrixF} (s : State) (ha : f.fa = 2) (hb : f.fb = 2) :
    exec (.mop c f) s = matOp (.mop c f) c f .mop (matPre f false ((s.core c).arch.accBad f .int8) (Fam.lenBad .int8 f.len.toNat)) false [f.ta, f.tb]
      (fun t o => (t.operandFault c (descOf o.ta) o.a f.len.toNat).or (t.operandFault c (descOf o.tb) o.b f.len.toNat)) (fun _ o => o) s := by
  change execMop c f s = _
  unfold execMop
  rw [ha, hb]
  rfl

theorem exec_msld_int8 {c : Nat} {f : MatrixF} (s : State) (ha : f.fa = 2) (hb : f.fb = 2) :
    exec (.msld c f) s = matOp (.msld c f) c f .msld (matPre f false false false) false [f.ta]
      (fun t o => t.operandFault c (descOf o.ta) o.a 32) (fun _ o => o) s := by
  change execMsld c f s = _
  unfold execMsld
  rw [ha, hb]
  rfl

theorem exec_mws_int8 {c : Nat} {f : MatrixF} {p : BitVec 4 × BitVec 4} (s : State) (ha : f.fa = 2) (hb : f.fb = 2)
    (hp : (s.core c).arch.mwsPair = some p) :
    exec (.mws c f) s = matOp (.mws c f) c f .mws
      (matPre f false ((s.core c).arch.accBad f .int8 || p != (2, 2)) (Fam.mwsBad .int8 f.len.toNat)) false [f.tb]
      (fun t o => t.actFault c (descOf o.tb) .int8 o.b o.n) (fun _ o => o) s := by
  change execMws c f s = _
  unfold execMws
  rw [ha, hb]
  simp only [hp]
  rfl

theorem matPre_format_clean {format len : Bool} (hr : f.rsv = 0) (hk : tkFine f.tk) (hf : format = false) (hl : len = false) :
    matPre f false format len = none := by
  rw [hf, hl, matPre_clean hr hk]

include h hr hk hm ht

theorem mclr_enters : matEnters (exec (.mclr c f) s) s c f .mclr := by
  rw [exec_mclr]
  exact matOp_enters (.mclr c f) .mclr h hm ht (matPre_clean hr hk) rfl rfl rfl

theorem mop_enters (ha : f.fa = 2) (hb : f.fb = 2) (hacc : f.acc = false) (hlen : f.len ≠ 0)
    (hta : ∀ t : State, t.operandFault c (descOf ((s.core c).arch.rdT f.ta)) 2 f.len.toNat = none)
    (htb : ∀ t : State, t.operandFault c (descOf ((s.core c).arch.rdT f.tb)) 2 f.len.toNat = none) : matEnters (exec (.mop c f) s) s c f .mop := by
  have hl : Fam.lenBad .int8 f.len.toNat = false := by
    have h0 : f.len.toNat ≠ 0 := fun e => hlen (BitVec.eq_of_toNat_eq e)
    simp [Fam.lenBad, h0]
  rw [exec_mop_int8 s ha hb]
  refine matOp_enters (.mop c f) .mop h hm ht (matPre_format_clean hr hk (accBad_of_no_acc _ hacc _) hl) rfl rfl ?_
  simp only [matEntry, ha, hb]
  exact (congrArg (Option.or · _) (hta _)).trans (htb _)

theorem msld_enters (ha : f.fa = 2) (hb : f.fb = 2) (hta : ∀ t : State, t.operandFault c (descOf ((s.core c).arch.rdT f.ta)) 2 32 = none) :
    matEnters (exec (.msld c f) s) s c f .msld := by
  rw [exec_msld_int8 s ha hb]
  refine matOp_enters (.msld c f) .msld h hm ht (matPre_clean hr hk) rfl rfl ?_
  simp only [matEntry, ha]
  exact hta _

theorem mws_enters (ha : f.fa = 2) (hb : f.fb = 2) (hacc : f.acc = false) (hlen : 0 < f.len.toNat) (hmax : f.len.toNat ≤ 32)
    (htb : ∀ t : State, t.actFault c (descOf ((s.core c).arch.rdT f.tb)) .int8 2 f.len.toNat = none) (hp : (s.core c).arch.pending = true)
    (hpair : (mget {} (s.core c).arch.sets (b2n (! (s.core c).arch.active))).pair = some (2, 2)) : matEnters (exec (.mws c f) s) s c f .mws := by
  have hl : Fam.mwsBad .int8 f.len.toNat = false := by
    simp [Fam.mwsBad, Fam.vecs]
    omega
  rw [exec_mws_int8 s ha hb ((mwsPair_of_pending hm hp).trans hpair)]
  refine matOp_enters (.mws c f) .mws h hm ht (matPre_format_clean hr hk (by rw [accBad_of_no_acc _ hacc]; rfl) hl) rfl rfl ?_
  simp only [matEntry, hb]
  exact htb _

theorem mrd_enters (ha : f.fa = 0xD) (hacc : f.acc = false) (hlen : f.len.toNat = 4) (hkind : mget .empty (s.core c).arch.accKind (b2n f.bank) = .int32)
    (htc : ∀ t : State, t.mrdFault c (matEntry s c f .mrd) = none) : matEnters (exec (.mrd c f) s) s c f .mrd := by
  have hafter : (s.core c).arch.kindAfter (b2n f.bank) = .int32 := by rw [Arch.kindAfter, hm, List.foldl_nil, hkind]
  have hbusy : (s.core c).arch.bankBusy (b2n f.bank) = false := by rw [Arch.bankBusy, hm, List.any_nil]
  have hpre : matPre f (f.acc || decide (8 ≤ f.len.toNat)) (! mrdFmt f.fa.toNat || (f.fa == 0xD && (s.core c).arch.kindAfter (b2n f.bank) == .fp32)) false
      = none := by
    rw [hacc, hlen, ha, hafter]
    exact matPre_clean hr hk
  rw [exec_mrd]
  refine matOp_enters (.mrd c f) .mrd h hm ht hpre hbusy ?_ (htc _)
  have hw : mrdWide f.fa.toNat = true := by rw [ha]; rfl
  exact if_pos hw

omit hm ht in
theorem mop_format_fault (ha : f.fa = 2) (hb : f.fb = 4) : exec (.mop c f) s = next (s.coreFault c 0x06 true 0 (s.pcOf c) 0) := by
  change execMop c f s = _
  unfold execMop
  rw [ha, hb]
  exact matOp_fault h (matPre_format hr hk false)

end

/-! ### The select engine -/

/-- The operation that a select instruction enters with. -/
def selEntry (s : State) (c : Nat) (f : SelF) (op : EOp) : EngOp :=
  { op := op, pc := s.pcOf c, tk := tkOf f.tk, ta := (s.core c).arch.rdT f.ta, tb := (s.core c).arch.rdT f.tb, n := f.k.toNat, a := f.vt.toNat,
    b := b2n f.dir }

/-- A select instruction that meets the checks of its class reaches a free engine, where its start is checked. -/
def selIssues (s : State) (c : Nat) (f : SelF) : Prop :=
  issues s c f.g ∧ f.rsv = 0 ∧ tkFine f.tk ∧ f.vt.toNat < 5 ∧ 0 < f.k.toNat ∧ f.k.toNat ≤ 4096 ∧ (s.core c).arch.sleOp = none ∧ (s.core c).arch.tme = none

theorem selPre_clean {f : SelF} (hr : f.rsv = 0) (hk : tkFine f.tk) (hv : f.vt.toNat < 5) (h0 : 0 < f.k.toNat) (hmax : f.k.toNat ≤ 4096) :
    selPre f = none := by
  have hz : (f.k == 0) = false := beq_eq_false_iff_ne.mpr fun e => by rw [e] at h0; exact absurd h0 (by decide)
  rw [selPre, hr, tkBad_of_fine hk, hz, decide_eq_false (Nat.not_le.mpr hv), decide_eq_false (Nat.not_lt.mpr hmax)]
  rfl

section
variable {s : State} {c : Nat} {f : SelF} (i : Instr) (op : EOp) {regs : List (BitVec 4)} {sf : State → EngOp → Option (Nat × Nat)}
  {enter : State → EngOp → State} (h : selIssues s c f)
include h

theorem selOp_starts : selOp i c f op regs sf enter s = next ((s.next c).startEngine c 3 (s.pcOf c) (sf (s.next c) (selEntry s c f op)) fun u =>
    enter (u.modArch c fun y => { y with sleOp := some (selEntry s c f op) }) (selEntry s c f op)) := by
  obtain ⟨hi, hr, hk, hv, h0, hmax, hs, ht⟩ := h
  rw [selOp, issue_of_issues hi (selPre_clean hr hk hv h0 hmax) (by rw [hs, tdBusy_of_none ht]; rfl)]
  rfl

theorem selOp_enters (hsf : sf (s.next c) (selEntry s c f op) = none) : selOp i c f op regs sf enter s =
    next (enter (retire s c fun y => { y with sleOp := some (selEntry s c f op) }) (selEntry s c f op)) := by
  rw [selOp_starts i op h, hsf]
  rfl

theorem selOp_faults {code a : Nat} (hsf : sf (s.next c) (selEntry s c f op) = some (code, a)) : selOp i c f op regs sf enter s =
    next ((s.next c).coreFault c code false 3 (s.pcOf c) a) := by
  rw [selOp_starts i op h, hsf]
  rfl

end

/-! #### Reads beside a step of the sequencer -/

section
variable (s : State) (c : Nat)

theorem sle_next : ((s.next c).core c).arch.sle = (s.core c).arch.sle := by rw [core_next_self]
theorem spm_next : ((s.next c).core c).arch.spm = (s.core c).arch.spm := by rw [core_next_self]
theorem ctxOn_next : (s.next c).ctxOn c = s.ctxOn c := ctxOn_congr (by rw [core_next_self]) (by rw [core_next_self])
theorem clu_next (k : Nat) : (s.next c).clu k = s.clu k := rfl

theorem banksOwned_next (k o len : Nat) : (s.next c).banksOwned c k o len = s.banksOwned c k o len := by
  simp only [State.banksOwned, ctxOn_next, clu_next]

theorem rdLocal_next (a len : Nat) : (s.next c).rdLocal c a len = s.rdLocal c a len := by
  simp only [State.rdLocal, spm_next, banksOwned_next, clu_next]

theorem rdStream_next (rows : List (Nat × Nat)) : (s.next c).rdStream c rows = s.rdStream c rows := by
  simp only [State.rdStream, State.rdOk, rdLocal_next]

theorem reach_next (a len : Nat) : (s.next c).reach c a len = s.reach c a len := by
  simp only [State.reach, banksOwned_next]

theorem reachAll_next (rows : List (Nat × Nat)) : (s.next c).reachAll c rows = s.reachAll c rows := by
  induction rows with
  | nil => rfl
  | cons r rows ih =>
    obtain ⟨a, len⟩ := r
    simp only [State.reachAll, reach_next, ih]

theorem roundOf_next : (s.next c).roundOf c = s.roundOf c := by
  simp only [State.roundOf, clu_next, sle_next]

theorem scmrgFault_next (o : EngOp) : (s.next c).scmrgFault c o = s.scmrgFault c o := by
  simp only [State.scmrgFault, State.recordFault, sle_next, ctxOn_next, clu_next, roundOf_next, reachAll_next]

theorem rdOk_spm {a len : Nat} (h : a + len ≤ spmSize c) : s.rdOk c a len = rdBytes (s.core c).arch.spm a len := by
  rw [State.rdOk, rdLocal_spm h]
  rfl

end

/-! #### What the start of each operation asks -/

theorem recordFault_none (t : State) {c size : Nat} {tb : BitVec 256} (hd : dstInside c tb) (hsize : size ≤ (descOf tb).size) :
    t.recordFault c (descOf tb) size = none := by
  have hall := dstRows_inSpm hd le_rfl
  simp only [State.recordFault, hd.1, Nat.not_lt.mpr hsize, rowsInside_spm hall, reachAll_spm t (hall.cut _), Bool.not_true, decide_false, Bool.or_false]
  rfl

theorem ssortFault_none (t : State) {c : Nat} {o : EngOp} (hs : srcInside c o.ta) (hmod : (descOf o.ta).rowLen % vtBytes o.a = 0)
    (h0 : 0 < offeredOf (descOf o.ta) o.a) (hmax : offeredOf (descOf o.ta) o.a ≤ 4096) (hd : dstInside c o.tb)
    (hsize : recordSize o.n 0 ≤ (descOf o.tb).size) : t.ssortFault c o = none := by
  have hall := srcRows_inSpm hs le_rfl
  have hz : (offeredOf (descOf o.ta) o.a == 0) = false := beq_eq_false_iff_ne.mpr (Nat.ne_of_gt h0)
  simp only [State.ssortFault, hs.1, hz, hmod, Nat.not_lt.mpr hmax, rowsInside_spm hall, recordFault_none t hd hsize, reachAll_spm t hall,
    bne_self_eq_false, Bool.not_true, decide_false, Bool.or_false]
  rfl

theorem stopkFault_none {t : State} {c : Nat} {o : EngOp} (hs : srcInside c o.ta) (hmod : (descOf o.ta).rowLen % vtBytes o.a = 0)
    (hconf : (t.core c).arch.sle.conf = true) (hk : (t.core c).arch.sle.k = o.n) (hdir : b2n (t.core c).arch.sle.dir = o.b)
    (hvt : (t.core c).arch.sle.vtn = o.a) (hmax : offeredOf (descOf o.ta) o.a ≤ 65536)
    (hpad : (t.core c).arch.sle.next.toNat + offeredOf (descOf o.ta) o.a ≤ padId)
    (hids : (t.core c).arch.sle.explicitIds = true → srcInside c o.tb ∧ (descOf o.tb).size = 8 * offeredOf (descOf o.ta) o.a) : t.stopkFault c o = none := by
  have hall := srcRows_inSpm hs le_rfl
  simp only [State.stopkFault, hs.1, hconf, hk, hdir, hvt, hmod, Nat.not_lt.mpr hmax, Nat.not_lt.mpr hpad, rowsInside_spm hall, reachAll_spm t hall,
    bne_self_eq_false, Bool.not_true, decide_false, Bool.or_false, Bool.false_or]
  cases he : (t.core c).arch.sle.explicitIds with
  | false => rfl
  | true =>
    obtain ⟨hi, hsize⟩ := hids he
    have hrows := srcRows_inSpm hi le_rfl
    simp only [hi.1, hsize, rowsInside_spm hrows, reachAll_spm t hrows, bne_self_eq_false, Bool.not_true, Bool.or_false, Bool.and_false, if_true]
    rfl

theorem semitFault_none {t : State} {c : Nat} {o : EngOp} (hconf : (t.core c).arch.sle.conf = true) (hd : dstInside c o.tb)
    (hsize : recordSize (t.core c).arch.sle.k (t.core c).arch.sle.rsv ≤ (descOf o.tb).size) : t.semitFault c o = none := by
  simp only [State.semitFault, hconf, recordFault_none t hd hsize]
  rfl

theorem semitFault_without_list {t : State} {c : Nat} {o : EngOp} (hconf : (t.core c).arch.sle.conf = false) : t.semitFault c o = some (0x05, 0) := by
  simp only [State.semitFault, hconf]
  rfl

theorem sclrFault_none {t : State} {c : Nat} {o : EngOp} {ctl : Ctl} (hctl : ctl = ctlOf (rdBytes (t.core c).arch.spm (descOf o.ta).src 64))
    (hfmt : (descOf o.ta).fmt ≠ 15) (hin : inSpm c (descOf o.ta).src 64) (hbad : ctl.bad = false) (hrsv : ctl.rsv ≤ 64) (hal : ctl.addr % 64 = 0)
    (hroom : inSpm c ctl.addr (recordSize o.n ctl.rsv)) : t.sclrFault c o = none := by
  have hf : ((descOf o.ta).fmt == 15) = false := beq_eq_false_iff_ne.mpr hfmt
  simp only [State.sclrFault, hf, rdOk_spm t c hin.2, ← hctl, hbad, Nat.not_lt.mpr hrsv, hal, reach_spm t hin.2, reach_spm t hroom.2,
    bne_self_eq_false, decide_false, Bool.or_false]
  rfl

/-- The flags of a record hold DIR and VT of its list (Table 4.4). -/
theorem flags_agree {fl vt : Nat} {dir : Bool} (h : fl % 16 = b2n dir + 2 * vt) (hvt : vt < 8) : bit fl 0 = dir ∧ fl / 2 % 8 = vt := by
  cases dir <;> simp only [b2n, bit, if_true, if_false, Bool.false_eq_true, decide_eq_true_eq, decide_eq_false_iff_not, Nat.pow_zero, Nat.div_one] at h ⊢ <;>
    omega

theorem smergeFault_none {t : State} {c : Nat} {o : EngOp} {bs : Bytes} (hs : srcInside c o.ta)
    (hbs : t.rdStream c ((descOf o.ta).srcRows (descOf o.ta).rows) = bs) (hsize : 64 ≤ (descOf o.ta).size) (hconf : (t.core c).arch.sle.conf = true)
    (hk : fld bs 2 2 = (t.core c).arch.sle.k) (hfl : fld bs 6 2 % 16 = b2n (t.core c).arch.sle.dir + 2 * (t.core c).arch.sle.vt.toNat)
    (hroom : recordSize (t.core c).arch.sle.k (fld bs 4 1) ≤ (descOf o.ta).size) : t.smergeFault c o = none := by
  have hall := srcRows_inSpm hs le_rfl
  obtain ⟨hdir, hvt⟩ := flags_agree hfl (t.core c).arch.sle.vt.isLt
  simp only [State.smergeFault, hs.1, hconf, hbs, hk, hdir, hvt, SleList.vtn, Nat.not_lt.mpr hsize, Nat.not_lt.mpr hroom, rowsInside_spm hall,
    reachAll_spm t hall, bne_self_eq_false, Bool.not_true, decide_false, Bool.or_false]
  rfl

/-! #### An arrival at a merge slot (04 R184, R185) -/

theorem core_modClu (s : State) (k d : Nat) (g : Cluster → Cluster) : (s.modClu k g).core d = s.core d := rfl
theorem clu_modArch (s : State) (c k : Nat) (g : Arch → Arch) : (s.modArch c g).clu k = s.clu k := rfl

theorem arrive_merging {s : State} {c : Nat} (o : EngOp) (h : (s.roundOf c).full = true) : ∃ g, s.arrive c o = s.modClu (clusterOf c) g := by
  simp only [State.arrive, h, if_true]
  exact ⟨_, rfl⟩

theorem arrive_open {s : State} {c : Nat} (o : EngOp) (h : (s.roundOf c).full = false) : ∃ g : MRound → MRound, c ∈ (g (s.roundOf c)).arrived ∧
    s.arrive c o = (s.modClu (clusterOf c) fun k => { k with rounds := mmod {} k.rounds (s.core c).arch.sle.mslot.toNat g }).modArch c fun a =>
      { a with sleOp := a.sleOp.map fun p => { p with arrived := true } } := by
  simp only [State.arrive, h, Bool.false_eq_true, if_false]
  split
  · exact ⟨fun r => { r with mask := (s.core c).arch.sle.mmask, k := (s.core c).arch.sle.k, dir := (s.core c).arch.sle.dir, vt := (s.core c).arch.sle.vt,
                             rsv := (s.core c).arch.sle.rsv, tb := o.tb, arrived := [c] }, List.mem_singleton.mpr rfl, rfl⟩
  · exact ⟨fun r => { r with arrived := r.arrived ++ [c] }, List.mem_append_right _ (List.mem_singleton.mpr rfl), rfl⟩

/-- What an SCMRG leaves when it enters: its operation, and, where the slot is not merging, its arrival. -/
theorem scmrg_arrives {s : State} {c : Nat} (o p : EngOp) (hp : (s.core c).arch.sleOp = some p) :
    ((s.arrive c o).core c).arch.pc = (s.core c).arch.pc ∧ ∃ x, ((s.arrive c o).core c).arch.sleOp = some x ∧ x.op = p.op ∧
      ((s.roundOf c).full = false → x.arrived = true ∧ c ∈ ((s.arrive c o).roundOf c).arrived) := by
  cases hfull : (s.roundOf c).full with
  | true =>
    obtain ⟨g, hg⟩ := arrive_merging o hfull
    rw [hg, core_modClu]
    exact ⟨rfl, p, hp, rfl, fun h => absurd h (by decide)⟩
  | false =>
    obtain ⟨g, hmem, hg⟩ := arrive_open o hfull
    rw [hg]
    refine ⟨?_, { p with arrived := true }, ?_, rfl, fun _ => ⟨rfl, ?_⟩⟩
    · rw [core_modArch_self, core_modClu]
    · rw [core_modArch_self, core_modClu, hp]
      rfl
    · simp only [State.roundOf, core_modArch_self, core_modClu, clu_modArch, clu_modClu_self, mget_mmod, if_true]
      exact hmem

theorem roundOf_retire (s : State) (c : Nat) (x : EngOp) : (retire s c fun y => { y with sleOp := some x }).roundOf c = s.roundOf c := by
  simp only [State.roundOf, core_retire_self]
  rfl

/-- Settles O15: each instruction has its class's form of issue, and its operands in the scratchpad meet the checks at its start. -/
theorem matrixAndSelectIssue : Obligations.MatrixAndSelectIssue := by
  refine ⟨?_, ?_⟩
  · intro s c f h hr hk hm ht a enters int8
    refine ⟨mclr_enters h hr hk hm ht, fun ha hb hacc hlen hta htb => ?_, fun ha hb hta => ?_, fun ha hb hacc h0 hmax htb hp hpair => ?_,
      fun ha hacc hlen hkind hfmt hrow hrows hd => ?_, fun ha hb => mop_format_fault h hr hk ha hb⟩
    · obtain ⟨hfa, hla, hka, hsa⟩ := hta
      obtain ⟨hfb, hlb, hkb, hsb⟩ := htb
      exact mop_enters h hr hk hm ht ha hb hacc hlen (fun t => operandFault_int8 t hfa hla hka hsa) (fun t => operandFault_int8 t hfb hlb hkb hsb)
    · obtain ⟨hfa, hla, hka, hsa⟩ := hta
      exact msld_enters h hr hk hm ht ha hb fun t => operandFault_int8 t hfa hla hka hsa
    · obtain ⟨hfb, hlb, hkb, hsb⟩ := htb
      exact mws_enters h hr hk hm ht ha hb hacc h0 hmax (fun t => actFault_int8 t hfb hlb hkb hsb) hp hpair
    · exact mrd_enters h hr hk hm ht ha hacc hlen hkind fun t =>
        mrdFault_int32 t (by rw [matEntry, ha]; rfl) hlen hfmt hrow hrows hd
  · intro s c f hi hr hk hv h0 hmax hs ht a ta tb l enters
    have h : selIssues s c f := ⟨hi, hr, hk, hv, h0, hmax, hs, ht⟩
    refine ⟨fun n hn hsrc hmod => ⟨fun hpos hle hdst hroom => ?_, fun hle hconf hlk hdir hvt hpad hids => ?_⟩, fun hconf hdst hroom => ?_, fun hconf => ?_,
      fun hfmt hin hbad hrsv hal hroom => ?_, fun bs hsrc hbs hsize hconf hlk hfl hroom => ?_, fun hconf hnone => ?_⟩
    · subst hn
      exact ⟨selEntry s c f .ssort, selOp_enters (.ssort c f) .ssort (sf := fun t o => t.ssortFault c o) (enter := fun t _ => t) h
        (ssortFault_none _ hsrc hmod hpos hle hdst hroom), ⟨rfl, rfl, rfl, rfl, rfl⟩, rfl, rfl, rfl⟩
    · subst hn
      refine ⟨selEntry s c f .stopk, selOp_enters (.stopk c f) .stopk (sf := fun t o => t.stopkFault c o) (enter := fun t _ => t) h ?_,
        ⟨rfl, rfl, rfl, rfl, rfl⟩, rfl, rfl, rfl⟩
      have hsle := sle_next s c
      exact stopkFault_none hsrc hmod (by rw [hsle]; exact hconf) (by rw [hsle]; exact hlk) (by rw [hsle]; exact congrArg b2n hdir)
        (by rw [hsle]; exact congrArg BitVec.toNat hvt) hle (by rw [hsle]; exact hpad) (by rw [hsle]; exact hids)
    · refine ⟨selEntry s c f .semit, selOp_enters (.semit c f) .semit (sf := fun t o => t.semitFault c o) (enter := fun t _ => t) h ?_,
        ⟨rfl, rfl, rfl, rfl, rfl⟩, rfl, rfl, rfl⟩
      have hsle := sle_next s c
      exact semitFault_none (by rw [hsle]; exact hconf) hdst (by rw [hsle]; exact hroom)
    · exact selOp_faults (.semit c f) .semit (sf := fun t o => t.semitFault c o) (enter := fun t _ => t) h
        (semitFault_without_list (by rw [sle_next]; exact hconf))
    · refine ⟨selEntry s c f .sclr, selOp_enters (.sclr c f) .sclr (sf := fun t o => t.sclrFault c o) (enter := fun t _ => t) h ?_,
        ⟨rfl, rfl, rfl, rfl, rfl⟩, rfl, rfl, rfl⟩
      exact sclrFault_none (by rw [spm_next]; rfl) hfmt hin hbad hrsv hal hroom
    · refine ⟨selEntry s c f .smerge, selOp_enters (.smerge c f) .smerge (sf := fun t o => t.smergeFault c o) (enter := fun t _ => t) h ?_,
        ⟨rfl, rfl, rfl, rfl, rfl⟩, rfl, rfl, rfl⟩
      have hsle := sle_next s c
      exact smergeFault_none hsrc ((rdStream_next s c _).trans hbs.symm) hsize (by rw [hsle]; exact hconf) (by rw [hsle]; exact hlk)
        (by rw [hsle]; exact hfl) (by rw [hsle]; exact hroom)
    · refine ⟨_, selOp_enters (.scmrg c f) .scmrg (sf := fun t o => t.scmrgFault c o) (enter := fun t o => t.arrive c o) h
        ((scmrgFault_next s c _).trans hnone), ?_⟩
      have harr := scmrg_arrives (s := retire s c fun y => { y with sleOp := some (selEntry s c f .scmrg) }) (c := c) (selEntry s c f .scmrg)
        (selEntry s c f .scmrg) (by rw [core_retire_self])
      rw [core_retire_self, roundOf_retire] at harr
      exact harr

end Sys2Proof.Machine

/-! PROOF. The scheduler's acts on cores: hold, scrub, pre-emption, save and restore (02 R61, R91 to R103; 10 R409, R415). -/

namespace Sys2Proof.Machine

open Sys2Proof.Claims

/-! ### Reads and writes of the DRAM reach no core and no context -/

/-- The cores, the clusters, the contexts and the filter runs of two states are the same. -/
structure SameWork (s t : State) : Prop where
  cores : t.cores = s.cores
  clus : t.clus = s.clus
  sched : t.sched = s.sched
  fch : t.fch = s.fch

namespace SameWork

theorem refl (s : State) : SameWork s s := ⟨rfl, rfl, rfl, rfl⟩

theorem trans {s t u : State} (h : SameWork s t) (h' : SameWork t u) : SameWork s u :=
  ⟨h'.cores.trans h.cores, h'.clus.trans h.clus, h'.sched.trans h.sched, h'.fch.trans h.fch⟩

theorem core {s t : State} (h : SameWork s t) (c : Nat) : t.core c = s.core c := by simp only [State.core, h.cores]
theorem ctx {s t : State} (h : SameWork s t) (x : Nat) : t.ctx? x = s.ctx? x := by simp only [State.ctx?, h.sched]

theorem free (s : State) (n : Nat) : SameWork s { s with free := n } := ⟨rfl, rfl, rfl, rfl⟩
theorem modDram (s : State) (f : Dram → Dram) : SameWork s (s.modDram f) := ⟨rfl, rfl, rfl, rfl⟩
theorem modStack (s : State) (n : Nat) (f : Stack → Stack) : SameWork s (s.modStack n f) := ⟨rfl, rfl, rfl, rfl⟩
theorem modEcc (s : State) (e : Ecc) : SameWork s { s with ecc := e } := ⟨rfl, rfl, rfl, rfl⟩

theorem fbRecord (s : State) (code : Nat) (p : Bytes) : SameWork s (s.fbRecord code p) :=
  have h := fbRecord_frame s code p
  ⟨congrArg (·.cores) h, congrArg (·.clus) h, congrArg (·.sched) h, congrArg (·.fch) h⟩

theorem lineRecord (s : State) (g l n : Nat) (ue : Bool) : SameWork s (s.lineRecord g l n ue) :=
  (modStack s _ _).trans ((modDram _ _).trans (fbRecord _ _ _))

theorem putLine (s : State) (g l : Nat) (bs : Bytes) : SameWork s (s.putLine g l bs) := by
  unfold State.putLine
  extract_lets k t m e u b
  have hu : SameWork s u := (modDram s _).trans (modEcc _ _)
  split
  · split
    · exact hu
    · exact hu.trans (modDram _ _)
  · exact modDram s _

theorem getLine (s : State) (g l : Nat) : SameWork s (s.getLine g l).1 := by
  have hput (t : State) (bs : Bytes) (n : Nat) : SameWork t ((t.putLine g l bs).lineRecord g l n false) :=
    (putLine t g l bs).trans (lineRecord _ g l n false)
  have htake : SameWork s s.takeFree.2 := free s _
  unfold State.getLine
  extract_lets k
  split
  · exact refl s
  split
  · exact free s _
  split
  · exact refl s
  split
  · dsimp only
    split
    · exact htake.trans (lineRecord _ _ _ _ _)
    split
    · exact htake.trans ((free _ _).trans (hput _ _ _))
    · exact htake
  · split
    · exact lineRecord _ _ _ _ _
    · dsimp only
      split
      · exact refl s
      · exact hput s _ _

theorem dramPaste (s : State) (g off len : Nat) (m : Mem) : SameWork s (s.dramPaste g off len m) := by
  unfold State.dramPaste State.flipStored
  extract_lets l
  split
  · exact (modDram s _).trans (putLine _ _ _ _)
  · exact modDram s _

theorem storeImage (s : State) (c : Nat) (a : Arch) : SameWork s (s.storeImage c a) := by
  unfold State.storeImage
  split
  · exact refl s
  · exact dramPaste _ _ _ _ _

theorem readArea (s : State) (g off len : Nat) : SameWork s (s.readArea g off len).1 := by
  unfold State.readArea
  split
  · exact refl s
  · refine List.foldlRecOn _ _ (motive := fun acc : State × Option Mem => SameWork s acc.1) (refl s) fun acc h k _ => ?_
    have hline := getLine acc.1 g (k - lineKey g 0)
    split
    · next hg => exact h.trans (by rw [hg] at hline; exact hline)
    · next hg _ => exact h.trans (by rw [hg] at hline; exact hline)

theorem loadImage (s : State) (c : Nat) (a : Arch) : SameWork s (s.loadImage c a).1 := by
  unfold State.loadImage
  split
  · exact refl s
  · next g off _ =>
    have h := readArea s g off (imageBytes c)
    split <;> next hr => rw [hr] at h; exact h

end SameWork

/-! ### The same act on a list of cores -/

theorem foldl_modCore_core (f : Core → Core) (hf : ∀ k, f (f k) = f k) (l : List Nat) (s : State) (d : Nat) :
    (l.foldl (fun t c => t.modCore c f) s).core d = if d ∈ l then f (s.core d) else s.core d := by
  induction l generalizing s with
  | nil => rfl
  | cons c l ih =>
    rw [List.foldl_cons, ih]
    by_cases hd : d = c
    · subst hd
      rw [core_modCore_self, if_pos (List.mem_cons_self ..), hf, ite_self]
    · simp only [core_modCore_of_ne s f hd, List.mem_cons, hd, false_or]

theorem foldl_modCore_frame (f : Core → Core) (l : List Nat) (s : State) : { l.foldl (fun t c => t.modCore c f) s with cores := s.cores } = s := by
  induction l generalizing s with
  | nil => rfl
  | cons c l ih => exact congrArg (fun t : State => { t with cores := s.cores }) (ih (s.modCore c f))

theorem coreOk_of_lt {c : Nat} (h : c < 768) : coreOk c = true := decide_eq_true h

/-! ### Hold, scrub, barrier masks -/

section
variable {s : State} {c : Nat} (hc : c < 768) (ha : s.alive 6 = true)
include hc ha

theorem exec_hold (on : Bool) : exec (.hold c on) s = next (s.modCore c fun k => { k with
    hold := on
    run := if on && k.run == .running then .held else if ! on && k.run == .held then .running else k.run }) := by
  simp only [exec, execHold, guardUnit_pos (coreOk_of_lt hc), ha, Bool.not_true, Bool.false_eq_true, if_false]

theorem hold_running (h : (s.core c).run = .running) : ∃ t, exec (.hold c true) s = next t ∧ (t.core c).hold = true ∧ (t.core c).run = .held ∧
    t.canIssue c = false ∧ (t.core c).arch = (s.core c).arch ∧ onlyCores s t ∧ ∀ d, d ≠ c → t.core d = s.core d := by
  refine ⟨_, exec_hold hc ha true, ?_, ?_, canIssue_of_run_ne ?_, ?_, rfl, fun d hd => core_modCore_of_ne _ _ hd⟩
  all_goals simp [h]

theorem unhold_held (h : (s.core c).run = .held) : ∃ t, exec (.hold c false) s = next t ∧ (t.core c).hold = false ∧ (t.core c).run = .running ∧
    (t.core c).arch = (s.core c).arch ∧ onlyCores s t ∧ ∀ d, d ≠ c → t.core d = s.core d := by
  refine ⟨_, exec_hold hc ha false, ?_, ?_, ?_, rfl, fun d hd => core_modCore_of_ne _ _ hd⟩
  all_goals simp [h]

theorem scrub_unbound (h : (s.core c).bound = false) : ∃ t, exec (.scrub c) s = next t ∧ (t.core c).arch = {} ∧ (t.core c).fault = none ∧
    (t.core c).bankWait = 0 ∧ (t.core c).run = .idle ∧ (t.core c).steps = (s.core c).steps ∧ onlyCores s t ∧ ∀ d, d ≠ c → t.core d = s.core d := by
  have hex : exec (.scrub c) s = next (s.modCore c fun k =>
      if k.bound then { k with arch := {}, fault := none, bankWait := 0, ran := false, scrub := false } else k.scrubbed) := by
    simp only [exec, execScrub, guardUnit_pos (coreOk_of_lt hc), ha, Bool.not_true, Bool.false_eq_true, if_false]
  refine ⟨_, hex, ?_, ?_, ?_, ?_, ?_, rfl, fun d hd => core_modCore_of_ne _ _ hd⟩
  all_goals simp [h, Core.scrubbed]

omit hc in
theorem barMask_written {k b : Nat} (v : BitVec 32) (hk : k < 96) (hb : b < 16) : ∃ t, exec (.cluBarMaskWrite k b v) s = next t ∧
    mget 0 (t.clu k).barMask b = v &&& 0x8003FFFF ∧ mget 0 (t.clu k).arrivals b = 0 ∧ (t.clu k).spm = (s.clu k).spm ∧
    (∀ j, j ≠ b → mget 0 (t.clu k).barMask j = mget 0 (s.clu k).barMask j ∧ mget 0 (t.clu k).arrivals j = mget 0 (s.clu k).arrivals j) ∧
    (∀ m, m ≠ k → t.clu m = s.clu m) ∧ { t with clus := s.clus } = s := by
  have hok : (clusterOk k && barOk b) = true := by simp [clusterOk, barOk, hk, hb]
  have hex : exec (.cluBarMaskWrite k b v) s = next (s.modClu k fun y =>
      { y with barMask := mset 0 y.barMask b (v &&& barBits), arrivals := mset 0 y.arrivals b 0 }) := by
    simp only [exec, execCluBarMaskWrite, guardUnit_pos hok, ha, Bool.not_true, Bool.false_eq_true, if_false]
  refine ⟨_, hex, ?_, ?_, ?_, fun j hj => ⟨?_, ?_⟩, fun m hm => clu_modClu_of_ne _ _ hm, rfl⟩
  · simp only [clu_modClu_self, mget_mset, if_true]
    rfl
  · simp only [clu_modClu_self, mget_mset, if_true]
  · rw [clu_modClu_self]
  · simp only [clu_modClu_self, mget_mset, hj, if_false]
  · simp only [clu_modClu_self, mget_mset, hj, if_false]

end

/-! ### Pre-emption -/

/-- A core that PREEMPT stops. -/
def Core.stopping (now : Nat) (k : Core) : Core := { k with preempt := true, run := .stopping, stopAt := now }

theorem ctx_refresh {s : State} {x : Nat} {cx : Ctx} (h : s.ctx? x = some cx) :
    ∃ b w : Option Nat, (s.refresh x).ctx? x = some { cx with blockedSince := b, waitSince := w } := by
  obtain ⟨b, w, hx⟩ := ctx_refresh_self s x
  exact ⟨b, w, by rw [hx, h]; rfl⟩

theorem preemptCnt_refresh (s : State) (x : Nat) : (s.refresh x).sched.preemptCnt = s.sched.preemptCnt := by
  unfold State.refresh; split <;> rfl

/-- The saving of a context of which no core has halted begins on all its cores. -/
theorem preemptCtx_all {s : State} {x : Nat} {cx : Ctx} (hx : s.ctx? x = some cx) (hh : cx.halted = []) :
    (∀ d ∈ cx.cores, (s.preemptCtx x cx).core d = (s.core d).stopping s.sys.now) ∧
    (∃ cy, (s.preemptCtx x cx).ctx? x = some cy ∧ cy.place = .saving ∧ cy.todo = cx.cores) ∧
    (s.preemptCtx x cx).sched.preemptCnt = satBv s.sched.preemptCnt 1 := by
  have hlive : cx.cores.filter (fun c => ! (cx.halted.any fun h => h.1 == c)) = cx.cores := by simp [hh]
  have hframe := foldl_modCore_frame (Core.stopping s.sys.now) cx.cores s
  have hsched : (cx.cores.foldl (fun t c => t.modCore c (Core.stopping s.sys.now)) s).sched = s.sched := congrArg (·.sched) hframe
  unfold State.preemptCtx
  rw [hlive]
  extract_lets live ran t u
  have ht : t.sched = s.sched := hsched
  refine ⟨fun d hd => ?_, ?_, ?_⟩
  · have := foldl_modCore_core (Core.stopping s.sys.now) (fun _ => rfl) cx.cores s d
    rw [if_pos hd] at this
    rw [refresh_core]
    exact this
  · have hu : u.ctx? x = some cx := (congrArg (fun q : Sched => lget q.ctxs x) ht).trans hx
    obtain ⟨b, w, hy⟩ := ctx_refresh (s := u.modCtx x fun y => { y with
      place := .saving, todo := cx.cores, ranAtSave := ran, preempts := y.preempts + 1, blockedSince := none, waitSince := none })
      (by rw [ctx_modCtx, if_pos rfl, hu]; rfl)
    exact ⟨_, hy, rfl, rfl⟩
  · rw [preemptCnt_refresh]
    exact congrArg (fun q : Sched => satBv q.preemptCnt 1) ht

/-! ### Saving a core and its context -/

section
variable (s : State) (x c : Nat) (a : Arch)

theorem keepImage_core (d : Nat) : (s.keepImage x c a).core d = s.core d :=
  (SameWork.storeImage (s.modCtx x fun y => { y with images := lset y.images c a }) c a).core d

theorem ctx_keepImage (y : Nat) : (s.keepImage x c a).ctx? y =
    if y = x then (s.ctx? y).map fun q => { q with images := lset q.images c a } else s.ctx? y :=
  ((SameWork.storeImage (s.modCtx x fun y => { y with images := lset y.images c a }) c a).ctx y).trans (ctx_modCtx s x y _)

end

/-- Core `c` of context `x` is saved: its state is zero and its image is kept; no post to it has overflowed. -/
def CoreSaved (t : State) (x c : Nat) (img : Arch) : Prop :=
  (t.core c).halted = false ∧ (t.core c).run = .saved ∧ (t.core c).arch = {} ∧
    ∃ cy, t.ctx? x = some cy ∧ lget cy.images c = some img ∧ cy.heldFault = none

section
variable {s : State} {x c : Nat} {img : Arch}

/-- One core of a context is returned when the last of them is saved (02 R96). -/
def State.returnCore (x : Nat) (t : State) (c : Nat) : State :=
  if (t.core c).halted then (t.keepImage x c (t.core c).arch).modCore c Core.scrubbed else t.modCore c fun k => { k with bound := false }

theorem CoreSaved.returnCore (h : CoreSaved s x c img) (d : Nat) : CoreSaved (State.returnCore x s d) x c img := by
  obtain ⟨hh, hr, ha, cy, hx, hi, hf⟩ := h
  unfold State.returnCore
  by_cases hd : c = d
  · subst hd
    rw [if_neg (by rw [hh]; decide)]
    exact ⟨by rw [core_modCore_self]; exact hh, by rw [core_modCore_self]; exact hr, by rw [core_modCore_self]; exact ha, cy, hx, hi, hf⟩
  · split
    · refine ⟨?_, ?_, ?_, { cy with images := lset cy.images d (s.core d).arch }, ?_, ?_, hf⟩
      · rw [core_modCore_of_ne _ _ hd, keepImage_core, hh]
      · rw [core_modCore_of_ne _ _ hd, keepImage_core, hr]
      · rw [core_modCore_of_ne _ _ hd, keepImage_core, ha]
      · exact (ctx_keepImage s x d _ x).trans (by rw [if_pos rfl, hx]; rfl)
      · rw [lget_lset, if_neg hd, hi]
    · refine ⟨?_, ?_, ?_, cy, hx, hi, hf⟩
      · rw [core_modCore_of_ne _ _ hd, hh]
      · rw [core_modCore_of_ne _ _ hd, hr]
      · rw [core_modCore_of_ne _ _ hd, ha]

theorem CoreSaved.modCtx (h : CoreSaved s x c img) (f : Ctx → Ctx) (hi : ∀ y, (f y).images = y.images) (hf : ∀ y, (f y).heldFault = y.heldFault) :
    CoreSaved (s.modCtx x f) x c img := by
  obtain ⟨hh, hr, ha, cy, hx, him, hfl⟩ := h
  exact ⟨hh, hr, ha, f cy, by rw [ctx_modCtx, if_pos rfl, hx]; rfl, by rw [hi, him], by rw [hf, hfl]⟩

theorem CoreSaved.refresh (h : CoreSaved s x c img) : CoreSaved (s.refresh x) x c img := by
  obtain ⟨hh, hr, ha, cy, hx, hi, hf⟩ := h
  obtain ⟨b, w, hy⟩ := ctx_refresh hx
  exact ⟨by rw [refresh_core, hh], by rw [refresh_core, hr], by rw [refresh_core, ha], _, hy, hi, hf⟩

theorem CoreSaved.heldTeardown (h : CoreSaved s x c img) : CoreSaved (s.heldTeardown x) x c img := by
  obtain ⟨hh, hr, ha, cy, hx, hi, hf⟩ := h
  have : s.heldTeardown x = s := by simp only [State.heldTeardown, hx, hf]
  rw [this]
  exact ⟨hh, hr, ha, cy, hx, hi, hf⟩

theorem CoreSaved.savedCtx (h : CoreSaved s x c img) (cx : Ctx) : CoreSaved (s.savedCtx x cx) x c img := by
  have hfold : CoreSaved (cx.cores.foldl (State.returnCore x) s) x c img :=
    List.foldlRecOn _ _ (motive := fun t => CoreSaved t x c img) h fun t ht d _ => ht.returnCore d
  unfold State.savedCtx
  extract_lets t recs u
  have ht : CoreSaved t x c img := hfold
  refine CoreSaved.heldTeardown (CoreSaved.refresh (ht.modCtx _ ?_ ?_))
  · exact fun _ => rfl
  · exact fun _ => rfl

end

/-- The core that CONTEXT_SAVED names is saved, whether or not it is the last of its context. -/
theorem saveCore_saved {s : State} {x c : Nat} {cx : Ctx} (hx : s.ctx? x = some cx) (hh : (s.core c).halted = false) (hf : cx.heldFault = none) :
    CoreSaved (s.saveCore x c cx) x c (s.core c).arch := by
  unfold State.saveCore
  extract_lets img t u
  have hu : CoreSaved u x c (s.core c).arch := by
    refine ⟨?_, ?_, ?_, { cx with images := lset cx.images c (s.core c).arch, todo := setDel cx.todo c }, ?_, ?_, hf⟩
    · rw [core_modCore_self]
      exact (congrArg Core.halted (keepImage_core s x c img c)).trans hh
    · rw [core_modCore_self]
    · rw [core_modCore_self]
    · change t.ctx? x = _
      rw [ctx_modCtx, if_pos rfl, ctx_keepImage, if_pos rfl, hx]
      rfl
    · rw [lget_lset, if_pos rfl]
  split
  · split
    · exact hu
    · exact hu.savedCtx _
  · exact hu.refresh

/-! ### Restore -/

section
variable {s : State} {c x : Nat} {cx : Ctx} (hc : c < 768) (hl : s.coresLive = true) (hon : s.ctxOn c = some x) (hx : s.ctx? x = some cx)
include hc hl hon hx

theorem exec_preempt (hh : (s.core c).halted = false) (hp : cx.place = .resident) (ht : cx.todo = []) : exec (.preempt c) s = next (s.preemptCtx x cx) := by
  simp [exec, execPreempt, guardUnit_pos (coreOk_of_lt hc), hl, hh, hon, hx, hp, ht]

theorem exec_contextSaved (hr : (s.core c).run = .stopping) : exec (.contextSaved c) s = next (s.saveCore x c cx) := by
  simp [exec, execContextSaved, guardUnit_pos (coreOk_of_lt hc), hl, hr, hon, hx]

theorem exec_restore {img : Arch} (hi : lget cx.images c = some img) (hr : (s.core c).run = .saved) :
    exec (.restore c) s = next (s.modCore c fun k => { k with restore := true, run := .restoring }) := by
  simp [exec, execRestore, State.restoreCore, guardUnit_pos (coreOk_of_lt hc), hl, hr, hon, hx, hi]

theorem exec_restoreDone {img a : Arch} {u : State} (hi : lget cx.images c = some img) (hr : (s.core c).run = .restoring)
    (hu : s.loadImage c img = (u, some a)) : exec (.restoreDone c) s = next (u.restoredCore x c a) := by
  simp [exec, execRestoreDone, guardUnit_pos (coreOk_of_lt hc), hl, hr, hon, hx, hi, hu]

theorem exec_restoreDone_lost {img : Arch} {u : State} (hi : lget cx.images c = some img) (hr : (s.core c).run = .restoring)
    (hu : s.loadImage c img = (u, none)) : exec (.restoreDone c) s = next (u.ctxLost x) := by
  simp [exec, execRestoreDone, guardUnit_pos (coreOk_of_lt hc), hl, hr, hon, hx, hi, hu]

end

theorem restoredCore_core (s : State) (x c : Nat) (a : Arch) : (s.restoredCore x c a).core c =
    { s.core c with arch := a, restore := false, run := if (s.core c).hold then .held else .running } := by
  rw [State.restoredCore, refresh_core, modCtx_core, core_modCore_self]

/-- Settles O21: each act is one change of the core, and the reads and writes of the save area leave the cores and the contexts alone. -/
theorem coreControlAndContexts : Obligations.CoreControlAndContexts := by
  refine ⟨fun s c hc ha => ⟨hold_running hc ha, unhold_held hc ha, scrub_unbound hc ha, fun k b v hk hb => barMask_written ha v hk hb⟩,
    fun s c x cx hc hl hon hx _ => ⟨fun hh hp ht hn => ?_, fun hr hh hf => ?_, fun img hi hr => ?_, fun img hi hr hhold => ⟨fun u a hu => ?_, fun u hu => ?_⟩⟩⟩
  · obtain ⟨hcores, hctx, hcnt⟩ := preemptCtx_all hx hn
    exact ⟨_, exec_preempt hc hl hon hx hh hp ht, fun d hd => by rw [hcores d hd]; exact ⟨rfl, rfl, rfl⟩, hctx, hcnt⟩
  · obtain ⟨-, hrun, harch, cy, hy, hi, -⟩ := saveCore_saved (s := s) (c := c) hx hh hf
    exact ⟨_, exec_contextSaved hc hl hon hx hr, hrun, harch, cy, hy, hi⟩
  · exact ⟨_, exec_restore hc hl hon hx hi hr, by rw [core_modCore_self], hx⟩
  · have hsame : u.core c = s.core c := by
      have := (SameWork.loadImage s c img).core c
      rwa [hu] at this
    refine ⟨_, exec_restoreDone hc hl hon hx hi hr hu, ?_, ?_, ?_⟩
    all_goals rw [restoredCore_core]
    rw [hsame, hhold]
    rfl
  · exact exec_restoreDone_lost hc hl hon hx hi hr hu

end Sys2Proof.Machine

/-! PROOF. Job contexts (10 R393 to R406). A post to a core that is saving is applied to the core's own tokens, whether or not its context has started. -/

namespace Sys2Proof.Machine

open Sys2Proof.Claims

/-- A job context that has not started, with core 0. -/
def unstarted : Ctx := { kind := .job, part := 0, cores := [0], waitSince := some 100 }

/-- A CX_POST of 65,535 to token 0 of core 0. -/
def fullPost : Cmd :=
  { ref := { part := 0, qp := 1, tag := 7 }, opcode := 0x71, ver := 2, fua := false, embed := false, ordered := false, dlen := 0, obj := 0, p1 := 0, p2 := 65535,
    p3 := [], data := [], phase := .admitted, seq := 0, sqHead := 1, adm := 1 }

/-- Core 0 is saving and bound to the context, and token 0 of it counts 1 already. -/
def postedSaving : State :=
  { State.reset with
    sys := { powered := true, upStep := 7, mediaReady := true }
    host := { State.reset.host with cmds := [fullPost], admissions := 1 }
    sched := { ctxs := [(5, unstarted)] }
    cores := [(0, { run := .saving, bound := true, ctx := 5, arch := { k := [(0, 1)] } })] }

theorem postedSaving_starts : starts postedSaving fullPost.ref 0x71 fullPost ∧ postedSaving.jobTagged 0 0 = some (5, unstarted) ∧
    postedSaving.ctx? 5 = some unstarted := by
  unfold starts; decide +kernel

/-- The contexts after an outcome. -/
def contextsAfter (out : Out) : List (Nat × Ctx) :=
  match out with
  | .next t => t.sched.ctxs
  | _ => []

/-- The core's token passes 65,535, which is a fault of the core: the context is torn down. -/
theorem fullPost_tears_down : contextsAfter (exec (.cxPost fullPost.ref) postedSaving) = [] := by decide +kernel

/-- Refutes O22: a CX_POST to a context that has not started is applied to a core that is saving with the context's number, and its overflow takes the
context down (R411), where the fourth clause has the context hold the post; `postedSaving` and `fullPost` show it. -/
theorem not_jobContexts : ¬ Obligations.JobContexts := by
  intro h
  obtain ⟨⟨-, hpost⟩, -⟩ := h
  obtain ⟨hstarts, htag, hctx⟩ := postedSaving_starts
  obtain ⟨-, hheld⟩ := hpost postedSaving fullPost.ref fullPost hstarts
  obtain ⟨t, hstep, -, cy, hcy, -⟩ := hheld 5 unstarted htag hctx (by decide) rfl rfl
  have hnone : t.sched.ctxs = [] := by
    have := fullPost_tears_down
    rwa [hstep] at this
  rw [State.ctx?, hnone] at hcy
  cases hcy

end Sys2Proof.Machine

/-! PROOF. What an engine operation's work on data leaves of its core (02 R51, R52): the engines, the tokens, and whether the core runs. -/

namespace Sys2Proof.Machine

open Sys2Proof.Claims

theorem OnlyMem.stirBuffer (s : State) (c : Nat) : OnlyMem s (s.stirBuffer c) := by
  unfold State.stirBuffer
  exact (OnlyMem.free s _).trans (.wrLocal_getD _ _ _ _)

/-- The engines of a core and its tokens. -/
def Arch.engines (a : Arch) : NMap (BitVec 16) × Option EngOp × Option EngOp × Option EngOp × List EngOp := (a.k, a.tme, a.vxe, a.sleOp, a.mxe)

/-- What of a core an engine's work on data leaves as it is. -/
def Core.standing (k : Core) := (k.bound, k.run, k.arch.engines)

/-- Between two states a core's engines, its tokens, its context and its run state are the same, and no filter invocation has come to it. -/
structure Steady (c : Nat) (s t : State) : Prop where
  standing : (t.core c).standing = (s.core c).standing
  inv : lget s.fch.invs c = none → lget t.fch.invs c = none

namespace Steady

variable {c : Nat}

theorem refl (s : State) : Steady c s s := ⟨rfl, id⟩

theorem trans {s t u : State} (h : Steady c s t) (h' : Steady c t u) : Steady c s u := ⟨h'.standing.trans h.standing, fun hi => h'.inv (h.inv hi)⟩

theorem of_cores {s t : State} (h : t.cores = s.cores) (hf : t.fch = s.fch) : Steady c s t :=
  ⟨by simp only [State.core, h], fun hi => by rw [hf]; exact hi⟩

theorem bound {s t : State} (h : Steady c s t) : (t.core c).bound = (s.core c).bound := congrArg (·.1) h.standing
theorem run {s t : State} (h : Steady c s t) : (t.core c).run = (s.core c).run := congrArg (·.2.1) h.standing
theorem engines {s t : State} (h : Steady c s t) : (t.core c).arch.engines = (s.core c).arch.engines := congrArg (·.2.2) h.standing

theorem sameWork {s t : State} (h : SameWork s t) : Steady c s t := of_cores h.cores h.fch

theorem onlyMem {s t : State} (h : OnlyMem s t) : Steady c s t := by
  obtain ⟨m, b, hm⟩ := h.core c
  exact ⟨by rw [hm]; rfl, h.inv c⟩

theorem free (s : State) (n : Nat) : Steady c s { s with free := n } := onlyMem (.free s n)

theorem modCore (s : State) (d : Nat) {f : Core → Core} (hf : ∀ k, (f k).standing = k.standing) : Steady c s (s.modCore d f) := by
  refine ⟨?_, id⟩
  by_cases h : c = d
  · subst h; rw [core_modCore_self, hf]
  · rw [core_modCore_of_ne s f h]

theorem modArch (s : State) (d : Nat) {f : Arch → Arch} (hf : ∀ a, (f a).engines = a.engines) : Steady c s (s.modArch d f) := by
  refine ⟨?_, id⟩
  by_cases h : c = d
  · subst h; rw [core_modArch_self]; exact congrArg (fun e => ((s.core c).bound, (s.core c).run, e)) (hf _)
  · rw [core_modArch_of_ne s f h]

theorem foldl {α : Type} {f : State → α → State} (hf : ∀ s x, Steady c s (f s x)) (l : List α) (s : State) : Steady c s (l.foldl f s) := by
  induction l generalizing s with
  | nil => exact refl s
  | cons x l ih => exact (hf s x).trans (ih _)

/-- The same for steps that are steady on a core without a context. -/
theorem foldl_unbound {α : Type} {f : State → α → State} (hf : ∀ s x, (s.core c).bound = false → Steady c s (f s x)) (l : List α) (s : State)
    (hb : (s.core c).bound = false) : Steady c s (l.foldl f s) := by
  induction l generalizing s with
  | nil => exact refl s
  | cons x l ih => exact (hf s x hb).trans (ih _ ((hf s x hb).bound.trans hb))

theorem modClu (s : State) (k : Nat) (f : Cluster → Cluster) : Steady c s (s.modClu k f) := of_cores rfl rfl
theorem modPage (s : State) (n : Nat) (f : Page → Page) : Steady c s (s.modPage n f) := of_cores rfl rfl
theorem modDram (s : State) (f : Dram → Dram) : Steady c s (s.modDram f) := of_cores rfl rfl
theorem modMdl (s : State) (f : ModelS → ModelS) : Steady c s (s.modMdl f) := of_cores rfl rfl
theorem modSched (s : State) (f : Sched → Sched) : Steady c s (s.modSched f) := of_cores rfl rfl
theorem modCtx (s : State) (x : Nat) (f : Ctx → Ctx) : Steady c s (s.modCtx x f) := of_cores rfl rfl

theorem setEvt (s : State) (b : Blk) (n : Nat) : Steady c s (s.setEvt b n) :=
  have h := setEvt_frame s b n
  of_cores (congrArg (·.cores) h) (congrArg (·.fch) h)

theorem fbRecord (s : State) (code : Nat) (p : Bytes) : Steady c s (s.fbRecord code p) := sameWork (.fbRecord s code p)

theorem raise (s : State) (b : Blk) (n code : Nat) (p : Bytes) : Steady c s (s.raise b n code p) :=
  (setEvt s b n).trans ((modPage _ _ _).trans (fbRecord _ _ _))

/-! ### Reads and writes of the DRAM -/

theorem dramReadAux (n : Nat) (s : State) (g off len : Nat) : Steady c s (State.dramReadAux n s g off len).1 := by
  induction n generalizing s off len with
  | zero => exact refl s
  | succ n ih =>
    rw [State.dramReadAux]
    split
    · exact refl s
    · have hline : Steady c s (s.getLine g (off / 64)).1 := sameWork (.getLine s g _)
      dsimp only
      split
      · next hg => rw [hg] at hline; exact hline
      · next t bs hg =>
        rw [hg] at hline
        have hrest := ih t (off + min len (64 - off % 64)) (len - min len (64 - off % 64))
        split <;> next hr => rw [hr] at hrest; exact hline.trans hrest

theorem dramRead (s : State) (g off len : Nat) : Steady c s (s.dramRead g off len).1 := dramReadAux _ s g off len

theorem dramWriteAux (n : Nat) (s : State) (g off : Nat) (bs : Bytes) : Steady c s (State.dramWriteAux n s g off bs).1 := by
  induction n generalizing s off bs with
  | zero => exact refl s
  | succ n ih =>
    rw [State.dramWriteAux]
    split
    · exact refl s
    · have hput (t : State) (l : Nat) (b : Bytes) : Steady c t (t.putLine g l b) := sameWork (.putLine t g l b)
      have hline : Steady c s (s.getLine g (off / 64)).1 := sameWork (.getLine s g _)
      dsimp only
      refine Steady.trans ?_ (ih _ _ _)
      split
      · exact refl s
      split
      · exact hput s _ _
      · split
        · next hg => rw [hg] at hline; exact hline
        · next hg => rw [hg] at hline; exact hline.trans (hput _ _ _)

theorem dramWrite (s : State) (g off : Nat) (bs : Bytes) : Steady c s (s.dramWrite g off bs).1 := dramWriteAux _ s g off bs

/-! ### A lost line of a context, a model run or KV (10 R415; 09 R383, R384) -/

theorem releaseClus (s : State) (x : Nat) (cs : List Nat) : Steady c s (s.releaseClus x cs) := foldl (fun t _ => modClu t _ _) _ s

theorem allotAll {s t : State} {x : Nat} {cx : Ctx} {ks : List Nat} (h : s.allotAll x cx ks = some t) : Steady c s t := by
  induction ks generalizing s with
  | nil => cases h; exact refl _
  | cons k ks ih =>
    rw [State.allotAll] at h
    split at h
    · cases h
    · exact (of_cores rfl rfl : Steady c s (State.setClu s k _)).trans (ih h)

theorem allotAll_getD (s : State) (x : Nat) (cx : Ctx) (ks : List Nat) : Steady c s ((s.allotAll x cx ks).getD s) := by
  cases h : s.allotAll x cx ks with
  | none => exact refl s
  | some t => exact allotAll h

/-- What the scheduler does to the cores of a context does not reach a core without one. -/
theorem modBound {s : State} (x d : Nat) (f : Core → Core) (hb : (s.core c).bound = false) :
    Steady c s (if (s.core d).bound && (s.core d).ctx.toNat == x then s.modCore d f else s) := by
  split
  · next h =>
    have hne : c ≠ d := fun e => by rw [← e, hb] at h; cases h
    exact ⟨by rw [core_modCore_of_ne s f hne], id⟩
  · exact refl s

theorem rerunCtx {s : State} (x : Nat) (cx : Ctx) (cause : Nat) (hb : (s.core c).bound = false) : Steady c s (s.rerunCtx x cx cause) := by
  unfold State.rerunCtx
  exact (foldl_unbound (fun s d => modBound x d _) _ s hb).trans <| (releaseClus _ _ _).trans <| (allotAll_getD _ _ _ _).trans <|
    (modCtx _ _ _).trans <| (modSched _ _).trans <| raise _ _ _ _ _

theorem ctxAgain {s : State} (x : Nat) (cx : Ctx) (hb : (s.core c).bound = false) : Steady c s (s.ctxAgain x cx) := by
  unfold State.ctxAgain
  exact (foldl_unbound (fun s d => modBound x d _) _ s hb).trans <| (releaseClus _ _ _).trans <| (allotAll_getD _ _ _ _).trans <|
    (modSched _ _).trans <| modCtx _ _ _

theorem unpinRun (s : State) (r : Nat) : Steady c s (s.unpinRun r) := by
  unfold State.unpinRun
  split
  · exact refl s
  · exact modDram _ _

theorem stepUndo (s : State) (e : Nat) : Steady c s (s.stepUndo e) := by
  unfold State.stepUndo State.stepDrop State.travDrop
  exact (modDram _ _).trans <| (modMdl _ _).trans <| (modMdl _ _).trans <| (foldl unpinRun _ _).trans <| modMdl _ _

theorem entryAgain {s : State} (e : Nat) (hb : (s.core c).bound = false) : Steady c s (s.entryAgain e) := by
  have hundo := stepUndo (c := c) s e
  unfold State.entryAgain
  dsimp only
  split
  · exact hundo
  split
  · exact hundo
  · exact hundo.trans (ctxAgain _ _ (hundo.bound.trans hb))

theorem ctxLost {s : State} (x : Nat) (hb : (s.core c).bound = false) : Steady c s (s.ctxLost x) := by
  unfold State.ctxLost
  split
  · exact refl s
  split
  · exact rerunCtx x _ _ hb
  · exact entryAgain _ hb
  · exact ctxAgain x _ hb

theorem runLost {s : State} (a : Alloc) (r : Nat) (hb : (s.core c).bound = false) : Steady c s (s.runLost a r) := by
  unfold State.runLost State.dropAlloc
  exact (modDram _ _).trans (foldl_unbound (fun s e => entryAgain e) _ _ hb)

theorem keptDrop (s : State) (h : Nat) : Steady c s (s.keptDrop h) := by
  unfold State.keptDrop
  split
  · exact refl s
  · exact (modDram _ _).trans (modMdl _ _)

theorem kvLost {s : State} (q : Nat) (hb : (s.core c).bound = false) : Steady c s (s.kvLost q) := by
  unfold State.kvLost
  split
  · dsimp only
    split
    · exact (modMdl _ _).trans (entryAgain _ hb)
    · exact modMdl _ _
  · split
    · exact refl s
    · exact keptDrop _ _

theorem ueArea {s : State} (g off : Nat) (hb : (s.core c).bound = false) : Steady c s (s.ueArea g off) := by
  unfold State.ueArea
  split
  · exact refl s
  split
  · exact ctxLost _ hb
  · exact ctxLost _ hb
  · exact runLost _ _ hb
  · exact kvLost _ hb
  · exact refl s

/-! ### Tile moves -/

theorem poolBytes (s : State) (d g o : Nat) (bs : Bytes) : Steady c s (s.poolBytes d g o bs).1 := by
  unfold State.poolBytes
  split
  · exact refl s
  split
  · dsimp only
    split
    · exact refl s
    · exact free s _
  · exact refl s

theorem touchCore (s : State) (d o len : Nat) : Steady c s (s.touchCore d o len) := onlyMem (.touchCore s d o len)
theorem touchClu (s : State) (k o len : Nat) : Steady c s (s.touchClu k o len) := onlyMem (.touchClu s k o len)
theorem touchLocal (s : State) (d a len : Nat) : Steady c s (s.touchLocal d a len) := onlyMem (.touchLocal s d a len)

theorem readPieces (d : Nat) (ps : Pieces) (s : State) : Steady c s (State.readPieces d s ps).1 := by
  induction ps generalizing s with
  | nil => exact refl s
  | cons e ps ih =>
    obtain ⟨p, len⟩ := e
    unfold State.readPieces
    extract_lets here
    have hhere : Steady c s here.1 := by
      unfold here
      split
      · next n o => exact touchCore s n o len
      · next m o => dsimp only; exact touchClu s m o len
      · next g o =>
        have hread := dramRead (c := c) s g o len
        split
        · next hr => rw [hr] at hread; exact hread.trans (poolBytes _ _ _ _ _)
        · next hr => rw [hr] at hread; exact hread
      · exact refl s
    clear_value here
    obtain ⟨t, acc, bs⟩ := here
    cases acc with
    | ok =>
      have hrest := ih t
      dsimp only at hhere ⊢
      split
      · next hr => rw [hr] at hrest; exact hhere.trans hrest
      · exact hhere.trans hrest
    | bad => exact hhere
    | ue g o => exact hhere

theorem writePieces (ps : Pieces) (bs : Bytes) (s : State) : Steady c s (s.writePieces ps bs).1 := by
  induction ps generalizing s bs with
  | nil => exact refl s
  | cons e ps ih =>
    obtain ⟨p, len⟩ := e
    unfold State.writePieces
    extract_lets b here
    have hhere : Steady c s here.1 := by
      unfold here
      split
      · next n o =>
        exact ((onlyMem (.strayAt s n o b.length)).trans (onlyMem (.modSpm _ n fun m => wrBytes m o b))).trans (touchCore _ n o b.length)
      · next m o => dsimp only; exact (modClu s m fun k => { k with spm := wrBytes k.spm o b }).trans (touchClu _ m o b.length)
      · next g o =>
        have hwrite := dramWrite (c := c) s g o b
        split <;> next hr => rw [hr] at hwrite; exact hwrite
      · exact refl s
    clear_value here
    obtain ⟨t, acc⟩ := here
    cases acc with
    | ok => exact hhere.trans (ih _ _)
    | bad => exact hhere
    | ue g o => exact hhere

theorem tileRowFill (s0 s : State) (p q : Pieces) (len : Nat) (bs : Bytes) : Steady c s (State.tileRowFill s0 s p q len bs).1 := by
  unfold State.tileRowFill
  dsimp only
  split
  · exact refl s
  · exact free s _

theorem moveRows (s0 : State) (d len : Nat) (o : EngOp) (rows : List (Nat × Nat)) {s : State} (hb : (s.core c).bound = false) :
    Steady c s (State.moveRows s0 d len o s rows).1 := by
  induction rows generalizing s with
  | nil => exact refl s
  | cons r rows ih =>
    obtain ⟨a, b⟩ := r
    rw [State.moveRows]
    split
    · exact refl s
    split
    · exact refl s
    · exact refl s
    · next q p _ _ =>
      have hread := readPieces (c := c) d p s
      split
      · next t bs hr =>
        rw [hr] at hread
        have hfill := hread.trans (tileRowFill s0 t p q len bs)
        have hwrite := hfill.trans (writePieces q (State.tileRowFill s0 t p q len bs).2 _)
        dsimp only
        split
        · next hw => rw [hw] at hwrite; exact hwrite
        · next u g x hw =>
          rw [hw] at hwrite
          have hue : Steady c s (u.ueArea g x) := hwrite.trans (ueArea g x (hwrite.bound.trans hb))
          exact hue.trans (ih (hue.bound.trans hb))
        · next hw => rw [hw] at hwrite; exact hwrite.trans (ih (hwrite.bound.trans hb))
      · next t g x _ hr =>
        rw [hr] at hread
        have hue : Steady c s (t.ueArea g x) := hread.trans (ueArea g x (hread.bound.trans hb))
        exact hue.trans (ih (hue.bound.trans hb))
      · next hr => rw [hr] at hread; exact hread

theorem tmeWrite (s : State) (d a : Nat) (bs : Bytes) : Steady c s (s.tmeWrite d a bs).1 := by
  unfold State.tmeWrite
  split
  · exact refl s
  · exact writePieces _ _ s

theorem tileRowFills (d : Nat) (o : EngOp) (bs : Bytes) (rows : List Nat) {s : State} (hb : (s.core c).bound = false) :
    Steady c s (State.tileRowFills d o bs s rows).1 := by
  induction rows generalizing s with
  | nil => exact refl s
  | cons b rows ih =>
    rw [State.tileRowFills]
    have hwrite := tmeWrite (c := c) s d b bs
    split
    · exact refl s
    split
    · next hw => rw [hw] at hwrite; exact hwrite
    · next u g x hw =>
      rw [hw] at hwrite
      have hue : Steady c s (u.ueArea g x) := hwrite.trans (ueArea g x (hwrite.bound.trans hb))
      exact hue.trans (ih (hue.bound.trans hb))
    · next hw => rw [hw] at hwrite; exact hwrite.trans (ih (hwrite.bound.trans hb))

theorem tmeRun {s : State} (d : Nat) (o : EngOp) (hb : (s.core c).bound = false) : Steady c s (s.tmeRun d o).1 := by
  have htouch := touchLocal (c := c) s d o.x.toNat (4 * o.n)
  unfold State.tmeRun
  dsimp only
  split
  · exact moveRows _ _ _ _ _ hb
  · exact htouch.trans (moveRows _ _ _ _ _ (htouch.bound.trans hb))
  · exact htouch.trans (moveRows _ _ _ _ _ (htouch.bound.trans hb))
  · exact tileRowFills _ _ _ _ hb
  · split
    · exact refl s
    · exact (modArch s d (f := fun a => a.wrT _ _) fun _ => rfl).trans (touchLocal _ _ _ _)
  · split
    · exact refl s
    · next hw => exact (onlyMem (.wrLocal hw)).trans (touchLocal _ _ _ _)
  · exact refl s

/-! ### The quantisation unit -/

theorem countErr (s : State) (b : Blk) : Steady c s (s.countErr b) := of_cores rfl rfl

end Steady

section
variable (a : Arch) (slot : Nat)

theorem slotSet_engines (off n v : Nat) : (a.slotSet slot off n v).engines = a.engines := rfl
theorem qfin_engines (l : List Nat) : ({ a with qfin := l } : Arch).engines = a.engines := rfl
theorem pass_engines (n : Nat) : ({ a with pass := n } : Arch).engines = a.engines := rfl

theorem mergeStat_engines (st : QStat) (mse : List Nat) (seed : Nat) : (a.mergeStat slot st mse seed).engines = a.engines := by
  unfold Arch.mergeStat
  cases st.hi <;> cases st.lo <;> simp only [apply_ite Arch.engines, slotSet_engines, qfin_engines, ite_self]

theorem foldl_slotSet_engines (l : List (Nat × Nat)) : (l.foldl (fun y e => y.slotSet slot e.1 e.2 0) a).engines = a.engines := by
  induction l generalizing a with
  | nil => rfl
  | cons e l ih => exact (ih _).trans (slotSet_engines ..)

theorem slotClose_engines (hw : Bool) : (a.slotClose slot hw).engines = a.engines := by
  simp only [Arch.slotClose, slotSet_engines, qfin_engines, foldl_slotSet_engines, apply_ite Arch.engines, ite_self]

theorem setBank_engines (kind : AccKind) (g : Nat → Nat → Nat) : (a.setBank slot kind g).engines = a.engines := by
  simp only [Arch.setBank, Arch.engines]

end

namespace Steady

variable {c : Nat}

theorem qntEvent (s : State) (d slot kind : Nat) : Steady c s (s.qntEvent d slot kind) := by
  unfold State.qntEvent
  extract_lets k round x t
  have ht : Steady c s t := by
    refine .trans (modCore s d ?_) (.trans (setEvt _ _ _) (countErr _ _))
    exact fun _ => rfl
  split
  · exact ht
  · refine ht.trans (.trans (modArch t d ?_) (fbRecord _ _ _))
    exact fun _ => rfl

theorem quantSettle (s : State) (d slot : Nat) (cfg : SlotCfg) (q : QRun) (xs : List Nat) : Steady c s (s.quantSettle d slot cfg q xs) := by
  unfold State.quantSettle
  extract_lets mse seed t u v w
  have hu : Steady c s u := by
    refine (free s _).trans (modArch t d fun a => ?_)
    simp only [apply_ite Arch.engines, slotSet_engines, mergeStat_engines, ite_self]
  have hv : Steady c s v := by
    unfold v
    split
    · refine hu.trans (.trans (modCore u d ?_) (qntEvent _ _ _ _))
      exact fun _ => rfl
    · exact hu
  clear_value v
  have hw : Steady c s w := by
    unfold w
    split
    · exact hv.trans (qntEvent _ _ _ _)
    · exact hv
  clear_value w
  split
  · exact hw.trans (qntEvent _ _ _ _)
  · exact hw

/-- A row is written where it may be, and a list there is touched. -/
theorem wrRow (s : State) (d a : Nat) (bs : Bytes) : Steady c s (((s.wrLocal d a bs).getD s).touchLocal d a bs.length) :=
  (onlyMem (.wrLocal_getD s d a bs)).trans (touchLocal _ _ _ _)

theorem epiWrite (s : State) (d slot : Nat) (on : Bool) (v : Bytes) : Steady c s (s.epiWrite d slot on v) := by
  unfold State.epiWrite
  dsimp only
  split
  · exact (wrRow s d _ v).trans (modArch _ d fun _ => rfl)
  · exact refl s

theorem touchAll (s : State) (d : Nat) (rows : List (Nat × Nat)) : Steady c s (s.touchAll d rows) := onlyMem (.touchAll s d rows)
theorem wrStream (s : State) (d : Nat) (rows : List (Nat × Nat)) (bs : Bytes) : Steady c s (State.wrStream d s rows bs) := onlyMem (.wrStream d rows bs s)

theorem quantStream (s : State) (d : Nat) (o : EngOp) : Steady c s (s.quantStream d o).1 := by
  unfold State.quantStream
  extract_lets ta tb slot sumax a cfg0 cfg mx perRow rows zp q s1 epi s2 s3 s4
  have h1 : Steady c s s1 := free s _
  have h2 : Steady c s s2 := h1.trans (free s1 _)
  have h3 : Steady c s s3 := h2.trans ((touchAll s2 _ _).trans (foldl (fun t _ => wrRow t _ _ _) _ _))
  have h4 : Steady c s s4 := h3.trans (foldl (fun t _ => wrRow t _ _ _) _ _)
  clear_value s1 s2 s3 s4
  split
  · exact h1
  · exact h4.trans ((epiWrite _ _ _ _ _).trans (quantSettle _ _ _ _ _ _))

/-! ### The vector engine -/

/-- A scan: it reads its entries and its table, and writes its results. -/
theorem scan (s : State) (d b n : Nat) (table : Bool) (src dst : List (Nat × Nat)) (out : Bytes) :
    Steady c s (State.wrStream d (if table then (s.touchAll d src).touchCore d b n else s.touchAll d src) dst out) := by
  have h : Steady c s (if table then (s.touchAll d src).touchCore d b n else s.touchAll d src) := by
    split
    · exact (touchAll s _ _).trans (touchCore _ _ _ _)
    · exact touchAll s _ _
  exact h.trans (wrStream _ _ _ _)

theorem vxeRun (s : State) (d : Nat) (o : EngOp) : Steady c s (s.vxeRun d o).1 := by
  unfold State.vxeRun
  dsimp only
  split
  · dsimp only; exact scan s d _ _ _ _ _ _
  · dsimp only; exact scan s d _ _ _ _ _ _
  · exact quantStream s d o
  · refine .trans (modArch s d ?_) (touchLocal _ _ _ _)
    exact fun _ => rfl
  · exact (onlyMem (.wrLocal_getD s d _ _)).trans (touchLocal _ _ _ _)
  · dsimp only; exact modArch s d fun a => slotClose_engines a o.a (s.qntHw d)
  · exact refl s

/-! ### The matrix engine -/

theorem mop (s : State) (d : Nat) (o : EngOp) (fam : Fam) : Steady c s (s.mop d o fam) := by
  unfold State.mop
  dsimp only
  exact ((touchAll s _ _).trans (touchAll _ _ _)).trans (modArch _ d fun a => (pass_engines _ _).trans (setBank_engines a _ _ _))

theorem msld (s : State) (d : Nat) (o : EngOp) (fam : Fam) : Steady c s (s.msld d o fam) := by
  unfold State.msld
  dsimp only
  exact (touchAll s _ _).trans (modArch _ d fun _ => rfl)

theorem mws (s : State) (d : Nat) (o : EngOp) (fam : Fam) : Steady c s (s.mws d o fam) := by
  unfold State.mws
  dsimp only
  refine (touchAll s _ _).trans (modArch _ d fun a => ?_)
  refine (pass_engines _ _).trans ((setBank_engines _ _ _ _).trans ?_)
  split <;> rfl

theorem mrdWrite (s : State) (d : Nat) (tc : Desc) (rows : List Bytes) : Steady c s (s.mrdWrite d tc rows) := by
  unfold State.mrdWrite
  exact foldl (fun t _ => wrRow t _ _ _) _ s

/-- A bank is made empty, or left. -/
theorem cleared (s : State) (d bank : Nat) (on : Bool) : Steady c s (if on then s.modArch d fun b => b.clearBank bank else s) := by
  split
  · exact modArch s d fun a => setBank_engines a _ _ _
  · exact refl s

theorem mrd (s : State) (d : Nat) (o : EngOp) : Steady c s (s.mrd d o).1 := by
  unfold State.mrd
  dsimp only
  split
  · exact (touchAll s _ _).trans ((mrdWrite _ _ _ _).trans (cleared _ _ _ _))
  split
  · exact (touchAll s _ _).trans ((mrdWrite _ _ _ _).trans (cleared _ _ _ _))
  split
  · exact (touchAll s _ _).trans (free _ _)
  · exact (touchAll s _ _).trans <| (free _ _).trans <| (free _ _).trans <| (mrdWrite _ _ _ _).trans <| (epiWrite _ _ _ _ _).trans <|
      (quantSettle _ _ _ _ _ _).trans (cleared _ _ _ _)

theorem mxeRun (s : State) (d : Nat) (o : EngOp) : Steady c s (s.mxeRun d o).1 := by
  unfold State.mxeRun
  split
  · exact mrd s d o
  · exact modArch s d fun a => setBank_engines a _ _ _
  · split
    · exact refl s
    · split
      · exact mop s d o _
      · exact msld s d o _
      · exact mws s d o _
      · exact refl s

/-! ### The select engine -/

theorem stirBuffer (s : State) (d : Nat) : Steady c s (s.stirBuffer d) := onlyMem (.stirBuffer s d)

theorem admitted (s : State) (l : SleList) (n most : Nat) : Steady c s (s.admitted l n most).2 := by
  unfold State.admitted
  split
  · exact free s _
  · exact refl s

theorem sleCount (s : State) (d admitted dups : Nat) : Steady c s (s.sleCount d admitted dups) := modCore s d fun _ => rfl

/-- A list takes in what it is offered: the list, its counts, and its buffer. -/
theorem sleTakes (s : State) (d adm dups : Nat) (m : SleList) :
    Steady c s (((s.modArch d fun a => { a with sle := m }).sleCount d adm dups).stirBuffer d) := by
  refine .trans (modArch s d ?_) ((sleCount _ _ _ _).trans (stirBuffer _ _))
  exact fun _ => rfl

theorem sleRun (s : State) (d : Nat) (o : EngOp) : Steady c s (s.sleRun d o) := by
  unfold State.sleRun
  dsimp only
  split
  · refine (touchLocal s d _ _).trans (.trans (modArch _ d ?_) (stirBuffer _ _))
    exact fun _ => rfl
  · refine Steady.trans ?_ ((admitted _ _ _ _).trans (sleTakes _ _ _ _ _))
    split
    · exact (touchAll s _ _).trans (touchAll _ _ _)
    · exact touchAll s _ _
  · exact (touchAll s _ _).trans (onlyMem (.putRecord _ _ _ _))
  · exact (touchAll s _ _).trans <| (free _ _).trans <| (admitted _ _ _ _).trans (sleTakes _ _ _ _ _)
  · have ht : Steady c s (s.putRecord d (s.core d).arch.sle ((descOf o.tb).dstRows (descOf o.tb).rows)) := onlyMem (.putRecord _ _ _ _)
    split
    · exact ht.trans (modCore _ d fun _ => rfl)
    · exact ht
  · exact refl s

end Steady

end Sys2Proof.Machine

/-! PROOF. The end of an engine operation (02 R51, R52, R101, R714; 03 R109, R141; 04 R164). -/

namespace Sys2Proof.Machine

open Sys2Proof.Claims

/-! ### A core without a context -/

theorem run_ne_faulted_of_engineRuns {s : State} {c : Nat} (h : s.engineRuns c = true) : (s.core c).run ≠ .faulted := by
  intro hf
  simp [State.engineRuns, hf] at h

/-- A core that runs, without a context and without a filter invocation. -/
def RunsBare (s : State) (c : Nat) : Prop := (s.core c).run ≠ .faulted ∧ bare s c

theorem Steady.runsBare {s t : State} {c : Nat} (h : Steady c s t) (hs : RunsBare s c) : RunsBare t c := by
  obtain ⟨hr, hb, hi⟩ := hs
  exact ⟨by rw [h.run]; exact hr, h.bound.trans hb, h.inv hi⟩

/-- The image of a core whose engines have abandoned their operations (02 R102). -/
def Arch.abandoned (a : Arch) : Arch := { a with mxe := [], vxe := none, sleOp := none, tme := none, stall := none }

theorem core_coreFault_of_bare {s : State} {c : Nat} (h : RunsBare s c) (code : Nat) (precise : Bool) (src pc addr : Nat) :
    ((s.coreFault c code precise src pc addr).core c).run = .faulted ∧
      ((s.coreFault c code precise src pc addr).core c).arch = (s.core c).arch.abandoned := by
  obtain ⟨hr, hb, hi⟩ := h
  rw [coreFault_of_bare code precise src pc addr hr hb hi, State.faultRecord, fbRecord_core, core_modCore_self]
  exact ⟨rfl, rfl⟩

/-- An operation has left its engine, and has added 1 to its token or ended in a fault of the core. -/
def EndsIn (s t : State) (c : Nat) (tk : Option Nat) (left : Arch → Prop) : Prop := left (t.core c).arch ∧ ((t.core c).run = .faulted ∨ posts s t c tk)

section
variable {s t : State} {c : Nat} {left : Arch → Prop}

theorem endsIn_fault (h : RunsBare t c) (hleft : left (t.core c).arch.abandoned) (tk : Option Nat) (code : Nat) (precise : Bool) (src pc addr : Nat) :
    EndsIn s (t.coreFault c code precise src pc addr) c tk left := by
  obtain ⟨hr, ha⟩ := core_coreFault_of_bare h code precise src pc addr
  exact ⟨by rw [ha]; exact hleft, .inl hr⟩

/-- The post of a token that does not overflow changes the tokens of the core alone. -/
theorem ownPost_posts {tk : Option Nat} (h : ∀ k, tk = some k → (t.core c).arch.rdK k < 65535) (src pc : Nat) :
    ∃ ks, ((t.ownPost c tk src pc).core c).arch = { (t.core c).arch with k := ks } ∧ posts t (t.ownPost c tk src pc) c tk := by
  cases tk with
  | none => exact ⟨(t.core c).arch.k, by rw [State.ownPost, refreshOn_core], trivial⟩
  | some k =>
    have hroom : (t.core c).arch.rdK k + 1 ≤ 65535 := h k rfl
    have hcore : ((t.ownPost c (some k) src pc).core c).arch =
        { (t.core c).arch with k := mset 0 (t.core c).arch.k k (BitVec.ofNat 16 ((t.core c).arch.rdK k + 1)) } := by
      rw [State.ownPost, postLive_of_some src pc (post_some hroom), refreshOn_core, core_modCore_self]
    exact ⟨_, hcore, by simp only [posts, hcore, rdK_posted hroom]⟩

theorem posts_congr {u : State} {tk : Option Nat} (h : (t.core c).arch.k = (s.core c).arch.k) (hp : posts t u c tk) : posts s u c tk := by
  cases tk with
  | none => trivial
  | some k =>
    simp only [posts, Arch.rdK, h] at hp ⊢
    exact hp

theorem endsIn_ownPost (h : RunsBare t c) (hk : (t.core c).arch.k = (s.core c).arch.k) (hpost : ∀ ks, left { (t.core c).arch with k := ks })
    (hfault : left (t.core c).arch.abandoned) (tk : Option Nat) (src pc : Nat) : EndsIn s (t.ownPost c tk src pc) c tk left := by
  by_cases hroom : ∀ k, tk = some k → (t.core c).arch.rdK k < 65535
  · obtain ⟨ks, ha, hp⟩ := ownPost_posts hroom src pc
    exact ⟨by rw [ha]; exact hpost ks, .inr (posts_congr hk hp)⟩
  · push Not at hroom
    obtain ⟨k, rfl, hfull⟩ := hroom
    rw [State.ownPost, postLive_of_none src pc (post_none (by omega))]
    exact endsIn_fault h hfault _ _ _ _ _ _

end

/-! ### The four engines on such a core -/

section
variable {s : State} {c : Nat} {o : EngOp} (hc : c < 768) (hr : s.engineRuns c = true)
include hc hr

theorem exec_tmeComplete (h : (s.core c).arch.tme = some o) : exec (.tmeOperationComplete c) s = next (s.tmeComplete c o) := by
  simp only [exec, execTmeOperationComplete, guardUnit_pos (coreOk_of_lt hc), h, hr, if_true]

theorem exec_vxeComplete (h : (s.core c).arch.vxe = some o) : exec (.vxeStreamComplete c) s = next (s.vxeComplete c o) := by
  simp only [exec, execVxeStreamComplete, guardUnit_pos (coreOk_of_lt hc), h, hr, if_true]

theorem exec_mxeComplete {r : List EngOp} (h : (s.core c).arch.mxe = o :: r) : exec (.mxeOperationComplete c) s = next (s.mxeComplete c o) := by
  simp only [exec, execMxeOperationComplete, guardUnit_pos (coreOk_of_lt hc), h, hr, if_true]

theorem exec_sleComplete (h : (s.core c).arch.sleOp = some o) (ho : o.op ≠ .scmrg) : exec (.sleOperationComplete c) s =
    next (((s.sleRun c o).modArch c fun a => { a with sleOp := none }).ownPost c o.tk 3 o.pc) := by
  have hb : (o.op == .scmrg) = false := beq_eq_false_iff_ne.mpr ho
  simp only [exec, execSleOperationComplete, guardUnit_pos (coreOk_of_lt hc), h, hr, hb, Bool.not_true, Bool.or_self, Bool.false_eq_true, if_false]

end

/-- What is left of a steady core when one of its engines has let its operation go. -/
theorem RunsBare.modArch {t : State} {c : Nat} (h : RunsBare t c) (f : Arch → Arch) : RunsBare (t.modArch c f) c := by
  obtain ⟨hr, hb, hi⟩ := h
  exact ⟨by rw [core_modArch_self]; exact hr, by rw [core_modArch_self]; exact hb, hi⟩

section
variable {s t : State} {c : Nat} {o : EngOp}

/-- An operation that has run leaves its engine and posts: `leave` takes it out of the engine, which a fault empties too. -/
theorem endsIn_leave {left : Arch → Prop} {leave : Arch → Arch} (hs : RunsBare s c) (ht : Steady c s t)
    (hk : (leave (t.core c).arch).k = (t.core c).arch.k) (hpost : ∀ ks, left { leave (t.core c).arch with k := ks })
    (hfault : left (leave (t.core c).arch).abandoned) (src : Nat) : EndsIn s ((t.modArch c leave).ownPost c o.tk src o.pc) c o.tk left := by
  have hkept : (t.core c).arch.k = (s.core c).arch.k := congrArg (·.1) ht.engines
  have hcore : ((t.modArch c leave).core c).arch = leave (t.core c).arch := by rw [core_modArch_self]
  refine endsIn_ownPost ((ht.runsBare hs).modArch leave) ?_ ?_ ?_ _ _ _
  · rw [hcore, hk, hkept]
  · rw [hcore]; exact hpost
  · rw [hcore]; exact hfault

variable (hs : RunsBare s c)
include hs

theorem tmeComplete_ends (h : (s.core c).arch.tme = some o) : EndsIn s (s.tmeComplete c o) c o.tk fun a => a.tme = none := by
  have ht := Steady.tmeRun c o hs.2.1
  unfold State.tmeComplete
  split
  · next t a hrun =>
    replace ht : Steady c s t := by rwa [hrun] at ht
    refine endsIn_fault (ht.runsBare hs) ?_ _ _ _ _ _ _
    rfl
  · next t hrun =>
    replace ht : Steady c s t := by rwa [hrun] at ht
    have htme : (t.core c).arch.tme = some o := (congrArg (·.2.1) ht.engines).trans h
    rw [if_pos (by rw [htme]; exact beq_self_eq_true _)]
    refine endsIn_leave hs ht ?_ ?_ ?_ 4
    · rfl
    · exact fun _ => rfl
    · rfl

theorem vxeComplete_ends (h : (s.core c).arch.vxe = some o) : EndsIn s (s.vxeComplete c o) c o.tk fun a => a.vxe = none := by
  have ht := Steady.vxeRun (c := c) s c o
  unfold State.vxeComplete
  split
  · next t a hrun =>
    replace ht : Steady c s t := by rwa [hrun] at ht
    refine endsIn_fault (ht.runsBare hs) ?_ _ _ _ _ _ _
    rfl
  · next t hrun =>
    replace ht : Steady c s t := by rwa [hrun] at ht
    have hvxe : (t.core c).arch.vxe = some o := (congrArg (·.2.2.1) ht.engines).trans h
    rw [if_pos (by rw [hvxe]; exact beq_self_eq_true _)]
    refine endsIn_leave hs ht ?_ ?_ ?_ 2
    · rfl
    · exact fun _ => rfl
    · rfl

theorem mxeComplete_ends {r : List EngOp} (h : (s.core c).arch.mxe = o :: r) :
    EndsIn s (s.mxeComplete c o) c o.tk fun a => a.mxe = r ∨ a.mxe = [] := by
  have ht := Steady.mxeRun (c := c) s c o
  unfold State.mxeComplete
  split
  · next t a hrun =>
    replace ht : Steady c s t := by rwa [hrun] at ht
    refine endsIn_fault (ht.runsBare hs) ?_ _ _ _ _ _ _
    exact .inr rfl
  · next t hrun =>
    replace ht : Steady c s t := by rwa [hrun] at ht
    have hmxe : (t.core c).arch.mxe = o :: r := (congrArg (·.2.2.2.2) ht.engines).trans h
    rw [if_pos (by rw [hmxe]; exact beq_self_eq_true _)]
    refine endsIn_leave hs ht ?_ ?_ ?_ 1
    · rfl
    · exact fun _ => .inl (by rw [hmxe]; rfl)
    · exact .inr rfl

theorem sleComplete_ends : EndsIn s (((s.sleRun c o).modArch c fun a => { a with sleOp := none }).ownPost c o.tk 3 o.pc) c o.tk fun a => a.sleOp = none := by
  refine endsIn_leave hs (Steady.sleRun s c o) ?_ ?_ ?_ 3
  · rfl
  · exact fun _ => rfl
  · rfl

end

/-! ### Operations on the core's own state -/

/-- An operation that has run leaves its engine, and its token counts one more; of the core's image nothing else changes. -/
theorem leaves_and_posts {s t : State} {c : Nat} {o : EngOp} {leave : Arch → Arch} (hroom : ∀ k, o.tk = some k → (s.core c).arch.rdK k < 65535)
    (ht : Steady c s t) (hk : ∀ a, (leave a).k = a.k) (src : Nat) :
    ∃ ks, (((t.modArch c leave).ownPost c o.tk src o.pc).core c).arch = { leave (t.core c).arch with k := ks } ∧
      posts s ((t.modArch c leave).ownPost c o.tk src o.pc) c o.tk := by
  have hkept : ((t.modArch c leave).core c).arch.k = (s.core c).arch.k := by
    rw [core_modArch_self]
    exact (hk _).trans (congrArg (·.1) ht.engines)
  obtain ⟨ks, ha, hp⟩ := ownPost_posts (t := t.modArch c leave) (c := c) (tk := o.tk)
    (fun k hk => by rw [Arch.rdK, hkept]; exact hroom k hk) src o.pc
  exact ⟨ks, by rw [ha, core_modArch_self], posts_congr hkept hp⟩

section
variable {s t : State} {c : Nat} {o : EngOp} (hroom : ∀ k, o.tk = some k → (s.core c).arch.rdK k < 65535) (ht : Steady c s t)
include hroom ht

theorem tmeComplete_posts (h : (s.core c).arch.tme = some o) (hrun : s.tmeRun c o = (t, none)) :
    ∃ ks, ((s.tmeComplete c o).core c).arch = { (t.core c).arch with tme := none, k := ks } ∧ posts s (s.tmeComplete c o) c o.tk := by
  have htme : (t.core c).arch.tme = some o := (congrArg (·.2.1) ht.engines).trans h
  have hdone : s.tmeComplete c o = (t.modArch c fun a => { a with tme := none }).ownPost c o.tk 4 o.pc := by
    simp only [State.tmeComplete, hrun, htme, beq_self_eq_true, if_true]
  rw [hdone]
  exact leaves_and_posts hroom ht (leave := fun a => { a with tme := none }) (fun _ => rfl) 4

theorem vxeComplete_posts (h : (s.core c).arch.vxe = some o) (hrun : s.vxeRun c o = (t, none)) :
    ∃ ks, ((s.vxeComplete c o).core c).arch = { (t.core c).arch with vxe := none, k := ks } ∧ posts s (s.vxeComplete c o) c o.tk := by
  have hvxe : (t.core c).arch.vxe = some o := (congrArg (·.2.2.1) ht.engines).trans h
  have hdone : s.vxeComplete c o = (t.modArch c fun a => { a with vxe := none }).ownPost c o.tk 2 o.pc := by
    simp only [State.vxeComplete, hrun, hvxe, beq_self_eq_true, if_true]
  rw [hdone]
  exact leaves_and_posts hroom ht (leave := fun a => { a with vxe := none }) (fun _ => rfl) 2

theorem mxeComplete_posts {r : List EngOp} (h : (s.core c).arch.mxe = o :: r) (hrun : s.mxeRun c o = (t, none)) :
    ∃ ks, ((s.mxeComplete c o).core c).arch = { (t.core c).arch with mxe := r, k := ks } ∧ posts s (s.mxeComplete c o) c o.tk := by
  have hmxe : (t.core c).arch.mxe = o :: r := (congrArg (·.2.2.2.2) ht.engines).trans h
  have hdone : s.mxeComplete c o = (t.modArch c fun a => { a with mxe := a.mxe.tail }).ownPost c o.tk 1 o.pc := by
    simp only [State.mxeComplete, hrun, hmxe, List.head?_cons, beq_self_eq_true, if_true]
  rw [hdone]
  obtain ⟨ks, ha, hp⟩ := leaves_and_posts hroom ht (leave := fun a => { a with mxe := a.mxe.tail }) (fun _ => rfl) 1
  exact ⟨ks, by rw [ha, hmxe]; rfl, hp⟩

end

/-- Access to local bytes marks lists as touched, and changes nothing else of a core. -/
theorem core_touchLocal (s : State) (c a len d : Nat) : ∃ b, (s.touchLocal c a len).core d = { s.core d with arch := (s.core d).arch.touch b } := by
  unfold State.touchLocal
  split
  · exact core_touchCore s c a len d
  · exact core_touchClu s _ _ len d
  · exact core_touchCore s c _ len d
  · exact core_touchCore s c _ len d
  · exact ⟨(s.core d).arch.sle.touched, rfl⟩

/-! #### TDSET -/

/-- The state in which a TDSET has loaded its descriptor from the scratchpad. -/
def tdLoaded (s : State) (c : Nat) (o : EngOp) : State :=
  (s.modArch c fun a => a.wrT (BitVec.ofNat 4 o.td) (BitVec.ofNat 256 (leNat (rdBytes (s.core c).arch.spm o.x.toNat 32)))).touchLocal c o.x.toNat 32

theorem tmeRun_tdset {s : State} {c : Nat} {o : EngOp} (ho : o.op = .tdset) (hin : inSpm c o.x.toNat 32) : s.tmeRun c o = (tdLoaded s c o, none) := by
  simp only [State.tmeRun, ho, rdLocal_spm hin.2]
  rfl

theorem wrT_engines (a : Arch) (r : BitVec 4) (v : BitVec 256) : (a.wrT r v).engines = a.engines := rfl

theorem tdLoaded_steady (s : State) (c : Nat) (o : EngOp) : Steady c s (tdLoaded s c o) := by
  refine .trans (.modArch s c ?_) (.touchLocal _ _ _ _)
  exact fun a => wrT_engines a _ _

theorem tdLoaded_arch (s : State) (c : Nat) (o : EngOp) : ∃ b, ((tdLoaded s c o).core c).arch =
    ((s.core c).arch.wrT (BitVec.ofNat 4 o.td) (BitVec.ofNat 256 (leNat (rdBytes (s.core c).arch.spm o.x.toNat 32)))).touch b := by
  obtain ⟨b, hb⟩ := core_touchLocal (s.modArch c fun a =>
    a.wrT (BitVec.ofNat 4 o.td) (BitVec.ofNat 256 (leNat (rdBytes (s.core c).arch.spm o.x.toNat 32)))) c o.x.toNat 32 c
  exact ⟨b, by rw [tdLoaded, hb, core_modArch_self]⟩

/-! #### TMOV of a row of the scratchpad -/

section
variable {c a b len : Nat}

theorem rowPieces_spm (h : a + len ≤ spmSize c) : rowPieces a len = [(a, len)] := by
  have hmax := spmSize_le c
  have hlow : a < 0x10000000000 := by omega
  simp only [rowPieces, hlow, if_true, le_refl]

theorem tmePieces_spm (s : State) (h : a + len ≤ spmSize c) (w : Bool) : s.tmePieces c a len w = some [(.coreN c a, len)] := by
  simp only [State.tmePieces, rowPieces_spm h, State.tmePlace, placeOf_spm h, List.map_cons, List.map_nil, List.all_cons, List.all_nil, Option.isSome_some,
    Bool.and_self, if_true, Option.getD_some]

theorem readPieces_spm (s : State) : State.readPieces c s [(.coreN c a, len)] = (s.touchCore c a len, .ok, rdBytes (s.core c).arch.spm a len) := by
  simp only [State.readPieces, List.append_nil]

/-- A row that is its own destination, or lies apart from it, moves as it stands. -/
theorem tileRowFill_apart {s0 t : State} (hspm : (t.core c).arch.spm = (s0.core c).arch.spm) (hapart : a = b ∨ a + len ≤ b ∨ b + len ≤ a) (bs : Bytes) :
    State.tileRowFill s0 t [(.coreN c a, len)] [(.coreN c b, len)] len bs = (t, bs) := by
  have hraw : s0.rawAt [(.coreN c a, len)] = t.rawAt [(.coreN c a, len)] := by
    simp only [State.rawAt, List.flatMap_cons, List.flatMap_nil, hspm]
  have hhit : (List.range len).any (fun i => Pieces.holds [(.coreN c b, len)] (Pieces.byteAt [(.coreN c a, len)] i) i) = false := by
    refine List.any_eq_false.mpr fun i hi => ?_
    have hlt : i < len := List.mem_range.mp hi
    simp only [Pieces.byteAt, Pieces.holds, Place.spot, hlt, if_true, beq_self_eq_true, Bool.true_and, Bool.or_false, Bool.and_eq_true, decide_eq_true_eq,
      bne_iff_ne]
    omega
  simp only [State.tileRowFill, hraw, hhit, decide_true, Bool.not_false, Bool.and_self, if_true]

theorem writePieces_spm (s : State) {bs : Bytes} (h : bs.length = len) : s.writePieces [(.coreN c b, len)] bs =
    (((s.strayAt c b len).modArch c fun y => { y with spm := wrBytes y.spm b bs }).touchCore c b len, .ok) := by
  subst h
  unfold State.writePieces
  simp only [List.take_length]
  rfl

/-- The state in which a row of the scratchpad has moved. -/
def rowMoved (s : State) (c a b len : Nat) : State :=
  ((((s.touchCore c a len).strayAt c b len).modArch c fun y => { y with spm := wrBytes y.spm b (rdBytes (s.core c).arch.spm a len) }).touchCore c b len)

theorem moveRows_spm {s : State} {o : EngOp} (h : (s.core c).arch.tme = some o) (ha : a + len ≤ spmSize c) (hb : b + len ≤ spmSize c)
    (hapart : a = b ∨ a + len ≤ b ∨ b + len ≤ a) : State.moveRows s c len o s [(a, b)] = (rowMoved s c a b len, none) := by
  obtain ⟨m, hm⟩ := core_touchCore s c a len c
  have hspm : ((s.touchCore c a len).core c).arch.spm = (s.core c).arch.spm := by rw [hm]; rfl
  have hheld : ((s.core c).arch.tme != some o) = false := by rw [h]; exact bne_self_eq_false _
  rw [State.moveRows, hheld, if_neg (by decide), tmePieces_spm s ha, tmePieces_spm s hb]
  dsimp only
  rw [readPieces_spm]
  dsimp only
  rw [tileRowFill_apart hspm hapart]
  dsimp only
  rw [writePieces_spm _ (length_rdBytes _ _ _)]
  dsimp only
  rw [State.moveRows]
  rfl

theorem tmeRun_tmov {s : State} {o : EngOp} (h : (s.core c).arch.tme = some o) (ho : o.op = .tmov) (hrows : (descOf o.ta).rows = 1)
    (hsrc : (descOf o.ta).srcRow 0 + (descOf o.ta).rowLen ≤ spmSize c) (hdst : (descOf o.ta).dstRow 0 + (descOf o.ta).rowLen ≤ spmSize c)
    (hapart : (descOf o.ta).srcRow 0 = (descOf o.ta).dstRow 0 ∨ (descOf o.ta).srcRow 0 + (descOf o.ta).rowLen ≤ (descOf o.ta).dstRow 0 ∨
      (descOf o.ta).dstRow 0 + (descOf o.ta).rowLen ≤ (descOf o.ta).srcRow 0) :
    s.tmeRun c o = (rowMoved s c ((descOf o.ta).srcRow 0) ((descOf o.ta).dstRow 0) (descOf o.ta).rowLen, none) := by
  simp only [State.tmeRun, ho, hrows, List.range_one, List.map_cons, List.map_nil]
  exact moveRows_spm h hsrc hdst hapart

theorem rowMoved_onlyMem (s : State) (c a b len : Nat) : OnlyMem s (rowMoved s c a b len) :=
  ((OnlyMem.touchCore s c a len).trans (.strayAt _ c b len)).trans
    ((OnlyMem.modSpm _ c fun m => wrBytes m b (rdBytes (s.core c).arch.spm a len)).trans (.touchCore _ c b len))

theorem spm_rowMoved (s : State) (c a b len : Nat) :
    ((rowMoved s c a b len).core c).arch.spm = wrBytes (s.core c).arch.spm b (rdBytes (s.core c).arch.spm a len) := by
  obtain ⟨m, hm⟩ := core_touchCore s c a len c
  obtain ⟨n, hn⟩ := core_touchCore (((s.touchCore c a len).strayAt c b len).modArch c fun y =>
    { y with spm := wrBytes y.spm b (rdBytes (s.core c).arch.spm a len) }) c b len c
  rw [rowMoved, hn, core_modArch_self, strayAt_core, hm]
  rfl

end

/-- What bytes copied within a scratchpad leave. -/
theorem rdByte_copied (m n : Mem) (a b len q : Nat) : rdByte (wrBytes m b (rdBytes n a len)) q =
    if b ≤ q ∧ q < b + len then rdByte n (a + (q - b)) else rdByte m q := by
  rw [rdByte_wrBytes, length_rdBytes]
  refine ite_congr rfl (fun h => ?_) fun _ => rfl
  exact getD_rdBytes n a len (q - b) (by omega)

/-! #### MCLR -/

/-- The words of a table written from a key on. -/
theorem mget_foldl_mset {w : Nat} (m : NMap (BitVec w)) (k n q : Nat) (v : Nat → BitVec w) :
    mget 0 ((List.range n).foldl (fun m i => mset 0 m (k + i) (v i)) m) q = if k ≤ q ∧ q < k + n then v (q - k) else mget 0 m q := by
  induction n with
  | zero => rw [if_neg (by omega)]; rfl
  | succ n ih =>
    rw [List.range_succ, List.foldl_append, List.foldl_cons, List.foldl_nil, mget_mset, ih]
    by_cases h : q = k + n
    · rw [if_pos h, if_pos (by omega), h, Nat.add_sub_cancel_left]
    · rw [if_neg h]
      exact ite_congr (propext (by omega)) (fun _ => rfl) fun _ => rfl

theorem cell_setBank (a : Arch) (bank b i j : Nat) (kind : AccKind) (g : Nat → Nat → Nat) (hi : i < 32) (hj : j < 32) :
    (a.setBank bank kind g).cell b i j = if b = bank then (w32 (g i j)).toNat else a.cell b i j := by
  have hkey : bank * 1024 ≤ b * 1024 + i * 32 + j ∧ b * 1024 + i * 32 + j < bank * 1024 + 1024 ↔ b = bank := by omega
  rw [Arch.cell, Arch.setBank, mget_foldl_mset]
  by_cases hb : b = bank
  · subst hb
    have hoff : b * 1024 + i * 32 + j - b * 1024 = i * 32 + j := by omega
    have hrow : (i * 32 + j) / 32 = i := by omega
    have hcol : (i * 32 + j) % 32 = j := by omega
    rw [if_pos (hkey.mpr rfl), if_pos rfl, hoff, hrow, hcol]
  · rw [if_neg (mt hkey.mp hb), if_neg hb, Arch.cell]

theorem cell_clearBank (a : Arch) (bank b i j : Nat) (hi : i < 32) (hj : j < 32) : (a.clearBank bank).cell b i j = if b = bank then 0 else a.cell b i j :=
  cell_setBank a bank b i j .empty (fun _ _ => 0) hi hj

theorem accKind_clearBank (a : Arch) (bank : Nat) : mget .empty (a.clearBank bank).accKind bank = .empty := by
  simp only [Arch.clearBank, Arch.setBank, mget_mset, if_true]

/-! #### A tensor slot stored -/

/-- The state in which bytes have been stored in the scratchpad. -/
def spmStored (s : State) (c b : Nat) (bs : Bytes) : State :=
  ((s.strayAt c b bs.length).modArch c fun y => { y with spm := wrBytes y.spm b bs }).touchLocal c b bs.length

theorem spmStored_onlyMem (s : State) (c b : Nat) (bs : Bytes) : OnlyMem s (spmStored s c b bs) :=
  (OnlyMem.strayAt s c b _).trans ((OnlyMem.modSpm _ c fun m => wrBytes m b bs).trans (.touchLocal _ c b _))

theorem spm_spmStored (s : State) (c b : Nat) (bs : Bytes) : ((spmStored s c b bs).core c).arch.spm = wrBytes (s.core c).arch.spm b bs := by
  obtain ⟨m, hm⟩ := core_touchLocal ((s.strayAt c b bs.length).modArch c fun y => { y with spm := wrBytes y.spm b bs }) c b bs.length c
  rw [spmStored, hm, core_modArch_self, strayAt_core]
  rfl

theorem vxeRun_slotStore {s : State} {c : Nat} {o : EngOp} (ho : o.op = .slotStore) (hin : inSpm c (descOf o.tb).dst 1024) :
    s.vxeRun c o = (spmStored s c (descOf o.tb).dst (rdBytes (s.core c).arch.slots (o.a * 1024) 1024), none) := by
  have hplace := placeOf_spm (c := c) (a := (descOf o.tb).dst) (len := 1024) hin.2
  simp only [State.vxeRun, ho, State.wrLocal, spmStored, length_rdBytes, hplace, Option.getD_some]

/-! #### A list opened -/

/-- The shape of a list, what it holds, and how many elements it was offered. -/
def SleList.shape (l : SleList) := (l.conf, l.k, l.kept, l.offered)

theorem shape_stirBuffer (s : State) (c : Nat) : ((s.stirBuffer c).core c).arch.sle.shape = (s.core c).arch.sle.shape := by
  obtain ⟨m, b, hm⟩ := (OnlyMem.stirBuffer s c).core c
  rw [hm]
  rfl

/-- An SCLR leaves an empty list of its shape (04 R164). -/
theorem sleRun_sclr_shape {s : State} {c : Nat} {o : EngOp} (ho : o.op = .sclr) : ((s.sleRun c o).core c).arch.sle.shape = (true, o.n, [], 0) := by
  simp only [State.sleRun, ho, shape_stirBuffer, core_modArch_self]
  rfl

/-- Settles O16: on a core without a context each engine's work on data keeps the engines and the tokens, so that the operation leaves and posts or faults;
for the operations on the core's own state the work is one change. -/
theorem engineCompletion : Obligations.EngineCompletion := by
  refine ⟨fun s c o hc hr hbare => ?_, fun s c o hc hr hroom => ⟨fun h ho hin htd => ?_, fun h ho hrows hsrc hdst hapart => ?_, fun h ho => ?_,
    fun h ho hin => ?_, fun h ho => ?_⟩⟩
  · have hs : RunsBare s c := ⟨run_ne_faulted_of_engineRuns hr, hbare⟩
    intro ends
    exact ⟨fun h => ⟨_, exec_tmeComplete hc hr h, tmeComplete_ends hs h⟩, fun h => ⟨_, exec_vxeComplete hc hr h, vxeComplete_ends hs h⟩,
      fun h ho => ⟨_, exec_sleComplete hc hr h ho, sleComplete_ends hs⟩, fun r h => ⟨_, exec_mxeComplete hc hr h, mxeComplete_ends hs h⟩⟩
  · obtain ⟨ks, ha, hp⟩ := tmeComplete_posts hroom (tdLoaded_steady s c o) h (tmeRun_tdset ho hin)
    obtain ⟨b, hb⟩ := tdLoaded_arch s c o
    rw [hb] at ha
    generalize BitVec.ofNat 256 (leNat (rdBytes (s.core c).arch.spm o.x.toNat 32)) = v at ha ⊢
    refine ⟨_, exec_tmeComplete hc hr h, by rw [ha], hp, ?_, by rw [ha]; rfl, by rw [ha]; rfl⟩
    rw [ha]
    exact (rdT_wrT _ _ _ _).trans (if_pos rfl)
  · obtain ⟨ks, ha, hp⟩ := tmeComplete_posts hroom (.onlyMem (rowMoved_onlyMem s c _ _ _)) h (tmeRun_tmov h ho hrows hsrc.2 hdst.2 hapart)
    refine ⟨_, exec_tmeComplete hc hr h, by rw [ha], hp, fun q => ?_⟩
    rw [ha]
    exact (congrArg (rdByte · q) (spm_rowMoved s c _ _ _)).trans (rdByte_copied _ _ _ _ _ _)
  · obtain ⟨ks, ha, hp⟩ := mxeComplete_posts hroom (t := s.modArch c fun a => a.clearBank o.bank) (.modArch s c fun a => setBank_engines a o.bank _ _) h
      (by simp only [State.mxeRun, ho])
    rw [core_modArch_self] at ha
    have hkind := accKind_clearBank (s.core c).arch o.bank
    have hcell := cell_clearBank (s.core c).arch o.bank
    generalize (s.core c).arch.clearBank o.bank = y at ha hkind hcell
    refine ⟨_, exec_mxeComplete hc hr h, by rw [ha], hp, by rw [ha]; exact hkind, fun i j hi hj => ⟨?_, fun b hb => ?_⟩⟩
    · rw [ha]
      exact (hcell o.bank i j hi hj).trans (if_pos rfl)
    · rw [ha]
      exact (hcell b i j hi hj).trans (if_neg hb)
  · obtain ⟨ks, ha, hp⟩ := vxeComplete_posts hroom (.onlyMem (spmStored_onlyMem s c _ _)) h (vxeRun_slotStore ho hin)
    refine ⟨_, exec_vxeComplete hc hr h, by rw [ha], hp, fun q => ?_⟩
    rw [ha]
    exact (congrArg (rdByte · q) (spm_spmStored s c _ _)).trans (rdByte_copied _ _ _ _ _ _)
  · obtain ⟨ks, ha, hp⟩ := leaves_and_posts hroom (Steady.sleRun s c o) (leave := fun a => { a with sleOp := none }) (fun _ => rfl) 3
    have hshape := sleRun_sclr_shape (s := s) (c := c) ho
    simp only [SleList.shape, Prod.mk.injEq] at hshape
    refine ⟨_, exec_sleComplete hc hr h (by rw [ho]; decide), by rw [ha], hp, ?_⟩
    rw [ha]
    exact hshape

end Sys2Proof.Machine

/-! PROOF. An outer-product pass of INT8 operands (03 R104, R129): the operands as read from the scratchpad, the sum that a cell takes, and the bank after
the pass. -/

namespace Sys2Proof.Machine

open Sys2Proof.Claims

/-! ### Elements of an operand (03 R107, R709) -/

theorem leNat_byte (bs : Bytes) (i : Nat) : leNat bs / 256 ^ i % 256 = (bs.getD i 0).toNat := by
  induction bs generalizing i with
  | nil => simp [leNat]
  | cons b bs ih =>
    have hb : b.toNat < 256 := b.isLt
    cases i with
    | zero =>
      rw [leNat, pow_zero, Nat.div_one, List.getD_cons_zero]
      omega
    | succ i =>
      have hdrop : (b.toNat + 256 * leNat bs) / 256 = leNat bs := by omega
      rw [leNat, Nat.pow_succ', ← Nat.div_div_eq_div_mul, hdrop, ih, List.getD_cons_succ]

/-- The 8-bit elements of a string are its bytes. -/
theorem getD_unpack_byte {n i : Nat} (bs : Bytes) (h : i < n) : (unpack 8 n bs).getD i 0 = (bs.getD i 0).toNat := by
  have hpow : 2 ^ (i * 8) = 256 ^ i := by rw [Nat.mul_comm, Nat.pow_mul]
  have helem : (unpack 8 n bs).getD i 0 = leNat bs / 2 ^ (i * 8) % 2 ^ 8 := by simp [unpack, h]
  rw [helem, hpow]
  exact leNat_byte bs i

theorem intElem_int8 (b : BitVec 8) : intElem 2 b.toNat = b.toInt := by
  have hsx : intElem 2 b.toNat = sx 8 b.toNat := rfl
  rw [hsx, sx_eq_toInt _ (by decide), BitVec.ofNat_toNat, BitVec.setWidth_eq]

/-- The elements of row k of an INT8 operand in a scratchpad. -/
def int8Row (m : Mem) (d : Desc) (k : Nat) : List Nat := unpack 8 32 (rdBytes m (d.srcRow k) 32)

theorem rows_kRows_int8 {s : State} {c n : Nat} {d : Desc} (h : ∀ i, i < n → inSpm c (d.srcRow i) 32) :
    (s.kRows c d 2 n).rows = (List.range n).map (int8Row (s.core c).arch.spm d) := by
  refine List.map_congr_left fun i hi => ?_
  exact congrArg (unpack 8 32) (rdOk_spm s c (h i (List.mem_range.mp hi)).2)

theorem intElem_int8Row {i : Nat} (m : Mem) (d : Desc) (k : Nat) (h : i < 32) : intElem 2 ((int8Row m d k).getD i 0) = (rdByte m (d.srcRow k + i)).toInt := by
  rw [int8Row, getD_unpack_byte _ h, getD_rdBytes _ _ _ _ h, intElem_int8]

/-! ### The sum of a pass (03 R129) -/

theorem flatten_chunks {α : Type} {n : Nat} (hn : 0 < n) (fuel : Nat) (xs : List α) (h : xs.length < fuel) : (chunks n fuel xs).flatten = xs := by
  induction fuel generalizing xs with
  | zero => omega
  | succ fuel ih =>
    cases xs with
    | nil => rfl
    | cons x xs =>
      have hlen : ((x :: xs).drop n).length < fuel := by
        rw [List.length_drop]
        simp only [List.length_cons] at h ⊢
        omega
      simp only [chunks, List.isEmpty_cons, Bool.false_eq_true, if_false, List.flatten_cons, ih _ hlen, List.take_append_drop]

/-- The exact sum of the products of pairs of integer elements. -/
def dot (fa fb : Nat) (xs : List (Nat × Nat)) : Int := (xs.map fun e => intElem fa e.1 * intElem fb e.2).sum

theorem foldl_intElem (fa fb : Nat) (xs : List (Nat × Nat)) (y : Int) :
    xs.foldl (fun n e => n + intElem fa e.1 * intElem fb e.2) y = y + dot fa fb xs := by
  induction xs generalizing y with
  | nil => simp [dot]
  | cons e xs ih => rw [List.foldl_cons, ih, dot, dot, List.map_cons, List.sum_cons, Int.add_assoc]

/-- A cell of integers holds the exact sum of all products modulo 2³², in whatever terms they come. -/
theorem cellSum_int32 {fam : Fam} (hk : fam.kind = .int32) (fa fb acc : Nat) (ts : List Term) :
    (cellSum fam fa fb acc ts : Int) % 2 ^ 32 = (acc + dot fa fb (ts.flatMap (·.xs))) % 2 ^ 32 := by
  induction ts generalizing acc with
  | nil => simp [cellSum, dot]
  | cons t ts ih =>
    have hstep : cellSum fam fa fb acc (t :: ts) = cellSum fam fa fb (lowBits 32 (acc + dot fa fb t.xs)) ts := by
      simp only [cellSum, List.foldl_cons, hk, foldl_intElem]
    have hlow : (lowBits 32 (acc + dot fa fb t.xs) : Int) = (acc + dot fa fb t.xs) % 2 ^ 32 := Int.toNat_of_nonneg (Int.emod_nonneg _ (by decide))
    have hdot : dot fa fb ((t :: ts).flatMap (·.xs)) = dot fa fb t.xs + dot fa fb (ts.flatMap (·.xs)) := by
      simp only [dot, List.flatMap_cons, List.map_append, List.sum_append]
    rw [hstep, ih, hlow, Int.emod_add_emod, hdot, Int.add_assoc]

/-! ### The bank after a pass (03 R104) -/

/-- The terms that a pass adds to a cell: the elements of the two operands' rows, k by k or block by block. -/
def State.mopTerms (s : State) (c : Nat) (o : EngOp) (fam : Fam) (i j : Nat) : List Term :=
  let k := fam.depth o.n
  let ra := s.kRows c (descOf o.ta) o.a k
  let rb := s.kRows c (descOf o.tb) o.b k
  let ks := chunks (if fam.kind = .int32 ∨ fam = .fp8 ∨ fam = .bf16 then k + 1 else 32) (k + 1) (ra.rows.zip rb.rows)
  ((List.range ks.length).zip ks).map fun b =>
    { xs := b.2.map fun r => (r.1.getD i 0, r.2.getD j 0), ea := (ra.scales.getD b.1 []).getD i 127, eb := (rb.scales.getD b.1 []).getD j 127 }

/-- What a pass starts from in a cell (R109). -/
def Arch.passStart (a : Arch) (o : EngOp) (i j : Nat) : Nat := if ! o.acc || mget .empty a.accKind o.bank = .empty then 0 else a.cell o.bank i j

theorem core_touchAll (s : State) (c : Nat) (rows : List (Nat × Nat)) (d : Nat) :
    ∃ b, (s.touchAll c rows).core d = { s.core d with arch := (s.core d).arch.touch b } := by
  induction rows generalizing s with
  | nil => exact ⟨(s.core d).arch.sle.touched, rfl⟩
  | cons r rows ih =>
    obtain ⟨m, hm⟩ := core_touchLocal s c r.1 r.2 d
    obtain ⟨b, hb⟩ := ih (s.touchLocal c r.1 r.2)
    refine ⟨b, hb.trans ?_⟩
    rw [hm]
    rfl

/-- The image of a core after a pass over given terms: the cells of one bank anew, and one more pass counted. -/
def Arch.passed (a : Arch) (o : EngOp) (fam : Fam) (ts : Nat → Nat → List Term) : Arch :=
  { a.setBank o.bank fam.kind fun i j => cellSum fam o.a o.b (a.passStart o i j) (ts i j) with pass := a.pass + 1 }

theorem mop_eq_modArch (s : State) (c : Nat) (o : EngOp) (fam : Fam) : s.mop c o fam =
    ((s.touchAll c (kRanges (descOf o.ta) o.a (fam.depth o.n))).touchAll c (kRanges (descOf o.tb) o.b (fam.depth o.n))).modArch c fun a =>
      a.passed o fam (s.mopTerms c o fam) := rfl

theorem arch_mop (s : State) (c : Nat) (o : EngOp) (fam : Fam) : ∃ b, ((s.mop c o fam).core c).arch =
    ((s.core c).arch.touch b).passed o fam (s.mopTerms c o fam) := by
  obtain ⟨m, hm⟩ := core_touchAll s c (kRanges (descOf o.ta) o.a (fam.depth o.n)) c
  obtain ⟨b, hb⟩ := core_touchAll (s.touchAll c (kRanges (descOf o.ta) o.a (fam.depth o.n))) c (kRanges (descOf o.tb) o.b (fam.depth o.n)) c
  refine ⟨b, ?_⟩
  rw [mop_eq_modArch, core_modArch_self, hb, hm]
  rfl

theorem cell_pass (a : Arch) (n : BitVec 16) (b i j : Nat) : ({ a with pass := n } : Arch).cell b i j = a.cell b i j := rfl

theorem cell_passed (a : Arch) (o : EngOp) (fam : Fam) (ts : Nat → Nat → List Term) (b i j : Nat) (hi : i < 32) (hj : j < 32) :
    (a.passed o fam ts).cell b i j =
      if b = o.bank then (w32 (cellSum fam o.a o.b (a.passStart o i j) (ts i j))).toNat else a.cell b i j := by
  rw [Arch.passed, cell_pass, cell_setBank _ _ _ _ _ _ _ hi hj]

theorem accKind_passed (a : Arch) (o : EngOp) (fam : Fam) (ts : Nat → Nat → List Term) : mget .empty (a.passed o fam ts).accKind o.bank = fam.kind := by
  simp only [Arch.passed, Arch.setBank, mget_mset_self]

theorem spm_passed (a : Arch) (o : EngOp) (fam : Fam) (ts : Nat → Nat → List Term) : (a.passed o fam ts).spm = a.spm := by
  simp only [Arch.passed, Arch.setBank]

theorem passStart_eq_ite (a : Arch) (o : EngOp) (i j : Nat) :
    (a.passStart o i j : Int) = if o.acc = true ∧ mget .empty a.accKind o.bank ≠ .empty then (a.cell o.bank i j : Int) else 0 := by
  have hfresh : ((! o.acc || decide (mget .empty a.accKind o.bank = .empty)) = true) ↔ ¬ (o.acc = true ∧ mget .empty a.accKind o.bank ≠ .empty) := by
    cases o.acc <;> simp
  rw [Arch.passStart, apply_ite Nat.cast, ite_congr (propext hfresh) (fun _ => rfl) fun _ => rfl, ite_not]
  rfl

/-! #### What a pass leaves of its core -/

section
variable (s : State) (c : Nat) (o : EngOp) (fam : Fam)

theorem accKind_mop : mget .empty ((s.mop c o fam).core c).arch.accKind o.bank = fam.kind := by
  obtain ⟨b, hb⟩ := arch_mop s c o fam
  rw [hb, accKind_passed]

theorem spm_mop : ((s.mop c o fam).core c).arch.spm = (s.core c).arch.spm := by
  obtain ⟨b, hb⟩ := arch_mop s c o fam
  rw [hb, spm_passed]
  rfl

theorem cell_mop (b i j : Nat) (hi : i < 32) (hj : j < 32) : ((s.mop c o fam).core c).arch.cell b i j =
    if b = o.bank then (w32 (cellSum fam o.a o.b ((s.core c).arch.passStart o i j) (s.mopTerms c o fam i j))).toNat else (s.core c).arch.cell b i j := by
  obtain ⟨m, hm⟩ := arch_mop s c o fam
  rw [hm, cell_passed _ o fam _ _ _ _ hi hj]
  rfl

end

/-- In a family of integers a cell of the bank holds the exact sum modulo 2³². -/
theorem cell_mop_int32 (s : State) (c : Nat) (o : EngOp) {fam : Fam} (hk : fam.kind = .int32) (i j : Nat) (hi : i < 32) (hj : j < 32) :
    (((s.mop c o fam).core c).arch.cell o.bank i j : Int) =
      ((s.core c).arch.passStart o i j + dot o.a o.b ((s.mopTerms c o fam i j).flatMap (·.xs))) % 2 ^ 32 := by
  rw [cell_mop _ _ _ _ _ _ _ hi hj, if_pos rfl, w32, BitVec.toNat_ofNat, ← cellSum_int32 hk]
  norm_cast

/-! ### The products of a pass (03 R104) -/

/-- All the pairs of elements that a pass multiplies for a cell, in increasing k. -/
theorem flatMap_mopTerms (s : State) (c : Nat) (o : EngOp) (fam : Fam) (i j : Nat) : (s.mopTerms c o fam i j).flatMap (·.xs) =
    ((s.kRows c (descOf o.ta) o.a (fam.depth o.n)).rows.zip (s.kRows c (descOf o.tb) o.b (fam.depth o.n)).rows).map fun r =>
      (r.1.getD i 0, r.2.getD j 0) := by
  have hlen : ((s.kRows c (descOf o.ta) o.a (fam.depth o.n)).rows.zip (s.kRows c (descOf o.tb) o.b (fam.depth o.n)).rows).length < fam.depth o.n + 1 := by
    simp [State.kRows]
  have hsize : 0 < if fam.kind = .int32 ∨ fam = .fp8 ∨ fam = .bf16 then fam.depth o.n + 1 else 32 := by
    split <;> omega
  have hflat := flatten_chunks hsize _ _ hlen
  rw [State.mopTerms]
  generalize chunks _ _ _ = ks at hflat ⊢
  have hblocks : ((List.range ks.length).zip ks).map Prod.snd = ks := List.map_snd_zip (by simp)
  rw [← hflat, List.flatMap_map, List.map_flatten, ← List.flatMap_def]
  conv_rhs => rw [← hblocks, List.flatMap_map]

/-- The pairs of two INT8 operands come to the sum over k of A[i][k] × B[k][j]. -/
theorem dot_int8Rows (m : Mem) (da db : Desc) (n : Nat) {i j : Nat} (hi : i < 32) (hj : j < 32) :
    dot 2 2 ((((List.range n).map (int8Row m da)).zip ((List.range n).map (int8Row m db))).map fun r => (r.1.getD i 0, r.2.getD j 0)) =
      ((List.range n).map fun k => (rdByte m (da.srcRow k + i)).toInt * (rdByte m (db.srcRow k + j)).toInt).sum := by
  rw [dot, List.zip_map', List.map_map, List.map_map]
  refine congrArg List.sum (List.map_congr_left fun k _ => ?_)
  exact congrArg₂ (· * ·) (intElem_int8Row m da k hi) (intElem_int8Row m db k hj)

theorem dot_mopTerms_int8 {s : State} {c : Nat} {o : EngOp} {i j : Nat} (ha : o.a = 2) (hb : o.b = 2)
    (hin : ∀ k, k < o.n → inSpm c ((descOf o.ta).srcRow k) 32 ∧ inSpm c ((descOf o.tb).srcRow k) 32) (hi : i < 32) (hj : j < 32) :
    dot o.a o.b ((s.mopTerms c o .int8 i j).flatMap (·.xs)) = ((List.range o.n).map fun k =>
      (rdByte (s.core c).arch.spm ((descOf o.ta).srcRow k + i)).toInt * (rdByte (s.core c).arch.spm ((descOf o.tb).srcRow k + j)).toInt).sum := by
  have hdepth : Fam.depth .int8 o.n = o.n := rfl
  rw [flatMap_mopTerms, ha, hb, hdepth, rows_kRows_int8 fun k hk => (hin k hk).1, rows_kRows_int8 fun k hk => (hin k hk).2]
  exact dot_int8Rows _ _ _ _ hi hj

theorem mxeRun_mop_int8 {s : State} {c : Nat} {o : EngOp} (ho : o.op = .mop) (ha : o.a = 2) (hb : o.b = 2) : s.mxeRun c o = (s.mop c o .int8, none) := by
  have hfam : famOf 2 2 = some .int8 := rfl
  simp only [State.mxeRun, ho, ha, hb, hfam]

/-- Settles O17: the pass writes one bank, and a cell of it takes the terms of its products modulo 2³², which are the products of the operands' bytes. -/
theorem outerProduct : Obligations.OuterProduct := by
  intro s c o hc hr hmxe ho ha hb htk hin _
  obtain ⟨ks, harch, -⟩ := mxeComplete_posts (by simp [htk]) (Steady.mop s c o .int8) hmxe (mxeRun_mop_int8 ho ha hb)
  refine ⟨_, exec_mxeComplete hc hr hmxe, ?_⟩
  rw [harch]
  refine ⟨rfl, accKind_mop s c o .int8, spm_mop s c o .int8, fun i j hi hj => ⟨?_, ?_⟩⟩
  · rw [← dot_mopTerms_int8 ha hb hin hi hj]
    refine (cell_mop_int32 s c o (fam := .int8) rfl i j hi hj).trans ?_
    rw [passStart_eq_ite]
  · have hother : 1 - o.bank ≠ o.bank := by omega
    exact (cell_mop s c o .int8 (1 - o.bank) i j hi hj).trans (if_neg hother)

end Sys2Proof.Machine

/-! PROOF. The work of a command from its start to its end (11 R447, R463, R466; 12 R497): what starts it, what is left of it, and a commit that waits for
nothing. -/

namespace Sys2Proof.Machine

open Sys2Proof.Claims

/-! ### A command among the outstanding ones -/

theorem cmd_congr {s t : State} (h : t.host = s.host) (r : CmdRef) : t.cmd? r = s.cmd? r := by simp only [State.cmd?, h]

/-- A command after a change of one that keeps its reference. -/
theorem cmd_modCmd_eq (s : State) (r q : CmdRef) {f : Cmd → Cmd} (hf : ∀ d, (f d).ref = d.ref) :
    (s.modCmd r f).cmd? q = if q = r then (s.cmd? q).map f else s.cmd? q := by
  unfold State.cmd? State.modCmd
  rw [modHost_host, List.find?_map]
  have hpred : (fun c : Cmd => c.ref == q) ∘ (fun c => if c.ref == r then f c else c) = fun c => c.ref == q := by
    funext c
    simp only [Function.comp_apply]
    split
    · rw [hf]
    · rfl
  simp only [hpred]
  cases hfind : s.host.cmds.find? (fun c => c.ref == q) with
  | none => simp
  | some d =>
    obtain rfl : d.ref = q := by simpa using List.find?_some hfind
    by_cases hq : d.ref = r <;> simp [hq]

theorem onlyCmd_modCmd (s : State) (r : CmdRef) {f : Cmd → Cmd} (hf : ∀ d, (f d).ref = d.ref) : onlyCmd s (s.modCmd r f) r :=
  ⟨rfl, fun q hq => by rw [cmd_modCmd_eq s r q hf, if_neg hq]⟩

theorem onlyCmd_trans {s t u : State} {r : CmdRef} (h : onlyCmd s t r) (h' : onlyCmd t u r) : onlyCmd s u r := by
  refine ⟨?_, fun q hq => (h'.2 q hq).trans (h.2 q hq)⟩
  obtain ⟨hs, -⟩ := h
  obtain ⟨ht, -⟩ := h'
  rw [← ht] at hs
  exact hs

/-! ### The start (11 R447) -/

section
variable {s : State} {r : CmdRef} {op : Nat} {c : Cmd}

theorem refOk_of_lt (hp : r.part < 16) (hq : r.qp < 64) (ht : r.tag < 65536) : refOk r = true := by
  simp [refOk, partOk, qpOk, hp, hq, ht]

theorem refOk_of_starts (h : starts s r op c) : refOk r = true := by
  obtain ⟨hp, hq, ht, -, -⟩ := h
  exact refOk_of_lt hp hq ht

theorem startable_of_starts (h : starts s r op c) : s.startable r op = some c := h.2.2.2.2

theorem cmd_of_starts (h : starts s r op c) : s.cmd? r = some c := (startable_some (startable_of_starts h)).1

theorem cmd_running (h : starts s r op c) : (running s r).cmd? r = some { c with phase := .running } :=
  cmd_modCmd _ (cmd_of_starts h) rfl

theorem exists_cmd_running (h : starts s r op c) : ∃ d, (running s r).cmd? r = some d := ⟨_, cmd_running h⟩

theorem onlyCmd_running (s : State) (r : CmdRef) : onlyCmd s (running s r) r := onlyCmd_modCmd s r fun _ => rfl

theorem startCmd_starts (h : starts s r op c) (run : Cmd → State → State) : startCmd r op run s = next (run c (running s r)) :=
  startCmd_run (refOk_of_starts h) (startable_of_starts h)

theorem startWhen_starts (h : starts s r op c) {ok : Cmd → State → Bool} (hok : ok c s = true) (run : Cmd → State → State) :
    startWhen r op ok run s = next (run c (running s r)) :=
  startWhen_run (refOk_of_starts h) (startable_of_starts h) hok

theorem stepCmd_starts (h : starts s r op c) (start more : Cmd → State → State) : stepCmd r op start more s = next (start c (running s r)) :=
  stepCmd_start (refOk_of_starts h) (startable_of_starts h)

/-- A command that runs is carried on. -/
theorem stepCmd_more (hr : refOk r = true) (h : s.cmd? r = some c) (hop : c.opcode = op) (hph : c.phase = .running) (hs : s.serves op = true)
    (start more : Cmd → State → State) : stepCmd r op start more s = next (more c s) := by
  unfold stepCmd
  rw [guardUnit_pos hr, h]
  simp only [hop, hph, hs, beq_self_eq_true, Bool.and_self, if_true]

end

/-! ### The end (11 R463, R466) -/

section
variable {s : State} {r : CmdRef} (h : ∃ d, s.cmd? r = some d)
include h

theorem cmdFail_ended (status : Nat) (result : Bytes) : ended (s.cmdFail r status result) r status result := by
  obtain ⟨d, hd⟩ := h
  exact ⟨_, cmd_modCmd _ hd rfl, rfl, rfl, rfl, rfl⟩

theorem cmdDone_ended (result : Bytes) : ended (s.cmdDone r result none) r 0 result := by
  obtain ⟨d, hd⟩ := h
  exact ⟨_, cmd_modCmd _ hd rfl, rfl, rfl, rfl, rfl⟩

theorem cmdDone_answered (result body : Bytes) : answered (s.cmdDone r result (some body)) r body := by
  obtain ⟨d, hd⟩ := h
  exact ⟨_, cmd_modCmd _ hd rfl, rfl, rfl, rfl⟩

end

@[simp] theorem cmdFail_gz (s : State) (r : CmdRef) (status : Nat) (result : Bytes) : (s.cmdFail r status result).gz = s.gz := rfl
@[simp] theorem cmdDone_gz (s : State) (r : CmdRef) (result : Bytes) (body : Option Bytes) : (s.cmdDone r result body).gz = s.gz := rfl

theorem onlyCmd_cmdFail (s : State) (r : CmdRef) (status : Nat) (result : Bytes) : onlyCmd s (s.cmdFail r status result) r :=
  onlyCmd_modCmd s r fun _ => rfl

theorem onlyCmd_cmdDone (s : State) (r : CmdRef) (result : Bytes) (body : Option Bytes) : onlyCmd s (s.cmdDone r result body) r :=
  onlyCmd_modCmd s r fun _ => rfl

/-- A failure leaves a command that it is not about, and one that ended so already, as it was. -/
theorem ended_cmdFail {s : State} {r : CmdRef} {status : Nat} {result : Bytes} (q : CmdRef) (h : ended s r status result) :
    ended (s.cmdFail q status result) r status result := by
  obtain ⟨d, hd, hend⟩ := h
  by_cases hq : r = q
  · subst hq
    exact cmdFail_ended ⟨d, hd⟩ status result
  · refine ⟨d, ?_, hend⟩
    rw [← hd]
    exact (onlyCmd_cmdFail s q status result).2 r hq

/-! ### Commits that wait for nothing (12 R497) -/

/-- Where no completion waits for the flash, a commit ends its command at once. -/
theorem commitDone_settled {s : State} (h : settled s) (r : CmdRef) (result : Bytes) (body : Option Bytes) :
    s.commitDone r [] result body = s.cmdDone r result body := by
  obtain ⟨hwt, hawaits⟩ := h
  have hend : s.commitDone r [] result body = (s.modGr fun g => { g with awaits := [] }).cmdDone r result body := by
    simp [State.commitDone, State.finishAwaits, State.modGr, hawaits, hwt, State.syncMark]
  rw [hend, ← hawaits]
  rfl

/-- Between two states the outstanding commands, write-back and what waits for the flash are the same. -/
structure SameWaits (s t : State) : Prop where
  host : t.host = s.host
  awaits : t.gr.awaits = s.gr.awaits

theorem SameWaits.settled {s t : State} (h : SameWaits s t) (hs : settled s) : Claims.settled t := by
  obtain ⟨hwt, hawaits⟩ := hs
  exact ⟨by rw [h.host, hwt], h.awaits.trans hawaits⟩

theorem SameWaits.cmd {s t : State} (h : SameWaits s t) (r : CmdRef) : t.cmd? r = s.cmd? r := cmd_congr h.host r

theorem settled_running {s : State} (r : CmdRef) (h : settled s) : settled (running s r) := h

end Sys2Proof.Machine

/-! PROOF. Indexes, their lists and their pages (05 R193 to R196, R219 to R225): what a change of an index, a commit, a list version and the reading and
storing of its pages leave. -/

namespace Sys2Proof.Machine

open Sys2Proof.Claims

theorem fld_lt (d : Bytes) (o n : Nat) : fld d o n < 256 ^ n := by
  have hlen : (sub d o n).length = n := by
    simp only [sub, zeros, List.length_append, List.length_take, List.length_drop, List.length_replicate]
    omega
  exact (leNat_lt (sub d o n)).trans_eq (by rw [hlen])

theorem partOk_of_lt {p : Nat} (h : p < 16) : partOk p = true := decide_eq_true h

/-! ### One index among the others -/

theorem ix_congr {s t : State} (h : t.gz = s.gz) (p n : Nat) : t.ix? p n = s.ix? p n := by simp only [State.ix?, h]

@[simp] theorem ix_cmdDone (s : State) (r : CmdRef) (result : Bytes) (body : Option Bytes) (p n : Nat) :
    (s.cmdDone r result body).ix? p n = s.ix? p n := rfl

theorem lt_of_ix {s : State} {p n : Nat} {x : Index} (h : s.ix? p n = some x) : n < 65536 := by
  rw [State.ix?] at h
  split at h
  · assumption
  · cases h

theorem ix_eq_lget (s : State) {p n : Nat} (h : n < 65536) : s.ix? p n = lget s.gz.ixs (ixKey p n) := if_pos h

theorem indexOk_of_ix {s : State} {p n : Nat} {x : Index} (h : s.ix? p n = some x) : indexOk n = true := decide_eq_true (lt_of_ix h)

theorem lget_setIx (s : State) (p n j : Nat) (x : Index) :
    lget (s.setIx p n x).gz.ixs j = if j = ixKey p n then some x else lget s.gz.ixs j := lget_lset s.gz.ixs (ixKey p n) j x

theorem ix_setIx (s : State) {p n : Nat} (x : Index) (h : n < 65536) : (s.setIx p n x).ix? p n = some x := by
  rw [ix_eq_lget _ h, lget_setIx, if_pos rfl]

/-! ### Commits (R219, R227) -/

theorem lget_ixCommit (s : State) (p n j : Nat) (x : Index) :
    lget (s.ixCommit p n x).gz.ixs j = if j = ixKey p n then some { x with epoch := x.epoch + 1 } else lget s.gz.ixs j := lget_setIx s p n j _

theorem ix_ixCommit (s : State) {p n : Nat} (x : Index) (h : n < 65536) : (s.ixCommit p n x).ix? p n = some { x with epoch := x.epoch + 1 } :=
  ix_setIx s _ h

theorem sameWaits_ixCommit (s : State) (p n : Nat) (x : Index) : SameWaits s (s.ixCommit p n x) := ⟨rfl, rfl⟩

theorem ixDurable_of_writeBack {s : State} (h : s.host.wt = false) (slots : List Nat) : s.ixDurable slots = s := by
  simp [State.ixDurable, h]

/-- A command that commits to an index and waits for nothing. -/
theorem ixCommit_commitDone {u : State} (h : settled u) (p n : Nat) (x : Index) (r : CmdRef) (result : Bytes) (body : Option Bytes) (slots : List Nat) :
    ((u.ixCommit p n x).commitDone r [] result body).ixDurable slots = (u.ixCommit p n x).cmdDone r result body := by
  rw [commitDone_settled ((sameWaits_ixCommit u p n x).settled h)]
  exact ixDurable_of_writeBack (s := (u.ixCommit p n x).cmdDone r result body) h.1 slots

/-! ### List versions (R220, R224, R225) -/

theorem versions_lset {x y : Index} {l : Nat} {vs : List ListVer} (h : y.lists = lset x.lists l vs) (m : Nat) :
    y.versions m = if m = l then vs else x.versions m := by
  rw [Index.versions, h, lget_lset]
  split
  · rfl
  · rfl

theorem versions_congr {x y : Index} (h : y.lists = x.lists) (m : Nat) : y.versions m = x.versions m := by simp only [Index.versions, h]

theorem current_congr {x y : Index} (h : y.lists = x.lists) (m : Nat) : y.current m = x.current m := by simp only [Index.current, versions_congr h]

theorem getLastD_append_singleton {α : Type} (l : List α) (a d : α) : (l ++ [a]).getLastD d = a := by
  simp [List.getLastD_eq_getLast?]

theorem current_setCurrent (x : Index) (l m : Nat) (v : ListVer) : (x.setCurrent l v).current m = if m = l then v else x.current m := by
  rw [Index.current, versions_lset (x := x) (y := x.setCurrent l v) rfl]
  split
  · exact getLastD_append_singleton _ _ _
  · rfl

theorem visible_iff (e : GzEnt) (snap : Nat) : e.visible snap = true ↔ e.ep ≤ snap ∧ ∀ d, e.del = some d → snap < d := by
  unfold GzEnt.visible GzEnt.inAt GzEnt.goneAt
  cases e.del with
  | none => simp
  | some d => simp

/-! ### Storing and reading list pages (R196, R223) -/

section
variable {s t : State} {p num l i0 : Nat} {x y : Index} {v v' : ListVer} {slots : List Nat}

theorem enterSlot_pointAt_pages (s : State) (z : Slot) (ns u n : Nat) : ((s.enterSlot z).1.pointAt ns u n).pages = s.pages := rfl

/-- A version that is stored has its units, which the index gives out; nothing else of either changes, and page headers are as before. -/
theorem storeVer_some (h : s.storeVer p num x l v i0 = some (t, y, v', slots)) :
    (∃ sp nu, y = { x with spare := sp, nextUnit := nu }) ∧ (∃ us, v' = { v with pages := us }) ∧ t.pages = s.pages := by
  unfold State.storeVer at h
  dsimp only at h
  split at h
  · cases h
  · obtain ⟨rfl, rfl, rfl, rfl⟩ : _ ∧ _ ∧ _ ∧ _ := by simpa only [Option.some.injEq, Prod.mk.injEq] using h
    refine ⟨⟨_, _, rfl⟩, ⟨_, rfl⟩, ?_⟩
    exact List.foldlRecOn _ _ (motive := fun acc : State × List Nat => acc.1.pages = s.pages) rfl fun acc hacc _ _ => hacc

theorem hostMode_congr (h : t.pages = s.pages) (b : Blk) : t.hostMode b = s.hostMode b := by simp only [State.hostMode, State.page, h]

end

/-- Appending to the tails of lists commits nothing. -/
theorem appendTails_epoch {s t : State} {p n : Nat} {x y : Index} {ls : List (Nat × List GzEnt)} {slots : List Nat}
    (h : s.appendTails p n x ls = some (t, y, slots)) : y.epoch = x.epoch := by
  induction ls generalizing s t x y slots with
  | nil => cases h; rfl
  | cons e ls ih =>
    rw [State.appendTails] at h
    split at h
    · cases h
    · next hstore =>
      obtain ⟨⟨_, _, rfl⟩, -, -⟩ := storeVer_some hstore
      split at h
      · cases h
      · next hrest =>
        cases h
        exact (ih hrest).trans rfl

/-- Appending to one list: its current version has the entries at its end, and the other lists are as before. -/
theorem appendTails_one {s t : State} {p n l : Nat} {x y : Index} {es : List GzEnt} {slots : List Nat}
    (h : s.appendTails p n x [(l, es)] = some (t, y, slots)) :
    (y.current l).ents = (x.current l).ents ++ es ∧ ∀ m, m ≠ l → y.current m = x.current m := by
  rw [State.appendTails] at h
  split at h
  · cases h
  · next x' v' _ hstore =>
    obtain ⟨⟨_, _, rfl⟩, ⟨_, rfl⟩, -⟩ := storeVer_some hstore
    cases h
    refine ⟨by rw [current_setCurrent, if_pos rfl], fun m hm => ?_⟩
    rw [current_setCurrent, if_neg hm]
    exact current_congr rfl m

/-- Records that are stored: the tails they went to, and what became of each. -/
theorem insertRecs_some {s u : State} {p n snap : Nat} {x y : Index} {rs : List InsRec} {slots : List Nat} {qs : List Placed}
    (h : s.insertRecs p n x snap rs = some (u, y, slots, qs)) : ∃ t, s.appendTails p n x (placedEnts rs qs (x.epoch + 1)) = some (t, y, slots) := by
  unfold State.insertRecs at h
  dsimp only at h
  split at h
  · cases h
  · split at h
    · cases h
    · next t _ _ htails =>
      obtain ⟨_, -, hu⟩ := Option.map_eq_some_iff.mp h
      cases hu
      exact ⟨t, htails⟩

theorem placedEnts_one (rec1 : InsRec) (l e : Nat) :
    placedEnts [rec1] [{ list := some l, second := none, status := 0 }] e = [(l, [{ code := rec1.code, id := rec1.id, ep := e }])] := rfl

/-! ### Trimmed units (12 R492, R497) -/

/-- Completions that are due touch the host link, what a power loss gives back of the tables, and the waits. -/
theorem finishAwaits_frame (s : State) :
    { s.finishAwaits with host := s.host, atl := s.atl, gr := s.gr } = s ∧ ∃ aw, s.finishAwaits.gr = { s.gr with awaits := aw } := by
  unfold State.finishAwaits
  dsimp only
  refine List.foldlRecOn _ _ (motive := fun t : State => { t with host := s.host, atl := s.atl, gr := s.gr } = s ∧ ∃ aw, t.gr = { s.gr with awaits := aw })
    ⟨rfl, _, rfl⟩ fun t ht a _ => ?_
  obtain ⟨hframe, hgr⟩ := ht
  have hsync (m : Option (Nat × Nat × List (Nat × Nat))) : { t.syncMark m with atl := t.atl } = t := by cases m <;> rfl
  refine ⟨?_, ?_⟩
  · exact (congrArg (fun u : State => { u with host := s.host, atl := s.atl, gr := s.gr }) (hsync a.sync)).trans hframe
  · obtain ⟨aw, haw⟩ := hgr
    exact ⟨aw, (congrArg State.gr (hsync a.sync)).trans haw⟩

theorem finishAwaits_of_none {s : State} (h : s.gr.awaits = []) : s.finishAwaits = s := by
  have hs : s = { s with gr := { s.gr with awaits := [] } } := by rw [← h]
  rw [hs]
  rfl

section
variable (s : State) (f : Nat → Nat → Bool)

/-- What a trim does before it ends the completions that are due. -/
theorem trimUnits_eq : ∃ t : State, s.trimUnits f = t.finishAwaits ∧ { t with gr := s.gr } = s ∧ t.gr.ns = s.gr.ns ∧
    (t.gr.map = s.gr.map.filter fun e => ! f (e.1 / 2 ^ 48) (e.1 % 2 ^ 48)) ∧ (s.gr.awaits = [] → t.gr.awaits = []) :=
  ⟨_, rfl, rfl, rfl, rfl, fun h => congrArg (List.map _) h⟩

theorem trimUnits_frame : { s.trimUnits f with host := s.host, atl := s.atl, gr := s.gr } = s := by
  obtain ⟨t, ht, hframe, -⟩ := trimUnits_eq s f
  have hend := congrArg (fun u : State => { u with host := s.host, atl := s.atl, gr := s.gr }) (finishAwaits_frame t).1
  rw [ht]
  exact hend.trans (congrArg (fun u : State => { u with host := s.host, atl := s.atl }) hframe)

theorem trimUnits_gz : (s.trimUnits f).gz = s.gz := (congrArg State.gz (trimUnits_frame s f) :)
theorem trimUnits_sched : (s.trimUnits f).sched = s.sched := (congrArg State.sched (trimUnits_frame s f) :)

theorem trimUnits_map : (s.trimUnits f).gr.map = s.gr.map.filter fun e => ! f (e.1 / 2 ^ 48) (e.1 % 2 ^ 48) := by
  obtain ⟨t, ht, -, -, hmap, -⟩ := trimUnits_eq s f
  obtain ⟨-, aw, hgr⟩ := finishAwaits_frame t
  rw [ht, hgr]
  exact hmap

/-- Where no completion waits for the flash, a trim ends none. -/
theorem trimUnits_settled {s : State} (h : settled s) : { s.trimUnits f with gr := s.gr } = s ∧ SameWaits s (s.trimUnits f) := by
  obtain ⟨t, ht, hframe, -, -, haw⟩ := trimUnits_eq s f
  rw [ht, finishAwaits_of_none (haw h.2)]
  exact ⟨hframe, (congrArg State.host hframe :), (haw h.2).trans h.2.symm⟩

end

theorem lget_filter_eq_none {α : Type} {l : List (Nat × α)} {f : Nat × α → Bool} {k : Nat} (h : ∀ v, f (k, v) = false) : lget (l.filter f) k = none := by
  rw [lget, List.find?_filter, List.find?_eq_none.mpr]
  · rfl
  · rintro ⟨j, v⟩ _
    by_cases hj : j = k
    · subst hj; simp [h v]
    · simp [hj]

/-- A unit that is trimmed is mapped no more. -/
theorem entry_trimUnits (s : State) {f : Nat → Nat → Bool} {ns u : Nat} (h : f ns u = true) (hu : u < 2 ^ 48) : (s.trimUnits f).entry? ns u = none := by
  rw [State.entry?, trimUnits_map]
  refine lget_filter_eq_none fun v => ?_
  have hns : unitKey ns u / 2 ^ 48 = ns := by unfold unitKey; omega
  have hunit : unitKey ns u % 2 ^ 48 = u := by unfold unitKey; omega
  rw [hns, hunit, h, Bool.not_true]

/-! ### Removing entries (R223, R224) -/

theorem removable_iff (y : GzEnt) (id snap : Nat) :
    (y.id == id && y.inAt snap && y.del.isNone) = decide (y.id = id ∧ y.ep ≤ snap ∧ y.del = none) := by
  rw [Bool.eq_iff_iff]
  simp [GzEnt.inAt, and_assoc]

theorem remove_ents (v : ListVer) (id snap e : Nat) : (v.remove id snap e).1.ents =
    v.ents.map fun y => if y.id = id ∧ y.ep ≤ snap ∧ y.del = none then { y with del := some e } else y := by
  simp only [ListVer.remove, removable_iff, decide_eq_true_eq]

theorem remove_count (v : ListVer) (id snap e : Nat) :
    (v.remove id snap e).2 = v.ents.countP fun y => decide (y.id = id ∧ y.ep ≤ snap ∧ y.del = none) := by
  simp only [ListVer.remove, removable_iff, List.countP_eq_length_filter]

/-- Where no visible copy is found, nothing is marked. -/
theorem remove_ents_of_count_zero {v : ListVer} {id snap e : Nat} (h : (v.remove id snap e).2 = 0) : (v.remove id snap e).1.ents = v.ents := by
  rw [remove_count, List.countP_eq_zero] at h
  rw [remove_ents]
  refine (List.map_congr_left fun y hy => if_neg ?_).trans (List.map_id _)
  simpa using h y hy

/-- Removing an ID from one list marks its visible copies there, and counts them. -/
theorem removeFrom_one (x : Index) (id snap e l : Nat) :
    ((x.removeFrom id snap e [l]).1.current l).ents =
      ((x.current l).ents.map fun y => if y.id = id ∧ y.ep ≤ snap ∧ y.del = none then { y with del := some e } else y) ∧
    (x.removeFrom id snap e [l]).2 = ((x.current l).ents.countP fun y => decide (y.id = id ∧ y.ep ≤ snap ∧ y.del = none)) ∧
    (x.removeFrom id snap e [l]).1.epoch = x.epoch := by
  rw [← remove_ents, ← remove_count _ id snap e]
  simp only [Index.removeFrom, List.foldl_cons, List.foldl_nil, Nat.zero_add]
  split
  · next hzero => exact ⟨(remove_ents_of_count_zero hzero).symm, trivial, rfl⟩
  · exact ⟨by rw [current_setCurrent, if_pos rfl], trivial, rfl⟩

end Sys2Proof.Machine

/-! PROOF. Index creation, drop, centroids and statistics; inserts and deletes (05 R191, R202, R203, R219 to R224). -/

namespace Sys2Proof.Machine

open Sys2Proof.Claims

/-! ### GZ_CREATE (R190, R202, R203) -/

section
variable {s : State} {r : CmdRef} {c : Cmd}

/-- The state with the new index, as its creation commits. -/
def State.created (v : State) (p n k : Nat) (d : Bytes) : State :=
  ((v.modGr fun g => { g with ns := lset g.ns (ixNs p n) {} }).setIx p n { indexOf d with ctx := some k }).commit

theorem exec_gzCreate (h : starts s r 0x30 c) (he : (s.earlier c fun d => d.opcode == 0x38 && d.obj == fld c.data 0 2) = false)
    (hx : s.ix? r.part (fld c.data 0 2) = none) {u v : State} {k : Nat} (hall : s.gz.ixs.length < 64)
    (hpart : (s.gz.ixs.filter fun e => e.1 / 65536 == r.part).length < 16)
    (hctx : (running s r).newCtx (indexCtx r.part (fld c.data 0 2) (indexOf c.data) s.sys.now) = some (u, k))
    (hareas : u.centroidAreas r.part (fld c.data 0 2) (indexOf c.data) = some v) :
    exec (.gzCreate r) s = next ((v.created r.part (fld c.data 0 2) k c.data).commitDone r [] [] none) := by
  simp only [exec, execGzCreate]
  rw [startWhen_starts h (by rw [he]; rfl)]
  have hroom : ¬ (64 ≤ (running s r).gz.ixs.length ∨ 16 ≤ ((running s r).gz.ixs.filter fun e => e.1 / 65536 == r.part).length) := by
    simp only [not_or, Nat.not_le]
    exact ⟨hall, hpart⟩
  have hnow : (running s r).sys.now = s.sys.now := rfl
  have hnone : (running s r).ix? r.part (fld c.data 0 2) = none := hx
  simp only [hnone, Option.isSome_none, Bool.false_eq_true, if_false, if_neg hroom, hnow, hctx, hareas]
  rfl

theorem exec_gzCreate_full (h : starts s r 0x30 c) (he : (s.earlier c fun d => d.opcode == 0x38 && d.obj == fld c.data 0 2) = false)
    (hx : s.ix? r.part (fld c.data 0 2) = none) (hall : 64 ≤ s.gz.ixs.length) :
    exec (.gzCreate r) s = next ((running s r).cmdFail r 6 []) := by
  simp only [exec, execGzCreate]
  rw [startWhen_starts h (by rw [he]; rfl)]
  have hnone : (running s r).ix? r.part (fld c.data 0 2) = none := hx
  have hfull : 64 ≤ (running s r).gz.ixs.length := hall
  simp only [hnone, Option.isSome_none, Bool.false_eq_true, if_false, hfull, true_or, if_true]

theorem ns_created (v : State) (p n k : Nat) (d : Bytes) : (v.created p n k d).ns? (ixNs p n) = some {} := by
  have h := lget_lset v.gr.ns (ixNs p n) (ixNs p n) {}
  rw [if_pos rfl] at h
  exact h

theorem ix_created (v : State) (p k : Nat) (d : Bytes) {n : Nat} (hn : n < 65536) : (v.created p n k d).ix? p n = some { indexOf d with ctx := some k } :=
  ix_setIx _ _ hn

/-! ### GZ_DROP (Table 5.1) -/

/-- The context of an index ends, where it has one. -/
def State.endIndexCtx (s : State) (x : Index) : State := match x.ctx with
  | none => s
  | some y => match s.ctx? y with
    | none => s
    | some cy => s.endCtx y cy

/-- What an index holds of its partition's DRAM is freed. -/
def State.indexFreed (s : State) (k : Nat) : State :=
  s.freeAllocs fun a => match a.use with
    | .index j => j == k
    | .hotList j _ _ => j == k
    | _ => false

/-- The state without an index: its context, its DRAM, its pages and its namespace are gone. -/
def State.dropped (s : State) (p n : Nat) (x : Index) : State :=
  ((((s.endIndexCtx x).indexFreed (ixKey p n)).trimUnits fun k _ => k == ixNs p n).modGr fun g => { g with ns := ldel g.ns (ixNs p n) }).modGz
    fun g => { g with ixs := ldel g.ixs (ixKey p n) }

theorem exec_gzDrop (h : starts s r 0x38 c) (he : (s.earlier c fun d => (decide (0x30 ≤ d.opcode) && decide (d.opcode ≤ 0x38) && gzTarget d == c.obj) ||
      (d.opcode == 0x11 && d.embed && fld d.p3 0 2 == c.obj)) = false) {x : Index} (hx : s.ix? r.part c.obj = some x) :
    exec (.gzDrop r) s = next (((running s r).dropped r.part c.obj x).commitDone r [] [] none) := by
  simp only [exec, execGzDrop]
  rw [startWhen_starts h (by rw [he]; rfl)]
  have hsome : (running s r).ix? r.part c.obj = some x := hx
  simp only [hsome]
  rfl

end

theorem releaseClus_frame (s : State) (x : Nat) (cs : List Nat) : { s.releaseClus x cs with clus := s.clus } = s :=
  List.foldlRecOn _ _ (motive := fun t : State => { t with clus := s.clus } = s) rfl fun _ ht _ _ => ht

/-- The end of a context leaves everything but cores, clusters, DRAM and the scheduler's tables. -/
theorem endCtx_frame (s : State) (x : Nat) (cx : Ctx) :
    { s.endCtx x cx with cores := s.cores, clus := s.clus, dram := s.dram, sched := s.sched } = s := by
  unfold State.endCtx
  dsimp only
  generalize hT : List.foldl _ s cx.cores = T
  have hcores : { T with cores := s.cores } = s := by
    rw [← hT]
    refine List.foldlRecOn _ _ (motive := fun t : State => { t with cores := s.cores } = s) rfl fun t ht c _ => ?_
    split
    · exact ht
    · exact ht
  have hclus := congrArg (fun t : State => { t with cores := s.cores, clus := s.clus, dram := s.dram, sched := s.sched }) (releaseClus_frame T x cx.cores)
  exact hclus.trans (congrArg (fun t : State => { t with clus := s.clus, dram := s.dram, sched := s.sched }) hcores)

theorem ctx_endCtx_self (s : State) (x : Nat) (cx : Ctx) : (s.endCtx x cx).ctx? x = none :=
  (lget_ldel _ x x).trans (if_pos rfl)

theorem endIndexCtx_frame (s : State) (x : Index) :
    { s.endIndexCtx x with cores := s.cores, clus := s.clus, dram := s.dram, sched := s.sched } = s := by
  unfold State.endIndexCtx
  split
  · rfl
  · split
    · rfl
    · exact endCtx_frame s _ _

theorem ctx_endIndexCtx {s : State} {x : Index} {y : Nat} (h : x.ctx = some y) : (s.endIndexCtx x).ctx? y = none := by
  unfold State.endIndexCtx
  rw [h]
  dsimp only
  split
  · assumption
  · exact ctx_endCtx_self s y _

section
variable {s : State} (p n : Nat) (x : Index)

theorem ixs_dropped : (s.dropped p n x).gz.ixs = ldel s.gz.ixs (ixKey p n) := by
  have hend : (s.endIndexCtx x).gz = s.gz := (congrArg State.gz (endIndexCtx_frame s x) :)
  rw [State.dropped, modGz_gz, modGr_gz, trimUnits_gz]
  exact congrArg (fun g : Gaz => ldel g.ixs (ixKey p n)) hend

theorem lget_dropped (j : Nat) : lget (s.dropped p n x).gz.ixs j = if j = ixKey p n then none else lget s.gz.ixs j := by
  rw [ixs_dropped, lget_ldel]

theorem ix_dropped : (s.dropped p n x).ix? p n = none := by
  rw [State.ix?, lget_dropped, if_pos rfl, ite_self]

theorem ns_dropped : (s.dropped p n x).ns? (ixNs p n) = none := by
  rw [State.ns?, State.dropped, modGz_gr, modGr_gr, lget_ldel, if_pos rfl]

theorem entry_dropped {u : Nat} (hu : u < 2 ^ 48) : (s.dropped p n x).entry? (ixNs p n) u = none := by
  rw [State.entry?, State.dropped, modGz_gr, modGr_gr]
  exact entry_trimUnits _ (beq_self_eq_true _) hu

theorem ctx_dropped {y : Nat} (h : x.ctx = some y) : (s.dropped p n x).ctx? y = none := by
  rw [State.ctx?, State.dropped, modGz_sched, modGr_sched, trimUnits_sched]
  exact ctx_endIndexCtx h

theorem sameWaits_dropped (h : settled s) : SameWaits s (s.dropped p n x) := by
  have hhost : (s.endIndexCtx x).host = s.host := (congrArg State.host (endIndexCtx_frame s x) :)
  have hgr : (s.endIndexCtx x).gr = s.gr := (congrArg State.gr (endIndexCtx_frame s x) :)
  have hfreed : SameWaits s ((s.endIndexCtx x).indexFreed (ixKey p n)) := ⟨hhost, congrArg Grat.awaits hgr⟩
  obtain ⟨-, htrim⟩ := trimUnits_settled (fun k _ => k == ixNs p n) (hfreed.settled h)
  exact ⟨htrim.host.trans hfreed.host, htrim.awaits.trans hfreed.awaits⟩

end

/-! ### GZ_SET_CENTROIDS (R219, R220) -/

/-- The codes that a command's data gives, at the next epoch of an index. -/
def Index.newCodes (x : Index) (d : Bytes) : List (Nat × Nat × Bytes) :=
  (List.range (fld d 4 4)).map fun i => (x.epoch + 1, fld d 0 4 + i, sub d (64 + i * x.nb) x.nb)

/-- An index with the codes that a command's data gives. -/
def Index.recoded (x : Index) (d : Bytes) : Index := { x with codes := x.codes ++ x.newCodes d }

section
variable (x : Index) (d : Bytes)

/-- From the next epoch on, a centroid that was set has the code given. -/
theorem codeAt_recoded {i : Nat} (hi : i < fld d 4 4) : (x.recoded d).codeAt (x.epoch + 1) (fld d 0 4 + i) = sub d (64 + i * x.nb) x.nb := by
  have hpred : ((fun e : Nat × Nat × Bytes => e.2.1 == fld d 0 4 + i && decide (e.1 ≤ x.epoch + 1)) ∘
      fun j => (x.epoch + 1, fld d 0 4 + j, sub d (64 + j * x.nb) x.nb)) = fun j => j == i := by
    funext j
    simp
  have hone : (x.newCodes d).filter (fun e => e.2.1 == fld d 0 4 + i && decide (e.1 ≤ x.epoch + 1)) =
      [(x.epoch + 1, fld d 0 4 + i, sub d (64 + i * x.nb) x.nb)] := by
    rw [Index.newCodes, List.filter_map, hpred, List.filter_beq, List.count_eq_one_of_mem List.nodup_range (List.mem_range.mpr hi)]
    rfl
  rw [Index.codeAt, Index.recoded, List.filter_append, hone, List.getLast?_append]
  rfl

/-- Before it, every centroid has the code it had. -/
theorem codeAt_recoded_before {snap : Nat} (h : snap ≤ x.epoch) (k : Nat) : (x.recoded d).codeAt snap k = x.codeAt snap k := by
  have hnone : (x.newCodes d).filter (fun e => e.2.1 == k && decide (e.1 ≤ snap)) = [] := by
    rw [List.filter_eq_nil_iff]
    intro e he
    obtain ⟨i, -, rfl⟩ := List.mem_map.mp he
    have : ¬ x.epoch + 1 ≤ snap := by omega
    simp [this]
  rw [Index.codeAt, Index.recoded, List.filter_append, hnone, List.append_nil]
  rfl

end

section
variable {s : State} {r : CmdRef} {c : Cmd} {x : Index}

theorem exec_gzSetCentroids (h : starts s r 0x31 c) (hx : s.ix? r.part c.obj = some x) : exec (.gzSetCentroids r) s =
    next ((((running s r).ixCommit r.part c.obj (x.recoded c.data)).commitDone r [] [] none).ixDurable []) := by
  simp only [exec, execGzSetCentroids]
  rw [startCmd_starts h]
  have hsome : (running s r).ix? r.part c.obj = some x := hx
  simp only [hsome]
  rfl

theorem exec_gzStat (h : starts s r 0x37 c) (hx : s.ix? r.part c.obj = some x) :
    ∃ b, exec (.gzStat r) s = next ((running s r).cmdDone r [] (some b)) := by
  simp only [exec, execGzStat]
  rw [startCmd_starts h]
  have hsome : (running s r).ix? r.part c.obj = some x := hx
  simp only [hsome]
  exact ⟨_, rfl⟩

/-! ### GZ_INSERT (R221, R222) -/

theorem exec_gzInsert (h : starts s r 0x32 c) (hx : s.ix? r.part c.obj = some x)
    (hroom : min slotCount (insRoom x (c.dlen / (16 + x.nb))) ≤ s.gr.freeSlots) (hro : s.gr.ronly = false) {u : State} {y : Index} {slots : List Nat}
    {qs : List Placed} (hins : (running s r).insertRecs r.part c.obj x (c.work.headD x.epoch) (insRecs x.nb c.data) = some (u, y, slots, qs)) :
    exec (.gzInsert r) s =
      next (((u.ixCommit r.part c.obj y).commitDone r (if u.forced c then slots else []) [] (some (insAnswer qs))).ixDurable slots) := by
  simp only [exec, execGzInsert]
  rw [startWhen_starts h (by rw [hx]; exact decide_eq_true hroom)]
  have hsome : (running s r).ix? r.part c.obj = some x := hx
  have hnro : (running s r).gr.ronly = false := hro
  simp only [hsome, hnro, Bool.false_eq_true, if_false, hins]

/-! ### GZ_DELETE (R223) -/

theorem exec_gzDelete_one (h : starts s r 0x33 c) (hx : s.ix? r.part c.obj = some x) (hro : s.gr.ronly = false) (hlen : c.dlen = 16) {l : Nat}
    (hl : l = fld c.data 8 3) (hone : l ≠ 0xFFFFFF) (hheld : x.heldLists.contains l = true) {u : State}
    (hread : State.readLists (running s r) r.part c.obj x [l] = (u, none)) : exec (.gzDelete r) s =
      next ((((u.ixCommit r.part c.obj (x.removeFrom (fld c.data 0 6) (c.work.headD x.epoch) (x.epoch + 1) [l]).1).commitDone r [] []
        (some (leBytes 4 (x.removeFrom (fld c.data 0 6) (c.work.headD x.epoch) (x.epoch + 1) [l]).2)))).ixDurable []) := by
  simp only [exec, execGzDelete]
  rw [startCmd_starts h]
  have hsome : (running s r).ix? r.part c.obj = some x := hx
  have hnro : (running s r).gr.ronly = false := hro
  have hnamed : x.namedLists (fld c.data 8 3) = [l] := by
    rw [← hl, Index.namedLists, if_neg hone, if_pos hheld]
  have hrecs : ((List.range (c.dlen / 16)).map fun i => (fld c.data (16 * i) 6, fld c.data (16 * i + 8) 3)) = [(fld c.data 0 6, fld c.data 8 3)] := by
    rw [hlen]; rfl
  have hdedup : ([l] : List Nat).dedup = [l] := rfl
  simp only [hsome, hnro, Bool.false_eq_true, if_false, hrecs, List.flatMap_cons, List.flatMap_nil, List.append_nil, hnamed, hdedup, hread, List.foldl_cons,
    List.foldl_nil, List.nil_append]

end

/-! ### What each command leaves -/

section
variable {s : State} {r : CmdRef} {c : Cmd} {x : Index}

theorem gzCreate_creates (h : starts s r 0x30 c) (he : (s.earlier c fun d => d.opcode == 0x38 && d.obj == fld c.data 0 2) = false)
    (hx : s.ix? r.part (fld c.data 0 2) = none) {u v : State} {k : Nat} (hall : s.gz.ixs.length < 64)
    (hpart : (s.gz.ixs.filter fun e => e.1 / 65536 == r.part).length < 16)
    (hctx : (running s r).newCtx (indexCtx r.part (fld c.data 0 2) (indexOf c.data) s.sys.now) = some (u, k))
    (hareas : u.centroidAreas r.part (fld c.data 0 2) (indexOf c.data) = some v) (hv : settled v) (hcmd : ∃ d, v.cmd? r = some d) :
    ∃ t, exec (.gzCreate r) s = next t ∧ ended t r 0 [] ∧ t.ix? r.part (fld c.data 0 2) = some { indexOf c.data with ctx := some k } ∧
      t.ns? (ixNs r.part (fld c.data 0 2)) = some {} := by
  have hsettled : settled (v.created r.part (fld c.data 0 2) k c.data) := hv
  have hkept : ∃ d, (v.created r.part (fld c.data 0 2) k c.data).cmd? r = some d := hcmd
  rw [exec_gzCreate h he hx hall hpart hctx hareas, commitDone_settled hsettled]
  refine ⟨_, rfl, cmdDone_ended hkept _, ?_, ?_⟩
  · rw [ix_cmdDone, ix_created v _ k _ (fld_lt _ _ _)]
  · exact ns_created v _ _ k _

theorem gzDrop_removes (hs : settled s) (h : starts s r 0x38 c)
    (he : (s.earlier c fun d => (decide (0x30 ≤ d.opcode) && decide (d.opcode ≤ 0x38) && gzTarget d == c.obj) ||
      (d.opcode == 0x11 && d.embed && fld d.p3 0 2 == c.obj)) = false) (hx : s.ix? r.part c.obj = some x) :
    ∃ t, exec (.gzDrop r) s = next t ∧ ended t r 0 [] ∧ t.ix? r.part c.obj = none ∧ (∀ j, j ≠ ixKey r.part c.obj → lget t.gz.ixs j = lget s.gz.ixs j) ∧
      t.ns? (ixNs r.part c.obj) = none ∧ (∀ u, u < 2 ^ 48 → t.entry? (ixNs r.part c.obj) u = none) ∧ ∀ y, x.ctx = some y → t.ctx? y = none := by
  have hsame := sameWaits_dropped (s := running s r) r.part c.obj x hs
  have hkept : ∃ d, ((running s r).dropped r.part c.obj x).cmd? r = some d := by
    rw [hsame.cmd]
    exact exists_cmd_running h
  rw [exec_gzDrop h he hx, commitDone_settled (hsame.settled hs)]
  refine ⟨_, rfl, cmdDone_ended hkept _, ?_, fun j hj => ?_, ns_dropped _ _ _, fun u hu => entry_dropped _ _ _ hu, fun y hy => ctx_dropped _ _ _ hy⟩
  · rw [ix_cmdDone, ix_dropped]
  · rw [cmdDone_gz, lget_dropped, if_neg hj]
    rfl

theorem gzSetCentroids_commits (hs : settled s) (h : starts s r 0x31 c) (hx : s.ix? r.part c.obj = some x) :
    ∃ t, exec (.gzSetCentroids r) s = next t ∧ ended t r 0 [] ∧ t.ix? r.part c.obj = some { x.recoded c.data with epoch := x.epoch + 1 } ∧
      ∀ j, j ≠ ixKey r.part c.obj → lget t.gz.ixs j = lget s.gz.ixs j := by
  rw [exec_gzSetCentroids h hx, ixCommit_commitDone (settled_running r hs)]
  refine ⟨_, rfl, cmdDone_ended (exists_cmd_running h) _, ?_, fun j hj => ?_⟩
  · rw [ix_cmdDone, ix_ixCommit _ _ (lt_of_ix hx)]
    rfl
  · rw [cmdDone_gz, lget_ixCommit, if_neg hj]
    rfl

theorem gzInsert_commits (h : starts s r 0x32 c) (hx : s.ix? r.part c.obj = some x)
    (hroom : min slotCount (insRoom x (c.dlen / (16 + x.nb))) ≤ s.gr.freeSlots) (hro : s.gr.ronly = false) {u : State} {y : Index} {slots : List Nat}
    {qs : List Placed} (hins : (running s r).insertRecs r.part c.obj x (c.work.headD x.epoch) (insRecs x.nb c.data) = some (u, y, slots, qs))
    (hu : settled u) (hfua : c.fua = false) (hcmd : ∃ d, u.cmd? r = some d) :
    ∃ t, exec (.gzInsert r) s = next t ∧ answered t r (insAnswer qs) ∧ t.ix? r.part c.obj = some { y with epoch := y.epoch + 1 } := by
  have hforced : u.forced c = false := by rw [State.forced, hfua, hu.1]; rfl
  rw [exec_gzInsert h hx hroom hro hins, hforced, if_neg Bool.false_ne_true, ixCommit_commitDone hu]
  exact ⟨_, rfl, cmdDone_answered (s := u.ixCommit r.part c.obj y) hcmd _ _, by rw [ix_cmdDone, ix_ixCommit _ _ (lt_of_ix hx)]⟩

theorem gzDelete_commits (h : starts s r 0x33 c) (hx : s.ix? r.part c.obj = some x) (hro : s.gr.ronly = false) (hlen : c.dlen = 16) {l : Nat}
    (hl : l = fld c.data 8 3) (hone : l ≠ 0xFFFFFF) (hheld : x.heldLists.contains l = true) (hsnap : c.work.headD x.epoch = x.epoch) {u : State}
    (hread : State.readLists (running s r) r.part c.obj x [l] = (u, none)) (hu : settled u) (hcmd : ∃ d, u.cmd? r = some d) :
    let out := x.removeFrom (fld c.data 0 6) x.epoch (x.epoch + 1) [l]
    ∃ t, exec (.gzDelete r) s = next t ∧ t.ix? r.part c.obj = some { out.1 with epoch := out.1.epoch + 1 } ∧ answered t r (leBytes 4 out.2) := by
  intro out
  rw [exec_gzDelete_one h hx hro hlen hl hone hheld hread, ixCommit_commitDone hu, hsnap]
  exact ⟨_, rfl, by rw [ix_cmdDone, ix_ixCommit _ _ (lt_of_ix hx)], cmdDone_answered (s := u.ixCommit r.part c.obj out.1) hcmd _ _⟩

end

/-! ### The statement -/

/-- Settles O43: each command is one change of its index, and the reads of its lists are of the entries that the commits before left there. -/
theorem indexesAndEntries : Obligations.IndexesAndEntries := by
  refine ⟨fun s r c hs => ⟨fun h he hx => ⟨fun u k v hall hpart hctx hareas hv hcmd => ?_, fun hall => ?_⟩, fun h he x hx => gzDrop_removes hs h he hx,
    fun h x hx => ?_, fun h x hx => ?_⟩, ?_, ?_, visible_iff⟩
  · obtain ⟨t, hexec, hend, hix, hns⟩ := gzCreate_creates h he hx hall hpart hctx hareas hv hcmd
    exact ⟨t, hexec, hend, hix, rfl, rfl, hns⟩
  · rw [exec_gzCreate_full h he hx hall]
    exact ⟨_, rfl, cmdFail_ended (exists_cmd_running h) _ _, onlyCmd_trans (onlyCmd_running s r) (onlyCmd_cmdFail _ r _ _)⟩
  · obtain ⟨t, hexec, hend, hix, hothers⟩ := gzSetCentroids_commits hs h hx
    exact ⟨t, _, hexec, hend, hix, rfl, rfl, fun i hi => codeAt_recoded x c.data hi, fun snap k hk => codeAt_recoded_before x c.data hk k, hothers⟩
  · obtain ⟨b, hexec⟩ := exec_gzStat h hx
    exact ⟨_, b, hexec, cmdDone_answered (exists_cmd_running h) _ _, onlyCmd_trans (onlyCmd_running s r) (onlyCmd_cmdDone _ r _ _)⟩
  · intro s u r c x y slots qs h hx hroom hro hins hu hfua hcmd
    obtain ⟨_, htails⟩ := insertRecs_some hins
    obtain ⟨t, hexec, hans, hix⟩ := gzInsert_commits h hx hroom hro hins hu hfua hcmd
    refine ⟨t, _, hexec, hans, hix, congrArg (· + 1) (appendTails_epoch htails), fun rec1 l hrec hqs => ?_⟩
    rw [hrec, hqs, placedEnts_one] at htails
    obtain ⟨hents, hothers⟩ := appendTails_one htails
    exact ⟨hents, hothers⟩
  · intro s r c x l id h hx hro hlen hid hl hone hheld hsnap u hread hu hcmd
    obtain ⟨t, hexec, hix, hans⟩ := gzDelete_commits h hx hro hlen hl hone hheld hsnap hread hu hcmd
    obtain ⟨hents, hcount, hepoch⟩ := removeFrom_one x (fld c.data 0 6) x.epoch (x.epoch + 1) l
    rw [hid, ← hcount]
    exact ⟨t, _, hexec, hix, congrArg (· + 1) hepoch, hents, hans⟩

end Sys2Proof.Machine

/-! PROOF. Query batches and samples (05 R205 to R216, R232, R234): a batch is answered whole from its scans, or fails whole with its first query that does. -/

namespace Sys2Proof.Machine

open Sys2Proof.Claims

/-! ### Answers as bytes (R214) -/

/-- Between two states only free values have been read. -/
def Drawn (s t : State) : Prop := ∃ n, t = { s with free := n }

theorem Drawn.trans {s t u : State} (h : Drawn s t) (h' : Drawn t u) : Drawn s u := by
  obtain ⟨_, rfl⟩ := h
  obtain ⟨n, rfl⟩ := h'
  exact ⟨n, rfl⟩

theorem Drawn.gz {s t : State} (h : Drawn s t) : t.gz = s.gz := by
  obtain ⟨_, rfl⟩ := h
  rfl

theorem Drawn.cmd {s t : State} (h : Drawn s t) (r : CmdRef) : t.cmd? r = s.cmd? r := by
  obtain ⟨_, rfl⟩ := h
  rfl

theorem records_drawn (s : State) (ls : List SleList) : Drawn s (s.records ls).1 := by
  unfold State.records
  exact List.foldlRecOn _ _ (motive := fun acc : State × Bytes => Drawn s acc.1) ⟨s.free, rfl⟩ fun _ hacc l _ => hacc.trans ⟨_, rfl⟩

/-- A body put together query by query, each step reading off records. -/
theorem foldl_drawn {α : Type} {f : State × Bytes → α → State × Bytes} (hf : ∀ acc a, Drawn acc.1 (f acc a).1) (s : State) (as : List α) :
    Drawn s (as.foldl f (s, [])).1 :=
  List.foldlRecOn _ _ (motive := fun acc : State × Bytes => Drawn s acc.1) ⟨s.free, rfl⟩ fun acc hacc a _ => hacc.trans (hf acc a)

section
variable (nq num snap : Nat) (sc : Scans) (body : Bytes)

theorem length_answerHead : (answerHead nq num snap sc).length = 64 := by
  simp [answerHead, zeros]

theorem take_answerHead : (answerHead nq num snap sc ++ body).take 64 = answerHead nq num snap sc :=
  List.take_left' (length_answerHead nq num snap sc)

/-- The header begins with the number of queries, the index and the snapshot. -/
theorem take_answerHead_front :
    (answerHead nq num snap sc ++ body).take 16 = leBytes 2 nq ++ zeros 2 ++ leBytes 2 num ++ zeros 2 ++ leBytes 8 snap := by
  have hlen : (leBytes 2 nq ++ zeros 2 ++ leBytes 2 num ++ zeros 2 ++ leBytes 8 snap).length = 16 := by simp [zeros]
  have hhead : answerHead nq num snap sc ++ body =
      (leBytes 2 nq ++ zeros 2 ++ leBytes 2 num ++ zeros 2 ++ leBytes 8 snap) ++ (leBytes 8 sc.pages ++ leBytes 4 sc.cached ++ zeros 36 ++ body) := by
    simp only [answerHead, List.append_assoc]
  rw [hhead, List.take_left' hlen]

end

/-! ### GZ_QUERY (R207, R215) -/

section
variable {s : State} {r : CmdRef} {c : Cmd} {x : Index}

/-- A batch whose queries all have answers publishes them after the header. -/
theorem exec_gzQuery_ok (h : starts s r 0x34 c) (hx : s.ix? r.part (fld c.data 0 2) = some x) {w : State} {as : List QAns}
    (ha : answers s r c x = (w, .ok as)) : ∃ y body, Drawn (w.queryCounts (batchOf c.data).nq as) y ∧ exec (.gzQuery r) s =
      next (y.cmdDone r [] (some (answerHead (batchOf c.data).nq (fld c.data 0 2) (c.work.headD x.epoch) (scans s r c x).2 ++ body))) := by
  have hsome : (running s r).ix? r.part (fld c.data 0 2) = some x := hx
  have htab (k : Nat) : (running s r).tab? k = s.tab? k := rfl
  rcases hsc : scans s r c x with ⟨u, sc⟩
  simp only [answers, hsc] at ha
  rw [scans] at hsc
  simp only [exec, execGzQuery]
  rw [startCmd_starts h]
  simp only [hsome, htab, hsc, ha]
  refine ⟨_, _, ?_, rfl⟩
  refine foldl_drawn (fun acc a => ?_) _ as
  dsimp only
  exact records_drawn acc.1 a.lists

/-- A batch one of whose queries fails ends with that failure. -/
theorem exec_gzQuery_error (h : starts s r 0x34 c) (hx : s.ix? r.part (fld c.data 0 2) = some x) {w : State} {f : QFail}
    (ha : answers s r c x = (w, .error f)) :
    ∃ g, exec (.gzQuery r) s = next ((w.modGz g).cmdFail r f.status (leBytes 8 f.obj ++ leBytes 2 f.query)) := by
  have hsome : (running s r).ix? r.part (fld c.data 0 2) = some x := hx
  have htab (k : Nat) : (running s r).tab? k = s.tab? k := rfl
  rcases hsc : scans s r c x with ⟨u, sc⟩
  simp only [answers, hsc] at ha
  rw [scans] at hsc
  simp only [exec, execGzQuery]
  rw [startCmd_starts h]
  simp only [hsome, htab, hsc, ha]
  exact ⟨_, rfl⟩

/-- An unreadable list fails its query, unless the batch takes part of an answer (R232). -/
theorem answerOne_unreadable (s : State) (p num : Nat) (x : Index) {b : Batch} (q : Query) (snap tver i l : Nat) (host : Bool) (probes rest : List Nat)
    (hot : Nat → Bool) (h : b.partialOk = false) :
    s.answerOne p num x b q snap tver i host probes (l :: rest) hot = (s, .error { status := 0x10, obj := l, query := i }) := by
  simp only [State.answerOne, h, Bool.false_eq_true, if_false, List.head?_cons]

/-! ### GZ_SAMPLE (R234) -/

/-- The probes of a sample's batch, and the lists of the sample for each query. -/
def sampleNear (c : Cmd) (x : Index) : List (List Nat) := x.probeSets (batchOf c.data) c.data (c.work.headD x.epoch)
def sampleFull (c : Cmd) (x : Index) : List (List Nat) := (sampleNear c x).map fun _ => sampleOf x c.data

/-- The answering of a sample from what its two passes of scans gave. -/
def sampled (s v : State) (r : CmdRef) (c : Cmd) (x : Index) (sc sd : Scans) : State × Except QFail (List (QAns × QAns)) :=
  State.sampleAll (v.listEvents (fld c.data 0 2) (sc.bad ++ sd.bad)) r.part (fld c.data 0 2) x (batchOf c.data) c.data
    (((s.tab? (tabKey r.part x.table)).map (·.d)).getD 0) (c.work.headD x.epoch) (c.work.getD 1 0) (c.work.getD 2 0 == 1) (sampleNear c x) (sampleFull c x) sc sd
    (fun l => ! (batchOf c.data).noCache && x.cached.contains (l, (x.bound l (c.work.headD x.epoch)).w)) (List.range (batchOf c.data).nq)

section
variable {u v : State} {sc sd : Scans} (h : starts s r 0x35 c) (hx : s.ix? r.part (fld c.data 0 2) = some x)
  (hu : (running s r).scanAll r.part (fld c.data 0 2) x (batchOf c.data) (c.work.headD x.epoch) (sampleNear c x) = (u, sc))
  (hv : u.scanAll r.part (fld c.data 0 2) x (batchOf c.data) (c.work.headD x.epoch) (sampleFull c x) = (v, sd))
include h hx hu hv

theorem exec_gzSample_ok {y : State} {as : List (QAns × QAns)} (ha : sampled s v r c x sc sd = (y, .ok as)) :
    ∃ z qs all body, Drawn (y.queryCounts (batchOf c.data).nq qs) z ∧ exec (.gzSample r) s =
      next (z.cmdDone r [] (some (answerHead (batchOf c.data).nq (fld c.data 0 2) (c.work.headD x.epoch) all ++ body))) := by
  have hsome : (running s r).ix? r.part (fld c.data 0 2) = some x := hx
  have htab (k : Nat) : (running s r).tab? k = s.tab? k := rfl
  simp only [sampled, sampleNear, sampleFull] at hu hv ha
  simp only [exec, execGzSample]
  rw [startCmd_starts h]
  simp only [hsome, htab, hu, hv, ha]
  refine ⟨_, as.map fun ae => ae.1.withSkips ae.2, _, _, ?_, rfl⟩
  refine foldl_drawn (fun acc a => ?_) _ as
  dsimp only
  exact records_drawn acc.1 _

theorem exec_gzSample_error {y : State} {f : QFail} (ha : sampled s v r c x sc sd = (y, .error f)) :
    ∃ g, exec (.gzSample r) s = next ((y.modGz g).cmdFail r f.status (leBytes 8 f.obj ++ leBytes 2 f.query)) := by
  have hsome : (running s r).ix? r.part (fld c.data 0 2) = some x := hx
  have htab (k : Nat) : (running s r).tab? k = s.tab? k := rfl
  simp only [sampled, sampleNear, sampleFull] at hu hv ha
  simp only [exec, execGzSample]
  rw [startCmd_starts h]
  simp only [hsome, htab, hu, hv, ha]
  exact ⟨_, rfl⟩

end

end

/-! ### The statement -/

theorem queries_queryCounts (s : State) (nq : Nat) (as : List QAns) : (s.queryCounts nq as).gz.queries = s.gz.queries + BitVec.ofNat 64 nq := rfl

/-- What an answered batch leaves: the answer of its command, and its queries counted. -/
theorem drawn_answered {w y : State} {nq : Nat} {as : List QAns} {r : CmdRef} (h : Drawn (w.queryCounts nq as) y) (hcmd : ∃ d, w.cmd? r = some d) (b : Bytes) :
    answered (y.cmdDone r [] (some b)) r b ∧ (y.cmdDone r [] (some b)).gz.queries = w.gz.queries + BitVec.ofNat 64 nq := by
  have hkept : ∃ d, y.cmd? r = some d := by
    rw [h.cmd]
    exact hcmd
  exact ⟨cmdDone_answered hkept _ _, by rw [cmdDone_gz, h.gz, queries_queryCounts]⟩

/-- Settles O44: a batch ends as the answering of its queries does, and a query whose list is unreadable fails. -/
theorem queries : Obligations.Queries := by
  refine ⟨fun s r c x h hx => ⟨fun w as ha hcmd => ?_, fun w f ha hcmd => ?_⟩, fun s p num x b q snap tver i l host probes rest hot hpart => ?_,
    fun s r c x h hx => ?_⟩
  · obtain ⟨y, body, hdrawn, hexec⟩ := exec_gzQuery_ok h hx ha
    obtain ⟨hans, hcount⟩ := drawn_answered hdrawn hcmd _
    exact ⟨_, _, hexec, hans, take_answerHead _ _ _ _ body, hcount⟩
  · obtain ⟨g, hexec⟩ := exec_gzQuery_error h hx ha
    exact ⟨_, hexec, cmdFail_ended (s := w.modGz g) hcmd _ _⟩
  · exact answerOne_unreadable s p num x q snap tver i l host probes rest hot hpart
  · intro b num snap near full dim hot u v sc sd hu hv out
    refine ⟨fun y as ha hcmd => ?_, fun y f ha hcmd => ?_⟩
    · obtain ⟨z, qs, all, body, hdrawn, hexec⟩ := exec_gzSample_ok h hx hu hv ha
      obtain ⟨hans, hcount⟩ := drawn_answered hdrawn hcmd _
      exact ⟨_, _, hexec, hans, take_answerHead_front _ _ _ all body, hcount⟩
    · obtain ⟨g, hexec⟩ := exec_gzSample_error h hx hu hv ha
      exact ⟨_, hexec, cmdFail_ended (s := y.modGz g) hcmd _ _⟩

end Sys2Proof.Machine

/-! PROOF. Compaction, list versions, tombstones and the hot-list cache (05 R217, R224 to R226, R228). -/

namespace Sys2Proof.Machine

open Sys2Proof.Claims

/-! ### GZ_COMPACT -/

theorem mem_beginBuilds {x : Index} {ls : List Nat} {l : Nat} (h : l ∈ ls) : (x.beginBuilds ls).builds.any (·.1 == l) = true := by
  by_cases hl : x.builds.any (·.1 == l) = true
  · simp only [Index.beginBuilds, List.any_append, hl, Bool.true_or]
  · simp only [Index.beginBuilds, List.any_append, List.any_map, Bool.or_eq_true]
    exact .inr (List.any_eq_true.mpr ⟨l, List.mem_filter.mpr ⟨h, by simp [hl]⟩, beq_self_eq_true l⟩)

section
variable {s : State} {r : CmdRef} {c : Cmd} {x : Index}

theorem exec_gzCompact_start (h : starts s r 0x36 c) (hx : s.ix? r.part c.obj = some x) (hro : s.gr.ronly = false) : exec (.gzCompact r) s =
    next (if (compactLists x c).isEmpty then ((running s r).setIx r.part c.obj (x.beginBuilds (compactLists x c))).commitDone r [] [] none
      else (running s r).setIx r.part c.obj (x.beginBuilds (compactLists x c))) := by
  have hsome : (running s r).ix? r.part c.obj = some x := hx
  have hnro : (running s r).gr.ronly = false := hro
  simp only [exec, execGzCompact]
  rw [stepCmd_starts h]
  simp only [hsome, hnro, Bool.false_eq_true, if_false]

/-- The command goes on until the compaction of each of its lists has ended. -/
theorem exec_gzCompact_more (hr : refOk r = true) (hc : s.cmd? r = some c) (hop : c.opcode = 0x36) (hph : c.phase = .running) (hs : s.serves 0x36 = true)
    (hx : s.ix? r.part c.obj = some x)
    (hdone : (x.builds.any fun e => decide (fld c.data 0 4 ≤ e.1) && decide (e.1 < fld c.data 0 4 + fld c.data 4 4)) = false) :
    exec (.gzCompact r) s = next (s.commitDone r [] [] none) := by
  simp only [exec, execGzCompact]
  rw [stepCmd_more hr hc hop hph hs]
  simp only [hx, hdone, Bool.false_eq_true, if_false]

theorem gzCompact_begins (h : starts s r 0x36 c) (hx : s.ix? r.part c.obj = some x) (hro : s.gr.ronly = false) (hls : compactLists x c ≠ []) :
    ∃ t y, exec (.gzCompact r) s = next t ∧ t.ix? r.part c.obj = some y ∧ y.lists = x.lists ∧ y.epoch = x.epoch ∧
      (∀ l ∈ compactLists x c, y.builds.any (·.1 == l) = true) ∧ ∃ d, t.cmd? r = some d ∧ d.phase = .running := by
  rw [exec_gzCompact_start h hx hro, if_neg (by simpa using hls)]
  exact ⟨_, _, rfl, ix_setIx _ _ (lt_of_ix hx), rfl, rfl, fun l hl => mem_beginBuilds hl, _, cmd_running h, rfl⟩

theorem gzCompact_nothing (hs : settled s) (h : starts s r 0x36 c) (hx : s.ix? r.part c.obj = some x) (hro : s.gr.ronly = false)
    (hls : compactLists x c = []) : ∃ t, exec (.gzCompact r) s = next t ∧ ended t r 0 [] := by
  have hset : settled ((running s r).setIx r.part c.obj (x.beginBuilds [])) := hs
  have hkept : ∃ d, ((running s r).setIx r.part c.obj (x.beginBuilds [])).cmd? r = some d := exists_cmd_running h
  rw [exec_gzCompact_start h hx hro, hls, List.isEmpty_nil, if_pos rfl, commitDone_settled hset]
  exact ⟨_, rfl, cmdDone_ended hkept _⟩

theorem gzCompact_ends (hs : settled s) (hr : refOk r = true) (hc : s.cmd? r = some c) (hop : c.opcode = 0x36) (hph : c.phase = .running)
    (hserves : s.serves 0x36 = true) (hx : s.ix? r.part c.obj = some x)
    (hdone : (x.builds.any fun e => decide (fld c.data 0 4 ≤ e.1) && decide (e.1 < fld c.data 0 4 + fld c.data 4 4)) = false) :
    ∃ t, exec (.gzCompact r) s = next t ∧ ended t r 0 [] := by
  rw [exec_gzCompact_more hr hc hop hph hserves hx hdone, commitDone_settled hs]
  exact ⟨_, rfl, cmdDone_ended ⟨c, hc⟩ _⟩

end

/-! ### The start of a compaction -/

/-- A list that is to be compacted is in no compaction yet. -/
theorem beginBuilds_of_wants {s : State} {x : Index} {l : Nat} (h : s.wantsCompaction x l = true) :
    x.beginBuilds [l] = { x with builds := x.builds ++ [(l, x.epoch)] } := by
  simp only [State.wantsCompaction, Bool.and_eq_true] at h
  obtain ⟨⟨-, hnone⟩, -⟩ := h
  simp only [Index.beginBuilds, List.filter_cons, List.filter_nil, hnone, if_true, List.map_cons, List.map_nil]

/-! ### The end of a compaction (R225, 12 R491) -/

section
variable {s : State} {r : CmdRef} {status : Nat} {result : Bytes}

theorem exists_cmd_cmdFail (q : CmdRef) (h : ∃ d, s.cmd? r = some d) : ∃ d, (s.cmdFail q status result).cmd? r = some d := by
  obtain ⟨d, hd⟩ := h
  rw [State.cmdFail, cmd_modCmd_eq]
  · split
    · exact ⟨_, by rw [hd]; rfl⟩
    · exact ⟨d, hd⟩
  · exact fun _ => rfl

/-- A failure of several commands ends each of them. -/
theorem foldl_cmdFail_ended {cs : List Cmd} {d : Cmd} (hd : d ∈ cs) (h : ∃ e, s.cmd? d.ref = some e) :
    ended (cs.foldl (fun t c => t.cmdFail c.ref status result) s) d.ref status result := by
  induction cs generalizing s with
  | nil => cases hd
  | cons c cs ih =>
    rw [List.foldl_cons]
    rcases List.mem_cons.mp hd with rfl | hd
    · exact List.foldlRecOn _ _ (motive := fun t : State => ended t d.ref status result) (cmdFail_ended h _ _) fun _ ht c _ => ended_cmdFail c.ref ht
    · exact ih hd (exists_cmd_cmdFail c.ref h)

end

theorem exists_cmd_of_mem {s : State} {d : Cmd} (h : d ∈ s.host.cmds) : ∃ e, s.cmd? d.ref = some e :=
  Option.isSome_iff_exists.mp (List.find?_isSome.mpr ⟨d, h, beq_self_eq_true _⟩)

section
variable (s : State) (p n : Nat) (x : Index) (l status : Nat) (result : Bytes)

/-- The list keeps its versions. -/
theorem ix_dropBuild (hn : n < 65536) :
    (s.dropBuild p n x l status result).ix? p n = some { x with builds := x.builds.filter (·.1 != l) } := by
  unfold State.dropBuild
  exact List.foldlRecOn _ _ (motive := fun t : State => t.ix? p n = some { x with builds := x.builds.filter (·.1 != l) }) (ix_setIx s _ hn) fun _ ht _ _ => ht

/-- A GZ_COMPACT that asked for the list fails. -/
theorem dropBuild_ended {d : Cmd} (hd : d ∈ s.runningOf 0x36) (hpart : d.ref.part = p) (hobj : d.obj = n) (hl : (compactLists x d).contains l = true) :
    ended (s.dropBuild p n x l status result) d.ref status result := by
  have hmine : d ∈ (s.runningOf 0x36).filter fun c => c.ref.part == p && c.obj == n && (compactLists x c).contains l :=
    List.mem_filter.mpr ⟨hd, by rw [hpart, hobj, hl]; simp⟩
  have hcmds : d ∈ s.host.cmds := (List.mem_filter.mp hd).1
  exact foldl_cmdFail_ended hmine (exists_cmd_of_mem (s := s.setIx p n _) hcmds)

end

/-- An index with a new version of a list. -/
def Index.switched (y : Index) (l : Nat) (v : ListVer) : Index :=
  { y with builds := y.builds.filter (·.1 != l), lists := lset y.lists l (y.versions l ++ [v]) }

theorem builds_switched (y : Index) (l : Nat) (v : ListVer) : (y.switched l v).builds.any (·.1 == l) = false := by
  rw [List.any_eq_false]
  intro e he
  have := (List.mem_filter.mp he).2
  simpa using this

theorem compacted_ents (x : Index) (l c w : Nat) : (x.compacted l c w).ents =
    (x.current l).ents.filter (·.visible c) ++ (x.current l).ents.filter fun e => decide (c < e.ep) := by
  simp only [Index.compacted, GzEnt.inAt, ← decide_not, Nat.not_le]

section
variable {s t : State} {p n l c : Nat} {x y : Index} {v : ListVer} {slots : List Nat}

/-- In host-assisted mode the switch is the one commit of the compaction (R204). -/
theorem switchList_some (h : s.storeVer p n x l (x.compacted l c (x.epoch + 1)) 0 = some (t, y, v, slots)) (hmode : t.hostMode .gzt = true)
    (hwt : t.host.wt = false) : s.switchList p n x l c = t.ixCommit p n (y.switched l v) := by
  obtain ⟨-, -, hpages⟩ := storeVer_some h
  have hs : s.hostMode .gzt = true := by rw [← hostMode_congr hpages, hmode]
  simp only [State.switchList, h, hs, Bool.true_or, if_true]
  exact ixDurable_of_writeBack (s := t.ixCommit p n (y.switched l v)) hwt []

theorem switchList_none (h : s.storeVer p n x l (x.compacted l c (x.epoch + 1)) 0 = none) : s.switchList p n x l c = s.dropBuild p n x l 6 [] := by
  simp only [State.switchList, h]

end

/-! ### Pages that are given back (R226) -/

section
variable (s : State) (p n : Nat) (us : List Nat)

theorem dropPages_gz : (s.dropPages p n us).gz = s.gz := by
  rw [State.dropPages]
  exact (modNs_gz _ _ _).trans (trimUnits_gz s _)

theorem ix_dropPages (q m : Nat) : (s.dropPages p n us).ix? q m = s.ix? q m := ix_congr (dropPages_gz s p n us) q m

theorem entry_dropPages {u : Nat} (h : u ∈ us) (hu : u < 2 ^ 48) : (s.dropPages p n us).entry? (ixNs p n) u = none := by
  have htrim := entry_trimUnits s (f := fun k u => k == ixNs p n && us.contains u) (ns := ixNs p n) (by simp [h]) hu
  rw [State.dropPages]
  exact htrim

end

/-- An index without a version of a list. -/
def Index.withoutVer (x : Index) (l ver : Nat) (us : List Nat) : Index :=
  { x with lists := lset x.lists l ((x.versions l).filter (·.w != ver)), cached := x.cached.filter (· != (l, ver)), spare := x.spare ++ us }

theorem versions_withoutVer (x : Index) (l ver : Nat) (us : List Nat) : (x.withoutVer l ver us).versions l = (x.versions l).filter (·.w != ver) := by
  rw [versions_lset (x := x) (y := x.withoutVer l ver us) rfl, if_pos rfl]

theorem not_mem_cached_withoutVer (x : Index) (l ver : Nat) (us : List Nat) : (l, ver) ∉ (x.withoutVer l ver us).cached := by
  simp [Index.withoutVer]

/-! ### Tombstones (R224) -/

/-- A pending delete that none of the snapshots predates becomes a tombstone. -/
def GzEnt.entomb (snaps : List Nat) (e : GzEnt) : GzEnt := match e.del with
  | none => e
  | some d => { e with tomb := e.tomb || snaps.all fun q => decide (d ≤ q) }

/-- The same of every version of every list. -/
def Index.entombed (x : Index) (snaps : List Nat) : Index :=
  { x with lists := x.lists.map fun l => (l.1, l.2.map fun v => { v with ents := v.ents.map (GzEnt.entomb snaps) }) }

theorem lget_map_snd {α β : Type} (l : List (Nat × α)) (f : α → β) (k : Nat) : lget (l.map fun e => (e.1, f e.2)) k = (lget l k).map f := by
  rw [lget, lget, List.find?_map]
  cases hfind : l.find? (fun e => e.1 == k) <;> simp [hfind]

theorem current_entombed (x : Index) (snaps : List Nat) (m : Nat) :
    ((x.entombed snaps).current m).ents = (x.current m).ents.map (GzEnt.entomb snaps) := by
  rw [Index.current, Index.current, Index.versions, Index.versions, Index.entombed, lget_map_snd]
  cases lget x.lists m with
  | none => rfl
  | some vs =>
    rw [Option.map_some, Option.getD_some, Option.getD_some, List.getLastD_eq_getLast?, List.getLastD_eq_getLast?, List.getLast?_map]
    cases vs.getLast? <;> rfl

/-! ### The hot-list cache (R217, log 68) -/

/-- The cached copies of older versions that an admitted query is bound to. -/
def State.keptCached (s : State) (p n : Nat) (x : Index) : List (Nat × Nat) :=
  x.cached.filter fun e => s.verBound p n x e.1 e.2 && (x.current e.1).w != e.2

/-- A choice of lists that adds newest versions only: what was cached stays, and what it adds is newest. -/
theorem foldl_cached {x : Index} {f : State × List (Nat × Nat) × Nat → Nat → State × List (Nat × Nat) × Nat} {ls : List Nat}
    {acc out : State × List (Nat × Nat) × Nat} (hout : ls.foldl f acc = out)
    (hf : ∀ acc l r, f acc l = r → r.2.1 = acc.2.1 ∨ r.2.1 = acc.2.1 ++ [(l, (x.current l).w)]) :
    (∀ e ∈ acc.2.1, e ∈ out.2.1) ∧ ∀ e ∈ out.2.1, e ∈ acc.2.1 ∨ (x.current e.1).w = e.2 := by
  induction ls generalizing acc with
  | nil => exact hout ▸ ⟨fun _ he => he, fun _ he => .inl he⟩
  | cons l ls ih =>
    obtain ⟨hkeeps, hfrom⟩ := ih hout
    rcases hf acc l _ rfl with heq | heq
    · rw [heq] at hkeeps hfrom
      exact ⟨hkeeps, hfrom⟩
    · rw [heq] at hkeeps hfrom
      refine ⟨fun e he => hkeeps e (List.mem_append_left _ he), fun e he => ?_⟩
      rcases hfrom e he with hacc | hw
      · rcases List.mem_append.mp hacc with hold | hnew
        · exact .inl hold
        · obtain rfl := List.mem_singleton.mp hnew
          exact .inr rfl
      · exact .inr hw

/-! ### The events of an index -/

section
variable {s : State} {p n l : Nat} {x : Index} (hp : p < 16) (hx : s.ix? p n = some x)
include hp hx

theorem guardUnit_ix (o : Out) : guardUnit (partOk p && indexOk n) o = o :=
  guardUnit_pos (by rw [partOk_of_lt hp, indexOk_of_ix hx]; rfl)

theorem exec_hotListCacheUpdate_hostAssisted (h : s.hostMode .gzt = true) : exec (.hotListCacheUpdate p n) s = next s := by
  simp only [exec, execHotListCacheUpdate]
  rw [guardUnit_ix hp hx]
  simp only [hx, h, Bool.or_true, if_true]

variable (hm : s.media = true)
include hm

theorem exec_compactionStart : exec (.compactionStart p n l) s = next (if s.wantsCompaction x l then s.setIx p n (x.beginBuilds [l]) else s) := by
  simp only [exec, execCompactionStart]
  rw [guardUnit_ix hp hx]
  simp only [hx, hm, Bool.true_and]

theorem exec_listVersionSwitch {c : Nat} (hb : x.builds.find? (·.1 == l) = some (l, c)) (hro : s.gr.ronly = false)
    (hroom : (x.compacted l c 0).pageCount x.perPage ≤ s.gr.freeSlots) {u : State} {bad : Option Nat} (hread : State.readLists s p n x [l] = (u, bad)) :
    exec (.listVersionSwitch p n l) s = next (match bad with
      | some _ => u.dropBuild p n x l 0x10 (leBytes 8 l)
      | none => u.switchList p n x l c) := by
  have hfits : ¬ s.gr.freeSlots < (x.compacted l c 0).pageCount x.perPage := Nat.not_lt.mpr hroom
  simp only [exec, execListVersionSwitch]
  rw [guardUnit_ix hp hx]
  simp only [hx, hb, hm, hro, hfits, Bool.not_true, Bool.or_self, decide_false, Bool.false_eq_true, if_false, hread]
  cases bad <;> rfl

theorem exec_listVersionFree {ver : Nat} {v : ListVer} (hv : (x.versions l).find? (·.w == ver) = some v) (hfree : s.verBound p n x l ver = false) :
    exec (.listVersionFree p n l ver) s =
      next (((s.freeAllocs fun a => a.use == .hotList (ixKey p n) l ver).setIx p n (x.withoutVer l ver v.pages)).dropPages p n v.pages) := by
  simp only [exec, execListVersionFree]
  rw [guardUnit_ix hp hx]
  simp only [hx, hv, hm, hfree, Bool.not_true, Bool.or_self, Bool.false_eq_true, if_false]
  rfl

theorem exec_tombstoneApply : exec (.tombstoneApply p n) s = next (s.setIx p n (x.entombed (s.gzSnaps p n))) := by
  simp only [exec, execTombstoneApply]
  rw [guardUnit_ix hp hx]
  simp only [hx, hm, if_true]
  rfl

/-- In hardware mode the cache holds what it has to keep, and newest versions. -/
theorem exec_hotListCacheUpdate (h : s.hostMode .gzt = false) : ∃ u cached, exec (.hotListCacheUpdate p n) s =
    next (State.setIx u p n { x with cached := cached, probes := [] }) ∧ (∀ e ∈ s.keptCached p n x, e ∈ cached) ∧
      ∀ e ∈ cached, e ∈ s.keptCached p n x ∨ (x.current e.1).w = e.2 := by
  simp only [exec, execHotListCacheUpdate]
  rw [guardUnit_ix hp hx]
  simp only [hx, hm, h, Bool.not_true, Bool.or_self, Bool.false_eq_true, if_false]
  generalize hout : List.foldl _ _ _ = out
  refine ⟨out.1, out.2.1, rfl, foldl_cached hout fun acc l r hr => ?_⟩
  split at hr
  · exact .inl (hr ▸ rfl)
  · split at hr
    · exact .inl (hr ▸ rfl)
    · exact .inr (hr ▸ rfl)

/-! ### What each event leaves -/

theorem listVersionSwitch_switches {c : Nat} {u t' : State} {y : Index} {v' : ListVer} {slots : List Nat} (hb : x.builds.find? (·.1 == l) = some (l, c))
    (hro : s.gr.ronly = false) (hroom : (x.compacted l c 0).pageCount x.perPage ≤ s.gr.freeSlots) (hread : State.readLists s p n x [l] = (u, none))
    (hstore : u.storeVer p n x l (x.compacted l c (x.epoch + 1)) 0 = some (t', y, v', slots)) (hmode : t'.hostMode .gzt = true) (hwt : t'.host.wt = false) :
    ∃ t z, exec (.listVersionSwitch p n l) s = next t ∧ t.ix? p n = some z ∧ z.epoch = x.epoch + 1 ∧ z.versions l = x.versions l ++ [v'] ∧
      v'.w = x.epoch + 1 ∧ v'.ents = ((x.current l).ents.filter (·.visible c)) ++ ((x.current l).ents.filter fun e => decide (c < e.ep)) ∧
      z.builds.any (·.1 == l) = false := by
  rw [exec_listVersionSwitch hp hx hm hb hro hroom hread]
  dsimp only
  rw [switchList_some hstore hmode hwt]
  obtain ⟨⟨_, _, hy⟩, ⟨_, hv⟩, -⟩ := storeVer_some hstore
  have hepoch : y.epoch = x.epoch := by rw [hy]
  have hversions : y.versions l = x.versions l := versions_congr (by rw [hy]) l
  refine ⟨_, _, rfl, ix_ixCommit _ _ (lt_of_ix hx), congrArg (· + 1) hepoch, ?_, by rw [hv, Index.compacted], by rw [hv]; exact compacted_ents x l c (x.epoch + 1),
    builds_switched y l v'⟩
  rw [versions_lset (x := y) rfl l, if_pos rfl, hversions]

theorem listVersionFree_frees {ver : Nat} {v : ListVer} (hv : (x.versions l).find? (·.w == ver) = some v) (hfree : s.verBound p n x l ver = false) :
    ∃ t z, exec (.listVersionFree p n l ver) s = next t ∧ t.ix? p n = some z ∧ z.versions l = (x.versions l).filter (·.w != ver) ∧ (l, ver) ∉ z.cached ∧
      z.epoch = x.epoch ∧ ∀ u ∈ v.pages, u < 2 ^ 48 → t.entry? (ixNs p n) u = none := by
  rw [exec_listVersionFree hp hx hm hv hfree]
  refine ⟨_, x.withoutVer l ver v.pages, rfl, ?_, versions_withoutVer _ _ _ _, not_mem_cached_withoutVer _ _ _ _, rfl,
    fun u hu hlt => entry_dropPages _ _ _ _ hu hlt⟩
  rw [ix_dropPages, ix_setIx _ _ (lt_of_ix hx)]

theorem tombstoneApply_marks : ∃ t z, exec (.tombstoneApply p n) s = next t ∧ t.ix? p n = some z ∧ z.epoch = x.epoch ∧ { t with gz := s.gz } = s ∧
    ∀ m, (z.current m).ents = (x.current m).ents.map (GzEnt.entomb (s.gzSnaps p n)) :=
  ⟨_, _, exec_tombstoneApply hp hx hm, ix_setIx _ _ (lt_of_ix hx), rfl, rfl, fun m => current_entombed x _ m⟩

theorem hotListCacheUpdate_caches (h : s.hostMode .gzt = false) : ∃ t z, exec (.hotListCacheUpdate p n) s = next t ∧ t.ix? p n = some z ∧ z.probes = [] ∧
    z.lists = x.lists ∧ z.epoch = x.epoch ∧ (∀ e ∈ z.cached, s.verBound p n x e.1 e.2 = true) ∧
    ∀ e ∈ x.cached, s.verBound p n x e.1 e.2 = true → (x.current e.1).w ≠ e.2 → e ∈ z.cached := by
  obtain ⟨u, cached, hexec, hkept, hcached⟩ := exec_hotListCacheUpdate hp hx hm h
  refine ⟨_, _, hexec, ix_setIx _ _ (lt_of_ix hx), rfl, rfl, rfl, fun e he => ?_, fun e he hbound hold => hkept e ?_⟩
  · rcases hcached e he with hk | hw
    · have := (List.mem_filter.mp hk).2
      simp only [Bool.and_eq_true] at this
      exact this.1
    · simp [State.verBound, hw]
  · exact List.mem_filter.mpr ⟨he, by simp [hbound, hold]⟩

end

/-! ### The statement -/

/-- Settles O45: GZ_COMPACT by what it makes of its index, and each event of an index by what it makes of the versions and the cache. -/
theorem compaction : Obligations.Compaction := by
  refine ⟨fun s r c x hs hx hro => ⟨fun h hls => gzCompact_begins h hx hro hls, fun h hls => gzCompact_nothing hs h hx hro hls, ?_⟩,
    fun s p n l x hp hx hm => ⟨fun h => ?_, fun h => ?_, ?_, ?_, ?_, fun ver v => listVersionFree_frees hp hx hm, tombstoneApply_marks hp hx hm,
      exec_hotListCacheUpdate_hostAssisted hp hx, hotListCacheUpdate_caches hp hx hm⟩⟩
  · intro hp hq ht hc hop hph hserves hdone
    exact gzCompact_ends hs (refOk_of_lt hp hq ht) hc hop hph hserves hx hdone
  · rw [exec_compactionStart hp hx hm, if_pos h, beginBuilds_of_wants h]
  · rw [exec_compactionStart hp hx hm, h, if_neg Bool.false_ne_true]
  · intro c u t' y v' slots hb hro hroom hread hstore hmode hwt
    exact listVersionSwitch_switches hp hx hm hb hro hroom hread hstore hmode hwt
  · intro c t' bad hb hro hroom hread
    exact ⟨_, _, exec_listVersionSwitch hp hx hm hb hro hroom hread, ix_dropBuild _ _ _ _ _ _ _ (lt_of_ix hx), rfl, rfl⟩
  · intro c u hb hro hroom hread hstore
    rw [exec_listVersionSwitch hp hx hm hb hro hroom hread]
    dsimp only
    rw [switchList_none hstore]
    exact ⟨_, _, rfl, ix_dropBuild _ _ _ _ _ _ _ (lt_of_ix hx), rfl, rfl, fun d hd hpart hobj hl => dropBuild_ended u p n x l 6 [] hd hpart hobj hl⟩

end Sys2Proof.Machine

/-! PROOF. Scan requests and the page request rings (05 R209 to R212; 12 R496). -/

namespace Sys2Proof.Machine

open Sys2Proof.Claims

/-! ### Numbers in memory (00 R5) -/

theorem rdBytes_congr {m n : Mem} {a k : Nat} (h : ∀ b, a ≤ b → b < a + k → rdByte m b = rdByte n b) : rdBytes m a k = rdBytes n a k := by
  induction k generalizing a with
  | zero => rfl
  | succ k ih =>
    rw [rdBytes, rdBytes, h a le_rfl (by omega), ih fun b hlo hhi => h b (by omega) (by omega)]

theorem rdBytes_wrBytes_self (m : Mem) (a : Nat) (bs : Bytes) : rdBytes (wrBytes m a bs) a bs.length = bs := by
  refine List.ext_getElem (length_rdBytes _ _ _) fun i hi hlt => ?_
  have hget := getD_rdBytes (wrBytes m a bs) a bs.length i hlt
  rw [rdByte_wrBytes, if_pos (by omega), Nat.add_sub_cancel_left, List.getD_eq_getElem _ _ hi, List.getD_eq_getElem _ _ hlt] at hget
  exact hget

theorem leNat_leBytes (n v : Nat) : leNat (leBytes n v) = v % 256 ^ n := by
  induction n generalizing v with
  | zero => rw [pow_zero, Nat.mod_one]; rfl
  | succ n ih => rw [leBytes, leNat, ih, BitVec.toNat_ofNat, Nat.pow_succ' (n := n), Nat.mod_mul]

theorem rdLE_lt (m : Mem) (a n : Nat) : rdLE m a n < 256 ^ n := (leNat_lt _).trans_eq (by rw [length_rdBytes])

theorem rdLE_wrLE_self (m : Mem) (a : Nat) {n v : Nat} (h : v < 256 ^ n) : rdLE (wrLE m a n v) a n = v := by
  have hself := rdBytes_wrBytes_self m a (leBytes n v)
  rw [length_leBytes] at hself
  rw [rdLE, wrLE, hself, leNat_leBytes, Nat.mod_eq_of_lt h]

theorem rdLE_wrLE_of_disjoint (m : Mem) {a b n k : Nat} (v : Nat) (h : b + k ≤ a ∨ a + n ≤ b) : rdLE (wrLE m a n v) b k = rdLE m b k := by
  rw [rdLE, rdLE, rdBytes_congr fun q hlo hhi => ?_]
  rw [wrLE, rdByte_wrBytes, length_leBytes, if_neg (by omega)]

/-! ### The scratchpad of a core whose list is marked as touched -/

section
variable (s : State) (c lo len d : Nat)

@[simp] theorem touchCore_spm : ((s.touchCore c lo len).core d).arch.spm = (s.core d).arch.spm := by
  obtain ⟨b, hb⟩ := core_touchCore s c lo len d
  rw [hb, Arch.touch]

@[simp] theorem touchCore_rdK (k : Nat) : ((s.touchCore c lo len).core d).arch.rdK k = (s.core d).arch.rdK k := by
  obtain ⟨b, hb⟩ := core_touchCore s c lo len d
  rw [hb, Arch.touch, Arch.rdK, Arch.rdK]

@[simp] theorem touchCore_fch : (s.touchCore c lo len).fch = s.fch := (congrArg State.fch (touchCore_frame s c lo len) :)

@[simp] theorem touchCore_gr : (s.touchCore c lo len).gr = s.gr := (congrArg State.gr (touchCore_frame s c lo len) :)

end

/-! ### SCAN_REQUEST (R209) -/

/-- Whether a scan request goes to a core that holds its list in the cache. -/
def Index.scanHot (x : Index) (c : Nat) (req : Bytes) (v : ListVer) : Bool :=
  stackSide c && (searchCores x.search).contains c && x.cached.contains (fld req 4 4 % 2 ^ 24, v.w)

/-- Whether a core is at the channel of the segment of a scan request. -/
def Grat.scanMine (g : Grat) (c : Nat) (req : Bytes) : Bool :=
  ! stackSide c && g.liveChan ((fld req 4 4 % 2 ^ 24 + 8 * fld req 0 2 + fld req 4 4 / 2 ^ 24) % 128) / 8 == (c - 640) / 8

/-- The page numbers of the segment that the scan reads from flash. -/
def Index.scanNeeds (x : Index) (c : Nat) (req : Bytes) (v : ListVer) : List Nat :=
  ((v.livePages x.perPage (fld req 8 8)).filter fun i => i / 64 == fld req 4 4 / 2 ^ 24).filter fun i =>
    ! x.scanHot c req v || decide (v.basePages x.perPage ≤ i)

/-- The records of a scan, of each query of the request. -/
def Index.scanRecords (x : Index) (spm : Mem) (req : Bytes) (v : ListVer) : Bytes := (List.range (scanBatch x.nb req).nq).flatMap (x.scanRecord spm req v)

/-- What the records of a scan make of the merge cluster. -/
def State.scanned (u : State) (x : Index) (req : Bytes) (v : ListVer) : State :=
  u.modClu x.merge fun k => { k with spm := wrBytes k.spm (fld req 0x2C 4 % 0x800000) (x.scanRecords (u.clu x.merge).spm req v) }

/-- What a scan leaves once its pages are read: nothing more where one was unreadable, or else the records and the post of NOTIFY. -/
def State.scanOutcome (u : State) (x : Index) (req : Bytes) (v : ListVer) : Option Nat → State
  | some _ => u
  | none => match (u.scanned x req v).ctxOn (x.merge * 8 + bits (fld req 0x30 4) 6 0 % 8) with
    | none => u.scanned x req v
    | some y => (u.scanned x req v).postCtx y (x.merge * 8 + bits (fld req 0x30 4) 6 0 % 8) (bits (fld req 0x30 4) 12 7 % 32) 1

section
variable {s u : State} {p c n : Nat} {req : Bytes} {x : Index} {v : ListVer} (hp : p < 16) (hc : c < 768) (hx : s.ix? p (fld req 0 2) = some x)
  (hm : s.media = true) (hlive : s.coresLive = true) (hv : ((x.versions (fld req 4 4 % 2 ^ 24)).find? fun v => v.w == fld req 0x10 8) = some v)
  (hpos : (scanBatch x.nb req).nq ≠ 0) (hle : (scanBatch x.nb req).nq ≤ 64) (hscans : (x.scanHot c req v || s.gr.scanMine c req) = true)
include hp hc hx hm hlive hv hpos hle hscans

/-- A request of 1 to 64 queries that reaches a core that scans its segment: the pages are read, and an unreadable one gives no records. -/
theorem exec_scanRequest {bad : Option Nat} (hread : State.scanPages s (ixNs p (fld req 0 2)) v (x.scanNeeds c req v) = (u, n, bad)) :
    exec (.scanRequest p c req) s = next (u.scanOutcome x req v bad) := by
  have hok : (partOk p && coreOk c) = true := by rw [partOk_of_lt hp, coreOk_of_lt hc]; rfl
  have hgo : (! s.media || ! s.coresLive || ! (x.scanHot c req v || s.gr.scanMine c req) || (scanBatch x.nb req).nq == 0 ||
      decide (64 < (scanBatch x.nb req).nq)) = false := by simp [hm, hlive, hscans, hpos, hle]
  rw [Index.scanHot, Grat.scanMine] at hgo
  rw [Index.scanNeeds, Index.scanHot] at hread
  simp only [exec, execScanRequest, -Nat.reducePow]
  rw [guardUnit_pos hok]
  simp only [hx, hv, hgo, hread, Bool.false_eq_true, if_false, -Nat.reducePow]
  cases bad with
  | some i => rfl
  | none => rfl

theorem scanRequest_scans (hread : State.scanPages s (ixNs p (fld req 0 2)) v (x.scanNeeds c req v) = (u, n, none))
    (hidle : u.ctxOn (x.merge * 8 + fld req 0x30 4 % 128 % 8) = none) :
    exec (.scanRequest p c req) s = next (u.scanned x req v) := by
  have htoken : bits (fld req 0x30 4) 6 0 = fld req 0x30 4 % 128 := by simp [bits]
  have hnone : (u.scanned x req v).ctxOn (x.merge * 8 + fld req 0x30 4 % 128 % 8) = none := hidle
  rw [exec_scanRequest hp hc hx hm hlive hv hpos hle hscans hread]
  simp only [State.scanOutcome, htoken, hnone]

end

theorem scanned_clu (u : State) (x : Index) (req : Bytes) (v : ListVer) :
    (∀ k, k ≠ x.merge → (u.scanned x req v).clu k = u.clu k) ∧ { u.scanned x req v with clus := u.clus } = u :=
  ⟨fun _ hk => clu_modClu_of_ne _ _ hk, rfl⟩

theorem scanned_spm (u : State) (x : Index) (req : Bytes) (v : ListVer) : ((u.scanned x req v).clu x.merge).spm =
    wrBytes (u.clu x.merge).spm (fld req 0x2C 4 % 0x800000) (x.scanRecords (u.clu x.merge).spm req v) := by
  rw [State.scanned, clu_modClu_self]

/-! ### PAGE_READ_REQUEST (R210, R212) -/

/-- The address of the slot of request m in the ring of a core, and that of its STATUS. -/
def State.ringSlot (s : State) (c m : Nat) : Nat := ringBase (mget 0 s.fch.ring (c - 640)) + 64 + 32 * (m % 64)

/-- What the issue of a request leaves: its STATUS pending, the request under way, and the next number. -/
def State.ringIssue (s : State) (c : Nat) (q : RingReq) : State :=
  ((s.modArch c fun y => { y with spm := wrLE y.spm (s.ringSlot c q.m + 4) 4 0 }).touchCore c (s.ringSlot c q.m + 4) 4).modFch fun f => { f with
    next := mset 0 f.next (c - 640) ((q.m + 1) % 2 ^ 32), reqs := f.reqs ++ [q] }

theorem stackSide_of_le {c : Nat} (h : 640 ≤ c) : stackSide c = false := decide_eq_false (Nat.not_lt.mpr h)

section
variable {s : State} {c : Nat} (hlo : 640 ≤ c) (hhi : c < 768) (hm : s.media = true) (hon : ringOn (mget 0 s.fch.ring (c - 640)) = true)

section
variable (hgo : s.fch.stopped.contains (c - 640) = false)
include hlo hhi hm hon hgo

theorem exec_pageReadRequest_overrun (hfar : 64 < (s.ringProd c + 2 ^ 32 - s.ringCons c) % 2 ^ 32) : exec (.pageReadRequest c) s =
    next ((s.modFch fun f => { f with stopped := setIns f.stopped (c - 640) }).coreFault c 0x02 false 0 (s.pcOf c) (ringBase (mget 0 s.fch.ring (c - 640)))) := by
  simp only [exec, execPageReadRequest, -Nat.reducePow]
  rw [guardUnit_pos (coreOk_of_lt hhi)]
  simp only [stackSide_of_le hlo, hm, hon, hgo, hfar, Bool.not_true, Bool.or_self, Bool.false_eq_true, if_false, if_true, -Nat.reducePow]

variable (hnear : (s.ringProd c + 2 ^ 32 - s.ringCons c) % 2 ^ 32 ≤ 64)
include hnear

theorem exec_pageReadRequest_caughtUp (hnext : mget 0 s.fch.next (c - 640) = s.ringProd c) : exec (.pageReadRequest c) s = next s := by
  simp only [exec, execPageReadRequest, -Nat.reducePow]
  rw [guardUnit_pos (coreOk_of_lt hhi)]
  simp only [stackSide_of_le hlo, hm, hon, hgo, Nat.not_lt.mpr hnear, hnext, Bool.not_true, Bool.or_self, Bool.false_eq_true, if_false, if_true,
    -Nat.reducePow]

theorem exec_pageReadRequest_issues (hnext : mget 0 s.fch.next (c - 640) ≠ s.ringProd c) :
    ∃ q : RingReq, q.core = c ∧ q.m = mget 0 s.fch.next (c - 640) ∧ exec (.pageReadRequest c) s = next (s.ringIssue c q) := by
  simp only [exec, execPageReadRequest, -Nat.reducePow]
  rw [guardUnit_pos (coreOk_of_lt hhi)]
  simp only [stackSide_of_le hlo, hm, hon, hgo, Nat.not_lt.mpr hnear, hnext, Bool.not_true, Bool.or_self, Bool.false_eq_true, if_false, -Nat.reducePow]
  exact ⟨{ core := c, m := mget 0 s.fch.next (c - 640), words := _, status := _, key := _, page := _ }, rfl, rfl, rfl⟩

end

section
variable (s c) (q : RingReq)

theorem ringIssue_fch : (s.ringIssue c q).fch = { s.fch with
    next := mset 0 s.fch.next (c - 640) ((q.m + 1) % 2 ^ 32), reqs := s.fch.reqs ++ [q] } := by
  rw [State.ringIssue, State.modFch]
  dsimp only
  rw [touchCore_fch]
  rfl

theorem ringIssue_pending : rdLE ((s.ringIssue c q).core c).arch.spm (s.ringSlot c q.m + 4) 4 = 0 := by
  have hspm : ((s.ringIssue c q).core c).arch.spm = wrLE (s.core c).arch.spm (s.ringSlot c q.m + 4) 4 0 :=
    (touchCore_spm _ c _ 4 c).trans (by rw [core_modArch_self])
  rw [hspm, rdLE_wrLE_self _ _ (by omega)]

theorem ringIssue_core_of_ne {d : Nat} (h : d ≠ c) : (s.ringIssue c q).core d = s.core d :=
  (core_touchCore_of_ne _ _ 4 h).trans (core_modArch_of_ne s _ h)

theorem ringIssue_frame : { s.ringIssue c q with fch := s.fch, cores := s.cores } = s :=
  (congrArg (fun t : State => { t with fch := s.fch, cores := s.cores })
    (touchCore_frame (s.modArch c fun y => { y with spm := wrLE y.spm (s.ringSlot c q.m + 4) 4 0 }) c (s.ringSlot c q.m + 4) 4) :)

end

end

/-! ### PAGE_READ_COMPLETE (R211) -/

/-- What a completed request writes into the scratchpad of its core: its STATUS, and CONS advanced. -/
def ringWritten (base m st : Nat) (spm : Mem) : Mem :=
  let written := wrLE spm (base + 64 + 32 * (m % 64) + 4) 4 st
  wrLE written (base + 4) 4 ((rdLE written (base + 4) 4 + 1) % 2 ^ 32)

theorem ringWritten_status (base m : Nat) {st : Nat} (spm : Mem) (h : st < 2 ^ 32) :
    rdLE (ringWritten base m st spm) (base + 64 + 32 * (m % 64) + 4) 4 = st := by
  rw [ringWritten, rdLE_wrLE_of_disjoint _ _ (.inr (by omega)), rdLE_wrLE_self _ _ (by omega)]

theorem ringWritten_cons (base m st : Nat) (spm : Mem) : rdLE (ringWritten base m st spm) (base + 4) 4 = (rdLE spm (base + 4) 4 + 1) % 2 ^ 32 := by
  rw [ringWritten, rdLE_wrLE_self _ _ (by omega), rdLE_wrLE_of_disjoint _ _ (.inl (by omega))]

/-- The two words of a ring that a completion writes, as its core's list sees them. -/
def State.ringTouch (s : State) (c m : Nat) : State :=
  let base := ringBase (mget 0 s.fch.ring (c - 640))
  (s.touchCore c (base + 64 + 32 * (m % 64) + 4) 4).touchCore c (base + 4) 4

/-- A core's image with the words that a completion writes. -/
def Arch.ringWrite (base m st : Nat) (a : Arch) : Arch := { a with spm := ringWritten base m st a.spm }

/-- What a completion without a page leaves before its token is posted. -/
def State.ringEnd (s : State) (c m st : Nat) : State :=
  ((s.ringTouch c m).modArch c (Arch.ringWrite (ringBase (mget 0 s.fch.ring (c - 640))) m st)).modFch
    fun f => { f with reqs := f.reqs.filter fun x => ! (x.core == c && x.m == m) }

section
variable (s : State) (c m st : Nat)

theorem ringTouch_spm : ((s.ringTouch c m).core c).arch.spm = (s.core c).arch.spm := (touchCore_spm _ c _ 4 c).trans (touchCore_spm s c _ 4 c)

theorem ringTouch_rdK (k : Nat) : ((s.ringTouch c m).core c).arch.rdK k = (s.core c).arch.rdK k :=
  (touchCore_rdK _ c _ 4 c k).trans (touchCore_rdK s c _ 4 c k)

theorem ringTouch_fch : (s.ringTouch c m).fch = s.fch := (touchCore_fch _ c _ 4).trans (touchCore_fch s c _ 4)

theorem ringTouch_gr : (s.ringTouch c m).gr = s.gr := (touchCore_gr _ c _ 4).trans (touchCore_gr s c _ 4)

theorem ringTouch_core_of_ne {d : Nat} (h : d ≠ c) : (s.ringTouch c m).core d = s.core d :=
  (core_touchCore_of_ne _ _ 4 h).trans (core_touchCore_of_ne s _ 4 h)

theorem ringEnd_core : (s.ringEnd c m st).core c = { (s.ringTouch c m).core c with
    arch := ((s.ringTouch c m).core c).arch.ringWrite (ringBase (mget 0 s.fch.ring (c - 640))) m st } :=
  core_modArch_self (s.ringTouch c m) c (Arch.ringWrite (ringBase (mget 0 s.fch.ring (c - 640))) m st)

theorem ringEnd_spm : ((s.ringEnd c m st).core c).arch.spm = ringWritten (ringBase (mget 0 s.fch.ring (c - 640))) m st (s.core c).arch.spm := by
  rw [ringEnd_core, Arch.ringWrite, ringTouch_spm]

theorem ringEnd_rdK (k : Nat) : ((s.ringEnd c m st).core c).arch.rdK k = (s.core c).arch.rdK k := by
  rw [ringEnd_core]
  exact ringTouch_rdK s c m k

theorem ringEnd_core_of_ne {d : Nat} (h : d ≠ c) : (s.ringEnd c m st).core d = s.core d :=
  (core_modArch_of_ne (s.ringTouch c m) (Arch.ringWrite (ringBase (mget 0 s.fch.ring (c - 640))) m st) h).trans (ringTouch_core_of_ne s c m h)

theorem ringEnd_gr : (s.ringEnd c m st).gr = s.gr := ringTouch_gr s c m

theorem ringEnd_reqs : (s.ringEnd c m st).fch.reqs = s.fch.reqs.filter fun x => ! (x.core == c && x.m == m) := by
  rw [← ringTouch_fch s c m]
  rfl

end

/-- A post that a token holds leaves the rest of its core, the other cores, and what the page reads keep. -/
theorem postLive_posted {s : State} {c k : Nat} (src pc : Nat) (h : (s.core c).arch.rdK k < 65535) :
    ((s.postLive c k 1 src pc).core c).arch.rdK k = (s.core c).arch.rdK k + 1 ∧
      ((s.postLive c k 1 src pc).core c).arch.spm = (s.core c).arch.spm ∧ (∀ d, d ≠ c → (s.postLive c k 1 src pc).core d = s.core d) ∧
      (s.postLive c k 1 src pc).fch = s.fch ∧ (s.postLive c k 1 src pc).gr = s.gr := by
  rw [postLive_of_some src pc (post_some (Nat.succ_le_of_lt h)), refreshOn_core, core_modCore_self]
  refine ⟨rdK_posted (Nat.succ_le_of_lt h), rfl, fun d hd => ?_, (congrArg State.fch (refreshOn_frame _ c) :), (congrArg State.gr (refreshOn_frame _ c) :)⟩
  rw [refreshOn_core, core_modCore_of_ne _ _ hd]

/-- A request that reads no page ends with the status that its translation gave it. -/
theorem exec_pageReadComplete_status {s : State} {c m : Nat} {q : RingReq} (o : ReadOutcome) (hhi : c < 768) (hm : s.media = true)
    (hon : ringOn (mget 0 s.fch.ring (c - 640)) = true) (hq : s.fch.reqs.find? (fun q => q.core == c && q.m == m) = some q)
    (hst : q.status ≠ 0) : exec (.pageReadComplete c m o) s =
      next ((s.ringEnd c m q.status).postLive c (bits (q.words.getD 0 0) 12 8) 1 0 ((s.ringEnd c m q.status).pcOf c)) := by
  simp only [exec, execPageReadComplete, -Nat.reducePow]
  rw [guardUnit_pos (coreOk_of_lt hhi)]
  simp only [hq, hm, hon, hst, Bool.not_true, Bool.or_self, Bool.false_eq_true, if_false, ne_eq, not_false_eq_true, if_true, Option.isSome_none,
    -Nat.reducePow]
  rfl

theorem bits_notify (w : Nat) : bits w 12 8 = w / 2 ^ 8 % 32 := rfl

/-! ### FCH_REQ_RING_EN (R212) -/

theorem ringOn_masked (v : BitVec 32) : ringOn (v &&& 0x800FFFC0) = v.getLsbD 31 := by
  simp [ringOn]

/-- A write of the register of ring k. -/
def State.ringSet (s : State) (k : Nat) (w : BitVec 32) : State := s.modFch fun f => { f with ring := mset 0 f.ring k w }

/-- What arming ring k leaves: it goes on from PROD, where CONS stands. -/
def State.ringArmed (s : State) (k : Nat) (w : BitVec 32) : State :=
  let t := s.ringSet k w
  let prod := t.ringProd (640 + k)
  ((t.modFch fun f => { f with stopped := setDel f.stopped k, next := mset 0 f.next k prod }).modArch (640 + k) fun y =>
    { y with spm := wrLE y.spm (ringBase w + 4) 4 prod }).touchCore (640 + k) (ringBase w + 4) 4

section
variable {s : State} {die j : Nat} {v : BitVec 32} (hlo : 20 ≤ die) (hhi : die < 36) (hj : j < 8) (halive : s.alive 6 = true)
include hlo hhi hj halive

theorem exec_fchReqRingEn : exec (.fchReqRingEn die j v) s = next
    (if ringOn (v &&& 0x800FFFC0) && ! ringOn (mget 0 s.fch.ring ((die - 20) * 8 + j)) then s.ringArmed ((die - 20) * 8 + j) (v &&& 0x800FFFC0)
      else s.ringSet ((die - 20) * 8 + j) (v &&& 0x800FFFC0)) := by
  have hok : (chanDieOk die && ringOk j) = true := by simp [chanDieOk, ringOk, hlo, hhi, hj]
  simp only [exec, execFchReqRingEn]
  rw [guardUnit_pos hok, if_neg (by simp [halive])]
  split
  · rfl
  · rfl

end

theorem ringProd_of_ring {s : State} {k : Nat} {w : BitVec 32} (h : mget 0 s.fch.ring k = w) :
    s.ringProd (640 + k) = rdLE (s.core (640 + k)).arch.spm (ringBase w) 4 := by
  rw [State.ringProd, Nat.add_sub_cancel_left, h]

theorem ringCons_of_ring {s : State} {k : Nat} {w : BitVec 32} (h : mget 0 s.fch.ring k = w) :
    s.ringCons (640 + k) = rdLE (s.core (640 + k)).arch.spm (ringBase w + 4) 4 := by
  rw [State.ringCons, Nat.add_sub_cancel_left, h]

section
variable (s : State) (k : Nat) (w : BitVec 32)

theorem ringSet_ring : mget 0 (s.ringSet k w).fch.ring k = w := mget_mset_self _ _ _ _

theorem ringArmed_fch : (s.ringArmed k w).fch = { s.fch with
    ring := mset 0 s.fch.ring k w, stopped := setDel s.fch.stopped k, next := mset 0 s.fch.next k ((s.ringSet k w).ringProd (640 + k)) } := by
  rw [State.ringArmed, touchCore_fch]
  rfl

theorem ringArmed_spm : ((s.ringArmed k w).core (640 + k)).arch.spm =
    wrLE (s.core (640 + k)).arch.spm (ringBase w + 4) 4 ((s.ringSet k w).ringProd (640 + k)) := by
  rw [State.ringArmed, touchCore_spm, core_modArch_self]
  rfl

theorem ringArmed_ring : mget 0 (s.ringArmed k w).fch.ring k = w := by rw [ringArmed_fch, mget_mset_self]

theorem ringArmed_prod : (s.ringArmed k w).ringProd (640 + k) = (s.ringSet k w).ringProd (640 + k) := by
  rw [ringProd_of_ring (ringArmed_ring s k w), ringArmed_spm, rdLE_wrLE_of_disjoint _ _ (.inl le_rfl), ringProd_of_ring (ringSet_ring s k w)]
  rfl

theorem ringArmed_cons : (s.ringArmed k w).ringCons (640 + k) = (s.ringArmed k w).ringProd (640 + k) := by
  rw [ringArmed_prod, ringCons_of_ring (ringArmed_ring s k w), ringArmed_spm, rdLE_wrLE_self]
  exact rdLE_lt _ _ 4

theorem ringArmed_runs : (s.ringArmed k w).fch.stopped.contains k = false := by
  rw [ringArmed_fch]
  simp [setDel]

theorem ringArmed_next : mget 0 (s.ringArmed k w).fch.next k = (s.ringArmed k w).ringProd (640 + k) := by
  rw [ringArmed_prod, ringArmed_fch, mget_mset_self]

end

/-! ### The statement -/

/-- Settles O46: a scan by its merge cluster, and each event of a ring by the words of its core's scratchpad. -/
theorem scansAndRings : Obligations.ScansAndRings := by
  refine ⟨fun s p c req x v hp hc hx hm hlive hv hpos hle hscans => ?_, fun s c hlo hhi hm hon hgo => ⟨fun hfar => ?_, fun hnear hnext => ?_,
    fun hnear hnext => exec_pageReadRequest_caughtUp hlo hhi hm hon hgo hnear hnext⟩, fun s c m o q hlo hhi hm hon hq hst hlt htok => ?_,
    fun s die j v hlo hhi hj halive => ⟨fun hen hwas => ?_, fun hen => ?_⟩⟩
  · have hgo : (x.scanHot c req v || s.gr.scanMine c req) = true := by
      rcases hscans with h | ⟨h, hmine⟩
      · rw [Index.scanHot, h, Bool.true_or]
      · rw [Grat.scanMine, h, hmine, Bool.not_false, Bool.true_and, beq_self_eq_true, Bool.or_true]
    refine ⟨fun u n hread hidle => ?_, fun u n i hread => exec_scanRequest hp hc hx hm hlive hv hpos hle hgo hread⟩
    obtain ⟨hother, hframe⟩ := scanned_clu u x req v
    exact ⟨_, scanRequest_scans hp hc hx hm hlive hv hpos hle hgo hread hidle, scanned_spm u x req v, hother, hframe⟩
  · exact ⟨_, exec_pageReadRequest_overrun hlo hhi hm hon hgo hfar, rfl, rfl⟩
  · obtain ⟨q, hcore, hnum, hexec⟩ := exec_pageReadRequest_issues hlo hhi hm hon hgo hnear hnext
    refine ⟨_, q, hexec, ?_, hcore, hnum, ?_, ?_, fun d hd => ringIssue_core_of_ne s c q hd, ringIssue_frame s c q⟩
    · rw [ringIssue_fch]
    · rw [ringIssue_fch, mget_mset_self, hnum]
    · rw [← hnum]
      exact ringIssue_pending s c q
  · have htok' : ((s.ringEnd c m q.status).core c).arch.rdK (bits (q.words.getD 0 0) 12 8) < 65535 := by rw [ringEnd_rdK, bits_notify]; exact htok
    obtain ⟨hrdK, hspm, hother, hfch, hgr⟩ := postLive_posted 0 ((s.ringEnd c m q.status).pcOf c) htok'
    refine ⟨_, exec_pageReadComplete_status o hhi hm hon hq hst, ?_, ?_, ?_, ?_, hgr.trans (ringEnd_gr s c m _),
      fun d hd => (hother d hd).trans (ringEnd_core_of_ne s c m _ hd)⟩
    · rw [hspm, ringEnd_spm, ringWritten_status _ _ _ hlt]
    · rw [hspm, ringEnd_spm, ringWritten_cons, State.ringCons]
    · rw [← bits_notify, hrdK, ringEnd_rdK]
    · rw [hfch, ringEnd_reqs]
  · rw [exec_fchReqRingEn hlo hhi hj halive, ringOn_masked, hen, hwas, Bool.not_false, Bool.true_and, if_pos rfl]
    exact ⟨_, rfl, ringArmed_ring _ _ _, ringArmed_cons _ _ _, ringArmed_runs _ _ _, ringArmed_next _ _ _⟩
  · rw [exec_fchReqRingEn hlo hhi hj halive, ringOn_masked, hen, Bool.false_and, if_neg Bool.false_ne_true]
    exact ⟨_, rfl, ringSet_ring _ _ _, rfl, rfl⟩

end Sys2Proof.Machine

/-! PROOF. What Graticule's acts on its flash leave (12 R503 to R515): a page read with its retry path, a relocation and a superblock's end reach no core, no
memory, no namespace and no filter. -/

namespace Sys2Proof.Machine

open Sys2Proof.Claims

/-- Between two states Graticule has acted on its flash: its frame stands, and what the flash-side cores serve. -/
structure FlashAct (s t : State) : Prop where
  frame : flashFrame s t
  fch : t.fch = s.fch

namespace FlashAct

theorem refl (s : State) : FlashAct s s := ⟨⟨rfl, rfl, rfl, rfl, rfl, rfl⟩, rfl⟩

theorem trans {s t u : State} (h : FlashAct s t) (h' : FlashAct t u) : FlashAct s u := by
  obtain ⟨⟨hcores, hclus, hdram, hsched, hns, hslots⟩, hfch⟩ := h
  obtain ⟨⟨hcores', hclus', hdram', hsched', hns', hslots'⟩, hfch'⟩ := h'
  exact ⟨⟨hcores'.trans hcores, hclus'.trans hclus, hdram'.trans hdram, hsched'.trans hsched, hns'.trans hns, hslots'.trans hslots⟩, hfch'.trans hfch⟩

/-- An act whose result is named: what it leaves is as its first component. -/
theorem of_fst {α : Type} {s t : State} {x : State × α} {a : α} (h : x = (t, a)) (hx : FlashAct s x.1) : FlashAct s t := by
  rw [h] at hx
  exact hx

theorem cores {s t : State} (h : FlashAct s t) : t.cores = s.cores := h.frame.1

theorem ns {s t : State} (h : FlashAct s t) : t.gr.ns = s.gr.ns := by
  obtain ⟨-, -, -, -, hns, -⟩ := h.frame
  exact hns

theorem foldl {α : Type} {f : State → α → State} (hf : ∀ s x, FlashAct s (f s x)) (l : List α) (s : State) : FlashAct s (l.foldl f s) := by
  induction l generalizing s with
  | nil => exact refl s
  | cons x l ih => exact (hf s x).trans (ih _)

theorem modGr (s : State) (f : Grat → Grat) (hns : ∀ g, (f g).ns = g.ns := by intro _; rfl) (hslots : ∀ g, (f g).slots = g.slots := by intro _; rfl) :
    FlashAct s (s.modGr f) :=
  ⟨⟨rfl, rfl, rfl, rfl, hns _, hslots _⟩, rfl⟩

theorem modFblk (s : State) (k : Nat) (f : FBlk → FBlk) : FlashAct s (s.modFblk k f) := modGr s _

theorem takeFree (s : State) : FlashAct s s.takeFree.2 := ⟨⟨rfl, rfl, rfl, rfl, rfl, rfl⟩, rfl⟩

theorem retryPath (s : State) : FlashAct s s.retryPath.1 := takeFree s

theorem fbRecord (s : State) (code : Nat) (p : Bytes) : FlashAct s (s.fbRecord code p) := by
  have h := fbRecord_frame s code p
  have hgr : (s.fbRecord code p).gr = s.gr := congrArg (·.gr) h
  exact ⟨⟨congrArg (·.cores) h, congrArg (·.clus) h, congrArg (·.dram) h, congrArg (·.sched) h, congrArg Grat.ns hgr, congrArg Grat.slots hgr⟩,
    congrArg (·.fch) h⟩

theorem setEvt (s : State) (b : Blk) (n : Nat) : FlashAct s (s.setEvt b n) := by
  have h := setEvt_frame s b n
  have hgr : (s.setEvt b n).gr = s.gr := congrArg (·.gr) h
  exact ⟨⟨congrArg (·.cores) h, congrArg (·.clus) h, congrArg (·.dram) h, congrArg (·.sched) h, congrArg Grat.ns hgr, congrArg Grat.slots hgr⟩,
    congrArg (·.fch) h⟩

theorem countErr (s : State) (b : Blk) : FlashAct s (s.countErr b) := ⟨⟨rfl, rfl, rfl, rfl, rfl, rfl⟩, rfl⟩

theorem raise (s : State) (b : Blk) (n code : Nat) (p : Bytes) : FlashAct s (s.raise b n code p) :=
  (setEvt s b n).trans ((countErr _ _).trans (fbRecord _ _ _))

/-! ### Programming a page (R503 to R508) -/

theorem assemble (s : State) (kind grp carried : Nat) (worn : Bool) : FlashAct s (s.assemble kind grp carried worn).1 := by
  unfold State.assemble
  dsimp only
  split
  · exact refl s
  · dsimp only
    refine (foldl (fun t b => ?_) _ s).trans (modGr _ _)
    cases b with
    | none => exact refl t
    | some k => exact modFblk t k _

theorem growComps (s : State) (n : Nat) : FlashAct s (s.growComps n) := by
  unfold State.growComps
  split
  · exact refl s
  · split
    · exact refl s
    · split
      · exact refl s
      · exact (modFblk s _ _).trans (modGr _ _)

theorem programAt (s : State) (n place : Nat) : FlashAct s (s.programAt n place) := by
  unfold State.programAt
  split
  · exact refl s
  · dsimp only
    exact (modGr s _).trans (growComps _ _)

theorem placePage (s : State) (kind grp : Nat) (pos : Option Nat) (carried : Nat) (worn : Bool) :
    FlashAct s (s.placePage kind grp pos carried worn).1 := by
  unfold State.placePage
  extract_lets fits
  clear_value fits
  split
  next t num hpick =>
  have ht : FlashAct s t := by
    cases fits with
    | some e => cases hpick; exact refl s
    | none => exact of_fst hpick (assemble s kind grp carried worn)
  split
  · exact ht
  split
  · exact ht
  split
  · exact ht
  split
  · exact ht
  · exact ht.trans (programAt _ _ _)

theorem programPage (s : State) (ns u : Nat) (data : Mem) (dir : Option (Nat × Nat)) (handle : Nat) (reloc : Bool) (carried : Nat) (worn : Bool) :
    FlashAct s (s.programPage ns u data dir handle reloc carried worn).1 := by
  unfold State.programPage
  dsimp only
  split
  · next hplace => exact of_fst hplace (placePage s _ _ _ _ _)
  · next hplace =>
    dsimp only
    exact (of_fst hplace (placePage s _ _ _ _ _)).trans (modGr _ _)

/-! ### Relocating and reading a page (R509 to R511, R515) -/

theorem relocateAs (s : State) (a handle age : Nat) (worn : Bool) : FlashAct s (s.relocateAs a handle age worn) := by
  unfold State.relocateAs
  split
  · exact refl s
  · split
    · exact refl s
    · split
      · exact refl s
      · next hprog => exact (of_fst hprog (programPage s _ _ _ _ _ _ _ _)).trans ((modGr _ _).trans (modGr _ _))

theorem relocate (s : State) (a : Nat) (worn : Bool) : FlashAct s (s.relocate a worn) := relocateAs s a _ _ worn

theorem rescue (s : State) (a status : Nat) (worn : Bool) : FlashAct s (s.rescue a status worn) := by
  unfold State.rescue
  dsimp only
  split
  · exact ((relocate s a worn).trans (modGr _ _)).trans (fbRecord _ _ _)
  · exact ((relocate s a worn).trans (takeFree _)).trans (fbRecord _ _ _)

theorem pageRead (s : State) (ns u a : Nat) (o : ReadOutcome) (worn : Bool) : FlashAct s (s.pageRead ns u a o worn).1 := by
  have hcount : FlashAct s (s.modFblk (a / 2500) fun x => { x with reads := x.reads + 1 }) := modFblk s _ _
  unfold State.pageRead
  cases o with
  | direct => exact hcount
  | retried n => dsimp only; exact hcount.trans (modGr _ _)
  | deep => dsimp only; exact hcount.trans ((modGr _ _).trans (rescue _ _ _ _))
  | rebuilt => dsimp only; exact hcount.trans ((modGr _ _).trans (rescue _ _ _ _))
  | unreadable =>
    dsimp only
    split
    · exact hcount
    · exact hcount.trans ((modGr _ _).trans (raise _ _ _ _ _))

theorem readUnitAs (s : State) (ns u : Nat) (o : ReadOutcome) : FlashAct s (s.readUnitAs ns u o).1 := by
  unfold State.readUnitAs
  split
  · exact refl s
  split
  · exact refl s
  · next e _ =>
    split
    · exact refl s
    split
    · exact refl s
    · split
      · next hr => exact of_fst hr (pageRead s ns u e.addr o false)
      · next hr => exact of_fst hr (pageRead s ns u e.addr o false)

theorem readUnit (s : State) (ns u : Nat) : FlashAct s (s.readUnit ns u).1 := by
  unfold State.readUnit
  extract_lets flash
  split
  · exact (retryPath s).trans (readUnitAs _ _ _ _)
  · exact readUnitAs _ _ _ _

theorem relocateAll (s : State) (ps : List (Nat × FPage)) (worn : Bool) : FlashAct s (s.relocateAll ps worn) := by
  unfold State.relocateAll
  refine foldl (fun t e => ?_) ps s
  have hread := (retryPath t).trans (pageRead t.retryPath.1 e.2.ns e.2.unit e.1 t.retryPath.2 worn)
  dsimp only
  split
  · next hr => exact (of_fst hr hread).trans (relocate _ _ _)
  · next hr => exact of_fst hr hread

/-! ### The end of a superblock (R515, R516) -/

theorem queueErase (s : State) (k : Nat) : FlashAct s (s.queueErase k) := by
  unfold State.queueErase
  split
  · exact modFblk s _ _
  · exact refl s

theorem dissolve (s : State) (n : Nat) : FlashAct s (s.dissolve n) := by
  unfold State.dissolve
  split
  · exact refl s
  · split
    · exact refl s
    · exact (foldl queueErase _ s).trans (modGr _ _)

end FlashAct

end Sys2Proof.Machine

/-! PROOF. Filter images and runs, and what serving a page of a run reads (06 R237 to R242, R252, R257). -/

namespace Sys2Proof.Machine

open Sys2Proof.Claims

theorem mem_of_lget {α : Type} {l : List (Nat × α)} {k : Nat} {v : α} (h : lget l k = some v) : (k, v) ∈ l := by
  obtain ⟨⟨j, w⟩, hfind, rfl⟩ := Option.map_eq_some_iff.mp h
  obtain rfl : j = k := by simpa using List.find?_some hfind
  exact List.mem_of_find?_eq_some hfind

theorem mget_mmod_self {α : Type} [DecidableEq α] (d : α) (m : NMap α) (x : Nat) (f : α → α) : mget d (mmod d m x f) x = f (mget d m x) :=
  mget_mset_self d m x _

/-! ### Images (R237) -/

/-- The lowest handle that passes a test is the one that is found. -/
theorem find_lowestHandle {n h : Nat} {p : Nat → Bool} (hlo : 1 ≤ h) (hhi : h ≤ n) (hp : p h = true) (hlow : ∀ m, 1 ≤ m → m < h → p m = false) :
    ((List.range n).map (· + 1)).find? p = some h := by
  rw [List.find?_map, Option.map_eq_some_iff]
  refine ⟨h - 1, List.find?_range_eq_some.mpr ⟨?_, List.mem_range.mpr (by omega), fun m hm => ?_⟩, by omega⟩
  · rw [Function.comp_apply, Nat.sub_add_cancel hlo, hp]
  · rw [Function.comp_apply, hlow (m + 1) (by omega) (by omega)]
    rfl

@[simp] theorem running_fch (s : State) (r : CmdRef) : (running s r).fch = s.fch := rfl

section
variable {s : State} {r : CmdRef} {c : Cmd}

theorem exec_flLoad (h : starts s r 0x20 c) {k : Nat} (hroom : (s.fch.images.filter fun e => e.1 / 65536 == r.part).length < 64) (hlo : 1 ≤ k) (hhi : k ≤ 65)
    (hfree : lget s.fch.images (flKey r.part k) = none) (hlow : ∀ m, 1 ≤ m → m < k → (lget s.fch.images (flKey r.part m)).isSome = true) :
    exec (.flLoad r) s = next (((running s r).modFch fun f => { f with images := lset f.images (flKey r.part k) (imageOf c.data) }).cmdDone r
      (leBytes 2 k) none) := by
  have hfind : ((List.range 65).map (· + 1)).find? (fun m => (lget s.fch.images (flKey r.part m)).isNone) = some k :=
    find_lowestHandle hlo hhi (Option.isNone_iff_eq_none.mpr hfree) fun m h1 h2 => by rw [Option.isNone_eq_false_iff]; exact hlow m h1 h2
  simp only [exec, execFlLoad]
  rw [startCmd_starts h, running_fch, if_neg (Nat.not_le.mpr hroom)]
  simp only [hfind]

theorem exec_flLoad_full (h : starts s r 0x20 c) (hfull : 64 ≤ (s.fch.images.filter fun e => e.1 / 65536 == r.part).length) :
    exec (.flLoad r) s = next ((running s r).cmdFail r 6 []) := by
  simp only [exec, execFlLoad]
  rw [startCmd_starts h, running_fch, if_pos hfull]

theorem exec_flUnload (h : starts s r 0x21 c) (he : (s.earlier c fun d => d.opcode == 0x22 && flHandle d == flHandle c) = false) : exec (.flUnload r) s =
    next (((running s r).modFch fun f => { f with images := ldel f.images (flKey r.part (flHandle c)) }).cmdDone r [] none) := by
  simp only [exec, execFlUnload]
  rw [startWhen_starts h (by rw [he]; rfl)]

theorem exec_flRun (h : starts s r 0x22 c) : exec (.flRun r) s = next ((running s r).modFch fun f => { f with runs := f.runs ++ [{ ref := r }] }) := by
  simp only [exec, execFlRun]
  rw [startCmd_starts h]

end

/-! ### A page to be served (R240, R257) -/

/-- Page `i` of the run of command `r` can be served on core `c` now. -/
structure Servable (s : State) (r : CmdRef) (i c : Nat) (cmd : Cmd) (run : FlRun) (img : FlImage) : Prop where
  isCmd : s.cmd? r = some cmd
  isRun : s.fch.runs.find? (·.ref == r) = some run
  isImg : lget s.fch.images (flKey r.part (flHandle cmd)) = some img
  media : s.media = true
  live : s.coresLive = true
  page : i < flTotal cmd.data 0
  waits : s.flWaits run i = true
  free : s.fchFree c = true
  serves : s.flServes cmd.data run i c = true

/-- The rotation of a partition's commands on a core has come to a command. -/
def State.turned (s : State) (r : CmdRef) (c : Nat) : State :=
  s.modFch fun f => { f with lastCmd := mset 0 f.lastCmd (c * 16 + r.part) (s.admOf r) }

/-- A quantum is served to a run on a core, which has read `n` pages from flash. -/
def State.pageServed (s : State) (r : CmdRef) (c n : Nat) : State :=
  (s.serveQuantum c r.part).modFch fun f => { f with runs := f.runs.map fun x => if x.ref == r then { x with pagesRead := x.pagesRead + n } else x }

section
variable {s t : State} {r : CmdRef} {i c n : Nat} {cmd : Cmd} {run : FlRun} {img : FlImage}

theorem Servable.turned (h : Servable s r i c cmd run img) : Servable (s.turned r c) r i c cmd run img :=
  ⟨h.isCmd, h.isRun, h.isImg, h.media, h.live, h.page, h.waits, h.free, h.serves⟩

theorem Servable.not_refused (h : Servable s r i c cmd run img) : (! s.media || ! s.coresLive || decide (flTotal cmd.data 0 ≤ i) || ! s.flWaits run i ||
    ! s.fchFree c || ! s.flServes cmd.data run i c) = false := by
  simp [h.media, h.live, h.page, h.waits, h.free, h.serves]

/-- The pages of a servable page's streams are read: the invocation enters. -/
theorem Servable.flInvoke_read (h : Servable s r i c cmd run img) {pages : List Mem}
    (hp : s.flPages cmd.data r.part i (List.range (flStreams cmd.data)) = (t, n, some pages)) :
    s.flInvoke r i c = (t.pageServed r c n).flEnter r i c cmd.data img pages := by
  unfold State.flInvoke
  simp only [h.isCmd, h.isRun, h.isImg, h.not_refused, hp, Bool.false_eq_true, if_false]
  rfl

/-- A page of a stream is unreadable: the page is skipped, or fails the run (R252). -/
theorem Servable.flInvoke_unread (h : Servable s r i c cmd run img)
    (hp : s.flPages cmd.data r.part i (List.range (flStreams cmd.data)) = (t, n, none)) :
    s.flInvoke r i c = if flPartial cmd.data then (t.pageServed r c n).flPart r { page := i, out := none } false
      else ((t.pageServed r c n).flDrop r).cmdFail r 0x11 (leBytes 8 i) := by
  unfold State.flInvoke
  simp only [h.isCmd, h.isRun, h.isImg, h.not_refused, hp, Bool.false_eq_true, if_false]
  rfl

end

/-! ### Reading the streams' pages (R242, R252) -/

section
variable {s : State} {ns u p i : Nat} {d : Bytes}

/-- A unit in the write buffer or unmapped is read without its flash. -/
theorem readUnit_holds {m : Mem} (h : holds s ns u m) : s.readUnit ns u = (s, some m) := by
  obtain ⟨hun, ⟨hno, rfl⟩ | ⟨n, x, he, hx, rfl⟩⟩ := h
  · simp only [State.readUnit, State.readUnitAs, hun, hno, Bool.false_eq_true, if_false]
  · simp only [State.readUnit, State.readUnitAs, hun, he, hx, Bool.not_true, Bool.false_and, Bool.false_eq_true, if_false, if_true, Option.map_some,
      Option.getD_some]

theorem readUnit_unread (h : s.gr.unread.contains (unitKey ns u) = true) : s.readUnit ns u = (s, none) := by
  have hread (o : ReadOutcome) : s.readUnitAs ns u o = (s, none) := if_pos h
  unfold State.readUnit
  split <;> simp only [h, hread, Bool.not_true, Bool.and_false, Bool.false_eq_true, if_false]

theorem flPages_holds {pg : Nat → Mem} {ks : List Nat} (h : ∀ k ∈ ks, holds s (nsKey p (fld d 4 2)) (flUnit d k i) (pg k)) :
    s.flPages d p i ks = (s, 0, some (ks.map pg)) := by
  induction ks with
  | nil => rfl
  | cons k ks ih =>
    have hk := h k (List.mem_cons_self ..)
    have hbuf : (s.entry? (nsKey p (fld d 4 2)) (flUnit d k i)) = none ∨
        ∃ n, s.entry? (nsKey p (fld d 4 2)) (flUnit d k i) = some { buf := true, addr := n } := by
      obtain ⟨-, ⟨hno, -⟩ | ⟨n, -, he, -⟩⟩ := hk
      · exact .inl hno
      · exact .inr ⟨n, he⟩
    rw [State.flPages]
    simp only [readUnit_holds hk, ih fun j hj => h j (List.mem_cons_of_mem _ hj)]
    obtain hno | ⟨n, he⟩ := hbuf
    · simp only [hno]; rfl
    · simp only [he]; rfl

/-- An unreadable page of the first stream ends the reading. -/
theorem flPages_unread {k : Nat} (ks : List Nat) (h : s.gr.unread.contains (unitKey (nsKey p (fld d 4 2)) (flUnit d k i)) = true) :
    ∃ n, s.flPages d p i (k :: ks) = (s, n, none) := by
  rw [State.flPages]
  simp only [readUnit_unread h]
  exact ⟨_, rfl⟩

theorem flPages_flashAct (s : State) (d : Bytes) (p i : Nat) (ks : List Nat) : FlashAct s (s.flPages d p i ks).1 := by
  induction ks generalizing s with
  | nil => exact .refl s
  | cons k ks ih =>
    have hread := FlashAct.readUnit s (nsKey p (fld d 4 2)) (flUnit d k i)
    rw [State.flPages]
    split
    · next hr => exact .of_fst hr hread
    · next t m hr =>
      have hrest := (FlashAct.of_fst hr hread).trans (ih t)
      split
      · next hp => exact .of_fst hp hrest
      · next hp => exact .of_fst hp hrest

theorem range_flStreams (d : Bytes) : List.range (flStreams d) = 0 :: (List.range (bits (fld d 4 4) 20 19)).map Nat.succ := List.range_succ_eq_map

end

/-! ### The end of a run's work (R251) -/

section
variable (s : State) (r : CmdRef)

/-- The cores of a run's invocations. -/
def State.flCores (s : State) (r : CmdRef) : List Nat := (s.fch.invs.filter fun e => e.2.ref == r).map (·.1)

theorem flDrop_eq : s.flDrop r = ((s.flCores r).foldl (fun t c => t.modCore c Core.scrubbed) s).modFch fun f =>
    { f with runs := f.runs.filter (·.ref != r), invs := f.invs.filter fun e => e.2.ref != r } := by
  rw [State.flCores, List.foldl_map]
  rfl

theorem flDrop_frame : { s.flDrop r with cores := s.cores, fch := s.fch } = s := by
  rw [flDrop_eq]
  exact congrArg (fun t : State => { t with fch := s.fch }) (foldl_modCore_frame Core.scrubbed (s.flCores r) s)

theorem flDrop_fch : (s.flDrop r).fch = { s.fch with runs := s.fch.runs.filter (·.ref != r), invs := s.fch.invs.filter fun e => e.2.ref != r } := by
  have hfch : ((s.flCores r).foldl (fun t c => t.modCore c Core.scrubbed) s).fch = s.fch :=
    (congrArg State.fch (foldl_modCore_frame Core.scrubbed (s.flCores r) s) :)
  rw [flDrop_eq, modFch_fch, hfch]

theorem flDrop_quanta : (s.flDrop r).fch.quanta = s.fch.quanta := by rw [flDrop_fch]
theorem flDrop_lastCmd : (s.flDrop r).fch.lastCmd = s.fch.lastCmd := by rw [flDrop_fch]
theorem flDrop_gr : (s.flDrop r).gr = s.gr := (congrArg State.gr (flDrop_frame s r) :)
theorem flDrop_host : (s.flDrop r).host = s.host := (congrArg State.host (flDrop_frame s r) :)
theorem flDrop_frz : (s.flDrop r).frz = s.frz := (congrArg State.frz (flDrop_frame s r) :)

theorem flDrop_core (c : Nat) : (s.flDrop r).core c = if c ∈ s.flCores r then (s.core c).scrubbed else s.core c := by
  rw [flDrop_eq]
  exact foldl_modCore_core Core.scrubbed (fun _ => rfl) (s.flCores r) s c

end

end Sys2Proof.Machine

/-! PROOF. Filter invocations (06 R241 to R245, R251): what a call of a filter finds on its core, and what an overrun or a fault of it leaves. -/

namespace Sys2Proof.Machine

open Sys2Proof.Claims

/-! ### The call of a filter (R242, Tables 6.3 and 6.4) -/

/-- The registers at a filter's entry, with the output cursor and the return PC that the framework gives. -/
def entryRegs (pages : List Mem) (d : Bytes) (i out ret : Nat) : List (BitVec 5 × BitVec 64) :=
  let addr (k : Nat) : BitVec 64 := if k < pages.length then w64 (k * unitBytes) else 0
  [(1, addr 0), (2, addr 1), (3, addr 2), (4, addr 3), (5, w64 i), (6, w64 out), (7, w64 (0xF0000 - out)), (8, w64 (flOut d)), (31, w64 ret)]

/-- A core's image at a filter's entry. -/
def entryArch (pages : List Mem) (d : Bytes) (img : FlImage) (i out ret : Nat) : Arch :=
  (entryRegs pages d i out ret).foldl (fun a e => a.wrS e.1 e.2) { imem := img.insts, spm := flSpm img (flParams d) pages }

section
variable (pages : List Mem) (d : Bytes) (img : FlImage) (i out ret : Nat)

/-- Writes of registers change the registers only. -/
theorem foldl_wrS_frame (l : List (BitVec 5 × BitVec 64)) (a : Arch) : { l.foldl (fun a e => a.wrS e.1 e.2) a with s := a.s } = a := by
  induction l generalizing a with
  | nil => rfl
  | cons e l ih =>
    have h := congrArg (fun b : Arch => { b with s := a.s }) (ih (a.wrS e.1 e.2))
    exact h.trans (wrS_frame a e.1 e.2)

theorem entryArch_frame : { entryArch pages d img i out ret with s := [] } = { imem := img.insts, spm := flSpm img (flParams d) pages } :=
  foldl_wrS_frame (entryRegs pages d i out ret) { imem := img.insts, spm := flSpm img (flParams d) pages }

theorem entryArch_imem : (entryArch pages d img i out ret).imem = img.insts := (congrArg Arch.imem (entryArch_frame pages d img i out ret) :)
theorem entryArch_spm : (entryArch pages d img i out ret).spm = flSpm img (flParams d) pages := (congrArg Arch.spm (entryArch_frame pages d img i out ret) :)
theorem entryArch_pc : (entryArch pages d img i out ret).pc = 0 := (congrArg Arch.pc (entryArch_frame pages d img i out ret) :)
theorem entryArch_k : (entryArch pages d img i out ret).k = [] := (congrArg Arch.k (entryArch_frame pages d img i out ret) :)

/-- The registers of Table 6.4 that the pages do not decide. -/
theorem entryArch_regs : (entryArch pages d img i out ret).rdS 5 = w64 i ∧ (entryArch pages d img i out ret).rdS 6 = w64 out ∧
    (entryArch pages d img i out ret).rdS 7 = w64 (0xF0000 - out) ∧ (entryArch pages d img i out ret).rdS 8 = w64 (flOut d) ∧
    (entryArch pages d img i out ret).rdS 9 = 0 := by
  simp only [entryArch, entryRegs, List.foldl_cons, List.foldl_nil, rdS_wrS]
  refine ⟨rfl, rfl, rfl, rfl, rfl⟩

/-- The constants of the image stand at their place, below the parameters (Table 6.3). -/
theorem flSpm_consts (params : Bytes) {j : Nat} (hlen : img.consts.length ≤ 61440) (hj : j < img.consts.length) :
    rdByte (flSpm img params pages) (0x40000 + j) = img.consts.getD j 0 := by
  rw [flSpm, rdByte_wrBytes, if_neg (by omega), rdByte_wrBytes, if_pos (by omega), Nat.add_sub_cancel_left]

end

section
variable (s : State) (r : CmdRef) (i c : Nat) (d : Bytes) (img : FlImage) (pages : List Mem)

theorem flEnter_core_self : ∃ out ret, out ≤ 0xF0000 ∧ (s.flEnter r i c d img pages).core c =
    { (s.core c).scrubbed with arch := entryArch pages d img i out ret, run := .running, progLen := 16384 } := by
  refine ⟨0xC0000 + Config.freeNat s.free % 2049 * 64, 12288 + Config.freeNat (s.free + 1) % 4096, ?_, ?_⟩
  · have := Nat.mod_lt (Config.freeNat s.free) (show 0 < 2049 by decide)
    omega
  · exact core_modCore_self s.takeFree.2.takeFree.2 c fun k => { k.scrubbed with
      arch := entryArch pages d img i (0xC0000 + Config.freeNat s.free % 2049 * 64) (12288 + Config.freeNat (s.free + 1) % 4096), run := .running
      progLen := 16384 }

theorem flEnter_core_of_ne {e : Nat} (h : e ≠ c) : (s.flEnter r i c d img pages).core e = s.core e :=
  core_modCore_of_ne s.takeFree.2.takeFree.2 (fun k => { k.scrubbed with
    arch := entryArch pages d img i (0xC0000 + Config.freeNat s.free % 2049 * 64) (12288 + Config.freeNat (s.free + 1) % 4096), run := .running
    progLen := 16384 }) h

theorem flEnter_gr : (s.flEnter r i c d img pages).gr = s.gr := rfl

theorem flEnter_inv : ∃ v, lget (s.flEnter r i c d img pages).fch.invs c = some v ∧ v.ref = r ∧ v.page = i :=
  ⟨_, (lget_lset _ _ _ _).trans (if_pos rfl), rfl, rfl⟩

end

/-! ### An invocation's fault (R251) -/

section
variable {s : State}

/-- Without an armed trigger, a record freezes nothing (14 R593). -/
theorem fbRecord_quiet (h : s.frz.evtEn = false) (code : Nat) (p : Bytes) : s.fbRecord code p = (s.fbStore code p).alert code := by
  have hfrz : ((s.fbStore code p).alert code).frz = s.frz := (congrArg State.frz (alert_frame (s.fbStore code p) code) :)
  have hhit : ((s.fbStore code p).alert code).frz.hit code = none := by rw [hfrz, Frz.hit, h]; rfl
  unfold State.fbRecord
  simp only [hhit]

theorem fbRecord_host (h : s.frz.evtEn = false) (code : Nat) (p : Bytes) : (s.fbRecord code p).host = s.host := by
  rw [fbRecord_quiet h]
  exact (congrArg State.host (alert_frame (s.fbStore code p) code) :)

theorem fbRecord_frz (h : s.frz.evtEn = false) (code : Nat) (p : Bytes) : (s.fbRecord code p).frz = s.frz := by
  rw [fbRecord_quiet h]
  exact (congrArg State.frz (alert_frame (s.fbStore code p) code) :)

/-- An event's messages leave the outstanding commands. -/
theorem setEvt_cmds (s : State) (b : Blk) (n : Nat) : (s.setEvt b n).host.cmds = s.host.cmds := by
  unfold State.setEvt
  dsimp only
  split
  · rfl
  · split
    · rfl
    · exact List.foldlRecOn _ _ (motive := fun t : State => t.host.cmds = s.host.cmds) rfl fun t ht p _ => (sendMsi_cmds t p 64).1.trans ht

theorem raise_cmd (h : s.frz.evtEn = false) (b : Blk) (n code : Nat) (p : Bytes) (r : CmdRef) : (s.raise b n code p).cmd? r = s.cmd? r := by
  have hfrz : ((s.setEvt b n).countErr b).frz = s.frz := (congrArg State.frz (setEvt_frame s b n) :)
  have hhost : (s.raise b n code p).host = (s.setEvt b n).host := fbRecord_host (s := (s.setEvt b n).countErr b) (by rw [hfrz, h]) code p
  rw [State.cmd?, hhost, setEvt_cmds]
  rfl

end

section
variable {s : State} {c : Nat} {v : Invocation} (f : CoreFault)

theorem mem_flCores (h : lget s.fch.invs c = some v) : c ∈ s.flCores v.ref :=
  List.mem_map.mpr ⟨(c, v), List.mem_filter.mpr ⟨mem_of_lget h, beq_self_eq_true _⟩, rfl⟩

theorem coreFault_of_invocation (code : Nat) (precise : Bool) (src pc addr : Nat) (hrun : (s.core c).run ≠ .faulted) (hb : (s.core c).bound = false)
    (hv : lget s.fch.invs c = some v) : let f : CoreFault := { code := code, precise := precise, src := src, pc := pc, addr := w64 addr }
    s.coreFault c code precise src pc addr = ((s.modCore c fun k => k.faultedWith f).faultRecord c (s.core c).ctx.toNat f).flFault c v f := by
  simp [State.coreFault, hrun, hb, hv, State.modCore, Core.faultedWith]

theorem flFault_ended (hcmd : ∃ d, s.cmd? v.ref = some d) (hq : s.frz.evtEn = false) : ∃ res, ended (s.flFault c v f) v.ref 0x20 res := by
  have hkept : ∃ d, (s.flDrop v.ref).cmd? v.ref = some d := by rw [cmd_congr (flDrop_host s v.ref)]; exact hcmd
  refine ⟨leBytes 4 f.word ++ leBytes 4 c ++ leBytes 8 f.addr.toNat ++ leBytes 8 v.page, ?_⟩
  obtain ⟨d, hd, hend⟩ := cmdFail_ended hkept 0x20 (leBytes 4 f.word ++ leBytes 4 c ++ leBytes 8 f.addr.toNat ++ leBytes 8 v.page)
  refine ⟨d, ?_, hend⟩
  have hfrz : (s.flDrop v.ref).frz.evtEn = false := by rw [flDrop_frz, hq]
  exact (raise_cmd (s := ((s.flDrop v.ref).cmdFail v.ref 0x20 _).modFch _) hfrz _ _ _ _ _).trans hd

theorem flFault_fch : (s.flFault c v f).fch = { s.fch with
    runs := s.fch.runs.filter (·.ref != v.ref), invs := s.fch.invs.filter fun e => e.2.ref != v.ref
    faults := mmod 0 s.fch.faults ((c - 640) / 8) fun n => satBv n 1 } := by
  unfold State.flFault
  dsimp only
  rw [(FlashAct.raise _ _ _ _ _).fch, modFch_fch, State.cmdFail, modCmd_fch, flDrop_fch]

theorem flFault_core (e : Nat) : (s.flFault c v f).core e = if e ∈ s.flCores v.ref then (s.core e).scrubbed else s.core e := by
  rw [← flDrop_core]
  exact core_congr (FlashAct.raise _ _ _ _ _).cores e

/-- A filter fault fails its run whole, and returns the cores that the run is on. -/
theorem filterFault_fails {code src pc addr : Nat} {precise : Bool} {cmd : Cmd} (hrun : (s.core c).run ≠ .faulted) (hb : (s.core c).bound = false)
    (hv : lget s.fch.invs c = some v) (hcmd : s.cmd? v.ref = some cmd) (hq : s.frz.evtEn = false) : let t := s.coreFault c code precise src pc addr
    (∃ res, ended t v.ref 0x20 res) ∧ (∀ e ∈ t.fch.runs, e.ref ≠ v.ref) ∧ (∀ e ∈ t.fch.invs, e.2.ref ≠ v.ref) ∧ (t.core c).run = .idle ∧
      mget 0 t.fch.faults ((c - 640) / 8) = satBv (mget 0 s.fch.faults ((c - 640) / 8)) 1 := by
  intro t
  obtain ⟨f, u, ht, hufch, huhost, hufrz⟩ : ∃ (f : CoreFault) (u : State), t = u.flFault c v f ∧ u.fch = s.fch ∧ u.host = s.host ∧ u.frz = s.frz :=
    ⟨_, _, coreFault_of_invocation code precise src pc addr hrun hb hv, (FlashAct.fbRecord _ _ _).fch, fbRecord_host (by exact hq) _ _,
      fbRecord_frz (by exact hq) _ _⟩
  have hmem : c ∈ u.flCores v.ref := mem_flCores (by rw [hufch]; exact hv)
  rw [ht, flFault_fch, flFault_core, if_pos hmem, hufch]
  refine ⟨flFault_ended f ⟨cmd, (cmd_congr huhost _).trans hcmd⟩ (by rw [hufrz, hq]), fun e he => ?_, fun e he => ?_, rfl, ?_⟩
  · simpa using (List.mem_filter.mp he).2
  · simpa using (List.mem_filter.mp he).2
  · exact mget_mmod_self 0 s.fch.faults _ fun n => satBv n 1

end

/-! ### FILTER_OVERRUN (R245, log 7) -/

theorem toNat_add_ofNat {x : BitVec 64} {n : Nat} (h : x.toNat + n < 2 ^ 64) : (x + BitVec.ofNat 64 n).toNat = x.toNat + n := by
  rw [BitVec.toNat_add, BitVec.toNat_ofNat]
  omega

/-- The stalled steps are counted, and an invocation beyond its limit is stopped. -/
theorem exec_filterOverrun {s : State} {c : Nat} {v : Invocation} (hc : c < 768) (hl : s.coresLive = true) (hv : lget s.fch.invs c = some v) :
    exec (.filterOverrun c) s =
      next (if s.flLimit c < ((s.countSteps c).core c).steps.toNat - v.steps then (s.countSteps c).coreFault c 0x10 false 0 (s.pcOf c) 0 else s.countSteps c) := by
  have hpc : (s.countSteps c).pcOf c = s.pcOf c := by rw [State.pcOf, core_countSteps, if_pos rfl]; rfl
  simp only [exec, execFilterOverrun]
  rw [guardUnit_pos (coreOk_of_lt hc)]
  simp only [hv, hl, Bool.not_true, Bool.false_eq_true, if_false, hpc, State.flOver, decide_eq_true_eq]
  rfl

end Sys2Proof.Machine

/-! PROOF. Fair quanta (06 R254 to R258): the partition that the round robin serves, the run whose turn it is there, and the module queue. -/

namespace Sys2Proof.Machine

open Sys2Proof.Claims

/-! ### The round robin (R256, R257) -/

/-- Of a partition chosen so far and another, the one that is owed more. -/
def owedMore (owes : Nat → Int) (b : Option Nat) (p : Nat) : Option Nat :=
  match b with
  | none => some p
  | some q => if owes q < owes p then some p else some q

theorem owedMore_some (owes : Nat → Int) (b : Option Nat) (x : Nat) :
    ∃ y, owedMore owes b x = some y ∧ owes x ≤ owes y ∧ ∀ q, b = some q → owes q ≤ owes y := by
  cases b with
  | none => exact ⟨x, rfl, le_rfl, fun q hq => nomatch hq⟩
  | some q =>
    by_cases hlt : owes q < owes x
    · exact ⟨x, if_pos hlt, le_rfl, fun q' hq => Option.some.inj hq ▸ hlt.le⟩
    · exact ⟨q, if_neg hlt, not_lt.mp hlt, fun q' hq => Option.some.inj hq ▸ le_rfl⟩

/-- Who is chosen from a list is owed at least as much as each of the list, and as who was chosen before. -/
theorem foldl_owedMore {owes : Nat → Int} {ps : List Nat} {b : Option Nat} {p : Nat} (h : ps.foldl (owedMore owes) b = some p) :
    (∀ q, b = some q → owes q ≤ owes p) ∧ ∀ q ∈ ps, owes q ≤ owes p := by
  induction ps generalizing b with
  | nil =>
    obtain rfl : b = some p := h
    exact ⟨fun q hq => Option.some.inj hq ▸ le_rfl, fun q hq => absurd hq List.not_mem_nil⟩
  | cons x ps ih =>
    obtain ⟨y, hy, hx, hb⟩ := owedMore_some owes b x
    obtain ⟨hbest, hall⟩ := ih h
    refine ⟨fun q hq => (hb q hq).trans (hbest y hy), fun q hq => ?_⟩
    obtain rfl | hq := List.mem_cons.mp hq
    · exact hx.trans (hbest y hy)
    · exact hall q hq

section
variable {s : State} {c p i : Nat} {run : FlRun}

/-- What the round robin owes a partition on a core with its weight. -/
def State.owed (s : State) (c p : Nat) : Int := mget 0 s.fch.credit (c * 16 + p) + Int.ofNat (s.svcWeight c p)

theorem wrrPick_most (h : s.wrrPick c = some p) : ∀ q ∈ s.flPending c, s.owed c q ≤ s.owed c p := by
  obtain ⟨-, hall⟩ := foldl_owedMore (owes := s.owed c) (ps := s.flPending c) (b := none) h
  exact hall

theorem mem_flTurn (h : (run, i) ∈ s.flTurn p c) : run.ref.part = p ∧ s.flNextPage run c = some i := by
  have hall : (run, i) ∈ (s.fch.runs.filter fun x => x.ref.part == p).filterMap fun x => (s.flNextPage x c).map fun i => (x, i) := by
    unfold State.flTurn at h
    obtain h | h := List.mem_append.mp h
    · exact (List.mergeSort_perm _ _).mem_iff.mp (List.mem_filter.mp h).1
    · exact (List.mergeSort_perm _ _).mem_iff.mp (List.mem_filter.mp h).1
  obtain ⟨x, hx, hmap⟩ := List.mem_filterMap.mp hall
  obtain ⟨j, hj, heq⟩ := Option.map_eq_some_iff.mp hmap
  cases heq
  exact ⟨by simpa using (List.mem_filter.mp hx).2, hj⟩

/-- The run whose turn it is on a core is of the partition that the round robin owes most, and its page waits for that core. -/
theorem flPick_spec (h : s.flPick c = some (run, i)) :
    s.flNextPage run c = some i ∧ ∀ q ∈ s.flPending c, s.owed c q ≤ s.owed c run.ref.part := by
  obtain ⟨p, hp, hhead⟩ := Option.bind_eq_some_iff.mp h
  obtain ⟨rfl, hnext⟩ := mem_flTurn (List.mem_of_head? hhead)
  exact ⟨hnext, wrrPick_most hp⟩

theorem flNextPage_spec {cmd : Cmd} (hcmd : s.cmd? run.ref = some cmd) (h : s.flNextPage run c = some i) :
    i < flTotal cmd.data 0 ∧ s.flWaits run i = true ∧ s.flServes cmd.data run i c = true := by
  unfold State.flNextPage at h
  rw [hcmd] at h
  have hmem := List.mem_range.mp (List.mem_of_find?_eq_some h)
  have hpred := List.find?_some h
  simp only [Bool.and_eq_true] at hpred
  exact ⟨hmem, hpred⟩

end

/-! ### Serving a page (R254 to R257) -/

section
variable {s : State} {r : CmdRef} {i c : Nat} {cmd : Cmd} {run : FlRun} {img : FlImage}

theorem flFinish_served (s : State) (r : CmdRef) : (s.flFinish r).fch.quanta = s.fch.quanta ∧ (s.flFinish r).fch.lastCmd = s.fch.lastCmd := by
  have hquanta : (s.flDrop r).fch.quanta = s.fch.quanta := flDrop_quanta s r
  have hlast : (s.flDrop r).fch.lastCmd = s.fch.lastCmd := flDrop_lastCmd s r
  unfold State.flFinish
  split
  · extract_lets
    split
    · exact ⟨rfl, rfl⟩
    split
    · exact ⟨hquanta, hlast⟩
    · exact ⟨hquanta, hlast⟩
  · exact ⟨rfl, rfl⟩

/-- Whatever its pages hold, a page that is served is one quantum of its partition on its core. -/
theorem Servable.flInvoke_counts (h : Servable s r i c cmd run img) :
    mget 0 (s.flInvoke r i c).fch.quanta (c * 16 + r.part) = mget 0 s.fch.quanta (c * 16 + r.part) + 1 ∧
      (s.flInvoke r i c).fch.lastCmd = s.fch.lastCmd := by
  obtain ⟨t, n, got, hp⟩ : ∃ t n got, s.flPages cmd.data r.part i (List.range (flStreams cmd.data)) = (t, n, got) := ⟨_, _, _, rfl⟩
  have hfch : t.fch = s.fch := by
    have hact := (flPages_flashAct s cmd.data r.part i (List.range (flStreams cmd.data))).fch
    rw [hp] at hact
    exact hact
  have hcount : mget 0 (t.pageServed r c n).fch.quanta (c * 16 + r.part) = mget 0 s.fch.quanta (c * 16 + r.part) + 1 := by
    rw [← hfch]
    exact mget_mmod_self 0 t.fch.quanta _ (· + 1)
  have hlast : (t.pageServed r c n).fch.lastCmd = s.fch.lastCmd := (congrArg Fch.lastCmd hfch :)
  cases got with
  | some pages =>
    rw [h.flInvoke_read hp]
    exact ⟨hcount, hlast⟩
  | none =>
    rw [h.flInvoke_unread hp]
    split
    · have hend := flFinish_served ((t.pageServed r c n).modFch fun f => { f with
        runs := f.runs.map fun x => if x.ref == r then { x with parts := x.parts ++ [{ page := i, out := none }], stray := x.stray || false } else x }) r
      obtain ⟨hquanta, hlastCmd⟩ := hend
      exact ⟨(congrArg (mget 0 · _) hquanta).trans hcount, hlastCmd.trans hlast⟩
    · exact ⟨(congrArg (mget 0 · _) (flDrop_quanta (t.pageServed r c n) r)).trans hcount, (flDrop_lastCmd (t.pageServed r c n) r).trans hlast⟩

theorem exec_filterInvocation (hp : r.part < 16) (hq : r.qp < 64) (ht : r.tag < 65536) (hc : c < 768) : exec (.filterInvocation r i c) s =
    next (if (s.flPick c).map (·.1.ref) = some r then (s.turned r c).flInvoke r i c else s) := by
  simp only [exec, execFilterInvocation]
  rw [guardUnit_pos (by rw [refOk_of_lt hp hq ht, coreOk_of_lt hc]; rfl)]
  simp only [beq_iff_eq]
  rfl

/-- Where no unit of the module queue is due, the quantum is the page whose turn it is. -/
theorem exec_quantumStart_filter (hc : c < 768) (hm : s.media = true) (hl : s.coresLive = true) (hfree : s.fchFree c = true) (hspace : s.gr.gcStart ≤ s.freeSpace)
    (hpick : s.flPick c = some (run, i)) : exec (.quantumStart c) s = next ((s.turned run.ref c).flInvoke run.ref i c) := by
  simp only [exec, execQuantumStart]
  rw [guardUnit_pos (coreOk_of_lt hc)]
  simp only [hm, hl, hfree, Bool.not_true, Bool.or_self, Bool.false_eq_true, if_false, Nat.not_lt.mpr hspace, false_and, hpick]
  rfl

theorem exec_quantumStart_module {n : Nat} {e : Nat × FPage} (hc : c < 768) (hm : s.media = true) (hl : s.coresLive = true) (hfree : s.fchFree c = true)
    (hspace : s.freeSpace < s.gr.gcStart) (hroom : s.moduleRoom c 1 = true) (hunit : s.gcUnit c = some (n, e)) :
    exec (.quantumStart c) s = next (((s.moduleQuanta [e.1]).relocateAll [e] false).dissolve n) := by
  simp only [exec, execQuantumStart]
  rw [guardUnit_pos (coreOk_of_lt hc)]
  simp only [hm, hl, hfree, Bool.not_true, Bool.or_self, Bool.false_eq_true, if_false, hspace, hroom, and_self, if_true, hunit]

/-- A unit of collection on a core is a page on one of its channels. -/
theorem gcUnit_core {n : Nat} {e : Nat × FPage} (h : s.gcUnit c = some (n, e)) : s.flashCore (nandChan (e.1 / 2500 / 12500)) = c := by
  unfold State.gcUnit at h
  split at h
  · cases h
  · obtain ⟨v, -, hv⟩ := Option.bind_eq_some_iff.mp h
    obtain ⟨x, hfind, heq⟩ := Option.map_eq_some_iff.mp hv
    cases heq
    simpa using List.find?_some hfind

/-- The quantum of a page that is the turn of its run: both ways to serve it are one, and its partition is owed the most. -/
theorem quantumStart_serves (hc : c < 768) (hm : s.media = true) (hl : s.coresLive = true) (hfree : s.fchFree c = true) (hspace : s.gr.gcStart ≤ s.freeSpace)
    (hpick : s.flPick c = some (run, i)) (href : refOk run.ref = true) (hrun : s.fch.runs.find? (·.ref == run.ref) = some run)
    (hcmd : s.cmd? run.ref = some cmd) (himg : lget s.fch.images (flKey run.ref.part (flHandle cmd)) = some img) :
    ∃ t, exec (.quantumStart c) s = next t ∧ exec (.filterInvocation run.ref i c) s = next t ∧
      mget 0 t.fch.quanta (c * 16 + run.ref.part) = mget 0 s.fch.quanta (c * 16 + run.ref.part) + 1 ∧
      mget 0 t.fch.lastCmd (c * 16 + run.ref.part) = s.admOf run.ref ∧ ∀ q ∈ s.flPending c, s.owed c q ≤ s.owed c run.ref.part := by
  obtain ⟨hnext, howed⟩ := flPick_spec hpick
  obtain ⟨hpage, hwaits, hserves⟩ := flNextPage_spec hcmd hnext
  have hserv : Servable s run.ref i c cmd run img := ⟨hcmd, hrun, himg, hm, hl, hpage, hwaits, hfree, hserves⟩
  obtain ⟨hquanta, hlast⟩ := hserv.turned.flInvoke_counts
  obtain ⟨⟨hp, hq⟩, ht⟩ : (run.ref.part < 16 ∧ run.ref.qp < 64) ∧ run.ref.tag < 65536 := by simpa [refOk, partOk, qpOk] using href
  refine ⟨_, exec_quantumStart_filter hc hm hl hfree hspace hpick, ?_, hquanta, ?_, howed⟩
  · rw [exec_filterInvocation hp hq ht hc, if_pos (by rw [hpick]; rfl)]
  · rw [hlast]
    exact mget_mset_self _ _ _ _

theorem quantumStart_collects {n : Nat} {e : Nat × FPage} (hc : c < 768) (hm : s.media = true) (hl : s.coresLive = true) (hfree : s.fchFree c = true)
    (hspace : s.freeSpace < s.gr.gcStart) (hroom : s.moduleRoom c 1 = true) (hunit : s.gcUnit c = some (n, e)) :
    ∃ t, exec (.quantumStart c) s = next t ∧ mget 0 t.fch.modQuanta c = mget 0 s.fch.modQuanta c + 1 ∧ t.fch.quanta = s.fch.quanta ∧
      t.cores = s.cores ∧ t.gr.ns = s.gr.ns := by
  have hact : FlashAct (s.moduleQuanta [e.1]) (((s.moduleQuanta [e.1]).relocateAll [e] false).dissolve n) := (FlashAct.relocateAll _ _ _).trans (.dissolve _ _)
  refine ⟨_, exec_quantumStart_module hc hm hl hfree hspace hroom hunit, ?_, ?_, hact.cores, hact.ns⟩
  · rw [hact.fch]
    refine (mget_mmod 0 s.fch.modQuanta (s.flashCore (nandChan (e.1 / 2500 / 12500))) c (· + 1)).trans ?_
    rw [gcUnit_core hunit, if_pos rfl]
  · rw [hact.fch]
    rfl

end

end Sys2Proof.Machine

/-! PROOF. Embedding writes (06 R261 to R263): the commit that makes a write's units and its entry visible together. -/

namespace Sys2Proof.Machine

open Sys2Proof.Claims

/-- The slots of a command's pending data (R261). -/
def State.pendingOf (s : State) (r : CmdRef) : List (Nat × Slot) := s.gr.slots.filter fun e => e.2.pend == some r

/-- A command's pending data becomes the data of its units. -/
def State.unpend (s : State) (r : CmdRef) : State :=
  (s.pendingOf r).foldl (fun v e => v.pointAt e.2.ns e.2.unit e.1)
    (s.modGr fun g => { g with slots := g.slots.map fun e => if e.2.pend == some r then (e.1, { e.2 with pend := none }) else e })

/-- What the one record of an embedding write commits: its units, the index with its entry, the count; and its item is done with (R263). -/
def State.embedded (s : State) (c : Cmd) (z : Index) : State :=
  let w := ((s.unpend c.ref).ixCommit c.ref.part (emIndex c) z).modGz fun g => { g with embedCnt := g.embedCnt + 1 }
  ({ w with mdl := { w.mdl with items := w.mdl.items.filter (·.ref != c.ref) } }).modGr fun g => { g with hostBytes := g.hostBytes + c.p1 }

section
variable (s : State) (r : CmdRef)

theorem unpend_frame : { s.unpend r with gr := s.gr } = s ∧ (s.unpend r).gr.awaits = s.gr.awaits :=
  List.foldlRecOn _ _ (motive := fun t : State => { t with gr := s.gr } = s ∧ t.gr.awaits = s.gr.awaits) ⟨rfl, rfl⟩ fun _ ht _ _ => ht

theorem unpend_host : (s.unpend r).host = s.host := (congrArg State.host (unpend_frame s r).1 :)
theorem unpend_gz : (s.unpend r).gz = s.gz := (congrArg State.gz (unpend_frame s r).1 :)

/-- The unit of the one slot that was pending reads from that slot. -/
theorem entry_unpend {n : Nat} {y : Slot} (h : s.pendingOf r = [(n, y)]) : (s.unpend r).entry? y.ns y.unit = some { buf := true, addr := n } := by
  rw [State.unpend, h]
  exact (lget_lset _ _ _ _).trans (if_pos rfl)

end

/-- The record that an embedding write inserts: its identity, and the code of its vector. -/
def emRecord (c : Cmd) (code : Bytes) : InsRec := { id := emId c, spill := emSpill c, given := emGiven c, code := code }

section
variable {s u : State} {c : Cmd} {x z : Index}

theorem sameWaits_embedded (u : State) (c : Cmd) (z : Index) : SameWaits u (u.embedded c z) := by
  have hhost := unpend_host u c.ref
  obtain ⟨-, hawaits⟩ := unpend_frame u c.ref
  unfold State.embedded
  generalize u.unpend c.ref = t at hhost hawaits
  exact ⟨hhost, hawaits⟩

theorem embedCnt_embedded (u : State) (c : Cmd) (z : Index) : (u.embedded c z).gz.embedCnt = u.gz.embedCnt + 1 := by
  rw [← unpend_gz u c.ref, State.embedded]
  generalize u.unpend c.ref = t
  rfl

theorem entry_embedded {n : Nat} {y : Slot} (z : Index) (h : u.pendingOf c.ref = [(n, y)]) :
    (u.embedded c z).entry? y.ns y.unit = some { buf := true, addr := n } := by
  have hentry := entry_unpend u c.ref h
  unfold State.embedded
  generalize u.unpend c.ref = t at hentry
  exact hentry

theorem items_embedded (u : State) (c : Cmd) (z : Index) : ∀ q ∈ (u.embedded c z).mdl.items, q.ref ≠ c.ref := by
  unfold State.embedded
  generalize u.unpend c.ref = t
  intro q hq
  simpa using (List.mem_filter.mp hq).2

/-- Without FUA and in write-back the commit waits for nothing. -/
theorem embedded_ends (z : Index) (hu : settled u) (hfua : c.fua = false) (res : Bytes) (waited slots : List Nat) :
    ((u.embedded c z).commitDone c.ref (if (u.embedded c z).forced c then waited else []) res none).ixDurable slots =
      (u.embedded c z).cmdDone c.ref res none := by
  have hsettled : settled (u.embedded c z) := (sameWaits_embedded u c z).settled hu
  have hforced : (u.embedded c z).forced c = false := by rw [State.forced, hfua, hsettled.1]; rfl
  rw [hforced, if_neg Bool.false_ne_true, commitDone_settled hsettled]
  exact ixDurable_of_writeBack (s := (u.embedded c z).cmdDone c.ref res none) hsettled.1 slots

/-- A write without REPLACE and FUA whose record is placed and stored commits at once in write-back. -/
theorem embedCommit_commits {code : Bytes} {slots : List Nat} {qs : List Placed} (nans : Nat) (hrep : emReplace c = false) (hfua : c.fua = false)
    (h2 : (x.placeRec x.epoch [] (emRecord c code)).status ≠ 2) (h4 : (x.placeRec x.epoch [] (emRecord c code)).status ≠ 4)
    (hlist : (x.placeRec x.epoch [] (emRecord c code)).list.isSome = true)
    (hins : s.insertRecs c.ref.part (emIndex c) x x.epoch [emRecord c code] = some (u, z, slots, qs)) (hu : settled u) :
    ∃ res, s.embedCommit c x code nans = (u.embedded c z).cmdDone c.ref res none ∧ res.take 8 = leBytes 8 (x.epoch + 1) := by
  have hnone : (x.placeRec x.epoch [] (emRecord c code)).list.isNone = false := by rw [Option.isNone_eq_false_iff]; exact hlist
  unfold emRecord at h2 h4 hnone hins
  unfold State.embedCommit
  simp only [h2, h4, hnone, hrep, hins, or_self, Bool.false_eq_true, if_false]
  refine ⟨_, embedded_ends z hu hfua _ _ _, ?_⟩
  rw [List.append_assoc, List.append_assoc, List.append_assoc]
  exact List.take_left' (length_leBytes 8 _)

theorem exec_embedEncodeDone {r : CmdRef} {bs : Bytes} {it : Item} {e : MdEntry} (hp : r.part < 16) (hq : r.qp < 64) (ht : r.tag < 65536)
    (hcmd : s.cmd? r = some c) (hit : s.mdl.items.find? (·.ref == r) = some it) (hout : it.out = none) (hx : s.ix? r.part (emIndex c) = some x)
    (he : s.mdEntry? it.entry = some e) (hop : c.opcode = 0x11) (hemb : c.embed = true) (hph : c.phase = .running) (hm : s.media = true)
    (hroom : insRoom x 1 ≤ s.gr.freeSlots) : ∃ nans, exec (.embedEncodeDone r bs) s = next (s.embedCommit c x (s.binarise e (encVals e bs)) nans) := by
  refine ⟨((encVals e bs).filter fun w => (fp32.dec w).isNan).length, ?_⟩
  simp only [exec, execEmbedEncodeDone]
  rw [guardUnit_pos (refOk_of_lt hp hq ht)]
  simp only [hcmd, hit, hx, he, hop, hemb, hph, hm, hout, Nat.not_lt.mpr hroom, bne_self_eq_false, Bool.not_true, Bool.or_self, decide_false,
    Bool.false_eq_true, if_false, Option.getD_none]

end

end Sys2Proof.Machine

/-! PROOF. What the filter commands, the invocations and the embedding writes leave (06 R237 to R263). -/

namespace Sys2Proof.Machine

open Sys2Proof.Claims

section
variable {s : State} {r : CmdRef} {c : Cmd}

theorem flLoad_loads (h : starts s r 0x20 c) {k : Nat} (hroom : (s.fch.images.filter fun e => e.1 / 65536 == r.part).length < 64) (hlo : 1 ≤ k) (hhi : k ≤ 65)
    (hfree : lget s.fch.images (flKey r.part k) = none) (hlow : ∀ m, 1 ≤ m → m < k → (lget s.fch.images (flKey r.part m)).isSome = true) :
    ∃ t, exec (.flLoad r) s = next t ∧ ended t r 0 (leBytes 2 k) ∧ lget t.fch.images (flKey r.part k) = some (imageOf c.data) ∧
      (∀ j, j ≠ flKey r.part k → lget t.fch.images j = lget s.fch.images j) ∧ t.cores = s.cores ∧ t.gr = s.gr :=
  ⟨_, exec_flLoad h hroom hlo hhi hfree hlow, cmdDone_ended (s := (running s r).modFch _) (exists_cmd_running h) _,
    (lget_lset _ _ _ _).trans (if_pos rfl), fun _ hj => (lget_lset _ _ _ _).trans (if_neg hj), rfl, rfl⟩

theorem flUnload_drops (h : starts s r 0x21 c) (he : (s.earlier c fun d => d.opcode == 0x22 && flHandle d == flHandle c) = false) :
    ∃ t, exec (.flUnload r) s = next t ∧ ended t r 0 [] ∧ lget t.fch.images (flKey r.part (flHandle c)) = none ∧
      (∀ j, j ≠ flKey r.part (flHandle c) → lget t.fch.images j = lget s.fch.images j) ∧ t.cores = s.cores ∧ t.gr = s.gr :=
  ⟨_, exec_flUnload h he, cmdDone_ended (s := (running s r).modFch _) (exists_cmd_running h) _,
    (lget_ldel _ _ _).trans (if_pos rfl), fun _ hj => (lget_ldel _ _ _).trans (if_neg hj), rfl, rfl⟩

end

section
variable {s : State} {r : CmdRef} {i c : Nat} {cmd : Cmd} {run : FlRun} {img : FlImage}

theorem w64_add_rest {a b : Nat} (h : a ≤ b) : w64 a + w64 (b - a) = BitVec.ofNat 64 b := by
  rw [w64, w64, ← BitVec.ofNat_add, Nat.add_sub_cancel' h]

/-- A filter is entered at instruction 0 with the registers of Table 6.4, on a scrubbed core; the other cores and Graticule are left. -/
theorem flEnter_entered (u : State) (r : CmdRef) (i c : Nat) (d : Bytes) (img : FlImage) (pages : List Mem) : let t := u.flEnter r i c d img pages
    (t.core c).run = .running ∧ (t.core c).fault = none ∧ (t.core c).arch.pc = 0 ∧ (t.core c).arch.imem = img.insts ∧
      (t.core c).arch.rdS 5 = BitVec.ofNat 64 i ∧ (t.core c).arch.rdS 8 = BitVec.ofNat 64 (flOut d) ∧ (t.core c).arch.rdS 9 = 0 ∧
      (t.core c).arch.rdS 6 + (t.core c).arch.rdS 7 = 0xF0000 ∧ (t.core c).arch.k = [] ∧ (∃ v, lget t.fch.invs c = some v ∧ v.ref = r ∧ v.page = i) ∧
      (img.consts.length ≤ 61440 → ∀ j, j < img.consts.length → rdByte (t.core c).arch.spm (0x40000 + j) = img.consts.getD j 0) ∧
      (∀ d, d ≠ c → t.core d = u.core d) ∧ t.gr = u.gr := by
  intro t
  obtain ⟨out, ret, hout, hcore⟩ := flEnter_core_self u r i c d img pages
  obtain ⟨h5, h6, h7, h8, h9⟩ := entryArch_regs pages d img i out ret
  rw [hcore]
  dsimp only
  rw [h5, h6, h7, h8, h9, entryArch_pc, entryArch_imem, entryArch_k, entryArch_spm]
  exact ⟨rfl, rfl, rfl, rfl, rfl, rfl, rfl, w64_add_rest hout, rfl, flEnter_inv u r i c d img pages, fun hlen j hj => flSpm_consts pages img _ hlen hj,
    fun d hd => flEnter_core_of_ne u r i c _ img pages hd, flEnter_gr u r i c d img pages⟩

/-- A page whose streams are all in the buffer or unmapped is served by an entry of the filter. -/
theorem Servable.flInvoke_holds (h : Servable s r i c cmd run img) {pg : Nat → Mem}
    (hpages : ∀ k, k < flStreams cmd.data → holds s (nsKey r.part (fld cmd.data 4 2)) (flUnit cmd.data k i) (pg k)) :
    ∃ u : State, (s.turned r c).flInvoke r i c = u.flEnter r i c cmd.data img ((List.range (flStreams cmd.data)).map pg) ∧ u.cores = s.cores ∧ u.gr = s.gr :=
  ⟨(s.turned r c).pageServed r c 0, h.turned.flInvoke_read (flPages_holds fun k hk => hpages k (List.mem_range.mp hk)), rfl, rfl⟩

/-- What is changed of a run before it goes does not matter. -/
theorem runs_dropped (l : List FlRun) (r : CmdRef) (g : FlRun → FlRun) (hg : ∀ x, (g x).ref = x.ref := by intro _; rfl) :
    (l.map fun x => if x.ref == r then g x else x).filter (·.ref != r) = l.filter (·.ref != r) := by
  induction l with
  | nil => rfl
  | cons x l ih =>
    rw [List.map_cons, List.filter_cons, List.filter_cons, ih]
    by_cases hx : x.ref = r
    · simp [hx, hg]
    · simp [hx]

/-- An unreadable page fails a run without PARTIAL_OK (R252). -/
theorem Servable.fails (h : Servable s r i c cmd run img) (hpartial : flPartial cmd.data = false)
    (hun : s.gr.unread.contains (unitKey (nsKey r.part (fld cmd.data 4 2)) (flUnit cmd.data 0 i)) = true) : let t := (s.turned r c).flInvoke r i c
    ended t r 0x11 (leBytes 8 i) ∧ t.fch.runs = s.fch.runs.filter (·.ref != r) ∧ t.gr = s.gr := by
  intro t
  obtain ⟨n, hread⟩ := flPages_unread (s := s.turned r c) (p := r.part) ((List.range (bits (fld cmd.data 4 4) 20 19)).map Nat.succ) hun
  rw [← range_flStreams] at hread
  have ht : t = (((s.turned r c).pageServed r c n).flDrop r).cmdFail r 0x11 (leBytes 8 i) :=
    (h.turned.flInvoke_unread hread).trans (if_neg (hpartial ▸ Bool.false_ne_true))
  have hkept : ∃ d, (((s.turned r c).pageServed r c n).flDrop r).cmd? r = some d := ⟨cmd, (cmd_congr (flDrop_host _ r) r).trans h.isCmd⟩
  rw [ht]
  refine ⟨cmdFail_ended hkept _ _, ?_, flDrop_gr _ r⟩
  rw [State.cmdFail, modCmd_fch, flDrop_fch]
  exact runs_dropped s.fch.runs r fun x => { x with pagesRead := x.pagesRead + n }

end

/-- What FILTER_OVERRUN leaves: a free number of stalled steps, below the counter's top, and the fault where they pass the limit. -/
theorem filterOverrun_counts {s : State} {c : Nat} {v : Invocation} (hc : c < 768) (hl : s.coresLive = true) (hv : lget s.fch.invs c = some v) :
    ∃ n k : Nat, (s.core c).steps.toNat + n < 2 ^ 64 ∧
      let u : State := { s.modCore c fun y => { y with steps := y.steps + BitVec.ofNat 64 n } with free := k }
      exec (.filterOverrun c) s =
        next (if s.flLimit c < (s.core c).steps.toNat + n - v.steps then u.coreFault c 0x10 false 0 (s.pcOf c) 0 else u) := by
  refine ⟨Config.freeNat s.free % (2 ^ 64 - (s.core c).steps.toNat), s.free + 1, countSteps_bound _ _, ?_⟩
  have hsteps : ((s.countSteps c).core c).steps.toNat = (s.core c).steps.toNat + Config.freeNat s.free % (2 ^ 64 - (s.core c).steps.toNat) := by
    rw [core_countSteps, if_pos rfl]
    exact toNat_add_ofNat (countSteps_bound _ _)
  rw [exec_filterOverrun hc hl hv, hsteps]
  rfl

/-! ### The statement -/

/-- Settles O42: each filter command is one change of the images or the runs, each quantum one service of a page or of the module queue, a fault of an
invocation drops its run, and the commit of an embedding write points its units at their slots with the entry's record. -/
theorem filtersAndEmbeds : Obligations.FiltersAndEmbeds := by
  refine ⟨fun s r c => ⟨fun h k hroom hlo hhi hfree hlow => flLoad_loads h hroom hlo hhi hfree hlow, fun h hfull => ?_, fun h he => flUnload_drops h he,
    fun h => ?_⟩, ?_, ?_, ?_, ?_, ?_, ?_, ?_⟩
  · exact ⟨_, exec_flLoad_full h hfull, cmdFail_ended (exists_cmd_running h) _ _, onlyCmd_trans (onlyCmd_running s r) (onlyCmd_cmdFail _ r _ _)⟩
  · exact ⟨_, exec_flRun h, rfl, ⟨_, cmd_running h, rfl⟩, rfl⟩
  · intro s r i c cmd run img pg hp hq ht hc hcmd hrun himg hm hl hpage hwaits hfree hserves hpick
    have hserv : Servable s r i c cmd run img := ⟨hcmd, hrun, himg, hm, hl, hpage, hwaits, hfree, hserves⟩
    rw [exec_filterInvocation hp hq ht hc, if_pos hpick]
    refine ⟨fun hpages => ?_, fun hpartial hun => ⟨_, rfl, hserv.fails hpartial hun⟩⟩
    obtain ⟨u, hinvoke, hcores, hgr⟩ := hserv.flInvoke_holds hpages
    have hentered := flEnter_entered u r i c cmd.data img ((List.range (flStreams cmd.data)).map pg)
    simp only [core_congr hcores, hgr] at hentered
    exact ⟨_, by rw [hinvoke], hentered⟩
  · intro s r i c hp hq ht hc hpick
    rw [exec_filterInvocation hp hq ht hc, if_neg hpick]
  · intro s c v hc hl hv
    exact filterOverrun_counts hc hl hv
  · intro s c code src pc addr precise v cmd hrun hb hv hcmd hq
    exact filterFault_fails hrun hb hv hcmd hq
  · intro s c i run img cmd hc hm hl hfree hspace hpick href hrun hcmd himg
    exact quantumStart_serves hc hm hl hfree hspace hpick href hrun hcmd himg
  · intro s c n e hc hm hl hfree hspace hroom hunit
    exact quantumStart_collects hc hm hl hfree hspace hroom hunit
  · intro s u r bs c it x z e slots qs hp hq ht hcmd href hit hout hx he hop hemb hph hm hroom hrep hfua rec1 h2 h4 hlist hins hwt haw hkept
    subst href
    obtain ⟨nans, hexec⟩ := exec_embedEncodeDone (bs := bs) hp hq ht hcmd hit hout hx he hop hemb hph hm hroom
    obtain ⟨res, hcommit, hres⟩ := embedCommit_commits nans hrep hfua h2 h4 hlist hins ⟨hwt, haw⟩
    have hcmd' : ∃ d, (u.embedded c z).cmd? c.ref = some d := by rw [(sameWaits_embedded u c z).cmd]; exact hkept
    rw [hexec, hcommit]
    exact ⟨_, res, rfl, cmdDone_ended hcmd' res, hres, embedCnt_embedded u c z, items_embedded u c z, fun n y hone => entry_embedded z hone⟩

end Sys2Proof.Machine

/-! PROOF. Tables, their slots and their shares of the pool (07 R274 to R276, R308; 13 R541 to R544): what a change of one table leaves of the others, and
the reads and writes of slots and the allocations, which change no table. -/

namespace Sys2Proof.Machine

open Sys2Proof.Claims

/-! ### One table among the others -/

theorem tab_congr {s t : State} (h : t.atl = s.atl) (j : Nat) : t.tab? j = s.tab? j := by simp only [State.tab?, h]

theorem tab_modTab (s : State) (tk j : Nat) (f : Table → Table) : (s.modTab tk f).tab? j = if j = tk then (s.tab? j).map f else s.tab? j :=
  lget_map s.atl.tabs tk j f

theorem tab_modTab_self (s : State) (tk : Nat) (f : Table → Table) : (s.modTab tk f).tab? tk = (s.tab? tk).map f := by
  rw [tab_modTab, if_pos rfl]

theorem tab_modTab_of_some {s : State} {tk : Nat} {x : Table} (h : s.tab? tk = some x) (f : Table → Table) : (s.modTab tk f).tab? tk = some (f x) := by
  rw [tab_modTab_self, h, Option.map_some]

@[simp] theorem tab_running (s : State) (r : CmdRef) (j : Nat) : (running s r).tab? j = s.tab? j := rfl
@[simp] theorem tab_modCmd (s : State) (r : CmdRef) (f : Cmd → Cmd) (j : Nat) : (s.modCmd r f).tab? j = s.tab? j := rfl
@[simp] theorem tab_cmdDone (s : State) (r : CmdRef) (result : Bytes) (body : Option Bytes) (j : Nat) : (s.cmdDone r result body).tab? j = s.tab? j := rfl
@[simp] theorem tab_commit (s : State) (j : Nat) : s.commit.tab? j = s.tab? j := rfl

section
variable {s t u : State} {tk : Nat}

theorem otherTables_of_atl (h : t.atl = s.atl) : otherTables s t tk := fun j _ => tab_congr h j

theorem otherTables_trans (h : otherTables s t tk) (h' : otherTables t u tk) : otherTables s u tk := fun j hj => (h' j hj).trans (h j hj)

theorem otherTables_modTab (s : State) (tk : Nat) (f : Table → Table) : otherTables s (s.modTab tk f) tk := fun j hj => by rw [tab_modTab, if_neg hj]

theorem otherTables_nextSeq (s : State) (tk : Nat) : otherTables s (s.nextSeq tk) tk := otherTables_modTab s tk _

end

theorem guardUnit_tab {p tab : Nat} (hp : p < 16) (htab : tab < 256) (o : Out) : guardUnit (partOk p && tableOk tab) o = o :=
  guardUnit_pos (by rw [partOk_of_lt hp, Bool.true_and]; exact decide_eq_true htab)

/-! ### Lines of the DRAM (13 R541 to R544) -/

theorem foldl_atl {α : Type} {f : State → α → State} (hf : ∀ s a, (f s a).atl = s.atl) (l : List α) (s : State) : (l.foldl f s).atl = s.atl :=
  List.foldlRecOn l f (motive := fun t : State => t.atl = s.atl) rfl fun t ht a _ => (hf t a).trans ht

section
variable (s : State)

theorem fbRecord_atl (code : Nat) (p : Bytes) : (s.fbRecord code p).atl = s.atl := (congrArg State.atl (fbRecord_frame s code p) :)

theorem raise_atl (b : Blk) (n code : Nat) (p : Bytes) : (s.raise b n code p).atl = s.atl :=
  (fbRecord_atl _ code p).trans (congrArg State.atl (setEvt_frame s b n) :)

theorem lineRecord_atl (g l n : Nat) (ue : Bool) : (s.lineRecord g l n ue).atl = s.atl := fbRecord_atl _ _ _

theorem putLine_atl (g l : Nat) (bs : Bytes) : (s.putLine g l bs).atl = s.atl := by
  unfold State.putLine
  extract_lets k t m u b
  split
  · split <;> rfl
  · rfl

theorem getLine_atl (g l : Nat) : (s.getLine g l).1.atl = s.atl := by
  have hput (t : State) (bs : Bytes) (n : Nat) : ((t.putLine g l bs).lineRecord g l n false).atl = t.atl :=
    (lineRecord_atl _ g l n false).trans (putLine_atl t g l bs)
  unfold State.getLine
  extract_lets k
  split
  · rfl
  split
  · rfl
  split
  · rfl
  split
  · dsimp only
    split
    · exact lineRecord_atl _ _ _ _ _
    split
    · exact hput _ _ _
    · rfl
  · split
    · exact lineRecord_atl _ _ _ _ _
    · dsimp only
      split
      · rfl
      · exact hput _ _ _

theorem dramRead_atl (g off len : Nat) : (s.dramRead g off len).1.atl = s.atl := by
  unfold State.dramRead
  induction len / 64 + 2 generalizing s off len with
  | zero => rfl
  | succ n ih =>
    rw [State.dramReadAux]
    split
    · rfl
    · have hline := getLine_atl s g (off / 64)
      dsimp only
      split
      · next hg => rw [hg] at hline; exact hline
      · next t bs hg =>
        rw [hg] at hline
        have hrest := ih t (off + min len (64 - off % 64)) (len - min len (64 - off % 64))
        split <;> next hr => rw [hr] at hrest; exact hrest.trans hline

theorem dramWrite_atl (g off : Nat) (bs : Bytes) : (s.dramWrite g off bs).1.atl = s.atl := by
  unfold State.dramWrite
  induction bs.length / 64 + 2 generalizing s off bs with
  | zero => rfl
  | succ n ih =>
    rw [State.dramWriteAux]
    split
    · rfl
    · have hline := getLine_atl s g (off / 64)
      dsimp only
      refine (ih _ _ _).trans ?_
      split
      · rfl
      split
      · exact putLine_atl _ _ _ _
      · split
        · next hg => rw [hg] at hline; exact hline
        · next hg => rw [hg] at hline; exact (putLine_atl _ _ _ _).trans hline

end

/-! ### Slots (07 R274, R276; 08 R322) -/

section
variable (s : State) (tk no : Nat) (x : Table) (j k : Nat) (b : Bytes)

theorem rdSlot_atl : (s.rdSlot tk no x j k).1.atl = s.atl := by
  unfold State.rdSlot
  split
  · rfl
  · exact dramRead_atl _ _ _ _

theorem wrSlot_atl : (s.wrSlot tk no x j k b).atl = s.atl := by
  unfold State.wrSlot
  split
  · rfl
  · exact dramWrite_atl _ _ _ _

theorem rdState_atl : (s.rdState tk no x j k).1.atl = s.atl := by
  unfold State.rdState
  split
  · rfl
  split
  · rfl
  · exact dramRead_atl _ _ _ _

theorem wrState_atl : (s.wrState tk no x j k b).atl = s.atl := by
  unfold State.wrState
  split
  · rfl
  split
  · rfl
  · exact dramWrite_atl _ _ _ _

/-- Changing the slots of a row's copies changes no table. -/
theorem eachCopy_atl (r : Nat) (f : Table → Copy → Bytes → Bytes) : (s.eachCopy tk no r f).atl = s.atl := by
  unfold State.eachCopy
  split
  · rfl
  · next x _ =>
    refine foldl_atl (fun u c => ?_) _ s
    split
    · rfl
    · next j k _ =>
      have hread := rdSlot_atl u tk no x j k
      split
      · next hr => rw [hr] at hread; exact hread
      · next hr => rw [hr] at hread; exact (wrSlot_atl _ _ _ _ _ _ _).trans hread

theorem markFwd_atl (r : Nat) : (s.markFwd tk no r).atl = s.atl := eachCopy_atl s tk no r _

theorem fillVer_atl (missing : Bool) : (s.fillVer tk no x missing).atl = s.atl := by
  unfold State.fillVer
  split
  · rfl
  · exact foldl_atl (fun u r => (wrState_atl _ _ _ _ _ _ _).trans (wrSlot_atl _ _ _ _ _ _ _)) _ s

end

/-! ### Shares of the pool (09 R362 to R365; 07 R276) -/

section
variable {s t : State} {p g len tk no : Nat} {cls : PoolClass} {use : PoolUse}

theorem evictFor_atl (n : Nat) (s : State) (p g len : Nat) : (State.evictFor n s p g len).1.atl = s.atl := by
  induction n generalizing s with
  | zero => rfl
  | succ n ih =>
    rw [State.evictFor]
    split
    · rfl
    split
    · rfl
    · exact ih _

theorem poolAlloc_atl (h : s.poolAlloc p g len cls use = some t) : t.atl = s.atl := by
  unfold State.poolAlloc at h
  extract_lets floored at h
  split at h
  · cases h; rfl
  split at h
  · cases h
  · have hev := evictFor_atl (s.allocsOf g).length s p g len
    split at h
    · next he => rw [he] at hev; cases h; exact hev
    · cases h

theorem poolAllocAll_atl {gs : List Nat} (h : s.poolAllocAll p len cls use gs = some t) : t.atl = s.atl := by
  induction gs generalizing s with
  | nil => cases h; rfl
  | cons g gs ih =>
    rw [State.poolAllocAll] at h
    split at h
    · cases h
    · next hone => exact (ih h).trans (poolAlloc_atl hone)

theorem allocVer_atl {x : Table} (h : s.allocVer tk no x = some t) : t.atl = s.atl := by
  unfold State.allocVer at h
  split at h
  · cases h
  · next hslots => exact (poolAllocAll_atl h).trans (poolAllocAll_atl hslots)

end

theorem freeAllocs_freeAllocs (s : State) (f g : Alloc → Bool) : (s.freeAllocs f).freeAllocs g = s.freeAllocs fun a => f a || g a := by
  simp only [State.freeAllocs, State.modDram, List.filter_filter, Bool.not_or, Bool.and_comm]

/-- The shares of several versions go as those of one do. -/
theorem foldl_freeVer (tk : Nat) (vs : List AtVer) (s : State) : vs.foldl (fun u v => u.freeVer tk v.no) s =
    s.freeAllocs fun a => vs.any fun v => a.use == .atlas (verKey tk v.no) || a.use == .optState (verKey tk v.no) := by
  induction vs generalizing s with
  | nil => simp [State.freeAllocs, State.modDram]
  | cons v vs ih => rw [List.foldl_cons, ih, State.freeVer, freeAllocs_freeAllocs]; rfl

/-! ### Reading a row (07 R296) -/

/-- What a read of a row leaves of its table: the version that is current, the one that is building, and the number of the last change. -/
def Table.standing (x : Table) : Nat × Option Nat × Nat := (x.cur, x.building, x.seq)

/-- Between two states rows of a table have been read or written: its standing is as before, and the other tables. -/
structure RowsAct (tk : Nat) (s t : State) : Prop where
  others : otherTables s t tk
  standing : (t.tab? tk).map Table.standing = (s.tab? tk).map Table.standing

namespace RowsAct

variable {tk : Nat} {s t u : State}

theorem of_tabs (h : t.atl.tabs = s.atl.tabs) : RowsAct tk s t :=
  have htab (j : Nat) : t.tab? j = s.tab? j := by simp only [State.tab?, h]
  ⟨fun j _ => htab j, by rw [htab]⟩

theorem of_atl (h : t.atl = s.atl) : RowsAct tk s t := of_tabs (congrArg AtlasS.tabs h)

theorem trans (h : RowsAct tk s t) (h' : RowsAct tk t u) : RowsAct tk s u := ⟨otherTables_trans h.others h'.others, h'.standing.trans h.standing⟩

theorem modTab (s : State) (tk : Nat) {f : Table → Table} (hf : ∀ x, (f x).standing = x.standing) : RowsAct tk s (s.modTab tk f) := by
  refine ⟨otherTables_modTab s tk f, ?_⟩
  rw [tab_modTab_self, Option.map_map]
  congr 1
  funext x
  exact hf x

theorem modAtl (s : State) {f : AtlasS → AtlasS} (hf : ∀ a, (f a).tabs = a.tabs) : RowsAct tk s (s.modAtl f) := of_tabs (hf s.atl)

theorem modVer (s : State) (tk no : Nat) (f : AtVer → AtVer) : RowsAct tk s (s.modVer tk no f) := modTab s tk fun _ => rfl

theorem useWay (s : State) (tk no j k : Nat) : RowsAct tk s (s.useWay tk no j k) := (modVer s tk no _).trans (modTab _ tk fun _ => rfl)

theorem foldl {α : Type} {f : State → α → State} (hf : ∀ s a, RowsAct tk s (f s a)) (l : List α) (s : State) : RowsAct tk s (l.foldl f s) :=
  List.foldlRecOn l f (motive := RowsAct tk s) (of_atl rfl) fun t ht a _ => ht.trans (hf t a)

theorem loseRow (s : State) (tk no r : Nat) (x : Table) : RowsAct tk s (s.loseRow tk no r x) := by
  unfold State.loseRow
  dsimp only
  refine trans ?_ (of_atl (raise_atl _ _ _ _ _))
  refine trans ?_ (RowsAct.modTab _ tk fun _ => rfl)
  refine trans ?_ (modAtl _ fun _ => rfl)
  refine (of_atl rfl : RowsAct tk s s.takeFree.2).trans (foldl (fun w c => ?_) _ _)
  split
  · exact of_atl rfl
  · exact of_atl (wrSlot_atl _ _ _ _ _ _ _)

theorem readSource (s : State) (tk no r : Nat) (x : Table) (c : Copy) : RowsAct tk s (s.readSource tk no r x c).1 := by
  unfold State.readSource
  split
  · exact of_atl rfl
  · next j k _ =>
    have hread := rdSlot_atl s tk no x j k
    split
    · next hr =>
      rw [hr] at hread
      dsimp only
      split
      · exact (of_atl hread).trans (useWay _ tk no j k)
      · exact of_atl hread
    · next u hr =>
      rw [hr] at hread
      split
      · exact (of_atl hread).trans (modVer u tk no _)
      · have hlost := (of_atl hread : RowsAct tk s u).trans (loseRow u tk no r x)
        have hagain := rdSlot_atl (u.loseRow tk no r x) tk no x j k
        dsimp only
        split
        · next hr' => rw [hr'] at hagain; exact hlost.trans (of_atl hagain)
        · next hr' => rw [hr'] at hagain; exact hlost.trans (of_atl hagain)

end RowsAct

end Sys2Proof.Machine

/-! PROOF. Tables and their versions (07 R270 to R276, R302 to R306): each command is one change of its table, and a switch makes the building version
current. -/

namespace Sys2Proof.Machine

open Sys2Proof.Claims

/-! ### Commits -/

/-- A command that commits ends at once where no completion waits for the flash. -/
theorem commit_commitDone {u : State} (h : settled u) (r : CmdRef) (result : Bytes) (body : Option Bytes) :
    u.commit.commitDone r [] result body = u.commit.cmdDone r result body := commitDone_settled (s := u.commit) h r result body

theorem commit_ended {u : State} {r : CmdRef} (h : kept u r) (result : Bytes) : ended (u.commit.cmdDone r result none) r 0 result :=
  cmdDone_ended (s := u.commit) h result

theorem forced_of_settled {u : State} {c : Cmd} (h : settled u) (hfua : c.fua = false) : u.forced c = false := by
  rw [State.forced, hfua, h.1, Bool.false_or]

/-! ### AT_CREATE and AT_DROP (R270 to R276) -/

section
variable {s u : State} {r : CmdRef} {c : Cmd}

theorem exec_atCreate (h : starts s r 0x40 c) (he : (s.earlier c fun d => d.opcode == 0x41 && d.obj == fld c.data 0 1) = false)
    (hx : s.tab? (tabKey r.part (fld c.data 0 1)) = none)
    (halloc : (running s r).takeFree.2.allocVer (tabKey r.part (fld c.data 0 1)) 1 (tableOf c.data s.free) = some u) :
    exec (.atCreate r) s = next (((u.modAtl fun a => { a with tabs := lset a.tabs (tabKey r.part (fld c.data 0 1)) (tableOf c.data s.free) }).fillVer
      (tabKey r.part (fld c.data 0 1)) 1 (tableOf c.data s.free) (! (tableOf c.data s.free).init)).commit.commitDone r [] [] none) := by
  simp only [exec, execAtCreate]
  rw [startWhen_starts h (by rw [he]; rfl)]
  have hnone : (running s r).tab? (tabKey r.part (fld c.data 0 1)) = none := hx
  have hfree : (running s r).free = s.free := rfl
  simp only [hnone, hfree, Option.isSome_none, Bool.false_eq_true, if_false, halloc]

theorem exec_atCreate_full (h : starts s r 0x40 c) (he : (s.earlier c fun d => d.opcode == 0x41 && d.obj == fld c.data 0 1) = false)
    (hx : s.tab? (tabKey r.part (fld c.data 0 1)) = none)
    (halloc : (running s r).takeFree.2.allocVer (tabKey r.part (fld c.data 0 1)) 1 (tableOf c.data s.free) = none) :
    exec (.atCreate r) s = next ((running s r).cmdFail r 6 []) := by
  simp only [exec, execAtCreate]
  rw [startWhen_starts h (by rw [he]; rfl)]
  have hnone : (running s r).tab? (tabKey r.part (fld c.data 0 1)) = none := hx
  have hfree : (running s r).free = s.free := rfl
  simp only [hnone, hfree, Option.isSome_none, Bool.false_eq_true, if_false, halloc]

theorem exec_atDrop {x : Table} (h : starts s r 0x41 c) (he : s.earlier c (s.usesTab r.part c.obj) = false) (hstep : s.inStep (tabKey r.part c.obj) = false)
    (hx : s.tab? (tabKey r.part c.obj) = some x) :
    exec (.atDrop r) s = next (((((x.vers.foldl (fun u v => u.freeVer (tabKey r.part c.obj) v.no) (running s r)).freeAllocs fun a =>
      a.use == .freezeMap (tabKey r.part c.obj)).modAtl fun a => { a with tabs := ldel a.tabs (tabKey r.part c.obj) }).commit.commitDone r [] [] none)) := by
  simp only [exec, execAtDrop]
  rw [startWhen_starts h (by rw [he, hstep]; rfl)]
  have hsome : (running s r).tab? (tabKey r.part c.obj) = some x := hx
  simp only [hsome]

/-- AT_CREATE ends with the table at version 1 beside the others. -/
theorem atCreate_creates (h : starts s r 0x40 c) (he : (s.earlier c fun d => d.opcode == 0x41 && d.obj == fld c.data 0 1) = false)
    (hx : s.tab? (tabKey r.part (fld c.data 0 1)) = none) {w : State}
    (halloc : (running s r).takeFree.2.allocVer (tabKey r.part (fld c.data 0 1)) 1 (tableOf c.data s.free) = some u)
    (hfill : (u.modAtl fun a => { a with tabs := lset a.tabs (tabKey r.part (fld c.data 0 1)) (tableOf c.data s.free) }).fillVer
      (tabKey r.part (fld c.data 0 1)) 1 (tableOf c.data s.free) (! (tableOf c.data s.free).init) = w) (hw : settled w) (hkept : kept w r) :
    ∃ t, exec (.atCreate r) s = next t ∧ ended t r 0 [] ∧ t.tab? (tabKey r.part (fld c.data 0 1)) = some (tableOf c.data s.free) ∧
      (tableOf c.data s.free).cur = 1 ∧ otherTables s t (tabKey r.part (fld c.data 0 1)) := by
  rw [exec_atCreate h he hx halloc, hfill, commit_commitDone hw]
  have hu : u.atl = s.atl := allocVer_atl (s := (running s r).takeFree.2) halloc
  have htabs (j : Nat) : w.tab? j = if j = tabKey r.part (fld c.data 0 1) then some (tableOf c.data s.free) else u.tab? j := by
    rw [← hfill, tab_congr (fillVer_atl _ _ _ _ _)]
    exact lget_lset _ _ _ _
  refine ⟨_, rfl, commit_ended hkept _, ?_, rfl, fun j hj => ?_⟩
  · exact (htabs _).trans (if_pos rfl)
  · exact ((htabs j).trans (if_neg hj)).trans (tab_congr hu j)

/-- AT_DROP ends without the table and without the shares of its versions. -/
theorem atDrop_drops {x : Table} (hs : settled s) (h : starts s r 0x41 c) (he : s.earlier c (s.usesTab r.part c.obj) = false)
    (hstep : s.inStep (tabKey r.part c.obj) = false) (hx : s.tab? (tabKey r.part c.obj) = some x) :
    ∃ t, exec (.atDrop r) s = next t ∧ ended t r 0 [] ∧ t.tab? (tabKey r.part c.obj) = none ∧ otherTables s t (tabKey r.part c.obj) ∧
      (∀ a ∈ t.dram.alloc, ∀ v ∈ x.vers, a.use ≠ .atlas (verKey (tabKey r.part c.obj) v.no)) ∧ t.dram.mem = s.dram.mem ∧ t.cores = s.cores := by
  rw [exec_atDrop h he hstep hx, foldl_freeVer, freeAllocs_freeAllocs, commit_commitDone (by exact hs)]
  refine ⟨_, rfl, commit_ended (exists_cmd_running h) _, ?_, fun j hj => ?_, fun a ha v hv heq => ?_, rfl, rfl⟩
  · exact (lget_ldel _ _ _).trans (if_pos rfl)
  · exact (lget_ldel _ _ _).trans (if_neg hj)
  · have hgone := (List.mem_filter.mp ha).2
    simp only [Bool.not_or, Bool.and_eq_true, Bool.not_eq_true', List.any_eq_false] at hgone
    have := hgone.1 v hv
    simp [heq] at this

end

/-! ### AT_VBEGIN (R302, 08 R344) -/

/-- How AT_VBEGIN ends once its building version stands in `v`. -/
def State.vbeginEnd (s v : State) (r : CmdRef) (tk new : Nat) (x : Table) (copy : Bool) : State :=
  if ! copy then (v.fillVer tk new x true).commit.commitDone r [] [] none
  else if x.backed then
    match v.copyBacked tk new x with
    | (_, .error e) => s.cmdFail r 0x12 (leBytes 8 e)
    | (w, .ok _) => w.commit.commitDone r [] [] none
  else (v.copyVer tk x.cur new x).cmdDone r [] none

/-- Rows written into a building version leave it standing beside the current one. -/
theorem RowsAct.begun {s u w : State} {tk new : Nat} {x : Table} (hu : u.atl = s.atl) (hx : s.tab? tk = some x) (hw : RowsAct tk (withBuilding u tk new) w) :
    ∃ y, w.tab? tk = some y ∧ y.building = some new ∧ y.cur = x.cur ∧ y.seq = x.seq + 1 ∧ otherTables s w tk := by
  have hseq : (u.nextSeq tk).tab? tk = some { x with seq := x.seq + 1 } := tab_modTab_of_some ((tab_congr hu tk).trans hx) _
  have hstand := hw.standing
  rw [withBuilding, tab_modTab_of_some hseq] at hstand
  obtain ⟨y, hy, hstanding⟩ := Option.map_eq_some_iff.mp hstand
  simp only [Table.standing, Prod.mk.injEq] at hstanding
  obtain ⟨hcur, hbuilding, hnumber⟩ := hstanding
  refine ⟨y, hy, hbuilding, hcur, hnumber, otherTables_trans (otherTables_of_atl hu) (otherTables_trans ?_ hw.others)⟩
  exact otherTables_trans (otherTables_nextSeq u tk) (otherTables_modTab _ tk _)

theorem copyVer_rowsAct (s : State) (tk no new : Nat) (x : Table) : RowsAct tk s (s.copyVer tk no new x) := by
  unfold State.copyVer
  refine RowsAct.foldl (fun u r => ?_) _ s
  have hread := RowsAct.readSource u tk no r x (x.source no r)
  split
  · next v b hr =>
    rw [hr] at hread
    refine hread.trans (RowsAct.of_atl ?_)
    dsimp only
    refine (wrState_atl _ _ _ _ _ _ _).trans ((wrSlot_atl _ _ _ _ _ _ _).trans ?_)
    split
    · exact rdState_atl _ _ _ _ _ _
    · rfl
  · next hr => rw [hr] at hread; exact hread

section
variable {s u w : State} {r : CmdRef} {c : Cmd} {x : Table} (h : starts s r 0x46 c) (hx : s.tab? (tabKey r.part c.obj) = some x)
  (hstep : s.inStep (tabKey r.part c.obj) = false)
  (hscat : ∀ d ∈ s.host.cmds, d.opcode = 0x42 → d.ref.part = r.part → d.obj = c.obj → d.phase ≠ .admitted ∧ d.phase ≠ .running)
  (he : (s.earlier c fun d => (d.opcode == 0x52 && (fld d.data 0x10 32).testBit c.obj) ||
    ((d.opcode == 0x46 || d.opcode == 0x47 || d.opcode == 0x48) && d.obj == c.obj)) = false)
include h hx hstep hscat he

/-- The table may begin a version: no open step has it, and no scatter or version command of it is ahead. -/
theorem vbegin_ready : (! s.inStep (tabKey r.part c.obj) &&
    ! (s.host.cmds.any fun d => d.opcode == 0x42 && d.ref.part == c.ref.part && d.obj == c.obj && (d.phase == .admitted || d.phase == .running)) &&
    ! (s.earlier c fun d => (d.opcode == 0x52 && (fld d.data 0x10 32).testBit c.obj) ||
      ((d.opcode == 0x46 || d.opcode == 0x47 || d.opcode == 0x48) && d.obj == c.obj))) = true := by
  obtain ⟨-, -, -, rfl, -⟩ := h
  have hnone : (s.host.cmds.any fun d => d.opcode == 0x42 && d.ref.part == c.ref.part && d.obj == c.obj && (d.phase == .admitted || d.phase == .running)) = false := by
    refine List.any_eq_false.mpr fun d hd hd' => ?_
    simp only [Bool.and_eq_true, beq_iff_eq, Bool.or_eq_true] at hd'
    obtain ⟨⟨⟨hop, hpart⟩, hobj⟩, hphase⟩ := hd'
    obtain ⟨hadm, hrun⟩ := hscat d hd hop hpart hobj
    exact hphase.elim hadm hrun
  rw [hstep, hnone, he]
  rfl

theorem exec_atVbegin_full (hfull : x.building.isSome = true ∨ 4 ≤ x.vers.length) : exec (.atVbegin r) s = next ((running s r).cmdFail r 6 []) := by
  have hok := vbegin_ready h hx hstep hscat he
  simp only [exec, execAtVbegin]
  rw [startWhen_starts h (by obtain ⟨-, -, -, rfl, -⟩ := h; exact hok)]
  simp only [tab_running, hx, hfull, if_true]

variable (hnone : x.building = none) (hroom : x.vers.length < 4) (halloc : (running s r).allocVer (tabKey r.part c.obj) (x.cur + 1) x = some u)
include hnone hroom halloc

theorem exec_atVbegin : exec (.atVbegin r) s =
    next ((running s r).vbeginEnd (withBuilding u (tabKey r.part c.obj) (x.cur + 1)) r (tabKey r.part c.obj) (x.cur + 1) x (bit c.p1 0)) := by
  have hok := vbegin_ready h hx hstep hscat he
  have hgo : ¬ (x.building.isSome = true ∨ 4 ≤ x.vers.length) := by
    rw [hnone]
    simp [hroom]
  simp only [exec, execAtVbegin]
  rw [startWhen_starts h (by obtain ⟨-, -, -, rfl, -⟩ := h; exact hok)]
  simp only [tab_running, hx, hgo, if_false, halloc]
  rfl

end

/-! ### AT_VSEAL and AT_VSWITCH (R304, R305) -/

/-- The state once a table's building version is current. -/
def State.switchTo (s : State) (tk new : Nat) : State := (s.nextSeq tk).modTab tk fun y => { y with cur := new, building := none, sealed := false }

theorem tab_switchTo (s : State) (tk new : Nat) : (s.switchTo tk new).tab? tk = (s.tab? tk).map fun y => switched y new := by
  rw [State.switchTo, tab_modTab_self, State.nextSeq, tab_modTab_self, Option.map_map]
  rfl

theorem otherTables_switchTo (s : State) (tk new : Nat) : otherTables s (s.switchTo tk new) tk :=
  otherTables_trans (otherTables_nextSeq s tk) (otherTables_modTab _ tk _)

section
variable {s u : State} {c : Cmd} {tk new : Nat} {x : Table}

theorem switchVer_unbacked (hb : x.backed = false) : s.switchVer c tk x new = (s.switchTo tk new).cmdDone c.ref [] none := by
  simp only [State.switchVer, hb, Bool.false_eq_true, if_false]
  rfl

theorem switchVer_backed {slots : List Nat} (hb : x.backed = true) (hro : s.gr.ronly = false) (hfua : c.fua = false)
    (hflush : State.flushTable tk s x.vers = (u, .ok slots)) (hu : settled u) :
    s.switchVer c tk x new = (u.switchTo tk new).commit.cmdDone c.ref [] none := by
  have hforced : (u.switchTo tk new).forced c = false := forced_of_settled (by exact hu) hfua
  rw [← commit_commitDone (u := u.switchTo tk new) (by exact hu)]
  simp only [State.switchVer, hb, hro, Bool.false_eq_true, if_false, if_true, hflush]
  rw [← State.switchTo, hforced]
  rfl

end

section
variable {s u : State} {r : CmdRef} {c : Cmd} {x : Table} {n : Nat}

section
variable (h : starts s r 0x47 c) (hready : s.sealReady c (! s.hostMode (.atl 1)) = true) (hx : s.tab? (tabKey r.part c.obj) = some x)
include h hready hx

theorem exec_atVseal_switches (hmode : s.hostMode (.atl 1) = false) (hopen : x.sealed = false) (hn : x.building = some n) :
    exec (.atVseal r) s = next ((running s r).switchVer c (tabKey r.part c.obj) x n) := by
  simp only [exec, execAtVseal]
  rw [startWhen_starts h hready]
  have hhw : (running s r).hostMode (.atl 1) = false := hmode
  simp only [tab_running, hx, hopen, hn, hhw, Bool.false_eq_true, if_false]

theorem exec_atVseal_seals (hmode : s.hostMode (.atl 1) = true) (hopen : x.sealed = false) (hn : x.building = some n) {a b : Nat}
    (hcount : (running s r).rowCounts (tabKey r.part c.obj) n x = (u, .ok (a, b))) : exec (.atVseal r) s =
      next ((u.modTab (tabKey r.part c.obj) fun y => { y with sealed := true }).cmdDone r [] (some (sub (leBytes 8 a ++ leBytes 8 b) 0 64))) := by
  simp only [exec, execAtVseal]
  rw [startWhen_starts h hready]
  have hhost : (running s r).hostMode (.atl 1) = true := hmode
  simp only [tab_running, hx, hopen, hn, hhost, Bool.false_eq_true, if_false, if_true, hcount]

theorem exec_atVseal_none (hno : x.building = none ∨ x.sealed = true) : exec (.atVseal r) s = next ((running s r).cmdFail r 2 []) := by
  simp only [exec, execAtVseal]
  rw [startWhen_starts h hready]
  have hnone : (if x.sealed = true then none else x.building) = none := by
    rcases hno with hb | hs
    · rw [hb, ite_self]
    · rw [if_pos hs]
  simp only [tab_running, hx, hnone]

end

section
variable (h : starts s r 0x48 c) (hready : s.sealReady c true = true) (hx : s.tab? (tabKey r.part c.obj) = some x)
include h hready hx

theorem exec_atVswitch_hardware (hmode : s.hostMode (.atl 1) = false) : exec (.atVswitch r) s = next ((running s r).cmdFail r 8 []) := by
  simp only [exec, execAtVswitch]
  rw [startWhen_starts h hready]
  have hhw : (running s r).hostMode (.atl 1) = false := hmode
  simp only [tab_running, hx, hhw, Bool.not_false, if_true]

theorem exec_atVswitch_switches (hmode : s.hostMode (.atl 1) = true) (hsealed : x.sealed = true) (hn : x.building = some n) :
    exec (.atVswitch r) s = next ((running s r).switchVer c (tabKey r.part c.obj) x n) := by
  simp only [exec, execAtVswitch]
  rw [startWhen_starts h hready]
  have hhost : (running s r).hostMode (.atl 1) = true := hmode
  simp only [tab_running, hx, hsealed, hn, hhost, Bool.not_true, Bool.false_eq_true, if_false, if_true]

end

/-- A switch in DRAM alone ends with the building version current. -/
theorem switchVer_switches (h : starts s r op c) (hx : s.tab? tk = some x) (hb : x.backed = false) : let t := (running s r).switchVer c tk x n
    ended t r 0 [] ∧ t.tab? tk = some (switched x n) ∧ otherTables s t tk ∧ t.dram = s.dram := by
  intro t
  obtain rfl : c.ref = r := h.2.2.2.1
  have ht : t = ((running s c.ref).switchTo tk n).cmdDone c.ref [] none := switchVer_unbacked hb
  rw [ht]
  refine ⟨cmdDone_ended (exists_cmd_running h) _, ?_, otherTables_switchTo (running s c.ref) tk n, rfl⟩
  rw [tab_cmdDone, tab_switchTo, tab_running, hx, Option.map_some]

/-- A switch of a backed table ends with the building version current, once it is on flash. -/
theorem switchVer_switches_backed (h : starts s r op c) (hb : x.backed = true) (hro : s.gr.ronly = false) (hfua : c.fua = false) {slots : List Nat}
    (hflush : State.flushTable tk (running s r) x.vers = (u, .ok slots)) (hu : settled u) (hkept : kept u r) :
    let t := (running s r).switchVer c tk x n
    ended t r 0 [] ∧ t.tab? tk = (u.tab? tk).map fun y => switched y n := by
  intro t
  obtain rfl : c.ref = r := h.2.2.2.1
  have ht : t = (u.switchTo tk n).commit.cmdDone c.ref [] none := switchVer_backed (s := running s c.ref) hb hro hfua hflush hu
  rw [ht]
  exact ⟨commit_ended (u := u.switchTo tk n) hkept _, tab_switchTo u tk n⟩

end

/-! ### AT_STAT and TABLE_VERSION_FREE (R271, R306) -/

theorem exec_atStat {s : State} {r : CmdRef} {c : Cmd} {x : Table} (h : starts s r 0x4A c) (hx : s.tab? (tabKey r.part c.obj) = some x) :
    ∃ b, exec (.atStat r) s = next ((running s r).cmdDone r [] (some b)) := by
  simp only [exec, execAtStat]
  rw [startCmd_starts h]
  simp only [tab_running, hx]
  exact ⟨_, rfl⟩

section
variable {s : State} {p tab ver : Nat} {x : Table} (hp : p < 16) (htab : tab < 256) (hx : s.tab? (tabKey p tab) = some x) (hm : s.media = true)
include hp htab hx

theorem exec_tableVersionFree_held (hheld : s.verHeld (tabKey p tab) ver = true) : exec (.tableVersionFree p tab ver) s = next s := by
  simp only [exec, execTableVersionFree]
  rw [guardUnit_tab hp htab]
  simp only [hx, hheld, Bool.or_true, Bool.true_or, if_true]

include hm in
theorem exec_tableVersionFree (hheld : s.verHeld (tabKey p tab) ver = false) (hver : x.vers.any (·.no == ver) = true) :
    exec (.tableVersionFree p tab ver) s = next ((s.freeVer (tabKey p tab) ver).modTab (tabKey p tab) fun y => { y with
      vers := y.vers.filter (·.no != ver), misses := y.misses.filter (·.1 != ver), syncOld := if ver = y.syncVer then some (y.ver ver) else y.syncOld }) := by
  simp only [exec, execTableVersionFree]
  rw [guardUnit_tab hp htab]
  simp only [hx, hm, hheld, hver, Bool.not_true, Bool.or_false, Bool.false_eq_true, if_false]

end

/-! ### The statement -/

/-- Settles O47: each command is one change of its table, the rows it writes leave the table's standing, and a commit that waits for nothing ends it. -/
theorem atlasTablesAndVersions : Obligations.AtlasTablesAndVersions := by
  refine ⟨fun s r c hs h he => ?_, fun s r c x => ?_, fun s p tab ver x hp htab hx hm => ⟨fun hheld => ?_, fun hheld hver => ?_⟩⟩
  · intro tk y hx
    refine ⟨fun u w halloc hfill hw hkept => atCreate_creates h he hx halloc hfill hw hkept, fun halloc => ?_⟩
    exact ⟨_, exec_atCreate_full h he hx halloc, cmdFail_ended (exists_cmd_running h) _ _, onlyCmd_trans (onlyCmd_running s r) (onlyCmd_cmdFail _ r _ _)⟩
  · intro tk new hx
    refine ⟨fun hs h he hstep => atDrop_drops hs h he hstep hx, fun h hstep hscat he => ⟨fun hfull => ?_, fun hnone hroom u halloc => ?_⟩, fun h hready => ?_,
      fun h hready => ?_, fun h => ?_⟩
    · exact ⟨_, exec_atVbegin_full h hx hstep hscat he hfull, cmdFail_ended (exists_cmd_running h) _ _,
        onlyCmd_trans (onlyCmd_running s r) (onlyCmd_cmdFail _ r _ _)⟩
    · rw [exec_atVbegin h hx hstep hscat he hnone hroom halloc]
      have hu : u.atl = s.atl := allocVer_atl (s := running s r) halloc
      refine ⟨fun hcopy w hw hset hkept => ?_, fun hcopy hb w hw hkept => ?_, fun hcopy hb w hw hset hkept => ?_, fun hcopy hb w e hw => ?_⟩
      · have hend : (running s r).vbeginEnd (withBuilding u tk new) r tk new x (bit c.p1 0) = w.commit.cmdDone r [] none := by
          rw [State.vbeginEnd, hcopy, ← commit_commitDone hset, ← hw]
          rfl
        obtain ⟨y, hy⟩ := RowsAct.begun hu hx (hw ▸ RowsAct.of_atl (fillVer_atl _ tk new x true))
        exact ⟨_, y, congrArg _ hend, commit_ended hkept _, hy⟩
      · have hend : (running s r).vbeginEnd (withBuilding u tk new) r tk new x (bit c.p1 0) = w.cmdDone r [] none := by
          rw [State.vbeginEnd, hcopy, hb, ← hw]
          rfl
        obtain ⟨y, hy⟩ := RowsAct.begun hu hx (hw ▸ copyVer_rowsAct _ tk x.cur new x)
        exact ⟨_, y, congrArg _ hend, cmdDone_ended hkept _, hy⟩
      · have hend : (running s r).vbeginEnd (withBuilding u tk new) r tk new x (bit c.p1 0) = w.commit.cmdDone r [] none := by
          rw [State.vbeginEnd, hcopy, hb, hw, ← commit_commitDone hset]
          rfl
        exact ⟨_, congrArg _ hend, commit_ended hkept _, rfl, rfl⟩
      · have hend : (running s r).vbeginEnd (withBuilding u tk new) r tk new x (bit c.p1 0) = (running s r).cmdFail r 0x12 (leBytes 8 e) := by
          rw [State.vbeginEnd, hcopy, hb, hw]
          rfl
        exact ⟨_, congrArg _ hend, cmdFail_ended (exists_cmd_running h) _ _⟩
    · refine ⟨fun hmode hopen n hn => ?_, fun hmode hopen n u a b hn hcount hkept => ?_, fun hno => ?_⟩
      · rw [exec_atVseal_switches h hready hx hmode hopen hn]
        exact ⟨fun hb => ⟨_, rfl, switchVer_switches h hx hb⟩,
          fun hb hro hfua u sl hflush hu hkept => ⟨_, rfl, switchVer_switches_backed h hb hro hfua hflush hu hkept⟩⟩
      · exact ⟨_, exec_atVseal_seals h hready hx hmode hopen hn hcount, cmdDone_answered (s := u.modTab tk _) hkept _ _, by rw [tab_cmdDone, tab_modTab_self]⟩
      · exact ⟨_, exec_atVseal_none h hready hx hno, cmdFail_ended (exists_cmd_running h) _ _,
          onlyCmd_trans (onlyCmd_running s r) (onlyCmd_cmdFail _ r _ _)⟩
    · refine ⟨fun hmode => ?_, fun hmode hsealed hb n hn => ?_, fun hmode hsealed hb hro hfua n u sl hn hflush hu hkept => ?_⟩
      · exact ⟨_, exec_atVswitch_hardware h hready hx hmode, cmdFail_ended (exists_cmd_running h) _ _,
          onlyCmd_trans (onlyCmd_running s r) (onlyCmd_cmdFail _ r _ _)⟩
      · exact ⟨_, exec_atVswitch_switches h hready hx hmode hsealed hn, switchVer_switches h hx hb⟩
      · exact ⟨_, exec_atVswitch_switches h hready hx hmode hsealed hn, switchVer_switches_backed h hb hro hfua hflush hu hkept⟩
    · obtain ⟨b, hexec⟩ := exec_atStat h hx
      exact ⟨_, b, hexec, cmdDone_answered (exists_cmd_running h) _ _, onlyCmd_trans (onlyCmd_running s r) (onlyCmd_cmdDone _ r _ _)⟩
  · exact exec_tableVersionFree_held hp htab hx hheld
  · exact ⟨_, exec_tableVersionFree hp htab hx hm hheld hver, tab_modTab_of_some (s := s.freeVer (tabKey p tab) ver) hx _,
      otherTables_modTab (s.freeVer (tabKey p tab) ver) _ _, rfl⟩

end Sys2Proof.Machine

/-! PROOF. Scatter, prefetch, sync and flash fills (07 R279, R281 to R285, R297, R298): what a scatter record does to its row, what a prefetch asks for, and
what a sync keeps. -/

namespace Sys2Proof.Machine

open Sys2Proof.Claims

/-! ### AT_SCATTER (R282 to R285) -/

theorem stepWhen_starts {s : State} {r : CmdRef} {op : Nat} {c : Cmd} (h : starts s r op c) {ok : Cmd → State → Bool} (hok : ok c s = true)
    (start more : Cmd → State → State) : stepWhen r op ok start more s = next (start c (running s r)) := by
  rw [stepWhen, startable_of_starts h]
  simp only [hok, if_true]
  exact stepCmd_starts h start more

section
variable {s u : State} {r : CmdRef} {c : Cmd} {x : Table}

theorem exec_atScatter (h : starts s r 0x42 c) (he : (s.earlier c fun d => d.opcode == 0x42 && d.obj == c.obj) = false) :
    exec (.atScatter r) s = next ((running s r).scatterGo c) := by
  simp only [exec, execAtScatter]
  exact stepWhen_starts h (by rw [he]; rfl) _ _

/-- A record that asks for the building version names none where there is none, or a sealed one (R284, R304). -/
theorem named_eq_none {w : Nat} (h : bit w 42 = true ∧ (x.building = none ∨ x.sealed = true)) : x.named w = none := by
  obtain ⟨hsel, hno⟩ := h
  rw [Table.named, if_pos hsel]
  rcases hno with hb | hs
  · rw [hb, ite_self]
  · rw [if_pos hs]

theorem named_eq_some {w no : Nat} (h : (bit w 42 = false ∧ no = x.cur) ∨ (bit w 42 = true ∧ x.sealed = false ∧ x.building = some no)) :
    x.named w = some no := by
  rcases h with ⟨hsel, rfl⟩ | ⟨hsel, hs, hb⟩
  · rw [Table.named, if_neg (hsel ▸ Bool.false_ne_true)]
  · rw [Table.named, if_pos hsel, if_neg (hs ▸ Bool.false_ne_true), hb]

theorem recBytes_pos (x : Table) : 0 < x.recBytes := by unfold Table.recBytes; omega

/-- A batch of one record, from its start. -/
theorem scatterGo_one (hx : s.tab? (tabKey c.ref.part c.obj) = some x) (hwork : c.work = []) (hlen : c.dlen = x.recBytes) {drop : Nat}
    (hone : State.scatterFrom (tabKey c.ref.part c.obj) c.data s 1 0 0 = (u, 1, drop, .done)) : s.scatterGo c = u.cmdDone c.ref (leBytes 4 drop) none := by
  simp only [State.scatterGo, hx, hwork, hlen, Nat.div_self (recBytes_pos x), List.headD_nil, List.getD_nil, Nat.sub_zero, hone]

/-- A record beyond the table, of no operation, or of no version is dropped. -/
theorem scatterFrom_dropped {tk : Nat} {data : Bytes} (hx : s.tab? tk = some x)
    (hdrop : x.rows ≤ fld data 0 8 % 2 ^ 40 ∨ bits (fld data 0 8) 41 40 = 3 ∨ x.named (fld data 0 8) = none) :
    State.scatterFrom tk data s 1 0 0 = (s, 1, 1, .done) := by
  simp only [State.scatterFrom, hx, Nat.zero_mul]
  cases hn : x.named (fld data 0 8) with
  | none => rfl
  | some no =>
    have hout : x.rows ≤ fld data 0 8 % 2 ^ 40 ∨ bits (fld data 0 8) 41 40 = 3 := by
      rw [hn] at hdrop
      simpa using hdrop
    simp only [hout, if_true]

/-- A record whose row is at hand is applied to it. -/
theorem scatterFrom_applied {tk no : Nat} {data old : Bytes} {st : Put} (hx : s.tab? tk = some x) (hn : x.named (fld data 0 8) = some no)
    (hrow : fld data 0 8 % 2 ^ 40 < x.rows) (hop : bits (fld data 0 8) 41 40 ≠ 3) (hread : s.rowForWrite tk no (fld data 0 8 % 2 ^ 40) = (u, some old, st))
    {sc : Nat} {miss : Bool} {el : Bytes} (hnew : scatterRow x (bits (fld data 0 8) 41 40) (fld data 8 4) (data.drop 16) old = (sc, miss, el)) :
    State.scatterFrom tk data s 1 0 0 = ((u.putRow tk no (fld data 0 8 % 2 ^ 40) sc miss el old).scatterShadow x tk no (fld data 0 8 % 2 ^ 40)
      (bits (fld data 0 8) 41 40) (fld data 8 4) (data.drop 16), 1, 0, .done) := by
  have hin : ¬ (x.rows ≤ fld data 0 8 % 2 ^ 40 ∨ bits (fld data 0 8) 41 40 = 3) := not_or.mpr ⟨Nat.not_le.mpr hrow, hop⟩
  simp only [State.scatterFrom, hx, Nat.zero_mul, Nat.zero_add, hn, hin, if_false, hread, hnew]

end

/-! ### AT_PREFETCH (R297) -/

section
variable {s : State} {tk no : Nat} {x : Table}

/-- A prefetch reaches the tables alone. -/
theorem prefetch_frame (s : State) (tk no : Nat) (rows : List Nat) : { (s.prefetch tk no rows).1 with atl := s.atl } = s := by
  unfold State.prefetch
  split
  · rfl
  · refine List.foldlRecOn _ _ (motive := fun acc : State × Nat => { acc.1 with atl := s.atl } = s) rfl fun acc hacc row _ => ?_
    dsimp only
    split
    · exact hacc
    split
    · exact hacc
    split
    · exact hacc
    split
    · exact hacc
    · exact hacc

theorem prefetch_host (s : State) (tk no : Nat) (rows : List Nat) : (s.prefetch tk no rows).1.host = s.host :=
  (congrArg State.host (prefetch_frame s tk no rows) :)
theorem prefetch_gr (s : State) (tk no : Nat) (rows : List Nat) : (s.prefetch tk no rows).1.gr = s.gr :=
  (congrArg State.gr (prefetch_frame s tk no rows) :)
theorem prefetch_dram (s : State) (tk no : Nat) (rows : List Nat) : (s.prefetch tk no rows).1.dram = s.dram :=
  (congrArg State.dram (prefetch_frame s tk no rows) :)

theorem prefetch_unbacked (hx : s.tab? tk = some x) (hb : x.backed = false) (rows : List Nat) : s.prefetch tk no rows = (s, 0) := by
  simp only [State.prefetch, hx, hb, Bool.not_false, or_true, if_true]
  exact List.foldlRecOn rows _ (motive := fun acc : State × Nat => acc = (s, 0)) rfl fun _ hacc _ _ => hacc

/-- A row of a backed table that is neither resident nor awaited is asked for. -/
theorem prefetch_asks {row : Nat} (hx : s.tab? tk = some x) (hb : x.backed = true) (hrow : row < x.rows) (haway : x.sourceSlot no row = none)
    (hnew : (x.misses.any fun m => m.1 == no && m.2.1 == row) = false) : (s.prefetch tk no [row]).1 = s.wantRow tk no row true := by
  have hin : ¬ (x.rows ≤ row ∨ (! x.backed) = true) := by
    rw [hb]
    simp [hrow]
  simp only [State.prefetch, hx, List.foldl_cons, List.foldl_nil, hin, if_false, haway, hnew, Bool.false_eq_true]

theorem tab_wantRow {row : Nat} {ahead : Bool} (hx : s.tab? tk = some x) (hnew : (x.misses.any fun m => m.1 == no && m.2.1 == row) = false) :
    (s.wantRow tk no row ahead).tab? tk = some { x with misses := x.misses ++ [(no, row, ahead)] } := by
  rw [State.wantRow, tab_modTab_of_some hx, hnew]
  rfl

theorem exec_atPrefetch {r : CmdRef} {c : Cmd} (h : starts s r 0x44 c) (hx : s.tab? (tabKey r.part c.obj) = some x) : exec (.atPrefetch r) s =
    next ((((running s r).prefetch (tabKey r.part c.obj) x.cur ((List.range (c.dlen / 8)).map fun i => fld c.data (8 * i) 8)).1).cmdDone r [] none) := by
  simp only [exec, execAtPrefetch]
  rw [startCmd_starts h]
  simp only [tab_running, hx]

end

/-! ### AT_SYNC (R281) -/

section
variable {s u : State} {r : CmdRef} {c : Cmd} {x : Table} {slots : List Nat}

theorem exec_atSync (h : starts s r 0x45 c) (he : (s.earlier c fun d => d.opcode == 0x42 && d.obj == c.obj) = false)
    (hx : s.tab? (tabKey r.part c.obj) = some x) (hb : x.backed = true) (hro : s.gr.ronly = false)
    (hflush : State.flushTable (tabKey r.part c.obj) (running s r) x.vers = (u, .ok slots)) :
    exec (.atSync r) s = next (u.commit.syncDone r (if u.forced c then slots else []) (tabKey r.part c.obj, x.cur, x.frozen)) := by
  simp only [exec, execAtSync]
  rw [startWhen_starts h (by rw [he]; rfl)]
  have hwritable : (running s r).gr.ronly = false := hro
  simp only [tab_running, hx, hb, hwritable, Bool.not_true, Bool.false_eq_true, if_false, hflush]

theorem exec_atSync_unreadable (h : starts s r 0x45 c) (he : (s.earlier c fun d => d.opcode == 0x42 && d.obj == c.obj) = false)
    (hx : s.tab? (tabKey r.part c.obj) = some x) (hb : x.backed = true) (hro : s.gr.ronly = false) {bad : Nat}
    (hflush : State.flushTable (tabKey r.part c.obj) (running s r) x.vers = (u, .error bad)) :
    exec (.atSync r) s = next (u.cmdFail r 0x12 (leBytes 8 bad)) := by
  simp only [exec, execAtSync]
  rw [startWhen_starts h (by rw [he]; rfl)]
  have hwritable : (running s r).gr.ronly = false := hro
  simp only [tab_running, hx, hb, hwritable, Bool.not_true, Bool.false_eq_true, if_false, hflush]

theorem exec_atSync_unbacked (h : starts s r 0x45 c) (he : (s.earlier c fun d => d.opcode == 0x42 && d.obj == c.obj) = false)
    (hx : s.tab? (tabKey r.part c.obj) = some x) (hb : x.backed = false) : exec (.atSync r) s = next ((running s r).cmdDone r [] none) := by
  simp only [exec, execAtSync]
  rw [startWhen_starts h (by rw [he]; rfl)]
  simp only [tab_running, hx, hb, Bool.not_false, if_true]

/-- The state once a power loss gives back this version of a table, with these frozen rows. -/
def State.synced (s : State) (tk no : Nat) (fz : List (Nat × Nat)) : State :=
  s.modTab tk fun y => { y with syncVer := no, syncFrozen := fz, syncOld := if y.syncVer = no then y.syncOld else none }

/-- Where no completion waits for the flash, a sync keeps its version as it ends. -/
theorem syncDone_settled (h : settled u) (tk no : Nat) (fz : List (Nat × Nat)) :
    u.syncDone r [] (tk, no, fz) = (u.synced tk no fz).cmdDone r [] none := by
  obtain ⟨hwt, hawaits⟩ := h
  have hend : u.syncDone r [] (tk, no, fz) = ((u.modGr fun g => { g with awaits := [] }).synced tk no fz).cmdDone r [] none := by
    simp [State.syncDone, State.finishAwaits, State.modGr, hawaits, hwt, State.syncMark, State.synced, State.modTab, State.modAtl]
  rw [hend, ← hawaits]
  rfl

theorem atSync_keeps (h : starts s r 0x45 c) (he : (s.earlier c fun d => d.opcode == 0x42 && d.obj == c.obj) = false)
    (hx : s.tab? (tabKey r.part c.obj) = some x) (hb : x.backed = true) (hro : s.gr.ronly = false)
    (hflush : State.flushTable (tabKey r.part c.obj) (running s r) x.vers = (u, .ok slots)) (hu : settled u) (hfua : c.fua = false) (hkept : kept u r) :
    ∃ t, exec (.atSync r) s = next t ∧ ended t r 0 [] ∧ t.dram = u.dram ∧ t.tab? (tabKey r.part c.obj) = (u.tab? (tabKey r.part c.obj)).map fun y => { y with
      syncVer := x.cur, syncFrozen := x.frozen, syncOld := if y.syncVer = x.cur then y.syncOld else none } := by
  rw [exec_atSync h he hx hb hro hflush, forced_of_settled hu hfua, if_neg Bool.false_ne_true, syncDone_settled (u := u.commit) hu]
  refine ⟨_, rfl, cmdDone_ended (s := u.commit.synced (tabKey r.part c.obj) x.cur x.frozen) hkept _, rfl, ?_⟩
  rw [tab_cmdDone, State.synced, tab_modTab_self, tab_commit]

end

/-! ### ROW_FLASH_FILL (R279, R295, R298) -/

/-- A fill goes ahead with the media ready and, of a prefetch, with no miss of its channel in front. -/
theorem fill_not_refused {s : State} {g : Nat} {ahead : Bool} (hm : s.media = true) (hfront : ahead = true → s.missAt g = false) :
    (! s.media || ahead && s.missAt g) = false := by
  rw [hm]
  cases ahead with
  | false => rfl
  | true => rw [hfront rfl]; rfl

/-- The state once an awaited row is awaited no more. -/
def State.fillTaken (s : State) (tk no row : Nat) : State :=
  (s.modTab tk fun y => { y with misses := y.misses.filter (fun m => ! (m.1 == no && m.2.1 == row)), fills := y.fills + 1 }).modAtl
    fun a => { a with missCnt := satBv a.missCnt 1 }

section
variable {s v : State} {p tab q no : Nat} {ahead : Bool} {x : Table} (hp : p < 16) (htab : tab < 256) (hx : s.tab? (tabKey p tab) = some x)
  (hmiss : (x.misses.find? fun m => m.2.1 == q) = some (no, q, ahead)) (o : ReadOutcome)

include hp htab hx hmiss

theorem exec_rowFlashFill_behind (ha : ahead = true) (hat : s.missAt (x.place.getD (x.homeChan q) 0) = true) : exec (.rowFlashFill p tab q o) s = next s := by
  simp only [exec, execRowFlashFill]
  rw [guardUnit_tab hp htab]
  simp only [hx, hmiss, ha, hat, Bool.and_self, Bool.or_true, if_true]

variable (hm : s.media = true) (hfront : ahead = true → s.missAt (x.place.getD (x.homeChan q) 0) = false)
include hm hfront

theorem exec_rowFlashFill_unreadable (hpage : (s.fillTaken (tabKey p tab) no q).flashPage (tabKey p tab) no x (x.rowPage q) (some o) = (v, none)) :
    exec (.rowFlashFill p tab q o) s = next ((v.giveRow (tabKey p tab) no q none).tableGo (tabKey p tab)) := by
  have hgo := fill_not_refused hm hfront
  rw [State.fillTaken] at hpage
  simp only [exec, execRowFlashFill]
  rw [guardUnit_tab hp htab]
  simp only [hx, hmiss, hgo, Bool.false_eq_true, if_false, hpage]

theorem exec_rowFlashFill (hpage : (s.fillTaken (tabKey p tab) no q).flashPage (tabKey p tab) no x (x.rowPage q) (some o) = (v, some m)) :
    exec (.rowFlashFill p tab q o) s = next ((((v.install (tabKey p tab) no q (rdBytes m (x.rowOff q) x.slotSize)).1).giveRow (tabKey p tab) no q
      (some (rdBytes m (x.rowOff q) x.slotSize))).tableGo (tabKey p tab)) := by
  have hgo := fill_not_refused hm hfront
  rw [State.fillTaken] at hpage
  simp only [exec, execRowFlashFill]
  rw [guardUnit_tab hp htab]
  simp only [hx, hmiss, hgo, Bool.false_eq_true, if_false, hpage]

end

end Sys2Proof.Machine

/-! PROOF. AT_GATHER (07 R286 to R297): a batch whose rows are all at hand is answered whole, an unreadable row fails it, and a batch that waits counts what it
waits for. -/

namespace Sys2Proof.Machine

open Sys2Proof.Claims

/-! ### Bytes of an answer -/

theorem length_sub (bs : Bytes) (o n : Nat) : (sub bs o n).length = n := by
  simp only [sub, zeros, List.length_append, List.length_take, List.length_drop, List.length_replicate]
  omega

theorem length_flatMap_of_const {α : Type} {f : α → Bytes} {n : Nat} {l : List α} (h : ∀ a ∈ l, (f a).length = n) : (l.flatMap f).length = l.length * n := by
  induction l with
  | nil => simp
  | cons a l ih =>
    rw [List.flatMap_cons, List.length_append, h a List.mem_cons_self, ih fun b hb => h b (List.mem_cons_of_mem _ hb), List.length_cons, Nat.succ_mul,
      Nat.add_comm]

/-- The first bytes of a string that begins with them. -/
theorem sub_append_left {a : Bytes} {n : Nat} (b : Bytes) (h : a.length = n) : sub (a ++ b) 0 n = a := by
  simp [sub, zeros, ← h]

/-- An empty bag pools to zero (R291). -/
theorem poolRow_nil (x : Table) (pool seed : Nat) : poolRow x pool seed [] = List.replicate x.d 0 := by
  simp only [poolRow, if_true, List.map_const', List.length_range]

/-! ### The end of a batch (R288, R291 to R295) -/

/-- The indices of a batch whose rows were found unreadable, each with its position. -/
def State.gatherUnread (s : State) (c : Cmd) : List (Nat × Nat × Option (Option Bytes)) :=
  ((List.range (gBatch c.data).ni).map fun i => (i, (gBatch c.data).index c.data i, s.takenOf c.ref i)).filter fun e => e.2.2 == some none

theorem mem_gatherUnread {s : State} {c : Cmd} {e : Nat × Nat × Option (Option Bytes)} :
    e ∈ s.gatherUnread c ↔ ∃ i, i < (gBatch c.data).ni ∧ s.takenOf c.ref i = some none ∧ e = (i, (gBatch c.data).index c.data i, some none) := by
  simp only [State.gatherUnread, List.mem_filter, List.mem_map, List.mem_range, beq_iff_eq]
  constructor
  · rintro ⟨⟨i, hi, rfl⟩, hnone⟩
    exact ⟨i, hi, hnone, congrArg (fun b => (i, (gBatch c.data).index c.data i, b)) hnone⟩
  · rintro ⟨i, hi, hnone, rfl⟩
    exact ⟨⟨i, hi, by rw [hnone]⟩, rfl⟩

section
variable {s : State} {c : Cmd} {x : Table} (hx : s.tab? (tabKey c.ref.part (atTarget c)) = some x)
include hx

/-- Without PARTIAL_OK, the first row that could not be read fails the batch with its index. -/
theorem gatherEnd_unreadable (hpartial : (gBatch c.data).partialOk = false)
    (hun : ∃ i, i < (gBatch c.data).ni ∧ s.takenOf c.ref i = some none) :
    ∃ i, i < (gBatch c.data).ni ∧ s.takenOf c.ref i = some none ∧
      s.gatherEnd c = (s.untake c.ref).cmdFail c.ref 0x12 (leBytes 8 ((gBatch c.data).index c.data i)) := by
  obtain ⟨e, hhead⟩ : ∃ e, (s.gatherUnread c).head? = some e := by
    obtain ⟨i, hi, hnone⟩ := hun
    cases hl : s.gatherUnread c with
    | nil => exact absurd (hl ▸ mem_gatherUnread.mpr ⟨i, hi, hnone, rfl⟩) List.not_mem_nil
    | cons e l => exact ⟨e, rfl⟩
  obtain ⟨i, hi, hnone, rfl⟩ := mem_gatherUnread.mp (List.mem_of_mem_head? hhead)
  refine ⟨i, hi, hnone, ?_⟩
  unfold State.gatherEnd
  extract_lets tk b got unread
  have hfirst : (if b.partialOk = true then none else unread.head?) = some (i, (gBatch c.data).index c.data i, some none) := by
    rw [if_neg (hpartial ▸ Bool.false_ne_true)]
    exact hhead
  have hsome : s.tab? tk = some x := hx
  simp only [hsome, hfirst]

/-- A batch with no such row, or with PARTIAL_OK, is answered. -/
theorem gatherEnd_answers (hok : (gBatch c.data).partialOk = true ∨ ∀ i, i < (gBatch c.data).ni → s.takenOf c.ref i ≠ some none) :
    ∃ (u : State) (body : Bytes), s.gatherEnd c = u.cmdDone c.ref [] (some body) ∧ u.host = s.host ∧
      sub body 0 12 = leBytes 4 (gBatch c.data).nb ++ leBytes 4 (gBatch c.data).ni ++ leBytes 4 (c.work.headD 0) ∧ body.length = (gBatch c.data).ansBytes x := by
  unfold State.gatherEnd
  extract_lets tk b got unread miss valid bags scales
  have hfirst : (if b.partialOk = true then none else unread.head?) = none := by
    rcases hok with hpartial | hread
    · rw [if_pos hpartial]
    · have hempty : s.gatherUnread c = [] := List.eq_nil_iff_forall_not_mem.mpr fun e he => by
        obtain ⟨i, hi, hnone, -⟩ := mem_gatherUnread.mp he
        exact hread i hi hnone
      rw [show unread.head? = (s.gatherUnread c).head? from rfl, hempty, List.head?_nil, ite_self]
  have hsome : s.tab? tk = some x := hx
  simp only [hsome, hfirst]
  refine ⟨_, _, rfl, rfl, ?_, ?_⟩
  · simp only [List.append_assoc]
    rw [← List.append_assoc, ← List.append_assoc]
    exact (sub_append_left _ (by simp)).trans (List.append_assoc _ _ _)
  · have hscales : scales.length = if b.native then up64 (4 * b.ni) else 0 := by
      simp only [scales]
      split
      · exact length_sub _ _ _
      · rfl
    have hbags : ((List.range b.nb).zip bags).length = b.nb := by simp [bags]
    simp only [List.length_append, length_leBytes, length_sub, hscales]
    rw [length_flatMap_of_const (n := b.rowBytes x), hbags]
    · rfl
    · intro a _
      split <;> exact length_sub _ _ _

end

/-! ### The command (R286, R297) -/

theorem kept_modCmd {s : State} {r : CmdRef} (h : kept s r) {f : Cmd → Cmd} (hf : ∀ d, (f d).ref = d.ref) : kept (s.modCmd r f) r := by
  obtain ⟨d, hd⟩ := h
  exact ⟨f d, cmd_modCmd f hd (hf d)⟩

theorem atTarget_of_starts {s : State} {r : CmdRef} {c : Cmd} (h : starts s r 0x43 c) : atTarget c = fld c.data 0 1 := by
  obtain ⟨-, hop, -⟩ := startable_some (startable_of_starts h)
  rw [atTarget, hop, if_pos rfl]

/-- What a gather notes as it starts: its version and number, how many rows it waits for, and how many next indices it asked for. -/
def gatherNotes (c : Cmd) (wait : List Nat) (n : Nat) : List Nat := [c.work.headD 0, c.work.getD 1 0, wait.dedup.length, n]

section
variable {s u v : State} {r : CmdRef} {c : Cmd} {n : Nat} {x : Table} {wait : List Nat} (h : starts s r 0x43 c)
  (htake : ((running s r).routeCount c).gatherTake c = (u, wait))
  (hnext : u.prefetch (tabKey r.part (fld c.data 0 1)) (c.work.headD 0)
    ((List.range (gBatch c.data).nn).map fun i => fld c.data ((gBatch c.data).nextAt + 8 * i) 8) = (v, n))
include h htake hnext

theorem exec_atGather : exec (.atGather r) s =
    next (if wait = [] then (v.modCmd r fun d => { d with work := gatherNotes c wait n }).gatherEnd { c with work := gatherNotes c wait n }
      else v.modCmd r fun d => { d with work := gatherNotes c wait n }) := by
  simp only [exec, execAtGather]
  rw [stepCmd_starts h]
  simp only [htake, atTarget_of_starts h, hnext]
  rfl

variable (hx : v.tab? (tabKey r.part (fld c.data 0 1)) = some x) (hkept : kept v r) (hwait : wait = [])
include hx hkept hwait

theorem atGather_answers (hok : (gBatch c.data).partialOk = true ∨ ∀ i, i < (gBatch c.data).ni → v.takenOf r i ≠ some none) :
    ∃ t body, exec (.atGather r) s = next t ∧ answered t r body ∧
      sub body 0 12 = leBytes 4 (gBatch c.data).nb ++ leBytes 4 (gBatch c.data).ni ++ leBytes 4 (c.work.headD 0) ∧
      body.length = (gBatch c.data).ansBytes x := by
  rw [exec_atGather h htake hnext, if_pos hwait]
  rw [← atTarget_of_starts h] at hx
  obtain rfl : c.ref = r := h.2.2.2.1
  obtain ⟨w, body, hend, hhost, hfront, hlen⟩ := gatherEnd_answers (s := v.modCmd c.ref fun d => { d with work := gatherNotes c wait n })
    (c := { c with work := gatherNotes c wait n }) hx hok
  obtain ⟨d, hd⟩ : kept (v.modCmd c.ref fun d => { d with work := gatherNotes c wait n }) c.ref := kept_modCmd hkept fun _ => rfl
  exact ⟨_, body, congrArg _ hend, cmdDone_answered ⟨d, (cmd_congr hhost c.ref).trans hd⟩ _ _, hfront, hlen⟩

theorem atGather_unreadable (hpartial : (gBatch c.data).partialOk = false) (hun : ∃ i, i < (gBatch c.data).ni ∧ v.takenOf r i = some none) :
    ∃ t i, exec (.atGather r) s = next t ∧ i < (gBatch c.data).ni ∧ v.takenOf r i = some none ∧
      ended t r 0x12 (leBytes 8 ((gBatch c.data).index c.data i)) := by
  rw [exec_atGather h htake hnext, if_pos hwait]
  rw [← atTarget_of_starts h] at hx
  obtain rfl : c.ref = r := h.2.2.2.1
  obtain ⟨i, hi, hnone, hend⟩ := gatherEnd_unreadable (s := v.modCmd c.ref fun d => { d with work := gatherNotes c wait n })
    (c := { c with work := gatherNotes c wait n }) hx hpartial hun
  have hnoted : kept (v.modCmd c.ref fun d => { d with work := gatherNotes c wait n }) c.ref := kept_modCmd hkept fun _ => rfl
  exact ⟨_, i, congrArg _ hend, hi, hnone, cmdFail_ended (s := (v.modCmd c.ref fun d => { d with work := gatherNotes c wait n }).untake c.ref) hnoted _ _⟩

end

/-! ### The statement -/

/-- Settles O48: a record is applied or dropped, a batch is answered once no row of it is awaited, and what a prefetch, a sync or a fill changes is the table's
own. -/
theorem atlasRowAccess : Obligations.AtlasRowAccess := by
  intro s r c x row op
  refine ⟨fun h hx hwork hlen he => ?_, fun h u v w n => ?_, poolRow_nil x, fun h hx => ?_, fun h hx he => ?_, ?_⟩
  · intro tk
    obtain rfl : c.ref = r := h.2.2.2.1
    rw [exec_atScatter h he]
    refine ⟨fun hdrop => ?_, fun hrow hop no u old st sc miss el w hno hread hnew hput hkept => ?_, fun sc data old => ⟨rfl, rfl⟩⟩
    · have hdropped := scatterFrom_dropped (s := running s c.ref) hx (hdrop.imp_right (Or.imp_right named_eq_none))
      rw [scatterGo_one (s := running s c.ref) hx hwork hlen hdropped]
      exact ⟨_, rfl, cmdDone_ended (exists_cmd_running h) _, onlyCmd_trans (onlyCmd_running s c.ref) (onlyCmd_cmdDone _ c.ref _ _)⟩
    · have happlied := scatterFrom_applied (s := running s c.ref) hx (named_eq_some hno) hrow hop hread hnew
      rw [scatterGo_one (s := running s c.ref) hx hwork hlen happlied, hput]
      exact ⟨_, rfl, cmdDone_ended hkept _, rfl, rfl⟩
  · intro b tk htake hnext hx hkept
    refine ⟨fun hw hok => atGather_answers h htake hnext hx hkept hw hok, fun hw hpartial hun => atGather_unreadable h htake hnext hx hkept hw hpartial hun,
      fun hw => ?_⟩
    rw [exec_atGather h htake hnext, if_neg hw]
    rfl
  · rw [exec_atPrefetch h hx]
    refine ⟨_, rfl, cmdDone_ended ?_ _, prefetch_gr _ _ _ _, prefetch_dram _ _ _ _, fun hb => ?_, fun hb hlen hrow haway hnew => ?_⟩
    · rw [cmd_congr (prefetch_host _ _ _ _)]
      exact exists_cmd_running h
    · rw [prefetch_unbacked (s := running s r) hx hb]
      exact onlyCmd_trans (onlyCmd_running s r) (onlyCmd_cmdDone _ r _ _)
    · have hone : ((List.range (c.dlen / 8)).map fun i => fld c.data (8 * i) 8) = [fld c.data 0 8] := by rw [hlen]; rfl
      rw [tab_cmdDone, hone, prefetch_asks (s := running s r) hx hb hrow haway hnew, tab_wantRow (s := running s r) hx hnew]
  · intro tk
    refine ⟨fun hb => ?_, fun hb hro u sl hflush hu hfua hkept => ?_, fun hb hro u bad hflush hkept => ?_⟩
    · exact ⟨_, exec_atSync_unbacked h he hx hb, cmdDone_ended (exists_cmd_running h) _, onlyCmd_trans (onlyCmd_running s r) (onlyCmd_cmdDone _ r _ _)⟩
    · exact atSync_keeps h he hx hb hro hflush hu hfua hkept
    · exact ⟨_, exec_atSync_unreadable h he hx hb hro hflush, cmdFail_ended hkept _ _⟩
  · intro p tab q no ahead o v hp htab hx hm hmiss
    refine ⟨fun ha hat => exec_rowFlashFill_behind hp htab hx hmiss o ha hat, fun hfront => ?_⟩
    intro page
    refine ⟨fun hpage => exec_rowFlashFill_unreadable hp htab hx hmiss o hm hfront hpage, fun m w ok hpage hinstall => ?_⟩
    rw [exec_rowFlashFill hp htab hx hmiss o hm hfront hpage, hinstall]

end Sys2Proof.Machine

/-! PROOF. Moves and replicas of rows (07 R299, R308 to R315): what each record of AT_MIGRATE comes to, the copy that comes into effect, slots given up, and
the hot-row evaluation. -/

namespace Sys2Proof.Machine

open Sys2Proof.Claims

/-! ### Versions of a table -/

/-- Changing a version that the table has, its number kept. -/
theorem ver_modVer {x : Table} {no : Nat} {f : AtVer → AtVer} (hf : ∀ v, (f v).no = v.no) (h : x.vers.any (·.no == no) = true) :
    (x.modVer no f).ver no = f (x.ver no) := by
  have hfind (l : List AtVer) (hl : l.any (·.no == no) = true) :
      (((l.map fun v => if v.no == no then f v else v).find? (·.no == no)).getD { no := no }) = f ((l.find? (·.no == no)).getD { no := no }) := by
    induction l with
    | nil => cases hl
    | cons v l ih =>
      by_cases hv : v.no = no
      · simp [hv, hf]
      · have hl' : l.any (·.no == no) = true := by simpa [hv] using hl
        simpa [hv] using ih hl'
  exact hfind x.vers h

/-! ### One record of AT_MIGRATE (R310) -/

section
variable {s u : State} {r : CmdRef} {c : Cmd} {x : Table} {tk i j : Nat} (hx : s.tab? tk = some x)
include hx

theorem migrateOne_rowBeyond (hrow : x.rows ≤ mgRow c.data i) : s.migrateOne c tk i = (s, some 0x40) := by
  simp only [State.migrateOne, hx, hrow, if_true]

variable (hrow : mgRow c.data i < x.rows)
include hrow

theorem migrateOne_targetOutside (ht : mgTarget c.data i ∉ x.place) : s.migrateOne c tk i = (s, some 0x41) := by
  have hnone : x.place.idxOf? (mgTarget c.data i) = none := List.idxOf?_eq_none_iff.mpr ht
  simp only [State.migrateOne, hx, Nat.not_le.mpr hrow, if_false, hnone]

variable (hj : x.place.idxOf? (mgTarget c.data i) = some j)
include hj

theorem migrateOne_noReplica (hop : mgOp c.data i = 2) (hnone : ((x.copiesAt x.cur (mgRow c.data i) x.seq).drop 1).find? (·.chan == j) = none) :
    s.migrateOne c tk i = (s, some 0) := by
  simp only [State.migrateOne, hx, Nat.not_le.mpr hrow, if_false, hj, hop, if_true, hnone]

variable (hop : mgOp c.data i ≠ 2) (hnew : ((x.copiesAt x.cur (mgRow c.data i) x.seq).any (·.chan == j)) = false)
include hop hnew

theorem migrateOne_refused {st : Nat} (href : s.moveRefused x (mgRow c.data i) j (mgOp c.data i == 0) = some st) : s.migrateOne c tk i = (s, some st) := by
  simp only [State.migrateOne, hx, Nat.not_le.mpr hrow, if_false, hj, hop, hnew, Bool.false_eq_true, href]

theorem migrateOne_begins (href : s.moveRefused x (mgRow c.data i) j (mgOp c.data i == 0) = none)
    (hbegin : s.beginMove tk (mgRow c.data i) j (mgOp c.data i == 0) (some c.ref) i = (u, true)) : s.migrateOne c tk i = (u, none) := by
  simp only [State.migrateOne, hx, Nat.not_le.mpr hrow, if_false, hj, hop, hnew, Bool.false_eq_true, href, hbegin]

theorem migrateOne_noSlot (href : s.moveRefused x (mgRow c.data i) j (mgOp c.data i == 0) = none)
    (hbegin : s.beginMove tk (mgRow c.data i) j (mgOp c.data i == 0) (some c.ref) i = (u, false)) : s.migrateOne c tk i = (u, some 0x44) := by
  simp only [State.migrateOne, hx, Nat.not_le.mpr hrow, if_false, hj, hop, hnew, Bool.false_eq_true, href, hbegin]

end

/-! ### AT_MIGRATE (R310, 11 R451) -/

section
variable {s u : State} {r : CmdRef} {c : Cmd} (h : starts s r 0x49 c) (he : (s.earlier c fun d => d.opcode == 0x49 && d.obj == c.obj) = false)
include h he

theorem exec_atMigrate_hardware (hmode : s.hostMode (.atl 0) = false) : exec (.atMigrate r) s = next ((running s r).cmdFail r 8 []) := by
  simp only [exec, execAtMigrate]
  rw [startWhen_starts h (by rw [he]; rfl)]
  have hhw : (running s r).hostMode (.atl 0) = false := hmode
  simp only [hhw, Bool.not_false, if_true]

variable (hmode : s.hostMode (.atl 0) = true) (hlen : c.dlen = 16)
include hmode hlen

theorem exec_atMigrate_one : exec (.atMigrate r) s = next (State.migrateFrom c (tabKey r.part c.obj) 1 (running s r) []) := by
  simp only [exec, execAtMigrate]
  rw [startWhen_starts h (by rw [he]; rfl)]
  have hhost : (running s r).hostMode (.atl 0) = true := hmode
  simp only [hhost, hlen, Bool.not_true, Bool.false_eq_true, if_false]

/-- A batch of one record that is settled at once is answered with its status. -/
theorem atMigrate_status {st : Nat} (hone : (running s r).migrateOne c (tabKey r.part c.obj) 0 = (u, some st)) :
    exec (.atMigrate r) s = next (u.cmdDone r [] (some (leBytes 2 st))) := by
  rw [exec_atMigrate_one h he hmode hlen]
  obtain rfl : c.ref = r := h.2.2.2.1
  simp only [State.migrateFrom, List.length_nil, hone, List.nil_append, List.flatMap_cons, List.flatMap_nil, List.append_nil]

/-- A record whose status leaves the state as it is changes nothing but its command. -/
theorem atMigrate_answers {st : Nat} (hone : (running s r).migrateOne c (tabKey r.part c.obj) 0 = (running s r, some st)) :
    ∃ t, exec (.atMigrate r) s = next t ∧ answered t r (leBytes 2 st) ∧ onlyCmd s t r :=
  ⟨_, atMigrate_status h he hmode hlen hone, cmdDone_answered (exists_cmd_running h) _ _, onlyCmd_trans (onlyCmd_running s r) (onlyCmd_cmdDone _ r _ _)⟩

/-- A batch of one record that begins a move waits for it. -/
theorem atMigrate_waits (hone : (running s r).migrateOne c (tabKey r.part c.obj) 0 = (u, none)) :
    exec (.atMigrate r) s = next (u.modCmd r fun d => { d with work := [] }) := by
  rw [exec_atMigrate_one h he hmode hlen]
  obtain rfl : c.ref = r := h.2.2.2.1
  simp only [State.migrateFrom, List.length_nil, hone]

end

/-! ### A copy that is made (R311, R312) -/

/-- The table once a move is in effect at the next number, its row then having the copies given (R311 step 5). -/
def Table.moved (z : Table) (m : Move) (copies : List Copy) : Table :=
  { ({ z with seq := z.seq + 1 } : Table).modVer z.cur fun a => { a with fwd := a.fwd.filter (fun f => f.row != m.row) ++ [{ row := m.row, copies := copies }] } with
    moves := z.moves.filter (· != m) }

/-- The copy that a move or an added replica brings into effect at a number. -/
def Move.copyFrom (m : Move) (q : Nat) : Copy := { chan := m.chan, slot := m.slot, on := some q }

/-- A move ends the source where its copy comes into effect, and a replica is added: the new copy is in effect in both. -/
theorem tab_cutOver {s : State} {tk : Nat} {z : Table} {m : Move} (hz : s.tab? tk = some z) :
    ∃ copies, m.copyFrom (z.seq + 1) ∈ copies ∧ (s.cutOver tk m).tab? tk = some (z.moved m copies) := by
  have hseq : (s.nextSeq tk).tab? tk = some { z with seq := z.seq + 1 } := tab_modTab_of_some hz _
  unfold State.cutOver
  extract_lets u
  rw [hseq]
  dsimp only
  rw [tab_congr (markFwd_atl _ _ _ _), tab_modTab_of_some hseq]
  refine ⟨_, ?_, rfl⟩
  split
  · exact List.mem_cons_self
  · exact List.mem_append_right _ List.mem_cons_self

/-- The moved table holds the new copy among those of its row. -/
theorem mem_fwd_moved {z : Table} {m : Move} {copies : List Copy} (hcur : z.vers.any (·.no == z.cur) = true) :
    { row := m.row, copies := copies } ∈ ((z.moved m copies).ver z.cur).fwd := by
  have hver : (z.moved m copies).ver z.cur = _ := ver_modVer (x := { z with seq := z.seq + 1 }) (fun _ => rfl) hcur
  rw [hver]
  exact List.mem_append_right _ List.mem_cons_self

theorem otherTables_cutOver (s : State) (tk : Nat) (m : Move) : otherTables s (s.cutOver tk m) tk := by
  unfold State.cutOver
  extract_lets u
  split
  · exact otherTables_nextSeq s tk
  · exact otherTables_trans (otherTables_nextSeq s tk) (otherTables_trans (otherTables_modTab u tk _) (otherTables_of_atl (markFwd_atl _ _ _ _)))

section
variable {s u v : State} {p tab row : Nat} {x z : Table} {m : Move} {b src : Bytes} {st : Put} (hp : p < 16) (htab : tab < 256) (hm : s.media = true)
  (hx : s.tab? (tabKey p tab) = some x) (hmove : x.moves.find? (·.row == row) = some m) (htries : m.tries ≠ 0)
  (hcopy : s.rdSlot (tabKey p tab) x.cur x m.chan m.slot = (u, some b)) (hsrc : u.rowForWrite (tabKey p tab) x.cur row = (v, some src, st))
include hp htab hm hx hmove htries hcopy hsrc

theorem exec_migrationCopyDone_same (heq : slotRver b = slotRver src) : exec (.migrationCopyDone p tab row) s =
    next ((v.cutOver (tabKey p tab) m).moveEnd (tabKey p tab) m 0) := by
  simp only [exec, execMigrationCopyDone]
  rw [guardUnit_tab hp htab]
  simp only [hx, hmove, hm, Bool.not_true, Bool.false_eq_true, if_false, htries, hcopy, hsrc, heq, if_true]

theorem exec_migrationCopyDone_again (hne : slotRver b ≠ slotRver src) (hmax : m.tries < v.triesMax) : exec (.migrationCopyDone p tab row) s =
    next (((v.copyRow (tabKey p tab) m).1).modTab (tabKey p tab) fun y => { y with
      moves := y.moves.map fun e => if e == m then { m with tries := m.tries + 1 } else e }) := by
  simp only [exec, execMigrationCopyDone]
  rw [guardUnit_tab hp htab]
  simp only [hx, hmove, hm, Bool.not_true, Bool.false_eq_true, if_false, htries, hcopy, hsrc, hne, hmax, if_true]

end

/-! ### COPY_SLOT_FREE (R314) -/

/-- With no batch admitted, each version is trimmed of the row's copies on the channel that are out of effect. -/
theorem exec_copySlotFree {s : State} {p tab row ch : Nat} {x : Table} (hp : p < 16) (htab : tab < 256) (hm : s.media = true)
    (hx : s.tab? (tabKey p tab) = some x) (hnone : s.gathersOf (tabKey p tab) = []) :
    ∃ trim : AtVer → AtVer, exec (.copySlotFree p tab row ch) s =
        next ((s.modTab (tabKey p tab) fun y => { y with vers := y.vers.map trim }).markFwd (tabKey p tab) x.cur row) ∧
      ∀ v, ∀ f ∈ (trim v).fwd, f.row = row → ∀ k ∈ f.copies, k.chan = ch → k.off = none := by
  simp only [exec, execCopySlotFree]
  rw [guardUnit_tab hp htab]
  simp only [hx, hm, hnone, if_true, List.map_nil, List.min?_nil]
  refine ⟨_, rfl, fun v f hf hrow k hk hch => ?_⟩
  obtain ⟨g, -, hg⟩ := List.mem_filterMap.mp hf
  split_ifs at hg with hown hempty
  · -- the row's own entry keeps the copies that are not out of effect on the channel
    cases hg
    obtain ⟨-, hlive⟩ := List.mem_filter.mp hk
    cases hoff : k.off with
    | none => rfl
    | some q => simp [hch, hoff] at hlive
  · cases hg
    exact absurd (beq_iff_eq.mpr hrow) hown

/-! ### HOT_ROW_EVALUATION (R309) -/

/-- In hardware mode with the media ready, a table whose period is over is evaluated. -/
theorem evaluation_goes {s : State} {x : Table} (hm : s.media = true) (hmode : s.hostMode (.atl 0) = false) (hdue : 2 ^ 20 ≤ x.routed) :
    (! s.media || s.hostMode (.atl 0) || decide (x.routed < 2 ^ 20)) = false := by
  rw [hm, hmode, decide_eq_false (Nat.not_lt.mpr hdue)]
  rfl

/-- A row without an entry in the forwarding directory stands at its home alone. -/
theorem copiesAt_of_noEntry {x : Table} {no row q : Nat} (h : (x.ver no).fwd = []) : x.copiesAt no row q = [x.home row] := by
  simp only [Table.copiesAt, h, List.find?_nil]

/-- Of two channels, the one free of a row that stands at its home alone. -/
theorem freeChannels_of_two {x : Table} {row j : Nat} (hn : x.n = 2) (hj : j < 2) (hhome : j ≠ x.homeChan row) :
    ((List.range x.n).filter fun i => ! [x.home row].any (·.chan == i)) = [j] := by
  have hlt : x.homeChan row < 2 := by
    have hmax : max 1 x.n = 2 := by rw [hn]; rfl
    unfold Table.homeChan
    rw [hmax]
    exact Nat.mod_lt _ Nat.two_pos
  have hother : ∀ h < 2, ∀ i < 2, i ≠ h → ((List.range 2).filter fun l => ! (h == l)) = [i] := by decide
  simpa [hn, Table.home] using hother _ hlt j hj hhome

section
variable {s : State} {p tab : Nat} {x : Table} (hp : p < 16) (htab : tab < 256) (hm : s.media = true) (hx : s.tab? (tabKey p tab) = some x)
include hp htab hm hx

theorem exec_hotRowEvaluation_not_due (h : s.hostMode (.atl 0) = true ∨ x.routed < 2 ^ 20) : exec (.hotRowEvaluation p tab) s = next s := by
  have hno : (! s.media || s.hostMode (.atl 0) || decide (x.routed < 2 ^ 20)) = true := by
    rw [hm]
    simpa using h
  simp only [exec, execHotRowEvaluation]
  rw [guardUnit_tab hp htab]
  simp only [hx, hno, if_true]

variable (hmode : s.hostMode (.atl 0) = false) (hdue : 2 ^ 20 ≤ x.routed) (hfwd : (x.ver x.cur).fwd = [])
include hmode hdue hfwd

theorem exec_hotRowEvaluation_quiet (hocc : x.occ = []) : exec (.hotRowEvaluation p tab) s =
    next (s.modTab (tabKey p tab) fun y => { y with occ := [], chanOcc := [], routed := y.routed - 2 ^ 20 }) := by
  simp only [exec, execHotRowEvaluation]
  rw [guardUnit_tab hp htab]
  simp only [hx, evaluation_goes hm hmode hdue, Bool.false_eq_true, if_false, hfwd, hocc, List.filter_nil, List.map_nil, List.foldl_nil]

/-- A row beyond the rate with a channel to spare gets a replica there. -/
theorem exec_hotRowEvaluation_hot {row k j : Nat} (hocc : x.occ = [(row, k)]) (hrate : max 1 s.atl.rate.toNat < k) (hrepl : 1 ≤ s.atl.maxRepl.toNat)
    (hmoves : x.moves = []) (hn : x.n = 2) (hj : j < 2) (hhome : j ≠ x.homeChan row) (href : s.moveRefused x row j false = none) :
    exec (.hotRowEvaluation p tab) s = next ((s.beginMove (tabKey p tab) row j false none 0).1.modTab (tabKey p tab) fun y => { y with
      occ := [], chanOcc := [], routed := y.routed - 2 ^ 20 }) := by
  have hcopies : x.copiesAt x.cur row x.seq = [x.home row] := copiesAt_of_noEntry hfwd
  have hhot : (decide (max 1 s.atl.rate.toNat * 1 < k) && decide (1 ≤ s.atl.maxRepl.toNat) && !false) = true := by
    simp [hrate, hrepl]
  have hbest := freeChannels_of_two hn hj hhome
  simp only [exec, execHotRowEvaluation]
  rw [guardUnit_tab hp htab]
  simp only [hx, evaluation_goes hm hmode hdue, Bool.false_eq_true, if_false, hfwd, hocc, hmoves, List.any_nil, List.filter_nil, List.filter_cons, hcopies,
    List.length_singleton, hhot, if_true, List.map_cons, List.map_nil, List.foldl_cons, List.foldl_nil, hbest, href, Option.isSome_none]

end

/-! ### The clauses of the statement -/

section
variable {s u : State} {r : CmdRef} {c : Cmd} {x : Table} {j : Nat} (h : starts s r 0x49 c) (hx : s.tab? (tabKey r.part c.obj) = some x)
  (he : (s.earlier c fun d => d.opcode == 0x49 && d.obj == c.obj) = false) (hmode : s.hostMode (.atl 0) = true) (hlen : c.dlen = 16)
  (hrow : mgRow c.data 0 < x.rows) (hj : x.place.idxOf? (mgTarget c.data 0) = some j) (hop : mgOp c.data 0 ≠ 2)
  (hnew : ((x.copiesAt x.cur (mgRow c.data 0) x.seq).any (·.chan == j)) = false)
  (href : (running s r).moveRefused x (mgRow c.data 0) j (mgOp c.data 0 == 0) = none)
include h hx he hmode hlen hrow hj hop hnew href

/-- An admissible record with a slot for its copy begins the copy, and the batch waits. -/
theorem atMigrate_begins
    (hbegin : (running s r).beginMove (tabKey r.part c.obj) (mgRow c.data 0) j (mgOp c.data 0 == 0) (some r) 0 = (u, true)) :
    exec (.atMigrate r) s = next (u.modCmd r fun d => { d with work := [] }) := by
  obtain rfl : c.ref = r := h.2.2.2.1
  exact atMigrate_waits h he hmode hlen (migrateOne_begins (s := running s c.ref) hx hrow hj hop hnew href hbegin)

/-- An admissible record whose slot cannot be had is answered with the limit. -/
theorem atMigrate_noSlot
    (hbegin : (running s r).beginMove (tabKey r.part c.obj) (mgRow c.data 0) j (mgOp c.data 0 == 0) (some r) 0 = (u, false)) :
    exec (.atMigrate r) s = next (u.cmdDone r [] (some (leBytes 2 0x44))) := by
  obtain rfl : c.ref = r := h.2.2.2.1
  exact atMigrate_status h he hmode hlen (migrateOne_noSlot (s := running s c.ref) hx hrow hj hop hnew href hbegin)

end

/-- A move that comes into effect is no longer among the table's moves. -/
theorem notMem_moves_moved (z : Table) (m : Move) (copies : List Copy) : m ∉ (z.moved m copies).moves := fun h => by
  simp [Table.moved] at h

/-- A move that no command began tells none of its end. -/
theorem moveEnd_of_noCmd {m : Move} (h : m.cmd = none) (s : State) (tk st : Nat) : s.moveEnd tk m st = s := by
  simp only [State.moveEnd, h]

/-- Settles O49: each record of AT_MIGRATE has one outcome, a copy with its source's RVER is cut over, slots out of effect are trimmed, and the evaluation acts
on the hot row. -/
theorem atlasMoves : Obligations.AtlasMoves := by
  refine ⟨fun s r c x h hx he => ?_, fun s u v p tab row x z m b src st hp htab hm => ?_,
    fun s p tab row ch x hp htab hm hx hnone => ?_, fun s p tab x hp htab hm hx => ?_⟩
  · intro tk row
    refine ⟨fun hmode => ?_, fun hmode hlen => ?_⟩
    · exact ⟨_, exec_atMigrate_hardware h he hmode, cmdFail_ended (exists_cmd_running h) _ _, onlyCmd_trans (onlyCmd_running s r) (onlyCmd_cmdFail _ r _ _)⟩
    · refine ⟨fun hbeyond => atMigrate_answers h he hmode hlen (migrateOne_rowBeyond (s := running s r) hx hbeyond),
        fun hrow ht => atMigrate_answers h he hmode hlen (migrateOne_targetOutside (s := running s r) hx hrow ht),
        fun j u hrow hj hop hnew => ⟨fun st href => ?_, fun href hbegin => ?_, fun href hbegin hkept => ?_⟩,
        fun j hrow hj hop hone => atMigrate_answers h he hmode hlen (migrateOne_noReplica (s := running s r) hx hrow hj hop hone)⟩
      · exact atMigrate_answers h he hmode hlen (migrateOne_refused (s := running s r) hx hrow hj hop hnew href)
      · exact atMigrate_begins h hx he hmode hlen hrow hj hop hnew href hbegin
      · exact ⟨_, atMigrate_noSlot h hx he hmode hlen hrow hj hop hnew href hbegin, cmdDone_answered hkept _ _⟩
  · intro tk hx hmove htries hcopy hsrc hz
    refine ⟨fun heq hcmd hcur => ?_, fun hne hmax => ?_⟩
    · obtain ⟨copies, hmem, hy⟩ := tab_cutOver (m := m) hz
      have hexec := exec_migrationCopyDone_same hp htab hm hx hmove htries hcopy hsrc heq
      rw [moveEnd_of_noCmd hcmd] at hexec
      exact ⟨_, z.moved m copies, hexec, hy, rfl, rfl, notMem_moves_moved z m copies, otherTables_cutOver v tk m,
        { row := m.row, copies := copies }, mem_fwd_moved hcur, beq_iff_eq.mp (List.find?_some hmove :), hmem⟩
    · exact ⟨_, (v.copyRow tk m).1, (v.copyRow tk m).2, exec_migrationCopyDone_again hp htab hm hx hmove htries hcopy hsrc hne hmax, rfl, rfl,
        tab_modTab_self _ tk _⟩
  · obtain ⟨trim, hexec, htrim⟩ := exec_copySlotFree (row := row) (ch := ch) hp htab hm hx hnone
    have hmark := markFwd_atl (s.modTab (tabKey p tab) fun y => { y with vers := y.vers.map trim }) (tabKey p tab) x.cur row
    refine ⟨_, { x with vers := x.vers.map trim }, hexec, ?_, rfl, rfl, otherTables_trans (otherTables_modTab s _ _) (otherTables_of_atl hmark), fun v hv => ?_⟩
    · rw [tab_congr hmark, tab_modTab_of_some hx]
    · obtain ⟨w, -, rfl⟩ := List.mem_map.mp hv
      exact htrim w
  · intro tk fresh
    refine ⟨exec_hotRowEvaluation_not_due hp htab hm hx, fun hmode hdue hfwd => ⟨exec_hotRowEvaluation_quiet hp htab hm hx hmode hdue hfwd,
      fun row k j hocc hrate hrepl hmoves hn hj hhome href => exec_hotRowEvaluation_hot hp htab hm hx hmode hdue hfwd hocc hrate hrepl hmoves hn hj hhome href⟩⟩

end Sys2Proof.Machine

/-! PROOF. Ranges of frozen rows (08 R340): what a freeze and a release leave frozen. -/

namespace Sys2Proof.Machine

section
variable (l m : List (Nat × Nat)) (a b n : Nat)

theorem isFrozen_iff : isFrozen l n = true ↔ ∃ e ∈ l, e.1 ≤ n ∧ n < e.2 := by
  simp only [isFrozen, List.any_eq_true, Bool.and_eq_true, decide_eq_true_eq]

theorem isFrozen_append : isFrozen (l ++ m) n = (isFrozen l n || isFrozen m n) := List.any_append

theorem isFrozen_singleton (e : Nat × Nat) : isFrozen [e] n = true ↔ e.1 ≤ n ∧ n < e.2 := by
  simp only [isFrozen_iff, List.mem_singleton, exists_eq_left]

theorem isFrozen_cons (e : Nat × Nat) : isFrozen (e :: l) n = true ↔ (e.1 ≤ n ∧ n < e.2) ∨ isFrozen l n = true := by
  rw [← List.singleton_append, isFrozen_append, Bool.or_eq_true, isFrozen_singleton]

/-! ### Releasing -/

theorem isFrozen_range_if (x y : Nat) (p : Prop) [Decidable p] : isFrozen (if p then [(x, y)] else []) n = true ↔ p ∧ x ≤ n ∧ n < y := by
  by_cases hp : p
  · rw [if_pos hp, isFrozen_singleton, and_iff_right hp]
  · rw [if_neg hp]
    exact iff_of_false Bool.false_ne_true fun h => hp h.1

/-- What is left of one range when rows a to b are released: the range, or the parts below and above. -/
def rangeCut (e : Nat × Nat) : List (Nat × Nat) :=
  if e.2 ≤ a ∨ b ≤ e.1 then [e] else (if e.1 < a then [(e.1, a)] else []) ++ (if b < e.2 then [(b, e.2)] else [])

theorem rangeDel_cons (e : Nat × Nat) : rangeDel (e :: l) a b = rangeCut a b e ++ rangeDel l a b := List.flatMap_cons

theorem isFrozen_rangeCut (e : Nat × Nat) : isFrozen (rangeCut a b e) n = true ↔ (e.1 ≤ n ∧ n < e.2) ∧ ¬ (a ≤ n ∧ n < b) := by
  unfold rangeCut
  split
  · rw [isFrozen_singleton]
    omega
  · rw [isFrozen_append, Bool.or_eq_true, isFrozen_range_if, isFrozen_range_if]
    omega

theorem isFrozen_rangeDel : isFrozen (rangeDel l a b) n = true ↔ isFrozen l n = true ∧ ¬ (a ≤ n ∧ n < b) := by
  induction l with
  | nil => exact iff_of_false Bool.false_ne_true fun h => absurd h.1 Bool.false_ne_true
  | cons e l ih => rw [rangeDel_cons, isFrozen_append, Bool.or_eq_true, isFrozen_rangeCut, ih, isFrozen_cons, or_and_right]

/-! ### Freezing -/

theorem foldl_min_le_iff (q : List Nat) : q.foldl min a ≤ n ↔ a ≤ n ∨ ∃ x ∈ q, x ≤ n := by
  induction q generalizing a with
  | nil => simp
  | cons x q ih => rw [List.foldl_cons, ih, min_le_iff, List.exists_mem_cons_iff, or_assoc]

theorem lt_foldl_max_iff (q : List Nat) : n < q.foldl max b ↔ n < b ∨ ∃ x ∈ q, n < x := by
  induction q generalizing b with
  | nil => simp
  | cons x q ih => rw [List.foldl_cons, ih, lt_max_iff, List.exists_mem_cons_iff, or_assoc]

/-- A range that rows a to b overlap, or that they stand next to. -/
def touches (e : Nat × Nat) : Bool := decide (e.1 ≤ b) && decide (a ≤ e.2)

theorem touches_iff (e : Nat × Nat) : touches a b e = true ↔ e.1 ≤ b ∧ a ≤ e.2 := by
  simp only [touches, Bool.and_eq_true, decide_eq_true_eq]

/-- Rows a to b joined with the ranges that they touch: the first row, and the row past the last. -/
def joinLo : Nat := ((l.filter (touches a b)).map (·.1)).foldl min a
def joinHi : Nat := ((l.filter (touches a b)).map (·.2)).foldl max b

theorem rangeAdd_eq : rangeAdd l a b = (l.filter fun e => ! touches a b e).filter (fun e => e.2 < joinLo l a b) ++ [(joinLo l a b, joinHi l a b)] ++
    (l.filter fun e => ! touches a b e).filter fun e => joinHi l a b < e.1 := rfl

theorem joinLo_le_iff : joinLo l a b ≤ n ↔ a ≤ n ∨ ∃ f ∈ l, (f.1 ≤ b ∧ a ≤ f.2) ∧ f.1 ≤ n := by
  simp only [joinLo, foldl_min_le_iff, List.mem_map, List.mem_filter, touches_iff, exists_exists_and_eq_and]
  simp only [and_assoc]

theorem lt_joinHi_iff : n < joinHi l a b ↔ n < b ∨ ∃ f ∈ l, (f.1 ≤ b ∧ a ≤ f.2) ∧ n < f.2 := by
  simp only [joinHi, lt_foldl_max_iff, List.mem_map, List.mem_filter, touches_iff, exists_exists_and_eq_and]
  simp only [and_assoc]

/-- The joined range has no row that was neither frozen before nor is among a to b. -/
theorem mem_joined_iff : (joinLo l a b ≤ n ∧ n < joinHi l a b) ↔ (a ≤ n ∧ n < b) ∨ ∃ f ∈ l, (f.1 ≤ b ∧ a ≤ f.2) ∧ f.1 ≤ n ∧ n < f.2 := by
  rw [joinLo_le_iff, lt_joinHi_iff]
  constructor
  · rintro ⟨hlo, hhi⟩
    by_cases han : a ≤ n
    · by_cases hnb : n < b
      · exact .inl ⟨han, hnb⟩
      · obtain ⟨f, hf, ⟨hfb, haf⟩, hnf⟩ := hhi.resolve_left hnb
        exact .inr ⟨f, hf, ⟨hfb, haf⟩, by omega, hnf⟩
    · obtain ⟨f, hf, ⟨hfb, haf⟩, hfn⟩ := hlo.resolve_left han
      exact .inr ⟨f, hf, ⟨hfb, haf⟩, hfn, by omega⟩
  · rintro (⟨han, hnb⟩ | ⟨f, hf, htouch, hfn, hnf⟩)
    · exact ⟨.inl han, .inl hnb⟩
    · exact ⟨.inr ⟨f, hf, htouch, hfn⟩, .inr ⟨f, hf, htouch, hnf⟩⟩

variable {l a b} (hsep : l.Pairwise fun e f => e.2 < f.1) (hne : ∀ e ∈ l, e.1 < e.2)
include hsep

theorem apart_of_ne {e f : Nat × Nat} (he : e ∈ l) (hf : f ∈ l) (hef : e ≠ f) : e.2 < f.1 ∨ f.2 < e.1 := by
  have hsymm : Std.Symm fun e f : Nat × Nat => e.2 < f.1 ∨ f.2 < e.1 := ⟨fun _ _ h => h.symm⟩
  have hapart : l.Pairwise fun e f => e.2 < f.1 ∨ f.2 < e.1 := hsep.imp .inl
  exact hapart.forall he hf hef

include hne

/-- A range that a to b do not touch lies below or above the joined range, so it stays. -/
theorem joined_apart {e : Nat × Nat} (he : e ∈ l) (haway : touches a b e = false) : e.2 < joinLo l a b ∨ joinHi l a b < e.1 := by
  have hout : ¬ (e.1 ≤ b ∧ a ≤ e.2) := by rw [← touches_iff, haway]; exact Bool.false_ne_true
  have hpos := hne e he
  have hother (f : Nat × Nat) (hf : f ∈ l) (htouch : f.1 ≤ b ∧ a ≤ f.2) : e.2 < f.1 ∨ f.2 < e.1 :=
    apart_of_ne hsep he hf fun h => hout (h ▸ htouch)
  by_cases hbelow : e.2 < a
  · left
    by_contra hle
    obtain hae | ⟨f, hf, htouch, hfe⟩ := (joinLo_le_iff l a b e.2).mp (Nat.not_lt.mp hle)
    · omega
    · have hef := hother f hf htouch
      omega
  · right
    by_contra hle
    obtain hlt | ⟨f, hf, htouch, hfe⟩ := (lt_joinHi_iff l a b (e.1 - 1)).mp (by omega)
    · omega
    · have hef := hother f hf htouch
      have hfpos := hne f hf
      omega

theorem isFrozen_rangeAdd : isFrozen (rangeAdd l a b) n = true ↔ isFrozen l n = true ∨ (a ≤ n ∧ n < b) := by
  have hjoin := mem_joined_iff l a b n
  rw [rangeAdd_eq, isFrozen_append, isFrozen_append, Bool.or_eq_true, Bool.or_eq_true, isFrozen_singleton, hjoin]
  simp only [isFrozen_iff, List.mem_filter, Bool.not_eq_true', decide_eq_true_eq]
  constructor
  · rintro ((⟨e, ⟨⟨he, -⟩, -⟩, hn⟩ | hnew | ⟨f, hf, -, hn⟩) | ⟨e, ⟨⟨he, -⟩, -⟩, hn⟩)
    · exact .inl ⟨e, he, hn⟩
    · exact .inr hnew
    · exact .inl ⟨f, hf, hn⟩
    · exact .inl ⟨e, he, hn⟩
  · rintro (⟨e, he, hn⟩ | hnew)
    · cases haway : touches a b e with
      | true => exact .inl (.inr (.inr ⟨e, he, (touches_iff a b e).mp haway, hn⟩))
      | false =>
        obtain hlow | hhigh := joined_apart hsep hne he haway
        · exact .inl (.inl ⟨e, ⟨⟨he, haway⟩, hlow⟩, hn⟩)
        · exact .inr ⟨e, ⟨⟨he, haway⟩, hhigh⟩, hn⟩
    · exact .inl (.inr (.inl hnew))

end

end Sys2Proof.Machine

/-! PROOF. Optimisers, freezing, steps and their gradient records, the update units (08 R320 to R348): each command is one change of its table or of its
step, and a record comes to one count. -/

namespace Sys2Proof.Machine

open Sys2Proof.Claims

/-! ### One step among the others -/

theorem step_modStep_of_some {s : State} {h : Nat} {st : UpStep} (hst : s.step? h = some st) (f : UpStep → UpStep) :
    (s.modStep h f).step? h = some (f st) := by
  have hmap : (s.modStep h f).step? h = (s.step? h).map f := (lget_map s.upd.steps h h f).trans (if_pos rfl)
  rw [hmap, hst, Option.map_some]

@[simp] theorem step_running (s : State) (r : CmdRef) (j : Nat) : (running s r).step? j = s.step? j := rfl
@[simp] theorem inStep_running (s : State) (r : CmdRef) (tk : Nat) : (running s r).inStep tk = s.inStep tk := rfl

/-- A command that fails as it starts changes nothing but its own entry. -/
theorem failed_onlyCmd {s : State} {r : CmdRef} {op status : Nat} {c : Cmd} {i : Instr} {result : Bytes} (h : starts s r op c)
    (hexec : exec i s = next ((running s r).cmdFail r status result)) : ∃ t, exec i s = next t ∧ ended t r status result ∧ onlyCmd s t r :=
  ⟨_, hexec, cmdFail_ended (exists_cmd_running h) _ _, onlyCmd_trans (onlyCmd_running s r) (onlyCmd_cmdFail _ r _ _)⟩

/-! ### UP_SETOPT (R320 to R322) -/

theorem zeroState_atl (s : State) (tk no : Nat) (x : Table) : (s.zeroState tk no x).atl = s.atl := by
  unfold State.zeroState
  dsimp only
  split
  · rfl
  · refine foldl_atl (fun u row => ?_) _ s
    split
    · rfl
    · exact wrState_atl _ _ _ _ _ _ _

theorem allocStates_atl {s t : State} {tk : Nat} {x : Table} {nos : List Nat} (h : s.allocStates tk x nos = some t) : t.atl = s.atl := by
  induction nos generalizing s with
  | nil => cases h; rfl
  | cons no nos ih =>
    rw [State.allocStates] at h
    split at h
    · cases h
    · next hone => exact (ih h).trans (poolAllocAll_atl hone)

/-- A table under the optimiser of a descriptor: state that went to flash under an earlier one is void, and its copies under way are made again (R321). -/
def Table.reoptimised (x : Table) (d : Bytes) : Table :=
  { x with opt := optOf d, optGen := x.optGen + 1, moves := x.moves.map fun m => { m with tries := 0 } }

/-- The state as UP_SETOPT begins, the state slots of the table's versions freed (R321). -/
def withoutStates (s : State) (r : CmdRef) (tk : Nat) (x : Table) : State :=
  (running s r).freeAllocs fun a => x.vers.any fun v => a.use == .optState (verKey tk v.no)

section
variable {s v : State} {r : CmdRef} {c : Cmd} {x : Table} (h : starts s r 0x50 c) (hx : s.tab? (tabKey r.part (fld c.data 0 1)) = some x)
include h hx

theorem exec_upSetopt_inStep (hstep : s.inStep (tabKey r.part (fld c.data 0 1)) = true) : exec (.upSetopt r) s = next ((running s r).cmdFail r 0x23 []) := by
  simp only [exec, execUpSetopt]
  rw [startCmd_starts h]
  simp only [tab_running, hx, inStep_running, hstep, if_true]

variable (hstep : s.inStep (tabKey r.part (fld c.data 0 1)) = false)
include hstep

theorem exec_upSetopt_full (halloc : (withoutStates s r (tabKey r.part (fld c.data 0 1)) x).allocStates (tabKey r.part (fld c.data 0 1))
    (x.reoptimised c.data) (x.cur :: x.building.toList) = none) : exec (.upSetopt r) s = next ((running s r).cmdFail r 6 []) := by
  unfold withoutStates Table.reoptimised at halloc
  simp only [exec, execUpSetopt]
  rw [startCmd_starts h]
  simp only [tab_running, hx, inStep_running, hstep, Bool.false_eq_true, if_false, halloc]

theorem exec_upSetopt (halloc : (withoutStates s r (tabKey r.part (fld c.data 0 1)) x).allocStates (tabKey r.part (fld c.data 0 1))
    (x.reoptimised c.data) (x.cur :: x.building.toList) = some v) : exec (.upSetopt r) s =
      next (((x.cur :: x.building.toList).foldl (fun w no => w.zeroState (tabKey r.part (fld c.data 0 1)) no (x.reoptimised c.data))
        (v.modTab (tabKey r.part (fld c.data 0 1)) fun _ => x.reoptimised c.data)).cmdDone r [] none) := by
  unfold withoutStates Table.reoptimised at halloc
  simp only [exec, execUpSetopt]
  rw [startCmd_starts h]
  simp only [tab_running, hx, inStep_running, hstep, Bool.false_eq_true, if_false, halloc]
  rfl

end

/-- Once its states are allocated and reset, the table stands under its new optimiser, and the others are as before. -/
theorem setopt_sets {s v w : State} {r : CmdRef} {tk : Nat} {x y : Table} {nos : List Nat} (hx : s.tab? tk = some x)
    (halloc : (withoutStates s r tk x).allocStates tk y nos = some v)
    (hw : nos.foldl (fun w no => w.zeroState tk no y) (v.modTab tk fun _ => y) = w) : w.tab? tk = some y ∧ otherTables s w tk := by
  have hv : v.atl = s.atl := allocStates_atl (s := withoutStates s r tk x) halloc
  have hfold : w.atl = (v.modTab tk fun _ => y).atl := by rw [← hw]; exact foldl_atl (fun u no => zeroState_atl u tk no y) _ _
  refine ⟨?_, otherTables_trans (otherTables_of_atl hv) (otherTables_trans (otherTables_modTab v tk _) (otherTables_of_atl hfold))⟩
  rw [tab_congr hfold]
  exact tab_modTab_of_some ((tab_congr hv tk).trans hx) _

/-! ### UP_FREEZE (R340) -/

/-- The state as UP_FREEZE has changed a frozen table: without a frozen row left its bitmap goes. -/
def refrozen (s : State) (r : CmdRef) (tk : Nat) (fz : List (Nat × Nat)) : State :=
  (if fz = [] then (running s r).freeAllocs fun a => a.use == .freezeMap tk else running s r).modTab tk fun y => { y with frozen := fz }

theorem exec_upFreeze {s : State} {r : CmdRef} {c : Cmd} {x : Table} (h : starts s r 0x51 c) (hx : s.tab? (tabKey r.part c.obj) = some x)
    (hstep : s.inStep (tabKey r.part c.obj) = false)
    (he : (s.earlier c fun d => opensWith c.obj d || (d.opcode == 0x51 && d.obj == c.obj)) = false) (hfrozen : x.frozen ≠ [])
    (hro : (x.backed && s.gr.ronly) = false) {fz : List (Nat × Nat)} {drop : Nat}
    (hrecs : freezeRecs x.rows c.data (c.dlen / 16) 0 x.frozen 0 = (fz, drop)) :
    exec (.upFreeze r) s = next ((refrozen s r (tabKey r.part c.obj) fz).cmdDone r (leBytes 4 drop) none) := by
  simp only [exec, execUpFreeze]
  rw [startWhen_starts h (by rw [hstep, he]; rfl)]
  have hbacked : (x.backed && (running s r).gr.ronly) = false := hro
  have hmade : fz = [] ∨ x.frozen ≠ [] := .inr hfrozen
  simp only [tab_running, hx, hbacked, Bool.false_eq_true, if_false, hrecs, hmade, if_true]
  rfl

theorem tab_refrozen {s : State} {tk : Nat} {x : Table} (hx : s.tab? tk = some x) (r : CmdRef) (fz : List (Nat × Nat)) :
    (refrozen s r tk fz).tab? tk = some { x with frozen := fz } := by
  unfold refrozen
  split <;> exact tab_modTab_of_some (by exact hx) _

theorem refrozen_keeps (s : State) (r : CmdRef) (tk : Nat) (fz : List (Nat × Nat)) :
    (refrozen s r tk fz).host = (running s r).host ∧ otherTables s (refrozen s r tk fz) tk ∧ (refrozen s r tk fz).dram.mem = s.dram.mem := by
  unfold refrozen
  split <;> exact ⟨rfl, otherTables_modTab _ tk _, rfl⟩

/-! ### UP_BEGIN (R326 to R328) -/

/-- The step that an UP_BEGIN without clipping opens: bound to the versions that are current (R327). -/
def stepOf (s : State) (r : CmdRef) (d : Bytes) : UpStep :=
  { part := r.part, clip := false, bf := bit (fld d 0 4) 1, clipNorm := fld d 4 4, lr := fld d 8 4, t := fld d 0xC 4, stageMb := 0
    tabs := (maskTabs d).map fun n => (n, ((s.tab? (tabKey r.part n)).map (·.cur)).getD 1) }

section
variable {s : State} {r : CmdRef} {c : Cmd} (h : starts s r 0x52 c)
  (he : (s.earlier c fun d => (maskTabs c.data).contains d.obj && (d.opcode == 0x51 || d.opcode == 0x46 || d.opcode == 0x48 ||
    (d.opcode == 0x47 && ! s.hostMode (.atl 1)))) = false)
  (hcheck : (running s r).upBeginCheck c = none)
include h he hcheck

theorem exec_upBegin_inStep (hopen : ((maskTabs c.data).any fun n => s.inStep (tabKey r.part n)) = true) :
    exec (.upBegin r) s = next ((running s r).cmdFail r 0x23 []) := by
  simp only [exec, execUpBegin]
  rw [startWhen_starts h (by rw [he]; rfl)]
  simp only [hcheck, inStep_running, hopen, or_true, if_true]

theorem exec_upBegin (hopen : ((maskTabs c.data).any fun n => s.inStep (tabKey r.part n)) = false)
    (hroom : (s.upd.steps.filter fun e => e.2.part == r.part).length < 4) (hclip : bit (fld c.data 0 4) 0 = false) : exec (.upBegin r) s =
      next (((running s r).modUpd fun p => { p with steps := lset p.steps s.newHandle (stepOf s r c.data) }).cmdDone r (leBytes 2 s.newHandle) none) := by
  simp only [exec, execUpBegin]
  rw [startWhen_starts h (by rw [he]; rfl)]
  have hfew : ¬ 4 ≤ ((running s r).upd.steps.filter fun e => e.2.part == r.part).length := Nat.not_le.mpr hroom
  simp only [hcheck, inStep_running, hopen, hfew, hclip, Bool.false_eq_true, or_self, if_false, if_true]
  rfl

end

/-! ### Gradient records (R329 to R332) -/

theorem exec_upGrad {s : State} {r : CmdRef} {c : Cmd} {st : UpStep} (h : starts s r 0x53 c) (hst : s.step? c.obj = some st) {os : List Nat}
    (hos : (running s r).offsets st c = some os) :
    exec (.upGrad r) s = next (((running s r).modCmd r fun d => { d with work := [0, 0, 0, 0, 0, 0] ++ os }).gradEnd r) := by
  simp only [exec, execUpGrad]
  rw [startCmd_starts h]
  simp only [step_running, hst, Option.bind_some, hos]

/-- A UP_GRAD that has records left goes on. -/
theorem gradEnd_left {s : State} {r : CmdRef} {c : Cmd} (h : s.cmd? r = some c) (hleft : gradLeft c ≠ []) : s.gradEnd r = s := by
  simp only [State.gradEnd, h, hleft, if_false]

/-- RESULT of a UP_GRAD: the counts of its progress (R332). -/
def gradResult (work : List Nat) : Bytes :=
  leBytes 8 (work.getD 1 0) ++ leBytes 4 (work.getD 2 0) ++ leBytes 4 (work.getD 3 0) ++ leBytes 4 (work.getD 4 0) ++ leBytes 4 (work.getD 5 0)

theorem gradEnd_done {s : State} {r : CmdRef} {c : Cmd} (h : s.cmd? r = some c) (hleft : gradLeft c = []) :
    s.gradEnd r = (s.gradTotal c).cmdDone r (gradResult c.work) none := by
  simp only [State.gradEnd, h, hleft, if_true]
  rfl

theorem leBytes_zero (n : Nat) : leBytes n 0 = zeros n := by
  induction n with
  | zero => rfl
  | succ n ih => rw [leBytes, Nat.zero_div, ih]; rfl

theorem gradResult_one_applied (o : Nat) : gradResult [1, 1, 0, 0, 0, 0, o] = leBytes 8 1 ++ zeros 16 := by
  change leBytes 8 1 ++ leBytes 4 0 ++ leBytes 4 0 ++ leBytes 4 0 ++ leBytes 4 0 = _
  rw [leBytes_zero]
  simp only [List.append_assoc]
  rfl

theorem gradResult_one_dropped (o : Nat) : gradResult [1, 0, 1, 0, 0, 0, o] = leBytes 8 0 ++ leBytes 4 1 ++ zeros 12 := by
  change leBytes 8 0 ++ leBytes 4 1 ++ leBytes 4 0 ++ leBytes 4 0 ++ leBytes 4 0 = _
  rw [leBytes_zero 4]
  simp only [List.append_assoc]
  rfl

/-- A UP_GRAD with one record more handled, counted at place `k` of its progress. -/
def Cmd.counted (c : Cmd) (k : Nat) : Cmd := { c with work := (c.work.modify 0 (· + 1)).modify k (· + 1) }

theorem cmd_gradCount {s : State} {c : Cmd} (h : s.cmd? c.ref = some c) (k : Nat) : (s.gradCount c k).cmd? c.ref = some (c.counted k) :=
  cmd_modCmd _ h rfl

section
variable {s u : State} {r : CmdRef} {c : Cmd} {st : UpStep} {o : Nat} (hp : r.part < 16) (hq : r.qp < 64) (ht : r.tag < 65536) (href : c.ref = r)
  (hcmd : s.cmd? r = some c) (hop : c.opcode = 0x53) (hph : c.phase = .running) (hserves : s.serves 0x53 = true) (hst : s.step? c.obj = some st)
  (hwork : c.work = [0, 0, 0, 0, 0, 0, o])
include hp hq ht href hcmd hop hph hserves hst hwork

/-- The last record of a UP_GRAD, once counted at place `k`, ends it with its counts. -/
theorem gradientRecord_last {k : Nat} (hnext : s.gradNext st c o = u.gradCount c k) (hu : u.cmd? r = some c) (hend : gradLeft (c.counted k) = []) :
    let t := ((u.gradCount c k).gradTotal (c.counted k)).cmdDone r (gradResult (c.counted k).work) none
    exec (.gradientRecord r) s = next t ∧ ended t r 0 (gradResult (c.counted k).work) := by
  subst href
  have hleft : gradLeft c = [o] := by rw [gradLeft, gradIdx, hwork]; rfl
  have hcounted := cmd_gradCount hu k
  have hphase : (c.counted k).phase = .running := hph
  refine ⟨?_, cmdDone_ended (s := (u.gradCount c k).gradTotal (c.counted k)) ⟨_, hcounted⟩ _⟩
  simp only [exec, execGradientRecord]
  rw [guardUnit_pos (refOk_of_lt hp hq ht)]
  simp only [hcmd, hop, hph, hserves, hst, hleft, hnext, hcounted, Option.map_some, hphase, bne_self_eq_false, Bool.not_true, Bool.or_self,
    Bool.false_eq_true, if_false, if_true]
  rw [gradEnd_done hcounted hend]

/-- A dropped record is counted, and nothing is applied (R330). -/
theorem gradientRecord_dropped (hfate : s.fate st c.data o = .dropped) : ∃ t, exec (.gradientRecord r) s = next t ∧
    ended t r 0 (leBytes 8 0 ++ leBytes 4 1 ++ zeros 12) ∧ t.upd.dropCnt = satBv s.upd.dropCnt 1 ∧ t.dram = s.dram ∧ t.atl = s.atl := by
  have hnext : s.gradNext st c o = s.gradCount c 2 := by simp only [State.gradNext, hfate]
  have hcounted : (c.counted 2).work = [1, 0, 1, 0, 0, 0, o] := by rw [Cmd.counted, hwork]; rfl
  have hend : gradLeft (c.counted 2) = [] := by rw [gradLeft, gradIdx, hcounted]; rfl
  obtain ⟨hexec, hended⟩ := gradientRecord_last hp hq ht href hcmd hop hph hserves hst hwork hnext hcmd hend
  rw [hcounted, gradResult_one_dropped] at hexec hended
  exact ⟨_, hexec, hended, rfl, rfl, rfl⟩

/-- A record for a row that is at hand, in a step without clipping, is applied and counted (R330, R332). -/
theorem gradientRecord_applied {tk no row : Nat} {g : List Nat} (hfate : s.fate st c.data o = .good tk no row g)
    (hahead : s.rowAhead st c (recTab c.data o) row = false) (hunit : ((s.tab? tk).bind fun t => s.unitOf t row).isSome = true) (hclip : st.clip = false)
    (happly : s.applyRec st tk no row f32one g none = (u, .applied)) (hu : u.cmd? r = some c) :
    ∃ t, exec (.gradientRecord r) s = next t ∧ ended t r 0 (leBytes 8 1 ++ zeros 16) ∧ t.dram = u.dram ∧ t.atl = u.atl := by
  have hone : ((s.tab? tk).bind fun t => s.unitOf t row).isNone = false := by rw [Option.isNone_eq_false_iff]; exact hunit
  have hnext : s.gradNext st c o = (u.modStep c.obj fun y => { y with sq := y.sq ++ squares g }).gradCount c 1 := by
    simp only [State.gradNext, hfate, hahead, hone, hclip, happly, Bool.false_eq_true, if_false]
  have hcounted : (c.counted 1).work = [1, 1, 0, 0, 0, 0, o] := by rw [Cmd.counted, hwork]; rfl
  have hend : gradLeft (c.counted 1) = [] := by rw [gradLeft, gradIdx, hcounted]; rfl
  obtain ⟨hexec, hended⟩ := gradientRecord_last hp hq ht href hcmd hop hph hserves hst hwork hnext hu hend
  rw [hcounted, gradResult_one_applied] at hexec hended
  exact ⟨_, hexec, hended, rfl, rfl⟩

end

/-! ### UP_END (R334 to R338) -/

/-- The norms and the clipping factor that an UP_END takes up, and what it has read of the free values (R334, R335). -/
def UpStep.endWork (st : UpStep) (seed : Nat) : List Nat :=
  [0, st.factor (st.gnorm seed), st.gnorm seed, st.updNorm (seed + (2 * (st.staged.map (·.sq.length)).sum + 2 * st.sq.length))]

theorem length_report (st : UpStep) (h : Nat) (discard : Bool) (work : List Nat) : (st.report h discard work).length = 64 := by
  simp [UpStep.report, zeros]

theorem report_head (st : UpStep) (h : Nat) (discard : Bool) (work : List Nat) : sub (st.report h discard work) 0 4 =
    leBytes 4 (h + (b2n ((fp32.dec (work.getD 1 f32one)).lt (.fin false 1 0)) + 2 * b2n discard) * 65536) := by
  simp only [UpStep.report, List.append_assoc]
  exact sub_append_left _ (length_leBytes _ _)

/-- Once its report is written, the UP_END has its answer and the step stays open (R338). -/
theorem endReport_answers {s : State} {c : Cmd} {st : UpStep} (hst : s.step? c.obj = some st) (hcmd : kept s c.ref) (work : List Nat) :
    let t := s.endReport c work
    answered t c.ref (st.report c.obj (bit c.p1 0) work) ∧ t.step? c.obj = some { st with ending := some c.ref } ∧ t.dram = s.dram ∧ t.atl = s.atl := by
  have hend : s.endReport c work = (s.modStep c.obj fun x => { x with ending := some c.ref }).cmdDone c.ref [] (some (st.report c.obj (bit c.p1 0) work)) := by
    simp only [State.endReport, hst]
  rw [hend]
  exact ⟨cmdDone_answered (s := s.modStep c.obj _) hcmd _ _, step_modStep_of_some hst fun x => { x with ending := some c.ref }, rfl, rfl⟩

theorem exec_upEnd {s : State} {r : CmdRef} {c : Cmd} {st : UpStep} (h : starts s r 0x54 c) (hst : s.step? c.obj = some st)
    (he : (s.earlier c fun d => d.opcode == 0x53 && d.obj == c.obj) = false) (hdirect : st.clip = false ∨ bit c.p1 0 = true) :
    ∃ free, exec (.upEnd r) s =
      next ((({ running s r with free := free } : State).modCmd r fun d => { d with work := st.endWork s.free }).endReport c (st.endWork s.free)) := by
  have hno : (! st.clip || bit c.p1 0) = true := by
    rcases hdirect with hclip | hdiscard
    · rw [hclip]; rfl
    · rw [hdiscard, Bool.or_true]
  simp only [exec, execUpEnd]
  rw [stepWhen_starts h (by rw [he]; rfl)]
  simp only [step_running, hst, hno, if_true]
  exact ⟨_, rfl⟩

theorem upEnd_reports {s : State} {r : CmdRef} {c : Cmd} {st : UpStep} (h : starts s r 0x54 c) (hst : s.step? c.obj = some st)
    (he : (s.earlier c fun d => d.opcode == 0x53 && d.obj == c.obj) = false) (hdirect : st.clip = false ∨ bit c.p1 0 = true) :
    ∃ t, exec (.upEnd r) s = next t ∧ answered t r (st.report c.obj (bit c.p1 0) (st.endWork s.free)) ∧
      t.step? c.obj = some { st with ending := some r } ∧ t.dram = s.dram ∧ t.atl = s.atl := by
  obtain ⟨free, hexec⟩ := exec_upEnd h hst he hdirect
  obtain rfl : c.ref = r := h.2.2.2.1
  have hkept : kept (({ running s c.ref with free := free } : State).modCmd c.ref fun d => { d with work := st.endWork s.free }) c.ref :=
    kept_modCmd (s := { running s c.ref with free := free }) (exists_cmd_running h) fun _ => rfl
  exact ⟨_, hexec, endReport_answers (by exact hst) hkept _⟩

theorem upClose_closes {s : State} {r : CmdRef} {h : Nat} {st : UpStep} (hend : (s.upd.steps.find? fun e => e.2.ending == some r) = some (h, st)) :
    (s.upClose r).step? h = none ∧ (s.upClose r).upd.stepCnt = satBv s.upd.stepCnt 1 ∧ ∀ a ∈ (s.upClose r).dram.alloc, a.use ≠ .staging h := by
  simp only [State.upClose, hend]
  refine ⟨(lget_ldel _ _ _).trans (if_pos rfl), rfl, fun a ha heq => ?_⟩
  have hgone := (List.mem_filter.mp ha).2
  simp [heq] at hgone

/-! ### The optimiser rule of SGD (R323) -/

theorem delta_sgd {o : OptDesc} (ho : o.opt = 1) (lr t seed lam : Nat) (g w : List Nat) (st : Bytes) :
    (o.delta lr t seed lam g w st).1 = (g.zip w).map fun x => f32mul lr (f32add x.1 (f32mul lam x.2)) := by
  simp only [OptDesc.delta, ho]

theorem delta_sgd_getD {o : OptDesc} (ho : o.opt = 1) (lr t seed lam : Nat) {i : Nat} {g w : List Nat} (st : Bytes) (hg : i < g.length) (hw : i < w.length) :
    (o.delta lr t seed lam g w st).1.getD i 0 = f32mul lr (f32add (g.getD i 0) (f32mul lam (w.getD i 0))) := by
  have hi : i < ((g.zip w).map fun x => f32mul lr (f32add x.1 (f32mul lam x.2))).length := by
    rw [List.length_map, List.length_zip]
    exact Nat.lt_min.mpr ⟨hg, hw⟩
  rw [delta_sgd ho, List.getD_eq_getElem _ _ hi, List.getElem_map, List.getElem_zip, List.getD_eq_getElem _ _ hg, List.getD_eq_getElem _ _ hw]

/-! ### The update units (R348) -/

/-- An event reaches the books, the page, the messages and the freeze. -/
theorem raise_frame (s : State) (b : Blk) (n code : Nat) (p : Bytes) :
    { s.raise b n code p with fbk := s.fbk, svy := s.svy, sys := s.sys, host := s.host, pages := s.pages, frz := s.frz } = s := by
  have hrec := fbRecord_frame ((s.setEvt b n).countErr b) code p
  have hevt := setEvt_frame s b n
  calc _ = ({ (s.setEvt b n).countErr b with fbk := s.fbk, svy := s.svy, sys := s.sys, host := s.host, pages := s.pages, frz := s.frz } : State) :=
        congrArg (fun t : State => { t with fbk := s.fbk, svy := s.svy, sys := s.sys, host := s.host, pages := s.pages, frz := s.frz }) hrec
    _ = s := congrArg (fun t : State => { t with fbk := s.fbk, svy := s.svy, sys := s.sys, frz := s.frz }) hevt

/-- Without an armed trigger, an event leaves the outstanding commands, and its bit stands on its page. -/
theorem raise_quiet {s : State} (h : s.frz.evtEn = false) (b : Blk) (n code : Nat) (p : Bytes) : (s.raise b n code p).host.cmds = s.host.cmds ∧
    ((s.raise b n code p).page (pageNo b)).evtSts = (s.page (pageNo b)).evtSts ||| BitVec.ofNat 32 (2 ^ n) := by
  have hfrz : ((s.setEvt b n).countErr b).frz.evtEn = false := by
    rw [← h]
    exact congrArg (·.frz.evtEn) (setEvt_frame s b n)
  have hquiet := fbRecord_quiet hfrz code p
  have halert := alert_frame (((s.setEvt b n).countErr b).fbStore code p) code
  have hpages : (s.raise b n code p).pages = ((s.setEvt b n).countErr b).pages := (congrArg State.pages hquiet).trans (congrArg State.pages halert :)
  refine ⟨(congrArg (·.cmds) (fbRecord_host hfrz code p)).trans (setEvt_cmds s b n), ?_⟩
  rw [page_congr hpages, State.countErr, modPage_page_self, setEvt_page]

/-- The state once update unit `u` is out of service. -/
def State.withoutUnit (s : State) (u : Nat) : State := s.modUpd fun p => { p with inSvc := p.inSvc &&& ~~~ (BitVec.ofNat 8 (2 ^ u)) }

theorem inSvc_withoutUnit (s : State) (u v : Nat) : (s.withoutUnit u).upd.inSvc.getLsbD v = (s.upd.inSvc.getLsbD v && decide (v ≠ u)) := by
  rw [State.withoutUnit, modUpd_upd, BitVec.getLsbD_and, BitVec.getLsbD_not, getLsbD_two_pow]
  by_cases hv : v < 8
  · simp [hv, eq_comm]
  · simp [BitVec.getLsbD_of_ge s.upd.inSvc v (Nat.not_lt.mp hv)]

section
variable {s : State} {u : Nat} (hu : u < 8) (halive : s.alive 6 = true) (hsvc : s.upd.inSvc.getLsbD u = true)
include hu halive hsvc

theorem exec_updateUnitFail : exec (.updateUnitFail u) s = next ((s.withoutUnit u).raise .upd 0 0x5005 (words [u])) := by
  simp only [exec, execUpdateUnitFail]
  rw [guardUnit_pos (show unitOk u = true from decide_eq_true hu)]
  simp only [halive, hsvc, Bool.and_self, if_true]
  rfl

theorem updateUnitFail_leaves (hq : s.frz.evtEn = false) : ∃ t, exec (.updateUnitFail u) s = next t ∧ t.upd.inSvc.getLsbD u = false ∧
    (∀ v, v ≠ u → t.upd.inSvc.getLsbD v = s.upd.inSvc.getLsbD v) ∧ (t.page (pageNo .upd)).evtSts.getLsbD 0 = true ∧
    t.host.cmds = s.host.cmds ∧ t.atl = s.atl ∧ t.dram = s.dram ∧ t.cores = s.cores := by
  have hframe := raise_frame (s.withoutUnit u) .upd 0 0x5005 (words [u])
  obtain ⟨hcmds, hevt⟩ := raise_quiet (s := s.withoutUnit u) hq .upd 0 0x5005 (words [u])
  have hinSvc (v : Nat) : ((s.withoutUnit u).raise .upd 0 0x5005 (words [u])).upd.inSvc.getLsbD v = (s.upd.inSvc.getLsbD v && decide (v ≠ u)) :=
    (congrArg (·.upd.inSvc.getLsbD v) hframe).trans (inSvc_withoutUnit s u v)
  refine ⟨_, exec_updateUnitFail hu halive hsvc, ?_, fun v hv => ?_, ?_, hcmds, congrArg (·.atl) hframe, congrArg (·.dram) hframe, congrArg (·.cores) hframe⟩
  · rw [hinSvc, decide_eq_false (not_not.mpr rfl), Bool.and_false]
  · rw [hinSvc, decide_eq_true hv, Bool.and_true]
  · rw [hevt, BitVec.getLsbD_or, getLsbD_ofNat_two_pow]
    simp

end

/-! ### The statement -/

/-- Settles O50: each command is one change of its table or of its step, a record's fate is one count of its UP_GRAD, and ranges of rows join and part. -/
theorem updates : Obligations.Updates := by
  refine ⟨fun s r c x => ⟨fun h hx => ?_, fun h hx hstep he hfrozen hro fz drop hrecs => ?_⟩, fun l a b n _ hsep hne => ?_, fun s r c h he hcheck => ?_,
    fun s r c st => ⟨fun h hst os hos hne => ?_, fun o hp hq ht href hcmd hop hph hserves hst hwork => ?_, fun h hst he hdirect => ?_⟩,
    fun s r h st hend => upClose_closes hend, fun o lr t seed lam i g w st ho hg hw => delta_sgd_getD ho lr t seed lam st hg hw,
    fun s u hu halive hsvc hq => updateUnitFail_leaves hu halive hsvc hq⟩
  · intro tk x' u
    refine ⟨fun hstep => ?_, fun hstep halloc => ?_, fun v w hstep halloc hw hkept => ?_⟩
    · exact failed_onlyCmd h (exec_upSetopt_inStep h hx hstep)
    · exact failed_onlyCmd h (exec_upSetopt_full h hx hstep halloc)
    · obtain ⟨htab, hothers⟩ := setopt_sets hx halloc hw
      refine ⟨_, x', (exec_upSetopt h hx hstep halloc).trans ?_, cmdDone_ended hkept _, htab, rfl, rfl, rfl, hothers⟩
      rw [← hw]
      rfl
  · obtain ⟨hhost, hothers, hmem⟩ := refrozen_keeps s r (tabKey r.part c.obj) fz
    have hkept : kept (refrozen s r (tabKey r.part c.obj) fz) r := by
      rw [kept, cmd_congr hhost]
      exact exists_cmd_running h
    exact ⟨_, exec_upFreeze h hx hstep he hfrozen hro hrecs, cmdDone_ended hkept _, tab_refrozen hx r fz, hothers, hmem⟩
  · exact ⟨isFrozen_rangeAdd n hsep hne, isFrozen_rangeDel l a b n⟩
  · refine ⟨fun hopen => ?_, fun hopen hroom hclip => ?_⟩
    · exact failed_onlyCmd h (exec_upBegin_inStep h he hcheck hopen)
    · exact ⟨_, stepOf s r c.data, exec_upBegin h he hcheck hopen hroom hclip, cmdDone_ended (s := (running s r).modUpd _) (exists_cmd_running h) _,
        (lget_lset _ _ _ _).trans (if_pos rfl), rfl, rfl, rfl, fun k hk => (lget_lset _ _ _ _).trans (if_neg hk), rfl, rfl⟩
  · have hcmd := cmd_modCmd (s := running s r) (fun d => { d with work := [0, 0, 0, 0, 0, 0] ++ os }) (cmd_running h) rfl
    have hexec := exec_upGrad h hst hos
    rw [gradEnd_left hcmd hne] at hexec
    exact ⟨_, _, hexec, hcmd, rfl, rfl, onlyCmd_trans (onlyCmd_running s r) (onlyCmd_modCmd _ r fun _ => rfl)⟩
  · exact ⟨gradientRecord_dropped hp hq ht href hcmd hop hph hserves hst hwork,
      fun tk no row g u => gradientRecord_applied hp hq ht href hcmd hop hph hserves hst hwork⟩
  · obtain ⟨t, hexec, hans, hopen, hdram, hatl⟩ := upEnd_reports h hst he hdirect
    refine ⟨t, _, hexec, hans, length_report _ _ _ _, hopen, ?_, hdram, hatl⟩
    rw [report_head, Nat.mul_comm]
    rfl

end Sys2Proof.Machine

/-! PROOF. The resident model from its load to its unload (09 R353 to R357, R364, R365, R381): what an allocation in the pool leaves, what the end of a
model frees, and the one change of the model that each command is. -/

namespace Sys2Proof.Machine

open Sys2Proof.Claims

/-! ### Allocations in the pool (R364, R365) -/

/-- Between two states only the allocations of the pool and the count of evictions may differ. -/
structure PoolAct (s t : State) : Prop where
  frame : { t with dram := { t.dram with alloc := s.dram.alloc, evictCnt := s.dram.evictCnt } } = s

namespace PoolAct

variable {s t u : State} {p g len : Nat} {cls : PoolClass} {use : PoolUse}

theorem refl (s : State) : PoolAct s s := ⟨rfl⟩

theorem trans (h : PoolAct s t) (h' : PoolAct t u) : PoolAct s u :=
  ⟨(congrArg (fun t : State => { t with dram := { t.dram with alloc := s.dram.alloc, evictCnt := s.dram.evictCnt } }) h'.frame).trans h.frame⟩

theorem mdl (h : PoolAct s t) : t.mdl = s.mdl := (congrArg State.mdl h.frame :)
theorem floor (h : PoolAct s t) : t.dram.floor = s.dram.floor := (congrArg (·.dram.floor) h.frame :)

theorem evictFor (n : Nat) (s : State) (p g len : Nat) : PoolAct s (State.evictFor n s p g len).1 := by
  induction n generalizing s with
  | zero => exact refl s
  | succ n ih =>
    rw [State.evictFor]
    split
    · exact refl s
    split
    · exact refl s
    · next a _ => exact trans (t := s.evict a) ⟨rfl⟩ (ih _)

theorem poolAlloc (h : s.poolAlloc p g len cls use = some t) : PoolAct s t := by
  unfold State.poolAlloc at h
  extract_lets floored at h
  split at h
  · cases h; exact refl s
  split at h
  · cases h
  · have hev := evictFor (s.allocsOf g).length s p g len
    split at h
    · next he => rw [he] at hev; cases h; exact hev.trans ⟨rfl⟩
    · cases h

theorem poolAllocAll {gs : List Nat} (h : s.poolAllocAll p len cls use gs = some t) : PoolAct s t := by
  induction gs generalizing s with
  | nil => cases h; exact refl _
  | cons g gs ih =>
    rw [State.poolAllocAll] at h
    split at h
    · cases h
    · next hone => exact (poolAlloc hone).trans (ih h)

theorem poolSpread {gs : List Nat} (h : s.poolSpread p len cls use gs = some t) : PoolAct s t := by
  unfold State.poolSpread at h
  split at h
  · cases h
  · exact poolAllocAll h

theorem kvAlloc {id toks i : Nat} {l : List (Nat × Nat)} (h : s.kvAlloc id toks l i = some t) : PoolAct s t := by
  induction l generalizing s i with
  | nil => cases h; exact refl _
  | cons e l ih =>
    rw [State.kvAlloc] at h
    split at h
    · cases h
    · next hone => exact (poolAlloc hone).trans (ih h)

end PoolAct

/-! ### The end of a model (R355) -/

theorem endCtx_mem (s : State) (x : Nat) (cx : Ctx) : (s.endCtx x cx).dram.mem = s.dram.mem := by
  unfold State.endCtx
  extract_lets t u
  have ht : t.dram = s.dram := by
    refine List.foldlRecOn _ _ (motive := fun t : State => t.dram = s.dram) rfl fun t ht c _ => ?_
    split <;> exact ht
  have hrel : (t.releaseClus x cx.cores).dram = t.dram := (congrArg State.dram (releaseClus_frame t x cx.cores) :)
  exact (congrArg Dram.mem (hrel.trans ht) :)

/-- The end of a model reaches the cores, the clusters and the scheduler's tables through its contexts, and the allocations of the DRAM. -/
theorem modelFree_frame (s : State) :
    { s.modelFree with cores := s.cores, clus := s.clus, sched := s.sched, dram := s.dram, mdl := s.mdl } = s ∧
      s.modelFree.mdl.nextHandle = s.mdl.nextHandle ∧ s.modelFree.dram.mem = s.dram.mem := by
  unfold State.modelFree
  extract_lets xs t u
  have ht : { t with cores := s.cores, clus := s.clus, dram := s.dram, sched := s.sched } = s ∧ t.dram.mem = s.dram.mem := by
    refine List.foldlRecOn _ _ (motive := fun t : State => { t with cores := s.cores, clus := s.clus, dram := s.dram, sched := s.sched } = s ∧
      t.dram.mem = s.dram.mem) ⟨rfl, rfl⟩ fun t ⟨hframe, hmem⟩ e _ => ⟨?_, (endCtx_mem t _ _).trans hmem⟩
    exact (congrArg (fun t : State => { t with cores := s.cores, clus := s.clus, dram := s.dram, sched := s.sched }) (endCtx_frame t e.1 e.2)).trans hframe
  obtain ⟨hframe, hmem⟩ := ht
  refine ⟨(congrArg (fun t : State => { t with mdl := s.mdl }) hframe :), (congrArg (·.mdl.nextHandle) hframe :), hmem⟩

theorem modelFree_host (s : State) : s.modelFree.host = s.host := (congrArg State.host (modelFree_frame s).1 :)

theorem modelFree_alloc {s : State} {a : Alloc} (h : a ∈ s.modelFree.dram.alloc) :
    (∀ i, a.use ≠ .run i) ∧ (∀ q i, a.use ≠ .kvRun q i) ∧ ∀ n, a.use ≠ .model n := by
  obtain ⟨-, hgone⟩ := List.mem_filter.mp h
  refine ⟨fun i hi => ?_, fun q i hi => ?_, fun n hn => ?_⟩
  · simp [hi] at hgone
  · simp [hi] at hgone
  · simp [hn] at hgone

/-! ### MD_LOAD (R353, R354) -/

theorem parseModel_loading {s : State} {p : Nat} {d h : Bytes} {secs : List Bytes} {m : ModelS} (hm : s.parseModel p d h secs = some m) :
    m.st = 1 ∧ m.part = p := by
  unfold State.parseModel at hm
  extract_lets clus nclu ns page tiles tp tn raw progs consts ents nchan chunk budget at hm
  split at hm
  · cases hm
  split at hm
  · cases hm
  · cases hm; exact ⟨rfl, rfl⟩

section
variable {s t : State} {r : CmdRef} {c : Cmd}

theorem exec_mdLoad (h : starts s r 0x60 c) : exec (.mdLoad r) s = next ((running s r).loadStart c) :=
  stepCmd_starts h (fun c t => t.loadStart c) fun c t => t.loadGo c

theorem loadStart_held (h : s.mdl.st ≠ 0) : s.loadStart c = s.cmdFail c.ref 0x30 [] := by
  unfold State.loadStart
  exact if_pos h

section
variable (hst : s.mdl.st = 0) (hns : (s.ns? (nsKey c.ref.part (fld c.data 0 2))).isSome = true)
include hst hns

theorem loadStart_unreadable {u : Nat} (hread : s.readRange (nsKey c.ref.part (fld c.data 0 2)) (fld c.data 8 6 * 16384) 16384 = (t, .error u)) :
    s.loadStart c = t.cmdFail c.ref 0x11 (leBytes 8 u) := by
  unfold State.loadStart
  rw [if_neg (not_not.mpr hst), if_neg (by simp [Option.isSome_iff_ne_none.mp hns])]
  simp only [hread]

theorem loadStart_passes {u w : State} {h : Bytes} {secs : List Bytes} {m : ModelS}
    (hread : s.readRange (nsKey c.ref.part (fld c.data 0 2)) (fld c.data 8 6 * 16384) 16384 = (t, .ok h))
    (hhead : headerBad h (t.clustersOf c.ref.part).length = false)
    (hsecs : State.readSects (nsKey c.ref.part (fld c.data 0 2)) (fld c.data 8 6) (sections h) t [1, 2, 3, 4, 6] = (u, .ok (some secs)))
    (hm : u.parseModel c.ref.part c.data h secs = some m) (hquota : m.needs (secs.getD 1 []).length (fld c.data 16 4) ≤ u.quota c.ref.part)
    (hspread : ({ u with mdl := m }.modDram fun d => { d with floor := mset 0 d.floor c.ref.part (fld c.data 16 4) }).poolSpread c.ref.part
      (m.fixedBytes (secs.getD 1 []).length) .state (.model 0) (u.chansOf c.ref.part) = some w) :
    s.loadStart c = w ∧ w.mdl.st = 1 ∧ w.mdl.part = c.ref.part ∧ mget 0 w.dram.floor c.ref.part = fld c.data 16 4 := by
  have hpool := PoolAct.poolSpread hspread
  obtain ⟨hst1, hpart⟩ := parseModel_loading hm
  refine ⟨?_, (congrArg ModelS.st hpool.mdl).trans hst1, (congrArg ModelS.part hpool.mdl).trans hpart, ?_⟩
  · unfold State.loadStart
    rw [if_neg (not_not.mpr hst), if_neg (by simp [Option.isSome_iff_ne_none.mp hns])]
    simp only [hread, hhead, hsecs, hm, Bool.false_eq_true, if_false, if_neg (Nat.not_lt.mpr hquota)]
    have hchans : ∀ f : Dram → Dram, ({ u with mdl := m }.modDram f).chansOf c.ref.part = u.chansOf c.ref.part := fun _ => rfl
    rw [hchans, hspread]
  · rw [hpool.floor]
    exact mget_mset_self _ _ _ _

end

/-- A load that has started is carried on. -/
theorem exec_mdLoad_more (hr : refOk r = true) (hcmd : s.cmd? r = some c) (hop : c.opcode = 0x60) (hph : c.phase = .running) (hserves : s.serves 0x60 = true) :
    exec (.mdLoad r) s = next (s.loadGo c) :=
  stepCmd_more hr hcmd hop hph hserves (fun c t => t.loadStart c) fun c t => t.loadGo c

theorem loadGo_ready {u : State} (hruns : s.fetchPinned 0 s.mdl.runs = (t, none)) (hctxs : State.makeCtxs t.mdl.progs t.fillModel t.mdl.entries = some u) :
    s.loadGo c = (u.modMdl fun m => { m with st := 2 }).cmdDone c.ref [] none := by
  simp only [State.loadGo, hruns, hctxs]

theorem loadGo_stops {f : Nat × Bytes} (hruns : s.fetchPinned 0 s.mdl.runs = (t, some f)) : s.loadGo c = t.modelFree.cmdFail c.ref f.1 f.2 := by
  simp only [State.loadGo, hruns]

end

/-! ### MD_UNLOAD and grants (R355, R357) -/

section
variable {s : State} {r : CmdRef} {c : Cmd}

theorem holderCheck_of_holder (hst : s.mdl.st = 2) (hpart : s.mdl.part = c.ref.part) : s.holderCheck c = none := by
  unfold State.holderCheck
  rw [if_neg (not_not.mpr hst), if_neg (not_not.mpr hpart)]

/-- A command that changes the model and ends changes nothing else. -/
theorem onlyModel_done (s : State) (r : CmdRef) (f : ModelS → ModelS) : onlyModel s (((running s r).modMdl f).cmdDone r [] none) r :=
  onlyCmd_trans (onlyCmd_running s r) (onlyCmd_cmdDone (running s r) r [] none)

theorem ended_modMdl_cmdDone {op : Nat} (h : starts s r op c) (f : ModelS → ModelS) : ended (((running s r).modMdl f).cmdDone r [] none) r 0 [] :=
  cmdDone_ended (s := (running s r).modMdl f) (exists_cmd_running h) []

section
variable (hst : s.mdl.st = 2) (hpart : s.mdl.part = r.part)
include hst hpart

theorem holderCheck_running (h : c.ref = r) : (running s r).holderCheck c = none :=
  holderCheck_of_holder (s := running s r) hst (hpart.trans (by rw [h]))

theorem exec_mdUnload (h : starts s r 0x61 c) : exec (.mdUnload r) s = next ((running s r).modMdl fun m => { m with st := 4 }) := by
  simp only [exec, execMdUnload]
  rw [startCmd_starts h, holderCheck_running hst hpart h.2.2.2.1]

theorem exec_mdGrant (h : starts s r 0x62 c) (hobj : c.obj < 16) (hother : c.obj ≠ r.part) (hweight : 0 < bits c.p1 23 16) (hp1 : c.p1 < 2 ^ 24) :
    exec (.mdGrant r) s = next (((running s r).modMdl fun m => { m with
      grants := m.grants.filter (·.part != c.obj) ++ [{ part := c.obj, mask := bits c.p1 15 0, weight := bits c.p1 23 16 }] }).cmdDone r [] none) := by
  have href : c.ref = r := h.2.2.2.1
  have hcheck : (running s r).mdGrantCheck c = none := by
    unfold State.mdGrantCheck
    rw [holderCheck_running hst hpart href, href]
    exact if_neg (by omega)
  simp only [exec, execMdGrant]
  rw [startCmd_starts h, hcheck]

theorem exec_mdRevoke (h : starts s r 0x63 c) (hobj : c.obj < 16) :
    exec (.mdRevoke r) s = next (((running s r).modMdl fun m => { m with grants := m.grants.filter (·.part != c.obj) }).cmdDone r [] none) := by
  have hcheck : (running s r).mdRevokeCheck c = none := by
    unfold State.mdRevokeCheck
    rw [holderCheck_running hst hpart h.2.2.2.1]
    exact if_neg (Nat.not_le.mpr hobj)
  simp only [exec, execMdRevoke]
  rw [startCmd_starts h, hcheck]

end

end

/-! ### UNLOAD_FINISH (R355) -/

section
variable {s : State}

theorem ended_cmdDone {r : CmdRef} {result : Bytes} (q : CmdRef) (h : ended s r 0 result) : ended (s.cmdDone q result none) r 0 result := by
  obtain ⟨d, hd, hend⟩ := h
  by_cases hq : r = q
  · subst hq
    exact cmdDone_ended ⟨d, hd⟩ result
  · refine ⟨d, ?_, hend⟩
    rw [← hd]
    exact (onlyCmd_cmdDone s q result none).2 r hq

theorem kept_congr {t : State} {r : CmdRef} (h : t.host = s.host) (hk : kept s r) : kept t r := by
  rw [kept, cmd_congr h]
  exact hk

theorem kept_cmdDone {r : CmdRef} (q : CmdRef) (result : Bytes) (body : Option Bytes) (h : kept s r) : kept (s.cmdDone q result body) r := by
  by_cases hq : r = q
  · subst hq
    exact kept_modCmd h fun _ => rfl
  · obtain ⟨d, hd⟩ := h
    exact ⟨d, ((onlyCmd_cmdDone s q result body).2 r hq).trans hd⟩

theorem foldl_cmdDone_frame (l : List Cmd) (s : State) : { l.foldl (fun t c => t.cmdDone c.ref [] none) s with host := s.host } = s :=
  List.foldlRecOn _ _ (motive := fun t : State => { t with host := s.host } = s) rfl fun _ ht _ _ => ht

theorem foldl_cmdDone_ended {d : Cmd} {l : List Cmd} (hd : d ∈ l) (hkept : kept s d.ref) :
    ended (l.foldl (fun t c => t.cmdDone c.ref [] none) s) d.ref 0 [] := by
  induction l generalizing s with
  | nil => cases hd
  | cons e l ih =>
    rw [List.foldl_cons]
    rcases List.mem_cons.mp hd with rfl | hd
    · exact List.foldlRecOn _ _ (motive := fun t : State => ended t d.ref 0 []) (cmdDone_ended hkept []) fun _ ht c _ => ended_cmdDone c.ref ht
    · exact ih hd (kept_cmdDone e.ref [] none hkept)

theorem kept_of_runningOf {op : Nat} {d : Cmd} (h : d ∈ s.runningOf op) : kept s d.ref := by
  obtain ⟨hd, -⟩ := List.mem_filter.mp h
  exact Option.isSome_iff_exists.mp (List.find?_isSome.mpr ⟨d, hd, beq_self_eq_true _⟩)

/-- The model is freed and each MD_UNLOAD completes. -/
def State.unloaded (s : State) : State := (s.runningOf 0x61).foldl (fun t c => t.cmdDone c.ref [] none) s.modelFree

section
variable (hst : s.mdl.st = 4) (hserves : s.serves 0x61 = true)
include hst hserves

theorem exec_unloadFinish_busy (hbusy : (s.host.cmds.any fun d => modelReq d && d.adm != 0 && (d.phase == .admitted || d.phase == .running)) = true) :
    exec .unloadFinish s = next s := by
  simp only [exec, execUnloadFinish]
  simp [hst, hserves, hbusy]

theorem exec_unloadFinish (hidle : (s.host.cmds.any fun d => modelReq d && d.adm != 0 && (d.phase == .admitted || d.phase == .running)) = false) :
    exec .unloadFinish s = next s.unloaded := by
  simp only [exec, execUnloadFinish]
  simp [hst, hserves, hidle, State.unloaded]

end

theorem unloaded_frame (s : State) : { s.unloaded with host := s.modelFree.host } = s.modelFree := foldl_cmdDone_frame _ _

theorem unloaded_ended {d : Cmd} (h : d ∈ s.runningOf 0x61) : ended s.unloaded d.ref 0 [] :=
  foldl_cmdDone_ended h (kept_congr (modelFree_host s) (kept_of_runningOf h))

end

/-! ### MD_DROPKV and MD_STAT (R381; 11 R450) -/

section
variable {s : State} {r : CmdRef} {c : Cmd}

theorem exec_mdStat (h : starts s r 0x68 c) : ∃ b, exec (.mdStat r) s = next ((running s r).cmdDone r [] (some b)) := by
  simp only [exec, execMdStat]
  rw [startCmd_starts h]
  exact ⟨_, rfl⟩

section
variable (h : starts s r 0x67 c)
include h

theorem exec_mdDropkv_none (hnone : (s.mdl.kept.find? fun k => k.handle == c.obj && k.part == r.part) = none) :
    exec (.mdDropkv r) s = next ((running s r).cmdDone r [] none) := by
  have hfind : ((running s r).mdl.kept.find? fun k => k.handle == c.obj && k.part == r.part) = none := hnone
  simp only [exec, execMdDropkv]
  rw [startCmd_starts h, hfind]

variable {k : Kept} (hk : (s.mdl.kept.find? fun k => k.handle == c.obj && k.part == r.part) = some k)
include hk

theorem exec_mdDropkv_used (huser : k.user.isSome = true) : exec (.mdDropkv r) s = next (((running s r).modMdl fun m => { m with
    kept := m.kept.map fun x => if x.handle == k.handle then { x with drop := true } else x }).cmdDone r [] none) := by
  have hfind : ((running s r).mdl.kept.find? fun k => k.handle == c.obj && k.part == r.part) = some k := hk
  simp only [exec, execMdDropkv]
  rw [startCmd_starts h, hfind]
  simp only [huser, if_true]

theorem exec_mdDropkv_free (huser : k.user = none) : exec (.mdDropkv r) s = next (((running s r).keptDrop k.handle).cmdDone r [] none) := by
  have hfind : ((running s r).mdl.kept.find? fun k => k.handle == c.obj && k.part == r.part) = some k := hk
  simp only [exec, execMdDropkv]
  rw [startCmd_starts h, hfind]
  simp only [huser, Option.isSome_none, Bool.false_eq_true, if_false]

end

/-- Dropping retained KV changes the allocations of the DRAM and what is kept. -/
theorem keptDrop_frame (s : State) (h : Nat) : { s.keptDrop h with
    dram := { (s.keptDrop h).dram with alloc := s.dram.alloc }, mdl := { (s.keptDrop h).mdl with kept := s.mdl.kept } } = s := by
  unfold State.keptDrop
  split <;> rfl

theorem handle_ne_of_mem_keptDrop {h : Nat} {x : Kept} (hx : x ∈ (s.keptDrop h).mdl.kept) : x.handle ≠ h := by
  unfold State.keptDrop at hx
  split at hx
  · next hnone => simpa using List.find?_eq_none.mp hnone x hx
  · simpa using (List.mem_filter.mp hx).2

end

/-! ### The statement -/

/-- Settles O51: a load passes its package, its pinned runs and its contexts or leaves no model; each other command is one change of the model, and the end of
an unload frees what the model holds. -/
theorem modelResidence : Obligations.ModelResidence := by
  refine ⟨fun s r c h => ?load, fun s t r c hp hq ht href hcmd hop hph hserves => ?more, fun s r c hst hpart => ?holder, fun s hst hserves => ?finish,
    fun s r c => ⟨fun h => ?stat, fun h => ?dropkv⟩⟩
  case load =>
    obtain rfl : c.ref = r := h.2.2.2.1
    refine ⟨fun hheld => ?_, fun hst hns => ⟨fun t u hread hkept => ?_, fun t u hd secs m w hread hhead hsecs hm hquota hspread => ?_⟩⟩
    · exact failed_onlyCmd h ((exec_mdLoad h).trans (congrArg next (loadStart_held hheld)))
    · exact ⟨_, (exec_mdLoad h).trans (congrArg next (loadStart_unreadable (s := running s c.ref) hst hns hread)), cmdFail_ended hkept _ _, rfl, rfl⟩
    · obtain ⟨hw, hloading⟩ := loadStart_passes (s := running s c.ref) hst hns hread hhead hsecs hm hquota hspread
      exact ⟨(exec_mdLoad h).trans (congrArg next hw), hloading⟩
  case more =>
    subst href
    have hexec := exec_mdLoad_more (refOk_of_lt hp hq ht) hcmd hop hph hserves
    refine ⟨fun u hruns hctxs hkept => ?_, fun f hruns hkept => ?_⟩
    · exact ⟨_, hexec.trans (congrArg next (loadGo_ready hruns hctxs)), cmdDone_ended (s := u.modMdl _) hkept [], rfl, rfl⟩
    · exact ⟨_, hexec.trans (congrArg next (loadGo_stops hruns)), cmdFail_ended (kept_congr (modelFree_host t) hkept) _ _, rfl⟩
  case holder =>
    refine ⟨fun h => ?_, fun h hobj hother hweight hp1 => ?_, fun h hobj => ?_⟩
    · exact ⟨_, _, exec_mdUnload hst hpart h, rfl, cmd_running h, rfl, onlyCmd_running s r⟩
    · exact ⟨_, exec_mdGrant hst hpart h hobj hother hweight hp1, ended_modMdl_cmdDone h _, onlyModel_done s r _, rfl⟩
    · exact ⟨_, exec_mdRevoke hst hpart h hobj, ended_modMdl_cmdDone h _, onlyModel_done s r _, rfl⟩
  case finish =>
    refine ⟨exec_unloadFinish_busy hst hserves, fun hidle => ?_⟩
    have hframe := unloaded_frame s
    have hmdl : s.unloaded.mdl = s.modelFree.mdl := (congrArg State.mdl hframe :)
    have hdram : s.unloaded.dram = s.modelFree.dram := (congrArg State.dram hframe :)
    have hgr : s.unloaded.gr = s.modelFree.gr := (congrArg State.gr hframe :)
    obtain ⟨hfree, hnext, hmem⟩ := modelFree_frame s
    refine ⟨_, exec_unloadFinish hst hserves hidle, ?_, ?_, ?_, ?_, fun a ha => modelFree_alloc (hdram ▸ ha), fun d hd => unloaded_ended hd, ?_, ?_⟩
    · rw [hmdl]; rfl
    · rw [hmdl]; rfl
    · rw [hmdl]; rfl
    · rw [hmdl, hnext]
    · rw [hgr]; exact (congrArg State.gr hfree :)
    · rw [hdram, hmem]
  case stat =>
    obtain ⟨b, hexec⟩ := exec_mdStat h
    exact ⟨_, b, hexec, cmdDone_answered (exists_cmd_running h) _ _, onlyCmd_trans (onlyCmd_running s r) (onlyCmd_cmdDone _ r _ _)⟩
  case dropkv =>
    refine ⟨fun hnone => ?_, fun k hk => ⟨fun huser => ?_, fun huser => ?_⟩⟩
    · exact ⟨_, exec_mdDropkv_none h hnone, cmdDone_ended (exists_cmd_running h) _, onlyCmd_trans (onlyCmd_running s r) (onlyCmd_cmdDone _ r _ _)⟩
    · exact ⟨_, exec_mdDropkv_used h hk huser, ended_modMdl_cmdDone h _, onlyModel_done s r _, rfl⟩
    · have hframe := keptDrop_frame (running s r) k.handle
      have hobj : k.handle = c.obj := by
        have hsome := List.find?_some hk
        simp only [Bool.and_eq_true, beq_iff_eq] at hsome
        exact hsome.1
      have hhost : ((running s r).keptDrop k.handle).host = (running s r).host := (congrArg State.host hframe :)
      exact ⟨_, exec_mdDropkv_free h hk huser, cmdDone_ended (kept_congr hhost (exists_cmd_running h)) [],
        fun x hx => hobj ▸ handle_ne_of_mem_keptDrop hx, (congrArg (·.mdl.seqs) hframe :), (congrArg (·.dram.mem) hframe :)⟩

end Sys2Proof.Machine

/-! PROOF. Requests of the resident model and how they enter (09 R374, R375, R380, R384): the items of a command, a sequence's KV and its batch slot. -/

namespace Sys2Proof.Machine

open Sys2Proof.Claims

/-! ### Reads and writes of lines (13 R541 to R544) -/

/-- A read or a write of lines of the DRAM reaches the DRAM, its counters and the records of its faults; between the two states all else is the same. -/
structure LineAct (s t : State) : Prop where
  frame : { t with fbk := s.fbk, svy := s.svy, sys := s.sys, host := s.host, pages := s.pages, frz := s.frz, dram := s.dram, hbm := s.hbm, ecc := s.ecc
                   free := s.free } = s

namespace LineAct

theorem refl (s : State) : LineAct s s := ⟨rfl⟩

theorem trans {s t u : State} (h : LineAct s t) (h' : LineAct t u) : LineAct s u :=
  ⟨(congrArg (fun t : State => { t with fbk := s.fbk, svy := s.svy, sys := s.sys, host := s.host, pages := s.pages, frz := s.frz, dram := s.dram, hbm := s.hbm,
                                        ecc := s.ecc, free := s.free }) h'.frame).trans h.frame⟩

theorem mdl {s t : State} (h : LineAct s t) : t.mdl = s.mdl := (congrArg State.mdl h.frame :)

theorem of_fst {α : Type} {s t : State} {x : State × α} {a : α} (h : x = (t, a)) (hx : LineAct s x.1) : LineAct s t := by rwa [h] at hx

theorem fbRecord (s : State) (code : Nat) (p : Bytes) : LineAct s (s.fbRecord code p) :=
  ⟨(congrArg (fun t : State => { t with dram := s.dram, hbm := s.hbm, ecc := s.ecc, free := s.free }) (fbRecord_frame s code p) :)⟩

theorem lineRecord (s : State) (g l n : Nat) (ue : Bool) : LineAct s (s.lineRecord g l n ue) := by
  refine trans ?_ (fbRecord _ _ _)
  exact ⟨rfl⟩

theorem putLine (s : State) (g l : Nat) (bs : Bytes) : LineAct s (s.putLine g l bs) := by
  unfold State.putLine
  extract_lets k t m u b
  split
  · split <;> exact ⟨rfl⟩
  · exact ⟨rfl⟩

theorem getLine (s : State) (g l : Nat) : LineAct s (s.getLine g l).1 := by
  have hput (t : State) (bs : Bytes) (n : Nat) : LineAct t ((t.putLine g l bs).lineRecord g l n false) := (putLine t g l bs).trans (lineRecord _ g l n false)
  have htake : LineAct s s.takeFree.2 := ⟨rfl⟩
  unfold State.getLine
  extract_lets k
  split
  · exact refl s
  split
  · exact ⟨rfl⟩
  split
  · exact refl s
  split
  · dsimp only
    split
    · exact htake.trans (lineRecord _ _ _ _ _)
    split
    · exact htake.trans (trans (t := (s.takeFree.2.takeBytes 64).2) ⟨rfl⟩ (hput _ _ _))
    · exact htake
  · split
    · exact lineRecord _ _ _ _ _
    · dsimp only
      split
      · exact refl s
      · exact hput s _ _

theorem dramRead (s : State) (g off len : Nat) : LineAct s (s.dramRead g off len).1 := by
  unfold State.dramRead
  induction len / 64 + 2 generalizing s off len with
  | zero => exact refl s
  | succ n ih =>
    rw [State.dramReadAux]
    split
    · exact refl s
    dsimp only
    split
    · next hg => exact of_fst hg (getLine s g _)
    · next t bs hg =>
      have hrest := (of_fst hg (getLine s g _)).trans (ih t (off + min len (64 - off % 64)) (len - min len (64 - off % 64)))
      split <;> next hr => exact of_fst hr hrest

theorem dramWrite (s : State) (g off : Nat) (bs : Bytes) : LineAct s (s.dramWrite g off bs).1 := by
  unfold State.dramWrite
  induction bs.length / 64 + 2 generalizing s off bs with
  | zero => exact refl s
  | succ n ih =>
    rw [State.dramWriteAux]
    split
    · exact refl s
    dsimp only
    refine trans ?_ (ih _ _ _)
    split
    · exact refl s
    split
    · exact putLine s _ _ _
    split
    · next hg => exact of_fst hg (getLine s g _)
    · next hg => exact (of_fst hg (getLine s g _)).trans (putLine _ _ _ _)

theorem kvCopy (s : State) (src dst toks : Nat) : LineAct s (s.kvCopy src dst toks).1 := by
  refine List.foldlRecOn _ _ (motive := fun acc : State × Bool => LineAct s acc.1) (refl s) fun acc h e _ => ?_
  split
  · next a b _ _ =>
    have hread := dramRead acc.1 a.chan a.off (cdiv toks 32 * 32 * e.1.2)
    split
    · next hr => exact (h.trans (of_fst hr hread)).trans (dramWrite _ _ _ _)
    · next hr => exact h.trans (of_fst hr hread)
  · exact h

end LineAct

/-! ### Writes to a context (R371, R375) -/

/-- A write to the scratchpad of a core of a context reaches the core or the context's image of it. -/
theorem ctxPoke_frame (s : State) (x c a : Nat) (bs : Bytes) : { s.ctxPoke x c a bs with cores := s.cores, sched := s.sched } = s := by
  unfold State.ctxPoke
  split
  · rfl
  split
  · rfl
  split <;> rfl

/-- The KV table of a sequence is written to the scratchpads of its entry's cores. -/
theorem writeKvt_frame (s : State) (e : MdEntry) (q : SeqSt) : { s.writeKvt e q with cores := s.cores, sched := s.sched } = s := by
  unfold State.writeKvt
  split
  · rfl
  refine List.foldlRecOn _ _ (motive := fun t : State => { t with cores := s.cores, sched := s.sched } = s) rfl fun t ht g _ => ?_
  refine List.foldlRecOn _ _ (motive := fun t : State => { t with cores := s.cores, sched := s.sched } = s) ht fun t ht k _ => ?_
  split
  · exact ht
  · exact (congrArg (fun t : State => { t with cores := s.cores, sched := s.sched }) (ctxPoke_frame t _ _ _ _)).trans ht

theorem writeKvt_mdl (s : State) (e : MdEntry) (q : SeqSt) : (s.writeKvt e q).mdl = s.mdl := (congrArg State.mdl (writeKvt_frame s e q) :)

/-! ### Items (R380; 11 R450) -/

theorem giveItems_gives (s : State) (c : Cmd) : { s.giveItems c with mdl := s.mdl } = s ∧
    (s.giveItems c).mdl.items.map (fun i => (i.ref, i.idx, i.data)) =
      s.mdl.items.map (fun i => (i.ref, i.idx, i.data)) ++ ((itemsOf c).zipIdx).map fun b => (c.ref, b.2, b.1) := by
  unfold State.giveItems
  induction (itemsOf c).zipIdx generalizing s with
  | nil => exact ⟨rfl, (List.append_nil _).symm⟩
  | cons b l ih =>
    obtain ⟨hframe, hitems⟩ := ih (s.addItem c.ref b.2 c.ref.part (c.p1 % 256) b.1)
    rw [List.foldl_cons]
    refine ⟨congrArg (fun t : State => { t with mdl := s.mdl }) hframe, hitems.trans ?_⟩
    simp [State.addItem]

section
variable {s : State} {r : CmdRef} {c : Cmd}

theorem exec_mdGen (h : starts s r 0x64 c) : exec (.mdGen r) s = next (running s r) := startCmd_starts h fun _ t => t

theorem exec_mdEncode (h : starts s r 0x65 c) : exec (.mdEncode r) s = next ((running s r).giveItems c) := startCmd_starts h fun c t => t.giveItems c

theorem exec_mdRank (h : starts s r 0x66 c) : exec (.mdRank r) s = next ((running s r).giveItems c) := startCmd_starts h fun c t => t.giveItems c

/-- The items of a command that starts queue after those of earlier ones, in their order. -/
theorem giveItems_running {op : Nat} (h : starts s r op c) : { (running s r).giveItems c with mdl := s.mdl } = running s r ∧
    ((running s r).giveItems c).mdl.items.map (fun i => (i.ref, i.idx, i.data)) =
      s.mdl.items.map (fun i => (i.ref, i.idx, i.data)) ++ ((itemsOf c).zipIdx).map fun b => (r, b.2, b.1) := by
  obtain rfl : c.ref = r := h.2.2.2.1
  exact giveItems_gives (running s c.ref) c

end

/-! ### A request takes a slot (R374, R375, R381) -/

/-- What a request that takes a slot resumes from: the state, the retained KV that it uses, and the tokens of it. -/
def State.resumed (s : State) (c : Cmd) (id : Nat) (prompt : List Nat) : State × Option Kept × Nat := match s.resumes c with
  | none => (s, none, 0)
  | some k =>
    let n := min (agree prompt k.toks) (prompt.length - 1)
    match s.kvCopy k.seq id n with
    | (u, true) => (u, some k, n)
    | (u, false) => (u.keptDrop k.handle, none, 0)

theorem resumed_seqs (s : State) (c : Cmd) (id : Nat) (prompt : List Nat) : (s.resumed c id prompt).1.mdl.seqs = s.mdl.seqs := by
  unfold State.resumed
  split
  · rfl
  · next k _ =>
    have hcopy := LineAct.kvCopy s k.seq id (min (agree prompt k.toks) (prompt.length - 1))
    dsimp only
    split
    · next hu => exact congrArg ModelS.seqs (LineAct.of_fst hu hcopy).mdl
    · next u hu => exact (congrArg (·.mdl.seqs) (keptDrop_frame u k.handle) :).trans (congrArg ModelS.seqs (LineAct.of_fst hu hcopy).mdl)

/-- The tokens of a request's prompt (Table 9.8). -/
def genPrompt (c : Cmd) : List Nat := (List.range (genTok c)).map fun i => fld c.data (64 + 4 * i) 4

theorem seqEnter_seqs {s u : State} {e : MdEntry} {c : Cmd} (h : s.seqEnter e c = some u) : ∃ q, u.mdl.seqs = s.mdl.seqs ++ [q] ∧ q.id = s.mdl.nextSeq ∧
    q.ref = c.ref ∧ q.entry = e.no ∧ q.gen = [] ∧ q.prompt = genPrompt c := by
  unfold State.seqEnter at h
  extract_lets toks id used at h
  split at h
  · cases h
  split at h
  · cases h
  split at h
  · cases h
  split at h
  · cases h
  next slot _ _ _ t ht =>
  split at h
  next t' kept n hres =>
  have hseqs : t'.mdl.seqs = s.mdl.seqs := by
    have hres : t.resumed c id (genPrompt c) = (t', kept, n) := hres
    have hmdl := resumed_seqs t c id (genPrompt c)
    rw [hres] at hmdl
    exact hmdl.trans (congrArg ModelS.seqs (PoolAct.kvAlloc ht).mdl)
  extract_lets q v w at h
  have hv : v.mdl.seqs = s.mdl.seqs := by
    rw [← hseqs]
    cases kept <;> rfl
  refine ⟨q, ?_, rfl, rfl, rfl, rfl, rfl⟩
  have hw : w.mdl.seqs = s.mdl.seqs ++ [q] := congrArg (· ++ [q]) hv
  obtain rfl := Option.some.inj h
  split
  · rw [writeKvt_mdl, hw]
  · exact hw

/-! ### SEQUENCE_ENTRY (R374) -/

theorem guardUnit_entry {e : Nat} (he : e < 16) (o : Out) : guardUnit (entryOk e) o = o := guardUnit_pos (decide_eq_true he)

theorem filterMap_range_single {α : Type} (n m : Nat) (a : α) :
    ((List.range m).filterMap fun p => if n == p then some a else none) = if n < m then [a] else [] := by
  induction m with
  | zero => rfl
  | succ m ih =>
    rw [List.range_succ, List.filterMap_append, ih]
    by_cases h : n = m
    · simp [h]
    · have hiff : n < m + 1 ↔ n < m := by omega
      simp [h, hiff]

section
variable {s : State} {e : Nat} {x : MdEntry} (he : e < 16) (hx : s.mdEntry? e = some x) (hserves : s.serves 0x64 = true) (hst : s.mdl.st = 2)
include he hx hserves hst

theorem exec_sequenceEntry_none (hwait : s.genWaiting e = []) : exec (.sequenceEntry e) s = next s := by
  simp only [exec, execSequenceEntry]
  rw [guardUnit_entry he, hx]
  simp [hserves, hst, hwait]

theorem exec_sequenceEntry_one {d : Cmd} {u : State} (hwait : s.genWaiting e = [d]) (hpart : d.ref.part < 16)
    (hleft : mget 0 s.mdl.taken (e * 16 + d.ref.part) < s.mdl.weightOf d.ref.part) (henter : s.seqEnter x d = some u) :
    exec (.sequenceEntry e) s = next u := by
  have hheads : ((List.range 16).filterMap fun p => (s.genWaiting e).find? (·.ref.part == p)) = [d] := by
    simp only [hwait, List.find?_singleton]
    rw [filterMap_range_single, if_pos hpart]
  simp only [exec, execSequenceEntry]
  rw [guardUnit_entry he, hx]
  simp only [hheads]
  simp [hserves, hst, hleft, henter]

end

theorem no_of_mdEntry {s : State} {e : Nat} {x : MdEntry} (h : s.mdEntry? e = some x) : x.no = e := by
  simpa using List.find?_some h

end Sys2Proof.Machine

/-! PROOF. Steps of the resident model (09 R376 to R381): the area of a step in the clusters of its entry, and what the end of a step does to the sequence of
its one slot. -/

namespace Sys2Proof.Machine

open Sys2Proof.Claims

/-! ### GEN_STEP_START (R376, R378) -/

/-- Bytes written to the scratchpads of several clusters at one place. -/
def State.areasWritten (s : State) (ks : List Nat) (o : Nat) (bs : Bytes) : State :=
  ks.foldl (fun w k => w.modClu k fun y => { y with spm := wrBytes y.spm o bs }) s

theorem areasWritten_frame (s : State) (ks : List Nat) (o : Nat) (bs : Bytes) : { s.areasWritten ks o bs with clus := s.clus } = s :=
  List.foldlRecOn _ _ (motive := fun t : State => { t with clus := s.clus } = s) rfl fun _ ht _ _ => ht

theorem rdByte_wrBytes_own (m : Mem) (o : Nat) (bs : Bytes) {i : Nat} (h : i < bs.length) : rdByte (wrBytes m o bs) (o + i) = bs.getD i 0 := by
  rw [rdByte_wrBytes, if_pos (by omega), Nat.add_sub_cancel_left]

theorem rdByte_areasWritten {s : State} {ks : List Nat} {k o i : Nat} {bs : Bytes} (hk : k ∈ ks) (hi : i < bs.length) :
    rdByte ((s.areasWritten ks o bs).clu k).spm (o + i) = bs.getD i 0 := by
  induction ks generalizing s with
  | nil => cases hk
  | cons j ks ih =>
    rw [State.areasWritten, List.foldl_cons]
    rcases List.mem_cons.mp hk with rfl | hk
    · refine List.foldlRecOn _ _ (motive := fun t : State => rdByte (t.clu k).spm (o + i) = bs.getD i 0) ?_ fun t ht j _ => ?_
      · rw [clu_modClu_self]
        exact rdByte_wrBytes_own _ o bs hi
      · by_cases hj : k = j
        · subst hj
          rw [clu_modClu_self]
          exact rdByte_wrBytes_own _ o bs hi
        · rw [clu_modClu_of_ne t _ hj]
          exact ht
    · exact ih hk

/-- The bytes of the items that a step takes, each from a line on. -/
def stepItems (m : ModelS) (slots : List StepSlot) : List Bytes := slots.filterMap fun k => k.item.map m.itemData

/-- A step's items stand in the DRAM after the room of its results, and the KV tables that its entry's context does not hold yet are written (R375). -/
def State.stepLaid (s : State) (x : MdEntry) (e off : Nat) (items : List Bytes) : State :=
  let u := (s.dramWrite (x.cores.headD 0) off (items.flatMap pad64)).1
  if u.mdl.fresh.contains e then (u.mdl.seqs.filter (·.entry == e)).foldl (fun u q => u.writeKvt x q) u else u

theorem stepLaid_mdl (s : State) (x : MdEntry) (e off : Nat) (items : List Bytes) : (s.stepLaid x e off items).mdl = s.mdl := by
  have hwrite := (LineAct.dramWrite s (x.cores.headD 0) off (items.flatMap pad64)).mdl
  unfold State.stepLaid
  dsimp only
  split
  · exact List.foldlRecOn _ _ (motive := fun t : State => t.mdl = s.mdl) hwrite fun t ht q _ => (writeKvt_mdl t x q).trans ht
  · exact hwrite

/-- The model with a step of an entry that runs, whose traversal has not begun. -/
def ModelS.withStep (m : ModelS) (e : Nat) (p : StepRun) : ModelS :=
  { m with
    steps := lset m.steps e p, stepped := e :: setDel m.stepped e, fresh := setDel m.fresh e
    travs := if (lget m.travs e).isSome then m.travs.map fun v => if v.1 == e then (e, { v.2 with begun := false }) else v else lset m.travs e {} }

section
variable {s t : State} {e cx : Nat} {x : MdEntry} {a : Alloc} (he : e < 16) (hx : s.mdEntry? e = some x) (hserves : s.serves 0x64 = true)
  (hst : s.mdl.st = 2) (hcx : x.ctx = some cx) (hslots : s.mdl.formStep x ≠ []) (hno : lget s.mdl.steps e = none) (hup : s.entryUp x = true)
  (hturn : s.mdl.turn x = true)
  (halloc : s.poolAlloc s.mdl.part (x.cores.headD 0) ((s.mdl.formStep x).length * up64 x.resBytes +
    ((stepItems s.mdl (s.mdl.formStep x)).map fun d => up64 d.length).sum) .state (.model (e + 1)) = some t)
  (ha : t.dram.alloc.find? (·.use == .model (e + 1)) = some a)
include he hx hserves hst hcx hslots hno hup hturn halloc ha

theorem exec_genStepStart :
    let slots := s.mdl.formStep x
    let stride := up64 x.resBytes
    let base := 0x10000000000 + x.cores.headD 0 * 0x80000000 + a.off
    let v := t.stepLaid x e (a.off + slots.length * stride) (stepItems s.mdl slots)
    exec (.genStepStart e) s = next (x.cores.foldl (fun z c => z.postCtx cx c x.stepTk 1)
      ((v.areasWritten x.clus x.stepArea (v.mdl.stepArea x slots base (base + slots.length * stride) stride)).modMdl fun m =>
        m.withStep e { slots := slots, result := base, stride := stride })) := by
  simp only [exec, execGenStepStart]
  rw [guardUnit_entry he, hx]
  simp only [hcx]
  rw [if_neg (by simp [hserves, hst, hslots, hno, hup, hturn])]
  unfold stepItems at halloc
  rw [halloc]
  simp only [ha]
  rfl

/-- The step that is formed runs, its area stands in every cluster of the entry, and no sequence has changed. -/
theorem genStepStart_forms :
    let slots := s.mdl.formStep x
    let stride := up64 x.resBytes
    let base := 0x10000000000 + x.cores.headD 0 * 0x80000000 + a.off
    let area := s.mdl.stepArea x slots base (base + slots.length * stride) stride
    ∃ z, exec (.genStepStart e) s = next (x.cores.foldl (fun z c => z.postCtx cx c x.stepTk 1) z) ∧
      lget z.mdl.steps e = some { slots := slots, result := base, stride := stride } ∧ z.mdl.seqs = s.mdl.seqs ∧
      ∀ k ∈ x.clus, ∀ i, i < area.length → rdByte (z.clu k).spm (x.stepArea + i) = area.getD i 0 := by
  intro slots stride base area
  have hmdl : (t.stepLaid x e (a.off + (s.mdl.formStep x).length * up64 x.resBytes) (stepItems s.mdl (s.mdl.formStep x))).mdl = s.mdl :=
    (stepLaid_mdl t x e _ _).trans (PoolAct.poolAlloc halloc).mdl
  have hexec := exec_genStepStart he hx hserves hst hcx hslots hno hup hturn halloc ha
  simp only [hmdl] at hexec
  refine ⟨_, hexec, (lget_lset _ _ _ _).trans (if_pos rfl), ?_, fun k hk i hi => rdByte_areasWritten hk hi⟩
  exact (congrArg (·.mdl.seqs) (areasWritten_frame _ _ _ _) :).trans (congrArg ModelS.seqs hmdl)

end

/-! ### Sequences of a step (R377, R378) -/

/-- A sequence after a step in which it had a slot, with the result of that slot. -/
def SeqSt.stepped (q : SeqSt) (y : StepSlot) (res : Bytes) : SeqSt :=
  { q with filled := q.filled + y.toks.length, steps := q.steps + 1, gen := if y.kind = 0 ∨ y.kind = 2 then q.gen ++ [fld res 0 4] else q.gen }

/-- The answer of a finished sequence whose KV is not retained (Table 9.8). -/
def SeqSt.answer (q : SeqSt) (reason : Nat) : Bytes :=
  leBytes 4 q.gen.length ++ leBytes 4 reason ++ leBytes 4 0 ++ leBytes 4 q.reused ++ leBytes 4 q.rebuilt ++ zeros 4 ++ leBytes 8 q.steps ++ zeros 32 ++
    q.gen.flatMap (leBytes 4)

theorem take_answer (q : SeqSt) (reason : Nat) : (q.answer reason).take 8 = leBytes 4 q.gen.length ++ leBytes 4 reason := by
  simp only [SeqSt.answer, List.append_assoc]
  rw [← List.append_assoc]
  exact List.take_left' (by simp)

theorem drop_answer (q : SeqSt) (reason : Nat) : (q.answer reason).drop 64 = q.gen.flatMap (leBytes 4) :=
  List.drop_left' (by simp [zeros])

section
variable {s : State} {q : SeqSt}

theorem find_modSeq {id : Nat} {f : SeqSt → SeqSt} (hf : ∀ q, (f q).id = q.id) (h : s.mdl.seqs.find? (·.id == id) = some q) :
    (s.modSeq id f).mdl.seqs.find? (·.id == id) = some (f q) := by
  have hpred : (fun q : SeqSt => q.id == id) ∘ (fun q => if q.id == id then f q else q) = fun q => q.id == id := by
    funext q
    simp only [Function.comp_apply]
    split
    · rw [hf]
    · rfl
  have hid : q.id = id := by simpa using List.find?_some h
  rw [State.modSeq, modMdl_mdl, List.find?_map, hpred, h]
  simp [hid]

/-- The end of a use of retained KV changes the allocations of the DRAM and what is kept. -/
theorem keptRelease_frame (s : State) (r : CmdRef) : { s.keptRelease r with
    dram := { (s.keptRelease r).dram with alloc := s.dram.alloc }, mdl := { (s.keptRelease r).mdl with kept := s.mdl.kept } } = s := by
  unfold State.keptRelease
  split
  · rfl
  split
  · exact keptDrop_frame s _
  · rfl

/-- A sequence that leaves frees its KV, and lets go of the retained KV that it used. -/
theorem seqDrop_leaves (s : State) (q : SeqSt) : (s.seqDrop q).host = s.host ∧ (s.seqDrop q).mdl.steps = s.mdl.steps ∧
    (s.seqDrop q).mdl.items = s.mdl.items ∧ (s.seqDrop q).mdl.seqs = s.mdl.seqs.filter (·.id != q.id) := by
  unfold State.seqDrop
  extract_lets t
  have hframe (u : State) := keptRelease_frame u q.ref
  exact ⟨(congrArg State.host (hframe _) :), (congrArg (·.mdl.steps) (hframe _) :), (congrArg (·.mdl.items) (hframe _) :),
    (congrArg (·.mdl.seqs) (hframe _) :)⟩

theorem seqFinish_of_not_retained (h : q.retain = false) (s : State) (reason : Nat) :
    s.seqFinish q reason = (s.seqDrop q).cmdDone q.ref [] (some (q.answer reason)) := by
  simp only [State.seqFinish, h, Bool.false_eq_true, if_false]
  rfl

section
variable {e : MdEntry} {y : StepSlot} {res : Bytes} (hitem : y.item = none) (hq : s.mdl.seqs.find? (·.id == y.seq) = some q)
include hitem hq

theorem slotEnd_goes_on (hgo : (q.stepped y res).finished e.maxIn = none) : s.slotEnd e y res = s.modSeq y.seq fun q => q.stepped y res := by
  have hfind := find_modSeq (f := fun q => q.stepped y res) (fun _ => rfl) hq
  unfold SeqSt.stepped at hfind hgo
  simp only [State.slotEnd, hitem, hfind, hgo]
  rfl

theorem slotEnd_finishes {why : Nat} (hend : (q.stepped y res).finished e.maxIn = some why) (hgo : q.stopped = false) :
    s.slotEnd e y res = (s.modSeq y.seq fun q => q.stepped y res).seqFinish (q.stepped y res) why := by
  have hfind := find_modSeq (f := fun q => q.stepped y res) (fun _ => rfl) hq
  unfold SeqSt.stepped at hfind hend
  simp only [State.slotEnd, hitem, hfind, hend]
  exact if_neg (by simp [hgo])

end

end

/-! ### STEP_DONE (R377 to R381) -/

section
variable {s : State}

theorem stoppedLeave_of_none_stopped (h : ∀ q ∈ s.mdl.seqs, q.stopped = false) (e : Nat) : s.stoppedLeave e = s := by
  have hnone : (s.mdl.seqs.filter fun q => q.entry == e && q.stopped) = [] := List.filter_eq_nil_iff.mpr fun q hq => by simp [h q hq]
  rw [State.stoppedLeave, hnone]
  rfl

theorem itemAnswers_of_no_items (h : s.mdl.items = []) : s.itemAnswers = s := by
  unfold State.itemAnswers
  refine List.foldlRecOn _ _ (motive := fun t : State => t = s) rfl fun t ht c _ => ?_
  subst ht
  simp [h]

/-- The running step of an entry has ended: it is gone, and counted. -/
def State.stepEnded (s : State) (e : Nat) : State := (s.stepDrop e).modMdl fun m => { m with stepNo := mmod 0 m.stepNo e (· + 1) }

theorem lget_steps_stepEnded (s : State) (e : Nat) : lget (s.stepEnded e).mdl.steps e = none := (lget_ldel _ _ _).trans (if_pos rfl)

theorem mget_stepNo_stepEnded (s : State) (e : Nat) : mget 0 (s.stepEnded e).mdl.stepNo e = mget 0 s.mdl.stepNo e + 1 :=
  (mget_mmod_self 0 s.mdl.stepNo e (· + 1) :)

/-- A step of one slot ends: its slot ends, then stopped sequences leave and items are answered. -/
theorem exec_stepDone {t u : State} {c : Nat} {e : MdEntry} {p : StepRun} {y : StepSlot} {res : Bytes} (hmark : marked s c 0xFE04 0 e t)
    (hp : lget t.mdl.steps e.no = some p) (hslots : p.slots = [y]) (hread : t.readResults p p.slots 0 = (u, some [res])) :
    exec (.stepDone c) s = next ((((u.stepEnded e.no).slotEnd e y res).stoppedLeave e.no).itemAnswers) := by
  obtain ⟨hc, hentry, htake⟩ := hmark
  simp only [exec, execStepDone]
  rw [guardUnit_pos (coreOk_of_lt hc), hentry, htake]
  simp only [hp, hread]
  rw [hslots]
  rfl

/-- With no sequence stopped and no item at the entry points, the end of a step is the end of its slots. -/
theorem stepEnd_quiet (hitems : s.mdl.items = []) (hstopped : ∀ q ∈ s.mdl.seqs, q.stopped = false) (e : Nat) : (s.stoppedLeave e).itemAnswers = s := by
  rw [stoppedLeave_of_none_stopped hstopped, itemAnswers_of_no_items hitems]

theorem none_stopped_stepped (hstopped : ∀ q ∈ s.mdl.seqs, q.stopped = false) (e : Nat) (y : StepSlot) (res : Bytes) :
    ∀ a ∈ ((s.stepEnded e).modSeq y.seq fun q => q.stepped y res).mdl.seqs, a.stopped = false := by
  intro a ha
  obtain ⟨b, hb, rfl⟩ := List.mem_map.mp ha
  split
  · exact hstopped b hb
  · exact hstopped b hb

section
variable {e : MdEntry} {y : StepSlot} {q : SeqSt} {res : Bytes} (hitem : y.item = none) (hitems : s.mdl.items = [])
  (hstopped : ∀ q ∈ s.mdl.seqs, q.stopped = false) (hq : s.mdl.seqs.find? (·.id == y.seq) = some q)
include hitem hitems hstopped hq

theorem stepEnd_goes_on (hgo : (q.stepped y res).finished e.maxIn = none) :
    (((s.stepEnded e.no).slotEnd e y res).stoppedLeave e.no).itemAnswers = (s.stepEnded e.no).modSeq y.seq fun q => q.stepped y res := by
  have hslot := slotEnd_goes_on (s := s.stepEnded e.no) hitem hq hgo
  rw [hslot]
  exact stepEnd_quiet (s := (s.stepEnded e.no).modSeq y.seq fun q => q.stepped y res) hitems (none_stopped_stepped hstopped e.no y res) e.no

theorem stepEnd_finishes {why : Nat} (hend : (q.stepped y res).finished e.maxIn = some why) (hfree : q.retain = false) :
    (((s.stepEnded e.no).slotEnd e y res).stoppedLeave e.no).itemAnswers =
      (((s.stepEnded e.no).modSeq y.seq fun q => q.stepped y res).seqDrop (q.stepped y res)).cmdDone q.ref [] (some ((q.stepped y res).answer why)) := by
  have hslot := slotEnd_finishes (s := s.stepEnded e.no) hitem hq hend (hstopped q (List.mem_of_find?_eq_some hq))
  obtain ⟨-, -, hdropItems, hdropSeqs⟩ := seqDrop_leaves ((s.stepEnded e.no).modSeq y.seq fun q => q.stepped y res) (q.stepped y res)
  rw [hslot, seqFinish_of_not_retained (q := q.stepped y res) hfree]
  refine stepEnd_quiet (s := State.cmdDone _ q.ref [] _) (hdropItems.trans hitems) (fun a ha => ?_) e.no
  exact none_stopped_stepped hstopped e.no y res a (List.mem_filter.mp (hdropSeqs ▸ ha)).1

end

/-- A sequence that a step has finished is answered, and is not among the sequences any more. -/
theorem finished_leaves {q : SeqSt} (hkept : kept s q.ref) (y : StepSlot) (res : Bytes) (why : Nat) {e : Nat} :
    let z := (((s.stepEnded e).modSeq y.seq fun q => q.stepped y res).seqDrop (q.stepped y res)).cmdDone q.ref [] (some ((q.stepped y res).answer why))
    lget z.mdl.steps e = lget (s.stepEnded e).mdl.steps e ∧ answered z q.ref ((q.stepped y res).answer why) ∧ ∀ a ∈ z.mdl.seqs, a.id ≠ q.id := by
  obtain ⟨hhost, hsteps, -, hseqs⟩ := seqDrop_leaves ((s.stepEnded e).modSeq y.seq fun q => q.stepped y res) (q.stepped y res)
  refine ⟨congrArg (lget · e) hsteps, cmdDone_answered (kept_congr hhost hkept) _ _, fun a ha => ?_⟩
  have hne := (List.mem_filter.mp (hseqs ▸ ha)).2
  simpa [SeqSt.stepped] using hne

end

end Sys2Proof.Machine

/-! PROOF. Legs and runs of the resident model (09 R369 to R373, R384): what a fetch leaves of a traversal, what each route mark makes of it, and a run that is
resident; then the requests' statement. -/

namespace Sys2Proof.Machine

open Sys2Proof.Claims

/-! ### Fetching legs (R370, R371) -/

theorem pinRun_frame (s : State) (r : Nat) : { s.pinRun r with dram := s.dram } = s := rfl

theorem unpinRun_frame (s : State) (r : Nat) : { s.unpinRun r with dram := s.dram } = s := by
  unfold State.unpinRun
  split <;> rfl

theorem foldl_dram_frame {α : Type} {f : State → α → State} (hf : ∀ s a, { f s a with dram := s.dram } = s) (l : List α) (s : State) :
    { l.foldl f s with dram := s.dram } = s :=
  List.foldlRecOn _ _ (motive := fun t : State => { t with dram := s.dram } = s) rfl fun t ht a _ =>
    (congrArg (fun t : State => { t with dram := s.dram }) (hf t a)).trans ht

/-- A leg as it is fetched: its entries are due, and the cores of their channels hold it. -/
def ModelS.legFetch (m : ModelS) (e leg : Nat) : LegFetch :=
  { leg := leg, due := (((m.sheetOf e).ents.zipIdx).filter fun x => x.1.leg == leg).map (·.2), holders := m.legCores e leg }

/-- The state in which the traversal `v` of an entry has one leg more. -/
def State.withLeg (s : State) (e : Nat) (v : Trav) (leg : Nat) : State :=
  s.modMdl fun m => { m with travs := lset m.travs e { v with legs := v.legs ++ [s.mdl.legFetch e leg] } }

theorem lget_withLeg (s : State) (e : Nat) (v : Trav) (leg : Nat) :
    lget (s.withLeg e v leg).mdl.travs e = some { v with legs := v.legs ++ [s.mdl.legFetch e leg] } := (lget_lset _ _ _ _).trans (if_pos rfl)

theorem any_legs_withLeg (m : ModelS) (e : Nat) (v : Trav) (leg : Nat) : (v.legs ++ [m.legFetch e leg]).any (·.leg == leg) = true := by
  simp [ModelS.legFetch]

theorem due_legFetch_eq_nil_iff (m : ModelS) (e leg : Nat) : (m.legFetch e leg).due = [] ↔ (m.sheetOf e).ents.any (·.leg == leg) = false := by
  have hmap : (m.sheetOf e).ents.any (·.leg == leg) = (m.sheetOf e).ents.zipIdx.any fun x => x.1.leg == leg := by
    conv_lhs => rw [← List.zipIdx_map_fst 0 (m.sheetOf e).ents]
    rw [List.any_map]
    rfl
  rw [hmap, List.any_eq_false, ModelS.legFetch, List.map_eq_nil_iff, List.filter_eq_nil_iff]

theorem fetchLeg_of_none {s : State} {e : Nat} (h : lget s.mdl.travs e = none) (leg : Nat) : s.fetchLeg e leg = s := by
  unfold State.fetchLeg
  rw [h]

/-- A fetch does nothing for a leg that the traversal has, or that has no entries; else the traversal has the leg, and resident runs are pinned. -/
theorem fetchLeg_cases {s : State} {e : Nat} {v : Trav} (hv : lget s.mdl.travs e = some v) (leg : Nat) :
    (s.fetchLeg e leg = s ∧ (v.legs.any (·.leg == leg) = true ∨ (s.mdl.sheetOf e).ents.any (·.leg == leg) = false)) ∨
      ∃ rs : List Nat, s.fetchLeg e leg = rs.foldl State.pinRun (s.withLeg e v leg) := by
  unfold State.fetchLeg
  rw [hv]
  dsimp only
  split
  · next hheld => exact .inl ⟨rfl, .inl hheld⟩
  split
  · next hdue => exact .inl ⟨rfl, .inr ((due_legFetch_eq_nil_iff s.mdl e leg).mp hdue)⟩
  · exact .inr ⟨_, rfl⟩

/-- A traversal that has every leg of another, and has begun where that one has. -/
def Trav.extends (w v : Trav) : Prop := w.begun = v.begun ∧ ∀ l, v.legs.any (·.leg == l) = true → w.legs.any (·.leg == l) = true

/-- Between two states a traversal of entry `e` has only gained legs; of all else only DRAM, the other traversals and the count of waits may differ. -/
structure LegAct (e : Nat) (s t : State) : Prop where
  frame : { t with dram := s.dram, mdl := { t.mdl with travs := s.mdl.travs, waitCnt := s.mdl.waitCnt } } = s
  trav : ∀ v, lget s.mdl.travs e = some v → ∃ w, lget t.mdl.travs e = some w ∧ w.extends v

namespace LegAct

variable {e : Nat} {s t u : State}

theorem of_travs (h : { t with dram := s.dram, mdl := { t.mdl with travs := s.mdl.travs, waitCnt := s.mdl.waitCnt } } = s) (htravs : t.mdl.travs = s.mdl.travs) :
    LegAct e s t := ⟨h, fun v hv => ⟨v, by rw [htravs]; exact hv, rfl, fun _ => id⟩⟩

theorem refl (s : State) : LegAct e s s := of_travs rfl rfl

theorem trans (h : LegAct e s t) (h' : LegAct e t u) : LegAct e s u := by
  refine ⟨(congrArg (fun t : State => { t with dram := s.dram, mdl := { t.mdl with travs := s.mdl.travs, waitCnt := s.mdl.waitCnt } }) h'.frame).trans h.frame,
    fun v hv => ?_⟩
  obtain ⟨w, hw, hbegun, hlegs⟩ := h.trav v hv
  obtain ⟨x, hx, hbegun', hlegs'⟩ := h'.trav w hw
  exact ⟨x, hx, hbegun'.trans hbegun, fun l hl => hlegs' l (hlegs l hl)⟩

theorem sched (h : LegAct e s t) : t.sched = s.sched := (congrArg State.sched h.frame :)

theorem sheetOf (h : LegAct e s t) (j : Nat) : t.mdl.sheetOf j = s.mdl.sheetOf j := (congrArg (fun t : State => t.mdl.sheetOf j) h.frame :)

theorem demandLeg (h : LegAct e s t) (j l : Nat) : t.mdl.demandLeg j l = s.mdl.demandLeg j l := (congrArg (fun t : State => t.mdl.demandLeg j l) h.frame :)

theorem foldl {α : Type} {f : State → α → State} (hf : ∀ s a, LegAct e s (f s a)) (l : List α) (s : State) : LegAct e s (l.foldl f s) :=
  List.foldlRecOn _ _ (motive := LegAct e s) (refl s) fun t ht a _ => ht.trans (hf t a)

theorem fetchLeg (s : State) (e leg : Nat) : LegAct e s (s.fetchLeg e leg) := by
  cases hv : lget s.mdl.travs e with
  | none => rw [fetchLeg_of_none hv]; exact refl s
  | some v =>
    rcases fetchLeg_cases hv leg with ⟨hsame, -⟩ | ⟨rs, hnew⟩
    · rw [hsame]; exact refl s
    · rw [hnew]
      have ht : LegAct e s (s.withLeg e v leg) := ⟨rfl, fun v' hv' => ⟨_, lget_withLeg s e v leg, by
        obtain rfl : v = v' := Option.some.inj (hv.symm.trans hv')
        exact ⟨rfl, fun k hk => by simp [hk]⟩⟩⟩
      exact ht.trans (foldl (f := State.pinRun) (fun s r => of_travs rfl rfl) rs _)

end LegAct

/-- A fetch of a leg that has entries leaves it among the legs of the traversal. -/
theorem fetchLeg_fetches {s : State} {e leg : Nat} {v : Trav} (hv : lget s.mdl.travs e = some v) (hleg : (s.mdl.sheetOf e).ents.any (·.leg == leg) = true) :
    ∃ w, lget (s.fetchLeg e leg).mdl.travs e = some w ∧ w.legs.any (·.leg == leg) = true := by
  rcases fetchLeg_cases hv leg with ⟨hsame, hheld | hnone⟩ | ⟨rs, hnew⟩
  · exact ⟨v, by rw [hsame]; exact hv, hheld⟩
  · rw [hnone] at hleg
    cases hleg
  · refine ⟨{ v with legs := v.legs ++ [s.mdl.legFetch e leg] }, ?_, any_legs_withLeg s.mdl e v leg⟩
    rw [hnew, ← lget_withLeg s e v leg]
    exact (congrArg (fun t : State => lget t.mdl.travs e) (foldl_dram_frame pinRun_frame rs (s.withLeg e v leg)) :)

/-- So does a fetch of several legs, for each of them. -/
theorem foldl_fetchLeg_fetches {s : State} {e leg : Nat} {v : Trav} {ls : List Nat} (hl : leg ∈ ls) (hv : lget s.mdl.travs e = some v)
    (hleg : (s.mdl.sheetOf e).ents.any (·.leg == leg) = true) :
    ∃ w, lget (ls.foldl (fun t l => t.fetchLeg e l) s).mdl.travs e = some w ∧ w.legs.any (·.leg == leg) = true := by
  induction ls generalizing s v with
  | nil => cases hl
  | cons l ls ih =>
    rw [List.foldl_cons]
    rcases List.mem_cons.mp hl with rfl | hl
    · obtain ⟨w, hw, hheld⟩ := fetchLeg_fetches hv hleg
      obtain ⟨x, hx, -, hlegs⟩ := (LegAct.foldl (fun s l => .fetchLeg s e l) ls (s.fetchLeg e leg)).trav w hw
      exact ⟨x, hx, hlegs leg hheld⟩
    · have hact := LegAct.fetchLeg s e l
      obtain ⟨w, hw, -⟩ := hact.trav v hv
      exact ih hl hw (by rw [hact.sheetOf]; exact hleg)

/-! ### Route marks (R369, R370, R372) -/

section
variable {s t : State} {c leg : Nat} {e : MdEntry} {v : Trav}

/-- What BEGIN does about its own leg: one that has not posted counts as a wait, and at the start of a traversal a stream leg is fetched. -/
def State.begunHere (s : State) (e leg : Nat) (v : Trav) : State :=
  let t := if ! v.legs.any fun l => l.leg == leg && l.due == [] then s.modMdl fun m => { m with waitCnt := satBv m.waitCnt 1 } else s
  if v.begun || t.mdl.demandLeg e leg then t else t.fetchLeg e leg

/-- The stream legs ahead of a leg, as far as LEAD. -/
def State.legsAhead (s : State) (e leg n : Nat) : List Nat :=
  ((List.range s.leadOf).map fun i => (leg + 1 + i) % n).filter fun l => ! s.mdl.demandLeg e l

theorem mem_legsAhead {s : State} {e leg n : Nat} (h : s.mdl.demandLeg e ((leg + 1) % n) = false) : (leg + 1) % n ∈ s.legsAhead e leg n :=
  List.mem_filter.mpr ⟨List.mem_map.mpr ⟨0, List.mem_range.mpr (Nat.lt_of_lt_of_le Nat.zero_lt_one (Nat.le_max_left _ _)), rfl⟩, by rw [h]; rfl⟩

/-- What BEGIN fetches: its own leg at the start of a traversal, and the stream legs ahead. -/
def State.legsBegun (s : State) (e leg : Nat) (v : Trav) : State :=
  ((s.begunHere e leg v).legsAhead e leg (max 1 (s.mdl.sheetOf e).legs)).foldl (fun t l => t.fetchLeg e l) (s.begunHere e leg v)

theorem exec_begin (hmark : marked s c 0xFE01 leg e t) (hv : lget t.mdl.travs e.no = some v) : exec (.begin c leg) s =
    next ((t.legsBegun e.no leg v).modMdl fun m => { m with travs := m.travs.map fun w => if w.1 == e.no then (w.1, { w.2 with begun := true }) else w }) := by
  obtain ⟨hc, hentry, htake⟩ := hmark
  simp only [exec, execBegin]
  rw [guardUnit_pos (coreOk_of_lt hc), hentry, htake]
  simp only [hv]
  rfl

theorem exec_demand (hmark : marked s c 0xFE02 leg e t) : exec (.demand c leg) s = next (t.fetchLeg e.no leg) := by
  obtain ⟨hc, hentry, htake⟩ := hmark
  simp only [exec, execDemand]
  rw [guardUnit_pos (coreOk_of_lt hc), hentry, htake]

/-- The legs of a traversal once a core has finished with one of them. -/
def Trav.released (v : Trav) (c leg : Nat) : List LegFetch := v.legs.map fun l => if l.leg == leg then { l with holders := setDel l.holders c } else l

theorem exec_release (hmark : marked s c 0xFE03 leg e t) (hv : lget t.mdl.travs e.no = some v) : ∃ rs : List Nat, exec (.release c leg) s =
    next (rs.foldl State.unpinRun (t.modMdl fun m => { m with
      travs := lset m.travs e.no { v with legs := (v.released c leg).filter fun l => l.holders != [] } })) := by
  obtain ⟨hc, hentry, htake⟩ := hmark
  simp only [exec, execRelease]
  rw [guardUnit_pos (coreOk_of_lt hc), hentry, htake]
  simp only [hv]
  exact ⟨_, rfl⟩

theorem holders_of_mem_released {l : LegFetch} (h : l ∈ (v.released c leg).filter fun l => l.holders != []) :
    l.holders ≠ [] ∧ (l.leg = leg → c ∉ l.holders) := by
  obtain ⟨hmem, hheld⟩ := List.mem_filter.mp h
  refine ⟨by simpa using hheld, fun hleg => ?_⟩
  obtain ⟨k, -, rfl⟩ := List.mem_map.mp hmem
  by_cases hk : k.leg = leg
  · simp [hk, setDel]
  · simp [hk] at hleg

theorem begunHere_legAct (s : State) (e leg : Nat) (v : Trav) : LegAct e s (s.begunHere e leg v) := by
  unfold State.begunHere
  extract_lets t
  have ht : LegAct e s t := by
    unfold t
    split
    · exact .of_travs rfl rfl
    · exact .refl s
  refine ht.trans ?_
  split
  · exact .refl t
  · exact .fetchLeg t e leg

/-- BEGIN leaves the legs that a traversal has. -/
theorem legsBegun_legAct (s : State) (e leg : Nat) (v : Trav) : LegAct e s (s.legsBegun e leg v) :=
  (begunHere_legAct s e leg v).trans (.foldl (fun s l => .fetchLeg s e l) _ _)

/-- BEGIN fetches the next leg where it is a stream leg with entries. -/
theorem legsBegun_fetches {e : Nat} (hv : lget s.mdl.travs e = some v) (hstream : s.mdl.demandLeg e ((leg + 1) % max 1 (s.mdl.sheetOf e).legs) = false)
    (hents : (s.mdl.sheetOf e).ents.any (·.leg == (leg + 1) % max 1 (s.mdl.sheetOf e).legs) = true) :
    ∃ w, lget (s.legsBegun e leg v).mdl.travs e = some w ∧ w.legs.any (·.leg == (leg + 1) % max 1 (s.mdl.sheetOf e).legs) = true := by
  have hact := begunHere_legAct s e leg v
  obtain ⟨w, hw, -⟩ := hact.trav v hv
  exact foldl_fetchLeg_fetches (mem_legsAhead (by rw [hact.demandLeg]; exact hstream)) hw (by rw [hact.sheetOf]; exact hents)

end

/-! ### RUN_FETCH_DONE and KV_REBUILD (R371, R384) -/

section
variable {s : State} {e : Nat}

theorem find_pinRun {r : Nat} {a : Alloc} (h : s.dram.alloc.find? (·.use == .run r) = some a) :
    (s.pinRun r).dram.alloc.find? (·.use == .run r) = some { a with cls := .pinned, touch := s.sys.now } := by
  have hpred : (fun a : Alloc => a.use == .run r) ∘ (fun a => if a.use == PoolUse.run r then { a with cls := .pinned, touch := s.sys.now } else a) =
      fun a => a.use == .run r := by
    funext a
    simp only [Function.comp_apply]
    split <;> rfl
  have huse : a.use = .run r := by simpa using List.find?_some h
  rw [State.pinRun, modDram_dram, List.find?_map, hpred, h]
  simp [huse]

theorem cls_of_mem_pinRun {r : Nat} {b : Alloc} (h : b ∈ (s.pinRun r).dram.alloc) (huse : b.use = .run r) : b.cls = .pinned := by
  obtain ⟨a, -, rfl⟩ := List.mem_map.mp h
  split
  · rfl
  · next hne =>
    rw [if_neg hne] at huse
    simp [huse] at hne

/-- The legs of a traversal once entry `i` of a leg has posted. -/
def Trav.posted (v : Trav) (leg i : Nat) : List LegFetch := v.legs.map fun l => if l.leg == leg then { l with due := setDel l.due i } else l

theorem notMem_due_posted {v : Trav} {leg i : Nat} {l : LegFetch} (h : l ∈ v.posted leg i) (hleg : l.leg = leg) : i ∉ l.due := by
  obtain ⟨k, -, rfl⟩ := List.mem_map.mp h
  by_cases hk : k.leg = leg
  · simp [hk, setDel]
  · simp [hk] at hleg

theorem exec_runFetchDone {leg i cx : Nat} {x : MdEntry} {v : Trav} {ent : RouteEnt} {rn : Run} {a : Alloc} (he : e < 16) (hx : s.mdEntry? e = some x)
    (hv : lget s.mdl.travs e = some v) (hent : (s.mdl.sheetOf e).ents[i]? = some ent) (hserves : s.serves 0x64 = true) (hleg : ent.leg = leg)
    (hdue : (v.legs.any fun l => l.leg == leg && l.due.contains i) = true) (hfirst : s.mdl.legFirst e v leg = true) (hrun : s.mdl.runs[ent.run]? = some rn)
    (hcx : x.ctx = some cx) (ha : s.dram.alloc.find? (·.use == .run ent.run) = some a) :
    exec (.runFetchDone e leg i) s = next ((((s.pinRun ent.run).modMdl fun m => { m with
      travs := lset m.travs e { v with legs := v.posted leg i } }).ctxPoke cx rn.chan ent.slot (leBytes 8 (0x10000000 + a.off))).postCtx cx rn.chan ent.tk 1) := by
  have hany : (s.dram.alloc.any fun b => b.use == .run ent.run) = true :=
    List.any_eq_true.mpr ⟨a, List.mem_of_find?_eq_some ha, by simpa using List.find?_some ha⟩
  simp only [exec, execRunFetchDone]
  rw [guardUnit_entry he, hx, hv, hent]
  simp only
  rw [if_neg (by rw [hserves, hleg, hdue, hfirst]; simp), hrun, hcx]
  simp only [hany, if_true, find_pinRun ha]
  rfl

theorem exec_kvRebuild {slot : Nat} {q : SeqSt} (he : e < 16) (hq : (s.mdl.seqs.find? fun q => q.entry == e && q.slot == slot && q.lost) = some q)
    (hserves : s.serves 0x64 = true) : exec (.kvRebuild e slot) s = next ((s.modSeq q.id fun x => { x with
      lost := false, filled := 0, rebuilt := x.rebuilt + 1 }).modMdl fun m => { m with rebuildCnt := satBv m.rebuildCnt 1 }) := by
  simp only [exec, execKvRebuild]
  rw [guardUnit_entry he, hq]
  exact if_neg (by simp [hserves])

end

/-! ### What each mark leaves of its traversal -/

section
variable {s t : State} {c leg : Nat} {e : MdEntry} {v : Trav} (hv : lget t.mdl.travs e.no = some v)
include hv

theorem begin_leaves (hmark : marked s c 0xFE01 leg e t) : ∃ z w, exec (.begin c leg) s = next z ∧ lget z.mdl.travs e.no = some w ∧ w.begun = true ∧
    z.sched = t.sched ∧ (t.mdl.demandLeg e.no ((leg + 1) % max 1 (t.mdl.sheetOf e.no).legs) = false →
      (t.mdl.sheetOf e.no).ents.any (·.leg == (leg + 1) % max 1 (t.mdl.sheetOf e.no).legs) = true →
      w.legs.any (·.leg == (leg + 1) % max 1 (t.mdl.sheetOf e.no).legs) = true) := by
  have hact := legsBegun_legAct t e.no leg v
  obtain ⟨w, hw, -⟩ := hact.trav v hv
  have hbegun := lget_map (t.legsBegun e.no leg v).mdl.travs e.no e.no fun v : Trav => { v with begun := true }
  rw [if_pos rfl, hw] at hbegun
  refine ⟨_, { w with begun := true }, exec_begin hmark hv, hbegun, rfl, hact.sched, fun hstream hents => ?_⟩
  obtain ⟨w', hw', hheld⟩ := legsBegun_fetches hv hstream hents
  rw [hw] at hw'
  exact Option.some.inj hw' ▸ hheld

theorem demand_leaves (hmark : marked s c 0xFE02 leg e t) : ∃ z w, exec (.demand c leg) s = next z ∧ lget z.mdl.travs e.no = some w ∧ w.begun = v.begun ∧
    z.sched = t.sched ∧ ((t.mdl.sheetOf e.no).ents.any (·.leg == leg) = true → w.legs.any (·.leg == leg) = true) := by
  have hact := LegAct.fetchLeg t e.no leg
  obtain ⟨w, hw, hbegun, -⟩ := hact.trav v hv
  refine ⟨_, w, exec_demand hmark, hw, hbegun, hact.sched, fun hents => ?_⟩
  obtain ⟨w', hw', hheld⟩ := fetchLeg_fetches hv hents
  rw [hw] at hw'
  exact Option.some.inj hw' ▸ hheld

theorem release_leaves (hmark : marked s c 0xFE03 leg e t) : ∃ z w, exec (.release c leg) s = next z ∧ lget z.mdl.travs e.no = some w ∧ w.begun = v.begun ∧
    z.sched = t.sched ∧ ∀ l ∈ w.legs, l.holders ≠ [] ∧ (l.leg = leg → c ∉ l.holders) := by
  obtain ⟨rs, hexec⟩ := exec_release hmark hv
  have hframe (u : State) := foldl_dram_frame unpinRun_frame rs u
  refine ⟨_, { v with legs := (v.released c leg).filter fun l => l.holders != [] }, hexec, ?_, rfl, (congrArg State.sched (hframe _) :),
    fun l hl => holders_of_mem_released hl⟩
  exact (congrArg (fun u : State => lget u.mdl.travs e.no) (hframe _) :).trans ((lget_lset _ _ _ _).trans (if_pos rfl))

end

/-! ### The statement -/

/-- Settles O52: an entry, a step and each route mark are one change of the model, of the clusters' step areas and of the DRAM's allocations. -/
theorem modelRequests : Obligations.ModelRequests := by
  refine ⟨fun s r c => ⟨exec_mdGen, fun h => ⟨_, exec_mdEncode h, giveItems_running h⟩, fun h => ⟨_, exec_mdRank h, giveItems_running h⟩⟩,
    fun s e x he hx hserves hst => ⟨exec_sequenceEntry_none he hx hserves hst, ?enters, ?forms⟩,
    fun s t u c e p y q res hmark hp hslots hitem hread hitems hstopped hq => ?stepDone,
    fun s t c leg e v hv => ⟨begin_leaves hv, demand_leaves hv, release_leaves hv⟩,
    fun s e leg i cx x v ent rn a he hx hv hent hserves hleg hdue hfirst hrun hcx ha => ?run,
    fun s e slot q he hq hserves => ⟨_, exec_kvRebuild he hq hserves, rfl, rfl, rfl⟩⟩
  case enters =>
    intro d u hwait hpart hleft henter
    obtain ⟨q, hseqs, hid, href, hentry, hgen, hprompt⟩ := seqEnter_seqs henter
    exact ⟨exec_sequenceEntry_one he hx hserves hst hwait hpart hleft henter, q, hseqs, hid, href, hentry.trans (no_of_mdEntry hx), hgen, hprompt⟩
  case forms =>
    intro cx t a hcx hslots hno hup hturn slots stride g halloc ha base area
    exact genStepStart_forms he hx hserves hst hcx hslots hno hup hturn halloc ha
  case stepDone =>
    intro q'
    have hexec := exec_stepDone hmark hp hslots hread
    refine ⟨fun hgo => ?_, fun why hend hfree hkept => ?_⟩
    · rw [stepEnd_goes_on hitem hitems hstopped hq hgo] at hexec
      exact ⟨_, hexec, lget_steps_stepEnded u e.no, find_modSeq (s := u.stepEnded e.no) (fun _ => rfl) hq, mget_stepNo_stepEnded u e.no, rfl⟩
    · rw [stepEnd_finishes hitem hitems hstopped hq hend hfree] at hexec
      obtain ⟨hsteps, hans, hgone⟩ := finished_leaves hkept y res why
      exact ⟨_, _, hexec, hsteps.trans (lget_steps_stepEnded u e.no), hans, take_answer _ _, drop_answer _ _, hgone⟩
  case run =>
    exact ⟨_, _, exec_runFetchDone he hx hv hent hserves hleg hdue hfirst hrun hcx ha, (lget_lset _ _ _ _).trans (if_pos rfl),
      fun l hl hlleg => notMem_due_posted hl hlleg, fun b hb huse => cls_of_mem_pinRun hb huse, rfl⟩

end Sys2Proof.Machine

/-! PROOF. The fabric manager's commands: the partition map, the power owner and the shares (10 R389, R390; 11 R430, R431). -/

namespace Sys2Proof.Machine

open Sys2Proof.Claims

/-! ### SET_PARTITION_MAP -/

/-- The clusters' partitions that a map gives, as they are stored: 16 stands for none (R389). -/
def partitionMap (map : List (Option Nat)) : NMap Nat := (List.range 80).foldl (fun m k => mset 0 m k ((map.getD k none).getD 16)) []

/-- Whether a map is refused whole (R390). -/
def State.refusesMap (s : State) (map : List (Option Nat)) : Bool :=
  map.length != 80 || map.any (fun x => decide (16 ≤ x.getD 0)) ||
    (List.range 80).any fun k => min 16 (mget 0 s.sched.map k) != (map.getD k none).getD 16 && decide (mget 0 s.sched.map k < 16) && s.cluHeld k

theorem mget_foldl_range (f : Nat → Nat) {n k : Nat} (hk : k < n) : mget 0 ((List.range n).foldl (fun m k => mset 0 m k (f k)) []) k = f k := by
  induction n with
  | zero => omega
  | succ n ih =>
    rw [List.range_succ, List.foldl_append, List.foldl_cons, List.foldl_nil, mget_mset]
    split
    · next h => rw [h]
    · next h => exact ih (by omega)

theorem ownerClu_of_lt {s : State} {k : Nat} (hk : k < 80) : s.ownerClu k = if mget 0 s.sched.map k < 16 then some (mget 0 s.sched.map k) else none :=
  if_pos hk

theorem getD_lt {map : List (Option Nat)} (hpart : ∀ x p, x ∈ map → x = some p → p < 16) {k p : Nat} (h : map.getD k none = some p) : p < 16 := by
  obtain hk | hk := Nat.lt_or_ge k map.length
  · rw [List.getD_eq_getElem _ _ hk] at h
    exact hpart _ p (List.getElem_mem hk) h
  · rw [List.getD_eq_default _ _ hk] at h
    cases h

/-- A map of 80 partitions is refused exactly where it takes a held cluster from its partition. -/
theorem refusesMap_iff {s : State} {map : List (Option Nat)} (hlen : map.length = 80) (hpart : ∀ x p, x ∈ map → x = some p → p < 16) :
    s.refusesMap map = true ↔ ∃ k < 80, s.cluHeld k = true ∧ s.ownerClu k ≠ none ∧ s.ownerClu k ≠ map.getD k none := by
  have hnums : map.any (fun x => decide (16 ≤ x.getD 0)) = false := by
    refine List.any_eq_false.mpr fun x hx => ?_
    cases x with
    | none => simp
    | some p => simpa using hpart _ p hx rfl
  have htakes {k : Nat} (hk : k < 80) : (min 16 (mget 0 s.sched.map k) ≠ (map.getD k none).getD 16 ∧ mget 0 s.sched.map k < 16) ↔
      (s.ownerClu k ≠ none ∧ s.ownerClu k ≠ map.getD k none) := by
    rw [ownerClu_of_lt hk]
    by_cases hlt : mget 0 s.sched.map k < 16
    · rw [if_pos hlt, Nat.min_eq_right (Nat.le_of_lt hlt)]
      cases hx : map.getD k none with
      | none => simp [hlt]; omega
      | some p => simp [hlt]
    · simp [hlt]
  rw [State.refusesMap, hlen, hnums]
  simp only [bne_self_eq_false, Bool.false_or, List.any_eq_true, List.mem_range, Bool.and_eq_true, bne_iff_ne, decide_eq_true_eq]
  refine exists_congr fun k => and_congr_right fun hk => ?_
  rw [htakes hk, and_comm]

/-- The partition map, and the stored map with it, set to these partitions. -/
def State.takeMap (s : State) (map : List (Option Nat)) : State :=
  ({ s.modSched fun d => { d with map := partitionMap map } with stored := { s.stored with map := partitionMap map } }).modHost fun h =>
    { h with refused := false }

theorem exec_setPartitionMap {s : State} {map : List (Option Nat)} (hup : s.fmUp = true) (hdead : s.dram.dead = []) :
    exec (.setPartitionMap map) s = next (if s.refusesMap map then s.modHost fun h => { h with refused := true } else s.takeMap map) := by
  simp only [exec, execSetPartitionMap, hup, hdead, List.contains_nil, Bool.not_true, Bool.false_eq_true, if_false]
  rfl

theorem ownerClu_takeMap {s : State} {map : List (Option Nat)} (hpart : ∀ x p, x ∈ map → x = some p → p < 16) {k : Nat} (hk : k < 80) :
    (s.takeMap map).ownerClu k = map.getD k none := by
  have hget : mget 0 (s.takeMap map).sched.map k = (map.getD k none).getD 16 := mget_foldl_range _ hk
  rw [ownerClu_of_lt hk, hget]
  cases hx : map.getD k none with
  | none => rfl
  | some p => exact if_pos (getD_lt hpart hx)

/-! ### SET_LD_ALLOCATIONS -/

/-- Whether share sizes are refused whole (11 R431). -/
def State.refusesShares (s : State) (sh : List Nat) : Bool :=
  sh.length != 16 || sh.any (· % 0x10000000 != 0) || decide (s.host.winSize * 0x1000000000 < sh.sum) ||
    (List.range 16).any fun p => decide (sh.getD p 0 < s.shareSize p) && ! (s.qpsOf p).isEmpty

/-- The shares of the sixteen logical devices set to these sizes; the bytes past the end of a share go. -/
def State.allot (s : State) (sh : List Nat) : State :=
  ({ s with stored := { s.stored with shares := sh.map (· / 0x10000000) } }).modHost fun h => { h with
    shares := sh.map (· / 0x10000000), refused := false
    share := h.share.filter fun e => decide (e.1 % 2 ^ 38 < sh.getD (e.1 / 2 ^ 38) 0) }

theorem exec_setLdAllocations {s : State} {sh : List Nat} (hup : s.fmUp = true) :
    exec (.setLdAllocations sh) s = next (if s.refusesShares sh then s.modHost fun h => { h with refused := true } else s.allot sh) := by
  simp only [exec, execSetLdAllocations, hup, Bool.not_true, Bool.false_eq_true, if_false]
  rfl

theorem refusesShares_iff {s : State} {sh : List Nat} (hlen : sh.length = 16) : s.refusesShares sh = true ↔
    (∃ x ∈ sh, x % 0x10000000 ≠ 0) ∨ s.host.winSize * 0x1000000000 < sh.sum ∨ ∃ p < 16, sh.getD p 0 < s.shareSize p ∧ s.qpsOf p ≠ [] := by
  simp [State.refusesShares, hlen, or_assoc]

/-- A size in whole units of 256 MiB is the share's size. -/
theorem shareSize_allot {s : State} {sh : List Nat} (hunits : ∀ x ∈ sh, x % 0x10000000 = 0) (p : Nat) : (s.allot sh).shareSize p = sh.getD p 0 := by
  change (sh.map (· / 0x10000000)).getD p 0 * 0x10000000 = sh.getD p 0
  obtain hp | hp := Nat.lt_or_ge p sh.length
  · rw [List.getD_eq_getElem _ _ (by rwa [List.length_map]), List.getD_eq_getElem _ _ hp, List.getElem_map]
    exact Nat.div_mul_cancel (Nat.dvd_of_mod_eq_zero (hunits _ (List.getElem_mem hp)))
  · rw [List.getD_eq_default _ _ (by rwa [List.length_map]), List.getD_eq_default _ _ hp]

/-! ### The statement -/

/-- Settles O32: each command is either refused whole or one change of what it sets. -/
theorem fabricManager : Obligations.FabricManager := by
  refine ⟨fun s map hup hdead hlen hpart => ⟨fun hkeeps => ?taken, fun k hk hheld howned htaken => ?refused⟩, fun s p hp hup => ?owner,
    fun s sh hup hlen => ⟨fun hunits hsum hshrink => ?allotted, fun hbad => ?allotRefused⟩, fun s hup => ?getMap⟩
  case taken =>
    have hfits : ¬ s.refusesMap map = true := fun h => by
      obtain ⟨k, hk, hheld, howned, htaken⟩ := (refusesMap_iff hlen hpart).mp h
      obtain hfree | hnone | hsame := hkeeps k hk
      · rw [hfree] at hheld; cases hheld
      · exact howned hnone
      · exact htaken hsame
    exact ⟨_, by rw [exec_setPartitionMap hup hdead, if_neg hfits], fun k hk => ownerClu_takeMap hpart hk, rfl, rfl, rfl, rfl⟩
  case refused =>
    rw [exec_setPartitionMap hup hdead, if_pos ((refusesMap_iff hlen hpart).mpr ⟨k, hk, hheld, howned, htaken⟩)]
    rfl
  case owner =>
    exact (guardUnit_pos (partOk_of_lt hp)).trans (congrArg next (if_pos hup))
  case allotted =>
    have hfits : ¬ s.refusesShares sh = true := fun h => by
      obtain ⟨x, hx, hodd⟩ | hover | ⟨p, hp, hless, hqps⟩ := (refusesShares_iff hlen).mp h
      · exact hodd (hunits x hx)
      · omega
      · exact hqps (hshrink p hp hless)
    exact ⟨_, by rw [exec_setLdAllocations hup, if_neg hfits], fun p _ => shareSize_allot hunits p, rfl, rfl⟩
  case allotRefused =>
    rw [exec_setLdAllocations hup, if_pos ((refusesShares_iff hlen).mpr (hbad.imp_right .inl))]
    rfl
  case getMap => exact ⟨_, congrArg next (if_pos hup), rfl, rfl⟩

end Sys2Proof.Machine

/-! PROOF. Host writes of whole lines of the window share (11 R432, R433). What a line of DRAM holds in place of a codeword is put in the share before the
line is written, as long as it is. -/

namespace Sys2Proof.Machine

open Sys2Proof.Claims

section
variable {s : State} {p off key l : Nat} {bs : Bytes}

theorem lineSpan_line (hkey : key % 64 = 0) : lineSpan key 64 = (key / 64, 1) := by
  unfold lineSpan
  congr 1
  omega

theorem shareKey_line (hoff : off % 64 = 0) : shareKey p off % 64 = 0 := by
  unfold shareKey
  omega

/-- A partition whose STALL bit is clear stays so (10 R425). -/
theorem unstall_of_clear (h : s.sched.stall.getLsbD p = false) : s.unstall p = s := by
  have hkeep : s.sched.stall &&& ~~~(BitVec.ofNat 16 (2 ^ p)) = s.sched.stall := by
    refine BitVec.eq_of_getLsbD_eq fun i hi => ?_
    rw [BitVec.getLsbD_and, BitVec.getLsbD_not, BitVec.getLsbD_ofNat]
    by_cases hip : p = i
    · rw [← hip, h, Bool.false_and]
    · simp [Nat.testBit_two_pow_of_ne hip, hi]
  unfold State.unstall
  split
  · rfl
  · rw [State.modSched, hkeep]

/-! ### One line of a share -/

/-- The share with a line in it as its first copy holds it, where a copy of the line has failed. -/
def State.lineHeld (s : State) (l : Nat) : Mem :=
  if s.copiesClean l || s.host.lost.contains l then s.host.share
  else match lget s.dram.bad (winPlace l false) with
    | none => s.host.share
    | some b => wrBytes s.host.share (l * 64) b.data

/-- The share with a whole line of it written, before its copies are stored. -/
def State.lineWritten (s : State) (key : Nat) (bs : Bytes) : State :=
  s.modHost fun h => { h with
    share := wrBytes (s.lineHeld (key / 64)) key bs, undef := undefSub h.undef key bs.length
    lost := h.lost.filter fun x => ! (decide (key / 64 ≤ x) && decide (x < key / 64 + 1)) }

theorem sharePut_line (hkey : key % 64 = 0) (hbs : bs.length = 64) : s.sharePut key bs = (s.lineWritten key bs).putCopies (key / 64) := by
  unfold State.sharePut State.lineWritten State.lineHeld
  rw [hbs, lineSpan_line hkey]
  have hold : (List.range 1).filter (fun i => ! s.copiesClean (key / 64 + i) && ! s.host.lost.contains (key / 64 + i)) =
      if s.copiesClean (key / 64) || s.host.lost.contains (key / 64) then [] else [0] := by
    simp only [List.range_one, List.filter_cons, List.filter_nil, Nat.add_zero]
    cases s.copiesClean (key / 64) <;> cases s.host.lost.contains (key / 64) <;> rfl
  simp only [hold]
  split <;> rfl

theorem lineHeld_of_failed {b : BadLine} (hbad : lget s.dram.bad (winPlace l false) = some b) (hlost : s.host.lost.contains l = false) :
    s.lineHeld l = wrBytes s.host.share (l * 64) b.data := by
  have hclean : s.copiesClean l = false := by simp [State.copiesClean, hbad]
  rw [State.lineHeld, hclean, hlost, hbad]
  rfl

/-- What stands in place of a codeword is put in its own line, where it is no longer than that. -/
theorem rdByte_lineHeld (hheld : ∀ b, lget s.dram.bad (winPlace l false) = some b → b.data.length ≤ 64) {i : Nat} (hi : i < l * 64 ∨ l * 64 + 64 ≤ i) :
    rdByte (s.lineHeld l) i = rdByte s.host.share i := by
  unfold State.lineHeld
  split
  · rfl
  · split
    · rfl
    · next b hbad =>
      have hlen := hheld b hbad
      rw [rdByte_wrBytes, if_neg (by omega)]

theorem setCopy_stored (hflip : s.ecc.flipArmed = false) (second : Bool) :
    s.setCopy l second (rdBytes s.host.share (l * 64) 64) = s.modDram fun d => { d with bad := ldel d.bad (winPlace l second) } := by
  simp [State.setCopy, State.flipAt, hflip]

theorem putCopies_stored (hflip : s.ecc.flipArmed = false) : s.putCopies l = if s.copiesClean l then s else
    s.modDram fun d => { d with bad := ldel (ldel d.bad (winPlace l false)) (winPlace l true) } := by
  unfold State.putCopies
  rw [hflip, Bool.not_false, Bool.and_true]
  split
  · rfl
  · change (s.setCopy l false (rdBytes s.host.share (l * 64) 64)).setCopy l true (rdBytes s.host.share (l * 64) 64) = _
    rw [setCopy_stored hflip]
    exact setCopy_stored (s := s.modDram fun d => { d with bad := ldel d.bad (winPlace l false) }) hflip true

theorem putCopies_dram (hflip : s.ecc.flipArmed = false) : { s.putCopies l with dram := s.dram } = s := by
  rw [putCopies_stored hflip]
  split <;> rfl

theorem copiesClean_putCopies (hflip : s.ecc.flipArmed = false) : (s.putCopies l).copiesClean l = true := by
  rw [putCopies_stored hflip]
  split
  · assumption
  · simp [State.copiesClean, lget_ldel]

theorem sharePut_line_dram (hflip : s.ecc.flipArmed = false) (hkey : key % 64 = 0) (hbs : bs.length = 64) :
    { s.sharePut key bs with dram := s.dram } = s.lineWritten key bs := by
  rw [sharePut_line hkey hbs]
  exact putCopies_dram (s := s.lineWritten key bs) hflip

theorem sharePut_line_host (hflip : s.ecc.flipArmed = false) (hkey : key % 64 = 0) (hbs : bs.length = 64) :
    (s.sharePut key bs).host = (s.lineWritten key bs).host := (congrArg State.host (sharePut_line_dram hflip hkey hbs) :)

theorem sharePut_line_sched (hflip : s.ecc.flipArmed = false) (hkey : key % 64 = 0) (hbs : bs.length = 64) : (s.sharePut key bs).sched = s.sched :=
  (congrArg State.sched (sharePut_line_dram hflip hkey hbs) :)

theorem sharePut_line_frame (hflip : s.ecc.flipArmed = false) (hkey : key % 64 = 0) (hbs : bs.length = 64) :
    { s.sharePut key bs with host := s.host, dram := s.dram } = s :=
  (congrArg (fun t : State => { t with host := s.host }) (sharePut_line_dram hflip hkey hbs) :)

theorem sharePut_line_share (hflip : s.ecc.flipArmed = false) (hkey : key % 64 = 0) (hbs : bs.length = 64) :
    (s.sharePut key bs).host.share = wrBytes (s.lineHeld (key / 64)) key bs :=
  (congrArg HostL.share (sharePut_line_host hflip hkey hbs) :)

theorem copiesClean_sharePut (hflip : s.ecc.flipArmed = false) (hkey : key % 64 = 0) (hbs : bs.length = 64) :
    (s.sharePut key bs).copiesClean (key / 64) = true := by
  rw [sharePut_line hkey hbs]
  exact copiesClean_putCopies (s := s.lineWritten key bs) hflip

theorem contains_lost_lineWritten : (s.lineWritten key bs).host.lost.contains (key / 64) = false := by simp [State.lineWritten]

/-! ### SHARE_WRITE of a line of the host area -/

theorem hostWrite_line {n : Nat} (harea : hostArea ≤ off) (hoff : off % 64 = 0) (hbs : bs.length = 64) (hans : s.answerAt p off = none) :
    State.hostWrite p (n + 2) s off bs = s.sharePut (shareKey p off) bs := by
  have hne : bs ≠ [] := by rintro rfl; cases hbs
  have hlow : ¬ off < 0x1000 := by unfold hostArea at harea; omega
  have htake : bs.take 64 = bs := List.take_of_length_le hbs.le
  have hdrop : bs.drop 64 = [] := List.drop_eq_nil_of_le hbs.le
  simp [State.hostWrite, hne, hbs, hoff, hlow, Nat.not_lt.mpr harea, htake, hdrop, State.areaPut, hans, State.hostPutLine]

theorem exec_shareWrite_line (hp : p < 16) (hup : s.ldUp p = true) (hawake : s.asleep = false) (hflip : s.ecc.flipArmed = false) (harea : hostArea ≤ off)
    (hfits : off + bs.length ≤ s.shareSize p) (hoff : off % 64 = 0) (hbs : bs.length = 64) (hans : s.answerAt p off = none)
    (hstall : s.sched.stall.getLsbD p = false) : exec (.shareWrite p off bs) s = next (s.sharePut (shareKey p off) bs) := by
  have hline : ¬ off / 64 < 64 := by unfold hostArea at harea; omega
  have htouch : s.touchLines (shareKey p off) 64 = s := by simp [State.touchLines, hawake]
  have hsched := sharePut_line_sched hflip (shareKey_line (p := p) hoff) hbs
  simp only [exec, execShareWrite]
  rw [guardUnit_pos (partOk_of_lt hp), hbs, lineSpan_line hoff, htouch, hostWrite_line harea hoff hbs hans, unstall_of_clear (by rw [hsched, hstall])]
  simp [hup, Nat.not_lt.mpr (hbs ▸ hfits), hline]

/-- The write keeps its line, in both copies, and changes no other byte, where what stands in place of the first copy's codeword is no longer than the line:
the first clause of `Obligations.WindowShare` with the bound that it leaves out. -/
theorem shareWrite_keeps_line (hp : p < 16) (hup : s.ldUp p = true) (hawake : s.asleep = false) (hflip : s.ecc.flipArmed = false) (harea : hostArea ≤ off)
    (hfits : off + bs.length ≤ s.shareSize p) (hoff : off % 64 = 0) (hbs : bs.length = 64) (hans : s.answerAt p off = none)
    (hstall : s.sched.stall.getLsbD p = false) (hheld : ∀ b, lget s.dram.bad (winPlace (shareKey p off / 64) false) = some b → b.data.length ≤ 64) :
    ∃ t, exec (.shareWrite p off bs) s = next t ∧ (∀ i, i < 64 → rdByte t.host.share (shareKey p off + i) = bs.getD i 0) ∧
      (∀ i, i < shareKey p off ∨ shareKey p off + 64 ≤ i → rdByte t.host.share i = rdByte s.host.share i) ∧
      t.host.lost.contains (shareKey p off / 64) = false ∧ t.copiesClean (shareKey p off / 64) = true ∧
      t.host.qps = s.host.qps ∧ t.host.cmds = s.host.cmds ∧ { t with host := s.host, dram := s.dram } = s := by
  have hkey : shareKey p off % 64 = 0 := shareKey_line hoff
  have hhost := sharePut_line_host hflip hkey hbs
  refine ⟨_, exec_shareWrite_line hp hup hawake hflip harea hfits hoff hbs hans hstall, fun i hi => ?own, fun i hi => ?others,
    hhost ▸ contains_lost_lineWritten, copiesClean_sharePut hflip hkey hbs, (congrArg HostL.qps hhost :), (congrArg HostL.cmds hhost :),
    sharePut_line_frame hflip hkey hbs⟩
  case own => rw [sharePut_line_share hflip hkey hbs, rdByte_wrBytes_own _ _ _ (hbs ▸ hi)]
  case others =>
    rw [sharePut_line_share hflip hkey hbs, rdByte_wrBytes, if_neg (by omega)]
    exact rdByte_lineHeld hheld (by omega)

end

/-! ### The statement -/

/-- The first copy of line 0x400 of the share is 65 bytes in place of a codeword, of which the last is 1. -/
def longLine : State :=
  { State.reset with
    sys := { powered := true, upStep := 7, ready := true }
    dram := { State.reset.dram with bad := [(winPlace 0x400 false, { data := zeros 64 ++ [1], chk := zeros 8, noPromise := false })] } }

/-- Zeros written to the line leave 1 in the byte past it. -/
theorem longLine_past_line : rdByte (longLine.sharePut 0x10000 (zeros 64)).host.share 0x10040 = 1 := by
  have hbad : lget longLine.dram.bad (winPlace 0x400 false) = some { data := zeros 64 ++ [1], chk := zeros 8, noPromise := false } := by
    simp [longLine, lget]
  have hheld := lineHeld_of_failed hbad (by decide)
  rw [sharePut_line_share (by decide) (by decide) (by decide), hheld]
  decide +kernel

/-- Refutes O28: the first clause does not say that what a line of DRAM holds in place of a codeword is no longer than the line, 64 bytes. SHARE_WRITE first
puts what the first copy holds into the share, so that in `longLine` a write of line 0x400 changes the byte past it. -/
theorem not_windowShare : ¬ Obligations.WindowShare := by
  rintro ⟨hwrite, -⟩
  have hans : longLine.answerAt 0 0x10000 = none := rfl
  have hstall : longLine.sched.stall.getLsbD 0 = false := by decide
  have hexec := exec_shareWrite_line (p := 0) (off := 0x10000) (bs := zeros 64) (by decide) (by decide) (by decide) (by decide) (by decide) (by decide)
    (by decide) (by decide) hans hstall
  obtain ⟨t, hstep, -, hframe, -⟩ := hwrite longLine 0 0x10000 (zeros 64) (by decide) (by decide) (by decide) (by decide) (by decide) (by decide) (by decide)
    (by decide) hans hstall
  have hput : longLine.sharePut 0x10000 (zeros 64) = t := Host.Outcome.next.inj (hexec.symm.trans hstep)
  have hkept := hframe 0x10040 (.inr (by decide))
  rw [← hput, longLine_past_line] at hkept
  exact absurd hkept (by decide)

end Sys2Proof.Machine

/-! PROOF. The scheduler's own acts (10 R407 to R425; 13 R571). The numbers that a core's host holds are those of the core only where the host hosts itself. -/

namespace Sys2Proof.Machine

open Sys2Proof.Claims

/-- A host core that has none of its numbers bound keeps the number it runs. -/
theorem exec_hostedNumberSwitch_idle {s : State} {c : Nat} (hc : c < 768) (hheld : (s.sameHost (s.hostOf c)).filter (fun n => (s.core n).bound) = []) :
    exec (.hostedNumberSwitch c) s = next s := by
  simp only [exec, execHostedNumberSwitch]
  rw [guardUnit_pos (coreOk_of_lt hc), hheld]
  rfl

/-- The host of core `c` runs the one number that it holds with a context on it, where the numbers that stand with the host are those that stand with `c`: the
fifth clause of `Obligations.SchedulerActs` with the condition that it leaves out. -/
theorem hostedNumberSwitch_runs_number {s : State} {c n : Nat} (hc : c < 768) (hlive : s.coresLive = true)
    (hheld : (s.sameHost c).filter (fun m => (s.core m).bound) = [n]) (hhost : s.sameHost (s.hostOf c) = s.sameHost c) :
    ∃ t, exec (.hostedNumberSwitch c) s = next t ∧ lget t.ecc.hosting (s.hostOf c) = some n ∧ t.cores = s.cores := by
  have hfirst (cur : Nat) : ([n].filter (cur < ·)).min?.or [n].min? = some n := by
    by_cases h : cur < n <;> simp [h]
  refine ⟨{ s with ecc := { s.ecc with hosting := lset s.ecc.hosting (s.hostOf c) n } }, ?_, (lget_lset _ _ _ _).trans (if_pos rfl), rfl⟩
  simp only [exec, execHostedNumberSwitch]
  rw [guardUnit_pos (coreOk_of_lt hc), hhost, hheld, hfirst]
  exact if_pos hlive

/-- Core 1 hosts number 0, which a context has on it, and core 2 hosts number 1. -/
def hostChain : State :=
  { State.reset with
    sys := { powered := true, upStep := 7 }
    ecc := { State.reset.ecc with host := [(0, 1), (1, 2)] }
    cores := [(0, { run := .running, bound := true, ctx := 5 })] }

/-- Of the numbers that stand with number 0 a context has 0 alone, and of those that stand with its host it has none. -/
theorem hostChain_held : hostChain.coresLive = true ∧ (hostChain.sameHost 0).filter (fun n => (hostChain.core n).bound) = [0] ∧
    (hostChain.sameHost (hostChain.hostOf 0)).filter (fun n => (hostChain.core n).bound) = [] ∧
    lget hostChain.ecc.hosting (hostChain.hostOf 0) = none := by
  decide +kernel

/-- Refutes O23: HOSTED_NUMBER_SWITCH looks at the numbers that stand with the host of core `c`, and the fifth clause at those that stand with `c`; the clause
leaves out that the two are the same, that is, that a host hosts itself (13 R571). `hostChain` shows it: the switch leaves it as it was, and no number of
host 1 runs. -/
theorem not_schedulerActs : ¬ Obligations.SchedulerActs := by
  rintro ⟨-, -, -, -, hswitch, -⟩
  obtain ⟨hlive, hown, hhost, hnone⟩ := hostChain_held
  obtain ⟨t, hstep, hruns, -⟩ := hswitch hostChain 0 0 (by decide) hlive hown
  have hsame : hostChain = t := Host.Outcome.next.inj ((exec_hostedNumberSwitch_idle (by decide) hhost).symm.trans hstep)
  rw [← hsame, hnone] at hruns
  cases hruns

end Sys2Proof.Machine

/-! PROOF. Queue pairs, their rings and their doorbells (11 R437 to R442, R453, R465, R717): what a change of one queue pair leaves of the others and of the
outstanding commands, and what a doorbell write does. -/

namespace Sys2Proof.Machine

open Sys2Proof.Claims

/-! ### A queue pair among the others -/

theorem qp_congr {s t : State} (h : t.host.qps = s.host.qps) (p q : Nat) : t.qp? p q = s.qp? p q := by simp only [State.qp?, h]

theorem cmd_congr_cmds {s t : State} (h : t.host.cmds = s.host.cmds) (r : CmdRef) : t.cmd? r = s.cmd? r := by simp only [State.cmd?, h]

theorem cmd_of_outstanding {s : State} {r : CmdRef} {c : Cmd} {k : Qp} (h : outstanding s r c k) : s.cmd? r = some c := by
  obtain ⟨-, -, -, hcmd, -⟩ := h
  exact hcmd

theorem qp_of_outstanding {s : State} {r : CmdRef} {c : Cmd} {k : Qp} (h : outstanding s r c k) : s.qp? r.part r.qp = some k := by
  obtain ⟨-, -, -, -, hqp⟩ := h
  exact hqp

theorem cmd_modCmd_of_ne (s : State) {r q : CmdRef} (hq : q ≠ r) {f : Cmd → Cmd} (hf : ∀ d, (f d).ref = d.ref) : (s.modCmd r f).cmd? q = s.cmd? q :=
  (onlyCmd_modCmd s r hf).2 q hq

theorem qp_modQp {s : State} {p q : Nat} {k : Qp} (h : s.qp? p q = some k) (f : Qp → Qp) : (s.modQp p q f).qp? p q = some (f k) := by
  rw [State.qp?] at h
  rw [State.qp?, State.modQp, modHost_host, lget_map, if_pos rfl, h]
  rfl

/-- A changed queue pair leaves each of the others, and no queue pair is set up by a change. -/
theorem lget_modQp_none {s : State} (p q : Nat) (f : Qp → Qp) {j : Nat} (h : lget s.host.qps j = none) : lget (s.modQp p q f).host.qps j = none := by
  rw [State.modQp, modHost_host, lget_map]
  split
  · rw [h]; rfl
  · exact h

theorem lget_newQp (s : State) (p q : Nat) (x : QpDesc) (j : Nat) :
    lget (s.newQp p q x).host.qps j = if j = qpKey p q then some { desc := x } else lget s.host.qps j := lget_lset _ _ _ _

theorem qp_newQp (s : State) (p q : Nat) (x : QpDesc) : (s.newQp p q x).qp? p q = some { desc := x } := (lget_newQp s p q x _).trans (if_pos rfl)

theorem lget_delQp (s : State) (p q j : Nat) : lget (s.delQp p q).host.qps j = if j = qpKey p q then none else lget s.host.qps j := by
  unfold State.delQp
  split
  · next h =>
    split
    · next hj => rw [hj]; exact h
    · rfl
  · exact lget_ldel _ _ _

theorem qp_delQp (s : State) (p q : Nat) : (s.delQp p q).qp? p q = none := (lget_delQp s p q _).trans (if_pos rfl)

theorem onlyHost_trans {s t u : State} (h : onlyHost s t) (h' : onlyHost t u) : onlyHost s u :=
  (congrArg (fun v : State => { v with host := s.host }) h' :).trans h

theorem delQp_frame (s : State) (p q : Nat) : onlyHost s (s.delQp p q) ∧ (s.delQp p q).host.cmds = s.host.cmds := by
  unfold State.delQp
  split <;> exact ⟨rfl, rfl⟩

/-! ### Errors counted on the page of a logical device -/

theorem errCnt_countErr_nqp (s : State) (p : Nat) :
    ((s.countErr (.nqp p)).page (0x10000 + p)).errCnt = satBv (s.page (0x10000 + p)).errCnt 1 := by
  have hpage : (s.countErr (.nqp p)).page (0x10000 + p) = { s.page (0x10000 + p) with errCnt := satBv (s.page (0x10000 + p)).errCnt 1 } :=
    modPage_page_self s (0x10000 + p) _
  rw [hpage]

/-! ### Doorbells (R441, R442, R465) -/

/-- Without an entry that waits for ring space, room in the ring lets nothing through. -/
theorem flushRing_idle {s : State} {p q : Nat} {k : Qp} (h : s.qp? p q = some k) (hlost : k.lost = []) (hdups : k.dups = []) : s.flushRing p q = s := by
  simp only [State.flushRing, h, Option.map_some, Option.getD_some, hlost, hdups, List.length_nil]
  rfl

section
variable {s : State} {p q : Nat} {k : Qp}

theorem putTail_acts {v : Nat} (h : s.qp? p q = some k) (hv : v < k.desc.sqSize) (hheld : s.host.tailHeld = false) (hawake : s.asleep = false) :
    s.putTail p q v = s.modQp p q fun y => { y with sqTail := v } := by
  simp [State.putTail, State.actTail, State.wake, h, Nat.not_le.mpr hv, hheld, hawake]

theorem putTail_refused {v : Nat} (h : s.qp? p q = some k) (hv : k.desc.sqSize ≤ v) : s.putTail p q v = s.countErr (.nqp p) := by
  simp [State.putTail, h, hv]

theorem putHead_acts {v n : Nat} (h : s.qp? p q = some k) (hv : v < k.desc.cqSize) (hn : (v + k.desc.cqSize - k.cqHead) % k.desc.cqSize = n)
    (hused : n ≤ k.cqUsed) (hlost : k.lost = []) (hdups : k.dups = []) :
    s.putHead p q v = s.modQp p q fun y => { y with cqHead := v, cqUsed := y.cqUsed - n } := by
  have hok : ¬ (k.desc.cqSize ≤ v ∨ k.cqUsed < n) := by omega
  simp only [State.putHead, h, hn, if_neg hok]
  exact flushRing_idle (qp_modQp h _) hlost hdups

theorem putHead_refused {v : Nat} (h : s.qp? p q = some k) (hv : k.desc.cqSize ≤ v) : s.putHead p q v = s.countErr (.nqp p) := by
  simp [State.putHead, h, hv]

theorem putRelease_frees {a n : Nat} (h : s.qp? p q = some k) (hpub : (a, n) ∈ k.published) : ∃ t, s.putRelease p q a n = t ∧
    t.qp? p q = some { k with published := k.published.filter (· != (a, n)) } ∧ t.host.cmds = s.host.cmds ∧ onlyHost s t := by
  refine ⟨_, rfl, ?_⟩
  simp only [State.putRelease, h, List.contains_iff_mem, hpub, if_true]
  exact ⟨qp_modQp h fun y => { y with published := y.published.filter (· != (a, n)) }, rfl, rfl⟩

theorem putRelease_refused {a n : Nat} (h : s.qp? p q = some k) (hpub : (a, n) ∉ k.published) : s.putRelease p q a n = s.countErr (.nqp p) := by
  simp [State.putRelease, h, hpub]

section
variable (hp : p < 16) (hq : q < 64) (hup : s.ldUp p = true) (h : s.qp? p q = some k) (hstall : s.sched.stall.getLsbD p = false)
include hp hq hup h hstall

/-- A doorbell write to a queue pair that is set up, of a partition that is not stalled, acts and does nothing else. -/
theorem bellWrite_acts {f : State → State} {t : State} (hact : f s = t) (hsched : t.sched = s.sched) : bellWrite p q f s = next t := by
  have hok : (partOk p && qpOk q) = true := by simp [partOk, qpOk, hp, hq]
  have hclear : t.unstall p = t := unstall_of_clear (by rw [hsched]; exact hstall)
  simp [bellWrite, guardUnit_pos hok, hup, h, hact, hclear]

theorem exec_sqTail {v : BitVec 16} {t : State} (hact : (s.keepBell p q 0 (leBytes 2 v.toNat)).putTail p q v.toNat = t) (hsched : t.sched = s.sched) :
    exec (.sqTail p q v) s = next t := by
  simp only [exec, execSqTail]
  exact bellWrite_acts hp hq hup h hstall hact hsched

theorem exec_cqHead {v : BitVec 16} {t : State} (hact : (s.keepBell p q 4 (leBytes 2 v.toNat)).putHead p q v.toNat = t) (hsched : t.sched = s.sched) :
    exec (.cqHead p q v) s = next t := by
  simp only [exec, execCqHead]
  exact bellWrite_acts hp hq hup h hstall hact hsched

theorem exec_answerRelease {a n : BitVec 32} {t : State}
    (hact : (s.keepBell p q 8 (leBytes 4 a.toNat ++ leBytes 4 n.toNat)).putRelease p q a.toNat n.toNat = t) (hsched : t.sched = s.sched) :
    exec (.answerRelease p q a n) s = next t := by
  simp only [exec, execAnswerRelease]
  exact bellWrite_acts hp hq hup h hstall hact hsched

end

end

/-- Settles O27: each doorbell write is one change of its queue pair, or an error counted. -/
theorem doorbells : Obligations.Doorbells := by
  intro s p q k hp hq hup hqp hstall
  have hkept (o : Nat) (bs : Bytes) : (s.keepBell p q o bs).qp? p q = some k := (qp_congr rfl p q).trans hqp
  refine ⟨fun v hv hheld hawake => ?tail, fun v hv => ?tailRefused, fun v hv hused hlost hdups => ?head, fun v hv => ?headRefused, fun a n hpub => ?release,
    fun a n hpub => ?releaseRefused⟩
  case tail =>
    exact ⟨_, exec_sqTail hp hq hup hqp hstall (putTail_acts (hkept _ _) hv hheld hawake) rfl, qp_modQp (hkept _ _) _, rfl, rfl⟩
  case tailRefused =>
    exact ⟨_, exec_sqTail hp hq hup hqp hstall (putTail_refused (hkept _ _) hv) rfl, (qp_congr rfl p q).trans hqp, errCnt_countErr_nqp _ p⟩
  case head =>
    exact ⟨_, exec_cqHead hp hq hup hqp hstall (putHead_acts (hkept _ _) hv rfl hused hlost hdups) rfl, rfl, rfl, qp_modQp (hkept _ _) _⟩
  case headRefused =>
    exact ⟨_, exec_cqHead hp hq hup hqp hstall (putHead_refused (hkept _ _) hv) rfl, (qp_congr rfl p q).trans hqp, errCnt_countErr_nqp _ p⟩
  case release =>
    obtain ⟨t, hact, hset, hcmds, honly⟩ := putRelease_frees (hkept 8 (leBytes 4 a.toNat ++ leBytes 4 n.toNat)) hpub
    exact ⟨t, exec_answerRelease hp hq hup hqp hstall hact (congrArg State.sched honly :), hcmds, onlyHost_trans (t := s.keepBell _ _ _ _) rfl honly, hset⟩
  case releaseRefused =>
    exact ⟨_, exec_answerRelease hp hq hup hqp hstall (putRelease_refused (hkept _ _) hpub) rfl, (qp_congr rfl p q).trans hqp, errCnt_countErr_nqp _ p⟩

/-! ### QP_CREATE, QP_DELETE and NQP_QP0_CTL (R437 to R440) -/

theorem bits_low (v : Nat) : bits v 5 0 = v % 64 := by simp [bits]

section
variable {s : State} {r : CmdRef} {c : Cmd} {q : Nat}

theorem exec_qpCreate (h : starts s r 0x01 c) (hlen : c.dlen = 64) (hq : fld c.data 0 4 % 64 = q) : exec (.qpCreate r) s = next (
    if q = 0 then (running s r).cmdFail r 2 []
    else if (s.qp? r.part q).isSome then (running s r).cmdFail r 7 []
    else if ! s.speaks (qpDesc c.data).ver then (running s r).cmdFail r 4 []
    else if s.descBad r.part q c.data then (running s r).cmdFail r 2 []
    else ((running s r).newQp r.part q (qpDesc c.data)).cmdDone r [] none) := by
  simp only [exec, execQpCreate]
  rw [startCmd_starts h]
  simp only [hlen, bits_low, hq, ne_eq, not_true, false_or]
  rfl

theorem exec_qpDelete {k : Qp} (h : outstanding s r c k) (hop : c.opcode = 0x02) (hs : s.serves 0x02 = true) (hph : c.phase = .running)
    (hnone : s.cmdsOf r.part c.obj = []) : exec (.qpDelete r) s = next ((s.delQp r.part c.obj).cmdDone r [] none) := by
  obtain ⟨hp, hq, ht, hcmd, -⟩ := h
  simp only [exec, execQpDelete]
  rw [stepCmd_more (refOk_of_lt hp hq ht) hcmd hop hph hs, hnone]
  rfl

end

/-- The state with the ERR bit of a logical device's queue pair 0 clear, as each write of EN leaves it. -/
def State.qp0Cleared (s : State) (p : Nat) : State := s.modHost fun h => { h with qp0Err := h.qp0Err &&& ~~~(BitVec.ofNat 16 (2 ^ p)) }

/-- The same with the bit set. -/
def State.qp0Marked (s : State) (p : Nat) : State := s.modHost fun h => { h with qp0Err := h.qp0Err ||| BitVec.ofNat 16 (2 ^ p) }

theorem getLsbD_two_pow_self {p : Nat} (hp : p < 16) : (BitVec.ofNat 16 (2 ^ p)).getLsbD p = true := by
  rw [BitVec.getLsbD_ofNat, Nat.testBit_two_pow_self, decide_eq_true hp]
  rfl

theorem qp0Err_cleared (s : State) {p : Nat} (hp : p < 16) : (s.qp0Cleared p).host.qp0Err.getLsbD p = false := by
  rw [State.qp0Cleared, modHost_host, BitVec.getLsbD_and, BitVec.getLsbD_not, getLsbD_two_pow_self hp]
  simp

theorem qp0Err_marked (s : State) {p : Nat} (hp : p < 16) : (s.qp0Marked p).host.qp0Err.getLsbD p = true := by
  rw [State.qp0Marked, modHost_host, BitVec.getLsbD_or, getLsbD_two_pow_self hp, Bool.or_true]

theorem exec_nqpQp0CtlEn {s : State} {p : Nat} (hp : p < 16) (hup : s.ldUp p = true) (v : BitVec 32) : exec (.nqpQp0CtlEn p v) s = next (
    if v.getLsbD 0 then
      if (s.qp? p 0).isSome then s.qp0Cleared p
      else if ! s.speaks (qpDesc (s.qp0Bytes p)).ver || s.descBad p 0 (s.qp0Bytes p) then (s.qp0Cleared p).qp0Marked p
      else (s.qp0Cleared p).newQp p 0 (qpDesc (s.qp0Bytes p))
    else if (s.qp? p 0).isSome then (s.qp0Cleared p).dropQp0 p else s.qp0Cleared p) := by
  simp only [exec, execNqpQp0CtlEn]
  rw [guardUnit_pos (partOk_of_lt hp), hup]
  rfl

/-- Queue pair 0 goes alone where it has no commands and no queue pair is being deleted. -/
theorem dropQp0_idle {s : State} {p : Nat} (hcmds : s.cmdsOf p 0 = []) (hdel : ((s.qpsOf p).filter fun e => e.2.deleting) = []) :
    s.dropQp0 p = s.delQp p 0 := by
  simp only [State.dropQp0, State.dropQp, hcmds, hdel]
  rfl

/-- Settles O29: each command sets one queue pair up, takes it away, or is refused. -/
theorem queuePairs : Obligations.QueuePairs := by
  refine ⟨fun s r c h hlen => ?create, fun s r c k h hop hs hph hnone => ?delete, fun s p v hp hup => ?qp0⟩
  case create =>
    have hex := exec_qpCreate h hlen rfl
    refine ⟨fun hfree hq hver hok => ?_, fun hset hq => ?_, fun hfree hver hbad => ?_⟩
    · rw [if_neg hq, hfree, hver, hok] at hex
      refine ⟨_, hex, cmdDone_ended (s := (running s r).newQp _ _ _) (exists_cmd_running h) [], qp_newQp _ _ _ _, fun j hj => ?_, rfl⟩
      exact (lget_newQp (running s r) _ _ _ j).trans (if_neg hj)
    · rw [if_neg hq, if_pos hset] at hex
      exact ⟨_, hex, cmdFail_ended (exists_cmd_running h) 7 [], onlyCmd_trans (onlyCmd_running s r) (onlyCmd_cmdFail _ r 7 [])⟩
    · rw [hfree, hver, hbad] at hex
      exact ⟨_, hex.trans (congrArg next (ite_self _)), cmdFail_ended (exists_cmd_running h) 2 [],
        onlyCmd_trans (onlyCmd_running s r) (onlyCmd_cmdFail _ r 2 [])⟩
  case delete =>
    obtain ⟨hframe, hcmds⟩ := delQp_frame s r.part c.obj
    have hkept : ∃ d, (s.delQp r.part c.obj).cmd? r = some d := ⟨c, (cmd_congr_cmds hcmds r).trans (cmd_of_outstanding h)⟩
    exact ⟨_, exec_qpDelete h hop hs hph hnone, cmdDone_ended hkept [], qp_delQp s _ _, hframe⟩
  case qp0 =>
    have hex := exec_nqpQp0CtlEn hp hup v
    refine ⟨fun hen hfree hver hok => ?_, fun hen hfree hbad => ?_, fun k hen hset hcmds hdel => ?_⟩
    · rw [if_pos hen, hfree, hver, hok] at hex
      exact ⟨_, hex, qp_newQp _ p 0 _, qp0Err_cleared s hp, rfl⟩
    · rw [if_pos hen, hfree, hbad, Bool.or_true] at hex
      exact ⟨_, hex, hfree, qp0Err_marked _ hp, rfl, rfl⟩
    · rw [hen, if_neg Bool.false_ne_true, if_pos (Option.isSome_of_eq_some hset), dropQp0_idle (s := s.qp0Cleared p) hcmds hdel] at hex
      exact ⟨_, hex, qp_delQp _ p 0, fun j hj => (lget_delQp _ p 0 j).trans (if_neg hj), onlyHost_trans (t := s.qp0Cleared p) rfl (delQp_frame (s.qp0Cleared p) p 0).1⟩

end Sys2Proof.Machine

/-! PROOF. Packets, transfers, admission, answers and completions (11 R443 to R466, R717): what a packet read from its ring comes to, and what an entry
written to a completion ring reaches. -/

namespace Sys2Proof.Machine

open Sys2Proof.Claims

/-! ### Fields of a packet (00 R4, R5) -/

theorem sub_succ (b : Bytes) (o n : Nat) : sub b o (n + 1) = b.getD o 0 :: sub b (o + 1) n := by
  unfold sub
  dsimp only
  obtain ho | ho := Nat.lt_or_ge o b.length
  · rw [List.drop_eq_getElem_cons ho, List.take_succ_cons, List.length_cons, Nat.add_sub_add_right, List.getD_eq_getElem _ _ ho]
    rfl
  · rw [List.drop_eq_nil_of_le ho, List.drop_eq_nil_of_le (by omega), List.getD_eq_default _ _ ho]
    simp [zeros, List.replicate_succ]

/-- A field of m + n bytes is its first m bytes and the n above them. -/
theorem fld_add (b : Bytes) (o m n : Nat) : fld b o (m + n) = fld b o m + 256 ^ m * fld b (o + m) n := by
  induction m generalizing o with
  | zero => rw [Nat.zero_add, Nat.pow_zero, Nat.one_mul, Nat.add_zero]; exact (Nat.zero_add _).symm
  | succ m ih =>
    have hsucc (i : Nat) : fld b o (i + 1) = (b.getD o 0).toNat + 256 * fld b (o + 1) i := by rw [fld, sub_succ]; rfl
    rw [Nat.add_right_comm, hsucc, hsucc, ih, Nat.pow_succ', Nat.add_right_comm o, Nat.add_assoc o]
    ring

/-! ### Entries of a completion ring (R453 to R455) -/

/-- A ring with one entry more. -/
def Qp.entered (k : Qp) : Qp :=
  { k with
    cqWr := if k.cqWr + 1 = k.desc.cqSize then 0 else k.cqWr + 1
    phase := k.phase != decide (k.cqWr + 1 = k.desc.cqSize), cqUsed := k.cqUsed + 1 }

theorem entryTaken_entered (k : Qp) : entryTaken k k.entered := by
  refine ⟨rfl, rfl, fun hlast => ?_, fun hlast => ?_⟩
  · simp [Qp.entered, hlast]
  · simp [Qp.entered, hlast]

/-- The state with an entry in the ring, before its vector is sent. -/
def State.withEntry (s : State) (p q : Nat) (k : Qp) (entry : Bytes) : State :=
  (s.modHost fun h => { h with hostMem := lset h.hostMem (entryAt p k) entry }).modQp p q fun y => { y with
    cqWr := if decide (k.cqWr + 1 = k.desc.cqSize) then 0 else y.cqWr + 1
    phase := y.phase != decide (k.cqWr + 1 = k.desc.cqSize), cqUsed := y.cqUsed + 1 }

/-- A message changes of the host link only what has been sent and what is due. -/
theorem sendMsi_host (s : State) (p v : Nat) : { (s.sendMsi p v).host with
    msix := s.host.msix, msixLast := s.host.msixLast, msixDue := s.host.msixDue, msixPend := s.host.msixPend } = s.host := by
  unfold State.sendMsi
  dsimp only
  split
  · rfl
  split
  · rfl
  split <;> rfl

section
variable {s : State} {p q : Nat} {k : Qp} (h : s.qp? p q = some k) (mk : Bool → Bytes)
include h

theorem putEntry_eq : s.putEntry p q mk =
    if k.desc.intEn then (s.withEntry p q k (mk k.phase)).sendMsi p k.desc.int else s.withEntry p q k (mk k.phase) := by
  simp only [State.putEntry, h]
  rfl

theorem putEntry_host : { (s.putEntry p q mk).host with
    msix := s.host.msix, msixLast := s.host.msixLast, msixDue := s.host.msixDue, msixPend := s.host.msixPend } =
      (s.withEntry p q k (mk k.phase)).host := by
  rw [putEntry_eq h]
  split
  · exact sendMsi_host (s.withEntry p q k (mk k.phase)) p _
  · rfl

theorem hostMem_putEntry : (s.putEntry p q mk).host.hostMem = lset s.host.hostMem (entryAt p k) (mk k.phase) :=
  (congrArg HostL.hostMem (putEntry_host h mk) :)

theorem cmds_putEntry : (s.putEntry p q mk).host.cmds = s.host.cmds := (congrArg HostL.cmds (putEntry_host h mk) :)

theorem share_putEntry : (s.putEntry p q mk).host.share = s.host.share := (congrArg HostL.share (putEntry_host h mk) :)

theorem qp_putEntry : (s.putEntry p q mk).qp? p q = some k.entered := by
  have hqps : (s.putEntry p q mk).host.qps = (s.withEntry p q k (mk k.phase)).host.qps := (congrArg HostL.qps (putEntry_host h mk) :)
  rw [qp_congr hqps]
  have hkept : (s.modHost fun l => { l with hostMem := lset l.hostMem (entryAt p k) (mk k.phase) }).qp? p q = some k := h
  refine (qp_modQp hkept _).trans ?_
  simp only [Qp.entered, decide_eq_true_eq]

theorem putEntry_frame : onlyHost s (s.putEntry p q mk) := by
  rw [putEntry_eq h]
  split
  · exact (congrArg (fun t : State => { t with host := s.host }) (sendMsi_frame (s.withEntry p q k (mk k.phase)) p k.desc.int) :)
  · rfl

end

/-! ### Reading a packet (R443 to R447) -/

/-- The state with a packet read: the head of its ring moves on by one slot. -/
def State.pastPacket (s : State) (p q : Nat) (k : Qp) : State :=
  s.modQp p q fun y => { y with sqHead := (k.sqHead + 1) % k.desc.sqSize, seq := k.seq + 1 }

/-- A command as its packet leaves it, checked (R445). -/
def Cmd.checked (c : Cmd) (status now : Nat) : Cmd :=
  if status ≠ 0 then { c with phase := .done, status := status, since := now } else if 192 < c.dlen then { c with phase := .wantSlot } else c

section
variable {s : State} {p q : Nat} {k : Qp} {b : Bytes} (h : packet s p q k b)
include h

theorem qp_pastPacket : (s.pastPacket p q k).qp? p q = some { k with sqHead := (k.sqHead + 1) % k.desc.sqSize, seq := k.seq + 1 } := by
  obtain ⟨-, -, hqp, -⟩ := h
  exact qp_modQp hqp _

theorem exec_commandPacket : exec (.commandPacket p q) s = next (s.takePacket p q k) := by
  obtain ⟨hp, hq, hqp, hreads, -⟩ := h
  have hok : (partOk p && qpOk q) = true := by simp [partOk, qpOk, hp, hq]
  simp only [exec, execCommandPacket]
  rw [guardUnit_pos hok, hqp]
  exact congrArg next (if_pos hreads)

/-- A packet of a command is kept as an outstanding one, unless it repeats a tag. -/
theorem takePacket_command (hop : (cmdIn p q k b).opcode ≠ 0x0F) : s.takePacket p q k =
    if (s.cmd? (cmdIn p q k b).ref).isSome then
      ((s.pastPacket p q k).modQp p q fun y =>
        { y with dups := y.dups ++ [((cmdIn p q k b).ref.tag, (k.sqHead + 1) % k.desc.sqSize, s.sys.now)] }).flushRing p q
    else (s.pastPacket p q k).modHost fun l =>
      { l with cmds := l.cmds ++ [(cmdIn p q k b).checked (packetStatus q (cmdIn p q k b) b) s.sys.now] } := by
  obtain ⟨-, -, -, -, hwait, hslot, hinl⟩ := h
  unfold State.takePacket
  rw [hslot]
  dsimp only
  rw [if_neg (by simp), hinl, if_neg (by omega)]
  simp only [State.readSlots, Bool.false_eq_true, if_false]
  rw [if_neg (show ¬ (cmdOf p q k.desc.ver k.seq ((k.sqHead + 1 + 0) % k.desc.sqSize) b).opcode = 0x0F from hop)]
  simp only [Nat.add_zero, List.take_nil]
  rfl

/-- A DATA_DONE packet names its command by the tag, with the token that it gives (R457). -/
theorem takePacket_dataDone {tag : Nat} {tok : BitVec 16} (htag : tag < 65536) (hw0 : fld b 0 4 = 0x0F + tag * 2 ^ 16) (hw1 : fld b 4 4 = q)
    (hw2 : fld b 8 8 = 0) (htok : fld b 0x10 4 = tok.toNat) : s.takePacket p q k = (s.pastPacket p q k).dataDone p q tag tok := by
  obtain ⟨-, -, -, -, hwait, hslot, hinl⟩ := h
  have hlow : bits (fld b 0 4) 7 0 = 0x0F := by rw [hw0, bits]; omega
  have hrsv : bits (fld b 0 4) 15 8 = 0 := by rw [hw0, bits]; omega
  have hhigh : bits (fld b 0 4) 31 16 = tag := by rw [hw0, bits]; omega
  have hsplit : fld b 8 8 = fld b 8 4 + 256 ^ 4 * fld b 0xC 4 := fld_add b 8 4 4
  have hdlen : fld b 8 4 = 0 := by omega
  have hrsv3 : fld b 0xC 4 = 0 := by omega
  have hobj : w16 tok.toNat = tok := BitVec.ofNat_toNat 16 tok
  have hfits : ¬ 65536 ≤ tok.toNat := by omega
  unfold State.takePacket
  rw [hslot]
  dsimp only
  rw [if_neg (by simp), hinl, if_neg (by omega)]
  simp only [State.readSlots, Bool.false_eq_true, if_false, cmdOf, hlow, hrsv, hhigh, hw1, hdlen, hrsv3, htok, hobj, hfits, ne_eq, not_true, or_self, if_true]
  rfl

end

/-- One repeated tag is completed where the ring has room (R446). -/
theorem flushRing_dup {s : State} {p q tag head since : Nat} {k : Qp} (h : s.qp? p q = some k) (hlost : k.lost = []) (hdups : k.dups = [(tag, head, since)])
    (hroom : 0 < k.room) :
    s.flushRing p q = (s.putEntry p q (entryBytes tag q 0 3 head 0 0 0 [])).modQp p q fun y => { y with dups := [] } := by
  simp only [State.flushRing, h, Option.map_some, Option.getD_some, hlost, hdups, List.length_nil, List.length_cons, Nat.zero_add, State.flushLost,
    State.flushDups, if_neg (Nat.ne_of_gt hroom)]

/-! ### The status of a packet (R445) -/

theorem packetStatus_unknown {q : Nat} {c : Cmd} (b : Bytes) (h : knownOp c.ver c.opcode = false) : packetStatus q c b = 1 := by
  simp [packetStatus, h]

theorem packetStatus_reserved {q : Nat} {c : Cmd} {b : Bytes} (hknown : knownOp c.ver c.opcode = true) (hop : qp0Op c.opcode = false)
    (hqp : fld b 4 4 % 64 = q) (hrsv : fld b 0 4 / 2 ^ 8 % 2 ^ 8 ≠ 0) : packetStatus q c b = 2 := by
  have hfirst : ¬ ((! knownOp c.ver c.opcode) = true ∨ (qp0Op c.opcode = true ∧ q ≠ 0) ∨ bits (fld b 4 4) 5 0 ≠ q) := by
    simp [hknown, hop, bits_low, hqp]
  have hbits : bits (fld b 0 4) 15 8 ≠ 0 := hrsv
  unfold packetStatus
  dsimp only
  rw [if_neg hfirst, if_pos (.inl hbits)]

/-- A new command stands last among the outstanding ones. -/
theorem cmd_append (s : State) {c : Cmd} (hnew : s.cmd? c.ref = none) (r : CmdRef) :
    (s.modHost fun l => { l with cmds := l.cmds ++ [c] }).cmd? r = if r = c.ref then some c else s.cmd? r := by
  unfold State.cmd? at hnew ⊢
  rw [modHost_host, List.find?_append]
  split
  · next hr => rw [hr, hnew]; simp
  · next hr => simp [Ne.symm hr]

theorem ref_checked (c : Cmd) (status now : Nat) : (c.checked status now).ref = c.ref := by
  unfold Cmd.checked
  split
  · rfl
  split <;> rfl

/-- Settles O24: a packet is kept as a command, checked, unless it repeats a tag, which is completed with status 3. -/
theorem packetsAreChecked : Obligations.PacketsAreChecked := by
  intro s p q k b h hop c
  have hex := (exec_commandPacket h).trans (congrArg next (takePacket_command h hop))
  refine ⟨fun hnew => ?new, packetStatus_unknown b, packetStatus_reserved, fun d hd hdups hlost hroom => ?again⟩
  case new =>
    rw [show s.cmd? (cmdIn p q k b).ref = none from hnew] at hex
    have href : (c.checked (packetStatus q c b) s.sys.now).ref = c.ref := ref_checked _ _ _
    have hcmd := cmd_append (s.pastPacket p q k) (c := c.checked (packetStatus q c b) s.sys.now) (by rw [href]; exact hnew)
    rw [href] at hcmd
    exact ⟨_, hex, (hcmd _).trans (if_pos rfl), qp_pastPacket h, fun r hr => (hcmd r).trans (if_neg hr), rfl⟩
  case again =>
    rw [show s.cmd? (cmdIn p q k b).ref = some d from hd] at hex
    have hqp := qp_modQp (qp_pastPacket h) fun y =>
      { y with dups := y.dups ++ [((cmdIn p q k b).ref.tag, (k.sqHead + 1) % k.desc.sqSize, s.sys.now)] }
    have hflush := flushRing_dup hqp hlost (by rw [hdups]; rfl) hroom
    refine ⟨_, hex, ?_, ?_⟩
    · exact (cmd_congr_cmds ((congrArg (·.host.cmds) hflush).trans (cmds_putEntry hqp _)) _).trans hd
    · refine (congrArg (fun t : State => lget t.host.hostMem (entryAt p k)) hflush).trans ?_
      change lget (State.putEntry _ p q _).host.hostMem _ = _
      rw [hostMem_putEntry hqp, lget_lset]
      exact if_pos rfl

/-! ### Transfers (R456, R457) -/

section
variable {s : State} {r : CmdRef} {c : Cmd} {k : Qp}

theorem ref_of_cmd (h : s.cmd? r = some c) : c.ref = r := by simpa using List.find?_some h

/-- The state with a staging slot and a token given to a command, before its entry is written. -/
def State.withSlot (s : State) (r : CmdRef) (slot : Nat × Nat) : State :=
  ({ s with free := s.free + 1 }).modCmd r fun d =>
    { d with phase := .wantData, slot := some slot, token := some (w16 (Config.freeNat s.free)), since := s.sys.now }

theorem exec_transferReady {g : Nat} (h : outstanding s r c k) (hup : s.alive 6 = true) (hawake : s.asleep = false) (hph : c.phase = .wantSlot)
    (hroom : 0 < k.room) (hfit : fitFrom (s.stagingUsed r.part r.qp) k.desc.stgGran (cdiv c.dlen 65536) = some g) :
    exec (.transferReady r) s = next ((s.withSlot r (g, cdiv c.dlen 65536)).putEntry r.part r.qp (entryBytes r.tag r.qp 1 0 c.sqHead
      (k.desc.stgOff + g * 65536) (cdiv c.dlen 65536 * 65536) (Config.freeNat s.free % 65536) [])) := by
  obtain ⟨hp, hq, ht, hcmd, hqp⟩ := h
  have hroom' : (k.room == 0) = false := beq_false_of_ne (Nat.ne_of_gt hroom)
  simp only [exec, execTransferReady]
  rw [guardUnit_pos (refOk_of_lt hp hq ht), hcmd, hqp]
  simp only [hph, hup, hawake, hroom', hfit]
  rfl

theorem transferReady_gives_slot {g : Nat} (h : outstanding s r c k) (hup : s.alive 6 = true) (hawake : s.asleep = false) (hph : c.phase = .wantSlot)
    (hroom : 0 < k.room) (hfit : fitFrom (s.stagingUsed r.part r.qp) k.desc.stgGran (cdiv c.dlen 65536) = some g) :
    ∃ t d x, exec (.transferReady r) s = next t ∧ t.cmd? r = some d ∧ d.phase = .wantData ∧ d.slot = some (g, cdiv c.dlen 65536) ∧
      d.token = some (BitVec.ofNat 16 x) ∧
      lget t.host.hostMem (entryAt r.part k) = some (entryBytes r.tag r.qp 1 0 c.sqHead (k.desc.stgOff + g * 65536) (cdiv c.dlen 65536 * 65536)
        (x % 65536) [] k.phase) ∧ t.free = s.free + 1 ∧ { t with host := s.host, free := s.free } = s := by
  have hqp : (s.withSlot r (g, cdiv c.dlen 65536)).qp? r.part r.qp = some k := qp_of_outstanding (s := s) h
  have hcmd : (s.withSlot r (g, cdiv c.dlen 65536)).cmd? r = some _ := cmd_modCmd (s := { s with free := s.free + 1 }) _ (cmd_of_outstanding h) rfl
  have hframe := putEntry_frame hqp (entryBytes r.tag r.qp 1 0 c.sqHead (k.desc.stgOff + g * 65536) (cdiv c.dlen 65536 * 65536) (Config.freeNat s.free % 65536) [])
  refine ⟨_, _, Config.freeNat s.free, exec_transferReady h hup hawake hph hroom hfit, (cmd_congr_cmds (cmds_putEntry hqp _) r).trans hcmd, rfl, rfl, rfl, ?_,
    (congrArg State.free hframe :), (congrArg (fun t : State => { t with host := s.host, free := s.free }) hframe :)⟩
  rw [hostMem_putEntry hqp, lget_lset]
  exact if_pos rfl

/-- No DATA_DONE is read where the doorbell has announced no packet. -/
theorem exec_dataDone_unannounced (h : outstanding s r c k) (hnone : k.sqHead = k.sqTail) (tok : BitVec 16) : exec (.dataDone r tok) s = next s := by
  obtain ⟨hp, hq, ht, -, hqp⟩ := h
  simp only [exec, execDataDone]
  rw [guardUnit_pos (refOk_of_lt hp hq ht), hqp]
  dsimp only
  split
  · rfl
  · simp [hnone]

/-- A DATA_DONE packet that stands next in its ring is read as that. -/
theorem exec_dataDone {b : Bytes} {tok : BitVec 16} (ht : r.tag < 65536) (hpkt : packet s r.part r.qp k b) (hw0 : fld b 0 4 = 0x0F + r.tag * 2 ^ 16)
    (htok : fld b 0x10 4 = tok.toNat) : exec (.dataDone r tok) s = next (s.takePacket r.part r.qp k) := by
  obtain ⟨hp, hq, hqp, hreads, -, hslot, -⟩ := hpkt
  have hcode : fld b 0 1 = 0x0F := by
    have : fld b 0 4 = fld b 0 1 + 256 ^ 1 * fld b 1 3 := fld_add b 0 1 3
    have := fld_lt b 0 1
    omega
  have htag : fld b 2 2 = r.tag := by
    have : fld b 0 4 = fld b 0 2 + 256 ^ 2 * fld b 2 2 := fld_add b 0 2 2
    have := fld_lt b 0 2
    omega
  simp only [State.reads, Bool.and_eq_true, Bool.not_eq_true', bne_iff_ne, List.all_eq_true] at hreads
  obtain ⟨⟨⟨⟨hup, hawake⟩, hdel⟩, hann⟩, hfree⟩ := hreads
  have hnone : (s.cmdsOf r.part r.qp).any (fun c => c.phase == .wantSlot || c.phase == .wantBlocks) = false := by
    refine List.any_eq_false.mpr fun d hd => ?_
    simpa using hfree d hd
  simp only [exec, execDataDone]
  rw [guardUnit_pos (refOk_of_lt hp hq ht), hqp]
  simp [hup, hawake, hdel, hnone, hslot, hcode, htag, htok, hann]

theorem dataDone_matching {p q tag : Nat} {tok : BitVec 16} {c : Cmd} (h : s.cmd? { part := p, qp := q, tag := tag } = some c) (hph : c.phase = .wantData)
    (htok : c.token = some tok) :
    s.dataDone p q tag tok = s.modCmd { part := p, qp := q, tag := tag } fun d => { d with phase := .wantBlocks, token := none } := by
  simp [State.dataDone, h, hph, htok, ref_of_cmd h]

theorem dataDone_other {p q tag : Nat} {tok : BitVec 16} {c : Cmd} (h : s.cmd? { part := p, qp := q, tag := tag } = some c) (htok : c.token ≠ some tok) :
    s.dataDone p q tag tok = s.countErr (.nqp p) := by
  simp [State.dataDone, h, htok]

/-! ### Admission (R458, R462) -/

theorem bindCmd_low (hlow : c.opcode < 0x30) (hfb : c.opcode ≠ 0x0B) : s.bindCmd c = s := by
  have hgz : ¬ (0x31 ≤ c.opcode ∧ c.opcode ≤ 0x37) := by omega
  have hat : ¬ (c.opcode = 0x42 ∨ c.opcode = 0x43) := by omega
  rw [State.bindCmd, if_neg hgz, if_neg hfb, State.atAdmit, if_neg hat]

/-- The state with a command admitted under the next number. -/
def State.admittedNow (s : State) (c : Cmd) (res : Option (Nat × Nat)) : State :=
  (s.modHost fun h => { h with admissions := s.host.admissions + 1 }).modCmd c.ref fun d =>
    { d with data := c.data, adm := s.host.admissions + 1, res := res, phase := .admitted }

theorem admitIt_low (hlow : c.opcode < 0x30) (hfb : c.opcode ≠ 0x0B) (hadm : c.adm = 0) (res : Option (Nat × Nat)) : s.admitIt c res = s.admittedNow c res := by
  unfold State.admitIt
  simp only [hadm, if_true, ne_eq, not_true, false_and, if_false, bindCmd_low hlow hfb]
  rw [State.admittedNow, State.modHost, Nat.max_eq_right (Nat.le_succ _)]
  rfl

theorem cmd_admittedNow (h : s.cmd? r = some c) (res : Option (Nat × Nat)) :
    (s.admittedNow c res).cmd? r = some { c with adm := s.host.admissions + 1, res := res, phase := .admitted } := by
  obtain rfl := ref_of_cmd h
  exact cmd_modCmd (s := s.modHost fun l => { l with admissions := s.host.admissions + 1 }) _ h rfl

theorem exec_admission (h : outstanding s r c k) (hup : s.alive 6 = true) (hawake : s.asleep = false) (hph : c.phase = .wantBlocks) :
    exec (.admission r) s = next ((s.admitGo c k).unstall r.part) := by
  obtain ⟨hp, hq, ht, hcmd, hqp⟩ := h
  simp only [exec, execAdmission]
  rw [guardUnit_pos (refOk_of_lt hp hq ht), hcmd, hqp]
  simp [hph, hup, hawake]

/-- The end of a stall reaches the STALL bits alone. -/
theorem unstall_frame (s : State) (p : Nat) : { s.unstall p with sched := s.sched } = s := by
  unfold State.unstall
  split <;> rfl

theorem unstall_host (s : State) (p : Nat) : (s.unstall p).host = s.host := (congrArg State.host (unstall_frame s p) :)

/-- A command that waits without staged data, and that nothing fails, is admitted at once where it has no answer. -/
theorem admitGo_plain (hslot : c.slot = none) (hadm : c.adm = 0) (hcheck : s.admitCheck c = none) (hlow : c.opcode < 0x30) (hfb : c.opcode ≠ 0x0B)
    (hbody : s.bodyMax c = none) : s.admitGo c k = s.admittedNow c none := by
  simp [State.admitGo, State.withData, hslot, hcheck, hbody, admitIt_low hlow hfb hadm]

/-- With an answer it is admitted with the blocks of its largest one. -/
theorem admitGo_blocks {m a : Nat} (hslot : c.slot = none) (hadm : c.adm = 0) (hcheck : s.admitCheck c = none) (hlow : c.opcode < 0x30) (hfb : c.opcode ≠ 0x0B)
    (hbody : s.bodyMax c = some m) (hfit : fitFrom (s.answerUsed c.ref.part c.ref.qp k) k.desc.ansBlocks (cdiv (m + 64) 4096) = some a)
    (hsize : cdiv (m + 64) 4096 ≤ k.desc.ansBlocks) : s.admitGo c k = (s.admittedNow c (some (a, cdiv (m + 64) 4096))).modHost fun h =>
      { h with undef := h.undef ++ [(shareKey c.ref.part (k.desc.ansOff + a * 4096), cdiv (m + 64) 4096 * 4096)] } := by
  simp [State.admitGo, State.withData, hslot, hcheck, hbody, Nat.not_lt.mpr hsize, hfit, admitIt_low hlow hfb hadm]

/-- An answer that the answer area could never hold fails it. -/
theorem admitGo_tooLarge {m : Nat} (hslot : c.slot = none) (hcheck : s.admitCheck c = none) (hbody : s.bodyMax c = some m)
    (hsize : k.desc.ansBlocks < cdiv (m + 64) 4096) : s.admitGo c k = s.cmdFail c.ref 2 [] := by
  simp [State.admitGo, State.withData, hslot, hcheck, hbody, hsize]

end

/-- Settles O25: a slot, a DATA_DONE and an admission each change their own command. -/
theorem transfersAndAdmission : Obligations.TransfersAndAdmission := by
  intro s r c k h hup hawake
  refine ⟨fun g hph hroom hfit => transferReady_gives_slot h hup hawake hph hroom hfit, fun b tok hpkt hw0 hw1 hw2 htok hph => ?dataDone,
    fun tok hnone => exec_dataDone_unannounced h hnone tok, fun hph hslot hadm hcheck hlow hfb => ?admission⟩
  case dataDone =>
    have hcmd : s.cmd? r = some c := cmd_of_outstanding h
    obtain ⟨-, -, htag, -, -⟩ := h
    have htake := takePacket_dataDone hpkt htag hw0 hw1 hw2 htok
    refine ⟨(s.pastPacket r.part r.qp k).dataDone r.part r.qp r.tag tok, by rw [← htake]; exact exec_dataDone htag hpkt hw0 htok,
      by rw [← htake]; exact exec_commandPacket hpkt, ?_⟩
    by_cases hmatch : c.token = some tok
    · rw [dataDone_matching (s := s.pastPacket r.part r.qp k) hcmd hph hmatch]
      have hmod := cmd_modCmd_eq (s.pastPacket r.part r.qp k) r (f := fun d => { d with phase := .wantBlocks, token := none }) (hf := fun _ => rfl)
      exact ⟨qp_pastPacket hpkt, fun q hq => (hmod q).trans (if_neg hq), fun _ => ⟨cmd_modCmd (s := s.pastPacket r.part r.qp k) _ hcmd rfl, rfl⟩,
        fun hother => absurd hmatch hother⟩
    · rw [dataDone_other (s := s.pastPacket r.part r.qp k) hcmd hmatch]
      exact ⟨qp_pastPacket hpkt, fun _ _ => rfl, fun hsame => absurd hsame hmatch, fun _ => ⟨hcmd, errCnt_countErr_nqp _ _⟩⟩
  case admission =>
    have hcmd : s.cmd? r = some c := cmd_of_outstanding h
    have hex := exec_admission h hup hawake hph
    have hkept (t : State) : (t.unstall r.part).cmd? r = t.cmd? r := cmd_congr (unstall_host t _) r
    refine ⟨fun hbody => ?_, fun m a hbody hfit hsize => ?_, fun m hbody hsize => ?_⟩
    · rw [admitGo_plain hslot hadm hcheck hlow hfb hbody] at hex
      exact ⟨_, _, hex, (hkept _).trans (cmd_admittedNow hcmd none), rfl, rfl, by rw [unstall_host]; rfl, rfl, rfl⟩
    · rw [← ref_of_cmd hcmd] at hfit
      rw [admitGo_blocks hslot hadm hcheck hlow hfb hbody hfit hsize] at hex
      exact ⟨_, _, hex, (hkept _).trans (cmd_admittedNow hcmd _), rfl, rfl, rfl⟩
    · rw [admitGo_tooLarge hslot hcheck hbody hsize, ref_of_cmd hcmd] at hex
      exact ⟨_, hex, _, (hkept _).trans (cmd_modCmd _ hcmd rfl), rfl, rfl, rfl⟩

end Sys2Proof.Machine

/-! PROOF. Answers and their completion entries (11 R447, R453, R459, R463, R464; Table 11.11): the record that an answer is published as, and what is left
of a command when its entry is written. -/

namespace Sys2Proof.Machine

open Sys2Proof.Claims

/-! ### The answer record (R464, Table 11.11) -/

theorem crcBit_lt (n : Nat) {x : Nat} (hx : x < 2 ^ 32) : crcBit n x < 2 ^ 32 := by
  induction n generalizing x with
  | zero => exact hx
  | succ n ih =>
    have hhalf : x / 2 < 2 ^ 32 := by omega
    rw [crcBit]
    split
    · exact ih (Nat.xor_lt_two_pow hhalf (by decide))
    · exact ih hhalf

theorem crc32c_lt (bs : Bytes) : crc32c bs < 2 ^ 32 := by
  have hfold : bs.foldl (fun c b => crcBit 8 (Nat.xor c b.toNat)) 0xFFFFFFFF < 2 ^ 32 :=
    List.foldlRecOn bs _ (motive := fun x : Nat => x < 2 ^ 32) (by decide) fun x hx b _ =>
      crcBit_lt 8 (Nat.xor_lt_two_pow hx (b.isLt.trans (by decide)))
  exact Nat.xor_lt_two_pow hfold (by decide)

/-- An answer record is the CRC of what follows it, 60 bytes of header, and the body. -/
theorem answerRecord_eq (c : Cmd) (seq : Nat) (body : Bytes) : ∃ head : Bytes, head.length = 60 ∧
    answerRecord c seq body = leBytes 4 (crc32c (head ++ body)) ++ (head ++ body) :=
  ⟨leBytes 4 (64 + body.length) ++ leBytes 1 c.opcode ++ zeros 1 ++ leBytes 2 c.ref.tag ++ leBytes 4 c.ref.qp ++ leBytes 8 (if c.ver = 1 then 0 else seq) ++ zeros 40,
    by simp [zeros], rfl⟩

theorem length_answerRecord (c : Cmd) (seq : Nat) (body : Bytes) : (answerRecord c seq body).length = 64 + body.length := by
  obtain ⟨head, hlen, hrec⟩ := answerRecord_eq c seq body
  rw [hrec, List.length_append, List.length_append, length_leBytes, hlen]
  omega

theorem crc_answerRecord (c : Cmd) (seq : Nat) (body : Bytes) : fld (answerRecord c seq body) 0 4 = crc32c ((answerRecord c seq body).drop 4) := by
  obtain ⟨head, -, hrec⟩ := answerRecord_eq c seq body
  rw [hrec, List.drop_left' (length_leBytes 4 _), fld, sub_append_left _ (length_leBytes 4 _), leNat_leBytes]
  exact Nat.mod_eq_of_lt (crc32c_lt _)

theorem body_answerRecord (c : Cmd) (seq : Nat) (body : Bytes) : (answerRecord c seq body).drop 64 = body := by
  obtain ⟨head, hlen, hrec⟩ := answerRecord_eq c seq body
  rw [hrec, ← List.append_assoc]
  exact List.drop_left' (by rw [List.length_append, length_leBytes, hlen])

/-! ### Share bytes stored where no copy of a line has failed (R433) -/

theorem copiesClean_congr {s t : State} (h : t.dram = s.dram) (l : Nat) : t.copiesClean l = s.copiesClean l := by simp only [State.copiesClean, h]

theorem setCopy_frame (s : State) (l : Nat) (second : Bool) (bs : Bytes) : { s.setCopy l second bs with dram := s.dram, ecc := s.ecc } = s := by
  unfold State.setCopy
  dsimp only
  split <;> rfl

theorem putCopies_frame (s : State) (l : Nat) : { s.putCopies l with dram := s.dram, ecc := s.ecc } = s := by
  unfold State.putCopies
  split
  · rfl
  · dsimp only
    exact (congrArg (fun t : State => { t with dram := s.dram, ecc := s.ecc }) (setCopy_frame (s.setCopy l false _) l true _)).trans (setCopy_frame s l false _)

theorem foldl_putCopies_frame (l : Nat) (is : List Nat) (s : State) :
    { is.foldl (fun t i => t.putCopies (l + i)) s with dram := s.dram, ecc := s.ecc } = s :=
  List.foldlRecOn is _ (motive := fun t : State => { t with dram := s.dram, ecc := s.ecc } = s) rfl fun t ht i _ =>
    (congrArg (fun u : State => { u with dram := s.dram, ecc := s.ecc }) (putCopies_frame t (l + i))).trans ht

/-- A store changes the share's bytes; what it stores in the copies of the lines reaches the DRAM and an armed flip alone. -/
theorem sharePut_clean {s : State} (hclean : ∀ l, s.copiesClean l = true) (key : Nat) (bs : Bytes) :
    ∃ lost, { s.sharePut key bs with dram := s.dram, ecc := s.ecc } =
      s.modHost fun h => { h with share := wrBytes h.share key bs, undef := undefSub h.undef key bs.length, lost := lost } := by
  refine ⟨s.host.lost.filter fun x => ! (decide (key / 64 ≤ x) && decide (x < key / 64 + ((key + bs.length + 63) / 64 - key / 64))), ?_⟩
  unfold State.sharePut
  simp only [lineSpan, hclean, Bool.not_true, Bool.false_and, List.filter_false, List.foldl_nil]
  exact foldl_putCopies_frame (key / 64) _ (s.modHost _)

theorem sharePut_sec {s : State} (hclean : ∀ l, s.copiesClean l = true) (key : Nat) (bs : Bytes) : (s.sharePut key bs).sec = s.sec := by
  obtain ⟨lost, hput⟩ := sharePut_clean hclean key bs
  exact (congrArg State.sec hput :)

theorem sharePut_host {s : State} (hclean : ∀ l, s.copiesClean l = true) (key : Nat) (bs : Bytes) : ∃ lost,
    (s.sharePut key bs).host = { s.host with share := wrBytes s.host.share key bs, undef := undefSub s.host.undef key bs.length, lost := lost } := by
  obtain ⟨lost, hput⟩ := sharePut_clean hclean key bs
  exact ⟨lost, (congrArg State.host hput :)⟩

/-! ### Publishing an answer (R463) -/

theorem clearsRun_idle {s : State} (h : s.sec.clears = []) : s.clearsRun = s := by
  rw [State.clearsRun, h]
  rfl

section
variable {s : State} {r : CmdRef} {c : Cmd} {k : Qp}

/-- A command as the publication of its answer, `len` bytes long, leaves it. -/
def Cmd.publishedAt (c : Cmd) (off len crc now : Nat) (blocks : Nat × Nat) : Cmd :=
  { c with phase := .done, res := some blocks, ansRec := some (off, len, crc), since := now }

theorem modCmd_host (s : State) (r : CmdRef) (f : Cmd → Cmd) :
    (s.modCmd r f).host = { s.host with cmds := s.host.cmds.map fun c => if c.ref == r then f c else c } := rfl

/-- The state with a record stored at an offset of the share and its command waiting for its completion entry. -/
def State.withRecord (s : State) (c : Cmd) (off : Nat) (blocks : Nat × Nat) (rcd : Bytes) : State :=
  let t := (s.modHost fun h => { h with ansSeq := mset 0 h.ansSeq c.ref.part (mget 0 s.host.ansSeq c.ref.part + 1) }).sharePut (shareKey c.ref.part off) rcd
  (t.modHost fun h => { h with undef := h.undef ++ [(shareKey c.ref.part off, rcd.length)] }).modCmd c.ref fun d =>
    d.publishedAt off rcd.length (fld rcd 0 4) s.sys.now (blocks.1, min blocks.2 (cdiv rcd.length 4096))

theorem publish_eq {a n : Nat} (hres : c.res = some (a, n)) (b : Bytes) : s.publish c k b =
    s.withRecord c (k.desc.ansOff + a * 4096) (a, n) (answerRecord c (mget 0 s.host.ansSeq c.ref.part + 1) b) := by
  unfold State.publish
  extract_lets seq rcd
  change _ = s.withRecord c (k.desc.ansOff + a * 4096) (a, n) rcd
  clear_value rcd
  rw [hres]
  rfl

/-- What a record stored leaves of the link: the numbers of answers, the share, the record's command, and the rings. -/
theorem withRecord_leaves (hclean : ∀ l, s.copiesClean l = true) (off : Nat) (blocks : Nat × Nat) (rcd : Bytes) :
    (s.withRecord c off blocks rcd).sec = s.sec ∧ (s.withRecord c off blocks rcd).host.qps = s.host.qps ∧
      (s.withRecord c off blocks rcd).host.ansSeq = mset 0 s.host.ansSeq c.ref.part (mget 0 s.host.ansSeq c.ref.part + 1) ∧
      (s.withRecord c off blocks rcd).host.share = wrBytes s.host.share (shareKey c.ref.part off) rcd ∧
      (s.withRecord c off blocks rcd).host.cmds = (s.modCmd c.ref fun d =>
        d.publishedAt off rcd.length (fld rcd 0 4) s.sys.now (blocks.1, min blocks.2 (cdiv rcd.length 4096))).host.cmds := by
  have hclean' := fun l => (copiesClean_congr (modHost_dram s fun h => { h with ansSeq := mset 0 h.ansSeq c.ref.part (mget 0 s.host.ansSeq c.ref.part + 1) }) l).trans (hclean l)
  obtain ⟨lost, hhost⟩ := sharePut_host hclean' (shareKey c.ref.part off) rcd
  have hsec := sharePut_sec hclean' (shareKey c.ref.part off) rcd
  unfold State.withRecord
  refine ⟨?_, ?_⟩
  · rw [modCmd_sec, modHost_sec, hsec, modHost_sec]
  · simp only [modCmd_host, modHost_host, hhost, and_self]

theorem exec_answerPublish {b : Bytes} (h : outstanding s r c k) (hup : s.alive 6 = true) (hsilent : c.silent = false) (hph : c.phase = .worked)
    (hbody : c.body = some b) : exec (.answerPublish r) s = next (s.publish c k b).clearsRun := by
  obtain ⟨hp, hq, ht, hcmd, hqp⟩ := h
  simp only [exec, execAnswerPublish]
  rw [guardUnit_pos (refOk_of_lt hp hq ht), hcmd]
  simp only [hph, hup, hsilent, hbody, hqp]
  rfl

theorem answerPublish_publishes {b : Bytes} {a n : Nat} (h : outstanding s r c k) (hup : s.alive 6 = true) (hsilent : c.silent = false)
    (hclears : s.sec.clears = []) (hclean : ∀ l, s.copiesClean l = true) (hph : c.phase = .worked) (hbody : c.body = some b) (hres : c.res = some (a, n)) :
    let rcd := answerRecord c (mget 0 s.host.ansSeq r.part + 1) b
    let off := k.desc.ansOff + a * 4096
    ∃ t, exec (.answerPublish r) s = next t ∧ mget 0 t.host.ansSeq r.part = mget 0 s.host.ansSeq r.part + 1 ∧
      t.cmd? r = some { c with phase := .done, res := some (a, min n (cdiv (64 + b.length) 4096)), ansRec := some (off, 64 + b.length, fld rcd 0 4), since := s.sys.now } ∧
      (∀ i, i < 64 + b.length → rdByte t.host.share (shareKey r.part off + i) = rcd.getD i 0) ∧
      (∀ i, i < shareKey r.part off ∨ shareKey r.part off + 64 + b.length ≤ i → rdByte t.host.share i = rdByte s.host.share i) ∧
      t.host.qps = s.host.qps ∧ ∀ q, q ≠ r → t.cmd? q = s.cmd? q := by
  intro rcd off
  have hcmd : s.cmd? r = some c := cmd_of_outstanding h
  have hlen : rcd.length = 64 + b.length := length_answerRecord _ _ _
  obtain ⟨hsec, hqps, hseq, hshare, hcmds⟩ := withRecord_leaves (c := c) hclean off (a, n) rcd
  have hpub : s.publish c k b = s.withRecord c off (a, n) rcd := by rw [publish_eq hres, ref_of_cmd hcmd]
  rw [ref_of_cmd hcmd] at hseq hshare hcmds
  rw [hlen] at hcmds
  refine ⟨s.withRecord c off (a, n) rcd, ?_, ?_, ?_, fun i hi => ?_, fun i hi => ?_, hqps, fun q hq => ?_⟩
  · rw [exec_answerPublish h hup hsilent hph hbody, hpub, clearsRun_idle (by rw [hsec, hclears])]
  · rw [hseq, mget_mset_self]
  · rw [cmd_congr_cmds hcmds]
    exact cmd_modCmd _ hcmd rfl
  · rw [hshare, rdByte_wrBytes, if_pos (by omega), Nat.add_sub_cancel_left]
  · rw [hshare, rdByte_wrBytes, if_neg (by omega)]
  · rw [cmd_congr_cmds hcmds]
    exact cmd_modCmd_of_ne s hq fun _ => rfl

/-! ### The completion entry (R446, R453, R459) -/

theorem cmd_forget (s : State) (r q : CmdRef) : (s.forget r).cmd? q = if q = r then none else s.cmd? q := by
  unfold State.cmd? State.forget
  rw [modHost_host, List.find?_filter]
  split
  · next hq =>
    refine List.find?_eq_none.mpr fun d _ => ?_
    simp [hq]
  · next hq =>
    congr 1
    funext d
    by_cases hd : d.ref = q
    · simp [hd, hq]
    · simp [hd]

/-- The answer of a command, if it has one, is counted among the published ones, and its bytes can be read (R463). -/
def State.answerVisible (s : State) (c : Cmd) : State :=
  match c.ansRec, c.res with
  | some (off, len, _), some x =>
    let u := s.modQp c.ref.part c.ref.qp fun k => { k with published := k.published ++ [x] }
    if c.spoiled then u else u.modHost fun h => { h with undef := undefSub h.undef (shareKey c.ref.part off) len }
  | _, _ => s

theorem complete_eq (s : State) (c : Cmd) : s.complete c = ((((s.answerVisible c).closeCmd c).forget c.ref).unstall c.ref.part).clearsRun := rfl

theorem answerVisible_leaves (s : State) (c : Cmd) : onlyHost s (s.answerVisible c) ∧
    { (s.answerVisible c).host with qps := s.host.qps, undef := s.host.undef } = s.host := by
  unfold State.answerVisible
  split
  · dsimp only
    split <;> exact ⟨rfl, rfl⟩
  · exact ⟨rfl, rfl⟩

theorem qp_answerVisible (hqp : s.qp? c.ref.part c.ref.qp = some k) : ∃ pub, (s.answerVisible c).qp? c.ref.part c.ref.qp = some { k with published := pub } ∧
    (pub = k.published ∨ ∃ x, c.res = some x ∧ pub = k.published ++ [x]) := by
  unfold State.answerVisible
  split
  · next x _ hres =>
    refine ⟨k.published ++ [x], ?_, .inr ⟨x, hres, rfl⟩⟩
    dsimp only
    split <;> exact qp_modQp hqp fun y => { y with published := y.published ++ [x] }
  · exact ⟨k.published, hqp, .inl rfl⟩

/-- The completion of a command that closes no step and lets no clear go on is the end of the command alone. -/
theorem complete_plain (hop : c.opcode ≠ 0x54) (hclears : s.sec.clears = []) : s.complete c = ((s.answerVisible c).forget c.ref).unstall c.ref.part := by
  have hclose : (s.answerVisible c).closeCmd c = s.answerVisible c := by simp [State.closeCmd, hop]
  have hsec := unstall_frame ((s.answerVisible c).forget c.ref) c.ref.part
  rw [complete_eq, hclose]
  exact clearsRun_idle ((congrArg (·.sec.clears) hsec :).trans ((congrArg (·.sec.clears) (answerVisible_leaves s c).1 :).trans hclears))

theorem exec_completionEntryWrite (h : outstanding s r c k) (hup : s.alive 6 = true) (hsilent : c.silent = false) (hph : c.phase = .done) :
    exec (.completionEntryWrite r) s = next (if k.room = 0 then s else
      (s.putEntry r.part r.qp (entryBytes r.tag r.qp 0 c.status c.sqHead (c.ansRec.getD (0, 0, 0)).1 (c.ansRec.getD (0, 0, 0)).2.1
        (c.ansRec.getD (0, 0, 0)).2.2 c.result)).complete c) := by
  obtain ⟨hp, hq, ht, hcmd, hqp⟩ := h
  simp only [exec, execCompletionEntryWrite]
  rw [guardUnit_pos (refOk_of_lt hp hq ht), hcmd]
  simp only [hph, hup, hsilent, hqp, bne_self_eq_false, Bool.not_true, Bool.or_self, Bool.false_eq_true, if_false]
  split <;> rfl

theorem completionEntryWrite_completes (h : outstanding s r c k) (hup : s.alive 6 = true) (hsilent : c.silent = false) (hclears : s.sec.clears = [])
    (hph : c.phase = .done) (hroom : 0 < k.room) (hop : c.opcode ≠ 0x54) :
    let (off, len, crc) := c.ansRec.getD (0, 0, 0)
    ∃ t k', exec (.completionEntryWrite r) s = next t ∧ t.cmd? r = none ∧ (∀ q, q ≠ r → t.cmd? q = s.cmd? q) ∧
      lget t.host.hostMem (entryAt r.part k) = some (entryBytes r.tag r.qp 0 c.status c.sqHead off len crc c.result k.phase) ∧
      (∀ j, j ≠ entryAt r.part k → lget t.host.hostMem j = lget s.host.hostMem j) ∧ t.qp? r.part r.qp = some k' ∧ entryTaken k k' ∧
      (k'.published = k.published ∨ ∃ x, c.res = some x ∧ k'.published = k.published ++ [x]) ∧ t.host.share = s.host.share ∧ t.dram = s.dram ∧ t.cores = s.cores := by
  have hex := exec_completionEntryWrite h hup hsilent hph
  obtain ⟨-, -, -, hcmd, hqp⟩ := h
  rw [if_neg (Nat.ne_of_gt hroom)] at hex
  generalize c.ansRec.getD (0, 0, 0) = rec at hex ⊢
  obtain ⟨off, len, crc⟩ := rec
  generalize hmk : entryBytes r.tag r.qp 0 c.status c.sqHead off len crc c.result = mk at hex
  have hframe : onlyHost s (s.putEntry r.part r.qp mk) := putEntry_frame hqp mk
  have hclears' : (s.putEntry r.part r.qp mk).sec.clears = [] := (congrArg (·.sec.clears) hframe :).trans hclears
  rw [complete_plain hop hclears', ref_of_cmd hcmd] at hex
  have hqp' := qp_putEntry hqp mk
  have hmem := hostMem_putEntry hqp mk
  have hcmds := cmds_putEntry hqp mk
  have hshare := share_putEntry hqp mk
  generalize s.putEntry r.part r.qp mk = u at hex hframe hqp' hmem hcmds hshare
  obtain ⟨hvis, hhost⟩ := answerVisible_leaves u c
  obtain ⟨pub, hpub, hwhich⟩ := qp_answerVisible (c := c) (by rw [ref_of_cmd hcmd]; exact hqp')
  rw [ref_of_cmd hcmd] at hpub
  have hend (q : CmdRef) : (((u.answerVisible c).forget r).unstall r.part).cmd? q = if q = r then none else s.cmd? q := by
    rw [cmd_congr (unstall_host _ _), cmd_forget, cmd_congr_cmds ((congrArg HostL.cmds hhost :).trans hcmds)]
  have hmem' : (((u.answerVisible c).forget r).unstall r.part).host.hostMem = lset s.host.hostMem (entryAt r.part k) (mk k.phase) := by
    rw [unstall_host, ← hmem]
    exact (congrArg HostL.hostMem hhost :)
  refine ⟨_, { k.entered with published := pub }, hex, (hend r).trans (if_pos rfl), fun q hq => (hend q).trans (if_neg hq), ?_, fun j hj => ?_, ?_,
    entryTaken_entered k, hwhich, ?_, ?_, ?_⟩
  · rw [hmem', lget_lset, if_pos rfl, ← hmk]
  · rw [hmem', lget_lset, if_neg hj]
  · rw [qp_congr (congrArg HostL.qps (unstall_host _ _))]
    exact hpub
  · rw [unstall_host]
    exact (congrArg HostL.share hhost :).trans hshare
  · exact (congrArg State.dram (unstall_frame ((u.answerVisible c).forget r) r.part) :).trans <| (congrArg State.dram hvis :).trans (congrArg State.dram hframe :)
  · exact (congrArg State.cores (unstall_frame ((u.answerVisible c).forget r) r.part) :).trans <| (congrArg State.cores hvis :).trans (congrArg State.cores hframe :)

end

/-- Settles O26: the record stands in the reserved blocks, the entry in the ring, and the command is gone. -/
theorem answersAndCompletions : Obligations.AnswersAndCompletions := by
  intro s r c k h hup hsilent hclears hclean
  refine ⟨fun b a n hph hbody hres => ?_, fun hph hroom hop => completionEntryWrite_completes h hup hsilent hclears hph hroom hop, fun hph hfull => ?_⟩
  · exact ⟨length_answerRecord _ _ _, crc_answerRecord _ _ _, body_answerRecord _ _ _,
      answerPublish_publishes h hup hsilent hclears hclean hph hbody hres⟩
  · rw [exec_completionEntryWrite h hup hsilent hph, if_pos hfull]

end Sys2Proof.Machine

/-! PROOF. Power states, IDENTIFY and ABORT (11 R449, R476, R477, R480, R481): the entry of a power state, the answer's fields, and the command that an
ABORT finds. -/

namespace Sys2Proof.Machine

open Sys2Proof.Claims

/-! ### Power states (R480, R481) -/

theorem chooseG_frame (s : State) : { s.chooseG with pwr := s.pwr, free := s.free } = s := by
  unfold State.chooseG
  split <;> rfl

/-- A change of the effective cap reaches the ratio G alone. -/
theorem capStep_frame (s : State) (f : State → State) : { s.capStep f with pwr := (f s).pwr, free := (f s).free } = f s := by
  unfold State.capStep
  dsimp only
  split
  · rfl
  · exact chooseG_frame (f s)

section
variable {s : State} {r : CmdRef} {c : Cmd}

/-- The state with the entry of a power state begun; a cap is in force at once. -/
def State.powerEntering (s : State) (r : CmdRef) (k : Nat) : State :=
  let t := s.modHost fun h => { h with entering := some (k, r) }
  if k ≤ 2 then t.capStep fun x => x.modHost fun h => { h with power := k } else t

theorem exec_pwrSet (h : starts s r 0x03 c) : exec (.pwrSet r) s = next (
    if s.host.entering.isSome then (running s r).cmdFail r 7 [] else (running s r).powerEntering r c.obj) := by
  simp only [exec, execPwrSet]
  exact startCmd_starts h _

theorem powerEntering_frame (s : State) (r : CmdRef) (k : Nat) : { s.powerEntering r k with pwr := s.pwr, free := s.free } =
    s.modHost fun h => { h with entering := some (k, r), power := if k ≤ 2 then k else h.power } := by
  unfold State.powerEntering
  dsimp only
  split
  · next hk =>
    refine (congrArg (fun t : State => { t with pwr := s.pwr, free := s.free }) (capStep_frame (s.modHost fun h => { h with entering := some (k, r) })
      fun x => x.modHost fun h => { h with power := k }) :).trans ?_
    simp only [State.modHost]
  · simp only [State.modHost]

/-- Where no SQ_TAIL write is held, the end of an entry lets none through. -/
theorem releaseTails_idle (h : ∀ e ∈ s.host.qps, e.2.heldTail = none) :
    s.releaseTails = s.modHost fun l => { l with entering := none, tailHeld := false } := by
  unfold State.releaseTails
  refine List.foldlRecOn _ _ (motive := fun t : State => t = s.modHost fun l => { l with entering := none, tailHeld := false }) rfl fun t ht e he => ?_
  rw [h e he]
  exact ht

/-- The state as power state `k` is entered. -/
def State.enterPower (s : State) (k : Nat) : State :=
  let t := s.capStep fun x => x.modHost fun h => { h with power := k }
  let u := if 3 ≤ k then t.modDram fun d => { d with selfRefresh := List.range 640 } else t
  if k = 4 then u.saveBins else u

theorem saveBins_host (s : State) : s.saveBins.host = s.host := rfl

theorem enterPower_host (s : State) (k : Nat) : (s.enterPower k).host = { s.host with power := k } := by
  have hcap : (s.capStep fun x => x.modHost fun h => { h with power := k }).host = { s.host with power := k } :=
    (congrArg State.host (capStep_frame s _) :)
  unfold State.enterPower
  generalize s.capStep _ = t at hcap ⊢
  refine Eq.trans ?_ hcap
  have hdram : (if 3 ≤ k then t.modDram fun d => { d with selfRefresh := List.range 640 } else t).host = t.host := by
    split
    · exact modDram_host t _
    · rfl
  dsimp only
  split
  · exact (saveBins_host _).trans hdram
  · exact hdram

theorem qps_enterPower (s : State) (k : Nat) : (s.enterPower k).host.qps = s.host.qps := by rw [enterPower_host]

theorem cmds_enterPower (s : State) (k : Nat) : (s.enterPower k).host.cmds = s.host.cmds := by rw [enterPower_host]

theorem power_enterPower (s : State) (k : Nat) : (s.enterPower k).host.power = k := by rw [enterPower_host]

theorem exec_powerStateEntered {k : Nat} (hent : s.host.entering = some (k, r)) (hup : s.alive 6 = true) (hmay : s.mayEnter k r = true) :
    exec .powerStateEntered s = next ((s.enterPower k).cmdDone r (leBytes 4 k) none).releaseTails := by
  simp only [exec, execPowerStateEntered, hent, hup, hmay]
  rfl

theorem powerStateEntered_enters {k : Nat} (hent : s.host.entering = some (k, r)) (hup : s.alive 6 = true) (hcmds : s.host.cmds = [c]) (hr : c.ref = r)
    (hqps : ∀ e ∈ s.host.qps, e.2.sqHead = e.2.sqTail ∧ e.2.heldTail = none) (hbuf : k = 4 → s.gr.slots = [] ∧ s.gr.jseq ≤ s.gr.jdur) :
    ∃ t, exec .powerStateEntered s = next t ∧ t.host.power = k ∧ t.host.entering = none ∧ t.host.tailHeld = false ∧ ended t r 0 (leBytes 4 k) := by
  have hbuffer : (k != 4 || (s.gr.slots.isEmpty && decide (s.gr.jseq ≤ s.gr.jdur))) = true := by
    by_cases hk : k = 4
    · obtain ⟨hslots, hdur⟩ := hbuf hk
      simp [hslots, hdur]
    · simp [hk]
  have hrings : (s.host.qps.all fun e => e.2.sqHead == e.2.sqTail) = true := by
    refine List.all_eq_true.mpr fun e he => ?_
    simp [(hqps e he).1]
  have hmay : s.mayEnter k r = true := by
    rw [State.mayEnter, hcmds, hrings, hbuffer]
    simp [hr]
  have hidle : ∀ e ∈ ((s.enterPower k).cmdDone r (leBytes 4 k) none).host.qps, e.2.heldTail = none := by
    intro e he
    have he' : e ∈ (s.enterPower k).host.qps := he
    rw [qps_enterPower] at he'
    exact (hqps e he').2
  have hcmd : (s.enterPower k).cmd? r = some c := by
    rw [cmd_congr_cmds (cmds_enterPower s k), State.cmd?, hcmds]
    simp [hr]
  refine ⟨_, exec_powerStateEntered hent hup hmay, ?_⟩
  rw [releaseTails_idle hidle]
  exact ⟨power_enterPower s k, rfl, rfl, cmdDone_ended ⟨c, hcmd⟩ _⟩

/-! ### IDENTIFY (R449) -/

/-- A field in its place among the bytes of a record. -/
theorem fld_middle {a : Bytes} {o n v : Nat} (b : Bytes) (ho : a.length = o) (hv : v < 256 ^ n) : fld (a ++ (leBytes n v ++ b)) o n = v := by
  have hsub : sub (a ++ (leBytes n v ++ b)) o n = sub (leBytes n v ++ b) 0 n := by
    rw [sub, sub, List.drop_left' ho, List.drop_zero]
  rw [fld, hsub, sub_append_left b (length_leBytes n v), leNat_leBytes, Nat.mod_eq_of_lt hv]

theorem length_identity (s : State) (p : Nat) : (s.identity p).length = 64 := by
  simp [State.identity, zeros]

theorem part_identity (s : State) {p : Nat} (hp : p < 16) : fld (s.identity p) 4 4 = p := by
  simp only [State.identity, List.append_assoc]
  rw [← List.append_assoc (leBytes 1 _) (leBytes 1 _), ← List.append_assoc _ (zeros 2)]
  exact fld_middle _ (by simp [zeros]) (by omega)

theorem share_identity (s : State) {p : Nat} (hsize : s.shareSize p < 2 ^ 64) : fld (s.identity p) 0x20 8 = s.shareSize p := by
  unfold State.identity
  dsimp only
  rw [List.append_assoc, List.append_assoc]
  exact fld_middle _ (by simp [zeros]) (by omega)

theorem exec_identify (h : starts s r 0x08 c) : exec (.identify r) s = next ((running s r).cmdDone r [] (some (s.identity r.part))) := by
  simp only [exec, execIdentify]
  exact startCmd_starts h _

/-! ### ABORT (R476, R477) -/

/-- A command that waits for its admission is caught before it starts. -/
theorem abortCmd_waiting {d : Cmd} (hph : d.phase = .wantBlocks) : s.caught d = 1 ∧ s.abortCmd d = s.cmdFail d.ref 9 [] := by
  have hcaught : s.caught d = 1 := by simp [State.caught, hph]
  refine ⟨hcaught, ?_⟩
  simp [State.abortCmd, hcaught, State.stopWork, stopResult, hph]

/-- An ABORT waits while the command that it found is outstanding. -/
theorem abortWait_outstanding {d : Cmd} {q : CmdRef} (hq : q = { part := c.ref.part, qp := c.obj, tag := c.p1 }) (hd : s.cmd? q = some d)
    (hseq : d.seq = c.work.getD 1 0) (hsilent : d.silent = false) (hother : q ≠ c.ref) : s.abortWait c = s := by
  have href := ref_of_cmd hd
  have hany : (s.host.cmds.any fun x => x.ref == q && x.seq == c.work.getD 1 0 && ! x.silent) = true :=
    List.any_eq_true.mpr ⟨d, List.mem_of_find?_eq_some hd, by simp [href, hseq, hsilent]⟩
  unfold State.abortWait
  simp only [← hq, hany, Bool.and_true, bne_iff_ne, ne_eq, hother, not_false_iff, if_true]

theorem ref_of_starts {op : Nat} (h : starts s r op c) : c.ref = r := by
  obtain ⟨-, -, -, href, -⟩ := h
  exact href

theorem cmd_running_of_ne (s : State) {r q : CmdRef} (hq : q ≠ r) : (running s r).cmd? q = s.cmd? q := (onlyCmd_running s r).2 q hq

/-- A command that failed is done, and keeps its place in the order. -/
theorem cmd_cmdFail {d : Cmd} (hd : s.cmd? r = some d) (status : Nat) (result : Bytes) : ∃ e, (s.cmdFail r status result).cmd? r = some e ∧
    e.phase = .done ∧ e.status = status ∧ e.res = none ∧ e.seq = d.seq ∧ e.silent = d.silent :=
  ⟨_, cmd_modCmd _ hd rfl, rfl, rfl, rfl, rfl, rfl⟩

theorem exec_abort_none (h : starts s r 0x09 c) (hnone : s.cmd? { part := r.part, qp := c.obj, tag := c.p1 } = none) :
    exec (.abort r) s = next ((running s r).cmdDone r [0] none) := by
  have hrun : (running s r).cmd? { part := r.part, qp := c.obj, tag := c.p1 } = none := by
    rw [running, cmd_modCmd_eq (f := fun d => { d with phase := .running }) s r _ fun _ => rfl, hnone]
    exact ite_self _
  simp only [exec, execAbort]
  rw [stepCmd_starts h, hrun]

/-- An ABORT of a command that waits for its admission fails that one with status aborted, and waits for its completion. -/
theorem exec_abort_waiting {d : Cmd} {q : CmdRef} (h : starts s r 0x09 c) (hq : q = { part := r.part, qp := c.obj, tag := c.p1 }) (hd : s.cmd? q = some d)
    (hph : d.phase = .wantBlocks) (hsilent : d.silent = false) (hother : q ≠ r) :
    exec (.abort r) s = next (((running s r).cmdFail q 9 []).modCmd r fun x => { x with work := [1, d.seq] }) := by
  have hcr := ref_of_starts h
  have href := ref_of_cmd hd
  have hself : (d.ref == r) = false := beq_false_of_ne (href.trans_ne hother)
  have hrun := (cmd_running_of_ne s hother).trans hd
  obtain ⟨hcaught, habort⟩ := abortCmd_waiting (s := running s r) hph
  obtain ⟨e, hfailed, -, -, -, hseq, hsil⟩ := cmd_cmdFail hrun 9 []
  have hkept := (cmd_modCmd_of_ne _ hother (f := fun x => { x with work := [1, d.seq] }) fun _ => rfl).trans hfailed
  simp only [exec, execAbort]
  rw [stepCmd_starts h, ← hq, hrun]
  dsimp only
  rw [hself, if_neg Bool.false_ne_true, hcaught, habort, href]
  exact congrArg next (abortWait_outstanding (c := { c with work := [1, d.seq] }) (by rw [hq, hcr]) hkept hseq (hsil.trans hsilent) (hother.trans_eq hcr.symm))

end

/-- Settles O30: each command is one change of the link's power state, or of its own and the aborted command. -/
theorem powerStatesAndAborts : Obligations.PowerStatesAndAborts := by
  refine ⟨fun s r c h => ⟨fun hidle => ?begins, fun hbusy => ?busy⟩, fun s r c k hent hup hcmds hr _ hqps hbuf =>
    powerStateEntered_enters hent hup hcmds hr hqps hbuf, fun s => ⟨fun hup hent => ?limit, fun hnone => ?noLimit⟩, fun s r c h => ?identify,
    fun s r c h => ⟨fun hnone => ?abortNone, fun d hd hph hsilent hother => ?abortWaiting⟩⟩
  case begins =>
    have hframe := powerEntering_frame (running s r) r c.obj
    have hcmd : ((running s r).powerEntering r c.obj).cmd? r = some { c with phase := .running } :=
      (cmd_congr_cmds (congrArg (·.host.cmds) hframe :) r).trans (cmd_running h)
    refine ⟨_, (exec_pwrSet h).trans (congrArg next (if_neg (by simp [hidle]))), (congrArg (·.host.entering) hframe :), (congrArg (·.host.power) hframe :),
      ⟨_, hcmd, rfl⟩, (congrArg State.cores hframe :), (congrArg State.dram hframe :)⟩
  case busy =>
    exact ⟨_, (exec_pwrSet h).trans (congrArg next (if_pos hbusy)), cmdFail_ended (exists_cmd_running h) 7 [],
      onlyCmd_trans (onlyCmd_running s r) (onlyCmd_cmdFail _ r 7 [])⟩
  case limit =>
    simp only [exec, execEntryLimit, hup, hent]
    rfl
  case noLimit =>
    simp [exec, execEntryLimit, hnone]
  case identify =>
    exact ⟨_, s.identity r.part, exec_identify h, cmdDone_answered (exists_cmd_running h) [] _, length_identity s _, part_identity s h.1, share_identity s,
      onlyCmd_trans (onlyCmd_running s r) (onlyCmd_cmdDone _ r [] _)⟩
  case abortNone =>
    exact ⟨_, exec_abort_none h hnone, cmdDone_ended (exists_cmd_running h) [0], onlyCmd_trans (onlyCmd_running s r) (onlyCmd_cmdDone _ r [0] none)⟩
  case abortWaiting =>
    have hne : ({ part := r.part, qp := c.obj, tag := c.p1 } : CmdRef) ≠ r := fun heq => hother (by rw [← heq])
    obtain ⟨e, hfailed, hphase, hstatus, hres, -, -⟩ := cmd_cmdFail ((cmd_running_of_ne s hne).trans hd) 9 []
    have hself : ((running s r).cmdFail _ 9 []).cmd? r = some { c with phase := .running } :=
      ((onlyCmd_cmdFail (running s r) _ 9 []).2 r hne.symm).trans (cmd_running h)
    rw [ref_of_cmd hd]
    exact ⟨_, e, exec_abort_waiting h rfl hd hph hsilent hne, (cmd_modCmd_of_ne _ hne (f := fun x => { x with work := [1, d.seq] }) fun _ => rfl).trans hfailed,
      hphase, hstatus, hres, _, cmd_modCmd _ hself rfl, rfl, rfl⟩

end Sys2Proof.Machine

/-! PROOF. Resets and the link (11 R427, R483, R484; 15 R620; 18 R690). Whatever stopping a command undoes, and whatever a clear that goes on records, no
queue pair is set up by it, and the IDE streams stand. -/

namespace Sys2Proof.Machine

open Sys2Proof.Claims

/-! ### What stopping a command leaves of the link -/

/-- The IDE streams and the count of their failures. -/
def Sec.streams (e : Sec) : IdeStream × IdeStream × BitVec 32 := (e.ioIde, e.memIde, e.ideErr)

/-- Between two states no queue pair has been set up, and the IDE streams are the same. -/
structure NoNewQps (s t : State) : Prop where
  qps : ∀ j, lget s.host.qps j = none → lget t.host.qps j = none
  streams : t.sec.streams = s.sec.streams

namespace NoNewQps

theorem refl (s : State) : NoNewQps s s := ⟨fun _ => id, rfl⟩

theorem trans {s t u : State} (h : NoNewQps s t) (h' : NoNewQps t u) : NoNewQps s u := ⟨fun j hj => h'.qps j (h.qps j hj), h'.streams.trans h.streams⟩

theorem of_same {s t : State} (hq : t.host.qps = s.host.qps) (hs : t.sec.streams = s.sec.streams) : NoNewQps s t := ⟨fun j hj => by rw [hq]; exact hj, hs⟩

theorem foldl {α : Type} {f : State → α → State} (hf : ∀ s x, NoNewQps s (f s x)) (l : List α) (s : State) : NoNewQps s (l.foldl f s) :=
  List.foldlRecOn l f (motive := NoNewQps s) (refl s) fun t ht x _ => ht.trans (hf t x)

theorem modQp (s : State) (p q : Nat) (f : Qp → Qp) : NoNewQps s (s.modQp p q f) := ⟨fun _ => lget_modQp_none p q f, rfl⟩

theorem delQp (s : State) (p q : Nat) : NoNewQps s (s.delQp p q) := by
  refine ⟨fun j hj => ?_, (congrArg (·.sec.streams) (delQp_frame s p q).1 :)⟩
  rw [lget_delQp, hj, ite_self]

/-! ### Events and power states -/

theorem fbRecord (s : State) (code : Nat) (b : Bytes) : NoNewQps s (s.fbRecord code b) := by
  have halert : ((s.fbStore code b).alert code).host = s.host := (congrArg State.host (alert_frame (s.fbStore code b) code) :)
  refine ⟨fun j hj => ?_, (congrArg (·.sec.streams) (fbRecord_frame s code b) :)⟩
  unfold State.fbRecord
  dsimp only
  split
  · rw [halert]; exact hj
  · unfold State.freeze
    split
    · rw [halert]; exact hj
    · exact lget_nil j

theorem setEvt_qps (s : State) (b : Blk) (n : Nat) : (s.setEvt b n).host.qps = s.host.qps := by
  unfold State.setEvt
  dsimp only
  split
  · rfl
  split
  · rfl
  · exact List.foldlRecOn _ _ (motive := fun t : State => t.host.qps = s.host.qps) rfl fun t ht p _ => (sendMsi_cmds t p 64).2.trans ht

theorem raise (s : State) (b : Blk) (n code : Nat) (p : Bytes) : NoNewQps s (s.raise b n code p) :=
  have hevt : NoNewQps s ((s.setEvt b n).countErr b) := of_same (setEvt_qps s b n) (congrArg (·.sec.streams) (setEvt_frame s b n) :)
  hevt.trans (fbRecord _ _ _)

theorem wake (s : State) (p : Nat) : NoNewQps s (s.wake p) := by
  have hcap := capStep_frame s fun u => u.modHost fun h => { h with power := 0 }
  have hlow : NoNewQps s ((s.capStep fun u => u.modHost fun h => { h with power := 0 }).modDram fun d => { d with selfRefresh := [] }) :=
    of_same (congrArg (·.host.qps) hcap :) (congrArg (·.sec.streams) hcap :)
  unfold State.wake
  split
  · exact refl s
  · dsimp only
    split
    · exact hlow.trans (raise _ _ _ _ _)
    · exact hlow

theorem releaseTails (s : State) : NoNewQps s s.releaseTails := by
  refine trans (t := s.modHost fun h => { h with entering := none, tailHeld := false }) (of_same rfl rfl) (foldl (fun t e => ?_) _ _)
  split
  · exact refl t
  · exact (wake t _).trans ((modQp _ _ _ _).trans (modQp _ _ _ _))

/-! ### Contexts and the resident model -/

theorem endCtx (s : State) (x : Nat) (cx : Ctx) : NoNewQps s (s.endCtx x cx) :=
  of_same (congrArg (·.host.qps) (endCtx_frame s x cx) :) (congrArg (·.sec.streams) (endCtx_frame s x cx) :)

theorem allotAll {s t : State} {x : Nat} {cx : Ctx} {ks : List Nat} (h : s.allotAll x cx ks = some t) : NoNewQps s t := by
  induction ks generalizing s with
  | nil => cases h; exact refl _
  | cons k ks ih =>
    rw [State.allotAll] at h
    split at h
    · cases h
    · exact (of_same rfl rfl : NoNewQps s (State.setClu s k _)).trans (ih h)

theorem ctxAgain (s : State) (x : Nat) (cx : Ctx) : NoNewQps s (s.ctxAgain x cx) := by
  unfold State.ctxAgain
  extract_lets t u v
  have ht : NoNewQps s t := foldl (fun t c => by split <;> exact of_same rfl rfl) _ s
  have hu : NoNewQps t u := of_same (congrArg (·.host.qps) (releaseClus_frame t x cx.cores) :) (congrArg (·.sec.streams) (releaseClus_frame t x cx.cores) :)
  have hv : NoNewQps u v := by
    cases hall : u.allotAll x cx (clustersOfCores cx.cores) with
    | none => simp only [v, hall, Option.getD_none]; exact refl u
    | some w => simp only [v, hall, Option.getD_some]; exact allotAll hall
  exact ht.trans (hu.trans (hv.trans (of_same rfl rfl)))

theorem seqDrop (s : State) (q : SeqSt) : NoNewQps s (s.seqDrop q) := by
  unfold State.seqDrop
  extract_lets t
  have hframe := keptRelease_frame (t.modMdl fun m => { m with seqs := m.seqs.filter (·.id != q.id) }) q.ref
  exact of_same (congrArg (·.host.qps) hframe :) (congrArg (·.sec.streams) hframe :)

theorem reqFail (s : State) (r : CmdRef) (status embed : Nat) (result : Bytes) : NoNewQps s (s.reqFail r status embed result) := by
  unfold State.reqFail
  extract_lets t u
  have hu : NoNewQps s u := trans (t := t) (foldl seqDrop _ s) (of_same rfl rfl)
  refine hu.trans ?_
  split
  · exact refl u
  split <;> exact of_same rfl rfl

theorem travDrop (s : State) (e : Nat) : NoNewQps s (s.travDrop e) := by
  refine trans (t := s.modMdl fun m => { m with travs := ldel m.travs e }) (of_same rfl rfl) (foldl (fun t r => ?_) _ _)
  unfold State.unpinRun
  split <;> exact of_same rfl rfl

theorem stepFail (s : State) (e status embed : Nat) (result : Bytes) : NoNewQps s (s.stepFail e status embed result) :=
  have hdrop : NoNewQps s (s.stepDrop e) := of_same rfl rfl
  hdrop.trans ((travDrop _ e).trans ((foldl (fun t r => reqFail t r status embed result) _ _).trans (of_same rfl rfl)))

theorem teardown (s : State) (x : Nat) (cx : Ctx) : NoNewQps s (s.teardown x cx) := by
  have hcount (t : State) : NoNewQps t (t.modSched fun d => { d with teardownCnt := satBv d.teardownCnt 1 }) := of_same rfl rfl
  unfold State.teardown
  refine trans ?_ (hcount _)
  split
  · exact endCtx s x cx
  · exact (stepFail s _ _ _ _).trans (ctxAgain _ x cx)
  · exact ctxAgain s x cx

/-! ### Stopping a command (R478, R483) -/

theorem embedDrop (s : State) (r : CmdRef) : NoNewQps s (s.embedDrop r) := by
  have hawaits (t : State) : NoNewQps t t.finishAwaits := by
    refine trans (t := t.modGr _) (of_same rfl rfl) (foldl (fun u a => ?_) _ _)
    cases hsync : a.sync <;> exact of_same rfl rfl
  unfold State.embedDrop State.freeSlots
  dsimp only
  exact trans (t := s.modGr _) (of_same rfl rfl) ((hawaits _).trans (of_same rfl rfl))

theorem gradStop (s : State) (c : Cmd) : NoNewQps s (s.gradStop c) := by
  unfold State.gradStop
  split
  · exact refl s
  split <;> exact of_same rfl rfl

theorem loadStop (s : State) : NoNewQps s s.loadStop := by
  unfold State.loadStop
  split
  · exact of_same (congrArg HostL.qps (modelFree_host s)) (congrArg (·.sec.streams) (modelFree_frame s).1 :)
  · exact refl s

theorem genStop (s : State) (r : CmdRef) : NoNewQps s (s.genStop r) := by
  unfold State.genStop
  split
  · exact refl s
  dsimp only
  split
  · exact of_same rfl rfl
  · exact trans (t := s.modSeq _ _) (of_same rfl rfl) (foldl seqDrop _ _)

theorem flDrop (s : State) (r : CmdRef) : NoNewQps s (s.flDrop r) := by
  unfold State.flDrop
  exact (foldl (f := fun (t : State) (e : Nat × Invocation) => t.modCore e.1 Core.scrubbed) (fun t e => of_same rfl rfl) _ s).trans (of_same rfl rfl)

theorem stopWork (s : State) (c : Cmd) : NoNewQps s (s.stopWork c) := by
  unfold State.stopWork
  split
  · exact refl s
  · extract_lets t
    refine trans (t := t) (of_same rfl rfl) ?_
    split
    · exact releaseTails t
    · split
      · exact embedDrop t c.ref
      · exact refl t
    · exact flDrop t c.ref
    · split <;> exact of_same rfl rfl
    · exact of_same rfl rfl
    · exact of_same rfl rfl
    · exact gradStop t c
    · exact loadStop t
    · exact genStop t c.ref
    · exact of_same rfl rfl
    · exact of_same rfl rfl
    · split
      · exact refl t
      · split
        · exact teardown t _ _
        · exact endCtx t _ _
    · exact of_same rfl rfl
    · exact refl t

theorem closeCmd (s : State) (c : Cmd) : NoNewQps s (s.closeCmd c) := by
  unfold State.closeCmd
  split
  · unfold State.upClose
    split <;> exact of_same rfl rfl
  · exact refl s

theorem dropCmd (s : State) (c : Cmd) : NoNewQps s (s.dropCmd c) := by
  unfold State.dropCmd
  split
  · exact (stopWork s c).trans (of_same rfl rfl)
  split
  · exact of_same rfl rfl
  · exact trans (t := s.modGr _) (of_same rfl rfl) ((closeCmd _ c).trans (of_same rfl rfl))

/-! ### Clears of the Field Book (16 R665) -/

theorem clearsRun (s : State) : NoNewQps s s.clearsRun := by
  refine foldl (fun t c => ?_) _ s
  split
  · exact refl t
  · unfold State.clearNow
    extract_lets gone ent v
    exact trans (t := v) (of_same rfl rfl) ((fbRecord v _ _).trans (of_same rfl rfl))

end NoNewQps

/-! ### The queue pairs of one logical device (R483) -/

/-- The state without the queue pairs of a logical device. -/
def State.withoutQps (s : State) (p : Nat) : State := (s.qpsOf p).foldl (fun v e => v.delQp p (e.1 % 64)) s

theorem withoutQps_frame (s : State) (p : Nat) : onlyHost s (s.withoutQps p) ∧ (s.withoutQps p).host.cmds = s.host.cmds :=
  List.foldlRecOn (s.qpsOf p) _ (motive := fun t : State => onlyHost s t ∧ t.host.cmds = s.host.cmds) ⟨rfl, rfl⟩ fun t ⟨hframe, hcmds⟩ e _ =>
    ⟨onlyHost_trans hframe (delQp_frame t p (e.1 % 64)).1, (delQp_frame t p (e.1 % 64)).2.trans hcmds⟩

theorem lget_foldl_delQp (p j : Nat) (l : List (Nat × Qp)) (s : State) : lget (l.foldl (fun v e => v.delQp p (e.1 % 64)) s).host.qps j =
    if ∃ e ∈ l, j = qpKey p (e.1 % 64) then none else lget s.host.qps j := by
  induction l generalizing s with
  | nil => simp
  | cons e l ih =>
    rw [List.foldl_cons, ih, lget_delQp]
    by_cases he : j = qpKey p (e.1 % 64)
    · simp [he]
    · simp only [List.mem_cons, exists_eq_or_imp, he, false_or, if_false]

/-- Queue pairs of other logical devices stay. -/
theorem lget_withoutQps_of_ne (s : State) {p j : Nat} (hj : j / 64 ≠ p) : lget (s.withoutQps p).host.qps j = lget s.host.qps j := by
  rw [State.withoutQps, lget_foldl_delQp, if_neg]
  rintro ⟨e, -, rfl⟩
  have := Nat.mod_lt e.1 (show 0 < 64 by decide)
  simp only [qpKey] at hj
  omega

theorem qp_withoutQps (s : State) (p : Nat) {q : Nat} (hq : q < 64) : (s.withoutQps p).qp? p q = none := by
  rw [State.qp?, State.withoutQps, lget_foldl_delQp]
  split
  · rfl
  · next hnone =>
    cases hget : lget s.host.qps (qpKey p q) with
    | none => rfl
    | some k =>
      obtain ⟨e, hfind, rfl⟩ := Option.map_eq_some_iff.mp hget
      have hkey : e.1 = qpKey p q := by simpa using List.find?_some hfind
      have hmem := List.mem_of_find?_eq_some hfind
      refine absurd ⟨e, List.mem_filter.mpr ⟨hmem, ?_⟩, ?_⟩ hnone
      · simp only [hkey, qpKey, beq_iff_eq]; omega
      · simp only [hkey, qpKey]; omega

/-! ### Reset of one logical device (R483; 17 R681) -/

/-- The state with the commands of a logical device stopped that have a completion to come. -/
def State.stopped (s : State) (p : Nat) : State := (s.host.cmds.filter fun c => c.ref.part == p && ! c.silent).foldl State.dropCmd s

/-- The state with the NQP instance of a logical device as at reset. -/
def State.nqpReset (s : State) (p : Nat) : State :=
  let t := s.modHost fun h => { h with
    qp0Desc := h.qp0Desc.filter fun e => e.1 / 16 != p, qp0Err := h.qp0Err &&& ~~~ (BitVec.ofNat 16 (2 ^ p))
    msixDue := h.msixDue.filter (fun k => k / 65 != p), msixMask := h.msixMask.filter (fun k => k / 65 != p)
    msixPend := h.msixPend.filter fun k => k / 65 != p }
  { t with pages := t.pages.filter fun e => e.1 != 0x10000 + p }

theorem resetLd_eq (s : State) (p : Nat) : s.resetLd p = ((((s.stopped p).withoutQps p).nqpReset p).unstall p).clearsRun := rfl

theorem NoNewQps.unstall (s : State) (p : Nat) : NoNewQps s (s.unstall p) :=
  of_same (congrArg (·.host.qps) (unstall_frame s p) :) (congrArg (·.sec.streams) (unstall_frame s p) :)

theorem NoNewQps.nqpReset (s : State) (p : Nat) : NoNewQps s (s.nqpReset p) := of_same rfl rfl

theorem NoNewQps.resetLd (s : State) (p : Nat) : NoNewQps s (s.resetLd p) := by
  rw [resetLd_eq]
  exact (foldl dropCmd _ s).trans ((foldl (fun t e => delQp t p _) _ _).trans ((nqpReset _ p).trans ((unstall _ p).trans (clearsRun _))))

/-- After the reset of a logical device it has no queue pair. -/
theorem qp_resetLd (s : State) (p : Nat) {q : Nat} (hq : q < 64) : (s.resetLd p).qp? p q = none := by
  rw [resetLd_eq]
  exact ((NoNewQps.nqpReset _ p).trans ((NoNewQps.unstall _ p).trans (NoNewQps.clearsRun _))).qps _ (qp_withoutQps _ p hq)

theorem mget_filter_ne {α : Type} (d : α) (m : NMap α) (keep : Nat → Bool) (x : Nat) :
    mget d (m.filter fun e => keep e.1) x = if keep x then mget d m x else d := by
  induction m with
  | nil => simp [mget]
  | cons e m ih =>
    obtain ⟨k, v⟩ := e
    rw [List.filter_cons]
    by_cases hx : x = k
    · subst hx
      cases hk : keep x <;> simp [hk, mget, ih]
    · cases hk : keep k <;> simp [mget, ih, hx]

/-! ### A logical device whose commands have not started -/

/-- A command that has not started: it waits for its slot, its data or its blocks, or is admitted. -/
def Cmd.unstarted (c : Cmd) : Prop := c.phase = .wantSlot ∨ c.phase = .wantData ∨ c.phase = .wantBlocks ∨ c.phase = .admitted

/-- A command that has not started is forgotten, with nothing to undo. -/
theorem dropCmd_unstarted {s : State} {c : Cmd} (h : c.unstarted) : s.dropCmd c = s.forget c.ref := by
  obtain h | h | h | h := h <;> simp [State.dropCmd, State.caught, State.stopWork, h]

theorem foldl_dropCmd_unstarted {l : List Cmd} (h : ∀ c ∈ l, c.unstarted) (s : State) : l.foldl State.dropCmd s =
    s.modHost fun x => { x with cmds := x.cmds.filter fun d => ! l.any fun c => d.ref == c.ref } := by
  induction l generalizing s with
  | nil => simp [State.modHost]
  | cons c l ih =>
    rw [List.foldl_cons, dropCmd_unstarted (h c List.mem_cons_self), ih fun d hd => h d (List.mem_cons_of_mem _ hd), State.forget]
    simp only [State.modHost, List.filter_filter, List.any_cons, Bool.not_or]
    congr 3
    funext d
    rw [Bool.and_comm]
    rfl

section
variable {s : State} {p : Nat} (hwait : ∀ c ∈ s.host.cmds, c.ref.part = p → c.silent = false ∧ c.unstarted)
include hwait

theorem stopped_unstarted : s.stopped p = s.modHost fun x => { x with cmds := x.cmds.filter fun c => c.ref.part != p } := by
  have hall : ∀ c ∈ s.host.cmds.filter (fun c => c.ref.part == p && ! c.silent), c.unstarted := by
    intro c hc
    obtain ⟨hmem, hpart⟩ := List.mem_filter.mp hc
    simp only [Bool.and_eq_true, beq_iff_eq] at hpart
    exact (hwait c hmem hpart.1).2
  rw [State.stopped, foldl_dropCmd_unstarted hall]
  simp only [State.modHost]
  congr 2
  refine List.filter_congr fun d hd => ?_
  by_cases hpart : d.ref.part = p
  · have hany : (s.host.cmds.filter fun c => c.ref.part == p && ! c.silent).any (fun c => d.ref == c.ref) = true :=
      List.any_eq_true.mpr ⟨d, List.mem_filter.mpr ⟨hd, by simp [hpart, (hwait d hd hpart).1]⟩, by simp⟩
    simp [hany, hpart]
  · have hany : (s.host.cmds.filter fun c => c.ref.part == p && ! c.silent).any (fun c => d.ref == c.ref) = false := by
      refine List.any_eq_false.mpr fun c hc hsame => hpart ?_
      obtain ⟨-, hc⟩ := List.mem_filter.mp hc
      simp only [Bool.and_eq_true, beq_iff_eq] at hc hsame
      rw [hsame, hc.1]
    simp [hany, hpart]

/-- A logical device of which no command has started, in a module without a clear that waits, is reset with nothing to undo. -/
theorem resetLd_unstarted (hclears : s.sec.clears = []) : s.resetLd p = (((s.stopped p).withoutQps p).nqpReset p).unstall p := by
  have hqps := (withoutQps_frame (s.stopped p) p).1
  have hunstall := unstall_frame (((s.stopped p).withoutQps p).nqpReset p) p
  rw [resetLd_eq]
  exact clearsRun_idle ((congrArg (·.sec.clears) hunstall :).trans ((congrArg (·.sec.clears) hqps :).trans (by rw [stopped_unstarted hwait, modHost_sec, hclears])))

theorem resetLd_frame (hclears : s.sec.clears = []) : { s.resetLd p with host := s.host, pages := s.pages, sched := s.sched } = s := by
  have hstop : { s.stopped p with host := s.host, pages := s.pages, sched := s.sched } = s := by rw [stopped_unstarted hwait]; rfl
  have hqps := (withoutQps_frame (s.stopped p) p).1
  have hunstall := unstall_frame (((s.stopped p).withoutQps p).nqpReset p) p
  rw [resetLd_unstarted hwait hclears]
  exact (congrArg (fun t : State => { t with host := s.host, pages := s.pages, sched := s.sched }) hunstall :).trans
    ((congrArg (fun t : State => { t with host := s.host, pages := s.pages, sched := s.sched }) hqps :).trans hstop)

theorem resetLd_host (hclears : s.sec.clears = []) : (s.resetLd p).host = (((s.stopped p).withoutQps p).nqpReset p).host := by
  rw [resetLd_unstarted hwait hclears]
  exact unstall_host _ _

theorem stopped_host : (s.stopped p).host = { s.host with cmds := s.host.cmds.filter fun c => c.ref.part != p } := by
  rw [stopped_unstarted hwait, modHost_host]

theorem cmds_resetLd (hclears : s.sec.clears = []) : (s.resetLd p).host.cmds = s.host.cmds.filter fun c => c.ref.part != p := by
  rw [resetLd_host hwait hclears]
  refine Eq.trans (withoutQps_frame (s.stopped p) p).2 ?_
  rw [stopped_host hwait]

theorem page_resetLd (hclears : s.sec.clears = []) (n : Nat) : (s.resetLd p).page n = if n = 0x10000 + p then {} else s.page n := by
  have hpages : (s.resetLd p).pages = s.pages.filter fun e => e.1 != 0x10000 + p := by
    have hqps : ((s.stopped p).withoutQps p).pages = s.pages :=
      (congrArg State.pages (withoutQps_frame (s.stopped p) p).1 :).trans (by rw [stopped_unstarted hwait, modHost_pages])
    rw [resetLd_unstarted hwait hclears, ← hqps]
    exact (congrArg State.pages (unstall_frame _ p) :)
  rw [State.page, hpages, mget_filter_ne {} s.pages (· != 0x10000 + p) n]
  by_cases hn : n = 0x10000 + p <;> simp [hn, State.page]

theorem lget_resetLd_of_ne (hclears : s.sec.clears = []) {j : Nat} (hj : j / 64 ≠ p) : lget (s.resetLd p).host.qps j = lget s.host.qps j := by
  rw [resetLd_host hwait hclears]
  refine Eq.trans (lget_withoutQps_of_ne (s.stopped p) hj) ?_
  rw [stopped_host hwait]

theorem qp0Desc_resetLd (hclears : s.sec.clears = []) {i : Nat} (hi : i < 16) : mget 0 (s.resetLd p).host.qp0Desc (p * 16 + i) = 0 := by
  have hdesc : (s.resetLd p).host.qp0Desc = ((s.stopped p).withoutQps p).host.qp0Desc.filter fun e => e.1 / 16 != p := by
    rw [resetLd_host hwait hclears]
    rfl
  rw [hdesc, mget_filter_ne 0 _ (fun k => k / 16 != p), if_neg]
  have : (p * 16 + i) / 16 = p := by omega
  simp [this]

end

/-! ### The link down (R484) -/

/-- The state with logical devices reset one after the other. -/
def State.ldsReset (s : State) (l : List Nat) : State := l.foldl State.resetLd s

/-- The state with the link down. -/
def State.unlinked (s : State) : State := (s.modHost fun h => { h with rate := 0, width := 0 }).modSys fun y => { y with linkUp := false, ready := false }

theorem linkDown_eq (s : State) : s.linkDown = (s.ldsReset (List.range 16)).unlinked := rfl

theorem sys_unlinked (s : State) : s.unlinked.sys = { s.sys with linkUp := false, ready := false } := rfl

theorem host_unlinked (s : State) : s.unlinked.host = { s.host with rate := 0, width := 0 } := rfl

theorem unlinked_frame (s : State) : { s.unlinked with sys := s.sys, host := s.host } = s := rfl

theorem NoNewQps.ldsReset (s : State) (l : List Nat) : NoNewQps s (s.ldsReset l) := foldl resetLd l s

/-- Once each of some logical devices has been reset, none of them has a queue pair. -/
theorem qp_ldsReset (s : State) {l : List Nat} {p q : Nat} (hp : p ∈ l) (hq : q < 64) : (s.ldsReset l).qp? p q = none := by
  induction l generalizing s with
  | nil => cases hp
  | cons a l ih =>
    rw [State.ldsReset, List.foldl_cons]
    obtain rfl | hp := List.mem_cons.mp hp
    · exact (NoNewQps.ldsReset _ l).qps _ (qp_resetLd s p hq)
    · exact ih _ hp

/-- Without a command and a clear that waits, a reset of logical devices reaches the link, the NQP pages and the STALL bits alone. -/
theorem ldsReset_idle {s : State} (hcmds : s.host.cmds = []) (hclears : s.sec.clears = []) (l : List Nat) :
    { s.ldsReset l with host := s.host, pages := s.pages, sched := s.sched } = s ∧ (s.ldsReset l).host.cmds = [] := by
  refine List.foldlRecOn l State.resetLd (motive := fun t : State => { t with host := s.host, pages := s.pages, sched := s.sched } = s ∧ t.host.cmds = [])
    ⟨rfl, hcmds⟩ fun t ⟨hframe, hnone⟩ p _ => ?_
  have hwait : ∀ c ∈ t.host.cmds, c.ref.part = p → c.silent = false ∧ c.unstarted := by rw [hnone]; exact fun c hc => absurd hc List.not_mem_nil
  have hclears' : t.sec.clears = [] := (congrArg (·.sec.clears) hframe :).trans hclears
  refine ⟨(congrArg (fun u : State => { u with host := s.host, pages := s.pages, sched := s.sched }) (resetLd_frame hwait hclears') :).trans hframe, ?_⟩
  rw [cmds_resetLd hwait hclears', hnone]
  rfl

theorem qp_linkDown (s : State) {p q : Nat} (hp : p < 16) (hq : q < 64) : s.linkDown.qp? p q = none := by
  have hnone := qp_ldsReset s (List.mem_range.mpr hp) hq
  rw [linkDown_eq]
  generalize s.ldsReset (List.range 16) = t at hnone ⊢
  exact hnone

theorem streams_linkDown (s : State) : s.linkDown.sec.streams = s.sec.streams := by
  have hkept := (NoNewQps.ldsReset s (List.range 16)).streams
  rw [linkDown_eq]
  generalize s.ldsReset (List.range 16) = t at hkept ⊢
  exact (congrArg (·.sec.streams) (unlinked_frame t) :).trans hkept

/-- Without a command and a clear that waits, the link goes down, and the cores and the DRAM stand. -/
theorem linkDown_idle {s : State} (hcmds : s.host.cmds = []) (hclears : s.sec.clears = []) :
    s.linkDown.sys = { s.sys with linkUp := false, ready := false } ∧ s.linkDown.cores = s.cores ∧ s.linkDown.dram = s.dram := by
  obtain ⟨hframe, -⟩ := ldsReset_idle hcmds hclears (List.range 16)
  rw [linkDown_eq]
  generalize s.ldsReset (List.range 16) = t at hframe ⊢
  have hsys : t.sys = s.sys := (congrArg State.sys hframe :)
  rw [sys_unlinked, hsys]
  exact ⟨rfl, (congrArg State.cores (unlinked_frame t) :).trans (congrArg State.cores hframe :),
    (congrArg State.dram (unlinked_frame t) :).trans (congrArg State.dram hframe :)⟩

/-- The link is down, without a rate and a width. -/
theorem linkDown_down (s : State) : s.linkDown.sys.linkUp = false ∧ s.linkDown.sys.ready = false ∧ s.linkDown.host.rate = 0 ∧ s.linkDown.host.width = 0 := by
  rw [linkDown_eq]
  generalize s.ldsReset (List.range 16) = t
  exact ⟨rfl, rfl, rfl, rfl⟩

/-! ### The statement's clauses -/

section
variable {s : State}

theorem exec_functionLevelReset {p : Nat} (hp : p < 16) (hup : s.ldUp p = true) : exec (.functionLevelReset p) s = next (s.resetLd p) := by
  simp only [exec, execFunctionLevelReset]
  rw [guardUnit_pos (partOk_of_lt hp), if_pos hup]

/-- The state as PERST_N stands when a link reset begins. -/
def State.perstHeld (s : State) (perst : Bool) : State := if perst then s.modSys fun y => { y with perstN := false } else s

theorem exec_linkReset (perst : Bool) (hup : s.alive 6 = true) : exec (.linkReset perst) s = next (s.perstHeld perst).linkDown := by
  have hup' : (s.perstHeld perst).alive 6 = true := by unfold State.perstHeld; split <;> exact hup
  simp only [exec, execLinkReset]
  exact congrArg next (if_pos hup')

theorem linkReset_drops_link (perst : Bool) (hup : s.alive 6 = true) : ∃ t, exec (.linkReset perst) s = next t ∧
    (∀ p q, p < 16 → q < 64 → t.qp? p q = none) ∧ t.sys.linkUp = false ∧ t.sys.ready = false ∧ t.host.rate = 0 ∧ t.host.width = 0 ∧
    (s.host.cmds = [] → s.sec.clears = [] → t.sys = { s.sys with perstN := if perst then false else s.sys.perstN, linkUp := false, ready := false } ∧
      t.cores = s.cores ∧ t.dram = s.dram) := by
  obtain ⟨hlink, hready, hrate, hwidth⟩ := linkDown_down (s.perstHeld perst)
  refine ⟨_, exec_linkReset perst hup, fun p q hp hq => qp_linkDown _ hp hq, hlink, hready, hrate, hwidth, fun hcmds hclears => ?_⟩
  have hheld : (s.perstHeld perst).host = s.host ∧ (s.perstHeld perst).sec = s.sec ∧ (s.perstHeld perst).cores = s.cores ∧
      (s.perstHeld perst).dram = s.dram ∧ (s.perstHeld perst).sys = { s.sys with perstN := if perst then false else s.sys.perstN } := by
    cases perst <;> exact ⟨rfl, rfl, rfl, rfl, rfl⟩
  obtain ⟨hhost, hsec, hcores, hdram, hsys⟩ := hheld
  obtain ⟨hdown, hcores', hdram'⟩ := linkDown_idle (s := s.perstHeld perst) (by rw [hhost, hcmds]) (by rw [hsec, hclears])
  exact ⟨hdown.trans (by rw [hsys]), hcores'.trans hcores, hdram'.trans hdram⟩

theorem exec_perstNRelease (s : State) :
    exec .perstNRelease s = next { s with sys := { s.sys with perstN := true, linkUp := s.sys.linkUp || s.alive 6 } } := by
  have hup : (s.modSys fun y => { y with perstN := true }).alive 6 = s.alive 6 := rfl
  simp only [exec, execPerstNRelease, hup]
  split
  · next h => rw [h, Bool.or_true]; rfl
  · next h => rw [Bool.eq_false_of_not_eq_true h, Bool.or_false]; rfl

/-- The state with the link trained to a rate and a width. -/
def State.trained (s : State) (switched : Bool) (rate : BitVec 2) (width : BitVec 5) : State :=
  (({ s with free := s.free + 3 }).modSys fun y => { y with linkUp := true, ready := true, switched := switched }).modHost fun h =>
    { h with rate := rate, width := width }

theorem exec_linkReady (hup : s.alive 6 = true) (hperst : s.sys.perstN = true) : exec .linkReady s = next (s.trained
    (Config.freeNat (s.free + 2) % 2 == 1) (BitVec.ofNat 2 (1 + Config.freeNat s.free % 3))
    (BitVec.ofNat 5 ([16, 8, 4].getD (Config.freeNat (s.free + 1) % 3) 16))) := by
  simp only [exec, execLinkReady, hup, hperst]
  rfl

/-- A rate and a width of Table 11.1. -/
theorem rate_of_mod (n : Nat) : BitVec.ofNat 2 (1 + n % 3) = 1 ∨ BitVec.ofNat 2 (1 + n % 3) = 2 ∨ BitVec.ofNat 2 (1 + n % 3) = 3 := by
  have hn := Nat.mod_lt n (show 0 < 3 by decide)
  interval_cases n % 3 <;> decide

theorem width_of_mod (n : Nat) : BitVec.ofNat 5 ([16, 8, 4].getD (n % 3) 16) = 16 ∨ BitVec.ofNat 5 ([16, 8, 4].getD (n % 3) 16) = 8 ∨
    BitVec.ofNat 5 ([16, 8, 4].getD (n % 3) 16) = 4 := by
  have hn := Nat.mod_lt n (show 0 < 3 by decide)
  interval_cases n % 3 <;> decide

theorem exec_configurationRequest {p : Nat} (hp : p < 16) (hup : s.alive 6 = true) (hlink : s.sys.linkUp = true) (hthere : s.sys.switched = true ∨ p = 0) :
    exec (.configurationRequest p) s = next { s with host := { s.host with refused := ! s.sys.ready } } := by
  have hreach : (s.sys.switched || p == 0) = true := by simpa using hthere
  simp only [exec, execConfigurationRequest]
  rw [guardUnit_pos (partOk_of_lt hp), hup, hlink, hreach]
  rfl

/-- The state with a stream insecure and the failure counted (15 R620). -/
def State.streamFailed (s : State) (b : Bool) : State :=
  (s.setIde b { s.ide b with active := none }).modSec fun e => { e with ideErr := satBv e.ideErr 1 }

theorem exec_ideIntegrityFailure {n : Nat} (hn : n < 2) (hup : s.ldUp 0 = true) (hactive : (s.ide (n == 1)).active.isSome = true) :
    exec (.ideIntegrityFailure n) s = next ((s.streamFailed (n == 1)).raise .sec 0 0xB001 (words [n])).linkDown := by
  simp only [exec, execIdeIntegrityFailure]
  rw [guardUnit_pos (decide_eq_true hn), hup, hactive]
  rfl

theorem ide_congr {s t : State} (h : t.sec.streams = s.sec.streams) (b : Bool) : t.ide b = s.ide b ∧ t.sec.ideErr = s.sec.ideErr := by
  simp only [Sec.streams, Prod.mk.injEq] at h
  obtain ⟨hio, hmem, herr⟩ := h
  cases b
  · exact ⟨hio, herr⟩
  · exact ⟨hmem, herr⟩

theorem ideIntegrityFailure_insecure {n : Nat} (hn : n < 2) (hup : s.ldUp 0 = true) (hactive : (s.ide (n == 1)).active.isSome = true) :
    ∃ t, exec (.ideIntegrityFailure n) s = next t ∧ (t.ide (n == 1)).active = none ∧ t.sec.ideErr = satBv s.sec.ideErr 1 ∧ t.sys.linkUp = false := by
  have hstreams : ((s.streamFailed (n == 1)).raise .sec 0 0xB001 (words [n])).linkDown.sec.streams = (s.streamFailed (n == 1)).sec.streams :=
    (streams_linkDown _).trans (NoNewQps.raise _ _ _ _ _).streams
  obtain ⟨hide, herr⟩ := ide_congr hstreams (n == 1)
  obtain ⟨hlink, -, -, -⟩ := linkDown_down ((s.streamFailed (n == 1)).raise .sec 0 0xB001 (words [n]))
  have hfailed : ((s.streamFailed (n == 1)).ide (n == 1)).active = none ∧ (s.streamFailed (n == 1)).sec.ideErr = satBv s.sec.ideErr 1 := by
    cases n == 1 <;> exact ⟨rfl, rfl⟩
  exact ⟨_, exec_ideIntegrityFailure hn hup hactive, by rw [hide]; exact hfailed.1, herr.trans hfailed.2, hlink⟩

end

/-- Settles O31: a reset is that of its logical devices, one after the other, and the events of the link are one change each. -/
theorem resets : Obligations.Resets := by
  refine ⟨fun s p hp hup hclears hwait => ?flr, fun s perst hup => linkReset_drops_link perst hup,
    fun s p hp hup => ⟨_, exec_functionLevelReset hp hup, fun q hq => qp_resetLd s p hq⟩, exec_perstNRelease, fun s hup hperst => ?ready,
    fun s p hp hup hlink hthere => exec_configurationRequest hp hup hlink hthere, fun s n hn hup hactive => ideIntegrityFailure_insecure hn hup hactive⟩
  case flr =>
    have hframe := resetLd_frame hwait hclears
    have hcmds := cmds_resetLd hwait hclears
    have hpage := page_resetLd hwait hclears
    refine ⟨_, exec_functionLevelReset hp hup, fun c hc => ?_, fun q hq => qp_resetLd s p hq, fun j hj => lget_resetLd_of_ne hwait hclears hj,
      fun c hc hpart => ?_, (hpage _).trans (if_pos rfl), fun n hn => (hpage n).trans (if_neg hn), fun i hi => qp0Desc_resetLd hwait hclears hi,
      (congrArg State.cores hframe :), (congrArg State.dram hframe :), (congrArg State.gr hframe :), (congrArg State.gz hframe :),
      (congrArg State.atl hframe :), (congrArg State.mdl hframe :), (congrArg State.sys hframe :)⟩
    · rw [hcmds] at hc
      simpa using (List.mem_filter.mp hc).2
    · rw [hcmds]
      exact List.mem_filter.mpr ⟨hc, by simpa using hpart⟩
  case ready =>
    exact ⟨_, exec_linkReady hup hperst, ⟨_, rfl⟩, rate_of_mod _, width_of_mod _, rfl⟩

end Sys2Proof.Machine
